-- ==== Sys2Proof/Word.lean ====
section
/-! DEFINITION. The word and byte types of the ENX-SW1 (R8) and their plainest arithmetic. -/

namespace Sys2Proof

/-- A register or memory word of control space (R8). -/
abbrev Word := BitVec 64

/-- A byte of memory, of a packet or of an image. -/
abbrev Byte := BitVec 8

/-- A word from a natural number, modulo 2^64. -/
def Word.ofNat (n : Nat) : Word := BitVec.ofNat 64 n

end Sys2Proof
end

