-- ==== Sys2Proof/Syntax.lean ====
section
/-! DEFINITION. The commands of the block: one constructor of `Instr` for each row of spec/opcode_table.json, with what the
row's sender supplies. Arguments that software places in registers first (the ARG registers of a command block) are read
from the state and are no operand. Physical findings (corrupted symbols, margins, lanes) are operands (log entry 5). -/

namespace Sys2Proof

/-- Who makes a register access or a command (R21, R272). -/
inductive Accessor where
  | mgt (core : Fin 8)
  | sp
  | vc3
deriving DecidableEq, Repr

abbrev CtxSlot := Fin 32
abbrev TileIx := Fin 576
abbrev LinkIx := Fin 6
abbrev StackIx := Fin 8
abbrev VaultIx := Fin 4
abbrev PortIx := Fin 2
abbrev RegionIx := Fin 16
/-- A chip coordinate in the layout of R158. -/
abbrev Coord := BitVec 15

/-- What the error codes find on the words a step reads: corrupted symbols of a word by its address (the address the
step reads it by), and words that return CXL poison (R242, R252); the cycles that it waits for SRAM banks (R72), and the mesh cycles that its
unscheduled flits wait for outputs (R294). A word not listed reads clean. -/
structure Findings where
  syms   : List (Nat × Nat) := []
  poison : List Nat := []
  waits  : Nat := 0
  mesh   : Nat := 0
deriving DecidableEq, Repr

/-- The units of a tile that have a queue (R100). -/
inductive UnitId where
  | tensor | vector | func | requant
  | load (q : Fin 4)
  | store (q : Fin 2)
  | router | engine
deriving DecidableEq, Repr

/-- A clock multiplexer (R377, R381). -/
inductive MuxId where
  | region (r : RegionIx)
  | mgt
  | sp
deriving DecidableEq, Repr

/-- An address outside every target: in control space, or in the cores' physical map (R41, R416). -/
inductive AbsentAddr where
  | control (addr : BitVec 32)
  | physical (pa : BitVec 64)
deriving DecidableEq, Repr

/-- The body of a LAUNCH packet (R363) with the coordinate of the chip that sent it. -/
structure LaunchMsg where
  src       : Coord
  attempt   : BitVec 8 := 0
  status    : BitVec 8 := 0
  reason    : BitVec 8 := 0
  part      : BitVec 16
  gen       : BitVec 8
  origin    : BitVec 15 := 0
  extent    : BitVec 15 := 0
  coord     : Coord := 0
  resume    : Bool := false
  cause     : BitVec 8 := 0
  deadline  : Word := 0
  tlOrP     : Word := 0
  imageId   : List Byte := []
  failCoord : Coord := 0
  failNone  : Bool := true
deriving DecidableEq, Repr

/-- A batch row (R216). -/
structure BatchRow where
  handle  : BitVec 32
  role    : BitVec 2
  samples : Bool
  pos     : BitVec 4
  dlen    : BitVec 4
  collect : BitVec 4
  tailor  : BitVec 16
  kvidx   : BitVec 32
  poff    : BitVec 32
  plen    : BitVec 32
deriving DecidableEq, Repr

/-- The parameter block of a request (R210). -/
structure ParamBlock where
  seed      : List Byte
  invTemp   : Nat
  topk      : Nat
  topp      : Nat
  rep       : Nat
  pres      : Nat
  freq      : Nat
  penWindow : Nat
  draftLen  : Nat
  maxNew    : Nat
deriving DecidableEq, Repr

/-- A step message (R215). -/
structure StepMsg where
  step     : Nat
  variant  : BitVec 8
  rows     : List BatchRow
  params   : List (BitVec 32 × ParamBlock)
  releases : List (BitVec 32)
deriving DecidableEq, Repr

/-- What the power-up sequence finds (R449 steps 4 to 6): the reference, tiles and blocks that fail self-test
(blocks by their source identifier, R26), HBM stacks that fail training, a Swatch mismatch, the damaged flash
slots and the bytes of the two firmware slots' headers are in the state. -/
structure PowerUpFindings where
  refOk        : Bool := true
  failedTiles  : List TileIx := []
  failedBlocks : List Nat := []
  failedHbm    : List StackIx := []
  swatchBad    : Bool := false
deriving DecidableEq, Repr

/-- A received management port frame (R420): its bytes from the destination address on, less the FCS. -/
structure MgtFrame where
  bytes : List Byte
  fcsOk : Bool := true
  fecOk : Bool := true
deriving DecidableEq, Repr

/-- The health data of Get Health Info and the count of event records read (R250, R267). -/
structure CxlHealth where
  status  : Byte
  media   : Byte
  life    : Byte
  temp    : BitVec 16
  events  : Nat
deriving DecidableEq, Repr

/-- The commands of the block, in the order of spec/opcode_table.json. -/
inductive Instr where
  | registerWrite (acc : Accessor) (addr : BitVec 32) (value : Word)
  | rcRegisterRead (acc : Accessor) (addr : BitVec 32)
  | misaligned (acc : Accessor) (addr : BitVec 32) (bytes : Nat) (write : Bool)
  | absentTarget (acc : Accessor) (addr : AbsentAddr) (write : Bool)
  | expertUnlock (acc : Accessor) (addr : BitVec 32) (value : Word)
  | timMtSet (acc : Accessor) (value : Word)
  | rootEnWrite (acc : Accessor) (value : Word)
  | ppsEdge
  | todByteReceive (b : Byte)
  | mtSlewTick
  | planStart (k : CtxSlot)
  | planCycleExecute (k : CtxSlot)
  | frostTimeout (k : CtxSlot)
  | timCtxResume (acc : Accessor) (k : CtxSlot) (value : Word)
  | streamLineFetch (t : TileIx) (found : Findings)
  | unitStart (t : TileIx) (u : UnitId) (bankWaits : Nat) (found : Findings)
  | macroOpComplete (t : TileIx) (u : UnitId)
  | nop (t : TileIx)
  | wait (t : TileIx)
  | signal (t : TileIx)
  | fence (t : TileIx)
  | stepEnd (t : TileIx)
  | endOp (t : TileIx)
  | sleep (t : TileIx)
  | wakeHint (t : TileIx)
  | tileWakeComplete (t : TileIx)
  | load (t : TileIx) (q : Fin 4) (nth : Fin 32) (found : Findings)
  | store (t : TileIx) (q : Fin 2) (nth : Fin 32) (found : Findings)
  | move (t : TileIx) (found : Findings)
  | send (t : TileIx) (found : Findings)
  | recv (t : TileIx) (waits : Nat)
  | matmul (t : TileIx) (found : Findings)
  | attn (t : TileIx) (found : Findings)
  | norm (t : TileIx) (found : Findings)
  | act (t : TileIx) (found : Findings)
  | softmax (t : TileIx) (found : Findings)
  | requant (t : TileIx) (found : Findings)
  | vec (t : TileIx) (found : Findings)
  | tailorApply (t : TileIx) (found : Findings)
  | vaultGemv (t : TileIx)
  | vaultStream (t : TileIx)
  | tailorGather (t : TileIx) (found : Findings)
  | sample (t : TileIx) (found : Findings)
  | sampleCollect (t : TileIx)
  | batchFetch (t : TileIx) (found : Findings)
  | vaultRequestStart (v : VaultIx) (k : CtxSlot) (found : Findings)
  | syncWatchArm (acc : Accessor) (t : TileIx) (w : Fin 3) (value : Word)
  | syncWatchTimeout (t : TileIx) (w : Fin 3)
  | meshFlitDeliver (t : TileIx) (stream : Fin 64) (waits : Nat)
  | receiveTreeWrite (l : LinkIx) (bufferUe : Bool) (waits : Nat)
  | vc0FlitReceive (l : LinkIx) (slot : Fin 62) (flit : List Byte) (signal : Option (BitVec 6 × BitVec 32))
  | packetReceive (l : LinkIx) (vc : Fin 4)
  | resendReq (src : Coord) (seq : BitVec 16) (part : BitVec 16)
  | routeBankUnlock (k : CtxSlot)
  | regReq (src : Coord) (write : Bool) (addr : BitVec 32) (value : Word) (bytes : Nat)
  | regResp (value : Word)
  | linkControlFlit (l : LinkIx) (flit : List Byte) (arrival : Nat)
  | replayFlitReceive (l : LinkIx) (orig : BitVec 6) (flit : List Byte) (signal : Option (BitVec 6 × BitVec 32))
  | replayTimerExpiry (l : LinkIx) (fn : BitVec 12)
  | ackStall (l : LinkIx)
  | laneCheck (l : LinkIx) (mismatch : BitVec 32) (spareErrs : Nat × Nat)
  | laneSpared (l : LinkIx) (transmit : Bool)
  | trainingSequence (l : LinkIx) (lane : Fin 34) (seq : BitVec 128) (eye : Byte)
  | trainingComplete (l : LinkIx) (rxGood txGood : BitVec 34) (rtt : Nat)
  | trainFail (l : LinkIx)
  | rosReceive (l : LinkIx) (full : Bool)
  | fastRetrainComplete (l : LinkIx) (rxGood txGood : BitVec 34) (farAck : BitVec 12)
  | fastRetrainTimeout (l : LinkIx)
  | fullTrain (acc : Accessor) (l : LinkIx) (queue force : Bool)
  | fastRetrain (acc : Accessor) (l : LinkIx)
  | acceptHalf (acc : Accessor) (l : LinkIx)
  | queuedFullTrainStart (l : LinkIx)
  | linkDisable (acc : Accessor) (l : LinkIx) (value : Word)
  | signalLoss (l : LinkIx)
  | autoTrainRetry (l : LinkIx)
  | installArm (acc : Accessor)
  | installStart (acc : Accessor)
  | installDisarm (acc : Accessor)
  | installRingSlot
  | headerChunk (src : Option LinkIx) (raw : List Byte)
  | dataChunk (src : Option LinkIx) (raw : List Byte)
  | endChunk (src : Option LinkIx) (raw : List Byte)
  | installVerifyDone (v : VaultIx) (region : Fin 64)
  | regionFree (acc : Accessor) (v : VaultIx) (region : Fin 64)
  | recal (acc : Accessor) (v : VaultIx) (queue : Bool)
  | recalQueuedStart (v : VaultIx)
  | recalDone (v : VaultIx) (found : Findings)
  | openReq (acc : Accessor) (found : Findings)
  | admitReq (acc : Accessor) (found : Findings)
  | cancel (acc : Accessor)
  | closeReq (acc : Accessor)
  | tailorBind (acc : Accessor) (found : Findings)
  | tailorUnbind (acc : Accessor)
  | endPlan (acc : Accessor)
  | freezePoint (k : CtxSlot)
  | stepMessage (part : BitVec 16) (gen : BitVec 8) (msg : StepMsg)
  | collectComplete (t : TileIx)
  | resultSlotConsume (k : CtxSlot) (found : Findings)
  | heldDeliveryWrite (k : CtxSlot) (slot : BitVec 14)
  | patrolScrub (m : StackIx) (frame : Nat) (found : Findings)
  | memTempSample (m : StackIx) (temp : Byte)
  | retrain (acc : Accessor) (m : StackIx) (queue : Bool)
  | bist (acc : Accessor) (m : StackIx) (queue : Bool)
  | memQueuedStart (m : StackIx)
  | memCmdDone (m : StackIx) (failed : List Nat)
  | cxlDown (p : PortIx)
  | cxlTrainRetry (p : PortIx)
  | cxlLinkUp (p : PortIx) (rate : BitVec 2) (half : Bool)
  | cxlAttach (p : PortIx) (frames : Nat) (unsupported : Bool)
  | cxlHealthPoll (p : PortIx) (health : CxlHealth)
  | morEpoch
  | morScan
  | demoteCopyDone (ex : Nat) (found : Findings)
  | promoteCopyDone (ex : Nat) (found : Findings)
  | hint (acc : Accessor)
  | erasure (acc : Accessor)
  | erasureComplete (found : Findings)
  | create (acc : Accessor)
  | grant (acc : Accessor)
  | release (acc : Accessor)
  | repair (acc : Accessor)
  | preempt (acc : Accessor)
  | resume (acc : Accessor)
  | destroy (acc : Accessor)
  | rebind (acc : Accessor)
  | owners (acc : Accessor)
  | tileBist (acc : Accessor) (queue : Bool)
  | tileBistQueuedStart (t : TileIx)
  | tileBistDone (t : TileIx) (pass : Bool)
  | saveDrainEnd (k : CtxSlot)
  | preemptTimeout (k : CtxSlot)
  | saveComplete (k : CtxSlot)
  | restoreComplete (k : CtxSlot)
  | quarantineEnd (k : CtxSlot)
  | frameZero (cxl : Bool) (m : StackIx) (frame : Nat)
  | tileClear (t : TileIx)
  | imageLoad (acc : Accessor) (value : Word)
  | imageLoadDone (stagingUe : Bool)
  | join (acc : Accessor)
  | leave (acc : Accessor)
  | releasingEnd (k : CtxSlot)
  | partQuarantineEnd (e : Fin 64)
  | distribute (acc : Accessor)
  | imagePacket (part : BitVec 16) (gen : BitVec 8) (src : Coord) (offset length : Nat) (data : List Byte)
  | imageTimeout (k : CtxSlot)
  | loadWaitRetry (k : CtxSlot)
  | launch (acc : Accessor)
  | abort (acc : Accessor)
  | prepare (msg : LaunchMsg)
  | answer (msg : LaunchMsg)
  | prepareRetry (k : CtxSlot)
  | commit (msg : LaunchMsg)
  | abortFlood (msg : LaunchMsg)
  | launchDeadline (k : CtxSlot)
  | contextLost (part : BitVec 16) (gen : BitVec 8)
  | preemptPrepare (msg : LaunchMsg)
  | preemptAnswer (msg : LaunchMsg)
  | preemptGo (msg : LaunchMsg)
  | preemptCancel (msg : LaunchMsg)
  | preemptDeadline (k : CtxSlot)
  | ledgerRankRead (acc : Accessor)
  | marginSample (margins : List (BitVec 6)) (temps : List Byte)
  | critMargin (r : Fin 17)
  | thermalTrip (r : RegionIx)
  | stepUp (r : RegionIx)
  | capWrite (acc : Accessor) (value : Word)
  | synthLock (r : RegionIx)
  | clkPllUnlock (r : RegionIx) (current : Bool)
  | muxSwitch (m : MuxId)
  | clkMuxHung (m : MuxId)
  | clkSourceDead (r : RegionIx)
  | avsFail
  | freqAdvisory (l : LinkIx) (region : BitVec 4) (oldStep newStep : BitVec 3) (cause : BitVec 3)
  | mgtMuxSwitch (acc : Accessor) (value : Word)
  | mgtMuxForce (acc : Accessor)
  | spMuxSwitch (acc : Accessor) (value : Word)
  | gateRun (acc : Accessor) (node : BitVec 10)
  | gateSleep (acc : Accessor) (node : BitVec 10)
  | gateDeep (acc : Accessor) (node : BitVec 10)
  | gateOff (acc : Accessor) (node : BitVec 10)
  | fabricOff (acc : Accessor)
  | fabricOn (acc : Accessor)
  | regionPllStop (r : RegionIx)
  | refCheck (edges : Option Nat)
  | fmeasStart (acc : Accessor) (value : Word)
  | fmeasDone (count : BitVec 40)
  | fltAck (acc : Accessor) (value : Word)
  | fltInject (acc : Accessor) (value : Word)
  | aliveToggle
  | aliveWatchdog
  | aliveKick (acc : Accessor) (value : Word)
  | aliveConfigWrite (acc : Accessor) (value : Word)
  | snap (acc : Accessor) (value : Word)
  | snapDone
  | mgtFrameReceive (frame : MgtFrame)
  | mgtFrameTransmit (bytes : List Byte)
  | aperValidWrite (acc : Accessor) (a : Fin 64) (value : Word)
  | apertureAccess (core : Fin 8) (a : Fin 64) (offset : BitVec 32) (bytes : Nat) (data : Option (List Byte)) (found : Findings)
  | flagWatchArm (acc : Accessor) (w : Fin 16) (value : Word)
  | flagWatchTimeout (w : Fin 16)
  | svcStatus (seq : BitVec 16)
  | fwBegin (seq : BitVec 16) (slot : BitVec 1) (blocks : Nat)
  | fwPart (seq : BitVec 16) (block : BitVec 12) (part : BitVec 3) (data : List Byte)
  | fwEnd (seq : BitVec 16)
  | svcActivate (seq : BitVec 16) (arg : BitVec 32)
  | svcAttest (seq : BitVec 16) (arg : BitVec 32) (nonce : List Byte)
  | recover (seq : BitVec 16)
  | svcRead (seq : BitVec 16) (addr : BitVec 32) (count : Nat)
  | confirm (acc : Accessor)
  | activate (acc : Accessor) (queue : Bool)
  | activationQueuedStart
  | attest (acc : Accessor)
  | endorse (acc : Accessor)
  | trialTimeout
  | porstRelease
  | railPowerGood (rail : Fin 7)
  | railPowerGoodTimeout (rail : Fin 7)
  | resetRelease (found : PowerUpFindings)
  | ref156Retry (found : PowerUpFindings)
  | chipReset
  | powerGoodLoss (rail : Fin 7)
  | pmbAlert (rail : Fin 7) (current : BitVec 16)
  | i3cStatus
  | i3cPower (packagePower : BitVec 16)
  | i3cThermal (vaultTemp : Byte)
  | i3cAlive
  | i3cReset (b : Byte)
  | powerDown (b : Byte)
  | bypass
  | idcode
  | samplePreload (pins : List Bool) (load : List Bool)
  | extest
  | highz
  | clamp
  | frameSend (l : LinkIx) (bad : List Nat)
  | laneLockLoss (l : LinkIx) (lane : Fin 34)
  | porstAssert
  | memUeMgt (core : Fin 8) (offset : Nat)
deriving DecidableEq, Repr

end Sys2Proof
end

