-- ==== Sys2Proof/Machine/Sparse.lean ====
section
/-! DEFINITION. Sparse data by a numeric key: the one shape of every indexed family of the state (contexts, tiles, links,
frames, memory bytes). A list of key and value with keys strictly rising and no entry that equals the default `d`, so
that equal families are equal lists. -/

namespace Sys2Proof.Machine

/-- A family of values by a numeric key; a key that is not listed holds the family's default. -/
abbrev KMap (α : Type) := List (Nat × α)

/-- The value at a key. -/
def KMap.get {α : Type} (d : α) : KMap α → Nat → α
  | [], _ => d
  | (k, v) :: r, a => if a = k then v else if a < k then d else KMap.get d r a

/-- The entries above a key. -/
def KMap.above {α : Type} (a : Nat) : KMap α → KMap α
  | [] => []
  | (k, v) :: r => if k ≤ a then KMap.above a r else (k, v) :: r

/-- The family with another value at one key; the default takes the entry away. -/
def KMap.set {α : Type} [DecidableEq α] (d : α) : KMap α → Nat → α → KMap α
  | [], a, v => if v = d then [] else [(a, v)]
  | (k, w) :: r, a, v =>
    if a < k then (if v = d then (k, w) :: r else (a, v) :: (k, w) :: r)
    else if a = k then (if v = d then KMap.above a r else (a, v) :: r)
    else (k, w) :: KMap.set d r a v

/-- The family with one value changed by a function. -/
def KMap.upd {α : Type} [DecidableEq α] (d : α) (m : KMap α) (a : Nat) (f : α → α) : KMap α :=
  m.set d a (f (m.get d a))

/-- The family without the keys that a test names. -/
def KMap.drop {α : Type} (m : KMap α) (p : Nat → Bool) : KMap α := m.filter fun e => !p e.1

/-- The family with every listed value changed by a function. -/
def KMap.mapV {α : Type} [DecidableEq α] (d : α) (m : KMap α) (f : α → α) : KMap α :=
  (m.map fun e => (e.1, f e.2)).filter fun e => !decide (e.2 = d)

/-- The canonical form: keys strictly rising, no entry equal to the default. -/
def KMap.wf {α : Type} [DecidableEq α] (d : α) : KMap α → Bool
  | [] => true
  | [(_, v)] => !decide (v = d)
  | (k, v) :: (k', v') :: r => decide (k < k') && !decide (v = d) && KMap.wf d ((k', v') :: r)

/-- Bytes by address; a byte that nothing has written reads 0 (DESIGN CHOICE, log entry 7). -/
abbrev Memory := KMap Byte

/-- The byte at an address. -/
def Memory.get (m : Memory) (a : Nat) : Byte := KMap.get 0 m a

/-- A byte written. -/
def Memory.set (m : Memory) (a : Nat) (b : Byte) : Memory := KMap.set 0 m a b

/-- The canonical form of a memory. -/
def Memory.wf (m : Memory) : Bool := KMap.wf 0 m

/-- The `n` bytes from an address on. -/
def Memory.read (m : Memory) (a : Nat) : Nat → List Byte
  | 0 => []
  | n + 1 => m.get a :: Memory.read m (a + 1) n

/-- Bytes written from an address on. -/
def Memory.write (m : Memory) (a : Nat) : List Byte → Memory
  | [] => m
  | b :: bs => Memory.write (m.set a b) (a + 1) bs

/-- A run of `n` addresses from `a` set back to what nothing has written reads as. -/
def Memory.clear (m : Memory) (a n : Nat) : Memory := KMap.drop m fun k => decide (a ≤ k ∧ k < a + n)

/-- The `n` bytes from address `a` of one memory put at address `b` of another. -/
def Memory.copy (src : Memory) (a : Nat) (dst : Memory) (b n : Nat) : Memory :=
  (src.filter fun e => decide (a ≤ e.1 ∧ e.1 < a + n)).foldl (fun m e => m.set (b + (e.1 - a)) e.2) (dst.clear b n)

end Sys2Proof.Machine
end

