-- ==== Sys2Proof/Machine/Bits.lean ====
section
/-! DEFINITION. Fields of words, bytes and little-endian numbers (R8, R77), sign extension and saturation. -/

namespace Sys2Proof.Machine

/-- The field of `n` bits from bit `lo` of a number. -/
def fieldN (x lo n : Nat) : Nat := x / 2 ^ lo % 2 ^ n

/-- The field of `n` bits from bit `lo` of a word. -/
def field (w : Word) (lo n : Nat) : Nat := fieldN w.toNat lo n

/-- One bit of a word. -/
def bitOf (w : Word) (i : Nat) : Bool := w.getLsbD i

/-- 1 for true. -/
def b2n (b : Bool) : Nat := if b then 1 else 0

/-- The word with the field of `n` bits from bit `lo` replaced by `v` (modulo 2^n). -/
def withField (w : Word) (lo n v : Nat) : Word :=
  Word.ofNat (w.toNat - field w lo n * 2 ^ lo + v % 2 ^ n * 2 ^ lo)

/-- A word of fields, each (lowest bit, width, value); fields must not overlap. -/
def pack : List (Nat × Nat × Nat) → Word
  | [] => 0
  | (lo, n, v) :: r => Word.ofNat (v % 2 ^ n * 2 ^ lo) ||| pack r

/-- A number of fields laid one above another from bit 0: (width, value). -/
def packN : List (Nat × Nat) → Nat
  | [] => 0
  | (n, v) :: r => v % 2 ^ n + 2 ^ n * packN r

/-- The little-endian number of a list of bytes (R77). -/
def leNat : List Byte → Nat
  | [] => 0
  | b :: bs => b.toNat + 256 * leNat bs

/-- The big-endian number of a list of bytes. -/
def beNat (bs : List Byte) : Nat := leNat bs.reverse

/-- `n` bytes of a number, least significant first. -/
def leBytes : Nat → Nat → List Byte
  | 0, _ => []
  | n + 1, x => BitVec.ofNat 8 x :: leBytes n (x / 256)

/-- `n` bytes of a number, most significant first. -/
def beBytes (n x : Nat) : List Byte := (leBytes n x).reverse

/-- A slice of a list: `n` entries from entry `a` on. -/
def slice {α : Type} (l : List α) (a n : Nat) : List α := (l.drop a).take n

/-- The little-endian number of `n` bytes at offset `a`. -/
def leAt (bs : List Byte) (a n : Nat) : Nat := leNat (slice bs a n)

/-- The list with entry `i` replaced by `v`, its length kept. -/
def setAt {α : Type} (l : List α) (i : Nat) (v : α) : List α := l.set i v

/-- The list with the entries from `i` on replaced by a run of entries. -/
def putAt {α : Type} (l : List α) (i : Nat) (vs : List α) : List α :=
  l.take i ++ vs ++ l.drop (i + vs.length)

/-- A list cut or filled up to `n` entries. -/
def padTo {α : Type} (l : List α) (n : Nat) (d : α) : List α := (l ++ List.replicate (n - l.length) d).take n

/-- The lists of `n` entries each that a list falls into. -/
def chunksOf {α : Type} (n : Nat) : Nat → List α → List (List α)
  | 0, _ => []
  | _ + 1, [] => []
  | fuel + 1, l => l.take n :: chunksOf n fuel (l.drop n)

/-- The chunks of `n` entries of a list. -/
def chunks {α : Type} (n : Nat) (l : List α) : List (List α) := chunksOf n l.length l

/-- The two's-complement reading of the low `n` bits of a number. -/
def signedOf (n x : Nat) : Int :=
  let v := x % 2 ^ n
  if v < 2 ^ (n - 1) then v else (v : Int) - 2 ^ n

/-- The low `n` bits of an integer in two's complement. -/
def unsignedOf (n : Nat) (x : Int) : Nat := (x % (2 ^ n : Nat)).toNat

/-- An integer clamped to a range (R39). -/
def clampI (lo hi x : Int) : Int := if x < lo then lo else if hi < x then hi else x

/-- A number that saturates at the largest of `n` bits. -/
def satN (n x : Nat) : Nat := if x < 2 ^ n then x else 2 ^ n - 1

/-- The number of entries for which a test holds. -/
def countP {α : Type} (p : α → Bool) (l : List α) : Nat := (l.filter p).length

/-- The sum of a list of numbers. -/
def sumN (l : List Nat) : Nat := l.foldl (· + ·) 0

/-- An entry put into a sorted list before the first entry that it must not follow. -/
def insertBy {α : Type} (le : α → α → Bool) (x : α) : List α → List α
  | [] => [x]
  | y :: ys => if le x y then x :: y :: ys else y :: insertBy le x ys

/-- A list sorted by an order; entries that the order does not tell apart keep their places. -/
def sortBy {α : Type} (le : α → α → Bool) : List α → List α
  | [] => []
  | x :: xs => insertBy le x (sortBy le xs)

/-- The smallest whole number not below a quotient. -/
def ceilDiv (a b : Nat) : Nat := (a + b - 1) / b

/-- The entry of a list at a position, with its position's neighbours kept, changed by a function. -/
def modAt {α : Type} (l : List α) (i : Nat) (f : α → α) : List α := l.modify i f

end Sys2Proof.Machine
end

