-- ==== Sys2Proof/Machine/State.lean ====
section
/-! DEFINITION. The state of one chip as plain data: every register, buffer, table and mode that the manual gives it, and the
queue of commands that wait. Registers that only keep what is written or latched stand in `csr` by their address
(RegMap.lean); every other register is computed from the state it reports when it is read (Registers.lean). -/

namespace Sys2Proof.Machine

/-! ### Names of things -/

/-- A context identifier: slot and generation (R269). -/
structure CtxId where
  slot : Nat
  gen  : Nat
deriving DecidableEq, Repr

/-- A 2 MiB frame of memory: an HBM stack's or a CXL port's (R239, R251). -/
structure FrameId where
  cxl   : Bool := false
  unit  : Nat
  frame : Nat
deriving DecidableEq, Repr

/-! ### Faults (16_faults_and_determinism.md) -/

/-- A record of the fault collector (R402); `seq` is its age among the written records. -/
structure FltRecord where
  written   : Bool := false
  source    : Nat := 0
  cause     : Nat := 0
  level     : Nat := 0
  escalated : Bool := false
  counted   : Bool := false
  acked     : Bool := false
  ctx       : Option CtxId := none
  injected  : Bool := false
  group     : Bool := false
  mt        : Word := 0
  pcy       : Word := 0
  count     : Nat := 0
  detail    : Nat := 0
  seq       : Nat := 0
deriving DecidableEq, Repr

/-- The fault collector: the ring, HEAD and LAST of FLT_STATUS, the fatal log (newest first, R406), the counting windows
(R404) by cause and context, and the ALIVE output (R405): its level, whether it toggles, whether the watchdog stopped it, whether the present deadline
has passed, and the tick of the last kick. -/
structure Faults where
  ring      : KMap FltRecord := []
  nextSeq   : Nat := 1
  head      : Nat := 0
  last      : Option Nat := none
  fatal     : Bool := false
  log       : List FltRecord := []
  counts    : KMap (List Word) := []
  aliveOut  : Bool := false
  aliveRun  : Bool := false
  wdogTrip  : Bool := false
  expired   : Bool := false
  lastKick  : Nat := 0
deriving DecidableEq, Repr

/-- A snapshot that SNAP has started (R411). -/
structure Snap where
  ctx     : CtxId
  scope   : Nat
  perTile : Bool
deriving DecidableEq, Repr

/-! ### Time and plans (03_plan_time.md) -/

/-- TIM_STATUS.SYNC (R45). -/
inductive Sync where
  | unsynced | locked | holdover
deriving DecidableEq, Repr

/-- Machine time and the time tree (R42 to R48). `refTicks` counts reference ticks since reset (mesh slots, deadlines of the
always-on clock); `slew` is the correction that remains, in ticks, `lastSlew` the tick of its last use. -/
structure Time where
  mt        : Word := 0
  refTicks  : Nat := 0
  sync      : Sync := .unsynced
  everLock  : Bool := false
  parent    : Option Nat := none
  depth     : Nat := 63
  rootCoord : Nat := 0
  slew      : Int := 0
  lastSlew  : Nat := 0
deriving DecidableEq, Repr

/-- TIM_CTX_STATE.STATE (R51). -/
inductive PlanState where
  | idle | armed | running | frosted | stopped | ended
deriving DecidableEq, Repr

/-- The last progress stamp of a plan neighbour by link (R53): -1 while it has not STARTED. -/
structure Stamp where
  value : Int := -1
  ended : Bool := false
deriving DecidableEq, Repr

/-- An open Frost interval (R61, R62): the ring index of its record, cause, detail and start. -/
structure Frost where
  index   : Nat
  cause   : Nat
  detail  : Nat
  startMt : Word
deriving DecidableEq, Repr

/-- The plan of a context (R49 to R68). `held`: restored and not yet committed by a resuming launch (R283);
`stopP`: the pre-emption stop (R280); `released`: one more than the last cycle whose due flits have been released (R55, R295). -/
structure Plan where
  state  : PlanState := .idle
  pcy    : Word := 0
  frost  : Option Frost := none
  held   : Bool := false
  tl     : Word := 0
  stamps : KMap Stamp := []
  stopP  : Option Nat := none
  released : Nat := 0
deriving DecidableEq, Repr

/-! ### The Cloakroom (11_contexts_and_cloakroom.md) -/

/-- CLO_CTX_STATE.STATE (R271). -/
inductive CtxState where
  | free | opened | saving | saved | restoring | quarantine
deriving DecidableEq, Repr

/-- CLO_TILE.STATE (R289). -/
inductive TileState where
  | free | granted | spare | bad | bist | failed
deriving DecidableEq, Repr

/-! ### Tiles (04 to 06) -/

/-- A 128-bit macro-op word (R103) with its index within its variant's stream. -/
structure MacroOp where
  word  : Nat
  index : Nat
deriving DecidableEq, Repr

/-- TIL_SEQ_STATUS.POWER (R131). -/
inductive Power where
  | run | sleep | deep | off
deriving DecidableEq, Repr

/-- The most recent increment of a sync object (R134, R136), with the tick at which it was applied. -/
structure LastSig where
  kind    : Nat := 0
  srcTile : Nat := 0
  link    : Nat := 0
  srcMop  : Nat := 0
  pcy     : Nat := 0
  tick    : Nat := 0
deriving DecidableEq, Repr

/-- The state of a sync object (R132); `suspended` stands in saved tile records alone (R149). -/
inductive SyncState where
  | unbound | active | abandoned | suspended
deriving DecidableEq, Repr

/-- A sync object (R132); `last5` is the link of the last kind-5 signal since a WAIT on it dispatched (R372). Waiter entry 0 is the WAIT at the
head of the issue queue (R137); the watches stand in their registers (R154) and the state is the bank's (`Tile.bank`). -/
structure SyncObj where
  count   : BitVec 32 := 0
  barrier : Bool := false
  last    : LastSig := {}
  last5   : Option Nat := none
deriving DecidableEq, Repr

/-- A flit of an outgoing link stream that waits for its slot (R115): the first plan cycle whose slots it may take, its payload or
the increment that it carries, its macro-op by stream index. -/
structure OutFlit where
  from_   : Nat
  payload : List Byte := []
  signal  : Option (Nat × BitVec 32) := none
  mop     : Nat := 0
deriving DecidableEq, Repr

/-- What an incoming stream has released to a tile and no RECV has taken (R115, R116): a payload or an increment with its link and slack (R146). -/
structure InItem where
  payload : List Byte := []
  signal  : Option (Nat × BitVec 32) := none
  link    : Nat := 0
  slack   : Nat := 0
deriving DecidableEq, Repr

/-- An accumulator of the tensor engine (R80). -/
structure Acc where
  mant  : Int := 0
  exp   : Int := 0
  empty : Bool := true
deriving DecidableEq, Repr

/-- A macro-op that has left its unit queue: what it read when it started (R108, R109) and how far it is.
`data` holds the DATA of each indexed descriptor, `counts` the clamped counts, `cycles` the figure of its cycle formula,
`base` the step base it was dispatched under, `done` that its results are written (or acknowledged), `awaits` the
acknowledgements that are missing, `bytes` what a LOAD has brought, where a read has met it before its signal (R142). -/
structure Running where
  op     : MacroOp
  base   : Nat := 0
  step   : Nat := 0
  data   : List (Nat × Nat) := []
  counts : List Nat := []
  cycles : Nat := 0
  started : Bool := false
  done   : Bool := false
  awaits : Nat := 0
  recvd  : Nat := 0
  bytes  : List Byte := []
deriving DecidableEq, Repr

/-- A tile. Units are numbered as in `UnitId.index` (Operands.lean); `xfer` holds the transfer entries of the six
decoupling queues (R147), `outst` the router-port and engine-port macro-ops that have left their port and not completed, `stationary` the
16,384 bytes of the stationary-operand buffers (R70, R282), empty where they hold zeros. -/
structure Tile where
  state      : TileState := .free
  ctx        : Option CtxId := none
  bistQueued : Bool := false
  unclear    : Bool := false
  ueReports  : Nat := 0
  bistFrom   : TileState := .free
  sram       : Memory := []
  desc       : Memory := []
  descLimit  : Option Nat := none
  tstreams   : KMap Nat := []
  issueQ     : List MacroOp := []
  entryBuf   : List MacroOp := []
  entryVar   : Option Nat := none
  fetchPos   : Nat := 0
  pc         : Nat := 0
  base       : Nat := 0
  step       : Nat := 0
  variant    : Nat := 0
  endTaken   : Bool := false
  held       : Bool := false
  power      : Power := .off
  waking     : Bool := false
  wakeAt     : Option Nat := none
  lastDisp   : Option Nat := none
  unitQ      : KMap (List Running) := []
  running    : KMap (Option Running) := []
  xfer       : KMap (List Running) := []
  outst      : List Running := []
  bank       : SyncState := .unbound
  sync       : KMap SyncObj := []
  masks      : KMap Word := []
  acc        : KMap Acc := []
  accHeld    : Bool := false
  stationary : List Byte := []
  outbox     : KMap (List OutFlit) := []
  inbox      : KMap (List InItem) := []
deriving DecidableEq, Repr

/-! ### Memory (10_memory_tiers.md) -/

/-- What the Cloakroom and the controller keep of an HBM frame (R243, R247, R276). A frame nothing has zeroed since reset is
dirty. -/
structure FrameInfo where
  held    : Bool := false
  clean   : Bool := false
  ce      : Nat := 0
  ue      : Bool := false
  retired : Bool := false
deriving DecidableEq, Repr

/-- MEM_STATUS.STATE (R266). -/
inductive MemPhase where
  | training | ready | retrain | bist
deriving DecidableEq, Repr

/-- An HBM stack: contents by stack byte offset, frames, the command that waits (R249). -/
structure Hbm where
  phase  : MemPhase := .training
  mem    : Memory := []
  frames : KMap FrameInfo := []
  queued : Option MemPhase := none
deriving DecidableEq, Repr

/-- CXL_STATUS.LINK (R267). -/
inductive CxlLink where
  | down | training | up | error
deriving DecidableEq, Repr

/-- A CXL port (R250 to R252): link, attached device, frames offered, bounce frames, frames that tickets hold, frames zeroed since they were last
held (R276), and contents by device address. The bounce frames are at first the 64 above the offered ones. -/
structure Cxl where
  link        : CxlLink := .down
  rate        : Nat := 0
  half        : Bool := false
  device      : Bool := false
  unsupported : Bool := false
  total       : Nat := 0
  bounce      : List Nat := []
  held        : List Nat := []
  clean       : List Nat := []
  mem         : Memory := []
  sscInUse    : Nat := 0
deriving DecidableEq, Repr

/-- A page table entry (R256); LOC 0 (no page) is an absent entry. -/
structure Pte where
  frame  : Option FrameId := none
  tier   : Nat := 0
  write  : Bool := false
  window : Bool := false
  moving : Bool := false
  stream : Bool := false
  acc    : Nat := 0
  hint   : Nat := 0
  hotAge : Nat := 0
deriving DecidableEq, Repr

/-- A store held because its page is MOVING (R260): the context's address and the bytes, and the tile whose
macro-op (by its stream index) waits for it; tile 576 where no plan's store waits. -/
structure HeldStore where
  va    : Nat
  bytes : List Byte
  tile  : Nat
  mop   : Nat
deriving DecidableEq, Repr

/-- A Moraine exchange in flight (R260): victim and candidate pages of a context, their frames, the bounce frame, and whether
the demote copy has ended. -/
structure Exchange where
  id       : Nat
  ctx      : CtxId
  port     : Nat
  victim   : Nat
  cand     : Nat
  hFrame   : FrameId
  xFrame   : FrameId
  bounce   : Nat
  demoted  : Bool := false
  held     : List HeldStore := []
deriving DecidableEq, Repr

/-- Moraine and the erasure engine (R253 to R263). -/
structure Moraine where
  exchanges : List Exchange := []
  nextId    : Nat := 0
  lastSlot  : Nat := 31
  erasure   : Option (List Byte) := none
  erasureBy : Option Accessor := none
deriving DecidableEq, Repr

/-! ### Plans that are loaded (07_plan_image_and_loader.md) -/

/-- A segment of a context's virtual space (R163, R167). -/
structure Seg where
  base   : Nat
  size   : Nat
  tier   : Nat
  write  : Bool
  window : Bool
deriving DecidableEq, Repr

/-- What a loaded plan keeps of its image. `streams` gives the place of a tile's stream of a variant by
`variant * 512 + virtual tile`: its virtual address and its macro-ops. `slots` gives LINK_SLOTS by
`link * 112 + direction * 56 + slot` (direction 0 transmit). -/
structure Image where
  id       : List Byte
  chip     : Nat
  chips    : Nat
  minQuota : Nat
  isLead   : Bool
  serving  : Bool
  dhop     : Nat
  variants : List (Nat × Nat)
  var0     : Nat
  var1     : Nat
  vrows    : Nat
  vocab    : Nat
  links    : Nat
  segs     : List Seg
  streams  : KMap (Nat × Nat)
  slots    : KMap Nat
  routes   : List (Nat × Nat)
deriving DecidableEq, Repr


/-! ### Clocks (15_clocks_and_power.md) -/

/-- The source of a region clock (R377): the reference, either synthesizer, or HALF. -/
inductive ClkSrc where
  | ref | main | alt | half
deriving DecidableEq, Repr

/-- The state of a clock multiplexer (R399). -/
inductive MuxState where
  | stable | switching | hung
deriving DecidableEq, Repr

/-- A switch that a region's multiplexer has been asked for (R379): source, step and cause (R388). -/
structure Switch where
  src   : ClkSrc
  step  : Nat
  cause : Nat
deriving DecidableEq, Repr

/-- A region (R377 to R386): `current` is the synthesizer in use, `standby` the other's step and whether it is locked; `climbing` a step up whose
relock runs; `want` the switch under way and `after` the cause of a drop that follows it; `goodFrom` the tick since which its margin and temperature
allow a step up. -/
structure Region where
  pllOn    : Bool := false
  src      : ClkSrc := .ref
  current  : ClkSrc := .main
  step     : Nat := 0
  standby  : Nat := 0
  locked   : Bool := false
  climbing : Bool := false
  mux      : MuxState := .stable
  want     : Option Switch := none
  after    : Option Nat := none
  margin   : Nat := 63
  temp     : Nat := 0
  goodFrom : Option Nat := none
deriving DecidableEq, Repr

/-- The clocks and power of the chip: regions; the mesh's margin and since when it is good; VOUT, the tick of its last request, whether AVS_FAIL
makes it count as VMAX, and the tick of its last lowering; PSTATE (R392); the states of the two other multiplexers; a frequency measurement that
runs; the vault stacks whose engines are off and whether the mesh is off (R391). -/
structure Clocks where
  regions    : KMap Region := []
  meshMargin : Nat := 63
  meshGood   : Option Nat := none
  vout       : Nat := 750
  lastVreq   : Option Nat := none
  avsMax     : Bool := false
  lowered    : Nat := 0
  pstate     : Nat := 0
  mgtMux     : MuxState := .stable
  spMux      : MuxState := .stable
  measuring  : Bool := false
  vengOff    : List Nat := []
  meshOff    : Bool := false
deriving DecidableEq, Repr

/-! ### The vault (08_weight_vault.md) -/

/-- The state of a region table entry (R180). -/
inductive RegionState where
  | free | installing | installed | bound | failed
deriving DecidableEq, Repr

/-- A region table entry (R180, R206): `written` lists the 65,536-byte ranges that the session has written, `opened` the blocks whose
count it has raised, `want` the DIGEST of the REGION entry. -/
structure VRegion where
  state   : RegionState := .free
  ueSeen  : Bool := false
  first   : Nat := 0
  nblk    : Nat := 0
  size    : Nat := 0
  digest  : List Byte := []
  want    : List Byte := []
  reason  : Nat := 0
  ctx     : Option CtxId := none
  written : List Nat := []
  opened  : List Nat := []
deriving DecidableEq, Repr

/-- VLT_STATUS.MODE (R206). -/
inductive VaultMode where
  | service | install | recal
deriving DecidableEq, Repr

/-- A vault request of a context's queue on a stack (R197): the virtual tile and the key of its macro-op, stream or GEMV, whether it has
started, and the group that a stream occupies. -/
structure VReq where
  vtile   : Nat
  key     : Nat
  stream  : Bool
  started : Bool := false
  group   : Nat := 0
deriving DecidableEq, Repr

/-- A vault request that still runs after its plan has ended (R151, R204): the context that made it, its tile and the key of its macro-op. -/
structure EndReq where
  owner : CtxId
  tile  : Nat
  key   : Nat
deriving DecidableEq, Repr

/-- A vault stack (R177 to R206): contents by stack offset, groups by holder, regions, install and CE counts by block, the request
queue of each context slot, the requests that outlive their plans, the words found uncorrectable (R200), and a recalibration that waits. -/
structure Vault where
  mode     : VaultMode := .service
  recalDue : Bool := false
  mem      : Memory := []
  groups   : KMap (Option CtxId) := []
  regions  : KMap VRegion := []
  installs : KMap Nat := []
  ce       : KMap Nat := []
  queue    : KMap (List VReq) := []
  ending   : List EndReq := []
  bad      : List Nat := []
  recalQ   : Bool := false
deriving DecidableEq, Repr

/-- INS_STATUS.PHASE (R205). -/
inductive InsPhase where
  | idle | armed | active | verifying
deriving DecidableEq, Repr

/-- A REGION entry of this chip's position (R184, R188): its RIDX, SIZE and DIGEST, the stack and region table entry where it was placed, or the
reason why it was not. -/
structure InsRegion where
  ridx   : Nat
  size   : Nat
  digest : List Byte
  place  : Option (Nat × Nat)
  result : Nat
deriving DecidableEq, Repr

/-- The install engine (R183 to R193): phase, the session it is armed for, the stored session and the digest of its header, the header that is being
read, whether the stream that passes belongs to another session, RESUME_SEQ and the reason that stopped writing, position and regions; of the
stream, the front of its header, the chunks that wait until the chain is known (with their links) and a broken chain; the ring slot that START reads
next. -/
structure Install where
  phase    : InsPhase := .idle
  armedFor : Word := 0
  session  : Word := 0
  digest   : List Byte := []
  hdr      : List Byte := []
  hdrSeq   : Nat := 0
  foreign  : Bool := false
  resume   : Nat := 0
  stop     : Nat := 0
  pos      : Nat := 0
  regions  : List InsRegion := []
  front    : List Byte := []
  held     : List (Option Nat × List Byte) := []
  broken   : Bool := false
  ring     : Option Nat := none
deriving DecidableEq, Repr

/-! ### Links (13_links.md) -/

/-- LNK_STATUS.STATE (R347). -/
inductive LinkState where
  | down | training | up | retrain | degraded
deriving DecidableEq, Repr

/-- A flit of VC1 to VC3 in a receive buffer, or one that waits for a slot: its epoch bit and payload, whether it begins its packet, and the link
whose receive buffer it occupies until it departs (R298). -/
structure TxFlit where
  epoch   : Bool
  first   : Bool
  payload : List Byte
  from_   : Option Nat := none
deriving DecidableEq, Repr

/-- A VC0 flit of plan slot `g` (R326): DATA with a payload or an increment, or EMPTY where it has neither; its tile and macro-op. -/
structure PlanFlit where
  g       : Nat
  payload : Option (List Byte) := none
  signal  : Option (Nat × BitVec 32) := none
  tile    : Nat := 576
  mop     : Nat := 0
deriving DecidableEq, Repr

/-- A flit as it stands in a slot of a frame: virtual channel, TYPE (R325), epoch bit, payload, the increment of a SIGNAL, and
for VC0 its tile and macro-op. -/
structure Wire where
  slot    : Nat
  vc      : Nat := 0
  type    : Nat := 0
  epoch   : Bool := false
  payload : List Byte := []
  signal  : Option (Nat × BitVec 32) := none
  tile    : Nat := 576
  mop     : Nat := 0
deriving DecidableEq, Repr

/-- A frame that the far end has not acknowledged (R332, R334): its sequenced flits that are not IDLE, the MT at which its
replay timer started, how often each position has been replayed, and one more than the MT of the last replay. -/
structure SentFrame where
  fn    : Nat
  flits : List Wire
  at_   : Nat := 0
  tries : KMap Nat := []
  last  : KMap Nat := []
deriving DecidableEq, Repr

/-- A flit of VC1 to VC3 that has arrived and waits behind an earlier position of its channel (R333). -/
structure RxFlit where
  fn   : Nat
  slot : Nat
  flit : TxFlit
deriving DecidableEq, Repr

/-- An entry of the VC0 receive buffer (R298): the flit, and the receiving context's PCY and the reference tick at its acceptance; once released, the
tile and the stream that it goes to. -/
structure RxEntry where
  payload : Option (List Byte) := none
  signal  : Option (Nat × BitVec 32) := none
  slot    : Nat := 0
  at_     : Nat := 0
  tick    : Nat := 0
  release : Nat := 0
  dst     : Nat := 576
  stream  : Nat := 0
deriving DecidableEq, Repr

/-- An entry of the VC0 receive buffer whose plan slot is not known yet, since an earlier position of its slot is missing (R326). -/
structure RxWait where
  fn      : Nat
  payload : Option (List Byte) := none
  signal  : Option (Nat × BitVec 32) := none
  at_     : Nat := 0
  tick    : Nat := 0
deriving DecidableEq, Repr

/-- A physical lane (R315, R337, R347): ROLE 0 active, 1 spare, 2 failed, 3 idle; the logical lane, 63 for none; its errors since the last read and
in the window; of the training, the lane number it read (63 for none) and the eye measured at each preset; whether it fails and waits for a
spare. -/
structure Lane where
  role     : Nat := 0
  logical  : Nat := 63
  lock     : Bool := false
  preset   : Nat := 0
  errs     : Nat := 0
  window   : Nat := 0
  eye      : Nat := 0
  inverted : Bool := false
  ident    : Nat := 63
  eyes     : List (Nat × Nat) := []
  failing  : Bool := false
deriving DecidableEq, Repr

/-- A link (R315 to R347). `halfOk`: ACCEPT_HALF was accepted; `queuedTrain`: a full training waits for the ticket; `wantFull`: one waits for the
end of a retrain that the far end leads (R340); `advRoot` the neighbour's root where it has named it; `rtts` the last 16 round trips in ps, newest
last; `leads`: this end started the retrain; `starts` the MT of the retrains of the last second; `ceFrom` and `ceSeen` the open window of R341;
`badRun` uncorrectable flits in a row; `rx` and `tx` the lanes by physical number; `txeq` and `rxeq` the expert registers by lane; `windowFn` the
frames of the lane window; `sreq` the swap that this end asks for (logical lane, spare) and `farReq` the one that the far end asks for; `sat` the
swap that this transmitter has announced (frame, logical lane, spare) and `farSat` the far one's; `lost0`, `lost1` the lanes that the spares
replace; `nakQ` positions to be replayed (frame, slot, for a NAK); `goback` frames to be sent again after a fast retrain; `sentCnt`, `credited`
and `freed` the counts of R336 by channel; `rxFn` the latest frame that is being received and `rxSeen` its slots so far, `rxCur` the frame that
arrives (an earlier one after a go-back) and `rxNext` the lowest slot of it that may still come; `rxHeld` and `rxq` the flits of VC1 to VC3 that
wait for an earlier position and those in the receive buffers, by channel; `txDue` the plan slots that have begun and wait for a late SEND (R130);
`missing` the positions of it and of earlier frames that are missing, `nakAt` the MT at which each of them was first named; `rxFrames` the next
plan frame by slot; `txTimes` the departures of frames with FN mod 4 = 0 in 1/16 ticks, `far0` frame, arrival and TX_TIME of the far end's last
such flit, `echo` what the next FN-mod-4 = 1 flit returns. -/
structure Link where
  state     : LinkState := .down
  farCoord  : Nat := 0
  farInst   : Nat := 0
  farKnown  : Bool := false
  half      : Bool := false
  halfOk    : Bool := false
  queuedTrain : Bool := false
  wantFull  : Bool := false
  advDepth  : Nat := 63
  advRoot   : Option Nat := none
  farPart   : Nat := 0
  farGen    : Nat := 0
  rtts      : List Nat := []
  phase     : Nat := 0
  reversed  : Bool := false
  reason    : Nat := 0
  spares    : Nat := 0
  lastCause : Nat := 0
  leads     : Bool := false
  downAt    : Word := 0
  starts    : List Word := []
  ceFrom    : Word := 0
  ceSeen    : Nat := 0
  badRun    : Nat := 0
  rx        : KMap Lane := []
  tx        : KMap Lane := []
  txeq      : KMap Word := []
  rxeq      : KMap Word := []
  windowFn  : Nat := 0
  sreq      : Option (Nat × Nat) := none
  farReq    : Option (Nat × Nat) := none
  sat       : Option (Nat × Nat × Nat) := none
  farSat    : Option (Nat × Nat × Nat) := none
  lost0     : Nat := 63
  lost1     : Nat := 63
  vcq       : KMap (List TxFlit) := []
  txPlan    : KMap (List PlanFlit) := []
  txDue     : List Nat := []
  txFn      : Nat := 0
  sent      : List SentFrame := []
  nakQ      : List (Nat × Nat × Bool) := []
  goback    : List Nat := []
  resendQ   : List TxFlit := []
  sentCnt   : KMap Nat := []
  credited  : KMap Nat := []
  freed     : KMap Nat := []
  rxFn      : Nat := 0
  rxCur     : Nat := 0
  rxNext    : Nat := 0
  rxSeen    : List Nat := []
  missing   : List (Nat × Nat) := []
  nakAt     : List (Nat × Nat × Nat) := []
  rxFrames  : KMap Nat := []
  rxWait    : KMap (List RxWait) := []
  rxHeld    : KMap (List RxFlit) := []
  rxq       : KMap (List TxFlit) := []
  buf       : KMap RxEntry := []
  tree      : List RxEntry := []
  txTimes   : List (Nat × Nat) := []
  far0      : Option (Nat × Nat × Nat) := none
  echo      : Option (Nat × Nat) := none
deriving DecidableEq, Repr

/-! ### The fabric (12_fabric_and_routing.md) -/

/-- A mesh output slot claimed by a scheduled stream (R293, R310). -/
structure Claim where
  ctx    : CtxId
  stream : Nat
  src    : Nat
  rot    : Nat
deriving DecidableEq, Repr

/-- A flit of a scheduled mesh stream that has departed or waits to depart, in order (R292): what it writes in the destination
tile's SRAM, or the increment it carries; the source macro-op by its stream index. -/
structure MeshFlit where
  ctx    : CtxId
  src    : Nat
  stream : Nat
  dst    : Nat
  writes : List (Nat × Byte) := []
  signal : Option (Nat × BitVec 32) := none
  kind   : Nat := 0
  mop    : Nat := 0
  last   : Bool := false
deriving DecidableEq, Repr

/-- A VC2 packet that the chip originated, kept for resending (R305): channel, links it left by, epoch, payload, MT. -/
structure SentPacket where
  seq     : Nat
  part    : Nat
  links   : List Nat
  epoch   : Bool
  payload : List Byte
  mt      : Word
deriving DecidableEq, Repr

/-- A packet that was accepted (R304 step 5). -/
structure SeenPacket where
  src : Nat
  seq : Nat
  vc  : Nat
  mt  : Word
deriving DecidableEq, Repr

/-- The fabric: the claim map by `(router * 5 + output) * 64 + slot`, flits of mesh streams, resend store, accepted packets,
sequence numbers by channel, route tables by `bank * 8192 + 256 * slot + route` (OUT plus 8 for VALID), the current epoch of each slot
and the MT at which its other bank unlocks. -/
structure Fabric where
  claims   : KMap (Option Claim) := []
  flits    : List MeshFlit := []
  sent     : List SentPacket := []
  seen     : List SeenPacket := []
  seqs     : KMap Nat := []
  samples  : Nat := 0
  routes   : KMap Nat := []
  epoch    : KMap Nat := []
  unlockAt : KMap Nat := []
deriving DecidableEq, Repr

/-! ### The Serving Engine (09_serving_engine.md) -/

/-- The state of a request record (R208). -/
inductive RecState where
  | free | idle | ready | prefill | decode
deriving DecidableEq, Repr

/-- A delivery entry that the lead has formed (R230), less its MT, which it takes when it is written; `first` marks the turn's
first entry and `admitMt` is the turn's MT_ADMIT (R220). -/
structure Delivery where
  first    : Bool
  admitMt    : Nat
  tokidx   : Nat
  tokens   : List Nat := []
  reason   : Nat := 0
  afterEnd : Bool := false
  miss     : Bool := false
  step     : Nat := 0
deriving DecidableEq, Repr

/-- A parameter block before any OPEN. -/
def noParams : ParamBlock :=
  { seed := [], invTemp := 0, topk := 0, topp := 0, rep := 0, pres := 0, freq := 0, penWindow := 0, draftLen := 0, maxNew := 0 }

/-- A request record or a mirror (R207 to R209, R238). `cancelFrom` is the first step that gives no row (R231); `frozen` the
frozen steps with rows of the request that the lead has not consumed; `probe` counts the steps with rows since ZERO_RUN
reached 16 (R227). `hist`, `sTok`, `sNew` and `sEnded` are the sampling chip's (R223, R226, R228): committed tokens, newest
last; `cmdMt` is the MT of the last command accepted on the record (R214). -/
structure Req where
  state      : RecState := .free
  gen        : Nat := 1
  lead       : Bool := true
  ctx        : CtxId := { slot := 0, gen := 0 }
  handle     : Nat := 0
  kvidx      : Nat := 0
  tailor     : Nat := 0
  params     : ParamBlock := noParams
  ttftTgt    : Nat := 0
  tbtTgt     : Nat := 0
  tokidx     : Nat := 0
  turnNew    : Nat := 0
  admSeq     : Nat := 0
  mtAdmit    : Nat := 0
  mtLast     : Nat := 0
  slotVa     : Nat := 0
  ringVa     : Nat := 0
  ringN      : Nat := 0
  ringPos    : Nat := 0
  promptN    : Nat := 0
  placed     : Nat := 0
  lastChunk  : Option Nat := none
  lastRows   : Nat := 0
  frozen     : List Nat := []
  cancel     : Bool := false
  cancelFrom : Option Nat := none
  closing    : Bool := false
  held       : List Delivery := []
  formed     : Bool := false
  zeroRun    : Nat := 0
  probe      : Nat := 0
  proposed   : Nat := 0
  accepted   : Nat := 0
  misses     : Nat := 0
  ttft       : Nat := 0
  tbtMax     : Nat := 0
  lastEnd    : Nat := 0
  missed     : Bool := false
  draftEff   : Nat := 0
  atRisk     : Bool := false
  hist       : List Nat := []
  sTok       : Nat := 0
  sNew       : Nat := 0
  sEnded     : Bool := false
  cmdMt      : Nat := 0
deriving DecidableEq, Repr

/-- A bound tailor set (R233): its base and the bytes of the extent that TAILOR_BIND checked. -/
structure TailorSet where
  base   : Nat
  extent : Nat
deriving DecidableEq, Repr

/-- A candidate of a SAMPLE (R123, R224): adjusted logit and token. -/
structure Cand where
  logit : Int
  tok   : Nat
deriving DecidableEq, Repr

/-- The collects of a step (R222): how many have dispatched and how many are done, and the contributions that none has taken, each with
its CAND and its candidates row by row. -/
structure Collect where
  step     : Nat
  issued   : Nat := 0
  done     : Nat := 0
  contribs : List (Nat × List (List Cand)) := []
deriving DecidableEq, Repr

/-- The Serving Engine's state of a context: the next step to freeze or take in (SRV_CTX_STEP is one below), the steps begun, whether the
lead has selected the plan's end, the tables taken in, the next result step and ring slot, the MT of END_PLAN, the parameter entries
(with the MT of their OPEN) and release handles that wait for a freeze point, the tailor table, collects and drafts of the steps (by
step, handle and position), and the handles whose gather failed by step. -/
structure Serve where
  next     : Nat := 2
  begun    : Nat := 0
  closed   : Bool := false
  tables   : List StepMsg := []
  expect   : Nat := 0
  ringPos  : Nat := 0
  ending   : Option Nat := none
  newReq   : List (Nat × Nat) := []
  release  : List Nat := []
  tailors  : KMap (Option TailorSet) := []
  collects : List Collect := []
  drafts   : List (Nat × Nat × Nat × Nat) := []
  missed   : List (Nat × Nat) := []
deriving DecidableEq, Repr

/-! ### Partitions (14_partitions_and_launch.md) -/

/-- The state of a partition entry (R352). -/
inductive PartState where
  | free | joined | prepared | committed | releasing | suspended
deriving DecidableEq, Repr

/-- NET_PART_IMG.IMG_STATE (R361). -/
inductive ImgState where
  | none | receiving | complete | timeout | mismatch | overflow | loadWait | discarded
deriving DecidableEq, Repr

/-- The reception of a distributed image (R361): LENGTH, the ranges of bytes that have arrived, and the MT of the last packet or
of the last attempt to load. -/
structure ImgRecv where
  state  : ImgState := .none
  length : Nat := 0
  got    : List (Nat × Nat) := []
  mt     : Nat := 0
deriving DecidableEq, Repr

/-- An answer to PREPARE or PREEMPT_PREPARE (R363, R364): the chip it stands for, STATUS, REASON, FAIL_COORD or none, and the
coordinate that breaks ties. -/
structure LaunchAnswer where
  child  : Nat
  status : Nat
  reason : Nat := 0
  fail   : Option Nat := none
  tie    : Nat := 0
deriving DecidableEq, Repr

/-- A reduction of answers up a tree (R364, R280): the coordinator, ATTEMPT, deadline, what PREPARE carried, the children
whose answers are missing, the answers so far, and at the coordinator the PREPAREs sent before and the MT at which a retry is due. -/
structure Reduce where
  coord    : Nat
  gen      : Nat := 0
  attempt  : Nat := 0
  deadline : Word := 0
  resume   : Bool := false
  tlOrP    : Word := 0
  imageId  : List Byte := []
  waiting  : List Nat := []
  answers  : List LaunchAnswer := []
  sent     : Bool := false
  tries    : Nat := 0
  retryAt  : Option Word := none
deriving DecidableEq, Repr

/-- The partition entry of a context slot (R352): staging buffer of JOIN, image reception, and the reductions of a launch and of a pre-emption
that it takes part in; `relays` are the reductions of launches that the chip has answered without keeping state (R364, R374). `coordinator` marks
the chip that issued the LAUNCH, `relFrom` the MT at which RELEASING began, `preUntil` the deadline of a pre-emption that waits for GO or CANCEL
and `go` that GO has come (R280). -/
structure PartEntry where
  state    : PartState := .free
  part     : Nat := 0
  gen      : Nat := 0
  ctxGen   : Nat := 0
  origin   : Nat := 0
  extent   : Nat := 0
  deadline : Word := 0
  tl       : Word := 0
  resume   : Bool := false
  staging  : Nat := 0
  stageLen : Nat := 0
  img      : ImgRecv := {}
  launch   : Option Reduce := none
  relays   : List Reduce := []
  preempt  : Option Reduce := none
  coordinator : Bool := false
  relFrom  : Word := 0
  preUntil : Option Word := none
  go       : Bool := false
deriving DecidableEq, Repr

/-! ### Contexts (11_contexts_and_cloakroom.md) -/

/-- What a save area holds beside the context's own fields (R282): the rows, the groups by stack and the links that were returned, each virtual
tile's record with its counters, the receive buffers and frame counts of the links, and the epoch. The save area cannot be addressed by software
(R416). -/
structure SaveArea where
  rows     : Nat
  groups   : List Nat
  links    : List Nat
  tiles    : List Tile
  counters : List (List Word)
  bufs     : List (KMap RxEntry × KMap Nat)
  epoch    : Nat
deriving DecidableEq, Repr

/-- A context slot: the Cloakroom's state (R269 to R285), its plan (R49 to R68), its loaded image (R155 to R169) and its page table (R255).
`tiles` lists the physical tiles in virtual order, `hbm` and `cxl` the frames in grant order, `quotaFr` those of the penalty histories (R223,
R273), `dirty` the frames received dirty until the first load after their grant, `badTiles` the BAD tiles that a SAVED context keeps, by virtual
tile. `jrnTailor` counts the TAILOR records from HEAD on that a replay has applied ahead (R410). -/
structure Ctx where
  state     : CtxState := .free
  gen       : Nat := 0
  owners    : BitVec 10 := 0
  tiles     : List Nat := []
  hbm       : List FrameId := []
  cxl       : List FrameId := []
  header    : List FrameId := []
  saveFr    : List FrameId := []
  quotaFr   : List FrameId := []
  dirty     : List FrameId := []
  links     : List Nat := []
  quota     : Nat := 0
  preemptP  : Word := 0
  quarUntil : Word := 0
  drainFrom : Nat := 0
  drained   : Bool := false
  save      : Option SaveArea := none
  saveDead  : Bool := false
  badTiles  : List (Nat × Nat) := []
  plan      : Plan := {}
  image     : Option Image := none
  pt        : KMap Pte := []
  varIdx    : KMap Nat := []
  lostMark  : Bool := false
  jrnQ      : List (List Byte) := []
  jrnTailor : Nat := 0
  part      : PartEntry := {}
  serve     : Serve := {}
deriving DecidableEq, Repr

/-- The load in progress (R166, R170, R175): the context, the image as the loader read it, the mapping it took, whether a
partition entry started it, and the repairs that wait for its end. -/
structure Loader where
  ctx     : CtxId
  bytes   : List Byte
  tiles   : List Nat
  repairs : List Nat := []
deriving DecidableEq, Repr

/-- The Cloakroom command that is in progress (CLO_CMD_STATUS.BUSY): a PREEMPT, a RESUME, or a saving REBIND with its target slot, the
types it moves and its issuer's owner bit. -/
inductive CloOp where
  | preempt (k : Nat)
  | resume (k : Nat)
  | rebind (k target types issuer : Nat)
deriving DecidableEq, Repr

/-- A TAILOR_BIND or TAILOR_UNBIND whose completion waits for room in the journal (R409): context, identifier, and the set it binds. -/
structure SrvWait where
  slot : Nat
  id   : Nat
  set  : Option TailorSet
deriving DecidableEq, Repr

/-! ### Management port, firmware, pins (17_management_and_security.md, 18_pins_and_package.md) -/

/-- A security association of the management port (MGT_SA registers): its key's four words, SCI, and MGT_SA_CTL. -/
structure Sa where
  key : KMap Word := []
  sci : Word := 0
  ctl : Word := 1
deriving DecidableEq, Repr

/-- A token bucket (R420): what it lacks to be full, in 1/1,250,000 frames, and the tick of that figure. -/
structure Bucket where
  lacks : Nat := 0
  at_   : Nat := 0
deriving DecidableEq, Repr

/-- The management port (R420 to R422): security associations by AN + 4·DIR, buckets by peer, the bucket of unprotected frames, the MT of the last
defence of the address. -/
structure Port where
  sas      : KMap Sa := []
  peers    : KMap Bucket := []
  plain    : Bucket := {}
  defended : Option Nat := none
deriving DecidableEq, Repr

/-- SEC_SLOT.STATE (R441). -/
inductive SlotState where
  | empty | writing | verified | trial | active | rejected
deriving DecidableEq, Repr

/-- A firmware slot as the flash directory and its header give it. -/
structure FwSlot where
  state   : SlotState := .empty
  svn     : Nat := 0
  nblk    : Nat := 0
  comps   : Nat := 0
  version : Word := 0
deriving DecidableEq, Repr

/-- Components of a slot's image that wait to be loaded (R434): slot, component mask, vault stacks, and whether the trial asked for them. -/
structure Activation where
  slot   : Nat
  comps  : Nat
  stackMask : Nat
  trial  : Bool
deriving DecidableEq, Repr

/-- The service processor (R418 to R438): flash contents and slots; the slot booted from; the slot that FW_BEGIN named with its block count; the block
that is being assembled with its parts; the running SVN; recovery; whether recovery was entered since the last
boot; the tick at which a trial's management firmware started; the measurements, and the digest over those of the boot; what runs from the trial slot
(component mask and stacks); a queued activation; the last SEQ of the service port with its answer. -/
structure Security where
  flash       : Memory := []
  slots       : KMap FwSlot := []
  bootSlot    : Option Nat := none
  writing     : Option Nat := none
  blocks      : Nat := 0
  partBlock   : Nat := 0
  parts       : KMap (List Byte) := []
  svn         : Nat := 0
  recovery    : Bool := false
  recoveryReq : Bool := false
  entered     : Bool := false
  trialFrom   : Option Nat := none
  meas        : KMap (List Byte) := []
  bootHash    : List Byte := []
  took        : Nat := 0
  tookStacks  : Nat := 0
  queued      : Option Activation := none
  lastSeq     : Option Nat := none
  lastAnswer  : List Byte := []
deriving DecidableEq, Repr

/-- The instruction of the test access port (R453). -/
inductive TapInstr where
  | bypass | idcode | sample | extest | highz | clamp
deriving DecidableEq, Repr

/-- Pins, rails and the power-up sequence (R446 to R457): PORST_N and RESET_N as levels; the highest step reached; the rail that is being enabled;
the rails with power good as a mask; POWER_FAULT; whether the sequence waits at step 4; what the board ties the straps to (COORD in bits 14 to 0,
RECOVERY in bit 15, I3C_ADDR in bits 17 to 16) ; THERMTRIP_N asserted; the count of ALIVE toggles; rail currents read over PMBus; the TOD_RX FIFO; the
instruction and the registers of the test access port. -/
structure Pins where
  porstN    : Bool := false
  resetN    : Bool := false
  step      : Nat := 1
  enabling  : Option Nat := none
  good      : Nat := 0
  fault     : Nat := 0
  waits     : Bool := false
  straps    : Nat := 0
  thermtrip : Bool := false
  toggles   : Nat := 0
  currents  : KMap Nat := []
  tod       : List Byte := []
  tap       : TapInstr := .bypass
  bypassBit : Bool := false
  bsr       : List Bool := []
deriving DecidableEq, Repr

/-! ### The chip -/

/-- What the fuses hold (R6, R39, R399, R418, R429); `mac` is the management port's MAC (R421), whose source the manual does not name. -/
structure Fuses where
  grade     : Nat := 1
  major     : Nat := 1
  minor     : Nat := 0
  lifecycle : Nat := 2
  svn       : Nat := 0
  revoked   : Nat := 0
  serial    : List Byte := List.replicate 16 0
  mac       : Nat := 0
  uds       : List Byte := List.replicate 32 0
  fek       : List Byte := List.replicate 32 0
  vpk       : List (List Byte) := []
  asym      : KMap Int := []
  vrefVlt   : KMap Nat := []
  vrefMem   : KMap Nat := []
  ctle      : KMap Nat := []
  warn      : KMap Nat := []
  vmin      : Nat := 700
  vmax      : Nat := 850
  vnom      : Nat := 750
deriving DecidableEq, Repr

/-- What leaves the chip, in the order it leaves (log entry 6). -/
inductive Out where
  /-- What a lane of a link sends in training: its taps in 1/64 of full swing, PRE2, PRE1, MAIN, POST1, POST2 (R322), and its training sequence
  (R321). -/
  | training (link lane : Nat) (taps : List Int) (seq : Nat)
  /-- ROS on every lane of a link, for a fast retrain or a full training (R340). -/
  | ros (link : Nat) (full : Bool)
  /-- A frame on a link: its number, the 64 flits by slot, 40 bytes each (R316, R325, R329), and the slots whose flit carries an increment of
  a sync object, with object and value. -/
  | frame (link fn : Nat) (flits : List (List Byte)) (signals : List (Nat × Nat × BitVec 32))
  /-- MGT_IRQ_WATCH, for a flag watch that ended (R427). -/
  | watchIrq (w : Nat)
  /-- What an aperture access of a core reads (R424). -/
  | coreRead (core : Nat) (bytes : List Byte)
  /-- An access fault or bus error to a core (R246, R416, R424). -/
  | coreFault (core : Nat)
  /-- A frame that the management port hands to the cores, in clear (R420). -/
  | mgtDeliver (bytes : List Byte)
  /-- A frame that the management port sends, from the destination address on, less the FCS (R420, R421). -/
  | mgtSend (bytes : List Byte)
  /-- An answer on the service port: the payload of R428. -/
  | service (bytes : List Byte)
  /-- An answer on the I3C bus (R454). -/
  | i3c (bytes : List Byte)
  /-- Bits shifted out on TDO, first bit first (R453). -/
  | tdo (bits : List Bool)
deriving DecidableEq, Repr

/-- The state of one chip. -/
structure State where
  pending  : List Instr := []
  out      : List Out := []
  resp     : Option Word := none
  freeCtr  : Nat := 0
  csr      : KMap Word := []
  fuses    : Fuses := {}
  failedT  : List Nat := []
  failedB  : List Nat := []
  tested   : Bool := false
  shortT   : Bool := false
  flt      : Faults := {}
  snap     : Option Snap := none
  time     : Time := {}
  clk      : Clocks := {}
  ctx      : KMap Ctx := []
  tile     : KMap Tile := []
  hbm      : KMap Hbm := []
  hbmPtr   : Nat := 0
  cxl      : KMap Cxl := []
  mgt      : Memory := []
  mor      : Moraine := {}
  link     : KMap Link := []
  net      : Fabric := {}
  self     : Nat := 0
  req      : KMap Req := []
  admSeq   : Nat := 0
  cloOp    : Option CloOp := none
  partQuar : KMap Word := []
  vault    : KMap Vault := []
  ins      : Install := {}
  srvWait  : Option SrvWait := none
  loader   : Option Loader := none
  port     : Port := {}
  sec      : Security := {}
  pins     : Pins := {}
deriving DecidableEq, Repr

/-- Why the machine stops on a command. -/
inductive Fault where
  /-- A unit that starts a macro-op whose descriptor the loaded image does not define (R169 calls such descriptors undefined and
  gives no effect; the loader rejects an image that names one). Raised by UNIT_START. Safe: the hardware may go on. -/
  | undefinedDescriptor (tile : Nat) (index : Nat)
deriving DecidableEq, Repr

/-- Why a command has no meaning in the model. -/
inductive Refusal where
  /-- A command whose meaning is not written yet. Safe. -/
  | notModelled (mnemonic : String)
deriving DecidableEq, Repr

/-- The machine right after reset. -/
def State.reset : State := {}

end Sys2Proof.Machine
end

