-- ==== Sys2Proof/Machine/Arith.lean ====
section
/-! DEFINITION. The integer arithmetic of a tile, bit for bit as 04_tile_and_arithmetic.md gives it: rounding, dot products
and their accumulators, packing, requantisation, the function unit and the scaled vector operations. Functions that may
saturate answer whether they did, for the count of R88. -/

namespace Sys2Proof.Machine

/-- v / 2^s rounded half to even; 0 from 120 places on (R79). -/
def rneShr (v : Int) (s : Nat) : Int :=
  if s = 0 then v
  else if 120 ≤ s then 0
  else
    let q := v / (2 ^ s : Nat)
    let r := v % (2 ^ s : Nat)
    let h : Int := (2 ^ (s - 1) : Nat)
    if h < r ∨ (r = h ∧ q % 2 = 1) then q + 1 else q

/-- n / d rounded half to even, d > 0 (R79). -/
def rneDiv (n d : Int) : Int :=
  let q := n / d
  let r := n % d
  if d < 2 * r ∨ (2 * r = d ∧ q % 2 = 1) then q + 1 else q

/-- n / d rounded up, d > 0 (R79). -/
def ceilDivI (n d : Int) : Int := -(-n / d)

/-- An integer clamped to a range, and whether it had to be (R79). -/
def satI (v lo hi : Int) : Int × Bool := if v < lo then (lo, true) else if hi < v then (hi, true) else (v, false)

/-- The number of bits of a magnitude (R79). -/
def bitlen (x : Nat) : Nat := if x = 0 then 0 else Nat.log2 x + 1

/-- The largest s below 2^n whose square is at most u, found bit by bit (R79). -/
def isqrtBits (u : Nat) : Nat → Nat → Nat
  | 0, s => s
  | n + 1, s => isqrtBits u n (if (s + 2 ^ n) * (s + 2 ^ n) ≤ u then s + 2 ^ n else s)

/-- The integer square root (R79); operands lie below 2^126. -/
def isqrt (u : Nat) : Nat := isqrtBits u 63 0

/-- The largest code of A32 that the device produces. -/
def a32Max : Int := 2147483647

/-- A block of 32 elements: codes and scale (m, e) (R76). -/
structure Block where
  codes : List Int
  m     : Nat
  e     : Int
deriving DecidableEq, Repr

/-- The block that a masked output takes in A32 (R76, R109). -/
def Block.zeroA32 : Block := { codes := List.replicate 32 0, m := 1, e := 0 }

/-- The accumulator's normalisation loop (R80): halve while the magnitude reaches 2^62. -/
def Acc.norm : Nat → Acc → Acc
  | 0, a => a
  | n + 1, a => if 2 ^ 62 ≤ a.mant.natAbs then Acc.norm n { a with mant := rneShr a.mant 1, exp := a.exp + 1 } else a

/-- One block applied to an accumulator: its exact sum of products P, and the two scales (R80). -/
def Acc.apply (a : Acc) (p : Int) (ma mb : Nat) (ea eb : Int) : Acc :=
  let t := p * (ma * mb : Nat)
  let te := ea + eb
  if t = 0 then a
  else if a.empty then Acc.norm 4 { mant := t, exp := te, empty := false }
  else
    let e := max a.exp te
    Acc.norm 4 { mant := rneShr a.mant (e - a.exp).toNat + rneShr t (e - te).toNat, exp := e, empty := false }

/-- The exact sum of products of two blocks' codes. -/
def dotCodes (a b : List Int) : Int := (List.zipWith (· * ·) a b).foldl (· + ·) 0

/-- The blocks of two lines applied in ascending order (R80). -/
def Acc.dot (a : Acc) (x y : List Block) : Acc :=
  (x.zip y).foldl (fun a b => a.apply (dotCodes b.1.codes b.2.codes) b.1.m b.2.m b.1.e b.2.e) a

/-- The accumulator that starts from an output element (R81). -/
def Acc.ofElement (code : Int) (m : Nat) (e : Int) : Acc :=
  if code * m = 0 then {} else { mant := code * m, exp := e, empty := false }

/-- PACK32: 32 mantissas with their exponents to an A32 block; true when an element or the exponent saturates (R82). -/
def pack32 (xs : List (Int × Int)) : Block × Bool :=
  let live := xs.filter fun x => x.1 ≠ 0
  match live with
  | [] => ({ codes := xs.map fun _ => 0, m := 1, e := 0 }, false)
  | _ =>
    let e0 := live.foldl (fun (e : Int) x => max e (x.2 + ((bitlen x.1.natAbs - 31 : Nat) : Int))) (-32768)
    let eLo := max e0 (-128)
    let e := min eLo 127
    let out := xs.map fun x =>
      satI (if x.2 ≤ e then rneShr x.1 (e - x.2).toNat else x.1 * (2 ^ (min (x.2 - e).toNat 64) : Nat)) (-a32Max) a32Max
    ({ codes := out.map Prod.fst, m := 1, e := e }, decide (127 < eLo) || out.any Prod.snd)

/-- The accumulators of 32 output columns packed; an empty one packs as 0 (R82). -/
def packAccs (xs : List Acc) : Block × Bool :=
  pack32 (xs.map fun a => if a.empty then (0, a.exp) else (a.mant, a.exp))

/-- The target T of a narrow format (R75). -/
def fmtTarget (fmt : Nat) : Int := if fmt = 0 then 127 else if fmt = 1 then 7 else 1

/-- ceil(M / (T * 2^k)) for any sign of k (R85). -/
def scaledMax (mx : Nat) (t k : Int) : Int :=
  if k < 0 then ceilDivI (mx * (2 ^ (-k).toNat : Nat)) t else ceilDivI mx (t * (2 ^ k.toNat : Nat))

/-- The smallest k from `k` on with the scaled maximum at most 255 (R85). -/
def smallestK (mx : Nat) (t : Int) : Nat → Int → Int
  | 0, k => k
  | n + 1, k => if scaledMax mx t k ≤ 255 then k else smallestK mx t n (k + 1)

/-- The codes of a requantised block under a scale mo and the shift k (the loop of R85). -/
def requantCodes (w : List Int) (t k : Int) (mo : Nat) : List (Int × Bool) :=
  w.map fun x => satI (rneDiv (x * (2 ^ (-k).toNat : Nat)) (mo * (2 ^ k.toNat : Nat) : Nat)) (-t) t

/-- Requantisation of an A32 block to a narrow format in MAXABS mode (R85). -/
def requantMax (b : Block) (fmt : Nat) : Block × Bool :=
  let t := fmtTarget fmt
  let w : List Int := b.codes.map fun a => a * (b.m : Int)
  let mx := w.foldl (fun n x => max n x.natAbs) 0
  if mx = 0 then ({ codes := b.codes.map fun _ => 0, m := 0, e := 0 }, false)
  else
    let k0 := smallestK mx t 96 (-48)
    let eo0 := b.e + k0
    let (k, eo, mo) :=
      if eo0 < -128 then (-128 - b.e, -128, (scaledMax mx t (-128 - b.e)).toNat)
      else if 127 < eo0 then (127 - b.e, 127, 255)
      else (k0, eo0, (scaledMax mx t k0).toNat)
    let out := requantCodes w t k mo
    ({ codes := out.map Prod.fst, m := mo, e := eo }, out.any Prod.snd)

/-- Requantisation in FIXED mode with the operand's scale (R86). -/
def requantFixed (b : Block) (fmt mo : Nat) (eo : Int) : Block × Bool :=
  let out := requantCodes (b.codes.map fun a => a * (b.m : Int)) (fmtTarget fmt) (eo - b.e) mo
  ({ codes := out.map Prod.fst, m := mo, e := eo }, out.any Prod.snd)

/-- Entries 0 to 63 of the exponent ROM (R90). -/
def expRom1 : List Nat :=
  [
   1073741824, 1070838486, 1067942999, 1065055341, 1062175491, 1059303428, 1056439131, 1053582579, 1050733751,
   1047892626, 1045059183, 1042233401, 1039415261, 1036604740, 1033801819, 1031006477, 1028218693, 1025438448,
   1022665720, 1019900489, 1017142735, 1014392438, 1011649578, 1008914134, 1006186087, 1003465416, 1000752102,
   998046124, 995347464, 992656100, 989972014, 987295185, 984625594, 981963222, 979308048, 976660054,
   974019220, 971385527, 968758955, 966139485, 963527098, 960921775, 958323496, 955732243, 953147997,
   950570738, 948000448, 945437108, 942880699, 940331203, 937788600, 935252872, 932724001, 930201967,
   927686753, 925178340, 922676710, 920181844, 917693724, 915212331, 912737649, 910269657, 907808339, 905353676]

/-- Entries 64 to 127 of the exponent ROM (R90). -/
def expRom2 : List Nat :=
  [
   902905651, 900464244, 898029440, 895601218, 893179563, 890764456, 888355878, 885953814, 883558244,
   881169153, 878786521, 876410331, 874040567, 871677210, 869320244, 866969651, 864625413, 862287515,
   859955938, 857630665, 855311680, 852998965, 850692504, 848392279, 846098274, 843810471, 841528855,
   839253408, 836984114, 834720956, 832463917, 830212982, 827968132, 825729353, 823496627, 821269938,
   819049271, 816834607, 814625932, 812423229, 810226483, 808035676, 805850792, 803671817, 801498734,
   799331526, 797170178, 795014675, 792865000, 790721137, 788583072, 786450787, 784324269, 782203500,
   780088465, 777979150, 775875538, 773777614, 771685363, 769598769, 767517817, 765442492, 763372778, 761308661]

/-- Entries 128 to 191 of the exponent ROM (R90). -/
def expRom3 : List Nat :=
  [
   759250125, 757197155, 755149737, 753107854, 751071493, 749040637, 747015274, 744995386, 742980960,
   740971982, 738968435, 736970306, 734977579, 732990241, 731008277, 729031671, 727060411, 725094480,
   723133865, 721178552, 719228525, 717283772, 715344277, 713410026, 711481005, 709557200, 707638598,
   705725183, 703816941, 701913860, 700015924, 698123120, 696235434, 694352853, 692475362, 690602947,
   688735596, 686873293, 685016026, 683163781, 681316545, 679474303, 677637043, 675804750, 673977412,
   672155015, 670337545, 668524990, 666717336, 664914570, 663116678, 661323648, 659535466, 657752119,
   655973594, 654199878, 652430958, 650666822, 648907455, 647152846, 645402981, 643657847, 641917433, 640181724]

/-- Entries 192 to 255 of the exponent ROM (R90). -/
def expRom4 : List Nat :=
  [
   638450708, 636724373, 635002706, 633285695, 631573326, 629865587, 628162466, 626463950, 624770026,
   623080683, 621395908, 619715688, 618040012, 616368866, 614702239, 613040119, 611382493, 609729349,
   608080675, 606436459, 604796689, 603161352, 601530438, 599903933, 598281827, 596664106, 595050760,
   593441776, 591837143, 590236848, 588640881, 587049229, 585461881, 583878825, 582300049, 580725543,
   579155293, 577589290, 576027521, 574469975, 572916640, 571367506, 569822560, 568281792, 566745190,
   565212742, 563684439, 562160268, 560640218, 559124278, 557612438, 556104685, 554601009, 553101399,
   551605844, 550114332, 548626854, 547143398, 545663953, 544188508, 542717053, 541249576, 539786068, 538326517]

/-- Entries 256 to 256 of the exponent ROM (R90). -/
def expRom5 : List Nat :=
  [
   536870912]

/-- The exponent ROM: T[i] = 2^(30 - i/256) rounded to the nearest integer, i = 0 to 256 (R90). -/
def expRom : List Nat := expRom1 ++ expRom2 ++ expRom3 ++ expRom4 ++ expRom5

/-- An element in Q16, with its saturation (R89). -/
def toQ16 (q : Int) (m : Nat) (e : Int) : Int × Bool :=
  let w := q * m
  let s := e + 16
  satI (if 0 ≤ s then w * (2 ^ (min s.toNat 64) : Nat) else rneShr w (-s).toNat) (-a32Max) a32Max

/-- The natural exponent of a non-positive Q16 argument in Q30 (R90). -/
def expQ30 (d : Int) : Nat :=
  let nd := (-(rneShr (d * 24204406) 24)).toNat
  let n := nd / 65536
  let f := nd % 65536
  if 31 ≤ n then 0
  else
    let i := f / 256
    let r := f % 256
    let ti : Int := expRom.getD i 0
    let tn : Int := expRom.getD (i + 1) 0
    (rneShr (ti - rneShr ((ti - tn) * r) 8) n).toNat

/-- The sigmoid in Q30 (R91). -/
def sigQ30 (x : Int) : Int :=
  if 0 ≤ x then rneDiv (2 ^ 60 : Nat) (2 ^ 30 + expQ30 (-x) : Nat)
  else rneDiv (expQ30 x * 2 ^ 30 : Nat) (2 ^ 30 + expQ30 x : Nat)

/-- The mantissa of SILU, exponent -46 (R91). -/
def siluMant (x : Int) : Int := x * sigQ30 x

/-- The mantissa of GELU, exponent -46 (R91). -/
def geluMant (x : Int) : Int :=
  let xc := clampI (-1048576) 1048576 x
  let x3 := rneShr (rneShr (xc * xc) 16 * xc) 16
  let u := rneShr (104581 * (xc + rneShr (2930 * x3) 16)) 16
  x * sigQ30 u

/-- SOFTMAX of the Q16 elements of a row; an element that is none is masked out and gives 0 (R92). -/
def softmaxRow (xs : List (Option Int)) : List Int :=
  match xs.filterMap id with
  | [] => xs.map fun _ => 0
  | v :: vs =>
    let mx := vs.foldl max v
    let y (x : Int) : Nat := expQ30 (x - mx)
    let s := sumN ((v :: vs).map y)
    let r := rneDiv (2 ^ 61 : Nat) s
    xs.map fun x => match x with
      | some x => rneShr (y x * r) 31
      | none => 0

/-- The common exponent of a row's valid blocks with a multiplier that is not 0 (R93). -/
def normExp (bs : List Block) : Option Int :=
  (bs.filter fun b => b.m ≠ 0).foldl (fun e b => some (match e with | some x => max x b.e | none => b.e)) none

/-- RMSNORM and LAYERNORM of a row of blocks with `n` valid elements, a gain line, and epsilon (R93): the mantissa and exponent of
each element before packing (0 where the row's rule gives 0). -/
def normRow (layer : Bool) (bs gain : List Block) (n : Nat) (epsM : Nat) (epsE : Int) : List (Int × Int) :=
  let total := sumN (bs.map fun b => b.codes.length)
  let zero := List.replicate total ((0 : Int), (0 : Int))
  match normExp (bs.take (ceilDiv n 32)) with
  | none => zero
  | some ec =>
    if n = 0 then zero
    else
      let c0 := (bs.flatMap fun b => b.codes.map fun a => rneShr (a * b.m) (ec - b.e).toNat).take n
      let mu := rneDiv (c0.foldl (· + ·) 0) n
      let c := if layer then c0.map (· - mu) else c0
      let ss := c.foldl (fun s x => s + x * x) 0
      let sh := epsE - 2 * ec
      let eps : Int := if 0 ≤ sh then (epsM * 2 ^ sh.toNat : Nat) else rneShr epsM (-sh).toNat
      let v := (rneDiv ss n + eps).toNat
      if v = 0 then zero
      else
        let t0 : Int := 62 - (bitlen v : Int)
        let t : Int := if t0 % 2 = 1 then t0 - 1 else t0
        let u := if 0 ≤ t then v * 2 ^ t.toNat else v / 2 ^ (-t).toNat
        let rcp := rneDiv (2 ^ 61 : Nat) (isqrt u)
        let g := gain.flatMap fun b => b.codes.map fun q => (q * (b.m : Int), b.e)
        let out := List.zipWith (fun x (gm : Int × Int) => (rneShr (x * rcp) 31 * gm.1, t / 2 - 30 + gm.2)) c g
        padTo out total (0, 0)

/-- Scaled addition of two blocks before packing (R94). -/
def taddBlock (a b : Block) : List (Int × Int) :=
  let e := max a.e b.e
  List.zipWith (fun x y => (rneShr (x * a.m) (e - a.e).toNat + rneShr (y * b.m) (e - b.e).toNat, e)) a.codes b.codes

/-- Scaled multiplication of two blocks before packing (R94). -/
def tmulBlock (a b : Block) : List (Int × Int) :=
  List.zipWith (fun x y =>
    let p : Int := (x * (a.m : Int)) * (y * (b.m : Int))
    let sh := bitlen p.natAbs - 62
    (rneShr p sh, a.e + b.e + sh)) a.codes b.codes

/-- A result taken modulo 2^32 as a signed code. -/
def wrap32 (x : Int) : Int := signedOf 32 (unsignedOf 32 x)

/-- A result saturated to the codes that the device produces (R94). -/
def sat32 (x : Int) : Int × Bool := satI x (-a32Max) a32Max

end Sys2Proof.Machine
end

