-- ==== Sys2Proof/Config.lean ====
section
/-! DEFINITION. What the manual leaves free (constants with no body), and the cryptographic functions that the
manual names and does not define. Nothing in Lean can compute them, so a statement holds for every choice. -/

namespace Sys2Proof.Config

/-- DESIGN CHOICE (log entry 8). The n-th free value drawn since reset: where the manual says that a value results
and does not say which, the step takes this one and advances `State.freeCtr`. -/
opaque free : Nat → Word

/-- DESIGN CHOICE (log entry 8). The payload of a flit whose content the manual does not state (R325 IDLE, R115 SIGNAL), by a draw's number and
the slot; a step cuts or fills it to 32 bytes. -/
opaque filler : (draw slot : Nat) → List Byte

/-- DESIGN CHOICE (log entry 8). A free value that a plan can see, by what the plan is and where it stands alone, since plan-visible bits depend on
nothing else (R17): the image, the step, the virtual tile, the macro-op, and the lane. -/
opaque planFree : (image : List Byte) → (step vtile op lane : Nat) → Word

/-- DESIGN CHOICE (log entry 8). The token of a row that has no candidate, by the seed of its request and its token index (R17). -/
opaque openToken : (seed : List Byte) → (index : Nat) → Word

/-- DESIGN CHOICE (log entry 8). What a tensor-engine macro-op leaves in the stationary-operand buffers, by step, tile and macro-op. -/
opaque stationary : (step tile op : Nat) → List Byte

/-- DESIGN CHOICE (log entry 9). AES-256-GCM of one firmware block (R419 step 4): key, IV, associated data, ciphertext and
tag to the plaintext, or none when the tag does not verify. -/
opaque gcmOpen : (key iv aad ct tag : List Byte) → Option (List Byte)

/-- DESIGN CHOICE (log entry 9). ECDSA verification over brainpoolP384r1 (R419 step 3, R433): public key, digest, signature. -/
opaque ecdsaVerify : (vpk digest sig : List Byte) → Bool

/-- DESIGN CHOICE (log entry 9). An ECDSA signature over brainpoolP384r1: private key, digest and the free random number. -/
opaque ecdsaSign : (key digest : List Byte) → (nonce : Word) → List Byte

/-- DESIGN CHOICE (log entry 9). HKDF-SHA-384 from a secret, a salt and an info string (R429). -/
opaque hkdf : (secret salt info : List Byte) → List Byte

/-- DESIGN CHOICE (log entry 9). The uncompressed public key (97 bytes) of a private key (R429). -/
opaque publicKey : (key : List Byte) → List Byte

/-- DESIGN CHOICE (log entry 9). IEEE 802.1AE validation of a protected frame under GCM-AES-256 (R420 step 4): key, SCI,
lowest acceptable packet number and frame, to the frame in clear and its packet number, or none. -/
opaque macsecOpen : (key : List Byte) → (sci : Word) → (lowestPn : Nat) → (frame : List Byte) → Option (List Byte × Nat)

/-- DESIGN CHOICE (log entry 9). IEEE 802.1AE protection of a frame that is sent (R420). -/
opaque macsecSeal : (key : List Byte) → (sci : Word) → (pn : Nat) → (frame : List Byte) → List Byte

end Sys2Proof.Config
end

