-- ==== Sys2Proof/Machine/RegMap.lean ====
section
/-! DEFINITION. The registers of control space by name, as the register tables of the manual give them: place, indices,
fields that software writes (RW), clears by writing 1 (W1C) or clears by reading (RC), and the reset value (0 where
the value comes from fuses, straps or other state: those fields are computed when they are read, Registers.lean).
EXPERT_UNLOCK registers stand in Window.lean (R36). -/

namespace Sys2Proof.Machine

/-- The registers by the manual's names. -/
inductive RegName where
  -- R6
  | chpIdent
  -- R32
  | swtEntry | swtDigest
  -- R69
  | timMt | timStatus | timOffset | timRootCtl | timMtSet | timPpsLatch | timCtxPcy | timCtxState | timCtxLaunch
  | timCtxStop | timCtxResume | timCtxFrostTotal | timCtxFrostCount | timCtxFrostLimit | timFrostHead
  | timFrostTail | timFrostRec | timAsym
  -- R97
  | tilArithSat | tilSramCe | tilSramUe | tilBankWait | tilExpRom
  -- R131
  | tilSeqStatus | tilSeqPc | tilSeqBase | tilSeqStep | tilUnitQ | tilDescSel | tilDescData | tilCountClamp
  -- R154
  | tilSyncCount | tilSyncInfo | tilSyncLast | tilQstat | tilSyncWatch | tilSyncWatchDl | tilSyncDrop
  -- R176
  | ldrCmd | ldrSrc | ldrLen | ldrStatus | ldrWhere | ldrRefuse | ldrChip | ldrCtxImage
  -- R205
  | insCmd | insSession | insRingBase | insRingSlots | insStatus | insResume | insCounts
  -- R206
  | vltStatus | vltCmd | vltCmdStatus | vltCe | vltUeLog | vltCeLimit | vltBlockSel | vltBlockInfo | vltGroup
  | vltRegionW0 | vltRegionW1 | vltRegionDigest | vltVref
  -- R236
  | srvCmd | srvArg0 | srvArg1 | srvArg2 | srvArg3 | srvCmdStatus | srvCmdResult | srvStatus | srvRecSel
  | srvRecData
  -- R237
  | srvCtxEnd | srvCtxStep | srvCtxRring | srvCtxRrcfg | srvCtxStepEst | srvCtxEndvar | srvCtxMiss | srvCtxVtab
  -- R266
  | memStatus | memCmd | memCmdStatus | memCe | memUeLog | memTemp | memScrub | memRetired | memCeLimit | memCode
  | memVref
  -- R267
  | cxlStatus | cxlHealth | cxlPoll | cxlPoison | cxlPoisonLog
  -- R268
  | morCtl | morEpoch | morScan | morPromoteMin | morHotSteps | morStat | morCmd | morArg0 | morArg1 | morArg2
  | morCmdStatus | morCtxKv0 | morCtxKv1 | morCtxKv2 | morCtxRes | morCtxPtSel | morCtxPtData
  -- R289
  | cloCmd | cloArg0 | cloArg1 | cloArg2 | cloCmdStatus | cloCmdResult | cloStatus | cloDrainLimit | cloCtxState
  | cloCtxMem | cloCtxVault | cloCtxQuota | cloCtxPreempt | cloCtxSave | cloMapSel | cloMapData | cloTile
  -- R314
  | netDrop0 | netDrop1 | netDrop2 | netResend | netUnschedWait | netVcbuf | netSampleCtl | netSampleRecW0
  | netSampleRecW1 | netSampleRecW2 | netSampleRecW3 | netCtxEpoch | netRtSel | netRtData | netMeshSel
  | netMeshData | netUnschedW
  -- R347
  | lnkStatus | lnkCtl | lnkCmd | lnkCmdStatus | lnkRtt | lnkReplayCtl | lnkDownCtl | lnkSpare | lnkCe
  | lnkReplays | lnkRetrains | lnkLaneSel | lnkLaneData | lnkLaneCtl | lnkTxeq | lnkRxeq
  -- R375
  | netTopo | netPartCmd | netPartArg0 | netPartArg1 | netPartArg2 | netPartArg3 | netPartCmdStatus
  | netLaunchLead | netLaunchStatus | netPartEnt0 | netPartEnt1 | netPartDeadline | netPartTl | netPartImg
  | netPartQuar | netLedgerHold | netLedgerBar | netLedgerSlack | netLedgerCtl | netLedgerRank
  -- R399
  | clkStatus | clkCap | clkVolt | clkMgtMux | clkSpMux | clkGateCmd | clkGateStatus | clkFmeasCtl | clkFmeasRes
  | clkSsc | clkTherm | clkAdv | clkMarginCtl | clkMeshMargin | clkRegion | clkRegionSteps | clkRegionEvents
  | clkRegionMinm | clkMarginCal
  -- R415
  | fltStatus | fltLost | fltAck | fltAlive | fltAliveKick | fltCountCfg | fltRec | fltFatal | fltJrnCtl
  | fltJrnBase | fltJrnSize | fltJrnHead | fltJrnTail | fltJrnStatus | fltJrnDivstep | fltSnapCmd | fltSnapArg
  | fltSnapStatus | fltSnapDigest | fltInject
  -- R441
  | secStatus | secCmd | secArg0 | secArg1 | secArg2 | secCmdStatus | secTrialLimit | secSlot | secSlotVer
  | secMeas | secVpk
  -- R442
  | mgtPortCtl | mgtPortCnt | mgtRate | mgtSecyCtl | mgtSaSel | mgtSaKey | mgtSaSci | mgtSaCtl | mgtNetIp
  | mgtNetConflict | mgtPtpRx | mgtPtpTx | mgtVlan | mgtPeer | mgtAper | mgtAperRange | mgtAperStatus
  | mgtFlagWatch | mgtFlagWatchDl
  -- R455
  | chpStrap | chpResetCause | chpTod | chpRail
deriving DecidableEq, Repr

/-- One row of a register table: the address of the first instance, the counts and strides of its indices, and the
masks of its fields by access code (R23). -/
structure RegRow where
  base  : Nat
  dims  : List (Nat × Nat) := []
  rw    : Nat := 0
  w1c   : Nat := 0
  rc    : Nat := 0
  reset : Nat := 0
deriving DecidableEq, Repr

/-- The rows of the register tables. -/
def RegName.row : RegName → RegRow
  | .chpIdent => { base := 0x10000, reset := 0x57010000 }
  | .swtEntry => { base := 0x0, dims := [(2428, 0x8)] }
  | .swtDigest => { base := 0x7f00, dims := [(6, 0x8)] }
  | .timMt => { base := 0x20000 }
  | .timStatus => { base := 0x20008, w1c := 0x1000, reset := 0xff8 }
  | .timOffset => { base := 0x20010 }
  | .timRootCtl => { base := 0x20018, rw := 1 }
  | .timMtSet => { base := 0x20020 }
  | .timPpsLatch => { base := 0x20028 }
  | .timCtxPcy => { base := 0x20800, dims := [(32, 0x40)] }
  | .timCtxState => { base := 0x20808, dims := [(32, 0x40)] }
  | .timCtxLaunch => { base := 0x20810, dims := [(32, 0x40)] }
  | .timCtxStop => { base := 0x20818, dims := [(32, 0x40)], rw := 0xffffffffffffffff }
  | .timCtxResume => { base := 0x20820, dims := [(32, 0x40)] }
  | .timCtxFrostTotal => { base := 0x20828, dims := [(32, 0x40)] }
  | .timCtxFrostCount => { base := 0x20830, dims := [(32, 0x40)] }
  | .timCtxFrostLimit => { base := 0x20838, dims := [(32, 0x40)], rw := 0xffffffffff, reset := 0x4a817c80 }
  | .timFrostHead => { base := 0x20030 }
  | .timFrostTail => { base := 0x20038, rw := 0xff }
  | .timFrostRec => { base := 0x21000, dims := [(256, 0x20), (4, 0x8)] }
  | .timAsym => { base := 0x30000, dims := [(6, 0x8)], rw := 0xffff0000 }
  | .tilArithSat => { base := 0x10000100, dims := [(576, 0x10000)], rc := 0xffffffff }
  | .tilSramCe => { base := 0x10000108, dims := [(576, 0x10000)], rc := 0xffffffff }
  | .tilSramUe => { base := 0x10000110, dims := [(576, 0x10000)], w1c := 0x8000000000000000 }
  | .tilBankWait => { base := 0x10000118, dims := [(576, 0x10000)], rc := 0xffffffffffff }
  | .tilExpRom => { base := 0x10000200, dims := [(576, 0x10000), (257, 0x8)] }
  | .tilSeqStatus => { base := 0x10001000, dims := [(576, 0x10000)] }
  | .tilSeqPc => { base := 0x10001008, dims := [(576, 0x10000)] }
  | .tilSeqBase => { base := 0x10001010, dims := [(576, 0x10000)] }
  | .tilSeqStep => { base := 0x10001018, dims := [(576, 0x10000)] }
  | .tilUnitQ => { base := 0x10001020, dims := [(576, 0x10000)] }
  | .tilDescSel => { base := 0x10001028, dims := [(576, 0x10000)], rw := 0x3ff }
  | .tilDescData => { base := 0x10001030, dims := [(576, 0x10000), (4, 0x8)] }
  | .tilCountClamp => { base := 0x10001050, dims := [(576, 0x10000)], rc := 0xffffffff }
  | .tilSyncCount => { base := 0x10002000, dims := [(576, 0x10000), (48, 0x8)] }
  | .tilSyncInfo => { base := 0x10002200, dims := [(576, 0x10000), (48, 0x8)] }
  | .tilSyncLast => { base := 0x10002400, dims := [(576, 0x10000), (48, 0x8)] }
  | .tilQstat => { base := 0x10002600, dims := [(576, 0x10000), (6, 0x8)], rc := 0xffffffff0fc0 }
  | .tilSyncWatch => { base := 0x10002700, dims := [(576, 0x10000), (3, 0x10)], rw := 0x3fffffffff, w1c := 0x10000000000 }
  | .tilSyncWatchDl => { base := 0x10002708, dims := [(576, 0x10000), (3, 0x10)], rw := 0xffffffffffffffff }
  | .tilSyncDrop => { base := 0x10002800, dims := [(576, 0x10000)], rc := 0xffffffff }
  | .ldrCmd => { base := 0x110000 }
  | .ldrSrc => { base := 0x110008, rw := 0xffffffffffffffff }
  | .ldrLen => { base := 0x110010, rw := 0xffffffffffffffff }
  | .ldrStatus => { base := 0x110018, w1c := 2 }
  | .ldrWhere => { base := 0x110020 }
  | .ldrRefuse => { base := 0x110028, w1c := 0x2000 }
  | .ldrChip => { base := 0x110030 }
  | .ldrCtxImage => { base := 0x110100, dims := [(32, 0x40), (6, 0x8)] }
  | .insCmd => { base := 0x111000 }
  | .insSession => { base := 0x111008, rw := 0xffffffffffffffff }
  | .insRingBase => { base := 0x111010, rw := 0xffffffffffffffff }
  | .insRingSlots => { base := 0x111018, rw := 0xffff }
  | .insStatus => { base := 0x111020, w1c := 4 }
  | .insResume => { base := 0x111028 }
  | .insCounts => { base := 0x111030, rc := 0xffffffffffffffff }
  | .vltStatus => { base := 0x400000, dims := [(4, 0x40000)] }
  | .vltCmd => { base := 0x400008, dims := [(4, 0x40000)] }
  | .vltCmdStatus => { base := 0x400010, dims := [(4, 0x40000)], w1c := 0x100 }
  | .vltCe => { base := 0x400018, dims := [(4, 0x40000)], rc := 0xffffffff }
  | .vltUeLog => { base := 0x400020, dims := [(4, 0x40000)], w1c := 0x8000000000000000 }
  | .vltCeLimit => { base := 0x400028, dims := [(4, 0x40000)], rw := 0xffff, reset := 0x100 }
  | .vltBlockSel => { base := 0x400030, dims := [(4, 0x40000)], rw := 0x7ff }
  | .vltBlockInfo => { base := 0x400038, dims := [(4, 0x40000)] }
  | .vltGroup => { base := 0x400100, dims := [(4, 0x40000), (8, 0x8)] }
  | .vltRegionW0 => { base := 0x401000, dims := [(4, 0x40000), (64, 0x40)] }
  | .vltRegionW1 => { base := 0x401008, dims := [(4, 0x40000), (64, 0x40)] }
  | .vltRegionDigest => { base := 0x401010, dims := [(4, 0x40000), (64, 0x40), (6, 0x8)] }
  | .vltVref => { base := 0x420000, dims := [(4, 0x40000)], rw := 0xff00 }
  | .srvCmd => { base := 0x140000 }
  | .srvArg0 => { base := 0x140008, rw := 0xffffffffffffffff }
  | .srvArg1 => { base := 0x140010, rw := 0xffffffffffffffff }
  | .srvArg2 => { base := 0x140018, rw := 0xffffffffffffffff }
  | .srvArg3 => { base := 0x140020, rw := 0xffffffffffffffff }
  | .srvCmdStatus => { base := 0x140028, w1c := 0x100 }
  | .srvCmdResult => { base := 0x140030 }
  | .srvStatus => { base := 0x140038, reset := 0x4000 }
  | .srvRecSel => { base := 0x140100, rw := 0xffffffff }
  | .srvRecData => { base := 0x140108, dims := [(8, 0x8)] }
  | .srvCtxEnd => { base := 0x141000, dims := [(32, 0x100)], rw := 0xffffffffffffffff, reset := 0xffffffffffffffff }
  | .srvCtxStep => { base := 0x141008, dims := [(32, 0x100)] }
  | .srvCtxRring => { base := 0x141010, dims := [(32, 0x100)], rw := 0xffffffffffffffff }
  | .srvCtxRrcfg => { base := 0x141018, dims := [(32, 0x100)], rw := 0xff }
  | .srvCtxStepEst => { base := 0x141020, dims := [(32, 0x100)], rw := 0xffffffff }
  | .srvCtxEndvar => { base := 0x141028, dims := [(32, 0x100)], rw := 0xff }
  | .srvCtxMiss => { base := 0x141030, dims := [(32, 0x100)], rc := 0xffffffffffffffff }
  | .srvCtxVtab => { base := 0x141080, dims := [(32, 0x100), (16, 0x8)], rw := 0x800fffffffffffff }
  | .memStatus => { base := 0x200000, dims := [(8, 0x10000)] }
  | .memCmd => { base := 0x200008, dims := [(8, 0x10000)] }
  | .memCmdStatus => { base := 0x200010, dims := [(8, 0x10000)], w1c := 0x100 }
  | .memCe => { base := 0x200018, dims := [(8, 0x10000)], rc := 0xffffffff }
  | .memUeLog => { base := 0x200020, dims := [(8, 0x10000)], w1c := 0x8000000000000000 }
  | .memTemp => { base := 0x200028, dims := [(8, 0x10000)], rw := 0xff00, reset := 0x5500 }
  | .memScrub => { base := 0x200030, dims := [(8, 0x10000)], rw := 0xffff, reset := 0x18 }
  | .memRetired => { base := 0x200038, dims := [(8, 0x10000)] }
  | .memCeLimit => { base := 0x200040, dims := [(8, 0x10000)], rw := 0xffff, reset := 0x10 }
  | .memCode => { base := 0x200048, dims := [(8, 0x10000)], rw := 1 }
  | .memVref => { base := 0x208000, dims := [(8, 0x10000)], rw := 0xff00 }
  | .cxlStatus => { base := 0x300000, dims := [(2, 0x10000)] }
  | .cxlHealth => { base := 0x300008, dims := [(2, 0x10000)] }
  | .cxlPoll => { base := 0x300010, dims := [(2, 0x10000)], rw := 0xffff, reset := 0x3e8 }
  | .cxlPoison => { base := 0x300018, dims := [(2, 0x10000)], rc := 0xffffffffffffffff }
  | .cxlPoisonLog => { base := 0x300020, dims := [(2, 0x10000)], w1c := 0x8000000000000000 }
  | .morCtl => { base := 0x180000, rw := 0xf, reset := 9 }
  | .morEpoch => { base := 0x180008, rw := 0xffffffffff, reset := 0x1312d0 }
  | .morScan => { base := 0x180010, rw := 0xffffffff, reset := 0x30d4 }
  | .morPromoteMin => { base := 0x180018, rw := 0xffff, reset := 0x40 }
  | .morHotSteps => { base := 0x180020, rw := 0xff, reset := 0x40 }
  | .morStat => { base := 0x180028, rc := 0xffffffffffffffff }
  | .morCmd => { base := 0x180030 }
  | .morArg0 => { base := 0x180038, rw := 0xffffffffffffffff }
  | .morArg1 => { base := 0x180040, rw := 0xffffffffffffffff }
  | .morArg2 => { base := 0x180048, rw := 0xffffffffffffffff }
  | .morCmdStatus => { base := 0x180050, w1c := 0x100 }
  | .morCtxKv0 => { base := 0x181000, dims := [(32, 0x40)], rw := 0xffff }
  | .morCtxKv1 => { base := 0x181008, dims := [(32, 0x40)], rw := 0xffffffffffffffff }
  | .morCtxKv2 => { base := 0x181010, dims := [(32, 0x40)], rw := 0xffffffffffffffff }
  | .morCtxRes => { base := 0x181018, dims := [(32, 0x40)] }
  | .morCtxPtSel => { base := 0x181020, dims := [(32, 0x40)], rw := 0x7ffffff }
  | .morCtxPtData => { base := 0x181028, dims := [(32, 0x40)] }
  | .cloCmd => { base := 0x100000 }
  | .cloArg0 => { base := 0x100008, rw := 0xffffff }
  | .cloArg1 => { base := 0x100010, rw := 0xffffffffffffffff }
  | .cloArg2 => { base := 0x100018, rw := 0xffffffffffffffff }
  | .cloCmdStatus => { base := 0x100020, w1c := 0x100 }
  | .cloCmdResult => { base := 0x100028 }
  | .cloStatus => { base := 0x100030, reset := 0x800000 }
  | .cloDrainLimit => { base := 0x100038, rw := 0xffffffff, reset := 0x393870 }
  | .cloCtxState => { base := 0x100800, dims := [(32, 0x40)] }
  | .cloCtxMem => { base := 0x100808, dims := [(32, 0x40)] }
  | .cloCtxVault => { base := 0x100810, dims := [(32, 0x40)] }
  | .cloCtxQuota => { base := 0x100818, dims := [(32, 0x40)] }
  | .cloCtxPreempt => { base := 0x100820, dims := [(32, 0x40)] }
  | .cloCtxSave => { base := 0x100828, dims := [(32, 0x40)] }
  | .cloMapSel => { base := 0x102000, rw := 0x3fff }
  | .cloMapData => { base := 0x102008, reset := 0x3ff }
  | .cloTile => { base := 0x104000, dims := [(576, 0x8)] }
  | .netDrop0 => { base := 0x600000, rc := 0xffffffffffffffff }
  | .netDrop1 => { base := 0x600008, rc := 0xffffffffffffffff }
  | .netDrop2 => { base := 0x600010, rc := 0xffffffffffffffff }
  | .netResend => { base := 0x600018, rc := 0xffffffffffffffff }
  | .netUnschedWait => { base := 0x600020, rc := 0xffffffffffff }
  | .netVcbuf => { base := 0x600100, dims := [(6, 0x8)] }
  | .netSampleCtl => { base := 0x600200, rw := 0x1f }
  | .netSampleRecW0 => { base := 0x600400, dims := [(64, 0x20)] }
  | .netSampleRecW1 => { base := 0x600408, dims := [(64, 0x20)] }
  | .netSampleRecW2 => { base := 0x600410, dims := [(64, 0x20)] }
  | .netSampleRecW3 => { base := 0x600418, dims := [(64, 0x20)] }
  | .netCtxEpoch => { base := 0x601000, dims := [(32, 0x8)] }
  | .netRtSel => { base := 0x602000, rw := 0x3fff }
  | .netRtData => { base := 0x602008 }
  | .netMeshSel => { base := 0x603000, rw := 0x7ffff }
  | .netMeshData => { base := 0x603008 }
  | .netUnschedW => { base := 0x680000, rw := 0xff, reset := 0x14 }
  | .lnkStatus => { base := 0x500000, dims := [(6, 0x10000)], w1c := 0x4000000 }
  | .lnkCtl => { base := 0x500008, dims := [(6, 0x10000)], rw := 0xff, reset := 0x53 }
  | .lnkCmd => { base := 0x500010, dims := [(6, 0x10000)] }
  | .lnkCmdStatus => { base := 0x500018, dims := [(6, 0x10000)], w1c := 0x100 }
  | .lnkRtt => { base := 0x500020, dims := [(6, 0x10000)] }
  | .lnkReplayCtl => { base := 0x500028, dims := [(6, 0x10000)], rw := 0xfff, reset := 0xc4 }
  | .lnkDownCtl => { base := 0x500030, dims := [(6, 0x10000)], rw := 0xffffffffffff, reset := 0x10000000064 }
  | .lnkSpare => { base := 0x500038, dims := [(6, 0x10000)], reset := 0xfff }
  | .lnkCe => { base := 0x500040, dims := [(6, 0x10000)], rc := 0xffffffffffffffff }
  | .lnkReplays => { base := 0x500048, dims := [(6, 0x10000)], rc := 0xffffffffffffffff }
  | .lnkRetrains => { base := 0x500050, dims := [(6, 0x10000)], rc := 0xffffffffffffffff }
  | .lnkLaneSel => { base := 0x500058, dims := [(6, 0x10000)], rw := 0x7f }
  | .lnkLaneData => { base := 0x500060, dims := [(6, 0x10000)], rc := 0x1fffe000, reset := 0xfc }
  | .lnkLaneCtl => { base := 0x500068, dims := [(6, 0x10000)], rw := 0xffffffff, reset := 0x400040 }
  | .lnkTxeq => { base := 0x508000, dims := [(6, 0x10000)], rw := 0x1ffffff }
  | .lnkRxeq => { base := 0x508008, dims := [(6, 0x10000)], rw := 0xff00 }
  | .netTopo => { base := 0x610000, rw := 0x7fff }
  | .netPartCmd => { base := 0x610008 }
  | .netPartArg0 => { base := 0x610010, rw := 0xffffffffff }
  | .netPartArg1 => { base := 0x610018, rw := 0x7fffffff }
  | .netPartArg2 => { base := 0x610020, rw := 0xffffffffffffffff }
  | .netPartArg3 => { base := 0x610028, rw := 0xffffffffffffffff }
  | .netPartCmdStatus => { base := 0x610030, w1c := 0x100 }
  | .netLaunchLead => { base := 0x610038, rw := 0xffffffff, reset := 0x1e848 }
  | .netLaunchStatus => { base := 0x610040, reset := 0x8000000000 }
  | .netPartEnt0 => { base := 0x611000, dims := [(32, 0x40)] }
  | .netPartEnt1 => { base := 0x611008, dims := [(32, 0x40)] }
  | .netPartDeadline => { base := 0x611010, dims := [(32, 0x40)] }
  | .netPartTl => { base := 0x611018, dims := [(32, 0x40)] }
  | .netPartImg => { base := 0x611020, dims := [(32, 0x40)] }
  | .netPartQuar => { base := 0x612000, dims := [(64, 0x8)] }
  | .netLedgerHold => { base := 0x613000, dims := [(6, 0x20)], rc := 0xffffffffffff }
  | .netLedgerBar => { base := 0x613008, dims := [(6, 0x20)], rc := 0xffffffffffffffff }
  | .netLedgerSlack => { base := 0x613010, dims := [(6, 0x20)], rc := 0xffffffffffffffff, reset := 0xffffffff }
  | .netLedgerCtl => { base := 0x613100, rw := 0xffffffffffff, reset := 0x10000000200 }
  | .netLedgerRank => { base := 0x613108, reset := 0x2c688 }
  | .clkStatus => { base := 0x40000 }
  | .clkCap => { base := 0x40008, rw := 7 }
  | .clkVolt => { base := 0x40010, w1c := 0x1000000000000 }
  | .clkMgtMux => { base := 0x40018, rw := 1, reset := 1 }
  | .clkSpMux => { base := 0x40020, rw := 1 }
  | .clkGateCmd => { base := 0x40028 }
  | .clkGateStatus => { base := 0x40030, w1c := 0x100 }
  | .clkFmeasCtl => { base := 0x40038, rw := 0x3ffffdf, reset := 0x186a00 }
  | .clkFmeasRes => { base := 0x40040, w1c := 0x10000000000 }
  | .clkSsc => { base := 0x40048, dims := [(2, 0x8)], rw := 0xff, reset := 0x80 }
  | .clkTherm => { base := 0x40058, rw := 0xffff, reset := 0x7369 }
  | .clkAdv => { base := 0x40060, rc := 0xffffffff00000000 }
  | .clkMarginCtl => { base := 0x40068, rw := 0xfffffffff, reset := 0x50271034 }
  | .clkMeshMargin => { base := 0x40070, reset := 0x3f }
  | .clkRegion => { base := 0x41000, dims := [(16, 0x40)], reset := 0x3f000 }
  | .clkRegionSteps => { base := 0x41008, dims := [(16, 0x40)], rc := 0xffffffffffffffff }
  | .clkRegionEvents => { base := 0x41010, dims := [(16, 0x40)], rc := 0xffffffffffffffff }
  | .clkRegionMinm => { base := 0x41018, dims := [(16, 0x40)], rc := 0x3f, reset := 0x3f }
  | .clkMarginCal => { base := 0x60000, dims := [(17, 0x8)], rw := 0xff00 }
  | .fltStatus => { base := 0x80000 }
  | .fltLost => { base := 0x80008, rc := 0xffffffffffffffff }
  | .fltAck => { base := 0x80010 }
  | .fltAlive => { base := 0x80018, rw := 0x1fffffffff, reset := 0x7d0001f4 }
  | .fltAliveKick => { base := 0x80020 }
  | .fltCountCfg => { base := 0x80108, dims := [(12, 0x8)], rw := 0x1ffffffff, reset := 0x7d00008 }
  | .fltRec => { base := 0x81000, dims := [(512, 0x20), (4, 0x8)] }
  | .fltFatal => { base := 0x85000, dims := [(8, 0x20), (4, 0x8)] }
  | .fltJrnCtl => { base := 0x86000, dims := [(32, 0x40)], rw := 7 }
  | .fltJrnBase => { base := 0x86008, dims := [(32, 0x40)], rw := 0xffffffffffffffff }
  | .fltJrnSize => { base := 0x86010, dims := [(32, 0x40)], rw := 0xffffffffff }
  | .fltJrnHead => { base := 0x86018, dims := [(32, 0x40)] }
  | .fltJrnTail => { base := 0x86020, dims := [(32, 0x40)], rw := 0xffffffffff }
  | .fltJrnStatus => { base := 0x86028, dims := [(32, 0x40)], w1c := 1 }
  | .fltJrnDivstep => { base := 0x86030, dims := [(32, 0x40)] }
  | .fltSnapCmd => { base := 0x87000 }
  | .fltSnapArg => { base := 0x87008, rw := 0xffffffffffffffff }
  | .fltSnapStatus => { base := 0x87010, w1c := 0x100 }
  | .fltSnapDigest => { base := 0x87018, dims := [(6, 0x8)] }
  | .fltInject => { base := 0xa0000 }
  | .secStatus => { base := 0xc0000, w1c := 0x80000 }
  | .secCmd => { base := 0xc0008 }
  | .secArg0 => { base := 0xc0010, rw := 0xffffffffffffffff }
  | .secArg1 => { base := 0xc0018, rw := 0xffffffffffffffff }
  | .secArg2 => { base := 0xc0020, rw := 0xffffffffffffffff }
  | .secCmdStatus => { base := 0xc0028, w1c := 0x100 }
  | .secTrialLimit => { base := 0xc0030, rw := 0xffff, reset := 0x3c }
  | .secSlot => { base := 0xc0100, dims := [(2, 0x10)] }
  | .secSlotVer => { base := 0xc0108, dims := [(2, 0x10)] }
  | .secMeas => { base := 0xc0200, dims := [(3, 0x30), (6, 0x8)] }
  | .secVpk => { base := 0xc0300 }
  | .mgtPortCtl => { base := 0x700000, rw := 0x7f, reset := 0x2d }
  | .mgtPortCnt => { base := 0x700008, dims := [(4, 0x8)], rc := 0xffffffffffffffff }
  | .mgtRate => { base := 0x700028, rw := 0xffffffffffff, reset := 0x1001000040 }
  | .mgtSecyCtl => { base := 0x700030, rw := 0xffffffff }
  | .mgtSaSel => { base := 0x700038, rw := 7 }
  | .mgtSaKey => { base := 0x700040, dims := [(4, 0x8)] }
  | .mgtSaSci => { base := 0x700060, rw := 0xffffffffffffffff }
  | .mgtSaCtl => { base := 0x700068, rw := 0x1ffffffff, reset := 1 }
  | .mgtNetIp => { base := 0x700070, rw := 0x1ffffffff }
  | .mgtNetConflict => { base := 0x700078, w1c := 0x3000000000000 }
  | .mgtPtpRx => { base := 0x700080 }
  | .mgtPtpTx => { base := 0x700088 }
  | .mgtVlan => { base := 0x700100, dims := [(16, 0x8)], rw := 0x1fff }
  | .mgtPeer => { base := 0x700200, dims := [(64, 0x8)], rw := 0x1ffffffffffff }
  | .mgtAper => { base := 0x701000, dims := [(64, 0x10)], rw := 0x1ffffffff }
  | .mgtAperRange => { base := 0x701008, dims := [(64, 0x10)], rw := 0xfff001fffff }
  | .mgtAperStatus => { base := 0x701400 }
  | .mgtFlagWatch => { base := 0x702000, dims := [(16, 0x10)], rw := 0x7fffffffff, w1c := 0x20000000000 }
  | .mgtFlagWatchDl => { base := 0x702008, dims := [(16, 0x10)], rw := 0xffffffffffffffff }
  | .chpStrap => { base := 0x10008 }
  | .chpResetCause => { base := 0x10010 }
  | .chpTod => { base := 0x10018, rc := 0x3ff }
  | .chpRail => { base := 0x10020 }

/-- Part 1 of the list of all registers. -/
def RegName.part1 : List RegName :=
  [
   .chpIdent, .swtEntry, .swtDigest, .timMt, .timStatus, .timOffset, .timRootCtl, .timMtSet, .timPpsLatch,
   .timCtxPcy, .timCtxState, .timCtxLaunch, .timCtxStop, .timCtxResume, .timCtxFrostTotal, .timCtxFrostCount,
   .timCtxFrostLimit, .timFrostHead, .timFrostTail, .timFrostRec, .timAsym, .tilArithSat, .tilSramCe,
   .tilSramUe, .tilBankWait, .tilExpRom, .tilSeqStatus, .tilSeqPc, .tilSeqBase, .tilSeqStep, .tilUnitQ,
   .tilDescSel, .tilDescData, .tilCountClamp, .tilSyncCount, .tilSyncInfo, .tilSyncLast, .tilQstat,
   .tilSyncWatch, .tilSyncWatchDl]
/-- Part 2 of the list of all registers. -/
def RegName.part2 : List RegName :=
  [
   .tilSyncDrop, .ldrCmd, .ldrSrc, .ldrLen, .ldrStatus, .ldrWhere, .ldrRefuse, .ldrChip, .ldrCtxImage, .insCmd,
   .insSession, .insRingBase, .insRingSlots, .insStatus, .insResume, .insCounts, .vltStatus, .vltCmd,
   .vltCmdStatus, .vltCe, .vltUeLog, .vltCeLimit, .vltBlockSel, .vltBlockInfo, .vltGroup, .vltRegionW0,
   .vltRegionW1, .vltRegionDigest, .vltVref, .srvCmd, .srvArg0, .srvArg1, .srvArg2, .srvArg3, .srvCmdStatus,
   .srvCmdResult, .srvStatus, .srvRecSel, .srvRecData, .srvCtxEnd]
/-- Part 3 of the list of all registers. -/
def RegName.part3 : List RegName :=
  [
   .srvCtxStep, .srvCtxRring, .srvCtxRrcfg, .srvCtxStepEst, .srvCtxEndvar, .srvCtxMiss, .srvCtxVtab,
   .memStatus, .memCmd, .memCmdStatus, .memCe, .memUeLog, .memTemp, .memScrub, .memRetired, .memCeLimit,
   .memCode, .memVref, .cxlStatus, .cxlHealth, .cxlPoll, .cxlPoison, .cxlPoisonLog, .morCtl, .morEpoch,
   .morScan, .morPromoteMin, .morHotSteps, .morStat, .morCmd, .morArg0, .morArg1, .morArg2, .morCmdStatus,
   .morCtxKv0, .morCtxKv1, .morCtxKv2, .morCtxRes, .morCtxPtSel, .morCtxPtData]
/-- Part 4 of the list of all registers. -/
def RegName.part4 : List RegName :=
  [
   .cloCmd, .cloArg0, .cloArg1, .cloArg2, .cloCmdStatus, .cloCmdResult, .cloStatus, .cloDrainLimit,
   .cloCtxState, .cloCtxMem, .cloCtxVault, .cloCtxQuota, .cloCtxPreempt, .cloCtxSave, .cloMapSel, .cloMapData,
   .cloTile, .netDrop0, .netDrop1, .netDrop2, .netResend, .netUnschedWait, .netVcbuf, .netSampleCtl,
   .netSampleRecW0, .netSampleRecW1, .netSampleRecW2, .netSampleRecW3, .netCtxEpoch, .netRtSel, .netRtData,
   .netMeshSel, .netMeshData, .netUnschedW, .lnkStatus, .lnkCtl, .lnkCmd, .lnkCmdStatus, .lnkRtt, .lnkReplayCtl]
/-- Part 5 of the list of all registers. -/
def RegName.part5 : List RegName :=
  [
   .lnkDownCtl, .lnkSpare, .lnkCe, .lnkReplays, .lnkRetrains, .lnkLaneSel, .lnkLaneData, .lnkLaneCtl, .lnkTxeq,
   .lnkRxeq, .netTopo, .netPartCmd, .netPartArg0, .netPartArg1, .netPartArg2, .netPartArg3, .netPartCmdStatus,
   .netLaunchLead, .netLaunchStatus, .netPartEnt0, .netPartEnt1, .netPartDeadline, .netPartTl, .netPartImg,
   .netPartQuar, .netLedgerHold, .netLedgerBar, .netLedgerSlack, .netLedgerCtl, .netLedgerRank, .clkStatus,
   .clkCap, .clkVolt, .clkMgtMux, .clkSpMux, .clkGateCmd, .clkGateStatus, .clkFmeasCtl, .clkFmeasRes, .clkSsc]
/-- Part 6 of the list of all registers. -/
def RegName.part6 : List RegName :=
  [
   .clkTherm, .clkAdv, .clkMarginCtl, .clkMeshMargin, .clkRegion, .clkRegionSteps, .clkRegionEvents,
   .clkRegionMinm, .clkMarginCal, .fltStatus, .fltLost, .fltAck, .fltAlive, .fltAliveKick, .fltCountCfg,
   .fltRec, .fltFatal, .fltJrnCtl, .fltJrnBase, .fltJrnSize, .fltJrnHead, .fltJrnTail, .fltJrnStatus,
   .fltJrnDivstep, .fltSnapCmd, .fltSnapArg, .fltSnapStatus, .fltSnapDigest, .fltInject, .secStatus, .secCmd,
   .secArg0, .secArg1, .secArg2, .secCmdStatus, .secTrialLimit, .secSlot, .secSlotVer, .secMeas, .secVpk]
/-- Part 7 of the list of all registers. -/
def RegName.part7 : List RegName :=
  [
   .mgtPortCtl, .mgtPortCnt, .mgtRate, .mgtSecyCtl, .mgtSaSel, .mgtSaKey, .mgtSaSci, .mgtSaCtl, .mgtNetIp,
   .mgtNetConflict, .mgtPtpRx, .mgtPtpTx, .mgtVlan, .mgtPeer, .mgtAper, .mgtAperRange, .mgtAperStatus,
   .mgtFlagWatch, .mgtFlagWatchDl, .chpStrap, .chpResetCause, .chpTod, .chpRail]

/-- All registers, in the order of the manual's tables. -/
def RegName.all : List RegName :=
  part1 ++ part2 ++ part3 ++ part4 ++ part5 ++ part6 ++ part7

/-- The byte offset that a list of indices gives. -/
def indexOffset : List (Nat × Nat) → List Nat → Nat
  | (_, st) :: ds, i :: is => st * i + indexOffset ds is
  | _, _ => 0

/-- The control-space address of a register's instance. -/
def RegName.addr (n : RegName) (ix : List Nat) : Nat := n.row.base + indexOffset n.row.dims ix

/-- The indices that an offset spells, where it names an instance. -/
def splitOffset : List (Nat × Nat) → Nat → Option (List Nat)
  | [], 0 => some []
  | [], _ => none
  | (n, st) :: ds, off =>
    if off / st < n then (splitOffset ds (off % st)).map (off / st :: ·) else none

/-- The register at a control-space address, with its indices (R22: none where the offset names no register). -/
def findReg (addr : Nat) : List RegName → Option (RegName × List Nat)
  | [] => none
  | n :: ns =>
    if n.row.base ≤ addr then
      match splitOffset n.row.dims (addr - n.row.base) with
      | some ix => some (n, ix)
      | none => findReg addr ns
    else findReg addr ns

/-- The register at an address. -/
def regAt (addr : Nat) : Option (RegName × List Nat) := findReg addr RegName.all

end Sys2Proof.Machine
end

