-- ==== Sys2Proof/Machine/Ops.lean ====
section
/-! DEFINITION. The named operations over the state that the commands share: registers and their fields, the indexed
families, accessors and their rights, sources, status codes and command statuses, free values. -/

namespace Sys2Proof.Machine

/-! ### Registers that keep what is written or latched -/

/-- The stored word of a register. -/
def State.rg (s : State) (n : RegName) (ix : List Nat := []) : Word :=
  KMap.get (Word.ofNat n.row.reset) s.csr (n.addr ix)

/-- A register's stored word replaced. -/
def State.setRg (s : State) (n : RegName) (ix : List Nat) (w : Word) : State :=
  { s with csr := KMap.set (Word.ofNat n.row.reset) s.csr (n.addr ix) w }

/-- A field of a stored register: `n` bits from bit `lo`. -/
def State.fld (s : State) (r : RegName) (ix : List Nat) (lo n : Nat) : Nat := field (s.rg r ix) lo n

/-- A field of a stored register replaced. -/
def State.setFld (s : State) (r : RegName) (ix : List Nat) (lo n v : Nat) : State :=
  s.setRg r ix (withField (s.rg r ix) lo n v)

/-- A counter field raised by `k`, saturating. -/
def State.addFld (s : State) (r : RegName) (ix : List Nat) (lo n k : Nat) : State :=
  s.setFld r ix lo n (satN n (s.fld r ix lo n + k))

/-- One bit of a stored register. -/
def State.bit (s : State) (r : RegName) (ix : List Nat) (i : Nat) : Bool := bitOf (s.rg r ix) i

/-- One bit of a stored register set or cleared. -/
def State.setBit (s : State) (r : RegName) (ix : List Nat) (i : Nat) (b : Bool) : State :=
  s.setFld r ix i 1 (b2n b)

/-- A register back at its reset value. -/
def State.clrRg (s : State) (r : RegName) (ix : List Nat) : State := s.setRg r ix (Word.ofNat r.row.reset)

/-! ### The indexed families -/

def State.getCtx (s : State) (k : Nat) : Ctx := KMap.get {} s.ctx k
def State.setCtx (s : State) (k : Nat) (c : Ctx) : State := { s with ctx := KMap.set {} s.ctx k c }
def State.modCtx (s : State) (k : Nat) (f : Ctx → Ctx) : State := s.setCtx k (f (s.getCtx k))
def State.getTile (s : State) (t : Nat) : Tile := KMap.get {} s.tile t
def State.setTile (s : State) (t : Nat) (x : Tile) : State := { s with tile := KMap.set {} s.tile t x }
def State.modTile (s : State) (t : Nat) (f : Tile → Tile) : State := s.setTile t (f (s.getTile t))
def State.getHbm (s : State) (m : Nat) : Hbm := KMap.get {} s.hbm m
def State.modHbm (s : State) (m : Nat) (f : Hbm → Hbm) : State := { s with hbm := KMap.set {} s.hbm m (f (s.getHbm m)) }
def State.getCxl (s : State) (p : Nat) : Cxl := KMap.get {} s.cxl p
def State.modCxl (s : State) (p : Nat) (f : Cxl → Cxl) : State := { s with cxl := KMap.set {} s.cxl p (f (s.getCxl p)) }
def State.getVault (s : State) (v : Nat) : Vault := KMap.get {} s.vault v
def State.modVault (s : State) (v : Nat) (f : Vault → Vault) : State :=
  { s with vault := KMap.set {} s.vault v (f (s.getVault v)) }
def State.getRegion (s : State) (v r : Nat) : VRegion := KMap.get {} (s.getVault v).regions r
def State.modRegion (s : State) (v r : Nat) (f : VRegion → VRegion) : State :=
  s.modVault v fun x => { x with regions := KMap.upd {} x.regions r f }
def State.getLink (s : State) (l : Nat) : Link := KMap.get {} s.link l
def State.modLink (s : State) (l : Nat) (f : Link → Link) : State := { s with link := KMap.set {} s.link l (f (s.getLink l)) }
def State.modPlan (s : State) (k : Nat) (f : Plan → Plan) : State := s.modCtx k fun c => { c with plan := f c.plan }
def State.modPart (s : State) (k : Nat) (f : PartEntry → PartEntry) : State := s.modCtx k fun c => { c with part := f c.part }

/-- A change made for each entry of a list in turn. -/
def State.each {α : Type} (s : State) (l : List α) (f : State → α → State) : State := l.foldl f s

/-- The context slots. -/
def slots : List Nat := List.range 32

/-- Bytes written in management memory. -/
def State.mgtWrite (s : State) (a : Nat) (bs : List Byte) : State := { s with mgt := s.mgt.write a bs }

/-- The MT at which an entry of NET_PART_QUAR ends (R356). -/
def State.setPartQuar (s : State) (i : Nat) (w : Word) : State := { s with partQuar := KMap.set 0 s.partQuar i w }

/-- Something sent out of the chip. -/
def State.emit (s : State) (o : Out) : State := { s with out := s.out ++ [o] }

/-- A free value drawn (log entry 8). -/
def State.draw (s : State) : Word × State := (Config.free s.freeCtr, { s with freeCtr := s.freeCtr + 1 })

/-- `n` free bytes drawn, one free value for each. -/
def State.drawBytes (s : State) : Nat → List Byte × State
  | 0 => ([], s)
  | n + 1 =>
    let (w, s1) := s.draw
    let (bs, s2) := State.drawBytes s1 n
    (BitVec.truncate 8 w :: bs, s2)

/-! ### Identifiers, accessors and rights -/

/-- The identifier that a 16-bit number names: SLOT in bits 4 to 0, GEN in bits 15 to 5 (R269). -/
def CtxId.ofNat (x : Nat) : CtxId := { slot := x % 32, gen := x / 32 % 2048 }

/-- The 16 bits of an identifier (R269). -/
def CtxId.toNat (i : CtxId) : Nat := i.gen * 32 + i.slot

/-- The current identifier of a slot. -/
def State.idOf (s : State) (k : Nat) : CtxId := { slot := k, gen := (s.getCtx k).gen }

/-- An identifier names a context that exists (R269): its generation is the slot's and the slot is neither FREE nor in
QUARANTINE. -/
def State.live (s : State) (i : CtxId) : Bool :=
  let c := s.getCtx i.slot
  decide (i.slot < 32) && c.gen == i.gen && c.state != .free && c.state != .quarantine

/-- The bit of the owner mask that stands for an accessor (R272). -/
def accBit : Accessor → Nat
  | .mgt c => c.val
  | .sp => 8
  | .vc3 => 9

/-- An accessor holds a context's ticket (R272). -/
def State.owns (s : State) (a : Accessor) (k : Nat) : Bool := (s.getCtx k).owners.getLsbD (accBit a)

/-- A management core. -/
def isCore : Accessor → Bool
  | .mgt _ => true
  | _ => false

/-- A management core or the service processor. -/
def isLocal : Accessor → Bool
  | .vc3 => false
  | _ => true

/-! ### Sources of fault records (R26, R402) -/

/-- The source identifier of a block instance. -/
def source (type inst : Nat) : Nat := type * 256 + inst

def srcTim : Nat := source 0x11 0
def srcClk : Nat := source 0x12 0
def srcFlt : Nat := source 0x13 0
def srcSec : Nat := source 0x14 0
def srcClo : Nat := source 0x15 0
def srcSrv : Nat := source 0x16 0
def srcMor : Nat := source 0x17 0
def srcMem (m : Nat) : Nat := source 0x20 m
def srcCxl (p : Nat) : Nat := source 0x21 p
def srcVlt (v : Nat) : Nat := source 0x22 v
def srcLnk (l : Nat) : Nat := source 0x23 l
def srcNet : Nat := source 0x24 0
def srcMgt : Nat := source 0x25 0
/-- A tile's source: its row in the type, its column as the instance. -/
def srcTile (t : Nat) : Nat := source (0x0F00 + t / 24) (t % 24)

/-! ### Status codes (R11) and their precedence (R12) -/

/-- The status codes that commands return (R11). -/
inductive Status where
  | ok | busy | absent | denied | stale | abandoned | rejected | timeout | cancelAfterEnd
deriving DecidableEq, Repr

/-- The value of a status code (R11). -/
def Status.code : Status → Nat
  | .ok => 0
  | .busy => 1
  | .absent => 2
  | .denied => 3
  | .stale => 4
  | .abandoned => 5
  | .rejected => 6
  | .timeout => 7
  | .cancelAfterEnd => 8

/-- The rank of a status where several conditions hold (R12). -/
def Status.rank : Status → Nat
  | .absent => 0
  | .stale => 1
  | .denied => 2
  | .rejected => 3
  | .abandoned => 4
  | .busy => 5
  | _ => 6

/-- The first status, in the order of R12, among the conditions that hold. -/
def firstOf (conds : List (Bool × Status)) : Option Status :=
  (conds.filter Prod.fst).foldl (fun best c => match best with
    | none => some c.2
    | some b => if c.2.rank < b.rank then some c.2 else some b) none

/-- A command-status register that reports a command's end: STATUS in bits 7 to 0 and DONE in bit 8. -/
def State.finish (s : State) (r : RegName) (ix : List Nat) (st : Status) : State :=
  (s.setFld r ix 0 8 st.code).setFld r ix 8 1 1

/-! ### Grades (R2 to R4) -/

/-- Virtual rows of the grade (R10). -/
def State.gridRows (s : State) : Nat := if s.fuses.grade = 2 then 12 else 16

/-- Plan tiles of the grade (R2). -/
def State.planTiles (s : State) : Nat := s.gridRows * 32

/-- Tiles the grade guarantees good (R2). -/
def State.goodTiles (s : State) : Nat := if s.fuses.grade = 2 then 408 else 544

/-- A vault stack is fused off on the grade (R4). -/
def State.vaultFused (s : State) (v : Nat) : Bool :=
  s.fuses.grade == 3 || (s.fuses.grade == 2 && decide (2 ≤ v))

/-- A block instance is absent: fused off, or failed at test (R28, R41); blocks by their source identifier. -/
def State.absent (s : State) (src : Nat) : Bool :=
  s.failedB.contains src || (src / 256 == 0x22 && s.vaultFused (src % 256))
    || (decide (0x0F00 ≤ src / 256) && s.failedT.contains ((src / 256 - 0x0F00) * 24 + src % 256))

/-! ### Time -/

/-- MT as a number. -/
def State.mtN (s : State) : Nat := s.time.mt.toNat

/-- One tick of the reference-derived clock (R42). -/
def idleTick (s : State) : State :=
  { s with time := { s.time with mt := s.time.mt + 1, refTicks := s.time.refTicks + 1 } }

end Sys2Proof.Machine
end

