-- ==== Sys2Proof/Machine/Journal.lean ====
section
/-! DEFINITION. The input journal's ring in management memory (R409): records, room, writing, and reading at the device
position (R410). -/

namespace Sys2Proof.Machine

/-- FLT_JRN_CTL.MODE of a context: 0 off, 1 RECORD, 2 REPLAY; 3 acts as 0 (R415). -/
def State.jrnMode (s : State) (k : Nat) : Nat :=
  let m := s.fld .fltJrnCtl [k] 0 2
  if m = 3 then 0 else m

/-- A journal record: header and body, filled with zeros to a multiple of 16 bytes (R409). -/
def jrnRecord (type flags step : Nat) (body : List Byte) : List Byte :=
  let n := 16 * ceilDiv (16 + body.length) 16
  padTo (leBytes 1 type ++ leBytes 1 flags ++ leBytes 2 0 ++ leBytes 4 n ++ leBytes 8 step ++ body) n 0

/-- Bytes of the ring that are in use: from TAIL to HEAD while recording. -/
def State.jrnUsed (s : State) (k : Nat) : Nat :=
  let size := s.fld .fltJrnSize [k] 0 40
  if size = 0 then 0 else (s.fld .fltJrnHead [k] 0 40 + size - s.fld .fltJrnTail [k] 0 40 % size) % size

/-- The bytes that a record of `n` bytes takes at HEAD, a PAD record at the ring's end included (R409). -/
def State.jrnCost (s : State) (k n : Nat) : Nat :=
  let left := s.fld .fltJrnSize [k] 0 40 - s.fld .fltJrnHead [k] 0 40
  if n ≤ left then n else left + n

/-- The records find room together with those that already wait; HEAD never comes up to TAIL from behind (log entry 12). -/
def State.jrnRoom (s : State) (k : Nat) (recs : List (List Byte)) : Bool :=
  let n := sumN (recs.map List.length)
  (s.getCtx k).jrnQ.isEmpty && decide (s.jrnUsed k + s.jrnCost k n < s.fld .fltJrnSize [k] 0 40)

/-- One record written at HEAD (R409). -/
def State.jrnPut (s : State) (k : Nat) (r : List Byte) : State :=
  let base := (s.rg .fltJrnBase [k]).toNat
  let size := s.fld .fltJrnSize [k] 0 40
  let head := s.fld .fltJrnHead [k] 0 40
  let (head, s) :=
    if r.length ≤ size - head then (head, s)
    else (0, s.mgtWrite (base + head) (leBytes 4 0 ++ leBytes 4 (size - head) ++ leBytes 8 0))
  let s := s.mgtWrite (base + head) r
  let s := s.setFld .fltJrnHead [k] 0 40 (if head + r.length = size then 0 else head + r.length)
  if (r.getD 1 0).getLsbD 0 then s.setBit .fltJrnStatus [k] 1 true else s

/-- The records that wait are written as far as there is room. -/
def State.jrnFlush (s : State) (k : Nat) : State :=
  let rec go (s : State) : List (List Byte) → State
    | [] => s.modCtx k fun c => { c with jrnQ := [] }
    | r :: rs =>
      if s.jrnUsed k + s.jrnCost k r.length < s.fld .fltJrnSize [k] 0 40 then go (s.jrnPut k r) rs
      else s.modCtx k fun c => { c with jrnQ := r :: rs }
  go s (s.getCtx k).jrnQ

/-- A record that must not hold its event back: written now, or kept until software frees space (R409: nothing is dropped). -/
def State.jrnSay (s : State) (k type flags step : Nat) (body : List Byte) : State :=
  if s.jrnMode k = 1 then
    (s.modCtx k fun c => { c with jrnQ := c.jrnQ ++ [jrnRecord type flags step body] }).jrnFlush k
  else s

/-- What a replaying chip finds at HEAD (R410). -/
inductive JrnRead where
  | wait
  | bad
  | record (type flags step : Nat) (body : List Byte) (len : Nat)
deriving DecidableEq, Repr

/-- The bytes that software has supplied from HEAD on. -/
def State.jrnAvail (s : State) (k : Nat) : Nat :=
  let size := s.fld .fltJrnSize [k] 0 40
  if size = 0 then 0 else (s.fld .fltJrnTail [k] 0 40 + size - s.fld .fltJrnHead [k] 0 40 % size) % size

/-- The record at HEAD, which is a reserved TYPE or runs past the ring when it is bad (R410). -/
def State.jrnPeek (s : State) (k : Nat) : JrnRead :=
  if s.jrnAvail k < 16 then .wait
  else
    let size := s.fld .fltJrnSize [k] 0 40
    let head := s.fld .fltJrnHead [k] 0 40
    let h := s.mgt.read ((s.rg .fltJrnBase [k]).toNat + head) 16
    let type := leAt h 0 1
    let len := leAt h 4 4
    if 6 < type ∨ len < 16 ∨ size < head + len then .bad
    else if s.jrnAvail k < len then .wait
    else .record type (leAt h 1 1) (leAt h 8 8)
      (s.mgt.read ((s.rg .fltJrnBase [k]).toNat + head + 16) (len - 16)) len

/-- HEAD moved past a record that has been read. -/
def State.jrnAdvance (s : State) (k len : Nat) : State :=
  let size := s.fld .fltJrnSize [k] 0 40
  let head := s.fld .fltJrnHead [k] 0 40 + len
  s.setFld .fltJrnHead [k] 0 40 (if size ≤ head then 0 else head)

/-- A PAD record at HEAD is passed over. -/
def State.jrnSkipPad (s : State) (k : Nat) : State :=
  match s.jrnPeek k with
  | .record 0 _ _ _ len => s.jrnAdvance k len
  | _ => s

end Sys2Proof.Machine
end

