-- ==== Sys2Proof/Machine/Codec.lean ====
section
/-! DEFINITION. The codes and digests that the manual names: CRC-32C (R183, R303), CRC-16 (R321), SHA-384 (R33, R155, R192),
the ChaCha20 block function (R225) and GF(2^8) with the polynomial 0x11D (R241, R262, R325). -/

namespace Sys2Proof.Machine

/-! ### CRC -/

/-- Eight steps of the reflected CRC-32C polynomial. -/
def crc32cStep : Nat → BitVec 32 → BitVec 32
  | 0, c => c
  | n + 1, c => crc32cStep n (if c.getLsbD 0 then (c >>> 1) ^^^ 0x82F63B78#32 else c >>> 1)

/-- CRC-32C of a list of bytes. -/
def crc32c (bs : List Byte) : BitVec 32 :=
  bs.foldl (fun c b => crc32cStep 8 (c ^^^ (b.zeroExtend 32 : BitVec 32))) 0xFFFFFFFF#32 ^^^ 0xFFFFFFFF#32

/-- Eight steps of the CRC-16 polynomial 0x1021, most significant bit first. -/
def crc16Step : Nat → BitVec 16 → BitVec 16
  | 0, c => c
  | n + 1, c => crc16Step n (if c.getLsbD 15 then (c <<< 1) ^^^ 0x1021#16 else c <<< 1)

/-- CRC-16 with polynomial 0x1021 and initial value `init` over bytes. -/
def crc16 (init : BitVec 16) (bs : List Byte) : BitVec 16 :=
  bs.foldl (fun c b => crc16Step 8 (c ^^^ ((b.zeroExtend 16 : BitVec 16) <<< (8 : Nat)))) init

/-! ### SHA-384 -/

/-- The initial hash value of SHA-384. -/
def sha384Init : List Word :=
  [0xcbbb9d5dc1059ed8, 0x629a292a367cd507, 0x9159015a3070dd17, 0x152fecd8f70e5939, 0x67332667ffc00b31,
   0x8eb44a8768581511, 0xdb0c2e0d64f98fa7, 0x47b5481dbefa4fa4]

/-- The first 40 round constants of SHA-384. -/
def sha384K1 : List Word :=
  [0x428a2f98d728ae22, 0x7137449123ef65cd, 0xb5c0fbcfec4d3b2f, 0xe9b5dba58189dbbc, 0x3956c25bf348b538,
   0x59f111f1b605d019, 0x923f82a4af194f9b, 0xab1c5ed5da6d8118, 0xd807aa98a3030242, 0x12835b0145706fbe,
   0x243185be4ee4b28c, 0x550c7dc3d5ffb4e2, 0x72be5d74f27b896f, 0x80deb1fe3b1696b1, 0x9bdc06a725c71235,
   0xc19bf174cf692694, 0xe49b69c19ef14ad2, 0xefbe4786384f25e3, 0x0fc19dc68b8cd5b5, 0x240ca1cc77ac9c65,
   0x2de92c6f592b0275, 0x4a7484aa6ea6e483, 0x5cb0a9dcbd41fbd4, 0x76f988da831153b5, 0x983e5152ee66dfab,
   0xa831c66d2db43210, 0xb00327c898fb213f, 0xbf597fc7beef0ee4, 0xc6e00bf33da88fc2, 0xd5a79147930aa725,
   0x06ca6351e003826f, 0x142929670a0e6e70, 0x27b70a8546d22ffc, 0x2e1b21385c26c926, 0x4d2c6dfc5ac42aed,
   0x53380d139d95b3df, 0x650a73548baf63de, 0x766a0abb3c77b2a8, 0x81c2c92e47edaee6, 0x92722c851482353b]

/-- The last 40 round constants of SHA-384. -/
def sha384K2 : List Word :=
  [0xa2bfe8a14cf10364, 0xa81a664bbc423001, 0xc24b8b70d0f89791, 0xc76c51a30654be30, 0xd192e819d6ef5218,
   0xd69906245565a910, 0xf40e35855771202a, 0x106aa07032bbd1b8, 0x19a4c116b8d2d0c8, 0x1e376c085141ab53,
   0x2748774cdf8eeb99, 0x34b0bcb5e19b48a8, 0x391c0cb3c5c95a63, 0x4ed8aa4ae3418acb, 0x5b9cca4f7763e373,
   0x682e6ff3d6b2b8a3, 0x748f82ee5defb2fc, 0x78a5636f43172f60, 0x84c87814a1f0ab72, 0x8cc702081a6439ec,
   0x90befffa23631e28, 0xa4506cebde82bde9, 0xbef9a3f7b2c67915, 0xc67178f2e372532b, 0xca273eceea26619c,
   0xd186b8c721c0c207, 0xeada7dd6cde0eb1e, 0xf57d4f7fee6ed178, 0x06f067aa72176fba, 0x0a637dc5a2c898a6,
   0x113f9804bef90dae, 0x1b710b35131c471b, 0x28db77f523047d84, 0x32caab7b40c72493, 0x3c9ebe0a15c9bebc,
   0x431d67c49c100d4c, 0x4cc5d4becb3e42b6, 0x597f299cfc657e2a, 0x5fcb6fab3ad6faec, 0x6c44198c4a475817]

/-- The round constants of SHA-384. -/
def sha384K : List Word := sha384K1 ++ sha384K2

/-- The message schedule: the last 16 words, newest first, give the words to come. -/
def shaSchedule : Nat → List Word → List Word
  | 0, _ => []
  | n + 1, w =>
    let w2 := w.getD 1 0
    let w7 := w.getD 6 0
    let w15 := w.getD 14 0
    let w16 := w.getD 15 0
    let s0 := w15.rotateRight 1 ^^^ w15.rotateRight 8 ^^^ (w15 >>> 7)
    let s1 := w2.rotateRight 19 ^^^ w2.rotateRight 61 ^^^ (w2 >>> 6)
    let x := s1 + w7 + s0 + w16
    x :: shaSchedule n (x :: w.take 15)

/-- The working variables of SHA-384. -/
structure Sha where
  a : Word
  b : Word
  c : Word
  d : Word
  e : Word
  f : Word
  g : Word
  h : Word
deriving DecidableEq, Repr

/-- One round of SHA-384. -/
def Sha.round (v : Sha) (kw : Word) : Sha :=
  let s1 := v.e.rotateRight 14 ^^^ v.e.rotateRight 18 ^^^ v.e.rotateRight 41
  let ch := (v.e &&& v.f) ^^^ (~~~v.e &&& v.g)
  let t1 := v.h + s1 + ch + kw
  let s0 := v.a.rotateRight 28 ^^^ v.a.rotateRight 34 ^^^ v.a.rotateRight 39
  let maj := (v.a &&& v.b) ^^^ (v.a &&& v.c) ^^^ (v.b &&& v.c)
  { a := t1 + s0 + maj, b := v.a, c := v.b, d := v.c, e := v.d + t1, f := v.e, g := v.f, h := v.g }

/-- The state of SHA-384 from a list of eight words. -/
def Sha.ofList (l : List Word) : Sha :=
  { a := l.getD 0 0, b := l.getD 1 0, c := l.getD 2 0, d := l.getD 3 0, e := l.getD 4 0, f := l.getD 5 0,
    g := l.getD 6 0, h := l.getD 7 0 }

/-- The eight words of the state. -/
def Sha.toList (v : Sha) : List Word := [v.a, v.b, v.c, v.d, v.e, v.f, v.g, v.h]

/-- One block of 16 words. -/
def shaBlock (hs : List Word) (block : List Word) : List Word :=
  let ws := block ++ shaSchedule 64 block.reverse
  let v := (List.zipWith (· + ·) sha384K ws).foldl Sha.round (Sha.ofList hs)
  List.zipWith (· + ·) hs v.toList

/-- SHA-384 of a list of bytes: 48 bytes. -/
def sha384 (bs : List Byte) : List Byte :=
  let n := bs.length
  let zeros := (128 - (n + 17) % 128) % 128
  let msg := bs ++ [0x80#8] ++ List.replicate zeros 0 ++ beBytes 16 (8 * n)
  let blocks := (chunks 128 msg).map fun b => (chunks 8 b).map fun w => Word.ofNat (beNat w)
  ((blocks.foldl shaBlock sha384Init).flatMap fun w => beBytes 8 w.toNat).take 48

/-! ### ChaCha20 -/

/-- A quarter round on the words at four places. -/
def quarter (x : List (BitVec 32)) (i j k l : Nat) : List (BitVec 32) :=
  let a := x.getD i 0
  let b := x.getD j 0
  let c := x.getD k 0
  let d := x.getD l 0
  let a := a + b
  let d := (d ^^^ a).rotateLeft 16
  let c := c + d
  let b := (b ^^^ c).rotateLeft 12
  let a := a + b
  let d := (d ^^^ a).rotateLeft 8
  let c := c + d
  let b := (b ^^^ c).rotateLeft 7
  (((x.set i a).set j b).set k c).set l d

/-- A double round: columns, then diagonals. -/
def doubleRound (x : List (BitVec 32)) : List (BitVec 32) :=
  [(0, 4, 8, 12), (1, 5, 9, 13), (2, 6, 10, 14), (3, 7, 11, 15),
   (0, 5, 10, 15), (1, 6, 11, 12), (2, 7, 8, 13), (3, 4, 9, 14)].foldl
    (fun x q => quarter x q.1 q.2.1 q.2.2.1 q.2.2.2) x

/-- A function applied n times. -/
def iter {α : Type} (f : α → α) : Nat → α → α
  | 0, x => x
  | n + 1, x => iter f n (f x)

/-- The ChaCha20 block function of RFC 8439: 32-byte key, block counter, 12-byte nonce, to 64 bytes. -/
def chacha20 (key : List Byte) (counter : Nat) (nonce : List Byte) : List Byte :=
  let w (bs : List Byte) : List (BitVec 32) := (chunks 4 bs).map fun b => BitVec.ofNat 32 (leNat b)
  let x := [0x61707865#32, 0x3320646e#32, 0x79622d32#32, 0x6b206574#32] ++ w key ++ [BitVec.ofNat 32 counter] ++ w nonce
  (List.zipWith (· + ·) x (iter doubleRound 10 x)).flatMap fun v => leBytes 4 v.toNat

/-! ### GF(2^8) -/

/-- Multiplication by x in GF(2^8) modulo 0x11D. -/
def gfX (a : Byte) : Byte := if a.getLsbD 7 then (a <<< 1) ^^^ 0x1D#8 else a <<< 1

/-- The product in GF(2^8), bit by bit of the second factor from bit n - 1 down. -/
def gfMulBits (a b : Byte) : Nat → Byte → Byte
  | 0, acc => acc
  | n + 1, acc => gfMulBits a b n (let t := gfX acc; if b.getLsbD n then t ^^^ a else t)

/-- The product in GF(2^8). -/
def gfMul (a b : Byte) : Byte := gfMulBits a b 8 0

/-- A power of α = 0x02. -/
def gfAlpha (n : Nat) : Byte := iter gfX (n % 255) 1

/-- A power in GF(2^8). -/
def gfPow (a : Byte) (n : Nat) : Byte := iter (gfMul a) n 1

/-- The inverse of an element that is not 0: its 254th power. -/
def gfInv (a : Byte) : Byte := gfPow a 254

end Sys2Proof.Machine
end

