-- ==== Sys2Proof/Machine/NetSend.lean ====
section
/-! DEFINITION. Coordinates, partition entries by number, and the packets that the chip originates (R302, R303, R305, R307, R360). -/

namespace Sys2Proof.Machine

/-! ### Coordinates (R158, R349, R350) -/

/-- The order of coordinates: x, then y, then z (R9). -/
def coordKey (c : Nat) : Nat := c % 32 * 1024 + c / 32 % 32 * 32 + c / 1024 % 32

/-- One axis of a coordinate: 0 x, 1 y, 2 z. -/
def axis (c i : Nat) : Nat := c / 32 ^ i % 32

/-- A coordinate from its axes. -/
def mkCoord (x y z : Nat) : Nat := x % 32 + 32 * (y % 32) + 1024 * (z % 32)

/-- The machine size on an axis (R348). -/
def State.size (s : State) (i : Nat) : Nat := s.fld .netTopo [] (5 * i) 5 + 1

/-- The coordinate that a link leads to (R349); links in the order X+, X-, Y+, Y-, Z+, Z-. -/
def State.farOf (s : State) (l : Nat) : Nat :=
  let a := l / 2
  let n := s.size a
  let step := if l % 2 = 0 then 1 else n - 1
  let move (i : Nat) : Nat := if i = a then (axis s.self i + step) % n else axis s.self i
  mkCoord (move 0) (move 1) (move 2)

/-- The link instance that faces a link (R349). -/
def facing (l : Nat) : Nat := if l % 2 = 0 then l + 1 else l - 1

/-- A link whose trained far end is not the neighbour of R349. -/
def State.miswired (s : State) (l : Nat) : Bool :=
  let k := s.getLink l
  k.farKnown && (k.farCoord != s.farOf l || k.farInst != facing l)

/-- A link carries flits: UP, in retrain, or DEGRADED. -/
def Link.isUp (k : Link) : Bool := k.state == .up || k.state == .retrain || k.state == .degraded

/-- The links, in the order of R26. -/
def links : List Nat := List.range 6

/-- A coordinate relative to a partition's origin on one axis (R350). -/
def State.relAxis (s : State) (c origin i : Nat) : Nat :=
  (axis c i + s.size i - axis origin i % s.size i) % s.size i

/-- The partition-relative coordinate (R350). -/
def State.relOf (s : State) (c origin : Nat) : Nat :=
  mkCoord (s.relAxis c origin 0) (s.relAxis c origin 1) (s.relAxis c origin 2)

/-- A chip lies in a partition's box; an extent holds e - 1 for each axis (R350). -/
def State.inBox (s : State) (c origin extent : Nat) : Bool :=
  (List.range 3).all fun i => decide (s.relAxis c origin i ≤ axis extent i)

/-- The number of member chips of an extent. -/
def members (extent : Nat) : Nat := (axis extent 0 + 1) * (axis extent 1 + 1) * (axis extent 2 + 1)

/-- A link of a member is internal: its far chip is another member and it is not MISWIRED (R350). -/
def State.internal (s : State) (l origin extent : Nat) : Bool :=
  s.inBox (s.farOf l) origin extent && s.farOf l != s.self && !s.miswired l

/-- A partition of more than one chip. -/
def PartEntry.multi (p : PartEntry) : Bool := p.state != .free && p.extent != 0

/-- The context slot whose live entry has a partition number (R352). -/
def State.partSlot (s : State) (part : Nat) : Option Nat :=
  slots.find? fun k => (s.getCtx k).part.state != .free && (s.getCtx k).part.part == part && part != 0

/-- The context that holds a link's LINK ticket (R273). -/
def State.linkHolder (s : State) (l : Nat) : Option Nat := slots.find? fun k => (s.getCtx k).links.contains l

/-- A link is bound to the partition of a context's entry at this chip: the entry is live and not SUSPENDED, the context holds the link's ticket,
and the link is internal (R350, R353, R355, R357). -/
def State.bound (s : State) (k l : Nat) : Bool :=
  let e := (s.getCtx k).part
  (s.getCtx k).links.contains l && e.state != .free && e.state != .suspended && s.internal l e.origin e.extent

/-- The links bound to a context's partition. -/
def State.boundLinks (s : State) (k : Nat) : List Nat := (s.getCtx k).links.filter (s.bound k)

/-! ### Packets -/

/-- The fields of a packet head (R302). -/
structure Head where
  kind  : Nat
  route : Nat := 0
  part  : Nat := 0
  gen   : Nat := 0
  age   : Nat := 0
  src   : Nat := 0
  flood : Bool := false
  dest  : Nat := 0
  seq   : Nat := 0
  len   : Nat := 1
deriving DecidableEq, Repr

/-- The 16 bytes of a head (R302). -/
def Head.bytes (h : Head) : List Byte :=
  leBytes 1 h.kind ++ leBytes 1 h.route ++ leBytes 2 h.part ++ leBytes 1 h.gen ++ leBytes 3 h.age
    ++ leBytes 2 (h.src % 32768 + 32768 * b2n h.flood) ++ leBytes 2 (h.dest % 32768) ++ leBytes 2 h.seq ++ leBytes 2 (h.len % 8192)

/-- The head that a packet's payload begins with (R302). -/
def Head.parse (p : List Byte) : Head :=
  { kind := leAt p 0 1, route := leAt p 1 1, part := leAt p 2 2, gen := leAt p 4 1, age := leAt p 5 3,
    src := leAt p 8 2 % 32768, flood := decide (32768 ≤ leAt p 8 2), dest := leAt p 10 2 % 32768, seq := leAt p 12 2,
    len := leAt p 14 2 % 8192 }

/-- The AGE of a packet that originates now: MT[33:10] (R302). -/
def State.ageNow (s : State) : Nat := s.mtN / 1024 % 2 ^ 24

/-- A whole packet: head, body, zeros, and CRC-32C in the last four bytes of its last flit (R302, R303). -/
def packet (h : Head) (body : List Byte) : List Byte :=
  let n := ceilDiv (16 + body.length + 4) 32
  let front := padTo ({ h with len := n }.bytes ++ body) (32 * n - 4) 0
  front ++ leBytes 4 (crc32c front).toNat

/-- The body of a packet without its head and CRC. -/
def packetBody (p : List Byte) : List Byte := (p.drop 16).take (p.length - 20)

/-- The NET header sample (R313): every 2^RATE-th packet counted is recorded (log entry 11). -/
def State.sample (s : State) (p : List Byte) (inp out vc : Nat) (epoch : Bool) (drop : Nat) : State :=
  let rate := min (s.fld .netSampleCtl [] 0 5) 20
  let s1 := { s with net := { s.net with samples := s.net.samples + 1 } }
  if rate = 0 then s
  else if s.net.samples % 2 ^ rate = 0 then
    let i := s.fld .netSampleCtl [] 16 6
    let s2 := (((s1.setRg .netSampleRecW0 [i] s.time.mt).setRg .netSampleRecW1 [i] (Word.ofNat (leAt p 0 8))).setRg
      .netSampleRecW2 [i] (Word.ofNat (leAt p 8 8))).setRg .netSampleRecW3 [i]
        (pack [(0, 3, inp), (3, 3, out), (6, 2, vc), (8, 1, b2n epoch), (9, 3, drop)])
    s2.setFld .netSampleCtl [] 16 6 (i + 1)
  else s1

/-- Flits leave the receive buffers that they occupy (R298, R336). -/
def State.freeFlits (s : State) (vc : Nat) (fs : List TxFlit) : State :=
  s.each (fs.filterMap TxFlit.from_) fun s m => s.modLink m fun k => { k with freed := KMap.upd 0 k.freed vc fun n => (n + 1) % 16384 }

/-- A packet as flits, which still occupy the receive buffer of the link that they came by, if any. -/
def flitsOf (epoch : Bool) (p : List Byte) (from_ : Option Nat) : List TxFlit :=
  (chunks 32 p).zipIdx.map fun (f, i) => { epoch := epoch, first := i == 0, payload := f, from_ := from_ }

/-- A packet's flits queued on a channel of a link; lost on a link that is DOWN or training (R342). -/
def State.queueOn (s : State) (l vc : Nat) (epoch : Bool) (p : List Byte) (from_ : Option Nat := none) : State :=
  let fs := flitsOf epoch p from_
  if (s.getLink l).isUp then s.modLink l fun k => { k with vcq := KMap.upd [] k.vcq vc fun q => q ++ fs } else s.freeFlits vc fs

/-- The next sequence number of a channel (R302). -/
def State.takeSeq (s : State) (vc : Nat) : Nat × State :=
  (KMap.get 0 s.net.seqs vc,
    { s with net := { s.net with seqs := KMap.upd 0 s.net.seqs vc fun n => (n + 1) % 65536 } })

/-- A packet kept in the resend store (R305): for 1 ms of MT, and the oldest out when 512 KiB are full. -/
def State.keep (s : State) (x : SentPacket) : State :=
  let fresh := (s.net.sent ++ [x]).filter fun y => decide (s.mtN - y.mt.toNat ≤ 1250000)
  let total := sumN (fresh.map fun y => y.payload.length)
  let rec trim : List SentPacket → Nat → List SentPacket
    | [], _ => []
    | y :: ys, n => if 524288 < n then trim ys (n - y.payload.length) else y :: ys
  { s with net := { s.net with sent := trim fresh total } }

/-- The current epoch bit of a context slot (R308). -/
def State.epochOf (s : State) (k : Nat) : Nat := KMap.get 0 s.net.epoch k

/-- A flood packet of a context's partition, sent on every bound link (R360). -/
def sendFlood (s : State) (k kind vc : Nat) (body : List Byte) : State :=
  let e := (s.getCtx k).part
  let (seq, s) := s.takeSeq vc
  let p := packet { kind := kind, part := e.part, gen := e.gen, age := s.ageNow, src := s.self, flood := true, seq := seq } body
  let ep := s.epochOf k == 1
  let ls := s.boundLinks k
  let s := s.sample p 6 (ls.headD 6) vc ep 0
  let s := s.each ls fun s l => s.queueOn l vc ep p
  if vc = 2 then s.keep { seq := seq, part := e.part, links := ls, epoch := ep, payload := p, mt := s.time.mt } else s

/-- A machine packet that leaves by a link; dropped and counted as NOROUTE where the link is down, as a MISWIRED one is for it (R307, R349). -/
def sendOn (s : State) (l dest kind vc : Nat) (body : List Byte) : State :=
  let (seq, s) := s.takeSeq vc
  let p := packet { kind := kind, age := s.ageNow, src := s.self, dest := dest, seq := seq } body
  if (s.getLink l).isUp && !s.miswired l then
    let s := (s.sample p 6 l vc false 0).queueOn l vc false p
    if vc = 2 then s.keep { seq := seq, part := 0, links := [l], epoch := false, payload := p, mt := s.time.mt } else s
  else (s.sample p 6 7 vc false 0).addFld .netDrop2 [] 0 32 1

/-- A machine packet for a neighbour, over one link (R302, R359). -/
def sendMachineOn (s : State) (l kind vc : Nat) (body : List Byte) : State := sendOn s l (s.farOf l) kind vc body

/-- The link by which a machine packet leaves for a coordinate: x, then y, then z, the shorter way, a tie the positive way
(R307); none for the chip itself. -/
def State.towards (s : State) (dest : Nat) : Option Nat :=
  let diff (i : Nat) : Nat := (axis dest i + s.size i - axis s.self i % s.size i) % s.size i
  match (List.range 3).find? fun i => diff i != 0 with
  | none => none
  | some i => some (if 2 * diff i ≤ s.size i then 2 * i else 2 * i + 1)

/-- A machine packet to a coordinate, by dimension order; counted as NOROUTE when its next link is down (R307). -/
def sendMachine (s : State) (dest kind vc : Nat) (body : List Byte) : State :=
  match s.towards dest with
  | none => s
  | some l => sendOn s l dest kind vc body

end Sys2Proof.Machine
end

