-- ==== Sys2Proof/Machine/Operands.lean ====
section
/-! DEFINITION. The macro-op word (R103, R104, R111), the units that a macro-op occupies (R100), timed macro-ops (R101), descriptors
(R106) with the bytes they name (R77), and the streams' tables (R160). -/

namespace Sys2Proof.Machine

/-! ### The macro-op word (R103, R111) -/

/-- A field of a macro-op. -/
def MacroOp.f (o : MacroOp) (lo n : Nat) : Nat := fieldN o.word lo n
def MacroOp.op (o : MacroOp) : Nat := o.f 0 8
def MacroOp.sig (o : MacroOp) : Nat := o.f 8 6
def MacroOp.sigEn (o : MacroOp) : Bool := o.f 14 1 == 1
def MacroOp.at_ (o : MacroOp) : Nat := o.f 16 32

/-- Opcodes (R104). -/
def opNop : Nat := 0x00
def opWait : Nat := 0x01
def opSignal : Nat := 0x02
def opFence : Nat := 0x03
def opStepEnd : Nat := 0x04
def opEnd : Nat := 0x05
def opSleep : Nat := 0x06
def opLoad : Nat := 0x10
def opStore : Nat := 0x11
def opMove : Nat := 0x12
def opSend : Nat := 0x13
def opRecv : Nat := 0x14
def opMatmul : Nat := 0x20
def opAttn : Nat := 0x21
def opNorm : Nat := 0x22
def opAct : Nat := 0x23
def opSoftmax : Nat := 0x24
def opRequant : Nat := 0x25
def opVec : Nat := 0x26
def opTailorApply : Nat := 0x27
def opVaultGemv : Nat := 0x30
def opVaultStream : Nat := 0x31
def opTailorGather : Nat := 0x32
def opSample : Nat := 0x33
def opSampleCollect : Nat := 0x34
def opBatchFetch : Nat := 0x35

/-- REMOTE of a SIGNAL or MOVE (R111). -/
def MacroOp.remote (o : MacroOp) : Bool :=
  (o.op == opSignal && o.f 86 1 == 1) || (o.op == opMove && o.f 68 1 == 1)

/-- WAIT: OBJ, TARGET, CLASS, INDEX. -/
def MacroOp.obj (o : MacroOp) : Nat := o.f 48 6
def MacroOp.target (o : MacroOp) : BitVec 32 := BitVec.ofNat 32 (o.f 54 32)
def MacroOp.waitClass (o : MacroOp) : Nat := o.f 86 3
def MacroOp.waitIndex (o : MacroOp) : Nat := o.f 89 6

/-- The outgoing stream of a SIGNAL, MOVE or SEND; the incoming one of a RECV. -/
def MacroOp.stream (o : MacroOp) : Nat :=
  if o.op = opSignal then o.f 87 6 else if o.op = opMove then o.f 69 6 else o.f 58 6

/-- A timed macro-op (R101). -/
def MacroOp.timed (o : MacroOp) : Bool :=
  o.op == opWait || o.op == opSend || o.op == opRecv || o.remote || o.op == opStepEnd || o.op == opEnd

/-- RQ_MODE and RQ_SCALE of a macro-op that requantises: whether FIXED, mo and eo (R76, R111). -/
def MacroOp.rq (o : MacroOp) : Bool × Nat × Int :=
  let b := if o.op = opMatmul then 81 else if o.op = opAttn then 98 else if o.op = opNorm then 95 else if o.op = opAct then 71
    else if o.op = opSoftmax then 79 else if o.op = opRequant then 68 else 97
  (o.f b 1 == 1, o.f (b + 1) 8, signedOf 8 (o.f (b + 9) 8))

/-- The sequencer acts on the macro-op at dispatch (R100). -/
def MacroOp.sequencer (o : MacroOp) : Bool := decide (o.op ≤ opSleep) && !o.remote

/-- An engine-port macro-op (R122, R144); SAMPLE hands its results to the engine port (R123). DESIGN CHOICE (log entry 125): FENCE counts SAMPLE,
which occupies the vector unit too (R100), among the engine-port macro-ops alone. -/
def MacroOp.engine (o : MacroOp) : Bool := decide (opVaultGemv ≤ o.op ∧ o.op ≤ opBatchFetch)

/-- A compute macro-op (R102, R144). -/
def MacroOp.compute (o : MacroOp) : Bool := decide (opMatmul ≤ o.op ∧ o.op ≤ opTailorApply)

/-! ### Units (R100) -/

/-- The index of a unit: tensor 0, vector 1, function 2, requantiser 3, load queues 4 to 7, store queues 8 and 9, router port 10, engine
port 11. -/
def unitIndex : UnitId → Nat
  | .tensor => 0
  | .vector => 1
  | .func => 2
  | .requant => 3
  | .load q => 4 + q.val
  | .store q => 8 + q.val
  | .router => 10
  | .engine => 11

def routerPort : Nat := 10
def enginePort : Nat := 11

/-! ### Descriptors (R106) -/

/-- The end of tile SRAM (R71). -/
def sramEnd : Nat := 0x180000

/-- A descriptor. -/
structure Desc where
  kind        : Nat
  fmt         : Nat
  axis        : Bool
  indexEn     : Bool
  indexDesc   : Nat
  rows        : Nat
  cols        : Nat
  stride      : Nat
  data        : Nat
  scaleOff    : Nat
  indexStride : Nat
deriving DecidableEq, Repr

/-- A descriptor read from its 32 bytes. -/
def Desc.parse (b : List Byte) : Desc :=
  let h := leAt b 0 1
  { kind := fieldN h 0 3, fmt := fieldN h 3 3, axis := fieldN h 6 1 == 1, indexEn := fieldN h 7 1 == 1, indexDesc := leAt b 1 2 % 1024,
    rows := leAt b 4 4, cols := leAt b 8 4, stride := leAt b 12 4, data := leAt b 16 8, scaleOff := leAt b 24 4, indexStride := leAt b 28 4 }

/-- A descriptor of a tile's table. -/
def Tile.getDesc (x : Tile) (i : Nat) : Desc := Desc.parse (x.desc.read (32 * i) 32)

/-- Bits of an element (R75). -/
def fmtBits (fmt : Nat) : Nat := if fmt = 0 then 8 else if fmt = 1 then 4 else if fmt = 2 then 2 else 32

/-- Lines: rows for AXIS 0, columns for AXIS 1; and the elements, blocks and bytes of a line (R77). -/
def Desc.lines (d : Desc) : Nat := if d.axis then d.cols else d.rows
def Desc.len (d : Desc) : Nat := if d.axis then d.rows else d.cols
def Desc.blocks (d : Desc) : Nat := d.len / 32
def Desc.lineBytes (d : Desc) : Nat := d.len * fmtBits d.fmt / 8

/-- The address ranges of a tensor whose DATA is `data`, in the order of R115: the lines without stride padding, then the scale array. A
count array has no scales. -/
def Desc.ranges (d : Desc) (data : Nat) : List (Nat × Nat) :=
  if d.kind = 3 then [(data, 4 * d.rows)]
  else ((List.range d.lines).map fun i => (data + i * d.stride, d.lineBytes)) ++ [(data + d.scaleOff, 2 * d.lines * d.blocks)]

/-- The end of the data and scale extent. -/
def Desc.endAt (d : Desc) (data : Nat) : Nat := (d.ranges data).foldl (fun e r => max e (r.1 + r.2)) 0

/-- The bytes of a list of ranges. -/
def readRanges (m : Memory) (rs : List (Nat × Nat)) : List Byte := rs.flatMap fun r => m.read r.1 r.2

/-- Bytes written over a list of ranges in turn, as far as they go. -/
def writeRanges (m : Memory) : List (Nat × Nat) → List Byte → Memory
  | [], _ => m
  | (a, n) :: rs, bs => writeRanges (m.write a (bs.take n)) rs (bs.drop n)

/-! ### Elements and blocks (R75 to R77) -/

/-- The codes that bytes hold in a format. -/
def codesOf (fmt : Nat) (bs : List Byte) : List Int :=
  if fmt = 0 then bs.map fun b => signedOf 8 b.toNat
  else if fmt = 1 then bs.flatMap fun b => [signedOf 4 b.toNat, signedOf 4 (b.toNat / 16)]
  else if fmt = 2 then bs.flatMap fun b => (List.range 4).map fun j => signedOf 2 (b.toNat / 4 ^ j)
  else (chunks 4 bs).map fun w => signedOf 32 (leNat w)

/-- The bytes that hold codes in a format. -/
def bytesOf (fmt : Nat) (cs : List Int) : List Byte :=
  let pack (n : Nat) (l : List Int) : Byte := BitVec.ofNat 8 (packN (l.map fun c => (n, unsignedOf n c)))
  if fmt = 0 then cs.map fun c => pack 8 [c]
  else if fmt = 1 then (chunks 2 cs).map (pack 4)
  else if fmt = 2 then (chunks 4 cs).map (pack 2)
  else cs.flatMap fun c => leBytes 4 (unsignedOf 32 c)

/-- A block from its codes and the number that holds its scale (R76). -/
def Block.ofScale (codes : List Int) (scale : Nat) : Block := { codes := codes, m := scale % 256, e := signedOf 8 (scale / 256) }

/-- The two bytes of a block's scale. -/
def Block.scaleBytes (b : Block) : List Byte := leBytes 1 b.m ++ leBytes 1 (unsignedOf 8 b.e)

/-- Line `i` of a tensor as blocks. -/
def readLine (m : Memory) (d : Desc) (data i : Nat) : List Block :=
  let codes := chunks 32 (codesOf d.fmt (m.read (data + i * d.stride) d.lineBytes))
  let scales := chunks 2 (m.read (data + d.scaleOff + 2 * d.blocks * i) (2 * d.blocks))
  List.zipWith (fun c s => Block.ofScale c (leNat s)) codes scales

/-- A tensor as lines of blocks. -/
def readTensor (m : Memory) (d : Desc) (data : Nat) : List (List Block) := (List.range d.lines).map (readLine m d data)

/-- A line of blocks written. -/
def writeLine (m : Memory) (d : Desc) (data i : Nat) (bs : List Block) : Memory :=
  (m.write (data + i * d.stride) (bytesOf d.fmt (bs.flatMap Block.codes))).write (data + d.scaleOff + 2 * d.blocks * i)
    (bs.flatMap Block.scaleBytes)

/-- A tensor written from its lines. -/
def writeTensor (m : Memory) (d : Desc) (data : Nat) (ls : List (List Block)) : Memory :=
  ls.zipIdx.foldl (fun m (bs, i) => writeLine m d data i bs) m

/-- The first `n` elements of a count array. -/
def readCounts (m : Memory) (data n : Nat) : List Nat := (List.range n).map fun i => leNat (m.read (data + 4 * i) 4)

/-! ### What a macro-op names (R111) -/

/-- VEC: VOP, B_IMM and IMM (R120). -/
def MacroOp.vop (o : MacroOp) : Nat := o.f 78 6
def MacroOp.bImm (o : MacroOp) : Bool := o.f 91 1 == 1
def MacroOp.imm (o : MacroOp) : Int := signedOf 32 (o.f 92 32)

/-- A VOP reads a second tensor or the immediate in its place. -/
def vopUsesB (v : Nat) : Bool := decide (v ≤ 0x05 ∨ (0x0A ≤ v ∧ v ≤ 0x11))
/-- A VOP reads DA; a VOP writes DOUT. -/
def vopUsesA (v : Nat) : Bool := v != 0x13
def vopUsesOut (v : Nat) : Bool := !(decide (0x0C ≤ v ∧ v ≤ 0x0E) || v == 0x12 || v == 0x14)

/-- The lowest bit of DCNT where a count is enabled (R109), or of DLEN. -/
def MacroOp.cntAt (o : MacroOp) : Option Nat :=
  let en (b i : Nat) : Option Nat := if o.f i 1 = 1 then some b else none
  if o.op = opMatmul then en 98 108
  else if o.op = opAttn then some 88
  else if o.op = opNorm then en 112 122
  else if o.op = opSoftmax then en 68 78
  else if o.op = opVaultGemv then en 86 96
  else if o.op = opSample then en 95 105
  else if o.op = opSampleCollect then en 68 78
  else none

/-- The descriptors of a macro-op's tensors, by the lowest bit of their fields, count arrays of DCNT and DLEN left out. -/
def MacroOp.fields (o : MacroOp) : List Nat :=
  let c := o.op
  if c = opLoad ∨ c = opStore ∨ c = opMove ∨ c = opAct ∨ c = opSoftmax ∨ c = opRequant ∨ c = opVaultStream ∨ c = opTailorGather
      ∨ c = opSample then [48, 58]
  else if c = opSend ∨ c = opRecv ∨ c = opSampleCollect ∨ c = opBatchFetch then [48]
  else if c = opMatmul ∨ c = opNorm ∨ c = opVaultGemv then [48, 58, 68]
  else if c = opAttn ∨ c = opTailorApply then [48, 58, 68, 78]
  else if c = opVec then
    (if vopUsesA o.vop then [48] else []) ++ (if vopUsesB o.vop && !o.bImm then [58] else []) ++ (if vopUsesOut o.vop then [68] else [])
  else []

/-- Every descriptor index that a macro-op names, its counts' included. -/
def MacroOp.descs (o : MacroOp) : List Nat :=
  (o.fields.map fun b => o.f b 10) ++ (match o.cntAt with
    | some b => [o.f b 10]
    | none => [])

/-- The output descriptor of ACT, SOFTMAX and NORM is in a narrow format, so that the requantiser takes part (R100). -/
def Tile.fuses (x : Tile) (o : MacroOp) : Bool := (x.getDesc (o.f (if o.op = opNorm then 68 else 58) 10)).fmt != 3

/-- The units that a macro-op occupies (R100); none for the sequencer's. -/
def Tile.units (x : Tile) (o : MacroOp) : List Nat :=
  let c := o.op
  if o.sequencer then []
  else if c = opMatmul ∨ c = opTailorApply then [0]
  else if c = opAttn then [0, 2, 3]
  else if c = opVec then [1]
  else if c = opSample then [1, enginePort]
  else if c = opAct ∨ c = opSoftmax ∨ c = opNorm then (if x.fuses o then [2, 3] else [2])
  else if c = opRequant then [3]
  else if c = opLoad then [4 + o.f 68 2]
  else if c = opStore then [8 + o.f 68 1]
  else if o.engine then [enginePort]
  else [routerPort]

/-- The static bound and the number of elements of a macro-op's count (R109): rows or lanes for a count of the whole macro-op, elements
of a row for a count per row. -/
def Tile.cntShape (x : Tile) (o : MacroOp) : Nat × Nat :=
  let d (b : Nat) : Desc := x.getDesc (o.f b 10)
  if o.op = opMatmul then ((d 48).rows, 1)
  else if o.op = opAttn then ((d 58).rows, (d 48).rows)
  else if o.op = opNorm ∨ o.op = opSoftmax then ((d 48).len, (d 48).lines)
  else if o.op = opVaultGemv then ((d 58).rows, 1)
  else if o.op = opSampleCollect then ((d 48).lines * (d 48).lineBytes / 16, 1)
  else (((d 48).rows), 1)

/-! ### Cycle formulas (R110, R113, R114, R117 to R123) -/

/-- Blocks of B per fabric cycle (R117). -/
def rateOf (fmt : Nat) : Nat := if fmt = 0 then 1 else if fmt = 1 then 2 else 4

/-- Cycles of a drain per row of 64 columns (R117). -/
def drainCost (fmt : Nat) (fixed : Bool) : Nat := if fmt = 3 then 2 else if fixed then 4 else 5

/-- T_MM (R117): rows, B's format, K, N, whether C is loaded, and the drain's cost or 0. -/
def tMM (m fmtB k n : Nat) (loads : Bool) (drain : Nat) : Nat :=
  let nK := ceilDiv k (32 * rateOf fmtB)
  let nN := ceilDiv n 64
  let chunk (c : Nat) : Nat := nN * (nK * max c 32 + (if loads then 2 * c else 0) + drain * c)
  20 + m / 256 * chunk 256 + (if m % 256 = 0 then 0 else chunk (m % 256))

/-- The requantiser's cycles for E elements (R119). -/
def tRequant (e : Nat) (fixed : Bool) : Nat := if fixed then ceilDiv e 32 + 8 else ceilDiv e 64 + ceilDiv e 32 + 8

/-- The fabric cycles of a macro-op by its formula; counts and masks do not change them (R110). -/
def Tile.cycles (x : Tile) (o : MacroOp) : Nat :=
  let d (b : Nat) : Desc := x.getDesc (o.f b 10)
  let bytes (e : Desc) : Nat := sumN ((e.ranges 0).map Prod.snd)
  let size (e : Desc) : Nat := e.rows * e.cols
  let fixed := o.rq.1
  let fuse (e : Desc) : Nat := if e.fmt = 3 then 0 else tRequant (size e) fixed
  if o.op = opLoad ∨ o.op = opStore then 2
  else if o.op = opMove ∧ !o.remote then ceilDiv (bytes (d 48)) 64 + 8
  else if o.op = opMatmul then
    let acc := o.f 78 3
    tMM (d 48).rows (d 58).fmt (d 48).cols (d 58).cols (acc == 1) (if acc = 2 ∨ acc = 3 then 0 else drainCost (d 68).fmt fixed)
  else if o.op = opAttn then
    let q := (d 48).rows
    let l := (d 58).rows
    tMM q (d 58).fmt (d 48).cols l false (drainCost 3 false) + q * (3 * ceilDiv l 16 + 48) + q * (ceilDiv l 64 + ceilDiv l 32)
      + tMM q (d 68).fmt l (d 48).cols false (drainCost (d 78).fmt fixed)
  else if o.op = opAct then ceilDiv (size (d 48)) (if o.f 68 3 = 1 ∨ o.f 68 3 = 2 then 8 else 16) + 12 + fuse (d 58)
  else if o.op = opSoftmax then (d 48).lines * (3 * ceilDiv (d 48).len 16 + 48) + 12 + fuse (d 58)
  else if o.op = opNorm then (d 48).lines * ((if o.f 78 1 = 1 then 3 else 2) * ceilDiv (d 48).len 16 + 40) + 12 + fuse (d 68)
  else if o.op = opRequant then tRequant (size (d 48)) fixed
  else if o.op = opVec then (if decide (0x12 ≤ o.vop ∧ o.vop ≤ 0x14) then 8 else ceilDiv (size (d 48)) 64 + 8)
  else if o.op = opTailorApply then
    (d 48).rows * (ceilDiv (d 48).cols 128 + ceilDiv (d 68).cols 128 + 2 * ceilDiv (d 68).cols 64 + 24) + 20
  else if o.op = opSample then (d 48).rows * (2 * ceilDiv (d 48).cols 64 + o.f 68 9 + 16) + 12
  else if o.engine then 4
  else 0

/-! ### Streams (R160, R161, R296) -/

/-- A TILE_STREAMS entry: DEST, virtual tile (row-major), DSTREAM, LINK, MESH_SLOTS. Incoming entries follow the 64 outgoing ones. -/
structure StreamEntry where
  dest    : Nat
  vtile   : Nat
  dstream : Nat
  link    : Nat
  slots   : Nat
deriving DecidableEq, Repr

def StreamEntry.parse (w : Nat) : StreamEntry :=
  { dest := fieldN w 0 2, vtile := 32 * fieldN w 2 4 + fieldN w 6 5, dstream := fieldN w 11 6, link := fieldN w 17 3, slots := fieldN w 64 64 }

/-- An outgoing stream of a tile. -/
def Tile.outStream (x : Tile) (i : Nat) : StreamEntry := StreamEntry.parse (KMap.get 0 x.tstreams i)
/-- An incoming stream of a tile. -/
def Tile.inStream (x : Tile) (i : Nat) : StreamEntry := StreamEntry.parse (KMap.get 0 x.tstreams (64 + i))

/-- A LINK_SLOTS entry: USE, virtual tile, STREAM (R161). -/
structure SlotEntry where
  use    : Nat
  vtile  : Nat
  stream : Nat
deriving DecidableEq, Repr

def SlotEntry.parse (w : Nat) : SlotEntry := { use := fieldN w 0 2, vtile := 32 * fieldN w 2 4 + fieldN w 6 5, stream := fieldN w 11 6 }

/-- Slot `k` of a link's transmit or receive table. -/
def Image.slot (im : Image) (l : Nat) (receive : Bool) (k : Nat) : SlotEntry :=
  SlotEntry.parse (KMap.get 0 im.slots (112 * l + 56 * b2n receive + k))

/-- The scheduled plan cycle of plan slot g, at full or half width (R296, R339). -/
def slotCycle (half : Bool) (g : Nat) : Nat := g * (if half then 132 else 66) / 425

/-- The plan slots whose scheduled cycle is c. -/
def slotsAt (half : Bool) (c : Nat) : List Nat :=
  let n := if half then 132 else 66
  let a := ceilDiv (425 * c) n
  (List.range (ceilDiv (425 * (c + 1)) n - a)).map (a + ·)

end Sys2Proof.Machine
end

