-- ==== Sys2Proof/Machine/Mem.lean ====
section
/-! DEFINITION. Memory by frames and by a context's virtual addresses (R167, R239, R251, R255), flag words and the flag watches
on them (R425, R427). Checks of rights stand with the commands that need them. -/

namespace Sys2Proof.Machine

/-- Bytes of a page and of a frame (R239). -/
def pageBytes : Nat := 2097152

/-- Frames of an HBM stack, and those of them that the Cloakroom grants (R239). -/
def stackFrames : Nat := 18432
def grantFrames : Nat := 17408

/-- The half-lines or words that a range of bytes touches: the addresses of its 32-byte words (R241). -/
def wordsOf (a n : Nat) : List Nat :=
  if n = 0 then [] else (List.range ((a + n - 1) / 32 - a / 32 + 1)).map fun i => 32 * (a / 32 + i)

/-- A range of addresses cut at page boundaries: start and length of each piece. -/
def piecesOf : Nat → Nat → Nat → List (Nat × Nat)
  | 0, _, _ => []
  | fuel + 1, a, n =>
    if n = 0 then [] else
      let m := min n (pageBytes - a % pageBytes)
      (a, m) :: piecesOf fuel (a + m) (n - m)

def pieces (a n : Nat) : List (Nat × Nat) := piecesOf (n / pageBytes + 2) a n

/-- The bytes of a frame from an offset on. -/
def State.frameRead (s : State) (f : FrameId) (off n : Nat) : List Byte :=
  if f.cxl then (s.getCxl f.unit).mem.read (f.frame * pageBytes + off) n
  else (s.getHbm f.unit).mem.read (f.frame * pageBytes + off) n

/-- Bytes written to a frame. -/
def State.frameWrite (s : State) (f : FrameId) (off : Nat) (bs : List Byte) : State :=
  if f.cxl then s.modCxl f.unit fun x => { x with mem := x.mem.write (f.frame * pageBytes + off) bs }
  else s.modHbm f.unit fun x => { x with mem := x.mem.write (f.frame * pageBytes + off) bs }

/-- A frame with every byte 0 (R276). -/
def State.frameClear (s : State) (f : FrameId) : State :=
  if f.cxl then s.modCxl f.unit fun x => { x with mem := x.mem.clear (f.frame * pageBytes) pageBytes }
  else s.modHbm f.unit fun x => { x with mem := x.mem.clear (f.frame * pageBytes) pageBytes }

/-- The memory that holds a frame. -/
def State.frameMem (s : State) (f : FrameId) : Memory := if f.cxl then (s.getCxl f.unit).mem else (s.getHbm f.unit).mem

/-- A frame's contents put into another frame (R260). -/
def State.frameCopy (s : State) (a b : FrameId) : State :=
  let src := s.frameMem a
  let put (m : Memory) : Memory := src.copy (a.frame * pageBytes) m (b.frame * pageBytes) pageBytes
  if b.cxl then s.modCxl b.unit fun x => { x with mem := put x.mem } else s.modHbm b.unit fun x => { x with mem := put x.mem }

/-- The page table entry of a virtual address (R255); none where the address has no entry. -/
def State.pte (s : State) (k va : Nat) : Option Pte :=
  let e := KMap.get {} (s.getCtx k).pt (va / pageBytes)
  if e.frame.isSome then some e else none

/-- A page table entry changed. -/
def State.modPte (s : State) (k page : Nat) (f : Pte → Pte) : State :=
  s.modCtx k fun c => { c with pt := KMap.upd {} c.pt page f }

/-- Every page that a range touches has an entry that allows the access (R255): any page to a read, a page with WRITE that is no
stream page to a write. -/
def State.vaOk (s : State) (k va n : Nat) (write : Bool) : Bool :=
  decide (0 < n) && (pieces va n).all fun p =>
    match s.pte k p.1 with
    | some e => !write || (e.write && !e.stream)
    | none => false

/-- A range lies in one segment of the loaded image. -/
def State.segOf (s : State) (k va n : Nat) : Option Seg :=
  match (s.getCtx k).image with
  | some im => im.segs.find? fun g => decide (g.base ≤ va ∧ va + n ≤ g.base + g.size)
  | none => none

/-- The bytes at a context's addresses; a page without entry reads 0 (callers check first). -/
def State.ctxRead (s : State) (k va n : Nat) : List Byte :=
  (pieces va n).foldl (fun acc p => acc ++ match s.pte k p.1 with
    | some { frame := some f, .. } => s.frameRead f (p.1 % pageBytes) p.2
    | _ => List.replicate p.2 0) []

/-- A little-endian number at a context's address. -/
def State.ctxNat (s : State) (k va n : Nat) : Nat := leNat (s.ctxRead k va n)

/-! ### Flag words and their watches (R425, R427) -/

/-- OWNER of a flag word (R425): 0 management software, 1 the plan, 2 the Serving Engine. -/
def flagOwner (w : Nat) : Nat := w % 16

/-- The virtual address that an aperture's offset reaches, with its context: the aperture is VALID and has that page (R423). -/
def State.aperVa (s : State) (a off : Nat) : Option (Nat × Nat) :=
  let id := CtxId.ofNat (s.fld .mgtAper [a] 0 16)
  match (s.getCtx id.slot).image with
  | some im =>
    match im.segs[s.fld .mgtAper [a] 16 15]? with
    | some g => if s.bit .mgtAper [a] 32 && decide (off < s.fld .mgtAperRange [a] 32 12 * pageBytes) then some (id.slot, g.base + s.fld .mgtAperRange [a] 0 21 * pageBytes + off) else none
    | none => none
  | none => none

/-- Every aperture that names a context clears VALID and sets STALE (R423). -/
def dropApers (s : State) (k : Nat) : State :=
  s.each (List.range 64) fun s a =>
    if s.bit .mgtAper [a] 32 ∧ (CtxId.ofNat (s.fld .mgtAper [a] 0 16)).slot = k then (s.setBit .mgtAper [a] 32 false).setBit .mgtAper [a] 33 true
    else s

/-- A flag watch ends with a status and raises MGT_IRQ_WATCH (R427). -/
def State.endFlagWatch (s : State) (w : Nat) (st : Status) (suspended : Bool) : State :=
  (((((s.setBit .mgtFlagWatch [w] 40 false).setBit .mgtFlagWatch [w] 41 true).setBit .mgtFlagWatch [w] 42 suspended).setFld
    .mgtFlagWatch [w] 43 8 st.code)).emit (.watchIrq w)

/-- The flag watches whose context is a slot. -/
def State.watchesOf (s : State) (k : Nat) : List Nat :=
  (List.range 16).filter fun w => s.bit .mgtFlagWatch [w] 40 &&
    (CtxId.ofNat (s.fld .mgtAper [s.fld .mgtFlagWatch [w] 0 6] 0 16)).slot == k

/-- The watch's word has the OWNER that it expects. -/
def State.flagMet (s : State) (w : Nat) : Bool :=
  match s.aperVa (s.fld .mgtFlagWatch [w] 0 6) (8 * s.fld .mgtFlagWatch [w] 6 29) with
  | some (k, va) => flagOwner (s.ctxNat k va 8) == s.fld .mgtFlagWatch [w] 35 4
  | none => false

/-- The watches on words that a write to a context's addresses touched end OK where OWNER now equals EXPECT (R427). -/
def State.flagWrites (s : State) (k va n : Nat) : State :=
  s.each (s.watchesOf k) fun s w =>
    match s.aperVa (s.fld .mgtFlagWatch [w] 0 6) (8 * s.fld .mgtFlagWatch [w] 6 29) with
    | some (_, a) => if decide (a < va + n ∧ va < a + 8) && s.flagMet w then s.endFlagWatch w .ok false else s
    | none => s

/-- Bytes written at a context's addresses. A store to a page that an exchange holds waits for the remap (R260): it is kept
with the exchange, and `tile` and `mop` say whose transfer waits (tile 576: none does). -/
def State.ctxWrite (s : State) (k va : Nat) (bs : List Byte) (tile : Nat := 576) (mop : Nat := 0) : State :=
  let s := s.each (pieces va bs.length) fun s p =>
    let part := slice bs (p.1 - va) p.2
    match s.pte k p.1 with
    | some e =>
      if e.moving then
        { s with mor := { s.mor with exchanges := s.mor.exchanges.map fun x =>
            if x.ctx.slot = k ∧ (x.victim = p.1 / pageBytes ∨ x.cand = p.1 / pageBytes)
            then { x with held := x.held ++ [{ va := p.1, bytes := part, tile := tile, mop := mop }] } else x } }
      else match e.frame with
        | some f => s.frameWrite f (p.1 % pageBytes) part
        | none => s
    | none => s
  s.flagWrites k va bs.length

/-- A flag handed over: OWNER replaced, TAG kept (R425). -/
def State.handFlag (s : State) (k va owner : Nat) : State :=
  s.ctxWrite k va (leBytes 8 (s.ctxNat k va 8 / 16 * 16 + owner))

end Sys2Proof.Machine
end

