-- ==== Sys2Proof/Machine/Turns.lean ====
section
/-! DEFINITION. Request records by handle (R207), delivery entries (R230) with the times they measure (R220), and the end of a
turn (R232). -/

namespace Sys2Proof.Machine

/-- The record of a slot. -/
def State.getReq (s : State) (i : Nat) : Req := KMap.get {} s.req i
def State.modReq (s : State) (i : Nat) (f : Req → Req) : State := { s with req := KMap.set {} s.req i (f (s.getReq i)) }

/-- A handle of a slot and generation (R207). -/
def mkHandle (slot gen : Nat) : Nat := slot + 16384 * gen

/-- The record that a handle names on the lead chip, unless the handle is stale (R207). -/
def State.reqOf (s : State) (h : Nat) : Option Nat :=
  let i := h % 16384
  let r := s.getReq i
  if r.state != .free && r.lead && r.gen == h / 16384 then some i else none

/-- The record of a context that holds a lead's handle: the lead's own or a mirror (R209). -/
def State.mirrorOf (s : State) (k h : Nat) : Option Nat :=
  (s.req.find? fun e => e.2.state != .free && e.2.handle == h && e.2.ctx.slot == k).map Prod.fst

/-- The records of a context. -/
def State.reqsOf (s : State) (k : Nat) : List Nat :=
  (s.req.filter fun e => e.2.state != .free && e.2.ctx.slot == k).map Prod.fst

/-- Records in use, of the chip. -/
def State.reqsUsed (s : State) : Nat := countP (fun e => e.2.state != .free) s.req

/-- A record freed: a handle's slot advances its generation, from 2^18 - 1 to 1 (R207); mirrors stand above the slots. -/
def State.freeReq (s : State) (i : Nat) : State :=
  s.modReq i fun r => if 16384 ≤ i then {} else { gen := if r.gen = 262143 then 1 else r.gen + 1 }

/-- A change of a context's Serving Engine state. -/
def State.modServe (s : State) (k : Nat) (f : Serve → Serve) : State := s.modCtx k fun c => { c with serve := f c.serve }

/-- The collects of a step. -/
def Serve.pool (v : Serve) (step : Nat) : Collect := (v.collects.find? fun c => c.step == step).getD { step := step }

/-- The collects of a step replaced. -/
def Serve.setPool (v : Serve) (c : Collect) : Serve := { v with collects := c :: v.collects.filter fun d => d.step != c.step }

/-- The table of a step that the chip has taken in (R215). -/
def Serve.table (v : Serve) (step : Nat) : Option StepMsg := v.tables.find? fun m => m.step == step

/-- Ticks of MT in a number of microseconds. -/
def usTicks (us : Nat) : Nat := 1250 * us

/-- The 128 bytes of a delivery entry whose flag goes to management (R230). -/
def deliveryBytes (s : State) (d : Delivery) (flag : Nat) : List Byte :=
  padTo (padTo (leBytes 8 (flag / 16 * 16) ++ leBytes 4 d.tokidx ++ leBytes 1 d.tokens.length ++ leBytes 1 d.reason
    ++ leBytes 1 (b2n d.afterEnd + 2 * b2n d.miss + 4 * b2n d.first) ++ leBytes 1 0 ++ leBytes 8 s.mtN ++ leBytes 4 d.step) 64 0
    ++ d.tokens.flatMap (leBytes 4)) 128 0

/-- TTFT or TBT of an entry that is written now, with its misses (R220): a target of 0 is one that every measurement is above. -/
def State.measure (s : State) (i : Nat) (d : Delivery) : State :=
  let r := s.getReq i
  let t := s.mtN - (if d.first then d.admitMt else r.mtLast)
  let tgt := if d.first then r.ttftTgt else r.tbtTgt
  let missed := decide (usTicks tgt < t)
  let s := s.modReq i fun r =>
    { r with mtLast := s.mtN, misses := satN 32 (r.misses + b2n missed),
             ttft := if d.first then satN 32 (t / 1250) else r.ttft,
             tbtMax := if d.first then 0 else satN 32 (max r.tbtMax (t / 1250)) }
  if missed then s.addFld .srvCtxMiss [r.ctx.slot] (if d.first then 32 else 0) 32 1 else s

/-- The Serving Engine holds the flag of the record's next output entry. -/
def State.entryFree (s : State) (i : Nat) : Bool :=
  let r := s.getReq i
  flagOwner (s.ctxNat r.ctx.slot (r.ringVa + 128 * r.ringPos) 8) == 2

/-- A delivery written into the next entry (R230). -/
def State.writeDelivery (s : State) (i : Nat) (d : Delivery) : State :=
  let r := s.getReq i
  let va := r.ringVa + 128 * r.ringPos
  let bytes := deliveryBytes s d (s.ctxNat r.ctx.slot va 8)
  let s := s.measure i d
  let s := s.modReq i fun r => { r with ringPos := if r.ringN ≤ r.ringPos + 1 then 0 else r.ringPos + 1 }
  s.ctxWrite r.ctx.slot va bytes

/-- A delivery written, or kept in order while the next entry's flag is management's (R230: OUTPUT_HELD). -/
def State.deliver (s : State) (i : Nat) (d : Delivery) : State :=
  if (s.getReq i).held.isEmpty && s.entryFree i then s.writeDelivery i d
  else s.modReq i fun r => { r with held := r.held ++ [d] }

/-- Held deliveries written in order as far as entries have returned. -/
def State.drainHeld (s : State) (i : Nat) : State :=
  let rec go (s : State) : List Delivery → State
    | [] => s.modReq i fun r => { r with held := [] }
    | d :: ds => if s.entryFree i then go (s.writeDelivery i d) ds else s.modReq i fun r => { r with held := d :: ds }
  go s (s.getReq i).held

/-- The record back in IDLE with the reason kept (R232); TURN_NEW and PROMPT_LEFT stay as the turn left them until the next ADMIT (R238). -/
def State.idleReq (s : State) (i : Nat) (reason : Nat) : State :=
  s.modReq i fun r => { r with state := .idle, lastEnd := reason, cancel := false, cancelFrom := none, lastChunk := none }

/-- A delivery of the record's running turn, formed now. -/
def State.formDelivery (s : State) (i tokidx : Nat) (tokens : List Nat) (reason : Nat) (afterEnd miss : Bool) (step : Nat) : State :=
  let r := s.getReq i
  let d : Delivery := { first := !r.formed, admitMt := r.mtAdmit, tokidx := tokidx, tokens := tokens, reason := reason,
                        afterEnd := afterEnd, miss := miss, step := step }
  (s.modReq i fun r => { r with formed := true }).deliver i d

/-- A turn ends where no token is delivered with its end: the reason stands on the last held delivery of the turn, or on an
entry with NTOK 0 (R232). -/
def State.endTurn (s : State) (i : Nat) (reason step : Nat) : State :=
  let r := s.getReq i
  let s := match r.held.reverse with
    | d :: ds =>
      if r.formed && d.reason == 0 then s.modReq i fun r => { r with held := (({ d with reason := reason } : Delivery) :: ds).reverse }
      else s.formDelivery i r.tokidx [] reason false false step
    | [] => s.formDelivery i r.tokidx [] reason false false step
  s.idleReq i reason

/-- Every turn of a context that has not ended ends STOPPED (R232): on the lead chip. No step that was frozen is consumed after that (R231). -/
def State.stopTurns (s : State) (k : Nat) : State :=
  s.each (s.reqsOf k) fun s i =>
    let r := s.getReq i
    (if r.lead && r.state != .idle then s.endTurn i 4 ((s.getCtx k).serve.next - 1) else s).modReq i fun r => { r with frozen := [] }

end Sys2Proof.Machine
end

