-- ==== Sys2Proof/Machine/Plan.lean ====
section
/-! DEFINITION. Frost intervals (R61 to R63), abandoned objects (R151), and the end of a context's plan with all that it takes
along (R51, R152, R232, R293, R309, R352, R390, R409). -/

namespace Sys2Proof.Machine

/-- A duration in ticks, saturating at 32 bits (R63). -/
def frostSpan (from_ to_ : Word) : Nat := satN 32 (to_ - from_).toNat

/-- A Frost record opened at HEAD, which then advances; the oldest unread record gives way (R62). DESIGN CHOICE (log entry 123): LOST and FROST_COUNT
stay at their largest values. -/
def openFrost (s : State) (k cause detail : Nat) : State :=
  let i := s.fld .timFrostHead [] 0 8
  let s := ((s.setRg .timFrostRec [i, 0] s.time.mt).setRg .timFrostRec [i, 1] (s.getCtx k).plan.pcy).setRg .timFrostRec [i, 2]
    (pack [(32, 16, detail), (48, 4, cause)])
  let s := s.setRg .timFrostRec [i, 3]
    (pack [(0, 16, (s.idOf k).toNat), (16, 5, axis s.self 0), (21, 5, axis s.self 1), (26, 5, axis s.self 2), (31, 1, 1)])
  let s := s.setFld .timFrostHead [] 0 8 (i + 1)
  let s := if (i + 1) % 256 = s.fld .timFrostTail [] 0 8
    then (s.setFld .timFrostTail [] 0 8 (s.fld .timFrostTail [] 0 8 + 1)).addFld .timFrostHead [] 16 32 1 else s
  let s := s.addFld .timCtxFrostCount [k] 0 32 1
  s.modPlan k fun p => { p with state := .frosted, frost := some { index := i, cause := cause, detail := detail, startMt := s.time.mt } }

/-- The open Frost record of a context closed (R62): DURATION, OPEN and, where it is no thaw, ENDED; a HORIZON record adds to its
link's HOLD (R372). The plan's state is the caller's. A record that a later one has overwritten stays as it is. DESIGN CHOICE (log entry 122): what
FROST_TOTAL takes is the DURATION of the record, which saturates (R63). -/
def closeFrost (s : State) (k : Nat) (ended : Bool) : State :=
  match (s.getCtx k).plan.frost with
  | none => s
  | some f =>
    let d := frostSpan f.startMt s.time.mt
    let mine := s.rg .timFrostRec [f.index, 0] == f.startMt && s.bit .timFrostRec [f.index, 3] 31
      && s.fld .timFrostRec [f.index, 3] 0 5 == k
    let s := if mine then
        ((s.setFld .timFrostRec [f.index, 2] 0 32 d).setBit .timFrostRec [f.index, 3] 31 false).setBit .timFrostRec [f.index, 3] 32 ended
      else s
    let s := s.setRg .timCtxFrostTotal [k] (s.rg .timCtxFrostTotal [k] + Word.ofNat d)
    let s := if f.cause = 2 then s.addFld .netLedgerHold [f.detail % 8] 0 48 d else s
    s.modPlan k fun p => { p with frost := none }

/-! ### Objects and watches -/

/-- A wait on a count with a target is satisfied (R135). -/
def satisfied (count target : BitVec 32) : Bool := decide ((count - target).toNat < 2 ^ 31)

/-- Waiter entry 0 of a tile (R137): the object and TARGET of the WAIT at the head of the issue queue that its object does not
satisfy. DESIGN CHOICE (log entry 124): once its object satisfies it, the WAIT is not in the entry while it waits for its AT. -/
def Tile.heldWait (x : Tile) : Option (Nat × BitVec 32) :=
  match x.issueQ with
  | o :: _ => if o.op = opWait ∧ !satisfied (KMap.get {} x.sync o.obj).count o.target then some (o.obj, o.target) else none
  | [] => none

/-- A software watch on a tile's sync object ends (R154). -/
def State.endSyncWatch (s : State) (t w : Nat) (st : Status) (suspended : Bool) : State :=
  (((s.setBit .tilSyncWatch [t, w] 39 false).setBit .tilSyncWatch [t, w] 40 true).setBit .tilSyncWatch [t, w] 41 suspended).setFld
    .tilSyncWatch [t, w] 42 8 st.code

/-- The pending watches of a tile. -/
def State.syncWatches (s : State) (t : Nat) : List Nat := (List.range 3).filter fun w => s.bit .tilSyncWatch [t, w] 39

/-- Every pending software watch on the objects and flags of a context ends (R150, R151, R427). -/
def State.endWatches (s : State) (k : Nat) (st : Status) (suspended : Bool) : State :=
  let s := s.each (s.getCtx k).tiles fun s t => s.each (s.syncWatches t) fun s w => s.endSyncWatch t w st suspended
  s.each (s.watchesOf k) fun s w => s.endFlagWatch w st suspended

/-- Every object of a context becomes ABANDONED (R151). -/
def State.abandon (s : State) (k : Nat) : State :=
  (s.each (s.getCtx k).tiles fun s t => s.modTile t fun x => { x with bank := .abandoned }).endWatches k .abandoned false

/-! ### The end of a plan -/

/-- Why a plan ends: it reached its last cycle, an L1 ended it, an ABORT ended it (R370: no CONTEXT_LOST), or the context is
destroyed or discarded. -/
inductive EndReason where
  | completed | level1 | aborted | killed
deriving DecidableEq, Repr

/-- A context's claims leave the claim map (R293). -/
def State.dropClaims (s : State) (k : Nat) : State :=
  { s with net := { s.net with claims := s.net.claims.filter fun e => match e.2 with
      | some c => c.ctx.slot != k
      | none => true } }

/-- Both banks of a context's route entries become invalid (R309). -/
def State.dropRoutes (s : State) (k : Nat) : State :=
  { s with net := { s.net with routes := s.net.routes.drop fun i => i % 8192 / 256 == k } }

/-- The granted tiles of a context are DEEP (R390). -/
def State.deepTiles (s : State) (k : Nat) : State :=
  s.each (s.getCtx k).tiles fun s t => s.modTile t fun x =>
    { x with power := if x.state = .granted then .deep else x.power, waking := false, wakeAt := none }

/-- The body of a LAUNCH packet (R363), less its head. -/
structure LaunchBody where
  opc      : Nat
  attempt  : Nat := 0
  status   : Nat := 0
  reason   : Nat := 0
  part     : Nat
  gen      : Nat
  origin   : Nat := 0
  extent   : Nat := 0
  coord    : Nat := 0
  resume   : Bool := false
  cause    : Nat := 0
  deadline : Word := 0
  tlOrP    : Word := 0
  imageId  : List Byte := []
  fail     : Option Nat := none
deriving DecidableEq, Repr

/-- The bytes of a LAUNCH body (R363). -/
def LaunchBody.bytes (b : LaunchBody) : List Byte :=
  leBytes 1 b.opc ++ leBytes 1 b.attempt ++ leBytes 1 b.status ++ leBytes 1 b.reason ++ leBytes 2 b.part ++ leBytes 2 (b.gen % 256)
    ++ leBytes 2 b.origin ++ leBytes 2 b.extent ++ leBytes 2 b.coord ++ leBytes 1 (b2n b.resume) ++ leBytes 1 b.cause
    ++ leBytes 8 b.deadline.toNat ++ leBytes 8 b.tlOrP.toNat ++ padTo b.imageId 48 0 ++ leBytes 2 (b.fail.getD 0x8000)

/-- The chip's CONTEXT_LOST flood for a context (R152, R363). -/
def sendLost (s : State) (k : Nat) : State :=
  let e := (s.getCtx k).part
  sendFlood s k 4 2 (LaunchBody.bytes { opc := 5, part := e.part, gen := e.gen })

/-- A Cloakroom command in progress on a context ends (R281: ABANDONED). -/
def State.dropCloOp (s : State) (k : Nat) (st : Status) : State :=
  match s.cloOp with
  | some (.preempt j) | some (.rebind j _ _ _) =>
    if j = k then { s.finish .cloCmdStatus [] st with cloOp := none } else s
  | _ => s

/-- A snapshot of a context ends ABANDONED (R413). -/
def State.dropSnap (s : State) (k : Nat) : State :=
  match s.snap with
  | some p => if p.ctx.slot = k then { s.finish .fltSnapStatus [] .abandoned with snap := none } else s
  | none => s

/-- A released partition number kept out of use for 2,500,000 ticks (R270, R356): the lowest entry of NET_PART_QUAR that is not
VALID takes it, or the one that expires first. -/
def quarPart (s : State) (part : Nat) : State :=
  let i := match (List.range 64).find? fun i => !s.bit .netPartQuar [i] 16 with
    | some i => i
    | none => (List.range 64).foldl (fun b i => if (KMap.get 0 s.partQuar i).toNat < (KMap.get 0 s.partQuar b).toNat then i else b) 0
  (s.setRg .netPartQuar [i] (pack [(0, 16, part), (16, 1, 1)])).setPartQuar i (s.time.mt + 2500000)

/-- A partition entry back in JOINED: nothing of its launch or of a pre-emption is kept (R352). -/
def PartEntry.rejoin (e : PartEntry) : PartEntry :=
  { e with state := .joined, launch := none, preempt := none, preUntil := none, go := false, coordinator := false }

/-- A partition entry back in JOINED after its plan has completed: a pre-emption that waits for answers, GO or CANCEL goes on (R280). -/
def PartEntry.complete (e : PartEntry) : PartEntry := { e with state := .joined, launch := none, coordinator := false }

/-- An entry leaves JOINED: an image that waits for the loader is discarded (R361). -/
def PartEntry.leave (e : PartEntry) (st : PartState) : PartEntry :=
  { e with state := st, img := if e.img.state = .loadWait then { e.img with state := .discarded } else e.img }

/-- The vault requests of a plan that has ended: those that run go on to their ends, those that wait are dropped (R151, R204). -/
def State.endRequests (s : State) (k : Nat) : State :=
  s.each (List.range 4) fun s v => s.modVault v fun x => { x with
    queue := KMap.set [] x.queue k [],
    ending := x.ending ++ ((KMap.get [] x.queue k).filter VReq.started).map fun r =>
      { owner := s.idOf k, tile := (s.getCtx k).tiles.getD r.vtile 576, key := r.key } }

/-- A context's plan enters ENDED, with what R51 and the rules named above attach to it; nothing where it is ENDED (R153). -/
def endPlan (s : State) (k : Nat) (why : EndReason) : State :=
  let p := (s.getCtx k).plan
  if p.state = .ended then s
  else
    let s := closeFrost s k true
    let e := (s.getCtx k).part
    let ran := p.state != .idle
    let s := if (why = .level1 || why = .killed) && e.state = .committed && e.multi then sendLost s k else s
    let s := s.stopTurns k
    let s := if ran then s.jrnSay k 6 0 ((s.getCtx k).serve.next - 1) (List.replicate 16 0) else s
    let s := s.modPlan k fun p => { p with state := .ended, stopP := none, held := false }
    let s := s.modCtx k fun c => { c with serve := { c.serve with collects := [] } }
    let s := if e.state = .committed then s.modPart k (if why = .completed then PartEntry.complete else PartEntry.rejoin) else s
    let s := (((s.endRequests k).dropClaims k).dropRoutes k).deepTiles k
    if why = .completed then s
    else
      let s := (s.dropCloOp k .abandoned).dropSnap k
      if (s.getCtx k).state = .saving then s.modCtx k fun c => { c with state := .opened } else s

end Sys2Proof.Machine
end

