-- ==== Sys2Proof/Machine/Faults.lean ====
section
/-! DEFINITION. The fault collector (16_faults_and_determinism.md): cause codes and their levels (R400, R439), records and where they
are placed (R402), escalation (R403), counting (R404), and what each level does (R401, R406). -/

namespace Sys2Proof.Machine

/-- The cause codes (R400, R439). -/
inductive Cause where
  | misaligned | absentTarget | expertLocked | timeRootConflict | timeDeviation | timeSetRefused
  | frostTimeout | tileSramCe | tileSramUe | descRange | countClamped | badVariant
  | waitAbandoned | vaultCe | vaultRecalDue | vaultWear | vaultRange | vaultUe
  | memCe | memFrameRetired | memUeMgt | memDenied | memUe | memTrainFail
  | cxlPoison | cxlDown | eqInvalid | laneSpared | linkDataUe | linkWidth
  | linkDown | lateNeighbour | partitionAbort | preemptTimeout | tailorUnbound | serveConfig
  | resultOrder | replayDiverged | clkMuxHung | clkPllUnlock | avsFail | clkSourceDead
  | thermalTrip | meshMargin | refLoss | tileShortfall | swatchCorrupt | fltInternal
  | aliveWatchdog | mgtIpConflict | aperFault | fwBlockBad | fwVerifyFail | fwReverted
  | bootSlotFail | recoveryEntered
deriving DecidableEq, Repr

/-- The code of a cause: class in bits 15 to 8, number in bits 7 to 0 (R400, R439). -/
def Cause.code : Cause → Nat
  | .misaligned => 0x0101
  | .absentTarget => 0x0102
  | .expertLocked => 0x0103
  | .timeRootConflict => 0x0201
  | .timeDeviation => 0x0202
  | .timeSetRefused => 0x0203
  | .frostTimeout => 0x0204
  | .tileSramCe => 0x0301
  | .tileSramUe => 0x0302
  | .descRange => 0x0303
  | .countClamped => 0x0304
  | .badVariant => 0x0305
  | .waitAbandoned => 0x0306
  | .vaultCe => 0x0401
  | .vaultRecalDue => 0x0402
  | .vaultWear => 0x0403
  | .vaultRange => 0x0404
  | .vaultUe => 0x0405
  | .memCe => 0x0501
  | .memFrameRetired => 0x0502
  | .memUeMgt => 0x0503
  | .memDenied => 0x0504
  | .memUe => 0x0505
  | .memTrainFail => 0x0506
  | .cxlPoison => 0x0601
  | .cxlDown => 0x0602
  | .eqInvalid => 0x0701
  | .laneSpared => 0x0702
  | .linkDataUe => 0x0703
  | .linkWidth => 0x0704
  | .linkDown => 0x0705
  | .lateNeighbour => 0x0801
  | .partitionAbort => 0x0802
  | .preemptTimeout => 0x0803
  | .tailorUnbound => 0x0901
  | .serveConfig => 0x0902
  | .resultOrder => 0x0903
  | .replayDiverged => 0x0904
  | .clkMuxHung => 0x0A01
  | .clkPllUnlock => 0x0A02
  | .avsFail => 0x0A03
  | .clkSourceDead => 0x0A04
  | .thermalTrip => 0x0A05
  | .meshMargin => 0x0A06
  | .refLoss => 0x0A07
  | .tileShortfall => 0x0B01
  | .swatchCorrupt => 0x0B02
  | .fltInternal => 0x0B03
  | .aliveWatchdog => 0x0B04
  | .mgtIpConflict => 0x0C01
  | .aperFault => 0x0C02
  | .fwBlockBad => 0x0C03
  | .fwVerifyFail => 0x0C04
  | .fwReverted => 0x0C05
  | .bootSlotFail => 0x0C06
  | .recoveryEntered => 0x0C07

/-- The level a cause raises unless R402, R403 or R404 changes it. -/
def Cause.level : Cause → Nat
  | .frostTimeout | .tileSramUe | .descRange | .badVariant | .waitAbandoned | .vaultRange
  | .vaultUe | .memDenied | .memUe | .cxlPoison | .cxlDown | .linkDataUe
  | .linkWidth | .linkDown | .partitionAbort | .preemptTimeout | .serveConfig | .resultOrder
  | .clkSourceDead => 1
  | .memTrainFail | .thermalTrip | .meshMargin | .refLoss | .tileShortfall | .swatchCorrupt
  | .fltInternal => 2
  | _ => 0

/-- All causes. -/
def Cause.all : List Cause :=
  [.misaligned, .absentTarget, .expertLocked, .timeRootConflict, .timeDeviation, .timeSetRefused,
   .frostTimeout, .tileSramCe, .tileSramUe, .descRange, .countClamped, .badVariant,
   .waitAbandoned, .vaultCe, .vaultRecalDue, .vaultWear, .vaultRange, .vaultUe,
   .memCe, .memFrameRetired, .memUeMgt, .memDenied, .memUe, .memTrainFail,
   .cxlPoison, .cxlDown, .eqInvalid, .laneSpared, .linkDataUe, .linkWidth,
   .linkDown, .lateNeighbour, .partitionAbort, .preemptTimeout, .tailorUnbound, .serveConfig,
   .resultOrder, .replayDiverged, .clkMuxHung, .clkPllUnlock, .avsFail, .clkSourceDead,
   .thermalTrip, .meshMargin, .refLoss, .tileShortfall, .swatchCorrupt, .fltInternal,
   .aliveWatchdog, .mgtIpConflict, .aperFault, .fwBlockBad, .fwVerifyFail, .fwReverted,
   .bootSlotFail, .recoveryEntered]

/-- The cause that a code names; none where it is reserved (R400). -/
def Cause.ofCode (n : Nat) : Option Cause := Cause.all.find? fun c => c.code == n

/-- The class of a cause code. -/
def classOf (code : Nat) : Nat := code / 256

/-! ### The ring (R402) -/

/-- A written record that is not acknowledged. -/
def FltRecord.open_ (r : FltRecord) : Bool := r.written && !r.acked

/-- The record of a slot. -/
def State.fltRec (s : State) (i : Nat) : FltRecord := KMap.get {} s.flt.ring i

/-- A change of the collector. -/
def State.modFlt (s : State) (f : Faults → Faults) : State := { s with flt := f s.flt }

/-- The oldest of the slots whose record passes a test: slots never written come first, the lowest index first among them, then by
age. -/
def State.oldest (s : State) (p : FltRecord → Bool) : Option Nat :=
  (s.flt.ring.filter fun e => p e.2).foldl (fun best e => match best with
    | none => some e.1
    | some b => if e.2.seq < (s.fltRec b).seq then some e.1 else some b) none

/-- The slot that the next new record takes while some record is acknowledged: the lowest slot never written, else the oldest
acknowledged record (R402). -/
def State.oldestAcked (s : State) : Option Nat :=
  match (List.range 512).find? fun i => !(s.fltRec i).written with
  | some i => some i
  | none => s.oldest fun r => r.acked

/-- HEAD follows the oldest acknowledged record, and keeps its value while none is (R402). -/
def State.refreshHead (s : State) : State :=
  match s.oldestAcked with
  | some i => s.modFlt fun f => { f with head := i }
  | none => s

/-- A new record in a slot. -/
def State.putRecord (s : State) (i : Nat) (r : FltRecord) : State :=
  (s.modFlt fun f => { f with ring := KMap.set {} f.ring i { r with written := true, seq := f.nextSeq }, nextSeq := f.nextSeq + 1,
                              last := some i }).refreshHead

/-- An occurrence counted in an unacknowledged L0 record of the same source, cause and context, where there is one (R402). -/
def State.mergeRecord (s : State) (r : FltRecord) : Option State :=
  (s.flt.ring.find? fun e => e.2.open_ && e.2.level == 0 && e.2.source == r.source && e.2.cause == r.cause && e.2.ctx == r.ctx).map
    fun e => s.modFlt fun f => { f with ring := KMap.set {} f.ring e.1 { e.2 with count := satN 32 (e.2.count + 1) } }

/-- The level that placement gives a new record: an L1 with no acknowledged record and no L0 record left is recorded as L2 (R402). -/
def State.placedLevel (s : State) (r : FltRecord) : FltRecord :=
  if r.level = 1 ∧ s.oldestAcked = none ∧ s.oldest (fun x => x.open_ && x.level == 0) = none then { r with level := 2, escalated := true }
  else r

/-- A new record written into its slot (R402), its level as `placedLevel` gives it. -/
def State.place (s : State) (r : FltRecord) : State :=
  match s.oldestAcked with
  | some i => s.putRecord i r
  | none =>
    if r.level = 0 then s.addFld .fltLost [] 0 32 1
    else match s.oldest fun x => x.level == 0 with
      | some i => s.putRecord i r
      | none => match s.oldest fun x => x.level == 1 with
        | some i => s.putRecord i r
        | none => s.addFld .fltLost [] 32 32 1

/-! ### What a level does (R401) -/

/-- An L1 against a context: its plan ends and its partition hears CONTEXT_LOST unless an ABORT ended it; a saved context loses its
save area and its partition entry (R357). -/
def levelOne (s : State) (k : Nat) (why : EndReason) : State :=
  let s := endPlan s k why
  if (s.getCtx k).state = .saved then
    let e := (s.getCtx k).part
    let s := s.modCtx k fun c => { c with saveDead := true }
    if e.state = .suspended then quarPart (s.modPart k fun _ => {}) e.part else s
  else s

/-- An L2: every plan ends, members say CONTEXT_LOST, the fatal log takes the record, FATAL is set and ALIVE stops (R401, R406);
THERMTRIP_N goes low for THERMAL_TRIP (R446). -/
def levelTwo (s : State) (r : FltRecord) : State :=
  let s := s.each slots fun s k =>
    let c := s.getCtx k
    if c.state = .free ∨ c.state = .quarantine then s else endPlan s k .level1
  let s := s.modFlt fun f => { f with fatal := true, aliveRun := false, log := (r :: f.log).take 8 }
  if r.cause = Cause.thermalTrip.code then { s with pins := { s.pins with thermtrip := true } } else s

/-! ### Raising -/

/-- What a block reports to the collector. -/
structure Event where
  cause    : Cause
  source   : Nat
  ctx      : Option Nat := none
  detail   : Nat := 0
  injected : Bool := false
deriving DecidableEq, Repr

/-- The context that an event names, while the slot holds one. -/
def State.eventCtx (s : State) (e : Event) : Option CtxId :=
  match e.ctx with
  | some k => if s.live (s.idOf k) then some (s.idOf k) else none
  | none => none

/-- The record of an event at its level. -/
def State.record (s : State) (e : Event) (level : Nat) (counted group : Bool) : FltRecord :=
  { source := e.source, cause := e.cause.code, level := level, counted := counted, ctx := s.eventCtx e, injected := e.injected,
    group := group, mt := s.time.mt,
    pcy := match s.eventCtx e with
      | some i => (s.getCtx i.slot).plan.pcy
      | none => 0,
    count := 1, detail := e.detail % 2 ^ 32 }

/-- An unacknowledged L1 or L2 record of the class (R403). -/
def State.classOpen (s : State) (code : Nat) : Bool :=
  s.flt.ring.any fun e => e.2.open_ && decide (1 ≤ e.2.level) && classOf e.2.cause == classOf code

/-- An L0 occurrence that names a context, counted over its window where the class counts (R404): whether it reaches THRESH. -/
def State.countL0 (s : State) (code : Nat) (ctx : Option CtxId) : Bool × State :=
  match ctx with
  | none => (false, s)
  | some i =>
    let c := [classOf code - 1]
    if s.bit .fltCountCfg c 0 then
      let window := 1250000 * max 1 (s.fld .fltCountCfg c 17 16)
      let thresh := max 1 (s.fld .fltCountCfg c 1 16)
      let key := code * 65536 + i.toNat
      let seen := ((KMap.get [] s.flt.counts key).filter fun t => decide ((s.time.mt - t).toNat < window)) ++ [s.time.mt]
      let full := decide (thresh ≤ seen.length)
      (full, s.modFlt fun f => { f with counts := KMap.set [] f.counts key (if full then [] else seen) })
    else (false, s)

/-- The level of an event before placement, with COUNTED: an L1 that names no context is an L0 (R401), a counted L0 may become an L1
(R404). -/
def State.eventLevel (s : State) (e : Event) : Nat × Bool × State :=
  let ctx := s.eventCtx e
  let base := if e.cause.level = 1 ∧ ctx = none then 0 else e.cause.level
  if base = 0 ∧ e.cause.level = 0 then
    let (full, s) := s.countL0 e.cause.code ctx
    (if full then 1 else 0, full, s)
  else (base, false, s)

/-- An event recorded with every consequence: `esc` says whether an L1 meets an unacknowledged record of its class, `why` how
an L1 ends the plan. -/
def raiseWith (s : State) (e : Event) (esc group : Bool) (why : EndReason) : State :=
  let (level, counted, s) := s.eventLevel e
  let r := s.record e level counted group
  let r := if level = 1 ∧ esc then { r with level := 2, escalated := true } else r
  if r.level = 0 then
    match s.mergeRecord r with
    | some s => s
    | none => s.place r
  else
    let r := s.placedLevel r
    let s := s.place r
    if r.level = 2 then levelTwo s r
    else match r.ctx with
      | some i => levelOne s i.slot why
      | none => s

/-- An event raised (R401 to R404). -/
def raise (s : State) (e : Event) (why : EndReason := .level1) : State :=
  raiseWith s e (s.classOpen e.cause.code) false why

/-- One detection raised against several contexts: the records do not escalate one another and carry GROUP (R403). -/
def raiseGroup (s : State) (cause : Cause) (source detail : Nat) (ks : List Nat) : State :=
  let esc := s.classOpen cause.code
  s.each ks fun s k => raiseWith s { cause := cause, source := source, ctx := some k, detail := detail } esc (decide (1 < ks.length)) .level1

/-- A notice: an event that names no context. -/
def notice (s : State) (c : Cause) (src : Nat) (detail : Nat := 0) : State := raise s { cause := c, source := src, detail := detail }

/-- An event against a context. -/
def against (s : State) (c : Cause) (src k : Nat) (detail : Nat := 0) : State :=
  raise s { cause := c, source := src, ctx := some k, detail := detail }

/-- An access or command that reaches a block: dropped with L0 ABSENT_TARGET where the block is absent (R41). -/
def onBlock (s : State) (src : Nat) (act : State → State) : State := if s.absent src then notice s .absentTarget src else act s

end Sys2Proof.Machine
end

