-- ==== Sys2Proof/Machine/Regions.lean ====
section
/-! DEFINITION. Regions of the tile array (R377) and what starts their clocks (R389, R390, R392). -/

namespace Sys2Proof.Machine

/-- The region of a tile: six rows by six columns. -/
def regionOf (t : Nat) : Nat := 4 * (t / 24 / 6) + t % 24 / 6

/-- The tiles of a region. -/
def regionTiles (r : Nat) : List Nat := (List.range 576).filter fun t => regionOf t == r

def State.getRegionClk (s : State) (r : Nat) : Region := KMap.get {} s.clk.regions r
def State.modClk (s : State) (f : Clocks → Clocks) : State := { s with clk := f s.clk }
def State.modRegionClk (s : State) (r : Nat) (f : Region → Region) : State :=
  s.modClk fun c => { c with regions := KMap.upd {} c.regions r f }

/-- The step at which a standby synthesizer stays, below a region's step (R379). -/
def standbyFor (step : Nat) : Nat := if 6 ≤ step then 7 else step + 1

/-- A region's PLL starts where it is off (R389): both synthesizers lock, and the region runs at CAP. -/
def State.pllStart (s : State) (r : Nat) : State :=
  if (s.getRegionClk r).pllOn then s
  else
    let cap := s.fld .clkCap [] 0 3
    s.modRegionClk r fun x => { x with pllOn := true, src := .main, current := .main, step := cap, standby := standbyFor cap, locked := true,
                                       climbing := false, mux := .stable, want := none, after := none, goodFrom := none }

/-- The chip leaves FABRIC_OFF for OPERATIONAL (R392). -/
def State.operational (s : State) : State := if s.clk.pstate = 1 then s.modClk fun c => { c with pstate := 2 } else s

end Sys2Proof.Machine
end

