-- ==== Sys2Proof/Machine/Tickets.lean ====
section
/-! DEFINITION. The resources that the Cloakroom hands out and takes back, one kind after another (R273 to R277), and the fixed rules by
which it chooses (R275). -/

namespace Sys2Proof.Machine

/-! ### Tiles -/

/-- The physical tiles. -/
def tilesAll : List Nat := List.range 576

/-- A tile that may be granted: tested and good, free, and no BIST waits for it (R275, R286); one that is not cleared yet counts (R277). -/
def State.tileFree (s : State) (t : Nat) : Bool :=
  let x := s.getTile t
  s.tested && x.state == .free && !x.bistQueued

/-- The `n` lowest free tiles, where there are as many. -/
def State.pickTiles (s : State) (n : Nat) : Option (List Nat) :=
  let l := (tilesAll.filter s.tileFree).take n
  if l.length = n then some l else none

/-- Tiles granted by tickets on the chip. -/
def State.tilesGranted (s : State) : Nat := countP (fun e => e.2.state == .granted || (e.2.state == .bad && e.2.ctx.isSome)) s.tile

/-- The groups and regions of a context that is gone go back once none of its requests runs on the stack (R204). -/
def State.reclaimVault (s : State) (v : Nat) (i : CtxId) : State :=
  if s.idOf i.slot = i ∨ (s.getVault v).ending.any (fun e => e.owner == i) then s
  else s.modVault v fun x => { x with
    groups := KMap.mapV none x.groups fun o => if o = some i then none else o,
    regions := KMap.mapV {} x.regions fun r => if r.state = .bound ∧ r.ctx = some i then { r with state := .installed, ctx := none } else r }

/-- Vault requests that outlived their plans end (R204). -/
def State.endRunning (s : State) (p : EndReq → Bool) : State :=
  s.each (List.range 4) fun s v =>
    let gone := (s.getVault v).ending.filter p
    (s.modVault v fun x => { x with ending := x.ending.filter fun e => !p e }).each gone fun s e => s.reclaimVault v e.owner

/-- A tile taken from a context: it waits to be cleared (R277); a BAD tile stays BAD. -/
def State.takeTile (s : State) (t : Nat) : State :=
  s.modTile t fun x =>
    { x with state := if x.state = .bad then .bad else .free, ctx := none, unclear := true, power := .off, bank := .unbound,
             waking := false, wakeAt := none }

/-- The watches on a tile's objects end, for a tile that leaves its context (R151). -/
def State.dropTile (s : State) (t : Nat) : State :=
  (s.each (s.syncWatches t) fun s w => s.endSyncWatch t w .abandoned false).takeTile t

/-- What R277 leaves of a released tile: everything 0 or UNBOUND, the registers of R97, R131 and R154 at reset. The state of the
tile and its count of uncorrectable reports stay; a vault request that it still had has ended. -/
def State.clearTile (s : State) (t : Nat) : State :=
  let s := s.endRunning fun e => e.tile == t
  let x := s.getTile t
  let kept : Tile := { state := x.state, ctx := x.ctx, bistQueued := x.bistQueued, bistFrom := x.bistFrom, ueReports := x.ueReports }
  let s := s.setTile t kept
  let s := s.each [.tilArithSat, .tilSramCe, .tilSramUe, .tilBankWait, .tilCountClamp, .tilSyncDrop, .tilDescSel] fun s r => s.clrRg r [t]
  let s := s.each (List.range 6) fun s q => s.clrRg .tilQstat [t, q]
  s.each (List.range 3) fun s w => (s.clrRg .tilSyncWatch [t, w]).clrRg .tilSyncWatchDl [t, w]

/-- The flits on their way to a tile are written before it is cleared, so nothing of them is left (R311): those of the mesh, and those that a link
has released to it. -/
def State.dropFlits (s : State) (t : Nat) : State :=
  ({ s with net := { s.net with flits := s.net.flits.filter fun f => f.dst != t } } : State).each links fun s l =>
    s.modLink l fun x => { x with tree := x.tree.filter fun e => e.dst != t }

/-- A tile given to a context: cleared first where its release has not been (R277), powered to DEEP, its objects ACTIVE (R132, R390); its region's PLL
runs, and the chip is OPERATIONAL (R392). -/
def State.giveTile (s : State) (k t : Nat) : State :=
  let s := if (s.getTile t).unclear then (s.dropFlits t).clearTile t else s
  (s.pllStart (regionOf t)).operational.modTile t fun x => { x with state := .granted, ctx := some (s.idOf k), power := .deep, bank := .active }

/-! ### HBM frames -/

/-- Frames of a stack may be granted: the stack is READY and no intrusive action waits (R249). -/
def State.hbmOpen (s : State) (m : Nat) : Bool := (s.getHbm m).phase == .ready && (s.getHbm m).queued.isNone

/-- The lowest clean free frame of a stack. -/
def State.cleanFrame (s : State) (m : Nat) : Option Nat :=
  if s.hbmOpen m then
    ((s.getHbm m).frames.find? fun e => decide (e.1 < grantFrames) && e.2.clean && !e.2.held && !e.2.retired).map Prod.fst
  else none

/-- The lowest dirty free frame of a stack. -/
def State.dirtyFrame (s : State) (m : Nat) : Option Nat :=
  if s.hbmOpen m then
    (List.range grantFrames).find? fun f =>
      let i := KMap.get {} (s.getHbm m).frames f
      !i.clean && !i.held && !i.retired
  else none

/-- The stacks in round-robin order from the pointer (R275). -/
def State.stackOrder (s : State) : List Nat := (List.range 8).map fun i => (s.hbmPtr + i) % 8

/-- The next HBM frame by the rule of R275: clean frames first, by stacks in turn. -/
def State.nextFrame (s : State) : Option (Nat × Nat × Bool) :=
  match s.stackOrder.findSome? fun m => (s.cleanFrame m).map fun f => (m, f, true) with
  | some x => some x
  | none => s.stackOrder.findSome? fun m => (s.dirtyFrame m).map fun f => (m, f, false)

/-- A frame of a stack held, and the turn passed to the next stack. -/
def State.holdFrame (s : State) (m f : Nat) : State :=
  let s := s.modHbm m fun h => { h with frames := KMap.upd {} h.frames f fun i => { i with held := true } }
  { s with hbmPtr := (m + 1) % 8 }

/-- `n` HBM frames taken, in order, each with whether it was dirty; none where they cannot all be had. -/
def State.takeFrames (s : State) : Nat → Option (List (FrameId × Bool) × State)
  | 0 => some ([], s)
  | n + 1 => match s.nextFrame with
    | none => none
    | some (m, f, clean) =>
      match State.takeFrames (s.holdFrame m f) n with
      | none => none
      | some (l, s2) => some (({ unit := m, frame := f }, !clean) :: l, s2)

/-- An HBM frame is retired: never granted until chip reset (R247). -/
def State.retireFrame (s : State) (m f : Nat) : State :=
  if (KMap.get {} (s.getHbm m).frames f).retired then s
  else
    let s := s.modHbm m fun h => { h with frames := KMap.upd {} h.frames f fun i => { i with retired := true } }
    notice (s.addFld .memRetired [m] 0 15 1) .memFrameRetired (srcMem m)

/-- A frame that an exchange in flight still uses keeps its hold until the exchange completes (R261). -/
def State.inExchange (s : State) (f : FrameId) : Bool :=
  s.mor.exchanges.any fun x => x.hFrame == f || x.xFrame == f || (f.cxl && f.unit == x.port && f.frame == x.bounce)

/-- A frame goes back to the Cloakroom: dirty, and retired where it has held an uncorrectable word or too many corrections
(R247, R276). -/
def State.freeFrame (s : State) (f : FrameId) : State :=
  if s.inExchange f then s
  else if f.cxl then s.modCxl f.unit fun x => { x with held := x.held.filter (· != f.frame), clean := x.clean.filter (· != f.frame) }
  else
    let i := KMap.get {} (s.getHbm f.unit).frames f.frame
    let s := s.modHbm f.unit fun h => { h with frames := KMap.upd {} h.frames f.frame fun i => { i with held := false, clean := false } }
    if i.ue ∨ s.fld .memCeLimit [f.unit] 0 16 < i.ce then s.retireFrame f.unit f.frame else s

/-- A stack holds no frame of any ticket (R249). -/
def State.hbmIdle (s : State) (m : Nat) : Bool := (s.getHbm m).frames.all fun e => !e.2.held

/-! ### CXL frames -/

/-- The free frames of a port: none of them is a bounce frame, waiting or in use by an exchange (R251, R260). -/
def State.cxlFree (s : State) (p : Nat) : List Nat :=
  let x := s.getCxl p
  if x.device then (List.range (x.total + 64)).filter fun f =>
    !x.bounce.contains f && !x.held.contains f && !s.inExchange { cxl := true, unit := p, frame := f } else []

/-- `n` frames taken alternately from two ports' free lists, the first list first (R275). -/
def alternate : Nat → List FrameId → List FrameId → Option (List FrameId)
  | 0, _, _ => some []
  | n + 1, f :: a, b => (alternate n b a).map (f :: ·)
  | n + 1, [], f :: b => (alternate n [] b).map (f :: ·)
  | _ + 1, [], [] => none

/-- The ports that a mask allows; 0 means both (R273). -/
def portMask (m : Nat) : List Nat := if m % 4 = 0 then [0, 1] else (List.range 2).filter fun p => m / 2 ^ p % 2 == 1

/-- `n` CXL frames by the rule of R275. -/
def State.pickCxl (s : State) (mask n : Nat) : Option (List FrameId) :=
  let free (p : Nat) : List FrameId := if (portMask mask).contains p then (s.cxlFree p).map fun f => { cxl := true, unit := p, frame := f } else []
  if (free 0).isEmpty then alternate n (free 1) [] else alternate n (free 0) (free 1)

def State.holdCxl (s : State) (f : FrameId) : State := s.modCxl f.unit fun x => { x with held := x.held ++ [f.frame] }

/-- No ticket holds a frame of the port. -/
def State.cxlIdle (s : State) (p : Nat) : Bool := (s.getCxl p).held.isEmpty

/-! ### Vault groups and regions -/

/-- Groups that a context holds on a stack (G_s of R179). -/
def State.groupsOf (s : State) (k v : Nat) : List Nat :=
  (List.range 8).filter fun g => match KMap.get none (s.getVault v).groups g with
    | some i => i == s.idOf k
    | none => false

/-- The free groups of a stack. -/
def State.groupsFree (s : State) (v : Nat) : List Nat :=
  (List.range 8).filter fun g => (KMap.get none (s.getVault v).groups g).isNone

/-- Regions of a stack bound to a context. -/
def State.regionsOf (s : State) (k v : Nat) : List Nat :=
  ((s.getVault v).regions.filter fun e => e.2.state == .bound && e.2.ctx == some (s.idOf k)).map Prod.fst

/-- No context holds a ticket on a vault stack (R188, R201). -/
def State.vaultIdle (s : State) (v : Nat) : Bool :=
  ((s.getVault v).groups.all fun e => e.2.isNone) && ((s.getVault v).regions.all fun e => e.2.state != .bound)

/-- The stack takes no ticket request: install mode, recalibration, or one that waits (R189, R201). -/
def State.vaultClosed (s : State) (v : Nat) : Bool := (s.getVault v).mode != .service || (s.getVault v).recalQ

def State.giveGroups (s : State) (k v : Nat) (gs : List Nat) : State :=
  s.each gs fun s g => s.modVault v fun x => { x with groups := KMap.set none x.groups g (some (s.idOf k)) }

def State.dropGroups (s : State) (v : Nat) (gs : List Nat) : State :=
  s.each gs fun s g => s.modVault v fun x => { x with groups := KMap.set none x.groups g none }

def State.bindRegion (s : State) (k v r : Nat) : State :=
  s.modRegion v r fun x => { x with state := .bound, ctx := some (s.idOf k) }

def State.unbindRegion (s : State) (v r : Nat) : State :=
  s.modRegion v r fun x => { x with state := .installed, ctx := none }

/-! ### Links -/

/-- A LINK ticket of the link may be granted: no holder, no full training or disable that waits or runs, and not DEGRADED without HALF
accepted (R339, R343). -/
def State.linkFree (s : State) (l : Nat) : Bool :=
  let k := s.getLink l
  (s.linkHolder l).isNone && !k.queuedTrain && (k.state != .degraded || k.halfOk)

def State.giveLink (s : State) (k l : Nat) : State :=
  s.modCtx k fun c => { c with links := if c.links.contains l then c.links else insertBy (fun a b => decide (a ≤ b)) l c.links }

def State.dropLinks (s : State) (k : Nat) (ls : List Nat) : State :=
  s.modCtx k fun c => { c with links := c.links.filter fun l => !ls.contains l }

end Sys2Proof.Machine
end

