-- ==== Sys2Proof/Machine/Trees.lean ====
section
/-! DEFINITION. Partition trees (R358), the answers that are reduced along them (R364, R366), and the launch and pre-emption
messages (R280, R363 to R370) as they act on a member chip. -/

namespace Sys2Proof.Machine

/-! ### The tree rooted at a member (R358) -/

/-- The link by which a member's parent is reached in the tree rooted at `a`: along z where the relative coordinates differ there,
else y, else x; without wraparound on an axis shorter than the machine, else the shorter way, a tie the negative way. -/
def State.parentLink (s : State) (origin extent a c : Nat) : Option Nat :=
  match [2, 1, 0].find? fun i => s.relAxis c origin i != s.relAxis a origin i with
  | none => none
  | some i =>
    let n := s.size i
    let rc := s.relAxis c origin i
    let ra := s.relAxis a origin i
    let up := if axis extent i + 1 < n then decide (rc < ra) else decide ((ra + n - rc) % n < (rc + n - ra) % n)
    some (if up then 2 * i else 2 * i + 1)

/-- The links to a member's children in the tree rooted at `a`. -/
def State.childLinks (s : State) (k a : Nat) : List Nat :=
  let e := (s.getCtx k).part
  links.filter fun l => s.internal l e.origin e.extent && s.parentLink e.origin e.extent a (s.farOf l) == some (facing l)

/-- A link is joined for a context's entry (R354): it is bound here, UP, or DEGRADED with HALF accepted, and the far end's control flits carry the
same PART and GEN. A retrain has no effect on it (R374). -/
def State.isJoined (s : State) (k l : Nat) : Bool :=
  let x := s.getLink l
  let e := (s.getCtx k).part
  s.bound k l && (x.state == .up || x.state == .retrain) && x.farPart == e.part && x.farGen == e.gen

/-- The hop diameter of an extent (R351). -/
def State.diameter (s : State) (extent : Nat) : Nat :=
  sumN ((List.range 3).map fun i => if axis extent i + 1 = s.size i then s.size i / 2 else axis extent i)

/-- D_hop of a class code (R57). -/
def dHop (cls : Nat) : Nat := 2048 * 2 ^ cls

/-! ### Launch status -/

/-- NET_LAUNCH_STATUS at the coordinator: phase, cause, reason and the chip that failed. -/
def State.launchStatus (s : State) (phase cause reason : Nat) (fail : Option Nat) : State :=
  (((s.setFld .netLaunchStatus [] 0 3 phase).setFld .netLaunchStatus [] 8 8 cause).setFld .netLaunchStatus [] 16 8 reason).setFld
    .netLaunchStatus [] 24 16 (match fail with
      | some c => c % 32768
      | none => 32768)

/-- The fields that every LAUNCH body of an entry carries. -/
def entryBody (s : State) (k opc : Nat) : LaunchBody :=
  let e := (s.getCtx k).part
  { opc := opc, part := e.part, gen := e.gen }

/-! ### A chip's own answer (R365) -/

/-- The round trip of a link in fabric cycles at step 0 (R344). -/
def rttPs (x : Link) : Nat := if x.rtts.isEmpty then 0 else
  let n := x.rtts.length
  let q := sumN x.rtts / n
  let r := sumN x.rtts % n
  if 2 * r < n then q else if n < 2 * r then q + 1 else q + q % 2

def rttFc (x : Link) : Nat := ceilDiv (rttPs x * 33) 10000

/-- A load of the slot's context is in progress. -/
def State.loading (s : State) (k : Nat) : Bool := match s.loader with
  | some l => l.ctx.slot == k
  | none => false

/-- A partition number is in quarantine on this chip (R270). -/
def State.partQuarantined (s : State) (part : Nat) : Bool :=
  (List.range 64).any fun i => s.bit .netPartQuar [i] 16 && s.fld .netPartQuar [i] 0 16 == part

/-- A link that plans cannot use: DOWN, or DEGRADED without HALF accepted (R364, R365). -/
def Link.unusable (x : Link) : Bool := x.state == .down || x.state == .degraded

/-- The answer to PREPARE (R365; BUSY while a microcode activation is queued, R440): STATUS and REASON; the REASON of a mapping that names a BAD
tile is free (R278 gives none). -/
def ownAnswer (s : State) (k : Nat) (m : LaunchBody) : (Nat × Nat) × State :=
  let c := s.getCtx k
  let e := c.part
  let used := match c.image with
    | some im => links.filter fun l => im.links / 2 ^ l % 2 == 1
    | none => []
  let up := used.filter fun l => (s.getLink l).state == .up
  let ok (x : Nat × Nat) : (Nat × Nat) × State := (x, s)
  if s.time.sync = .unsynced ∨ s.loading k ∨ e.state = .suspended ∨ e.state = .releasing ∨ s.partQuarantined m.part
      ∨ up.any (fun l => !s.isJoined k l) ∨ s.sec.queued.any (fun q => q.comps / 2 % 2 == 1) then ok (1, 0)
  else match c.image with
  | none => ok (6, 1)
  | some im =>
    if im.id != m.imageId then ok (6, 1)
    else if m.origin ≠ e.origin ∨ m.extent ≠ e.extent ∨ m.gen ≠ e.gen ∨ im.chips ≠ members e.extent
        ∨ used.any (fun l => !s.internal l e.origin e.extent) then ok (6, 2)
    else if used.any (fun l => decide (dHop im.dhop / 2 < rttFc (s.getLink l))) then ok (6, 3)
    else if (if m.resume then !(c.plan.held && c.preemptP == m.tlOrP) else c.plan.state != .idle || c.plan.held) then ok (6, 4)
    else if used.any (fun l => (s.getLink l).unusable) then ok (6, 5)
    else if c.tiles.any (fun t => (s.getTile t).state == .bad) then
      let (w, s) := s.draw
      ((6, 1 + w.toNat % 5), s)
    else ok (0, 0)

/-! ### Reductions -/

/-- REJECTED before BUSY before READY (R364). -/
def answerRank (st : Nat) : Nat := if st = 6 then 0 else if st = 1 then 1 else 2

/-- The worst of the answers; among equal ranks the one with the lowest coordinate (R364, R9). -/
def worst (as : List LaunchAnswer) : LaunchAnswer :=
  as.foldl (fun b a =>
    if answerRank a.status < answerRank b.status ∨ (answerRank a.status = answerRank b.status ∧ coordKey a.tie < coordKey b.tie)
    then a else b) (as.headD { child := 0, status := 0 })

/-- The answers of the children that no message reaches (R359, R364), and the children that are sent one. -/
def State.splitChildren (s : State) (k a : Nat) : List LaunchAnswer × List Nat :=
  (s.childLinks k a).foldl (fun (as, sent) l =>
    let c := s.farOf l
    if (s.getLink l).unusable then (as ++ [{ child := c, status := 6, reason := 5, fail := some c, tie := c }], sent)
    else if s.isJoined k l then (as, sent ++ [l])
    else (as ++ [{ child := c, status := 1, fail := some c, tie := c }], sent)) ([], [])

/-- A body sent to the children whose links are joined. -/
def sendDown (s : State) (k a : Nat) (b : LaunchBody) : State :=
  s.each ((s.childLinks k a).filter (s.isJoined k)) fun s l => sendMachineOn s l 4 2 b.bytes

/-- A body sent to the parent in the tree rooted at `a`. -/
def sendUp (s : State) (k a : Nat) (b : LaunchBody) : State :=
  let e := (s.getCtx k).part
  match s.parentLink e.origin e.extent a s.self with
  | some l => sendMachineOn s l 4 2 b.bytes
  | none => s

/-! ### Pre-emption (R280, R281) -/

/-- A context enters SAVING (R281): the drain starts, and its routes are invalid (R309). -/
def enterSaving (s : State) (k : Nat) : State :=
  ((s.dropRoutes k).modCtx k fun c => { c with state := .saving, drainFrom := s.mtN, drained := false }).modPart k fun e => { e with preUntil := none, preempt := none, go := false }

/-- The context holds in STOPPED at the P agreed on. -/
def State.atP (s : State) (k : Nat) : Bool :=
  let p := (s.getCtx k).plan
  match p.stopP with
  | some q => p.state == .stopped && decide (q < p.pcy.toNat)
  | none => false

/-- PREEMPT_GO on a member: it saves when it stands at P; a plan that has ended saves at once (R280). -/
def actGo (s : State) (k : Nat) : State :=
  if s.atP k ∨ (s.getCtx k).plan.state = .ended then enterSaving s k
  else s.modPart k fun e => { e with go := true, preUntil := none }

/-- PREEMPT_CANCEL on a member: its stop is cleared and it runs on. -/
def actCancel (s : State) (k : Nat) : State :=
  let run := s.atP k
  (s.modPlan k fun p => { p with stopP := none, state := if run then .running else p.state }).modPart k fun e =>
    { e with preUntil := none, preempt := none, go := false }

/-- The reduction of a pre-emption, once every answer is in: up the tree, or GO or CANCEL at the coordinator (R280). -/
def finishPreempt (s : State) (k : Nat) : State :=
  match (s.getCtx k).part.preempt with
  | none => s
  | some r =>
    if r.waiting ≠ [] ∨ r.sent then s
    else
      let late := r.answers.any fun a => a.status != 0
      let s := s.modPart k fun e => { e with preempt := some { r with sent := true } }
      if r.coord = s.self then
        if late then
          let s := actCancel (sendDown s k s.self (entryBody s k 9)) k
          s.dropCloOp k .timeout
        else actGo (sendDown s k s.self (entryBody s k 8)) k
      else
        let w := worst r.answers
        sendUp s k r.coord { entryBody s k 7 with status := if late then 1 else 0, fail := w.fail }

/-- PREEMPT_PREPARE on a member (R280): its stop stands at P, it answers ACK where its PCY is below P, and passes the message on. -/
def actPreemptPrepare (s : State) (k coord : Nat) (p deadline : Word) : State :=
  let late := decide (p.toNat ≤ (s.getCtx k).plan.pcy.toNat)
  let own : LaunchAnswer := { child := s.self, status := b2n late, fail := if late then some s.self else none, tie := s.self }
  let (subs, sent) := s.splitChildren k coord
  let s := s.each sent fun s l => sendMachineOn s l 4 2
    ({ entryBody s k 6 with coord := coord, deadline := deadline, tlOrP := p } : LaunchBody).bytes
  let s := if late then s else s.modPlan k fun x => { x with stopP := some p.toNat }
  let s := s.modCtx k fun c => { c with preemptP := p }
  let s := s.modPart k fun e =>
    { e with preUntil := some deadline,
             preempt := some { coord := coord, deadline := deadline, tlOrP := p, waiting := sent.map s.farOf, answers := own :: subs } }
  finishPreempt s k

/-! ### Abort and loss (R152, R369 to R371) -/

/-- An ABORT at a member (R370). -/
def actAbort (s : State) (k cause reason : Nat) (fail : Option Nat) : State :=
  let e := (s.getCtx k).part
  let s := if e.coordinator ∧ (e.state = .prepared ∨ e.state = .committed ∨ e.launch.isSome)
    then s.launchStatus 3 cause reason fail else s
  match e.state with
  | .prepared => s.modPart k PartEntry.rejoin
  | .committed =>
    let s := s.abandon k
    let s := raise s { cause := .partitionAbort, source := srcNet, ctx := some k } .aborted
    s.modPart k PartEntry.rejoin
  | .joined => if e.coordinator then s.modPart k PartEntry.rejoin else s
  | _ => s

/-- The chip floods ABORT and acts on it itself (R366, R368, R369). -/
def floodAbort (s : State) (k cause reason : Nat) (fail : Option Nat) : State :=
  let s := sendFlood s k 4 2 ({ entryBody s k 4 with cause := cause, fail := fail } : LaunchBody).bytes
  actAbort s k cause reason fail

/-- A CONTEXT_LOST at a running member (R152): its objects are abandoned; a held WAIT, a Frost or a stop ends it at once, a running
context at its next WAIT. -/
def actLost (s : State) (k : Nat) : State :=
  let c := s.getCtx k
  if c.part.state = .committed ∧ c.plan.state ≠ .ended then
    let s := if c.part.coordinator then s.launchStatus 3 5 0 none else s
    let s := s.abandon k
    let waits := c.tiles.any fun t => (s.getTile t).heldWait.isSome
    if c.plan.state = .frosted ∨ c.plan.state = .stopped ∨ waits then against s .waitAbandoned srcTim k
    else s.modCtx k fun c => { c with lostMark := true }
  else s

/-! ### Launch (R362 to R368) -/

/-- A context's other route bank becomes current, and the old one is locked for 1,250,000 ticks (R308). -/
def switchEpoch (s : State) (k : Nat) : State :=
  { s with net := { s.net with epoch := KMap.set 0 s.net.epoch k (1 - s.epochOf k),
                               unlockAt := KMap.set 0 s.net.unlockAt k (s.mtN + 1250000) } }

/-- Divergence of a replay (R410): DIVERGED, WHY and DIV_STEP, L0 REPLAY_DIVERGED, and with STOP_ON_DIVERGE a stop after the next
cycle. -/
def diverge (s : State) (k why step : Nat) : State :=
  let s := ((s.setBit .fltJrnStatus [k] 0 true).setFld .fltJrnStatus [k] 2 2 why).setRg .fltJrnDivstep [k] (Word.ofNat step)
  let s := against s .replayDiverged srcFlt k
  if s.bit .fltJrnCtl [k] 2 then
    s.setRg .timCtxStop [k] (withField (withField 0 0 63 ((s.getCtx k).plan.pcy.toNat + 1)) 63 1 1)
  else s

/-- The START record at COMMIT (R409), or its check in a replay (R410). -/
def jrnStart (s : State) (k : Nat) (resume : Bool) : State :=
  match (s.getCtx k).image with
  | none => s
  | some im =>
    if s.jrnMode k = 2 then
      let s := if resume then s else s.setFld .fltJrnStatus [k] 2 2 0
      match (s.jrnSkipPad k).jrnPeek k with
      | .record 1 _ _ body len =>
        let s := (s.jrnSkipPad k).jrnAdvance k len
        if body.take 48 != im.id then diverge s k 1 0 else s
      | .wait => s
      | _ => diverge s k 2 0
    else s.jrnSay k 1 0 0 (im.id ++ leBytes 2 im.chip ++ leBytes 6 (b2n resume) ++ leBytes 8 (if resume then (s.getCtx k).preemptP.toNat else 0))

/-- The links of a context hold nothing of an earlier plan when a plan starts. -/
def resetLinks (s : State) (k : Nat) : State :=
  s.each (s.getCtx k).links fun s l => s.modLink l fun x => { x with
    buf := [], tree := [], rxFrames := [], rxWait := [], txPlan := [], txDue := [],
    sent := x.sent.map fun f => { f with flits := f.flits.map fun w => { w with tile := 576 } } }

/-- The plan tiles of a context begin to wake to RUN (R390). -/
def wakeTiles (s : State) (k : Nat) : State :=
  s.each (s.getCtx k).tiles fun s t => s.modTile t fun x => if x.power = .run then x else { x with waking := true }

/-- COMMIT at a PREPARED chip (R367): the other route bank, COMMITTED, and the plan ARMED for T_L. A plan that an L1 has ended since
PREPARE stays ENDED, and its entry goes back to JOINED. -/
def actCommit (s : State) (k : Nat) (tl : Word) : State :=
  let c := s.getCtx k
  if c.part.state ≠ .prepared then s
  else if c.plan.state = .ended ∧ !c.plan.held then s.modPart k PartEntry.rejoin
  else
    let resume := c.plan.held
    let s := switchEpoch s k
    let s := s.modPart k fun e => { e with state := .committed, tl := tl, launch := none }
    let s := s.modPlan k fun p => { p with state := .armed, tl := tl, held := false, stamps := [], released := if resume then p.released else 0 }
    let s := if resume then s else (resetLinks s k |>.clrRg .timCtxFrostTotal [k]).clrRg .timCtxFrostCount [k]
    wakeTiles (jrnStart s k resume) k

/-- The coordinator ends a launch, or prepares a retry (R366). -/
def decideLaunch (s : State) (k : Nat) (r : Reduce) : State :=
  let w := worst r.answers
  let t := s.time.mt + Word.ofNat (s.fld .netLaunchLead [] 0 32)
  let inTime := decide (t.toNat ≤ r.deadline.toNat)
  if w.status = 6 then floodAbort s k 2 w.reason w.fail
  else if !inTime then floodAbort s k 1 w.reason w.fail
  else if w.status = 1 then
    s.modPart k fun e => { e with launch := some { r with sent := true, retryAt := some (s.time.mt + 62500) } }
  else
    let s := sendDown s k s.self { entryBody s k 3 with attempt := r.attempt, resume := r.resume, tlOrP := t }
    actCommit (s.launchStatus 2 0 0 none) k t

/-- The worst answer sent up the tree of a launch (R364). -/
def sendReduced (s : State) (k : Nat) (r : Reduce) : State :=
  let w := worst r.answers
  sendUp s k r.coord { entryBody s k 2 with gen := r.gen, attempt := r.attempt, status := w.status, reason := w.reason, fail := w.fail }

/-- The reduction of a launch, once every answer is in (R364, R366). -/
def finishLaunch (s : State) (k : Nat) : State :=
  match (s.getCtx k).part.launch with
  | none => s
  | some r =>
    if r.waiting ≠ [] ∨ r.sent then s
    else if r.coord = s.self then decideLaunch s k r
    else sendReduced (s.modPart k fun e => { e with launch := some { r with sent := true } }) k r

/-- The reductions of launches that the chip keeps no state of, each once every answer is in (R364, R374). -/
def finishRelays (s : State) (k : Nat) : State :=
  let done := (s.getCtx k).part.relays.filter fun r => r.waiting.isEmpty
  s.each done fun s r => sendReduced (s.modPart k fun e => { e with relays := e.relays.filter fun x => x.coord != r.coord }) k r

/-- A PREPARE of another coordinator than the one that the chip is PREPARED for, or at a chip that coordinates a launch of its own (R374). -/
def PartEntry.conflicts (e : PartEntry) (self coord : Nat) : Bool :=
  match e.launch with
  | some r => r.coord != coord && (e.state == .prepared || r.coord == self)
  | none => false

/-- PREPARE at a member, or at the coordinator itself (R364, R365). It goes on to the children whatever the chip's own answer is. A chip that is not
READY keeps no state of the launch, but for the answers that it reduces and, at the coordinator, the launch itself (R364, R366). -/
def actPrepare (s : State) (k : Nat) (m : LaunchBody) (tries : Nat := 0) : State :=
  let conflict := (s.getCtx k).part.conflicts s.self m.coord
  let ((st, reason), s) := if conflict then ((6, 2), s) else ownAnswer s k m
  let own : LaunchAnswer := { child := s.self, status := st, reason := reason, fail := if st = 0 then none else some s.self, tie := s.self }
  let (subs, sent) := s.splitChildren k m.coord
  let s := s.each sent fun s l => sendMachineOn s l 4 2 m.bytes
  let r : Reduce := { coord := m.coord, gen := m.gen, attempt := m.attempt, deadline := m.deadline, resume := m.resume, tlOrP := m.tlOrP,
                      imageId := m.imageId, waiting := sent.map s.farOf, answers := own :: subs, tries := tries }
  let relays (e : PartEntry) : List Reduce := e.relays.filter fun x => x.coord != m.coord
  if st = 0 then
    finishLaunch (s.modPart k fun e => { e.leave .prepared with launch := some r, relays := relays e, deadline := m.deadline }) k
  else if conflict then finishRelays (s.modPart k fun e => { e with relays := r :: relays e }) k
  else
    let s := s.modPart k fun e => { e with state := if e.state = .prepared then .joined else e.state, deadline := 0 }
    if m.coord = s.self then finishLaunch (s.modPart k fun e => { e with launch := some r, relays := relays e }) k
    else finishRelays (s.modPart k fun e => { e with launch := none, relays := r :: relays e }) k

/-- PREPARE sent by the coordinator, for the first time or again (R362, R366). -/
def sendPrepare (s : State) (k attempt : Nat) (deadline : Word) (resume : Bool) : State :=
  let c := s.getCtx k
  let s := s.launchStatus 1 0 0 none
  let s := s.setFld .netLaunchStatus [] 40 16 (attempt + 1)
  actPrepare s k { entryBody s k 1 with attempt := attempt % 256, origin := c.part.origin, extent := c.part.extent, coord := s.self,
                                        resume := resume, deadline := deadline, tlOrP := if resume then c.preemptP else 0,
                                        imageId := match c.image with
                                          | some im => im.id
                                          | none => List.replicate 48 0 } attempt

/-- The context slot whose entry a message names by PART and GEN. -/
def State.msgSlot (s : State) (part gen : Nat) : Option Nat :=
  match s.partSlot part with
  | some k => if (s.getCtx k).part.gen = gen then some k else none
  | none => none

/-- An answer that is reduced: the child's answer replaces what is waited for. -/
def Reduce.take (r : Reduce) (child : Nat) (b : LaunchBody) : Reduce :=
  if r.waiting.contains child then
    { r with waiting := r.waiting.filter (· != child),
             answers := r.answers ++ [{ child := child, status := b.status, reason := b.reason, fail := b.fail, tie := b.fail.getD child }] }
  else r

/-- An ANSWER of a child (R364): it belongs to the reduction that waits for that child at its ATTEMPT, the chip's own launch first; others are
discarded. -/
def actAnswer (s : State) (k src : Nat) (b : LaunchBody) : State :=
  let e := (s.getCtx k).part
  let mine (r : Reduce) : Bool := r.attempt == b.attempt && r.waiting.contains src
  if e.launch.any mine then finishLaunch (s.modPart k fun e => { e with launch := e.launch.map fun r => r.take src b }) k
  else match e.relays.find? mine with
    | some q => finishRelays (s.modPart k fun e => { e with relays := e.relays.map fun x => if x.coord = q.coord then x.take src b else x }) k
    | none => s

/-- COMMIT at a PREPARED chip goes on to its children and acts; at any other it is ignored (R359, R367). -/
def passCommit (s : State) (k : Nat) (b : LaunchBody) : State :=
  let e := (s.getCtx k).part
  match e.launch with
  | some r => if e.state = .prepared then actCommit (sendDown s k r.coord b) k b.tlOrP else s
  | none => s

/-- A member whose plan runs, or has completed since its COMMIT, takes part in a pre-emption (R280). -/
def State.preemptible (s : State) (k : Nat) : Bool :=
  let c := s.getCtx k
  c.part.state == .committed || (c.part.state == .joined && c.plan.state == .ended)

/-- A LAUNCH message acts on the chip (R363 to R371, R280); reserved OPCs are dropped. A chip with no entry for PART answers PREPARE
with BUSY while PART is in quarantine (R270), else with SHAPE (log entry 16). -/
def actMessage (s : State) (src : Nat) (b : LaunchBody) : State :=
  match s.partSlot b.part with
  | none =>
    if b.opc = 1 then
      let busy := s.partQuarantined b.part
      sendMachine s src 4 2 ({ opc := 2, attempt := b.attempt, status := if busy then 1 else 6, reason := if busy then 0 else 2,
                               part := b.part, gen := b.gen, fail := some s.self } : LaunchBody).bytes
    else s
  | some k =>
    let e := (s.getCtx k).part
    let current := e.gen == b.gen
    match b.opc with
    | 1 => actPrepare s k b
    | 2 => if current then actAnswer s k src b else s
    | 3 => if current then passCommit s k b else s
    | 4 => if current then actAbort s k b.cause b.reason b.fail else s
    | 5 => if current then actLost s k else s
    | 6 => if current && s.preemptible k then actPreemptPrepare s k b.coord b.tlOrP b.deadline else s
    | 7 => if current then match e.preempt with
        | some r => finishPreempt (s.modPart k fun e => { e with preempt := some (r.take src b) }) k
        | none => s
      else s
    | 8 => if current && e.preUntil.isSome then match e.preempt with
        | some r => actGo (sendDown s k r.coord b) k
        | none => s
      else s
    | 9 => if current && e.preUntil.isSome then match e.preempt with
        | some r => actCancel (sendDown s k r.coord b) k
        | none => s
      else s
    | _ => s

/-- The LAUNCH body that a packet carries (R363). -/
def LaunchBody.parse (p : List Byte) : LaunchBody :=
  let failW := leAt p 96 2
  { opc := leAt p 16 1, attempt := leAt p 17 1, status := leAt p 18 1, reason := leAt p 19 1, part := leAt p 20 2, gen := leAt p 22 1,
    origin := leAt p 24 2 % 32768, extent := leAt p 26 2 % 32768, coord := leAt p 28 2 % 32768, resume := leAt p 30 1 % 2 == 1,
    cause := leAt p 31 1, deadline := Word.ofNat (leAt p 32 8), tlOrP := Word.ofNat (leAt p 40 8), imageId := slice p 48 48,
    fail := if 32768 ≤ failW then none else some failW }

end Sys2Proof.Machine
end

