-- ==== Sys2Proof/Machine/Partition.lean ====
section
/-! DEFINITION. The partition commands and messages (R348 to R375, R460): joining and leaving, image distribution, launch, abort,
pre-emption messages, and the ledger's ranking. -/

namespace Sys2Proof.Machine

/-! ### Commands (R375) -/

/-- The context identifier in NET_PART_ARG0. -/
def State.partArg (s : State) : CtxId := CtxId.ofNat (s.fld .netPartArg0 [] 0 16)

/-- A partition command: dropped over VC3 (R314), DENIED to the service processor, checked against the context's generation and owners
with the precedence of R12, and else done (R375). -/
def partCmd (s : State) (acc : Accessor) (conds : List (Bool × Status)) (act : State → State) : State :=
  onBlock s srcNet fun s => if acc = .vc3 then s
  else match firstOf ([(!isCore acc, .denied), (!s.live s.partArg, .stale), (!s.owns acc s.partArg.slot, .denied)] ++ conds) with
    | some st => s.finish .netPartCmdStatus [] st
    | none => (act s).finish .netPartCmdStatus [] .ok

/-- The internal links of a box at this chip. -/
def State.internalLinks (s : State) (origin extent : Nat) : List Nat := links.filter fun l => s.internal l origin extent

/-- JOIN (R353); ABSENT where an internal link of the box is (R11, R41). -/
def cmdJoin (s : State) (acc : Accessor) : State :=
  let k := s.partArg.slot
  let c := s.getCtx k
  let part := s.fld .netPartArg0 [] 16 16
  let gen := s.fld .netPartArg0 [] 32 8
  let origin := s.fld .netPartArg1 [] 0 15
  let extent := s.fld .netPartArg1 [] 15 15
  let ls := s.internalLinks origin extent
  let bad := part == 0 || gen == 0
    || ((List.range 3).any fun i => decide (s.size i ≤ axis extent i ∨ s.size i ≤ axis origin i))
    || !s.inBox s.self origin extent || c.links.any fun l => !ls.contains l
  let busy := c.part.state != .free || c.state != .opened || ls.any fun l => !c.links.contains l && !s.linkFree l
  partCmd s acc [(ls.any fun l => s.absent (srcLnk l), .absent), (bad, .rejected), (busy, .busy)] fun s =>
    (s.each ls fun s l => s.giveLink k l).modPart k fun _ =>
      { state := .joined, part := part, gen := gen, ctxGen := c.gen, origin := origin, extent := extent,
        staging := (s.rg .netPartArg2 []).toNat, stageLen := (s.rg .netPartArg3 []).toNat }

def execJoin (acc : Accessor) (s : State) : Host.Outcome State Fault Refusal := .next (cmdJoin s acc)

/-- An entry begins to leave (R356). -/
def startReleasing (s : State) (k : Nat) : State :=
  s.modPart k fun e => { e.rejoin.leave .releasing with relays := [], relFrom := s.time.mt }

/-- An entry is freed and its number kept out of use (R356, R357). -/
def freePart (s : State) (k : Nat) : State :=
  let part := (s.getCtx k).part.part
  quarPart (s.modPart k fun _ => {}) part

/-- LEAVE (R356, R357). -/
def cmdLeave (s : State) (acc : Accessor) : State :=
  let k := s.partArg.slot
  let st := (s.getCtx k).part.state
  partCmd s acc [(st == .free, .rejected), (st == .prepared || st == .committed || st == .releasing, .busy)] fun s =>
    if st = .suspended then freePart s k else startReleasing s k

def execLeave (acc : Accessor) (s : State) : Host.Outcome State Fault Refusal := .next (cmdLeave s acc)

/-- The wait of RELEASING is over (R356): every internal link is DOWN or its far end no longer carries PART at GEN, or 1,250,000 ticks
have passed. -/
def State.releaseDone (s : State) (k : Nat) : Bool :=
  let e := (s.getCtx k).part
  decide (1250000 ≤ (s.time.mt - e.relFrom).toNat) || (s.internalLinks e.origin e.extent).all fun l =>
    let x := s.getLink l
    x.state == .down || x.farPart != e.part || x.farGen != e.gen

/-- RELEASING ends (R356): the LINK tickets go back, the entry is FREE and PART is quarantined. -/
def execReleasingEnd (k : CtxSlot) (s : State) : Host.Outcome State Fault Refusal :=
  let c := s.getCtx k.val
  if c.part.state = .releasing ∧ s.releaseDone k.val then .next (freePart (s.dropLinks k.val c.links) k.val) else .next s

/-- A quarantined partition number becomes usable (R356). -/
def execPartQuarantineEnd (i : Fin 64) (s : State) : Host.Outcome State Fault Refusal :=
  if s.bit .netPartQuar [i.val] 16 ∧ (KMap.get 0 s.partQuar i.val).toNat ≤ s.mtN then .next (s.clrRg .netPartQuar [i.val]) else .next s

/-! ### Distributing an image (R361) -/

/-- The body of an IMAGE packet: OFFSET, LENGTH, data (R361). -/
def imageBody (offset length : Nat) (data : List Byte) : List Byte := leBytes 8 offset ++ leBytes 8 length ++ data

/-- An IMAGE packet of this chip's own to each of its children in the tree rooted at `root` (R359, R361). -/
def sendImage (s : State) (k root offset length : Nat) (data : List Byte) : State :=
  s.each ((s.childLinks k root).filter (s.isJoined k)) fun s l => sendMachineOn s l 1 1 (imageBody offset length data)

/-- The chips of a box. -/
def State.boxChips (s : State) (origin extent : Nat) : List Nat :=
  let at_ (i : Nat) : List Nat := (List.range (axis extent i + 1)).map fun j => (axis origin i + j) % s.size i
  (at_ 2).flatMap fun z => (at_ 1).flatMap fun y => (at_ 0).map fun x => mkCoord x y z

/-- The root of the tree by which an IMAGE packet has come. DESIGN CHOICE (log entry 15): no field of the packet names it, so it is a free one of the
members whose tree reaches this chip by that link. -/
def imageRoot (s : State) (k l : Nat) : Option Nat × State :=
  let e := (s.getCtx k).part
  let roots := (s.boxChips e.origin e.extent).filter fun a => s.parentLink e.origin e.extent a s.self == some l
  let (w, s) := s.draw
  (roots[w.toNat % max 1 roots.length]?, s)

/-- DISTRIBUTE (R361): the image goes down the tree rooted here in pieces of 4,096 bytes (log entry 15). -/
def cmdDistribute (s : State) (acc : Accessor) : State :=
  let k := s.partArg.slot
  let len := (s.rg .netPartArg3 []).toNat
  let st := (s.getCtx k).part.state
  let bad := st == .free || len == 0
  partCmd s acc [(bad, .rejected), (st == .suspended || st == .releasing, .busy)] fun s =>
    let bytes := s.mgt.read (s.rg .netPartArg2 []).toNat len
    s.each ((chunks 4096 bytes).zipIdx) fun s (d, i) => sendImage s k s.self (4096 * i) len d

def execDistribute (acc : Accessor) (s : State) : Host.Outcome State Fault Refusal := .next (cmdDistribute s acc)

/-- The loader can begin a load of the context (R175). -/
def State.canLoad (s : State) (k : Nat) : Bool :=
  let c := s.getCtx k
  s.loader.isNone && c.state == .opened && (c.plan.state == .idle || c.plan.state == .ended) && !c.plan.held && c.part.state != .prepared

/-- A load begins (R166, R171, R175): the image is read once, the mapping is taken, and any earlier plan of the context is cleared. What the next step
message has to carry of the records is kept (R215). -/
def beginLoad (s : State) (k src len : Nat) : State :=
  let s := dropApers ((s.dropClaims k).dropRoutes k) k
  let s := s.modCtx k fun c => { c with image := none, pt := [], varIdx := [], lostMark := false, plan := {},
                                        serve := { tailors := c.serve.tailors, newReq := c.serve.newReq, release := c.serve.release } }
  let s := s.setRg .ldrStatus [] (pack [(0, 1, 1), (24, 5, k)])
  let s := s.each (List.range 4) fun s v => s.modVault v fun x => { x with queue := KMap.set [] x.queue k [] }
  let s := s.each (List.range 6) fun s j => s.clrRg .ldrCtxImage [k, j]
  let s := (s.dropCloOp k .timeout).modPart k fun e => { e with preempt := none, preUntil := none, go := false }
  { s with loader := some { ctx := s.idOf k, bytes := s.mgt.read src len, tiles := (s.getCtx k).tiles } }

/-- A range of received bytes added to the others. -/
def addRange (r : Nat × Nat) (l : List (Nat × Nat)) : List (Nat × Nat) := if r.2 = 0 then l else r :: l

/-- Every byte below a length has arrived: the ranges, taken in ascending order, leave no gap. -/
def coversTo (n : Nat) (l : List (Nat × Nat)) : Bool :=
  decide (n ≤ (sortBy (fun a b => decide (a.1 ≤ b.1)) l).foldl (fun e r => if r.1 ≤ e then max e (r.1 + r.2) else e) 0)

/-- A received image that is whole starts its load, or waits for the loader (R361). -/
def tryImage (s : State) (k : Nat) : State :=
  let e := (s.getCtx k).part
  let set (s : State) (st : ImgState) : State := s.modPart k fun e => { e with img := { e.img with state := st, mt := s.mtN } }
  if e.state ≠ .joined ∨ (s.getCtx k).gen ≠ e.ctxGen then set s .discarded
  else if s.canLoad k then set (beginLoad s k e.staging e.img.length) .complete
  else set s .loadWait

/-- An IMAGE packet for an entry (R361): forwarded to the children of the tree, written to the staging buffer, and at the last byte verified. An image
begins with its first packet: another LENGTH, or OFFSET 0 once that has come, is a new DISTRIBUTE (log entry 15). -/
def actImage (s : State) (k : Nat) (root : Option Nat) (offset length : Nat) (data : List Byte) : State :=
  let s := match root with
    | some a => sendImage s k a offset length data
    | none => s
  let e := (s.getCtx k).part
  let fresh := e.img.state != .receiving || e.img.length != length || (offset == 0 && e.img.got.any fun r => r.1 == 0)
  let img : ImgRecv := if fresh then { state := .receiving, length := length } else e.img
  let set (s : State) (i : ImgRecv) : State := s.modPart k fun e => { e with img := { i with mt := s.mtN } }
  if e.stageLen < length ∨ e.stageLen < offset + data.length then set s { img with state := .overflow }
  else
    let s := s.mgtWrite (e.staging + offset) data
    let img := { img with got := addRange (offset, data.length) img.got }
    let s := set s img
    if coversTo length img.got then
      let bytes := s.mgt.read e.staging length
      if 48 ≤ length ∧ sha384 (bytes.take (length - 48)) = bytes.drop (length - 48) then tryImage s k
      else set s { img with state := .mismatch }
    else s

def execImagePacket (part : BitVec 16) (gen : BitVec 8) (src : Coord) (offset length : Nat) (data : List Byte) (s : State) :
    Host.Outcome State Fault Refusal :=
  match s.msgSlot part.toNat gen.toNat with
  | some k => if (s.getCtx k).part.state = .suspended then .next s else .next (actImage s k (some src.toNat) offset length data)
  | none => .next s

/-- No IMAGE packet for 12,500,000 ticks on an incomplete image: TIMEOUT (R361). -/
def execImageTimeout (k : CtxSlot) (s : State) : Host.Outcome State Fault Refusal :=
  let i := (s.getCtx k.val).part.img
  if i.state = .receiving ∧ i.mt + 12500000 ≤ s.mtN then
    .next (s.modPart k.val fun e => { e with img := { e.img with state := .timeout } })
  else .next s

/-- A whole image that waits for the loader tries again every 100 µs (R361). -/
def execLoadWaitRetry (k : CtxSlot) (s : State) : Host.Outcome State Fault Refusal :=
  let i := (s.getCtx k.val).part.img
  if i.state = .loadWait ∧ i.mt + 125000 ≤ s.mtN then .next (tryImage s k.val) else .next s

/-! ### Launch and abort (R362 to R370) -/

/-- LAUNCH (R362). -/
def cmdLaunch (s : State) (acc : Accessor) : State :=
  let k := s.partArg.slot
  let off := (s.rg .netPartArg2 []).toNat
  let deadline := s.time.mt + Word.ofNat (if off = 0 then 12500000 else off)
  partCmd s acc [((s.getCtx k).part.state != .joined, .busy)] fun s =>
    sendPrepare (s.modPart k fun e => { e with coordinator := true }) k 0 deadline (s.bit .netPartArg1 [] 30)

def execLaunch (acc : Accessor) (s : State) : Host.Outcome State Fault Refusal := .next (cmdLaunch s acc)

/-- The command ABORT (R369): the coordinator floods ABORT with cause COMMAND; on any other chip it is REJECTED (log entry 16). -/
def cmdAbort (s : State) (acc : Accessor) : State :=
  let k := s.partArg.slot
  partCmd s acc [(!(s.getCtx k).part.coordinator, .rejected)] fun s => floodAbort s k 4 0 none

def execAbort (acc : Accessor) (s : State) : Host.Outcome State Fault Refusal := .next (cmdAbort s acc)

/-- The body that a received message carries. -/
def LaunchMsg.toBody (m : LaunchMsg) (opc : Nat) : LaunchBody :=
  { opc := opc, attempt := m.attempt.toNat, status := m.status.toNat, reason := m.reason.toNat, part := m.part.toNat, gen := m.gen.toNat,
    origin := m.origin.toNat, extent := m.extent.toNat, coord := m.coord.toNat, resume := m.resume, cause := m.cause.toNat,
    deadline := m.deadline, tlOrP := m.tlOrP, imageId := m.imageId, fail := if m.failNone then none else some m.failCoord.toNat }

def execPrepare (msg : LaunchMsg) (s : State) : Host.Outcome State Fault Refusal := .next (actMessage s msg.src.toNat (LaunchMsg.toBody msg 1))

def execAnswer (msg : LaunchMsg) (s : State) : Host.Outcome State Fault Refusal := .next (actMessage s msg.src.toNat (LaunchMsg.toBody msg 2))

/-- 50 µs after a reduced BUSY the coordinator sends PREPARE again while the deadline allows, else it aborts (R366). -/
def execPrepareRetry (k : CtxSlot) (s : State) : Host.Outcome State Fault Refusal :=
  match (s.getCtx k.val).part.launch with
  | some r => match r.retryAt with
    | some t =>
      if r.coord = s.self ∧ t.toNat ≤ s.mtN then
        if s.mtN + s.fld .netLaunchLead [] 0 32 ≤ r.deadline.toNat then .next (sendPrepare s k.val (r.tries + 1) r.deadline r.resume)
        else .next (floodAbort s k.val 1 0 (worst r.answers).fail)
      else .next s
    | none => .next s
  | none => .next s

def execCommit (msg : LaunchMsg) (s : State) : Host.Outcome State Fault Refusal := .next (actMessage s msg.src.toNat (LaunchMsg.toBody msg 3))

def execAbortFlood (msg : LaunchMsg) (s : State) : Host.Outcome State Fault Refusal := .next (actMessage s msg.src.toNat (LaunchMsg.toBody msg 4))

/-- A PREPARED chip at DEADLINE floods ABORT with cause DEADLINE and goes back to JOINED (R368). -/
def execLaunchDeadline (k : CtxSlot) (s : State) : Host.Outcome State Fault Refusal :=
  let e := (s.getCtx k.val).part
  if e.state = .prepared ∧ e.deadline.toNat ≤ s.mtN then .next (floodAbort s k.val 1 0 (some s.self)) else .next s

def execContextLost (part : BitVec 16) (gen : BitVec 8) (s : State) : Host.Outcome State Fault Refusal :=
  .next (actMessage s 0 { opc := 5, part := part.toNat, gen := gen.toNat })

/-! ### Pre-emption messages (R280) -/

def execPreemptPrepare (msg : LaunchMsg) (s : State) : Host.Outcome State Fault Refusal := .next (actMessage s msg.src.toNat (LaunchMsg.toBody msg 6))

def execPreemptAnswer (msg : LaunchMsg) (s : State) : Host.Outcome State Fault Refusal := .next (actMessage s msg.src.toNat (LaunchMsg.toBody msg 7))

def execPreemptGo (msg : LaunchMsg) (s : State) : Host.Outcome State Fault Refusal := .next (actMessage s msg.src.toNat (LaunchMsg.toBody msg 8))

def execPreemptCancel (msg : LaunchMsg) (s : State) : Host.Outcome State Fault Refusal := .next (actMessage s msg.src.toNat (LaunchMsg.toBody msg 9))

/-- A member that has heard neither GO nor CANCEL by the deadline ends with L1 PREEMPT_TIMEOUT (R280); one whose plan has completed only stops
waiting. -/
def execPreemptDeadline (k : CtxSlot) (s : State) : Host.Outcome State Fault Refusal :=
  match (s.getCtx k.val).part.preUntil with
  | some d =>
    if s.mtN < d.toNat then .next s
    else if (s.getCtx k.val).plan.state = .ended then .next (actCancel (s.dropCloOp k.val .timeout) k.val)
    else .next (against s .preemptTimeout srcClo k.val)
  | none => .next s

/-! ### The ledger (R372) -/

/-- The links from the most late on: by LAST, then HOLD, both descending, then by instance (R372). -/
def State.ledgerOrder (s : State) : List Nat :=
  let before (a b : Nat) : Bool :=
    let la := s.fld .netLedgerBar [a] 32 32
    let lb := s.fld .netLedgerBar [b] 32 32
    let ha := s.fld .netLedgerHold [a] 0 48
    let hb := s.fld .netLedgerHold [b] 0 48
    decide (lb < la ∨ (la = lb ∧ (hb < ha ∨ (ha = hb ∧ a ≤ b))))
  sortBy before links

/-- NET_LEDGER_RANK, recomputed (R372). -/
def ledgerRank (s : State) : State :=
  s.setRg .netLedgerRank [] (pack (s.ledgerOrder.zipIdx.map fun (l, r) => (3 * r, 3, l)))

/-- A read of NET_LEDGER_RANK (R314: the management cores and the service processor; others read 0). -/
def execLedgerRankRead (acc : Accessor) (s : State) : Host.Outcome State Fault Refusal :=
  let s := ledgerRank s
  .next { s with resp := some (if isLocal acc then s.rg .netLedgerRank [] else 0) }

end Sys2Proof.Machine
end

