-- ==== Sys2Proof/Machine/Cloakroom.lean ====
section
/-! DEFINITION. The Cloakroom's commands on contexts and tickets (R269 to R280, R284 to R286, R289, R460). Saving and restoring
stand in Save.lean. -/

namespace Sys2Proof.Machine

/-! ### The command interface (R289) -/

/-- The context identifier of CLO_ARG0, its TYPE or MODE, ARG1 and ARG2. -/
def State.cloId (s : State) : CtxId := CtxId.ofNat (s.fld .cloArg0 [] 0 16)
def State.cloType (s : State) : Nat := s.fld .cloArg0 [] 16 8
def State.cloA1 (s : State) : Nat := (s.rg .cloArg1 []).toNat
def State.cloA2 (s : State) : Nat := (s.rg .cloArg2 []).toNat

/-- A Cloakroom command: dropped while another is in progress; else the first status that applies (R12), or its effect. -/
def cloCmd (s : State) (conds : List (Bool × Status)) (act : State → State) : State :=
  onBlock s srcClo fun s => if s.cloOp.isSome then s
  else match firstOf conds with
    | some st => s.finish .cloCmdStatus [] st
    | none => act s

/-- What every command that names a context checks: generation and owner mask (R269, R272). -/
def State.ctxConds (s : State) (acc : Accessor) : List (Bool × Status) :=
  [(!s.live s.cloId, .stale), (!s.owns acc s.cloId.slot, .denied)]

/-- The Cloakroom grants nothing further after an L2 (R401). -/
def State.frozenConds (s : State) : List (Bool × Status) := [(s.flt.fatal, .absent)]

/-- A plan that has begun and not ended. -/
def Plan.active (p : Plan) : Bool := p.state != .idle && p.state != .ended

/-- The lowest FREE slot. -/
def State.freeSlot (s : State) : Option Nat := slots.find? fun k => (s.getCtx k).state == .free

/-! ### Pages and frames -/

/-- Frames of a context go back, with the pages they carry. -/
def dropFrames (s : State) (k : Nat) (fs : List FrameId) : State :=
  let s := s.modCtx k fun c =>
    { c with hbm := c.hbm.filter fun f => !fs.contains f, cxl := c.cxl.filter fun f => !fs.contains f,
             dirty := c.dirty.filter fun f => !fs.contains f,
             pt := c.pt.filter fun e => match e.2.frame with
               | some f => !fs.contains f
               | none => true }
  s.each fs fun s f => s.freeFrame f

/-- Every record of a context is freed (R232), and watches on its slots end ABANDONED. -/
def freeRecords (s : State) (k : Nat) : State :=
  let s := s.stopTurns k
  let rs := s.reqsOf k
  let spans := rs.map fun i => let r := s.getReq i; (r.slotVa, r.ringVa, 128 * r.ringN)
  let s := s.each (s.watchesOf k) fun s w =>
    match s.aperVa (s.fld .mgtFlagWatch [w] 0 6) (8 * s.fld .mgtFlagWatch [w] 6 29) with
    | some (_, va) => if spans.any (fun (a, b, n) => decide (va = a ∨ (b ≤ va ∧ va < b + n))) then s.endFlagWatch w .abandoned false else s
    | none => s
  s.each rs fun s i => s.freeReq i

/-! ### CREATE and OWNERS (R272, R273) -/

/-- A context opened in a slot: a generation that is not 0, its owner and 8 header frames. -/
def openCtx (s : State) (k owner : Nat) (header : List FrameId) : State :=
  let s := s.modCtx k fun c => { gen := if c.gen = 0 then 1 else c.gen, state := .opened, owners := BitVec.ofNat 10 (2 ^ owner), header := header }
  s.setRg .cloCmdResult [] (Word.ofNat (s.idOf k).toNat)

/-- CREATE (R272). -/
def cmdCreate (s : State) (acc : Accessor) : State :=
  cloCmd s (s.frozenConds ++ [(acc == .vc3, .denied), (s.freeSlot.isNone, .busy), ((s.takeFrames 8).isNone, .busy)]) fun s =>
    match s.freeSlot, s.takeFrames 8 with
    | some k, some (fs, s) => (openCtx s k (accBit acc) (fs.map Prod.fst)).finish .cloCmdStatus [] .ok
    | _, _ => s

def execCreate (acc : Accessor) (s : State) : Host.Outcome State Fault Refusal := .next (cmdCreate s acc)

/-- OWNERS (R272). -/
def cmdOwners (s : State) (acc : Accessor) : State :=
  let mask := BitVec.ofNat 10 s.cloA1
  cloCmd s (s.ctxConds acc ++ [(acc == .vc3, .denied), (!mask.getLsbD (accBit acc), .rejected)]) fun s =>
    (s.modCtx s.cloId.slot fun c => { c with owners := mask }).finish .cloCmdStatus [] .ok

def execOwners (acc : Accessor) (s : State) : Host.Outcome State Fault Refusal := .next (cmdOwners s acc)

/-! ### GRANT (R273 to R275) -/

/-- Tile rows granted: tiles, their sync banks and 32 save frames a row. -/
def grantTiles (s : State) (k rows : Nat) : Option State :=
  if s.gridRows < (s.getCtx k).tiles.length / 32 + rows ∨ s.planTiles < s.tilesGranted + 32 * rows then none
  else match s.pickTiles (32 * rows) with
    | none => none
    | some ts => match s.takeFrames (32 * rows) with
      | none => none
      | some (fs, s) =>
        let s := s.each ts fun s t => s.giveTile k t
        some (s.modCtx k fun c => { c with tiles := c.tiles ++ ts, saveFr := c.saveFr ++ fs.map Prod.fst })

/-- HBM frames granted; those that were dirty are marked (R276). -/
def grantHbm (s : State) (k n : Nat) : Option State :=
  (s.takeFrames n).map fun (fs, s) =>
    s.modCtx k fun c => { c with hbm := c.hbm ++ fs.map Prod.fst, dirty := c.dirty ++ (fs.filter Prod.snd).map Prod.fst }

/-- CXL frames granted; those that were dirty are marked (R276). -/
def grantCxl (s : State) (k n mask : Nat) : Option State :=
  (s.pickCxl mask n).map fun fs =>
    (s.each fs State.holdCxl).modCtx k fun c =>
      { c with cxl := c.cxl ++ fs, dirty := c.dirty ++ fs.filter fun f => !(s.getCxl f.unit).clean.contains f.frame }

def grantGroups (s : State) (k v n : Nat) : Option State :=
  let gs := (s.groupsFree v).take n
  if s.vaultClosed v ∨ gs.length < n then none else some (s.giveGroups k v gs)

/-- The request records granted on the chip (R209). -/
def State.quotaSum (s : State) : Nat := sumN (slots.map fun k => (s.getCtx k).quota)

/-- HBM frames that the penalty histories of a quota fill, 4 KiB a record (R223, R273): one after another, without gaps (log entry 112). -/
def quotaFrames (records : Nat) : Nat := ceilDiv (4096 * records) pageBytes

/-- Request records granted, with the frames of their penalty histories. -/
def grantQuota (s : State) (k n : Nat) : Option State :=
  let c := s.getCtx k
  if 16384 < s.quotaSum + n then none
  else (s.takeFrames (quotaFrames (c.quota + n) - c.quotaFr.length)).map fun (fs, s) =>
    s.modCtx k fun c => { c with quota := c.quota + n, quotaFr := c.quotaFr ++ fs.map Prod.fst }

/-- The records left to a context, and the frames of the others' penalty histories back. -/
def keepQuota (s : State) (k n : Nat) : State :=
  let fs := (s.getCtx k).quotaFr
  let s := s.modCtx k fun c => { c with quota := n, quotaFr := c.quotaFr.take (quotaFrames n) }
  s.each (fs.drop (quotaFrames n)) State.freeFrame

/-- GRANT of a ticket type, or none where it cannot be granted in full. -/
def grant (s : State) (k type a1 a2 : Nat) : Option State :=
  match type with
  | 1 => grantTiles s k a1
  | 2 => grantHbm s k a1
  | 3 => grantCxl s k a1 a2
  | 4 => grantGroups s k a1 a2
  | 5 => if s.vaultClosed a1 ∨ (s.getRegion a1 a2).state ≠ .installed then none else some (s.bindRegion k a1 a2)
  | 6 => grantQuota s k a1
  | _ => if s.linkFree a1 then some (s.giveLink k a1) else none

/-- A block that the ticket needs is absent (R11, R34, R41): its stack or link, every HBM stack, every port that ARG2 allows; and after TILE_SHORTFALL
for tiles. -/
def State.grantAbsent (s : State) (type a1 a2 : Nat) : Bool :=
  match type with
  | 1 => s.shortT
  | 2 => (List.range 8).all fun m => s.absent (srcMem m)
  | 3 => decide (a2 ≤ 3) && (portMask a2).all fun p => s.absent (srcCxl p)
  | 4 | 5 => decide (a1 ≤ 3) && s.absent (srcVlt a1)
  | 7 => decide (a1 ≤ 5) && s.absent (srcLnk a1)
  | _ => false

/-- Operands of GRANT outside their ranges, or a region that cannot be bound on a stack that takes requests: REJECTED (R273, R179; log entry 17). -/
def grantBad (s : State) (k type a1 a2 : Nat) : Bool :=
  match type with
  | 1 | 2 | 6 => false
  | 3 => decide (3 < a2)
  | 4 => decide (3 < a1)
  | 5 => decide (3 < a1 ∨ 63 < a2) || (!s.vaultClosed a1 && (s.getCtx k).state != .saved && ((s.groupsOf k a1).isEmpty
    || ((s.getRegion a1 a2).state != .installed && (s.getRegion a1 a2).state != .bound)))
  | 7 => decide (5 < a1)
  | _ => true

/-- GRANT (R274). -/
def cmdGrant (s : State) (acc : Accessor) : State :=
  let k := s.cloId.slot
  let type := s.cloType
  let c := s.getCtx k
  let busy := c.state == .saving || c.state == .restoring || (c.state == .saved && (type == 1 || type == 4 || type == 5 || type == 7))
  cloCmd s (s.frozenConds ++ s.ctxConds acc ++ [(s.grantAbsent type s.cloA1 s.cloA2, .absent), (grantBad s k type s.cloA1 s.cloA2, .rejected), (busy, .busy),
      ((grant s k type s.cloA1 s.cloA2).isNone, .busy)]) fun s =>
    match grant s k type s.cloA1 s.cloA2 with
    | some s => s.finish .cloCmdStatus [] .ok
    | none => s

def execGrant (acc : Accessor) (s : State) : Host.Outcome State Fault Refusal := .next (cmdGrant s acc)

/-! ### RELEASE (R274) -/

/-- The last `n` entries of a list; 0 means all. -/
def lastOf {α : Type} (l : List α) (n : Nat) : List α := if n = 0 then l else l.drop (l.length - n)

/-- Tile rows returned, the highest first, with their save frames; a SAVED context holds no rows and keeps its save frames (R281). -/
def releaseTiles (s : State) (k rows : Nat) : State :=
  let c := s.getCtx k
  let ts := lastOf c.tiles (32 * rows)
  let fs := c.saveFr.drop (c.saveFr.length - ts.length)
  let s := s.each ts State.dropTile
  let s := s.modCtx k fun c => { c with tiles := c.tiles.take (c.tiles.length - ts.length), saveFr := c.saveFr.take (c.saveFr.length - fs.length) }
  (s.each fs State.freeFrame).dropClaims k

/-- Records of a context that no request uses. -/
def State.unusedRecs (s : State) (k : Nat) : Nat := (s.getCtx k).quota - (s.reqsOf k).length

/-- CXL frames of a context on the ports that a mask allows. -/
def State.cxlOn (s : State) (k mask : Nat) : List FrameId := (s.getCtx k).cxl.filter fun f => (portMask mask).contains f.unit

/-- A release of more than the context holds, or one that R274 forbids: REJECTED. -/
def releaseBad (s : State) (k type a1 a2 : Nat) : Bool :=
  let c := s.getCtx k
  match type with
  | 1 => decide (c.tiles.length < 32 * a1)
  | 2 => decide (c.hbm.length < a1)
  | 3 => decide (3 < a2 ∨ (s.cxlOn k a2).length < a1)
  | 4 => decide (3 < a1 ∨ (s.groupsOf k a1).length < a2)
    || ((a2 == 0 || a2 == (s.groupsOf k a1).length) && !(s.regionsOf k a1).isEmpty)
  | 5 => decide (3 < a1) || !(s.regionsOf k a1).contains a2
  | 6 => decide (s.unusedRecs k < a1)
  | 7 => decide (1 < a2) || (a2 == 0 && !c.links.contains a1)
  | _ => true

/-- What RELEASE gives back. -/
def release (s : State) (k type a1 a2 : Nat) : State :=
  let c := s.getCtx k
  match type with
  | 1 => releaseTiles s k a1
  | 2 => dropFrames s k (lastOf c.hbm a1)
  | 3 => dropFrames s k (lastOf (s.cxlOn k a2) a1)
  | 4 => s.dropGroups a1 (lastOf (s.groupsOf k a1) a2)
  | 5 => s.unbindRegion a1 a2
  | 6 => if a1 = 0 then keepQuota (freeRecords s k) k 0 else keepQuota s k (c.quota - a1)
  | _ => s.dropLinks k (if a2 = 1 then c.links else [a1])

/-- RELEASE (R274). -/
def cmdRelease (s : State) (acc : Accessor) : State :=
  let k := s.cloId.slot
  let c := s.getCtx k
  let busy := c.plan.active || c.plan.held || c.part.state == .prepared || c.state == .saving || c.state == .restoring
  cloCmd s (s.ctxConds acc ++ [(releaseBad s k s.cloType s.cloA1 s.cloA2, .rejected), (busy, .busy)]) fun s =>
    (release s k s.cloType s.cloA1 s.cloA2).finish .cloCmdStatus [] .ok

def execRelease (acc : Accessor) (s : State) : Host.Outcome State Fault Refusal := .next (cmdRelease s acc)

/-! ### REPAIR (R278, R279) -/

/-- The lowest free spare. -/
def State.spare (s : State) : Option Nat := tilesAll.find? fun t => (s.getTile t).state == .spare && !(s.getTile t).bistQueued

/-- A BAD tile leaves a context and never returns to service. -/
def retireTile (s : State) (t : Nat) : State := s.modTile t fun x => { x with ctx := none, power := .off, bank := .unbound }

/-- The mapping of a context changed at one virtual tile (R279): the tile joins it as a fresh one. -/
def remapTile (s : State) (k vt new : Nat) : State :=
  let old := (s.getCtx k).tiles.getD vt 576
  let s := retireTile s old
  let s := (s.clearTile new).giveTile k new
  s.modCtx k fun c => { c with tiles := c.tiles.set vt new }

/-- REPAIR (R279): deferred to the end of a load in progress (R166). -/
def cmdRepair (s : State) (acc : Accessor) : State :=
  let k := s.cloId.slot
  let c := s.getCtx k
  let vt := 32 * fieldN s.cloA1 0 4 + fieldN s.cloA1 4 5
  let bad := if c.state = .saved then (c.badTiles.find? fun b => b.1 == vt).isSome
    else match c.tiles[vt]? with
      | some t => (s.getTile t).state == .bad
      | none => false
  let ok := c.state == .saved || (c.state == .opened && !c.plan.active)
  cloCmd s (s.frozenConds ++ s.ctxConds acc ++ [(!bad, .rejected), (!ok || s.spare.isNone, .busy)]) fun s =>
    match s.spare with
    | none => s
    | some sp =>
      let s :=
        if c.state = .saved then
          let old := ((c.badTiles.find? fun b => b.1 == vt).map Prod.snd).getD 576
          ((retireTile s old).modTile sp fun x => { x with state := .free }).modCtx k fun c => { c with badTiles := c.badTiles.filter fun b => b.1 != vt }
        else if s.loading k then { s with loader := s.loader.map fun l => { l with repairs := l.repairs ++ [vt] } }
        else remapTile s k vt sp
      s.finish .cloCmdStatus [] .ok

def execRepair (acc : Accessor) (s : State) : Host.Outcome State Fault Refusal := .next (cmdRepair s acc)

/-! ### TILE_BIST (R286) -/

/-- No ticket names the tile. -/
def State.tileUnticketed (s : State) (t : Nat) : Bool := (s.getTile t).ctx.isNone && (s.getTile t).state != .bist

/-- A BIST begins: the tile's state is destroyed. -/
def startBist (s : State) (t : Nat) : State :=
  let from_ := (s.getTile t).state
  ((s.clearTile t).pllStart (regionOf t)).modTile t fun x => { x with state := .bist, bistFrom := from_, bistQueued := false, unclear := true }

/-- TILE_BIST (R286, R289); DENIED on a tile under a ticket that the accessor does not hold (R12, R272). -/
def cmdTileBist (s : State) (acc : Accessor) (queue : Bool) : State :=
  let t := s.fld .cloArg0 [] 0 10
  let failed := decide (t < 576) && (s.getTile t).state == .failed
  let foreign := match (s.getTile t).ctx with
    | some i => !s.owns acc i.slot
    | none => false
  cloCmd s [(failed, .absent), (foreign, .denied), (decide (576 ≤ t), .rejected), (!s.tileUnticketed t && !queue, .busy)] fun s =>
    let s := if s.tileUnticketed t then startBist s t
      else (s.modTile t fun x => { x with bistQueued := true }).setBit .cloCmdStatus [] 10 true
    s.finish .cloCmdStatus [] .ok

def execTileBist (acc : Accessor) (queue : Bool) (s : State) : Host.Outcome State Fault Refusal := .next (cmdTileBist s acc queue)

/-- CLO_CMD_STATUS.QUEUED while some TILE_BIST waits. -/
def refreshBistQueued (s : State) : State := s.setBit .cloCmdStatus [] 10 (s.tile.any fun e => e.2.bistQueued)

/-- A queued BIST starts when no ticket names the tile any longer (R286). -/
def execTileBistQueuedStart (t : TileIx) (s : State) : Host.Outcome State Fault Refusal :=
  if (s.getTile t.val).bistQueued ∧ s.tileUnticketed t.val then .next (refreshBistQueued (startBist s t.val)) else .next s

/-- A BIST ends: BAD on failure (R278), else the tile is what it was; its count of uncorrectable reports stays (R286). -/
def execTileBistDone (t : TileIx) (pass : Bool) (s : State) : Host.Outcome State Fault Refusal :=
  if (s.getTile t.val).state = .bist then
    .next (s.modTile t.val fun x => { x with state := if pass then x.bistFrom else .bad })
  else .next s

/-! ### DESTROY (R460) -/

/-- A load of a context that goes ends ABANDONED (R175). -/
def dropLoad (s : State) (k : Nat) : State :=
  if s.loading k then
    let s := ((s.setBit .ldrStatus [] 0 false).setBit .ldrStatus [] 1 true).setFld .ldrStatus [] 8 16 Status.abandoned.code
    { s with loader := none }
  else s

/-- What ends with a context before its tickets go: PREPARE state is aborted, the plan ends, objects and watches are ABANDONED, a
load ends, apertures go STALE (R151, R175, R423, R460). -/
def killCtx (s : State) (k : Nat) : State :=
  let s := if (s.getCtx k).part.state = .prepared then floodAbort s k 4 0 (some s.self) else s
  let s := endPlan s k .killed
  dropApers (dropLoad (s.abandon k) k) k

/-- The context's frames of every kind, its groups, regions and records go back; groups and regions of a stack where a request of the context still
runs go back when the last one has ended (R204). -/
def freeHoldings (s : State) (k : Nat) : State :=
  let c := s.getCtx k
  let s := s.each (List.range 4) fun s v =>
    if (s.getVault v).ending.any fun e => e.owner == s.idOf k then s
    else (s.dropGroups v (s.groupsOf k v)).each (s.regionsOf k v) fun s r => s.unbindRegion v r
  let s := s.each c.tiles State.dropTile
  let s := s.each c.badTiles fun s b => retireTile s b.2
  let s := freeRecords s k
  dropFrames (s.each (c.saveFr ++ c.header ++ c.quotaFr) State.freeFrame) k (c.hbm ++ c.cxl)

/-- The slot after its context: QUARANTINE under the next generation (R269, R271), with the partition entry and the LINK tickets that
RELEASING keeps (R460). -/
def quarantineSlot (s : State) (k : Nat) : State :=
  let st := (s.getCtx k).part.state
  let s := if st = .joined ∨ st = .prepared ∨ st = .committed then startReleasing s k
    else if st = .suspended then freePart s k else s
  s.modCtx k fun c =>
    { state := .quarantine, gen := if c.gen = 2047 then 1 else c.gen + 1, quarUntil := s.time.mt + 1250000,
      part := c.part, links := if c.part.state = .free then [] else c.links }

/-- DESTROY (R271, R288, R460). -/
def cmdDestroy (s : State) (acc : Accessor) : State :=
  let k := s.cloId.slot
  let c := s.getCtx k
  cloCmd s (s.ctxConds acc ++ [(c.state == .saving || c.state == .restoring, .busy)]) fun s =>
    (quarantineSlot (freeHoldings (killCtx s k) k) k).finish .cloCmdStatus [] .ok

def execDestroy (acc : Accessor) (s : State) : Host.Outcome State Fault Refusal := .next (cmdDestroy s acc)

/-- A QUARANTINE slot becomes FREE after 1 ms of MT, once its partition entry is FREE (R271, R460). -/
def execQuarantineEnd (k : CtxSlot) (s : State) : Host.Outcome State Fault Refusal :=
  let c := s.getCtx k.val
  if c.state = .quarantine ∧ c.quarUntil.toNat ≤ s.mtN ∧ c.part.state = .free then
    .next (s.setCtx k.val { gen := c.gen })
  else .next s

/-! ### PREEMPT (R280) -/

/-- PREEMPT: an IDLE or ENDED plan is saved at once; on one chip the stop stands at PCY + 1; on several the chip coordinates. -/
def startPreempt (s : State) (k : Nat) (d : Nat) : State :=
  let c := s.getCtx k
  if !c.plan.active then enterSaving s k
  else if !c.part.multi then
    let p := c.plan.pcy + 1
    (s.modCtx k fun c => { c with preemptP := p }).modPlan k fun x => { x with stopP := some p.toNat }
  else
    let dh := match c.image with
      | some im => dHop im.dhop
      | none => 0
    let p := c.plan.pcy + Word.ofNat (4 * s.diameter c.part.extent * dh)
    actPreemptPrepare s k s.self p (s.time.mt + Word.ofNat d)

def cmdPreempt (s : State) (acc : Accessor) : State :=
  let k := s.cloId.slot
  let c := s.getCtx k
  cloCmd s (s.ctxConds acc ++ [(decide (10000000 < s.cloA1), .rejected), (c.state != .opened || c.part.state == .prepared, .busy)]) fun s =>
    startPreempt { s with cloOp := some (.preempt k) } k s.cloA1

def execPreempt (acc : Accessor) (s : State) : Host.Outcome State Fault Refusal := .next (cmdPreempt s acc)

/-! ### REBIND (R284, R285) -/

/-- A type is selected by a TYPES mask. -/
def hasType (types t : Nat) : Bool := types / 2 ^ t % 2 == 1

/-- Tiles and save frames moved to another slot: the tiles come cleared, a BAD one stays BAD. -/
def moveTile (s : State) (j t : Nat) : State :=
  let bad := (s.getTile t).state == .bad
  let s := ((s.dropTile t).dropFlits t).clearTile t
  if bad then s.modTile t fun x => { x with ctx := some (s.idOf j) } else s.giveTile j t

def moveTiles (s : State) (k j : Nat) : State :=
  let c := s.getCtx k
  ((s.each c.tiles fun s t => moveTile s j t).modCtx j fun x => { x with tiles := c.tiles, saveFr := c.saveFr }).modCtx k fun x =>
    { x with tiles := [], saveFr := [] }

/-- Frames of HBM moved to another slot, dirty there. -/
def moveHbm (s : State) (k j : Nat) : State :=
  let c := s.getCtx k
  (s.modCtx j fun x => { x with hbm := c.hbm, dirty := x.dirty ++ c.hbm }).modCtx k fun x => { x with hbm := [], pt := [] }

/-- Frames of CXL memory moved to another slot, dirty there. -/
def moveCxl (s : State) (k j : Nat) : State :=
  let c := s.getCtx k
  (s.modCtx j fun x => { x with cxl := c.cxl, dirty := x.dirty ++ c.cxl }).modCtx k fun x => { x with cxl := [], pt := [] }

/-- The record quota moved to another slot; the records themselves are freed. -/
def moveQuota (s : State) (k j : Nat) : State :=
  let c := s.getCtx k
  ((freeRecords s k).modCtx j fun x => { x with quota := c.quota, quotaFr := c.quotaFr }).modCtx k fun x => { x with quota := 0, quotaFr := [] }

/-- Links moved to another slot. -/
def moveLinks (s : State) (k j : Nat) : State :=
  let l := (s.getCtx k).links
  (s.modCtx j fun x => { x with links := l }).modCtx k fun x => { x with links := [] }

/-- The selected tickets of a source pass to a target (R285): tiles cleared, frames dirty, regions bound to the target, records freed. -/
def moveTickets (s : State) (k j types : Nat) : State :=
  let s := if hasType types 1 then moveTiles s k j else s
  let s := if hasType types 2 then moveHbm s k j else s
  let s := if hasType types 3 then moveCxl s k j else s
  let s := if hasType types 4 then s.each (List.range 4) fun s v => s.giveGroups j v (s.groupsOf k v) else s
  let s := if hasType types 5 then s.each (List.range 4) fun s v => s.each (s.regionsOf k v) fun s r => s.bindRegion j v r else s
  let s := if hasType types 6 then moveQuota s k j else s
  if hasType types 7 then moveLinks s k j else s

/-- REBIND (R284). -/
def cmdRebind (s : State) (acc : Accessor) : State :=
  let k := s.cloId.slot
  let c := s.getCtx k
  let mode := s.cloType
  let types := s.cloA1
  let bad := decide (1 < mode ∨ 255 < types ∨ types % 2 = 1) || (mode == 1 && (hasType types 2 || hasType types 3 || hasType types 5 || hasType types 6))
  let busy := (c.part.multi && c.plan.active) || c.part.state == .prepared || s.freeSlot.isNone || (s.takeFrames 8).isNone
    || c.state == .saving || c.state == .restoring || (mode == 1 && c.state != .opened)
  cloCmd s (s.frozenConds ++ s.ctxConds acc ++ [(acc == .vc3, .denied), (bad, .rejected), (busy, .busy)]) fun s =>
    match s.freeSlot with
    | none => s
    | some j =>
      if mode = 1 then
        startPreempt { s with cloOp := some (.rebind k j types (accBit acc)) } k 0
      else
        match s.takeFrames 8 with
        | none => s
        | some (fs, s) =>
          let s := killCtx s k
          let s := moveTickets (openCtx s j (accBit acc) (fs.map Prod.fst)) k j types
          (quarantineSlot (freeHoldings s k) k).finish .cloCmdStatus [] .ok

def execRebind (acc : Accessor) (s : State) : Host.Outcome State Fault Refusal := .next (cmdRebind s acc)

/-! ### Background work (R276) -/

/-- The Cloakroom zeroes a dirty free frame, of a stack or of a CXL port, and marks it clean (R276). -/
def execFrameZero (cxl : Bool) (m : StackIx) (frame : Nat) (s : State) : Host.Outcome State Fault Refusal :=
  let i := KMap.get {} (s.getHbm m.val).frames frame
  if cxl then
    if (s.cxlFree m.val).contains frame ∧ !(s.getCxl m.val).clean.contains frame then
      .next ((s.frameClear { cxl := true, unit := m.val, frame := frame }).modCxl m.val fun x => { x with clean := frame :: x.clean })
    else .next s
  else if frame < grantFrames ∧ !i.held ∧ !i.clean ∧ !i.retired ∧ (s.getHbm m.val).phase = .ready then
    let s := s.frameClear { unit := m.val, frame := frame }
    .next (s.modHbm m.val fun h => { h with frames := KMap.upd {} h.frames frame fun i => { i with clean := true } })
  else .next s

end Sys2Proof.Machine
end

