-- ==== Sys2Proof/Machine/Time.lean ====
section
/-! DEFINITION. Machine time: the time root and the time tree (R42 to R48), and the commands on them; the Frost limit (R64) and RESUME
(R67). -/

namespace Sys2Proof.Machine

/-- The chip is the time root (R43). -/
def State.rootEn (s : State) : Bool := s.bit .timRootCtl [] 0

/-- The neighbours' advertisements that a follower may choose from: links that are up with a depth below 63 and a root that they have named (R44). -/
def State.timeCands (s : State) : List Nat :=
  links.filter fun l => (s.getLink l).isUp && decide ((s.getLink l).advDepth < 63) && (s.getLink l).advRoot.isSome

/-- The time parent: the lowest root coordinate, then the smallest depth, then link order (R44); none where the chip's depth would
exceed 62. -/
def State.bestParent (s : State) : Option Nat :=
  let key (l : Nat) : Nat := 64 * coordKey ((s.getLink l).advRoot.getD 0) + (s.getLink l).advDepth
  match s.timeCands.foldl (fun b l => match b with
    | none => some l
    | some m => if key l < key m then some l else some m) none with
  | some l => if (s.getLink l).advDepth + 1 ≤ 62 then some l else none
  | none => none

/-- The chip's place in the time tree after any change of the advertisements or of the links (R44, R45): the root stands at depth
0; a LOCKED follower with no candidate goes to HOLDOVER, where MT runs freely. -/
def State.chooseParent (s : State) : State :=
  if s.rootEn then
    { s with time := { s.time with parent := none, depth := 0, rootCoord := s.self, sync := .locked, everLock := true } }
  else match s.bestParent with
    | some l =>
      { s with time := { s.time with parent := some l, depth := (s.getLink l).advDepth + 1, rootCoord := (s.getLink l).advRoot.getD 0 } }
    | none =>
      { s with time := { s.time with parent := none, depth := 63, slew := 0,
                                     sync := if s.time.sync = .locked then .holdover else s.time.sync } }

/-- TIM_MT_SET (R48): MT loads while ROOT_EN is 0 and SYNC is UNSYNCED; else the write is dropped with TIME_SET_REFUSED. -/
def mtSet (s : State) (v : Word) : State :=
  if !s.rootEn && s.time.sync == .unsynced then { s with time := { s.time with mt := v } }
  else notice s .timeSetRefused srcTim

def execTimMtSet (_acc : Accessor) (value : Word) (s : State) : Host.Outcome State Fault Refusal := .next (onBlock s srcTim fun s => mtSet s value)

/-- TIM_ROOT_CTL (R43, R48): ROOT_EN = 1 makes the chip the root, LOCKED and counting on from its MT; 0 makes it a follower. -/
def rootEnSet (s : State) (v : Word) : State :=
  let s := s.setBit .timRootCtl [] 0 (bitOf v 0)
  (if bitOf v 0 then { s with time := { s.time with slew := 0 } } else s).chooseParent

def execRootEnWrite (_acc : Accessor) (value : Word) (s : State) : Host.Outcome State Fault Refusal := .next (onBlock s srcTim fun s => rootEnSet s value)

/-- A PPS edge latches MT on the root alone (R48). -/
def execPpsEdge (s : State) : Host.Outcome State Fault Refusal :=
  .next (if s.rootEn then (s.setRg .timPpsLatch [] s.time.mt).setBit .timStatus [] 12 true else s)

/-- The tick in every 1,024 on which a slew correction makes MT advance by 2 or by 0 (R42); with no correction left, or less than
1,024 ticks after the last one, MT advances by 1. -/
def execMtSlewTick (s : State) : Host.Outcome State Fault Refusal :=
  let t := s.time
  let due := t.slew != 0 && decide (t.lastSlew = 0 ∨ t.lastSlew + 1024 ≤ t.refTicks + 1)
  if due then
    .next { s with time := { t with mt := if 0 < t.slew then t.mt + 2 else t.mt, refTicks := t.refTicks + 1, lastSlew := t.refTicks + 1,
                                    slew := if 0 < t.slew then t.slew - 1 else t.slew + 1 } }
  else .next (idleTick s)

/-- A Frost interval longer than TIM_CTX_FROST_LIMIT raises L1 FROST_TIMEOUT (R64); a limit of 0 never does. -/
def execFrostTimeout (k : CtxSlot) (s : State) : Host.Outcome State Fault Refusal :=
  let limit := s.fld .timCtxFrostLimit [k.val] 0 40
  match (s.getCtx k.val).plan.frost with
  | some f =>
    if limit ≠ 0 ∧ limit < (s.time.mt - f.startMt).toNat then .next (against s .frostTimeout srcTim k.val f.detail) else .next s
  | none => .next s

/-- RESUME (R67): a STOPPED context runs on, unless it is held at a pre-emption's P (R280) or restored and not yet launched (R283). -/
def ctxResume (s : State) (acc : Accessor) (k : Nat) (v : Word) : State :=
  let p := (s.getCtx k).plan
  let atP := match p.stopP with
    | some q => decide (q < p.pcy.toNat)
    | none => false
  if s.owns acc k && bitOf v 0 && p.state == .stopped && !p.held && !atP && (s.getCtx k).state == .opened then
    s.modPlan k fun p => { p with state := .running }
  else s

def execTimCtxResume (acc : Accessor) (k : CtxSlot) (value : Word) (s : State) : Host.Outcome State Fault Refusal :=
  .next (onBlock s srcTim fun s => ctxResume s acc k.val value)

end Sys2Proof.Machine
end

