-- ==== Sys2Proof/Machine/Links.lean ====
section
/-! DEFINITION. The life of a link (R315 to R324, R337 to R343): lanes and spares, full training, fast retrain, link-down, and the link's
commands (R347). -/

namespace Sys2Proof.Machine

/-! ### Distances and durations -/

/-- `a` is frame `b` or a later one, modulo 4,096 (R327). -/
def fnGe (a b : Nat) : Bool := decide ((a + 4096 - b % 4096) % 4096 < 2048)

/-- 1.5 round trips have passed since an MT, one MT tick being 800 ps (R330). -/
def State.rttPassed (s : State) (l : Nat) (since : Nat) : Bool := decide (3 * rttPs (s.getLink l) ≤ 2 * 800 * (s.mtN - since))

/-! ### Lanes -/

/-- The physical lanes of a direction. -/
def lanesAll : List Nat := List.range 34

/-- A lane of a direction: before any training logical lane j runs on physical lane j, and lanes 32 and 33 are spares (R315). -/
def getLane (d : KMap Lane) (q : Nat) : Lane :=
  if d.isEmpty then (if q < 32 then { logical := q } else { role := 1 }) else KMap.get {} d q

/-- A lane changed. -/
def modLane (d : KMap Lane) (q : Nat) (f : Lane → Lane) : KMap Lane := KMap.upd {} d q f

/-- The physical lane that carries a logical lane; one marked failed carries it until a spare does (R337). -/
def laneOf (d : KMap Lane) (j : Nat) : Option Nat := lanesAll.find? fun q => decide (j < 32) && (getLane d q).logical == j

/-- The lanes that are good: they locked, and nothing has marked them failed. -/
def goodLanes (d : KMap Lane) (good : BitVec 34) : List Nat := lanesAll.filter fun q => good.getLsbD q && (getLane d q).role != 2

/-- Lanes given their roles: `act` carry logical lanes in order, `rest` takes the role given, the others have failed. -/
def assignLanes (d : KMap Lane) (good : BitVec 34) (act : List (Nat × Nat)) (rest : Nat) : KMap Lane :=
  lanesAll.foldl (fun d q => modLane d q fun x =>
    let ok := good.getLsbD q && x.role != 2
    let x := { x with lock := good.getLsbD q, window := 0, failing := false }
    match act.find? fun e => e.1 == q with
    | some e => { x with role := 0, logical := e.2 }
    | none => { x with role := if ok then rest else 2, logical := 63 }) d

/-- Logical lanes at half width: the 16 lowest-numbered good lanes (R338). -/
def halfLanes (d : KMap Lane) (good : BitVec 34) : KMap Lane := assignLanes d good (((goodLanes d good).take 16).zipIdx) 3

/-- Logical lanes after full training at full width: lane j on physical lane j, and the lanes that failed on the spares in order
(R315, R320). -/
def fullLanes (d : KMap Lane) (good : BitVec 34) : KMap Lane :=
  let ok := goodLanes d good
  let bad := (List.range 32).filter fun q => !ok.contains q
  let own := (List.range 32).filter fun q => ok.contains q
  assignLanes d good (own.map (fun q => (q, q)) ++ (ok.filter fun q => decide (32 ≤ q)).zip bad) 1

/-! ### Down -/

/-- A link that falls out of service loses what it has not delivered, at the sender and in its buffers (R342). -/
def Link.lose (x : Link) : Link :=
  { x with sent := [], nakQ := [], goback := [], resendQ := [], vcq := [], txPlan := [], txDue := [], buf := [], tree := [], rxWait := [],
           rxHeld := [], rxq := [], farPart := 0, farGen := 0, advDepth := 63, advRoot := none, far0 := none, echo := none, txTimes := [],
           sreq := none, farReq := none, sat := none, farSat := none, badRun := 0, missing := [], nakAt := [], rxSeen := [], rxNext := 0 }

/-- Flits that no longer occupy a link's receive buffers, wherever they wait: the link has lost them. -/
def TxFlit.untag (l : Nat) (f : TxFlit) : TxFlit := if f.from_ = some l then { f with from_ := none } else f

/-- What a link loses when it falls out of service is lost to the receive buffers that held it too. -/
def State.loseLink (s : State) (l : Nat) : State :=
  let gone := (s.getLink l).vcq
  let s := s.modLink l Link.lose
  let s := s.each gone fun s e => s.freeFlits e.1 e.2
  s.each links fun s m => s.modLink m fun k => { k with vcq := k.vcq.map fun e => (e.1, e.2.map (TxFlit.untag l)) }

/-- What a failed link does (R342, R369): each member context of a launching or running partition floods ABORT for an internal link, whoever holds its
ticket, and the holder has L1 LINK_DOWN. -/
def failedLink (s : State) (l : Nat) : State :=
  let holder := s.linkHolder l
  let s := s.each slots fun s k =>
    let e := (s.getCtx k).part
    if (e.state = .prepared ∨ e.state = .committed) ∧ s.internal l e.origin e.extent then floodAbort s k 3 0 (some (s.farOf l)) else s
  match holder with
  | none => s
  | some k => against s .linkDown (srcLnk l) k l

/-- A link leaves the state it was in for DOWN or TRAINING (R342, R343). -/
def leaveUp (s : State) (l : Nat) (f : Link → Link) : State :=
  let up := (s.getLink l).isUp
  let s := ((s.loseLink l).modLink l f).chooseParent
  if up then failedLink s l else s

/-- A link goes DOWN (R341). -/
def goDown (s : State) (l reason : Nat) : State :=
  if (s.getLink l).state = .down then s
  else leaveUp s l fun x => { x with state := .down, phase := 0, reason := reason, downAt := s.time.mt }

/-- ROS on every lane of a link that the far end hears: an end that starts a retrain sends it, and one that follows answers with it (R324, R340). -/
def sendRos (s : State) (l : Nat) (full : Bool) : State := if (s.getLink l).isUp then s.emit (.ros l full) else s

/-- Full training starts from whatever state the link is in (R320, R343); polarity, reversal and the lane map are settled again (R321). -/
def startFull (s : State) (l : Nat) : State :=
  let s := leaveUp (sendRos s l true) l fun x => { x with
    state := .training, phase := 0, reversed := false, spares := 0, lost0 := 63, lost1 := 63, rx := [], tx := [], queuedTrain := false, wantFull := false }
  (s.addFld .lnkRetrains [l] 16 16 1).setBit .lnkCmdStatus [l] 9 false

/-- A retrain that starts is noted; the third within 1 s of the first of three takes the link DOWN (R341). -/
def noteRetrain (s : State) (l : Nat) (go : State → State) : State :=
  let starts := ((s.getLink l).starts.filter fun t => decide ((s.time.mt - t).toNat < 1250000000)) ++ [s.time.mt]
  let s := s.modLink l fun x => { x with starts := starts }
  if 3 ≤ starts.length then goDown s l 1 else go s

/-- A fast retrain starts (R324, R340): the causes are those of LAST_RETRAIN. -/
def startFast (s : State) (l cause : Nat) (leads : Bool) : State :=
  let x := s.getLink l
  if x.state = .up ∨ x.state = .degraded then
    noteRetrain s l fun s =>
      ((sendRos s l false).modLink l fun x => { x with
        state := .retrain, lastCause := cause, leads := leads, far0 := none, echo := none, txTimes := [],
        sreq := none, farReq := none, sat := none, farSat := none, badRun := 0 }).addFld .lnkRetrains [l] 0 16 1
  else s

/-- The far end asks a link in service for a full training, or starts one: a retrain of the kind PHASE 7 (R340, R341). -/
def followFull (s : State) (l : Nat) : State := noteRetrain s l fun s => startFull s l

/-! ### Lanes that fail (R337, R338) -/

/-- The spare that a receiver asks for: the lowest-numbered one unused and locked. -/
def freeSpare (d : KMap Lane) : Option Nat := [32, 33].find? fun q => (getLane d q).role == 1 && (getLane d q).lock

/-- An active receive lane fails: at full width the receiver asks for a spare, or waits for the swap that is pending; with none left, or at half
width, the link retrains with LANES_LOST, or goes DOWN with fewer than 16 good lanes. -/
def failLane (s : State) (l q : Nat) : State :=
  let s := s.modLink l fun x => { x with rx := modLane x.rx q fun y => { y with failing := true } }
  let x := s.getLink l
  match (if x.half then none else freeSpare x.rx) with
  | some p => if x.sreq.isNone then s.modLink l fun x => { x with sreq := some ((getLane x.rx q).logical, p) } else s
  | none =>
    if x.sreq.isSome ∨ x.sat.isSome ∨ x.farSat.isSome then s
    else
      let s := s.modLink l fun x => { x with rx := modLane x.rx q fun y => { y with role := 2, logical := 63, failing := false } }
      if (goodLanes (s.getLink l).rx (BitVec.allOnes 34)).length < 16 then goDown s l 4 else startFast s l 3 true

/-- The lane that fails and has no spare yet, where there is one. -/
def State.failing (s : State) (l : Nat) : Option Nat := lanesAll.find? fun q => (getLane (s.getLink l).rx q).failing

/-- The next failing lane asks for its spare, where the link is in service. -/
def nextFailing (s : State) (l : Nat) : State :=
  let x := s.getLink l
  if (x.state = .up ∨ x.state = .degraded) ∧ x.sreq.isNone then
    match s.failing l with
    | some q => failLane s l q
    | none => s
  else s

/-- What a lane check adds to a lane (R317, R329, R337): a mismatch of its logical lane, with which an active lane fails at THRESH in the window, or
the errors that a spare's sequence shows. -/
def Lane.check (y : Lane) (thresh : Nat) (mismatch : BitVec 32) (spareErrs : Nat) : Lane :=
  if y.role = 1 then { y with errs := satN 16 (y.errs + spareErrs) }
  else if y.logical < 32 ∧ mismatch.getLsbD y.logical then
    { y with errs := satN 16 (y.errs + 1), window := y.window + 1, failing := y.failing || decide (y.role = 0 ∧ thresh ≤ y.window + 1) }
  else y

/-- The lane check of a frame: the window is WINDOW × 64 frames; `spareErrs` are the errors of the sequences of lanes 32 and 33. -/
def laneCheck (s : State) (l : Nat) (mismatch : BitVec 32) (spareErrs : Nat × Nat) : State :=
  let x := s.getLink l
  if x.state = .up ∨ x.state = .degraded then
    let frames := 64 * s.fld .lnkLaneCtl [l] 16 16
    let thresh := s.fld .lnkLaneCtl [l] 0 16
    let s := s.modLink l fun x => { x with
      windowFn := x.windowFn + 1,
      rx := lanesAll.foldl (fun d q => modLane d q fun y => y.check thresh mismatch (if q = 32 then spareErrs.1 else spareErrs.2)) x.rx }
    let s := nextFailing s l
    if frames ≤ (s.getLink l).windowFn then
      s.modLink l fun x => { x with windowFn := 0, rx := lanesAll.foldl (fun d q => modLane d q fun y => { y with window := 0 }) x.rx }
    else s
  else s

def execLaneCheck (l : LinkIx) (mismatch : BitVec 32) (spareErrs : Nat × Nat) (s : State) : Host.Outcome State Fault Refusal :=
  .next (laneCheck s l.val mismatch spareErrs)

/-- A receive lane loses lock (R337): an active one fails; a spare can no longer be asked for. -/
def laneLockLoss (s : State) (l q : Nat) : State :=
  let x := s.getLink l
  if x.state = .up ∨ x.state = .degraded then
    let role := (getLane x.rx q).role
    let s := s.modLink l fun x => { x with rx := modLane x.rx q fun y => { y with lock := false, role := if y.role = 0 then 0 else if y.role = 3 then 3 else 2 } }
    if role = 0 ∧ (getLane x.rx q).logical ≠ 63 then failLane s l q else s
  else s

def execLaneLockLoss (l : LinkIx) (lane : Fin 34) (s : State) : Host.Outcome State Fault Refusal := .next (laneLockLoss s l.val lane.val)

/-- A logical lane moved onto a spare: the lane that carried it has failed. -/
def moveLane (d : KMap Lane) (j p : Nat) : KMap Lane :=
  let d := match laneOf d j with
    | some q => modLane d q fun y => { y with role := 2, logical := 63, window := 0, failing := false }
    | none => d
  modLane d p fun y => { y with role := 0, logical := j, window := 0 }

/-- At frame SAT_FN an end moves the logical lane onto the spare (R337): the transmitter as it announced, the receiver as the far transmitter
announced. -/
def laneSpared (s : State) (l : Nat) (transmit : Bool) : State :=
  let x := s.getLink l
  if x.state = .up ∨ x.state = .degraded then
    match (if transmit then x.sat else x.farSat) with
    | none => s
    | some (fn, j, p) =>
      if fnGe (if transmit then x.txFn else x.rxFn) fn then
        let old := (laneOf x.rx j).getD 63
        let s := s.modLink l fun x =>
          if transmit then { x with tx := moveLane x.tx j p, sat := none, farReq := none }
          else { x with rx := moveLane x.rx j p, farSat := none, sreq := none, spares := min 2 (x.spares + 1),
                        lost0 := if p = 32 then old else x.lost0, lost1 := if p = 33 then old else x.lost1 }
        nextFailing ((notice s .laneSpared (srcLnk l) l).addFld .lnkRetrains [l] 32 16 1) l
      else s
  else s

def execLaneSpared (l : LinkIx) (transmit : Bool) (s : State) : Host.Outcome State Fault Refusal := .next (laneSpared s l.val transmit)

/-! ### Equalisation (R322, R323) -/

/-- Manual taps of a transmit lane: MANUAL is set, and whether their magnitudes stay within 40 (R323). -/
def State.manualTaps (s : State) (l q : Nat) : Option Bool :=
  let w := KMap.get 0 (s.getLink l).txeq q
  let mag (lo : Nat) : Nat := (signedOf 6 (field w lo 6)).natAbs
  if bitOf w 0 then some (decide (mag 1 + mag 7 + mag 13 + mag 19 ≤ 40)) else none

/-- The preset that a transmit lane uses when it is asked for one: a reserved one gives preset 0 (R322). -/
def presetOf (n : Nat) : Nat := if n < 10 then n else 0

/-- The presets of the transmitter (R322): PRE2, PRE1, POST1, POST2 in 1/64 of full swing. -/
def presetTaps (n : Nat) : List Int :=
  ([[0, 0, 0, 0], [0, -4, 0, 0], [0, -8, 0, 0], [0, -12, 0, 0], [0, -8, -4, 0], [2, -10, -4, 0], [2, -12, -6, 0], [3, -14, -8, 0], [0, -6, -10, 0],
    [4, -16, -8, 0]] : List (List Int)).getD n [0, 0, 0, 0]

/-- The taps that a transmit lane uses (R322, R323): its manual ones where they stay within 40, else its preset's; MAIN takes what the others
leave of 64. PRE2, PRE1, MAIN, POST1, POST2. -/
def State.tapsOf (s : State) (l q : Nat) : List Int :=
  let w := KMap.get 0 (s.getLink l).txeq q
  let ts : List Int := match s.manualTaps l q with
    | some true => [1, 7, 13, 19].map fun lo => signedOf 6 (field w lo 6)
    | some false => presetTaps 0
    | none => presetTaps (getLane (s.getLink l).tx q).preset
  ts.take 2 ++ (64 - Int.ofNat (sumN (ts.map Int.natAbs))) :: ts.drop 2

/-- Manual taps take effect (R323, R40): a lane whose taps are too large transmits preset 0 and raises EQ_INVALID. -/
def applyTaps (s : State) (l : Nat) : State :=
  s.each lanesAll fun s q => match s.manualTaps l q with
    | some false => notice (s.modLink l fun x => { x with tx := modLane x.tx q fun y => { y with preset := 0 } }) .eqInvalid (srcLnk l) l
    | _ => s

/-- The receive preset of the widest eye, the lower index of equals (R322). -/
def bestPreset (eyes : List (Nat × Nat)) (d : Nat) : Nat :=
  ((eyes.foldl (fun b e => match b with
    | none => some e
    | some c => if c.2 < e.2 ∨ (c.2 = e.2 ∧ e.1 < c.1) then some e else some c) none).map Prod.fst).getD d

/-- The preset that a receive lane asks for next (R322): preset 5 on copper and 7 on optics in round 1, then the neighbours of the best one so far, up
and down, that it has not measured; none after four rounds, or after one where the preset is forced. -/
def State.nextPreset (s : State) (l : Nat) (eyes : List (Nat × Nat)) : Option Nat :=
  let forced := s.bit .lnkCtl [l] 3
  let best := bestPreset eyes 0
  let done (p : Nat) : Bool := eyes.any fun e => e.1 == p
  if eyes.isEmpty then some (if forced then s.fld .lnkCtl [l] 4 4 else if s.bit .lnkCtl [l] 2 then 7 else 5)
  else if forced ∨ 4 ≤ eyes.length then none
  else ([best + 1, best - 1].filter fun p => decide (p < 10) && !done p).head?

/-- What the end asks of the far transmitter's lane `j` (REQ_PRESET, R321): for the receive lane that hears it, the preset that won where it asks for
no other. -/
def State.reqPreset (s : State) (l j : Nat) : Nat :=
  match lanesAll.find? fun q => (getLane (s.getLink l).rx q).ident == j with
  | some q => let eyes := (getLane (s.getLink l).rx q).eyes; (s.nextPreset l eyes).getD (bestPreset eyes 0)
  | none => (s.nextPreset l []).getD 0

/-- Every lane that is heard has been through its rounds. -/
def State.roundsDone (s : State) (l : Nat) : Bool :=
  lanesAll.all fun q => let y := getLane (s.getLink l).rx q; y.ident == 63 || y.role == 2 || (s.nextPreset l y.eyes).isNone

/-! ### Full training (R320, R321) -/

/-- The link is the follower's when both ends start a retrain: the lower coordinate leads, on one chip the lower instance (R340). -/
def State.farLeads (s : State) (l : Nat) : Bool :=
  let x := s.getLink l
  if x.farCoord = s.self then decide (x.farInst < l) else decide (coordKey x.farCoord < coordKey s.self)

/-- A ROS from the far end (R324, R340, R345): the end follows the leader's kind; as the leader it goes on with its own. An end that has just begun a
full training follows the leader's fast retrain, and begins anew after it. -/
def rosReceive (s : State) (l : Nat) (full : Bool) : State :=
  let x := s.getLink l
  match x.state with
  | .up | .degraded => if full then followFull s l else startFast s l 6 false
  | .retrain =>
    if x.leads ∧ !s.farLeads l then s
    else if full then startFull s l
    else s.modLink l fun x => { x with leads := false }
  | .training =>
    if !full ∧ x.phase = 0 ∧ s.farLeads l then s.modLink l fun x => { x with state := .retrain, lastCause := 6, leads := false, wantFull := true } else s
  | .down => s

def execRosReceive (l : LinkIx) (full : Bool) (s : State) : Host.Outcome State Fault Refusal := .next (rosReceive s l.val full)

/-- The 16 bytes of a training sequence's number. -/
def seqBytes (n : Nat) : List Byte := leBytes 16 n

/-- A training sequence from its fields (R321): PHASE, LANE, COORD, INST, REQ_PRESET, CUR_PRESET, ACK and LPO, with its CRC. -/
def sequenceOf (fields : List (Nat × Nat)) : Nat :=
  let n := packN ((16, 0xF628) :: fields)
  n + 2 ^ 112 * (crc16 0xFFFF ((seqBytes n).take 14)).toNat

/-- What a physical lane of the end repeats in training (R321). ACK: the end is through with its phase, and has done what the far end has asked
for. -/
def State.trainingOut (s : State) (l q : Nat) : Nat :=
  let x := s.getLink l
  let heard := countP (fun i => (getLane x.rx i).ident != 63) lanesAll
  sequenceOf [(3, x.phase), (6, q), (15, s.self), (3, l), (4, s.reqPreset l q), (4, (getLane x.tx q).preset),
    (1, b2n (decide (x.phase ≠ 1 ∨ 16 ≤ heard) && (x.phase != 2 || s.roundsDone l))), (1, b2n (s.bit .lnkCtl [l] 2))]

/-- What a sequence says of the lane it arrives on (R321, R322): its number, its polarity, and in phase 2 the eye of a preset not yet measured. A lane
whose number fits neither order has failed. -/
def Lane.heard (y : Lane) (q n : Nat) (inv : Bool) (eye : Nat) (measures : Bool) : Lane :=
  let lane := fieldN n 19 6
  let cur := fieldN n 47 4
  { y with ident := lane, inverted := y.inverted != inv, eye := eye, preset := cur, role := (if lane = q ∨ lane = 33 - q then y.role else 2),
           eyes := if measures ∧ (y.eyes.all fun e => e.1 != cur) ∧ y.eyes.length < 4 then y.eyes ++ [(cur, eye)] else y.eyes }

/-- In phases 1 and 2 a sequence settles the lane's identity, the reversal, the far coordinate and instance and the presets (R321, R322, R342):
the end transmits what the far end asks for, and raises EQ_INVALID for a reserved preset that it has asked for itself. -/
def settle (s : State) (l q n : Nat) (inv : Bool) (eye : Nat) : State :=
  let x := s.getLink l
  let coord := fieldN n 25 15
  let inst := fieldN n 40 3
  let changed := x.farKnown && (x.farCoord != coord || x.farInst != inst)
  let measures := decide (x.phase = 2 ∧ fieldN n 16 3 = 2)
  let lane := fieldN n 19 6
  let forced := s.bit .lnkCtl [l] 3
  let asks := decide (lane < 34 ∧ fieldN n 16 3 = 2) && (s.manualTaps l lane).isNone
  let own := s.fld .lnkCtl [l] 4 4
  let odd := measures && (getLane x.rx q).eyes.isEmpty && forced && decide (10 ≤ own)
  let s := s.modLink l fun x => { x with rx := modLane x.rx q fun y => y.heard q n inv eye measures }
  let s := s.modLink l fun x => { x with
    reversed := decide (17 < countP (fun i => (getLane x.rx i).ident == 33 - i) lanesAll),
    farKnown := true, farCoord := coord, farInst := inst,
    tx := if asks then modLane x.tx lane fun y => { y with preset := presetOf (if forced then own else fieldN n 43 4) } else x.tx }
  let s := if odd then notice s .eqInvalid (srcLnk l) l else s
  if changed then s.setBit .lnkStatus [l] 26 true else s

/-- The phase that follows: DETECT ends with 16 lanes, and each later phase once the far end, at this phase or beyond, has acknowledged it; phase 2
not before the end's own rounds are over (R320). -/
def State.nextPhase (s : State) (l n : Nat) : Nat :=
  let x := s.getLink l
  if x.phase = 0 then b2n (decide (16 ≤ countP (fun i => (getLane x.rx i).ident != 63) lanesAll))
  else if fieldN n 51 1 = 1 ∧ x.phase ≤ fieldN n 16 3 ∧ x.phase < 5 ∧ (x.phase ≠ 2 ∨ s.roundsDone l) then x.phase + 1
  else x.phase

/-- A training sequence on a physical lane (R321): one whose CRC fails is ignored; SYNC 0x09D7 inverts the lane's polarity; PHASE 6 and 7 are ROS. The
end answers on its own lane. -/
def trainingSeq (s : State) (l q : Nat) (raw eye : Nat) : State :=
  let inv := decide (raw % 65536 = 0x09D7)
  let n := if inv then 2 ^ 128 - 1 - raw else raw
  let ok := decide (n % 65536 = 0xF628) && (crc16 0xFFFF ((seqBytes n).take 14)).toNat == n / 2 ^ 112
  if !ok then s
  else if 6 ≤ fieldN n 16 3 then rosReceive s l (fieldN n 16 3 == 7)
  else if (s.getLink l).state ≠ .training then s
  else
    let s := if (s.getLink l).phase ≤ 2 then settle s l q n inv eye else s
    let s := s.modLink l fun y => { y with phase := s.nextPhase l n }
    s.emit (.training l q (s.tapsOf l q) (s.trainingOut l q))

def execTrainingSequence (l : LinkIx) (lane : Fin 34) (seq : BitVec 128) (eye : Byte) (s : State) : Host.Outcome State Fault Refusal :=
  .next (trainingSeq s l.val lane.val seq.toNat eye.toNat)

/-- A width change (R339): L1 LINK_WIDTH against the holder; a running plan is frosted with LINK_DEGRADED in the same instant. -/
def widthChange (s : State) (l : Nat) : State :=
  let s := s.addFld .lnkRetrains [l] 48 16 1
  match s.linkHolder l with
  | none => s
  | some k =>
    let s := if (s.getCtx k).plan.state = .running then openFrost s k 1 l else s
    against s .linkWidth (srcLnk l) k l

/-- The lane map that a fast retrain keeps (R324): a lane that has not locked has failed, and an active one of them waits for a spare. -/
def keepLanes (d : KMap Lane) (good : BitVec 34) : KMap Lane :=
  lanesAll.foldl (fun d q => modLane d q fun z =>
    { z with lock := good.getLsbD q, window := 0, failing := decide (z.role = 0 ∧ z.logical < 32) && !good.getLsbD q,
             role := if z.role ≤ 1 ∧ !good.getLsbD q then 2 else z.role }) d

/-- The link comes up on the lanes that are good: at full width with 32 of them in each direction, else at half width and DEGRADED, else DOWN
(R320, R338). `keep` keeps the lane map of a fast retrain. -/
def comeUp (s : State) (l : Nat) (rxGood txGood : BitVec 34) (keep : Bool) : State :=
  let x := s.getLink l
  let nr := (goodLanes x.rx rxGood).length
  let nt := (goodLanes x.tx txGood).length
  let half := decide (nr < 32 ∨ nt < 32) || (keep && x.half)
  if nr < 16 ∨ nt < 16 then goDown s l 4
  else if half then
    let s := s.modLink l fun y => { y with
      state := if keep ∧ x.half ∧ x.halfOk then .up else .degraded, half := true, halfOk := keep && x.half && x.halfOk,
      rx := halfLanes y.rx rxGood, tx := halfLanes y.tx txGood }
    if x.half then s else widthChange s l
  else
    s.modLink l fun y => { y with
      state := .up, half := false, halfOk := false,
      rx := if keep then keepLanes y.rx rxGood else fullLanes y.rx rxGood,
      tx := if keep then y.tx else fullLanes y.tx txGood }

/-- Full training ends in phase 5 (R320): frame numbers start at 0, the replay buffer is empty, every credit counter stands at its buffer size, the
presets that won stand, and `rtt` ps is the first round trip. -/
def trainingComplete (s : State) (l : Nat) (rxGood txGood : BitVec 34) (rtt : Nat) : State :=
  if (s.getLink l).state = .training ∧ (s.getLink l).phase = 5 then
    let forced := s.bit .lnkCtl [l] 3
    let s := s.modLink l fun x => { x with
      phase := 0, txFn := 0, rxFn := 0, rxCur := 0, rxNext := 0, rxSeen := [], missing := [], nakAt := [], sent := [], sentCnt := [], credited := [],
      freed := [], rtts := [rtt], windowFn := 0, starts := x.starts,
      rx := lanesAll.foldl (fun d q => modLane d q fun y => { y with preset := bestPreset y.eyes y.preset, eyes := [] }) x.rx,
      tx := if forced then lanesAll.foldl (fun d q => modLane d q fun y => { y with preset := presetOf (s.fld .lnkCtl [l] 4 4) }) x.tx else x.tx }
    let s := comeUp (applyTaps s l) l rxGood txGood false
    let bad := (List.range 32).filter fun q => (getLane (s.getLink l).rx q).role == 2
    let put (p : Nat) : Nat := let y := getLane (s.getLink l).rx p; if y.role = 0 ∧ y.logical < 32 then y.logical else 63
    (if (s.getLink l).half then s else s.modLink l fun x => { x with spares := min 2 bad.length, lost0 := put 32, lost1 := put 33 }).chooseParent
  else s

def execTrainingComplete (l : LinkIx) (rxGood txGood : BitVec 34) (rtt : Nat) (s : State) : Host.Outcome State Fault Refusal :=
  .next (trainingComplete s l.val rxGood txGood rtt)

/-- Full training that has not completed ends with DOWN (R320). -/
def execTrainFail (l : LinkIx) (s : State) : Host.Outcome State Fault Refusal :=
  .next (if (s.getLink l.val).state = .training then goDown s l.val 3 else s)

/-- A fast retrain that has not completed becomes a full training (R324, R342). -/
def execFastRetrainTimeout (l : LinkIx) (s : State) : Host.Outcome State Fault Refusal :=
  .next (if (s.getLink l.val).state = .retrain then startFull s l.val else s)

/-- Signal lost on more than 16 lanes for 1 µs (R341). -/
def execSignalLoss (l : LinkIx) (s : State) : Host.Outcome State Fault Refusal := .next (goDown s l.val 5)

/-- AUTO_TRAIN (R342): 100 ms after an enabled link went DOWN. -/
def execAutoTrainRetry (l : LinkIx) (s : State) : Host.Outcome State Fault Refusal :=
  let x := s.getLink l.val
  let due := decide (125000000 ≤ (s.time.mt - x.downAt).toNat)
  .next (if x.state = .down ∧ s.bit .lnkCtl [l.val] 1 ∧ s.bit .lnkCtl [l.val] 0 ∧ due then startFull s l.val else s)

/-! ### Commands (R343, R347) -/

/-- A command of a link: from the management cores and the service processor alone. -/
def lnkCmd (s : State) (acc : Accessor) (l : Nat) (conds : List (Bool × Status)) (act : State → State) : State :=
  onBlock s (srcLnk l) fun s =>
    match firstOf ((!isLocal acc, .denied) :: conds) with
    | some st => s.finish .lnkCmdStatus [l] st
    | none => act s

/-- FULL_TRAIN (R343): BUSY under a LINK ticket; FORCE starts it all the same, and QUEUE lets it wait for the ticket. -/
def cmdFullTrain (s : State) (acc : Accessor) (l : Nat) (queue force : Bool) : State :=
  let held := (s.linkHolder l).isSome && !force
  lnkCmd s acc l [(held && !queue, .busy)] fun s =>
    if held then ((s.setFld .lnkCmdStatus [l] 0 8 Status.ok.code).setBit .lnkCmdStatus [l] 9 true).modLink l fun x => { x with queuedTrain := true }
    else startFull (s.finish .lnkCmdStatus [l] .ok) l

def execFullTrain (acc : Accessor) (l : LinkIx) (queue force : Bool) (s : State) : Host.Outcome State Fault Refusal :=
  .next (cmdFullTrain s acc l.val queue force)

/-- A queued full training starts once no context holds the ticket (R343). -/
def execQueuedFullTrainStart (l : LinkIx) (s : State) : Host.Outcome State Fault Refusal :=
  .next (if (s.getLink l.val).queuedTrain ∧ (s.linkHolder l.val).isNone then startFull (s.setBit .lnkCmdStatus [l.val] 8 true) l.val else s)

/-- FAST_RETRAIN is accepted at any time (R343); on a link that carries no frames it starts nothing. -/
def cmdFastRetrain (s : State) (acc : Accessor) (l : Nat) : State := lnkCmd s acc l [] fun s => startFast (s.finish .lnkCmdStatus [l] .ok) l 5 true

def execFastRetrain (acc : Accessor) (l : LinkIx) (s : State) : Host.Outcome State Fault Refusal := .next (cmdFastRetrain s acc l.val)

/-- ACCEPT_HALF (R339): a DEGRADED end becomes UP at half width. -/
def cmdAcceptHalf (s : State) (acc : Accessor) (l : Nat) : State :=
  lnkCmd s acc l [((s.getLink l).state != .degraded, .rejected)] fun s =>
    (s.modLink l fun x => { x with state := .up, halfOk := true }).finish .lnkCmdStatus [l] .ok

def execAcceptHalf (acc : Accessor) (l : LinkIx) (s : State) : Host.Outcome State Fault Refusal := .next (cmdAcceptHalf s acc l.val)

/-- A write of LNK_CTL (R347): clearing ENABLE under a LINK ticket is refused, and the field keeps 1; else it takes the link DOWN with DISABLED. -/
def ctlWrite (s : State) (l : Nat) (v : Word) : State :=
  let off := s.bit .lnkCtl [l] 0 && !bitOf v 0
  let held := (s.linkHolder l).isSome
  let s := s.setFld .lnkCtl [l] 0 8 (if off && held then v.toNat % 256 + 1 else v.toNat % 256)
  if off then (if held then s.finish .lnkCmdStatus [l] .busy else goDown s l 7) else s

def execLinkDisable (_acc : Accessor) (l : LinkIx) (value : Word) (s : State) : Host.Outcome State Fault Refusal :=
  .next (onBlock s (srcLnk l.val) fun s => ctlWrite s l.val value)

end Sys2Proof.Machine
end

