-- ==== Sys2Proof/Machine/Clocks.lean ====
section
/-! DEFINITION. Region steps, margin and voltage, multiplexers, gating, power states and measurement (R377 to R399). -/

namespace Sys2Proof.Machine

/-! ### Ticks and thresholds (R384, R385) -/

/-- Microseconds in reference ticks. -/
def usRef (us : Nat) : Nat := 1250 * us

/-- WARN of a region, or of the mesh as region 16: EFF_WARN (R384, R39). -/
def State.warn (s : State) (r : Nat) : Nat :=
  (clampI 0 63 ((KMap.get 0 s.fuses.warn r : Nat) + signedOf 8 (s.fld .clkMarginCal [r] 8 8))).toNat

/-- RECOVER. -/
def State.recover (s : State) (r : Nat) : Nat := min 63 (s.warn r + s.fld .clkMarginCtl [] 4 4)

/-- HOLD in ticks. -/
def State.hold (s : State) : Nat := usRef (s.fld .clkMarginCtl [] 8 20)

/-- SETTLE in ticks. -/
def State.settle (s : State) : Nat := usRef (max 1 (s.fld .clkMarginCtl [] 28 8))

/-- TRIP in °C (R399). -/
def State.trip (s : State) : Nat := min 0x73 (s.fld .clkTherm [] 8 8)

/-- VOUT as the procedure of R385 sees it. -/
def State.vout (s : State) : Nat := if s.clk.avsMax then s.fuses.vmax else s.clk.vout

/-- SETTLE has passed since the last voltage request. -/
def State.settled_ (s : State) : Bool := match s.clk.lastVreq with
  | some t => decide (t + s.settle ≤ s.time.refTicks)
  | none => true

/-- A tick from which HOLD has passed. -/
def State.held (s : State) (from_ : Option Nat) : Bool := match from_ with
  | some t => decide (t + s.hold ≤ s.time.refTicks)
  | none => false

/-! ### Steps (R379) -/

/-- The synthesizer that is not current. -/
def Region.other (x : Region) : ClkSrc := if x.current = .main then .alt else .main

/-- A step down by one index: the multiplexer is asked for the standby. -/
def stepDown (s : State) (r cause : Nat) : State :=
  s.modRegionClk r fun x =>
    if x.mux = .stable ∧ x.locked ∧ x.step < 7 then { x with mux := .switching, want := some { src := x.other, step := x.standby, cause := cause } } else x

/-- An emergency drop to HALF; during a switch it follows when that ends (R397). -/
def drop (s : State) (r cause : Nat) : State :=
  let x := s.getRegionClk r
  if !x.pllOn ∨ x.src = .half then s
  else
    let s := s.addFld .clkRegionEvents [r] 0 32 1
    s.modRegionClk r fun x =>
      if x.mux = .stable then { x with mux := .switching, want := some { src := .half, step := 7, cause := cause }, climbing := false }
      else { x with after := some cause, climbing := false }

/-- FREQ_ADVISORY to the neighbours of every context with tiles in the region and a plan that is not IDLE (R388). -/
def advise (s : State) (r old new cause : Nat) : State :=
  let ks := slots.filter fun k => (s.getCtx k).plan.state != .idle && (s.getCtx k).tiles.any fun t => regionOf t == r
  let body := leBytes 1 r ++ leBytes 1 old ++ leBytes 1 new ++ leBytes 1 cause ++ leBytes 8 s.mtN
  s.each ks fun s k => s.each (s.getCtx k).links fun s l => sendMachineOn s l 5 2 body

/-- The switch under way completes (R379, R380): the roles of the synthesizers exchange and the new standby relocks; a drop that waits begins. -/
def finishSwitch (s : State) (r : Nat) : State :=
  let x := s.getRegionClk r
  match x.want with
  | none => s.modRegionClk r fun x => { x with mux := .stable }
  | some w =>
    let s := s.modRegionClk r fun x => { x with
      mux := .stable, want := none, after := none, climbing := false, src := w.src, step := w.step, goodFrom := none,
      current := if w.src = .half then x.current else w.src, standby := standbyFor w.step,
      locked := w.src == .half && x.locked && x.standby == 7 }
    let s := if w.src = .half then s
      else if x.step < w.step then s.addFld .clkRegionSteps [r] 0 32 1 else s.addFld .clkRegionSteps [r] 32 32 1
    let s := advise s r x.step w.step w.cause
    match x.after with
    | some c => if w.src = .half then s
      else s.modRegionClk r fun x => { x with mux := .switching, want := some { src := .half, step := 7, cause := c } }
    | none => s

/-- A region slower than it may be because CAP was written goes on down, one index at a time (R386). -/
def capDown (s : State) (r : Nat) : State :=
  let x := s.getRegionClk r
  if x.pllOn ∧ x.step < s.fld .clkCap [] 0 3 then stepDown s r 4 else s

/-- The standby synthesizer locks (R379): a step up that waited for it switches; a region above CAP steps down. -/
def execSynthLock (r : RegionIx) (s : State) : Host.Outcome State Fault Refusal :=
  let x := s.getRegionClk r.val
  .next (if !x.pllOn ∨ x.locked then s
    else
      let s := s.modRegionClk r.val fun x => { x with locked := true }
      if x.climbing ∧ x.mux = .stable then
        s.modRegionClk r.val fun x => { x with mux := .switching, want := some { src := x.other, step := x.standby, cause := 5 } }
      else capDown s r.val)

/-- A region that has held RECOVER for HOLD relocks its standby one step faster (R386). -/
def execStepUp (r : RegionIx) (s : State) : Host.Outcome State Fault Refusal :=
  let x := s.getRegionClk r.val
  .next (if x.pllOn ∧ x.mux = .stable ∧ !x.climbing ∧ s.fld .clkCap [] 0 3 < x.step ∧ s.held x.goodFrom then
    s.modRegionClk r.val fun x => { x with standby := x.step - 1, locked := false, climbing := true } else s)

/-- CLK_CAP (R386, R397): regions faster than CAP step down; an upward relock past it is abandoned. -/
def capWrite (s : State) (v : Word) : State :=
  let cap := v.toNat % 8
  let s := s.setFld .clkCap [] 0 3 cap
  s.each (List.range 16) fun s r =>
    let x := s.getRegionClk r
    let s := if x.climbing ∧ x.standby < cap then
      s.modRegionClk r fun x => { x with climbing := false, standby := standbyFor x.step, locked := false } else s
    capDown s r

def execCapWrite (acc : Accessor) (value : Word) (s : State) : Host.Outcome State Fault Refusal :=
  .next (onBlock s srcClk fun s => if isLocal acc then capWrite s value else s)

/-- A synthesizer loses lock (R383). -/
def pllUnlock (s : State) (r : Nat) (current : Bool) : State :=
  let x := s.getRegionClk r
  if !x.pllOn then s
  else if current then
    let s := notice s .clkPllUnlock srcClk
    (drop s r 6).modRegionClk r fun y =>
      if x.src = .main ∨ x.src = .alt then { y with current := x.other, standby := 7, locked := false } else y
  else s.modRegionClk r fun x => { x with locked := false }

def execClkPllUnlock (r : RegionIx) (current : Bool) (s : State) : Host.Outcome State Fault Refusal := .next (pllUnlock s r.val current)

/-! ### Margin (R385 to R387) -/

/-- A voltage request. -/
def avsWrite (s : State) (v : Nat) : State := s.modClk fun c => { c with vout := v, avsMax := false, lastVreq := some s.time.refTicks }

/-- R385 for one region, or for the mesh as region 16. -/
def judge (s : State) (r : Nat) : State :=
  let x := s.getRegionClk r
  let margin := if r = 16 then s.clk.meshMargin else x.margin
  let low := decide (margin < s.warn r)
  let hot := r != 16 && decide (s.fld .clkTherm [] 0 8 ≤ x.temp)
  if (!low && !hot) ∨ (r ≠ 16 ∧ !x.pllOn) then s
  else if low && decide (s.vout < s.fuses.vmax) && s.settled_ then avsWrite s (min (s.vout + 5) s.fuses.vmax)
  else if r ≠ 16 ∧ (hot ∨ (s.fuses.vmax ≤ s.vout ∧ s.settled_)) then stepDown s r (if hot then 3 else 1)
  else s

/-- Since when a margin is at RECOVER or better. -/
def stillGood (good : Bool) (since : Option Nat) (now : Nat) : Option Nat := if good then some (since.getD now) else none

/-- The samples of a microsecond recorded (R384). -/
def takeSamples (s : State) (margins : List Nat) (temps : List Nat) : State :=
  let now := s.time.refTicks
  let s := s.each (List.range 16) fun s r =>
    let m := margins.getD r 63
    let t := temps.getD r 0
    let good := decide (s.recover r ≤ m ∧ t < s.fld .clkTherm [] 0 8)
    (s.modRegionClk r fun x => { x with margin := m, temp := t, goodFrom := stillGood good x.goodFrom now }).setFld .clkRegionMinm [r] 0 6
      (min m (s.fld .clkRegionMinm [r] 0 6))
  let m := margins.getD 16 63
  s.modClk fun c => { c with meshMargin := m, meshGood := stillGood (decide (s.recover 16 ≤ m)) c.meshGood now }

/-- VOUT is lowered once everything has been good for HOLD, at most once per HOLD (R386). -/
def lowerVout (s : State) : State :=
  let all := (List.range 16).all fun r =>
    let x := s.getRegionClk r
    !x.pllOn || (x.step == s.fld .clkCap [] 0 3 && s.held x.goodFrom)
  if all && s.held s.clk.meshGood && decide (s.clk.lowered + s.hold ≤ s.time.refTicks) && decide (s.fuses.vnom < s.vout) then
    (avsWrite s (max (s.vout - 5) s.fuses.vnom)).modClk fun c => { c with lowered := s.time.refTicks }
  else s

/-- MARGIN_SAMPLE: the samples of the regions and of the mesh, and what R385 makes of them. -/
def execMarginSample (margins : List (BitVec 6)) (temps : List Byte) (s : State) : Host.Outcome State Fault Refusal :=
  let s := takeSamples s (margins.map BitVec.toNat) (temps.map BitVec.toNat)
  .next (lowerVout (s.each (List.range 17) judge))

/-- Slack below CRIT: a region drops to HALF; the mesh raises L2 MESH_MARGIN (R385, R387). -/
def execCritMargin (r : Fin 17) (s : State) : Host.Outcome State Fault Refusal :=
  .next (if r.val = 16 then notice s .meshMargin srcClk else drop s r.val 2)

/-- A region at TRIP raises L2 THERMAL_TRIP (R387). -/
def execThermalTrip (r : RegionIx) (s : State) : Host.Outcome State Fault Refusal :=
  .next (if s.trip ≤ (s.getRegionClk r.val).temp then notice s .thermalTrip srcClk else s)

/-- A regulator that does not acknowledge (R385). -/
def execAvsFail (s : State) : Host.Outcome State Fault Refusal :=
  .next (notice ((s.setBit .clkVolt [] 48 true).modClk fun c => { c with avsMax := true }) .avsFail srcClk)

/-- A FREQ_ADVISORY from a neighbour is recorded and counted (R388). -/
def actAdvisory (s : State) (l region step cause : Nat) : State :=
  let n := s.fld .clkAdv [] 32 32
  s.setRg .clkAdv [] (pack [(0, 3, l), (3, 4, region), (7, 3, step), (10, 3, cause), (32, 32, satN 32 (n + 1))])

def execFreqAdvisory (l : LinkIx) (region : BitVec 4) (_oldStep newStep : BitVec 3) (cause : BitVec 3) (s : State) : Host.Outcome State Fault Refusal :=
  .next (actAdvisory s l.val region.toNat newStep.toNat cause.toNat)

/-! ### Multiplexers (R380, R381, R399) -/

/-- A multiplexer other than a region's completes its switch. -/
def settleMux (s : State) (sp : Bool) : State :=
  if sp then
    (s.modClk fun c => { c with spMux := .stable }).setBit .clkStatus [] 5 (s.bit .clkSpMux [] 0)
  else s.modClk fun c => { c with mgtMux := .stable }

def execMuxSwitch (m : MuxId) (s : State) : Host.Outcome State Fault Refusal :=
  .next (match m with
    | .region r => if (s.getRegionClk r.val).mux = .stable then s else finishSwitch s r.val
    | .mgt => if s.clk.mgtMux = .switching then settleMux s false else s
    | .sp => if s.clk.spMux = .switching then settleMux s true else s)

/-- A switch that has not begun after 10 µs (R381): a region's is forced, the service processor's goes to the oscillator, the management one waits for
FORCE. -/
def execClkMuxHung (m : MuxId) (s : State) : Host.Outcome State Fault Refusal :=
  .next (match m with
    | .region r =>
      if (s.getRegionClk r.val).mux = .switching then
        (notice (s.modRegionClk r.val fun x => { x with mux := .hung }) .clkMuxHung srcClk).addFld .clkRegionEvents [r.val] 32 32 1
      else s
    | .mgt => if s.clk.mgtMux = .switching then notice (s.modClk fun c => { c with mgtMux := .hung }) .clkMuxHung srcClk else s
    | .sp => if s.clk.spMux = .switching then notice (settleMux (s.setBit .clkSpMux [] 0 false) true) .clkMuxHung srcClk else s)

/-- A forced switch whose source gives no edges either (R381): HALF, and L1 CLK_SOURCE_DEAD against every context with tiles in the region. -/
def execClkSourceDead (r : RegionIx) (s : State) : Host.Outcome State Fault Refusal :=
  let x := s.getRegionClk r.val
  .next (if x.mux = .hung then
    let cause := (x.want.map Switch.cause).getD 6
    let s := finishSwitch (s.modRegionClk r.val fun x => { x with want := some { src := .half, step := 7, cause := cause } }) r.val
    raiseGroup s .clkSourceDead srcClk 0 (slots.filter fun k => (s.getCtx k).tiles.any fun t => regionOf t == r.val)
  else s)

/-- CLK_MGT_MUX (R399): a new SRC asks for a switch; FORCE ends a hang. -/
def mgtMuxWrite (s : State) (v : Word) : State :=
  let old := s.bit .clkMgtMux [] 0
  let s := s.setBit .clkMgtMux [] 0 (bitOf v 0)
  if s.clk.mgtMux = .hung then (if bitOf v 3 then settleMux s false else s)
  else if old != bitOf v 0 then s.modClk fun c => { c with mgtMux := .switching } else s

def execMgtMuxSwitch (acc : Accessor) (value : Word) (s : State) : Host.Outcome State Fault Refusal :=
  .next (onBlock s srcClk fun s => if isLocal acc then mgtMuxWrite s value else s)

/-- FORCE written with the source that was asked for. -/
def execMgtMuxForce (acc : Accessor) (s : State) : Host.Outcome State Fault Refusal :=
  .next (onBlock s srcClk fun s => if isLocal acc then mgtMuxWrite s (pack [(0, 1, b2n (s.bit .clkMgtMux [] 0)), (3, 1, 1)]) else s)

/-- CLK_SP_MUX. -/
def spMuxWrite (s : State) (v : Word) : State :=
  let old := s.bit .clkSpMux [] 0
  let s := s.setBit .clkSpMux [] 0 (bitOf v 0)
  if old != bitOf v 0 then s.modClk fun c => { c with spMux := .switching } else s

def execSpMuxSwitch (acc : Accessor) (value : Word) (s : State) : Host.Outcome State Fault Refusal :=
  .next (onBlock s srcClk fun s => if isLocal acc then spMuxWrite s value else s)

/-! ### Gating (R389 to R392) -/

/-- What a gate command answers: a status and the node that refused. -/
def gateAnswer (s : State) (st : Status) (blocker : Nat) : State := (s.finish .clkGateStatus [] st).setFld .clkGateStatus [] 10 10 blocker

/-- The tile does something, or holds something, that the command would take away (R391). -/
def State.tileControlled (s : State) (t : Nat) : Bool :=
  let x := s.getTile t
  let run := match x.ctx with
    | some i => x.state == .granted && (let p := (s.getCtx i.slot).plan.state; p != .idle && p != .ended)
    | none => false
  run || x.state == .bist

/-- A tile goes to a power state: DEEP loses what R389 says, OFF everything. -/
def powerTile (s : State) (t : Nat) (p : Power) : State :=
  let s := if p = .off then s else s.pllStart (regionOf t)
  let s := if (s.getTile t).power = .off ∨ p = .off then
      let x := s.getTile t
      (s.clearTile t).modTile t fun y => { y with bank := x.bank, unclear := x.unclear }
    else s
  s.modTile t fun x =>
    let x := { x with power := p, waking := false, wakeAt := none }
    if p = .deep then { x with acc := [], accHeld := false, stationary := [], masks := [] } else x

/-- The lowest tile of a region that is not OFF. -/
def State.tileOn (s : State) (r : Nat) : Option Nat := (regionTiles r).find? fun t => (s.getTile t).power != .off || (s.getTile t).state == .bist

/-- A region's PLL stops. -/
def pllStop (s : State) (r : Nat) : State := s.modRegionClk r fun x => { margin := x.margin, temp := x.temp }

/-- CLK_GATE_CMD on a node (R391): action 0 RUN or ON, 1 SLEEP, 2 DEEP, 3 OFF. -/
def gate (s : State) (acc : Accessor) (node action : Nat) : State :=
  onBlock s srcClk fun s =>
    let refused (b : Option Nat) (act : State → State) : State := match b with
      | some n => gateAnswer s .busy n
      | none => gateAnswer (act s) .ok 0
    let gone := (decide (node < 0x240) && s.absent (srcTile node)) || (decide (0x250 ≤ node ∧ node < 0x254) && s.absent (srcVlt (node - 0x250)))
    if gone then gateAnswer s .absent 0
    else if !isLocal acc then gateAnswer s .denied 0
    else if node < 0x240 then
        refused (if s.tileControlled node || (action == 3 && (s.getTile node).state == .granted) then some node else none)
          fun s => powerTile s node (if action = 0 then .run else if action = 1 then .sleep else if action = 2 then .deep else .off)
    else if action = 1 ∨ action = 2 then gateAnswer s .rejected 0
    else if node < 0x250 then
      let r := node - 0x240
      if action = 0 then gateAnswer (s.pllStart r) .ok 0 else refused (s.tileOn r) fun s => pllStop s r
    else if node < 0x254 then
      let v := node - 0x250
      if action = 0 then gateAnswer (s.modClk fun c => { c with vengOff := c.vengOff.filter (· != v) }) .ok 0
      else
        refused (if ((s.getVault v).groups.any fun e => e.2.isSome) || (s.getVault v).mode != .service then some node else none)
          fun s => s.modClk fun c => { c with vengOff := v :: c.vengOff.filter (· != v) }
    else if node = 0x25F then
      if action = 0 then gateAnswer ((s.modClk fun c => { c with meshOff := false }).setBit .clkStatus [] 1 true) .ok 0
      else
        refused (match (List.range 16).find? fun r => (s.getRegionClk r).pllOn with
            | some r => some (0x240 + r)
            | none => if links.any fun l => (s.getLink l).state != .down then some node else none)
          fun s => (s.modClk fun c => { c with meshOff := true }).setBit .clkStatus [] 1 false
    else gateAnswer s .rejected 0

def execGateRun (acc : Accessor) (node : BitVec 10) (s : State) : Host.Outcome State Fault Refusal := .next (gate s acc node.toNat 0)
def execGateSleep (acc : Accessor) (node : BitVec 10) (s : State) : Host.Outcome State Fault Refusal := .next (gate s acc node.toNat 1)
def execGateDeep (acc : Accessor) (node : BitVec 10) (s : State) : Host.Outcome State Fault Refusal := .next (gate s acc node.toNat 2)
def execGateOff (acc : Accessor) (node : BitVec 10) (s : State) : Host.Outcome State Fault Refusal := .next (gate s acc node.toNat 3)

/-- FABRIC_OFF (R392): with no tile GRANTED, region PLLs, tiles and vault engines lose power. -/
def fabricOff (s : State) (acc : Accessor) : State :=
  onBlock s srcClk fun s =>
    if !isLocal acc then gateAnswer s .denied 0
    else match (List.range 576).find? fun t => (s.getTile t).state == .granted with
      | some t => gateAnswer s .busy t
      | none =>
        let s := s.each (List.range 576) fun s t => if (s.getTile t).power = .off then s else powerTile s t .off
        let s := s.each (List.range 16) pllStop
        gateAnswer (s.modClk fun c => { c with pstate := 1, vengOff := List.range 4 }) .ok 0

def execFabricOff (acc : Accessor) (s : State) : Host.Outcome State Fault Refusal := .next (fabricOff s acc)

/-- FABRIC_ON (R392). -/
def fabricOn (s : State) (acc : Accessor) : State :=
  onBlock s srcClk fun s =>
    if !isLocal acc then gateAnswer s .denied 0
    else gateAnswer (if s.clk.pstate = 1 then s.operational.modClk fun c => { c with vengOff := [] } else s) .ok 0

def execFabricOn (acc : Accessor) (s : State) : Host.Outcome State Fault Refusal := .next (fabricOn s acc)

/-- A region's PLL stops 1 ms after its last tile became OFF (R390). -/
def execRegionPllStop (r : RegionIx) (s : State) : Host.Outcome State Fault Refusal :=
  .next (if (s.tileOn r.val).isNone then pllStop s r.val else s)

/-! ### The reference and measurement (R394, R395) -/

/-- A reference window: `edges` is the count, none where no edge came for 1 µs (R394). -/
def refCheck (s : State) (edges : Option Nat) : State :=
  let good := match edges with
    | some n => decide (n ≤ 15628 ∧ 15622 ≤ n)
    | none => false
  if good then s.setBit .clkStatus [] 0 true
  else if s.bit .clkStatus [] 0 then
    let s := notice (s.setBit .clkStatus [] 0 false) .refLoss srcClk
    s.each links fun s l => goDown s l 6
  else s

def execRefCheck (edges : Option Nat) (s : State) : Host.Outcome State Fault Refusal := .next (refCheck s edges)

/-- CLK_FMEAS_CTL: START begins a measurement. -/
def fmeasWrite (s : State) (v : Word) : State :=
  let s := (s.setFld .clkFmeasCtl [] 0 5 (field v 0 5)).setFld .clkFmeasCtl [] 6 20 (field v 6 20)
  if bitOf v 5 then s.modClk fun c => { c with measuring := true } else s

def execFmeasStart (acc : Accessor) (value : Word) (s : State) : Host.Outcome State Fault Refusal :=
  .next (onBlock s srcClk fun s => if isLocal acc then fmeasWrite s value else s)

/-- A measurement ends with its count; a reserved SEL measures nothing. -/
def execFmeasDone (count : BitVec 40) (s : State) : Host.Outcome State Fault Refusal :=
  .next (if s.clk.measuring then
    let n := if 23 ≤ s.fld .clkFmeasCtl [] 0 5 then 0 else count.toNat
    ((s.setFld .clkFmeasRes [] 0 40 n).setBit .clkFmeasRes [] 40 true).modClk fun c => { c with measuring := false }
  else s)

end Sys2Proof.Machine
end

