-- ==== Sys2Proof/Machine/MemCode.lean ====
section
/-! DEFINITION. What a read of memory finds: the memory code of HBM (R241 to R247), poison of CXL memory (R252), and the access counts
of pages (R257). -/

namespace Sys2Proof.Machine

/-! ### Owners -/

/-- The context that holds a frame: as memory, header, save area, penalty history, or through an exchange in flight (R246, R261). -/
def State.frameOwner (s : State) (f : FrameId) : Option Nat :=
  match slots.find? fun k => let c := s.getCtx k; c.hbm.contains f || c.cxl.contains f || c.header.contains f || c.saveFr.contains f || c.quotaFr.contains f with
  | some k => some k
  | none => (s.mor.exchanges.find? fun x => f.cxl && f.unit == x.port && f.frame == x.bounce && s.live x.ctx).map fun x => x.ctx.slot

/-- The stack, frame and offset in it of a management memory address (R239, R416): the carve-outs of the stacks one after another (log
entry 19). -/
def carveFrame (addr : Nat) : FrameId × Nat :=
  let o := addr - 0x1000000000
  ({ unit := o / 2147483648, frame := grantFrames + o % 2147483648 / pageBytes }, o % pageBytes)

/-! ### Corrected and uncorrectable words -/

/-- A corrected word (R243): counted, and noticed; a frame that no ticket holds and whose count passes MEM_CE_LIMIT is retired (R247). -/
def memCe (s : State) (m frame : Nat) : State :=
  let s := s.addFld .memCe [m] 0 32 1
  let s := s.modHbm m fun h => { h with frames := KMap.upd {} h.frames frame fun i => { i with ce := i.ce + 1 } }
  let owner := s.frameOwner { unit := m, frame := frame }
  let s := raise s { cause := .memCe, source := srcMem m, ctx := owner }
  let i := KMap.get ({} : FrameInfo) (s.getHbm m).frames frame
  if frame < grantFrames ∧ !i.held ∧ s.fld .memCeLimit [m] 0 16 < i.ce then s.retireFrame m frame else s

/-- MEM_UE_LOG latches the first uncorrectable word since VALID was cleared. -/
def State.latchMem (s : State) (m off : Nat) (owner : Option Nat) (mgt scrub : Bool) : State :=
  if s.bit .memUeLog [m] 63 then s
  else s.setRg .memUeLog [m] (pack [(0, 36, off), (36, 16, (owner.map fun k => (s.idOf k).toNat).getD 0), (52, 1, b2n mgt), (53, 1, b2n scrub),
    (63, 1, 1)])

/-- Who reads a word of memory: a plan or an engine (R245), the scrubber (R244), a Moraine copy or a management core (R246). -/
inductive Reader where
  | plan | scrub | copy | core
deriving DecidableEq, Repr

/-- An uncorrectable HBM word at a stack byte offset (R245, R246): L1 MEM_UE against the context that holds the frame; a free frame is
retired with L0 MEM_CE; a word that a management core reads, and one of the carve-out, raises L0 MEM_UE_MGT, one of the carve-out that the
scrubber finds L0 MEM_CE (log entry 19). -/
def memUe (s : State) (m off : Nat) (who : Reader) : State :=
  let frame := off / pageBytes
  let owner := s.frameOwner { unit := m, frame := frame }
  let s := s.latchMem m off owner (decide (grantFrames ≤ frame ∨ who = .core)) (who == .scrub || who == .copy)
  let detail := (s.rg .memUeLog [m]).toNat
  if grantFrames ≤ frame then notice s (if who = .scrub then .memCe else .memUeMgt) (srcMem m) detail
  else
    let s := s.modHbm m fun h => { h with frames := KMap.upd {} h.frames frame fun i => { i with ue := true } }
    match owner with
    | some k => if who = .core then notice s .memUeMgt (srcMem m) detail else against s .memUe (srcMem m) k detail
    | none => (notice s .memCe (srcMem m)).retireFrame m frame

/-- A poisoned read at a device physical address (R252). -/
def cxlPoison (s : State) (p addr : Nat) (owner : Option Nat) : State :=
  let s := s.addFld .cxlPoison [p] 0 32 1
  let s := if s.bit .cxlPoisonLog [p] 63 then s
    else s.setRg .cxlPoisonLog [p] (pack [(0, 41, addr), (41, 16, (owner.map fun k => (s.idOf k).toNat).getD 0), (63, 1, 1)])
  match owner with
  | some k => against s .cxlPoison (srcCxl p) k (s.rg .cxlPoisonLog [p]).toNat
  | none => s

/-! ### The decoder (R242) -/

/-- What the decoder may make of a word. -/
inductive Fate where
  | clean | corrected | lost | open_
deriving DecidableEq, Repr

/-- The outcome by mode and number of corrupted symbols (R242); beyond the mode's power it is open. -/
def fateOf (mode1 : Bool) (n : Nat) : Fate :=
  if n = 0 then .clean
  else if mode1 then (if n ≤ 2 then .corrected else .open_)
  else if n = 1 then .corrected
  else if n ≤ 3 then .lost
  else .open_

/-- The outcome with an open case decided by a free value: reported uncorrectable, or miscorrected without notice. -/
def State.fate (s : State) (mode1 : Bool) (n : Nat) : Fate × State :=
  match fateOf mode1 n with
  | .open_ => let (w, s) := s.draw; (if bitOf w 0 then .lost else .open_, s)
  | f => (f, s)

/-- The findings of a list on the words of a range: the word's offset in the range and its corrupted symbols. -/
def Findings.within (l : List (Nat × Nat)) (at_ n : Nat) : List (Nat × Nat) :=
  (l.filter fun e => decide (at_ ≤ e.1 ∧ e.1 < at_ + n)).map fun e => (e.1 - at_, e.2)

/-- Bytes of an HBM frame replaced: those of the carve-out are management memory. -/
def State.wordWrite (s : State) (f : FrameId) (off : Nat) (bs : List Byte) : State :=
  if grantFrames ≤ f.frame then s.mgtWrite (0x1000000000 + f.unit * 2147483648 + (f.frame - grantFrames) * pageBytes + off) bs else s.frameWrite f off bs

/-- A list of found words of an HBM frame decoded in turn: corrected, uncorrectable (the read stops there unless the scrubber reads), or miscorrected,
whose word then holds free bytes. True when some word was uncorrectable. -/
def codeWords (s : State) (f : FrameId) (who : Reader) : List (Nat × Nat) → Bool × State
  | [] => (false, s)
  | (off, n) :: r =>
    let (fate, s) := s.fate (s.bit .memCode [f.unit] 0) n
    match fate with
    | .clean => codeWords s f who r
    | .corrected => codeWords (memCe s f.unit f.frame) f who r
    | .open_ =>
      let (bs, s) := s.drawBytes 32
      codeWords (s.wordWrite f (off / 32 * 32) bs) f who r
    | .lost =>
      let s := memUe s f.unit (f.frame * pageBytes + off / 32 * 32) who
      if who = .scrub then (true, (codeWords s f who r).2) else (true, s)

/-- A read of `n` bytes of a frame from offset `off`; `found` lists its findings by address, which is `at_` at the first byte. True when
the read delivers nothing. -/
def readFrame (s : State) (f : FrameId) (off n at_ : Nat) (found : Findings) (who : Reader) : Bool × State :=
  if f.cxl then
    match found.poison.find? fun a => decide (at_ ≤ a ∧ a < at_ + n) with
    | some a => (true, cxlPoison s f.unit (f.frame * pageBytes + off + (a - at_)) (s.frameOwner f))
    | none => (false, s)
  else codeWords s f who ((Findings.within found.syms at_ n).map fun e => (off + e.1, e.2))

/-- A transfer of a context's addresses (R245): every page's words are decoded; true when it delivers nothing. Findings are listed by
the context's addresses. -/
def readPages (s : State) (k : Nat) (found : Findings) (who : Reader) : List (Nat × Nat) → Bool × State
  | [] => (false, s)
  | (va, n) :: r =>
    match s.pte k va with
    | some { frame := some f, .. } =>
      match readFrame s f (va % pageBytes) n va found who with
      | (true, s) => (true, s)
      | (false, s) => readPages s k found who r
    | _ => readPages s k found who r

/-- The pages that ranges of addresses touch, each once. -/
def touched (rs : List (Nat × Nat)) : List Nat :=
  (rs.flatMap fun r => (pieces r.1 r.2).map fun p => p.1 / pageBytes).foldl (fun l p => if l.contains p then l else l ++ [p]) []

/-- A transfer counts one access on every page that it touches (R257). -/
def State.countAccs (s : State) (k : Nat) (rs : List (Nat × Nat)) : State :=
  s.each (touched rs) fun s p => s.modPte k p fun e => if e.frame.isSome then { e with acc := satN 16 (e.acc + 1) } else e

/-- An engine's read of one range of a context's memory (R245, R257): true when it delivers nothing. -/
def engineRead (s : State) (k va n : Nat) (found : Findings) : Bool × State :=
  match readPages s k found .plan (pieces va n) with
  | (true, s) => (true, s)
  | (false, s) => (false, s.countAccs k [(va, n)])

/-- A context's memory from an address on that it has received dirty and not yet loaded into (R276). -/
def State.dirtyAt (s : State) (k va n : Nat) : Bool :=
  let c := s.getCtx k
  !c.dirty.isEmpty && (c.pt.isEmpty || (pieces va n).any fun p => match s.pte k p.1 with
    | some { frame := some f, .. } => c.dirty.contains f
    | _ => false)

end Sys2Proof.Machine
end

