-- ==== Sys2Proof/Machine/Flags.lean ====
section
/-! DEFINITION. The counters and sticky flags of a tile (R72, R73, R88, R109, R148, R278) and the increments of its sync objects with
the watches on them (R134, R151, R154). -/

namespace Sys2Proof.Machine

/-! ### Counters (R88, R72, R109) -/

/-- The context that holds a tile. -/
def State.tileCtx (s : State) (t : Nat) : Option Nat := (s.getTile t).ctx.map CtxId.slot

/-- Blocks in which an element saturated (R88). -/
def satBlocks (s : State) (t n : Nat) : State := s.addFld .tilArithSat [t] 0 32 n

/-- Fabric cycles that units of a tile waited for a bank (R72). -/
def bankWait (s : State) (t n : Nat) : State := s.addFld .tilBankWait [t] 0 48 n

/-- Mesh cycles that unscheduled flits waited for router outputs (R294, R314). -/
def meshWait (s : State) (n : Nat) : State := s.addFld .netUnschedWait [] 0 48 n

/-- A count above its bound (R109). -/
def countClamped (s : State) (t : Nat) : State :=
  raise (s.addFld .tilCountClamp [t] 0 32 1) { cause := .countClamped, source := srcTile t, ctx := s.tileCtx t }

/-! ### Tile SRAM (R73, R278) -/

/-- A corrected half-line: counted, and noticed. -/
def sramCe (s : State) (t : Nat) : State :=
  raise (s.addFld .tilSramCe [t] 0 32 1) { cause := .tileSramCe, source := srcTile t, ctx := s.tileCtx t }

/-- An uncorrectable half-line: latched while VALID is 0, and L1 against the context that holds the tile; the second since reset makes
the tile BAD (R278). The word that has just ended the context raises nothing more (R96). -/
def sramUe (s : State) (t addr : Nat) : State :=
  let line := addr / 32 * 32
  let ended := match s.tileCtx t with
    | some k => (s.getCtx k).plan.state == .ended
    | none => false
  if s.bit .tilSramUe [t] 63 && s.fld .tilSramUe [t] 0 21 == line && ended then s
  else
    let s := if s.bit .tilSramUe [t] 63 then s else s.setRg .tilSramUe [t] (pack [(0, 21, line), (63, 1, 1)])
    let s := s.modTile t fun x =>
      { x with ueReports := x.ueReports + 1, state := if 2 ≤ x.ueReports + 1 then .bad else x.state }
    raise s { cause := .tileSramUe, source := srcTile t, ctx := s.tileCtx t, detail := (s.rg .tilSramUe [t]).toNat }

/-- A half-line lies in a range. -/
def inLines (a : Nat) (r : Nat × Nat) : Bool := decide (r.2 ≠ 0 ∧ r.1 / 32 ≤ a / 32 ∧ a / 32 ≤ (r.1 + r.2 - 1) / 32)

/-- The half-lines found among a list of ranges, each once (R73). -/
def foundLines (found : Findings) (rs : List (Nat × Nat)) : List (Nat × Nat) :=
  (found.syms.filter fun e => rs.any (inLines e.1)).foldl (fun l e => if l.any fun f => f.1 / 32 == e.1 / 32 then l else l ++ [e]) []

/-- A list of half-lines decoded in turn (R73): corrected, uncorrectable, which ends the read, or beyond the code's power, whose word
then holds free bytes or is reported. True when the read delivers nothing. -/
def decodeLines (s : State) (t : Nat) : List (Nat × Nat) → Bool × State
  | [] => (false, s)
  | (a, n) :: r =>
    let (fate, s) := s.fate false n
    match fate with
    | .clean => decodeLines s t r
    | .corrected => decodeLines (sramCe s t) t r
    | .open_ =>
      let (bs, s) := s.drawBytes 32
      decodeLines (s.modTile t fun x => { x with sram := x.sram.write (a / 32 * 32) bs }) t r
    | .lost => (true, sramUe s t a)

/-- The DATA that a macro-op uses for a descriptor (R108). -/
def Running.dataOf (r : Running) (b : Nat) : Nat := ((r.data.find? fun e => e.1 == b).map Prod.snd).getD 0

/-- The ranges that a descriptor field of a running macro-op names. -/
def Tile.rangesOf (x : Tile) (r : Running) (b : Nat) : List (Nat × Nat) := (x.getDesc (r.op.f b 10)).ranges (r.dataOf b)

/-- The addresses of the bytes of a list of ranges. -/
def addrsOf (rs : List (Nat × Nat)) : List Nat := rs.flatMap fun r => (List.range r.2).map (r.1 + ·)

/-- An address lies in one of a list of ranges. -/
def inRanges (rs : List (Nat × Nat)) (a : Nat) : Bool := rs.any fun r => decide (r.1 ≤ a ∧ a < r.1 + r.2)

/-- Two lists of ranges meet. -/
def rangesMeet (rs qs : List (Nat × Nat)) : Bool := rs.any fun r => qs.any fun q => decide (r.1 < q.1 + q.2 ∧ q.1 < r.1 + r.2)

/-- The LOADs of a tile whose signal has not been raised and whose destination meets a list of ranges (R142). -/
def Tile.openLoads (x : Tile) (rs : List (Nat × Nat)) : List Running :=
  ((x.xfer.filter fun e => decide (4 ≤ e.1 ∧ e.1 < 8)).flatMap Prod.snd).filter fun r => rangesMeet (x.rangesOf r 58) rs

/-- A read of what LOADs are to bring, before their signals (R142), gives free bits of their destinations; what they have brought is kept aside. -/
def unsettle (s : State) (t : Nat) (rs : List (Nat × Nat)) : State :=
  let hit := (s.getTile t).openLoads rs
  if hit.isEmpty then s
  else
    let keys := hit.map fun r => (r.step, r.op.index)
    let s := s.modTile t fun x =>
      { x with xfer := x.xfer.map fun e => (e.1, e.2.map fun (r : Running) =>
          if keys.contains (r.step, r.op.index) ∧ r.done ∧ r.bytes.isEmpty then { r with bytes := readRanges x.sram (x.rangesOf r 58) } else r) }
    s.each hit fun s r =>
      let cells := (addrsOf ((s.getTile t).rangesOf r 58)).filter (inRanges rs)
      let (bs, s) := s.drawBytes cells.length
      s.modTile t fun x => { x with sram := (cells.zip bs).foldl (fun m w => m.set w.1 w.2) x.sram }

/-- Ranges of a tile's SRAM read; true when one of them delivers nothing. -/
def readSram (s : State) (t : Nat) (found : Findings) (rs : List (Nat × Nat)) : Bool × State :=
  match decodeLines s t (foundLines found rs) with
  | (true, s) => (true, s)
  | (false, s) => (false, unsettle s t rs)

/-! ### Queue telemetry (R148) -/

/-- HIGH_WATER of a transfer queue after an entry has been taken. -/
def highWater (s : State) (t q depth : Nat) : State :=
  s.setFld .tilQstat [t, q] 6 6 (max (s.fld .tilQstat [t, q] 6 6) depth)

/-- MAX_LAT of a transfer queue: the time a transfer took is a free value (log entry 22). -/
def maxLat (s : State) (t q : Nat) : State :=
  let (w, s) := s.draw
  s.setFld .tilQstat [t, q] 16 32 (max (s.fld .tilQstat [t, q] 16 32) (field w 0 32))

/-! ### Sync objects (R134 to R137, R151, R154) -/

def Tile.obj (x : Tile) (k : Nat) : SyncObj := KMap.get {} x.sync k

/-- The pending watches whose object now satisfies their TARGET end OK. -/
def State.watchObj (s : State) (t k : Nat) : State :=
  s.each (s.syncWatches t) fun s w =>
    if s.fld .tilSyncWatch [t, w] 0 6 = k ∧ satisfied ((s.getTile t).obj k).count (BitVec.ofNat 32 (s.fld .tilSyncWatch [t, w] 6 32))
    then s.endSyncWatch t w .ok false else s

/-- Barrier accounting of the ledger (R146, R372): a report with its slack. -/
def barrierReport (s : State) (l slack : Nat) : State :=
  let s := s.addFld .netLedgerBar [l] 0 32 1
  let s := if slack < s.fld .netLedgerSlack [l] 0 32 then s.setFld .netLedgerSlack [l] 0 32 slack else s
  if slack < s.fld .netLedgerCtl [] 0 32 then s.addFld .netLedgerSlack [l] 32 32 1 else s

/-- What an increment comes from: its kind (R134), source tile, link and macro-op. -/
structure SigSource where
  kind : Nat
  tile : Nat := 0x3FF
  link : Nat := 0
  mop  : Nat := 0
deriving DecidableEq, Repr

/-- The place of an increment among those of one fabric cycle (R136): its kind, then its link or source tile. -/
def LastSig.rank (r : LastSig) : Nat := 1024 * r.kind + (if r.kind = 5 then r.link else r.srcTile)

/-- The record that stays of two, the second the later (R136): of one plan cycle and tick, the one that comes last in the order. -/
def LastSig.then (old new : LastSig) : LastSig :=
  if old.kind ≠ 0 ∧ old.pcy = new.pcy ∧ old.tick = new.tick ∧ new.rank < old.rank then old else new

/-- An increment of an object. -/
def SyncObj.bump (o : SyncObj) (value : BitVec 32) (last : LastSig) : SyncObj :=
  { o with count := o.count + value, last := o.last.then last, last5 := if last.kind = 5 then some last.link else o.last5 }

/-- An object of a tile takes increments: it is ACTIVE, and the plan has not ended (R127, R134). -/
def State.takesSignal (s : State) (t k : Nat) : Bool :=
  match (s.getTile t).ctx with
  | some i => decide (k < 48) && (s.getTile t).bank == .active && (s.getCtx i.slot).plan.state != .ended
  | none => false

/-- An increment of an object of a tile (R134): applied where the object takes it, counted when it is a remote SIGNAL that finds an abandoned object
(R151), else discarded. -/
def increment (s : State) (t k : Nat) (value : BitVec 32) (src : SigSource) : State :=
  let x := s.getTile t
  match x.ctx with
  | none => s
  | some i =>
    if s.takesSignal t k then
      let last : LastSig := { kind := src.kind, srcTile := src.tile, link := src.link, srcMop := src.mop % 65536,
                              pcy := (s.getCtx i.slot).plan.pcy.toNat % 2 ^ 32, tick := s.time.refTicks }
      (s.modTile t fun x => { x with sync := KMap.upd {} x.sync k fun (o : SyncObj) => o.bump value last }).watchObj t k
    else if k < 48 ∧ x.bank = .abandoned ∧ 4 ≤ src.kind then s.addFld .tilSyncDrop [t] 0 32 1
    else s

/-! ### Software watches (R154) -/

/-- A write to TIL_SYNC_WATCH: DONE is cleared by a 1; while PENDING nothing else acts; else OBJ and TARGET are taken and ARM starts the
watch, which ends at once where its object number names none, where its object is abandoned, or where its target is met. -/
def watchWrite (s : State) (acc : Accessor) (t w : Nat) (v : Word) : State :=
  let held := match s.tileCtx t with
    | some k => s.owns acc k
    | none => false
  if held then
    let s := if bitOf v 40 then s.setBit .tilSyncWatch [t, w] 40 false else s
    if s.bit .tilSyncWatch [t, w] 39 then s
    else
      let s := s.setFld .tilSyncWatch [t, w] 0 38 (field v 0 38)
      if bitOf v 38 then
        let s := s.setRg .tilSyncWatch [t, w] (pack [(0, 38, field v 0 38), (39, 1, 1)])
        if 48 ≤ field v 0 6 then s.endSyncWatch t w .rejected false
        else if (s.getTile t).bank = .abandoned then s.endSyncWatch t w .abandoned false
        else s.watchObj t (field v 0 6)
      else s
  else s

def execSyncWatchArm (acc : Accessor) (t : TileIx) (w : Fin 3) (value : Word) (s : State) : Host.Outcome State Fault Refusal :=
  .next (onBlock s (srcTile t.val) fun s => watchWrite s acc t.val w.val value)

/-- A pending watch whose deadline MT has reached ends with TIMEOUT; a deadline of 0 is none. -/
def execSyncWatchTimeout (t : TileIx) (w : Fin 3) (s : State) : Host.Outcome State Fault Refusal :=
  let dl := (s.rg .tilSyncWatchDl [t.val, w.val]).toNat
  if s.bit .tilSyncWatch [t.val, w.val] 39 ∧ dl ≠ 0 ∧ dl ≤ s.mtN then .next (s.endSyncWatch t.val w.val .timeout false) else .next s

end Sys2Proof.Machine
end

