-- ==== Sys2Proof/Machine/Sequencer.lean ====
section
/-! DEFINITION. The macro-op sequencer of a tile: its streams (R98, R125), dispatch (R99, R101, R112, R124, R127, R128, R144), sleep
and wake (R128). -/

namespace Sys2Proof.Machine

/-! ### Streams -/

/-- The plan tiles of a context (R166). -/
def Ctx.planTiles (c : Ctx) : List Nat :=
  match c.image with
  | some im => c.tiles.take (32 * im.vrows)
  | none => []

/-- A physical tile's virtual tile. -/
def Ctx.vtile (c : Ctx) (t : Nat) : Option Nat := c.planTiles.findIdx? (· == t)

/-- Where a tile's stream of a variant stands, and its macro-ops. -/
def Image.stream (im : Image) (v vt : Nat) : Nat × Nat := KMap.get (0, 0) im.streams (512 * v + vt)

/-- The variant index of a step, where it is present (R124). -/
def Ctx.variantOf (c : Ctx) (step : Nat) : Option Nat :=
  let v := KMap.get 256 c.varIdx step
  if v < 256 then some v else none

/-- The macro-ops of a stream from a position on, at most `n`. -/
def State.opsAt (s : State) (k va pos n : Nat) : List MacroOp :=
  (List.range n).map fun i => { word := s.ctxNat k (va + 16 * (pos + i)) 16, index := pos + i }

/-- A line of a stream read (R98): at most four macro-ops from a position; an uncorrectable word raises L1 and nothing enters. -/
def fetchLine (s : State) (k va len pos : Nat) (found : Findings) (put : State → List MacroOp → State) : State :=
  let n := min 4 (len - pos)
  match readPages s k found .plan (pieces (va + 16 * pos) (16 * n)) with
  | (true, s) => s
  | (false, s) => put s (s.opsAt k va pos n)

/-- A line of a tile's current stream enters the issue queue while it has room for four; else a line of the next step's variant enters
the entry buffer, once that variant is known (R125). -/
def streamFetch (s : State) (t : Nat) (found : Findings) : State :=
  let x := s.getTile t
  match x.ctx with
  | none => s
  | some i =>
    let k := i.slot
    let c := s.getCtx k
    match c.image, c.vtile t with
    | some im, some vt =>
      let (va, len) := im.stream x.variant vt
      if c.plan.state = .ended ∨ x.endTaken then s
      else if x.fetchPos < len ∧ x.issueQ.length + 4 ≤ 256 then
        fetchLine s k va len x.fetchPos found fun s ops =>
          s.modTile t fun x => { x with issueQ := x.issueQ ++ ops, fetchPos := x.fetchPos + ops.length }
      else match c.variantOf (x.step + 1) with
        | some v =>
          let (va, len) := im.stream v vt
          let have_ := if x.entryVar = some v then x.entryBuf else []
          if have_.length < min 64 len then
            fetchLine s k va len have_.length found fun s ops =>
              s.modTile t fun x => { x with entryBuf := have_ ++ ops, entryVar := some v }
          else s
        | none => s
    | _, _ => s

def execStreamLineFetch (t : TileIx) (found : Findings) (s : State) : Host.Outcome State Fault Refusal := .next (streamFetch s t.val found)

/-! ### Dispatch (R99) -/

/-- The macro-ops of a tile that have dispatched and not completed. -/
def Tile.inFlight (x : Tile) : List Running :=
  x.unitQ.flatMap Prod.snd ++ x.running.filterMap Prod.snd ++ x.xfer.flatMap Prod.snd ++ x.outst

/-- The class bit of a macro-op in FENCE (R144): LOADS, STORES, ROUTER, ENGINES, UNITS; RECV is in none. -/
def MacroOp.fenceClass (o : MacroOp) : Option Nat :=
  if o.op = opLoad then some 0
  else if o.op = opStore then some 1
  else if o.op = opMove ∨ o.op = opSend ∨ o.remote then some 2
  else if o.engine then some 3
  else if o.compute then some 4
  else none

/-- Every earlier macro-op of the classes that a FENCE names has completed. -/
def Tile.fenceClear (x : Tile) (o : MacroOp) : Bool :=
  x.inFlight.all fun r => match r.op.fenceClass with
    | some c => o.f (48 + c) 1 == 0
    | none => true

/-- The head of a tile's issue queue meets every condition of dispatch in plan cycle `c` but that of one dispatch a cycle. -/
def State.ready (s : State) (k t c : Nat) : Bool :=
  let x := s.getTile t
  match x.issueQ with
  | [] => false
  | o :: _ =>
    x.power == .run && !x.waking && !x.endTaken && decide (x.base + o.at_ ≤ c)
      && ((x.units o).all fun u => decide ((KMap.get [] x.unitQ u).length < 4))
      && (o.op != opWait || (x.bank == .active && satisfied (x.obj o.obj).count o.target))
      && (o.op != opFence || x.fenceClear o)
      && (o.op != opStepEnd || ((s.getCtx k).variantOf (x.step + 1)).isSome)

/-- A WAIT on a BARRIER object dispatches (R372): the link of the last kind-5 signal applied to it since the previous such dispatch adds 1 to LAST,
and the notice is raised when LAST reaches THRESH. -/
def barrierWait (s : State) (t k : Nat) : State :=
  let o := (s.getTile t).obj k
  match o.last5 with
  | some l =>
    if o.barrier then
      let s := s.modTile t fun x => { x with sync := KMap.upd {} x.sync k fun (o : SyncObj) => { o with last5 := none } }
      let s := s.addFld .netLedgerBar [l] 32 32 1
      if s.fld .netLedgerBar [l] 32 32 = s.fld .netLedgerCtl [] 32 16 then notice s .lateNeighbour srcNet l else s
    else s
  | none => s

/-- The index of step `n` names a variant of another KIND than STEP and is no selection of the plan's end (R126, R217, R218): from step 2 on, END_MARK
ends the plan only where END_PLAN selected it, which a follower takes every END_MARK for (DEDUCED, log entry 32). -/
def Ctx.wrongKind (c : Ctx) (im : Image) (n kind : Nat) : Bool :=
  decide (2 ≤ n) && kind != 0 && !(kind == 2 && (!im.isLead || (c.serve.closed && n + 1 == c.serve.next)))

/-- STEP_END (R124): the next step begins at its variant's entry, with what the entry buffer holds of it (R125); a selection of END_MARK ends
the plan there (R127), an index that the image does not hold, or that is of the wrong KIND, raises BAD_VARIANT (R126, R217). -/
def stepEnd (s : State) (k t : Nat) (o : MacroOp) : State :=
  let c := s.getCtx k
  let x := s.getTile t
  match c.image, c.variantOf (x.step + 1) with
  | some im, some v =>
    match im.variants[v]? with
    | none => against s .badVariant (srcTile t) k
    | some (_, kind) =>
      if c.wrongKind im (x.step + 1) kind then against s .badVariant (srcTile t) k
      else
        let buf := if x.entryVar = some v then x.entryBuf else []
        let s := s.modTile t fun x =>
          { x with base := x.base + o.at_, step := x.step + 1, variant := v, issueQ := buf, fetchPos := buf.length, pc := 0, entryBuf := [],
                   entryVar := none, endTaken := kind == 2 }
        s.modCtx k fun c => { c with serve := { c.serve with begun := max c.serve.begun (x.step + 2) } }
  | _, _ => s

/-- What the sequencer does with a macro-op at its dispatch; a unit's macro-op enters the queues of its units. A SAMPLE_COLLECT takes its number
within the step (R222), kept in `recvd`. -/
def act (s : State) (k t : Nat) (o : MacroOp) : State :=
  let x := s.getTile t
  if !o.sequencer then
    let pool := (s.getCtx k).serve.pool x.step
    let collect := o.op == opSampleCollect
    let r : Running := { op := o, base := x.base, step := x.step, recvd := if collect then pool.issued else 0 }
    let s := if collect then s.modServe k fun v => v.setPool { pool with issued := pool.issued + 1 } else s
    s.modTile t fun x => { x with unitQ := (x.units o).foldl (fun q u => KMap.upd [] q u fun l => l ++ [r]) x.unitQ }
  else if o.op = opWait then barrierWait s t o.obj
  else if o.op = opSignal then increment s t o.obj o.target { kind := 1, tile := t, mop := o.index }
  else if o.op = opStepEnd then stepEnd s k t o
  else if o.op = opEnd then s.modTile t fun x => { x with endTaken := true }
  else if o.op = opSleep then
    s.modTile t fun x => { x with power := if o.f 48 2 = 2 then .deep else .sleep, wakeAt := some (x.base + o.f 50 32) }
  else s

/-- The head of a tile's issue queue dispatches in plan cycle `c`. -/
def dispatch (s : State) (k t c : Nat) : State :=
  match (s.getTile t).issueQ with
  | [] => s
  | o :: r =>
    act (s.modTile t fun x => { x with issueQ := r, pc := o.index + 1, lastDisp := some c, held := false }) k t o

/-- Dispatch of a tile's head in the plan cycle that its context executes next, where it may (R99: at most one a plan cycle). -/
def dispatchIf (s : State) (k t : Nat) : State :=
  let c := (s.getCtx k).plan.pcy.toNat
  if s.ready k t c ∧ (s.getTile t).lastDisp ≠ some c then dispatch s k t c else s

/-! ### Wake (R128) -/

/-- A sleeping tile begins to wake once the plan has reached its WAKE_AT. -/
def wakeHint (s : State) (k t : Nat) : State :=
  let x := s.getTile t
  match x.wakeAt with
  | some a =>
    if a ≤ (s.getCtx k).plan.pcy.toNat ∧ (x.power = .sleep ∨ x.power = .deep) then s.modTile t fun x => { x with waking := true, wakeAt := none } else s
  | none => s

def execWakeHint (t : TileIx) (s : State) : Host.Outcome State Fault Refusal :=
  match s.tileCtx t.val with
  | some k => .next (wakeHint s k t.val)
  | none => .next s

/-- A waking tile runs again; after deep sleep its accumulators are empty, its stationary buffers and mask registers zero. -/
def execTileWakeComplete (t : TileIx) (s : State) : Host.Outcome State Fault Refusal :=
  if (s.getTile t.val).waking then
    .next (s.modTile t.val fun x =>
      if x.power = .deep then { x with power := .run, waking := false, acc := [], accHeld := false, stationary := [], masks := [] }
      else { x with power := .run, waking := false })
  else .next s

end Sys2Proof.Machine
end

