-- ==== Sys2Proof/Machine/Units.lean ====
section
/-! DEFINITION. The life of a macro-op after its dispatch (R100, R102, R108, R109, R142, R147): it starts on its units, its row performs it, and
it completes with its signal. Data movement within the tile, to memory, on mesh streams and on link streams (R113 to R115, R134, R292, R295). -/

namespace Sys2Proof.Machine

/-! ### Units -/

/-- A macro-op holds a unit. -/
def Tile.busy (x : Tile) (u : Nat) : Bool :=
  x.running.any fun e => match e.2 with
    | some r => (x.units r.op).contains u
    | none => false

/-- What tells a macro-op of a tile from every other that is in flight: its step and stream index. -/
def Running.key (r : Running) : Nat := r.step * 2 ^ 24 + r.op.index

/-- The macro-op that starts next on a unit: the head of the queue of each of its units, all of them free (R100), with a transfer entry
free for a LOAD or STORE (R147). -/
def Tile.next (x : Tile) (u : Nat) : Option Running :=
  match KMap.get [] x.unitQ u with
  | [] => none
  | r :: _ =>
    if (x.units r.op).all (fun v => !x.busy v && ((KMap.get [] x.unitQ v).head?).map Running.key == some r.key)
        && (r.op.op != opLoad && r.op.op != opStore || decide ((KMap.get [] x.xfer u).length < 32))
    then some r else none

/-- What a macro-op reads at its start: the index cells of its indexed descriptors (R108) and its count array (R109). -/
def Tile.startReads (x : Tile) (o : MacroOp) : List (Nat × Nat) :=
  let index := o.fields.filterMap fun b =>
    let d := x.getDesc (o.f b 10)
    if d.indexEn then some ((x.getDesc d.indexDesc).data, 4) else none
  match o.cntAt with
  | some b => index ++ [((x.getDesc (o.f b 10)).data, 4 * (x.cntShape o).2)]
  | none => index

/-- The DATA of a descriptor that a macro-op names, the index count added (R108). -/
def Tile.resolve (x : Tile) (d : Desc) : Nat :=
  if d.indexEn then d.data + leNat (x.sram.read (x.getDesc d.indexDesc).data 4) * d.indexStride else d.data

/-- An indexed descriptor whose extent, with its resolved DATA, leaves tile SRAM (R108). -/
def Tile.strays (x : Tile) (d : Desc) : Bool := d.indexEn && d.kind == 0 && decide (sramEnd < d.endAt (x.resolve d))

/-- The counts of a macro-op as they stand in SRAM, and their bound (R109). -/
def Tile.rawCounts (x : Tile) (o : MacroOp) : Nat × List Nat :=
  match o.cntAt with
  | some b => ((x.cntShape o).1, readCounts x.sram (x.getDesc (o.f b 10)).data (x.cntShape o).2)
  | none => (0, [])

/-- A macro-op leaves the queues of its units. -/
def Tile.pop (x : Tile) (r : Running) : Tile :=
  { x with unitQ := (x.units r.op).foldl (fun q u => KMap.upd [] q u fun l => l.drop 1) x.unitQ }

/-- A macro-op starts on unit `u` (R100): what it reads at its start is kept with it; where that read delivers nothing, or an extent leaves tile SRAM,
which raises L1 DESC_RANGE, it leaves its queue. Counts are clamped to their bound. A LOAD or STORE takes a transfer entry, a RECV waits for its flits
beside the port. -/
def startOp (s : State) (t u : Nat) (r : Running) (found : Findings) : State :=
  match readSram s t found ((s.getTile t).startReads r.op) with
  | (true, s) => s.modTile t fun x => x.pop r
  | (false, s) =>
    let x := s.getTile t
    if r.op.fields.any fun b => x.strays (x.getDesc (r.op.f b 10)) then
      (raise s { cause := .descRange, source := srcTile t, ctx := s.tileCtx t }).modTile t fun x => x.pop r
    else
      let (bound, cs) := x.rawCounts r.op
      let s := s.each (cs.filter fun c => decide (bound < c)) fun s _ => countClamped s t
      let x := s.getTile t
      let r' : Running := { r with data := r.op.fields.map fun b => (b, x.resolve (x.getDesc (r.op.f b 10))), counts := cs.map (min bound),
                                   cycles := x.cycles r.op, started := true }
      let x := x.pop r
      if r.op.op = opLoad ∨ r.op.op = opStore then
        let x := { x with xfer := KMap.upd [] x.xfer u fun l => l ++ [r'] }
        highWater (s.setTile t x) t (u - 4) (KMap.get [] x.xfer u).length
      else if r.op.op = opRecv then s.setTile t { x with outst := x.outst ++ [r'] }
      else s.setTile t { x with running := KMap.set none x.running ((x.units r.op).headD u) (some r') }

/-- UNIT_START (R100): while the context is OPEN and its plan has begun and not ended. A descriptor that the image does not define has no
meaning (R169). -/
def unitStart (s : State) (t u bankWaits : Nat) (found : Findings) : Host.Outcome State Fault Refusal :=
  match s.tileCtx t with
  | none => .next s
  | some k =>
    let p := (s.getCtx k).plan.state
    if (s.getCtx k).state ≠ .opened ∨ p = .idle ∨ p = .ended then .next s
    else match (s.getTile t).next u with
      | none => .next s
      | some r =>
        match (s.getTile t).descLimit with
        | some n => match r.op.descs.find? fun i => decide (n ≤ i) with
          | some i => .fault (.undefinedDescriptor t i)
          | none => .next (startOp (bankWait s t bankWaits) t u r found)
        | none => .next (startOp (bankWait s t bankWaits) t u r found)

def execUnitStart (t : TileIx) (u : UnitId) (bankWaits : Nat) (found : Findings) (s : State) : Host.Outcome State Fault Refusal :=
  unitStart s t.val (unitIndex u) bankWaits found

/-! ### Performing and completing -/

/-- The macro-op of an opcode that runs on a unit of a tile and has not written its results: its first unit, and itself. -/
def Tile.doing (x : Tile) (p : MacroOp → Bool) : Option (Nat × Running) :=
  x.running.findSome? fun e => match e.2 with
    | some r => if p r.op && !r.done then some (e.1, r) else none
    | none => none

/-- The macro-op on a unit has written its results. -/
def markDone (s : State) (t u : Nat) : State :=
  s.modTile t fun x => { x with running := KMap.upd none x.running u fun o => o.map fun (r : Running) => { r with done := true } }

/-- A running macro-op's row: its inputs are read, and unless a read delivers nothing (R73: the plan then ends) its effect takes place; either way
it is done. -/
def perform (s : State) (t : Nat) (p : MacroOp → Bool) (inputs : Running → List Nat) (found : Findings) (body : State → Running → State) : State :=
  match (s.getTile t).doing p with
  | none => s
  | some (u, r) =>
    match readSram s t found ((inputs r).flatMap ((s.getTile t).rangesOf r)) with
    | (true, s) => markDone s t u
    | (false, s) => markDone (body s r) t u

/-- The running macro-op on a unit hands its work on and leaves its unit free (R122); it completes later. -/
def handOff (s : State) (t u : Nat) (r : Running) : State :=
  s.modTile t fun x => { x with running := KMap.set none x.running u none, outst := x.outst ++ [r] }

/-- The signal of a completing macro-op (R102, R134). -/
def completionSignal (s : State) (t : Nat) (r : Running) : State :=
  if r.op.sigEn then increment s t r.op.sig 1 { kind := 2, tile := t, mop := r.op.index } else s

/-- The first macro-op of a list that is done and passes a test, and the list without it. -/
def takeDone (p : Running → Bool) : List Running → Option (Running × List Running)
  | [] => none
  | r :: rs => if p r && r.done then some (r, rs) else (takeDone p rs).map fun e => (e.1, r :: e.2)

/-- A store of a tile's macro-op that waits for a page in motion (R260). -/
def State.storeHeld (s : State) (t : Nat) (r : Running) : Bool :=
  s.mor.exchanges.any fun x => x.held.any fun h => h.tile == t && h.mop == r.key

/-- A vault request leaves its queue when its macro-op ends (R197); one that outlived its plan gives back what it held up (R204). -/
def endVReq (s : State) (t key : Nat) : State :=
  let s := s.endRunning fun e => e.tile == t && e.key == key
  match s.tileCtx t with
  | none => s
  | some k => match (s.getCtx k).vtile t with
    | none => s
    | some vt => s.each (List.range 4) fun s v =>
      s.modVault v fun x => { x with queue := KMap.upd [] x.queue k fun q => q.filter fun r => r.vtile != vt || r.key != key }

/-- MACRO_OP_COMPLETE (R102): a transfer completes in its queue's order, and its destination then holds what it has brought (R142); a macro-op
that left its port completes when it is done. -/
def complete (s : State) (t u : Nat) : State :=
  let x := s.getTile t
  if 4 ≤ u ∧ u < 10 then
    match KMap.get [] x.xfer u with
    | r :: rs =>
      if r.done ∧ !s.storeHeld t r then
        let s := s.modTile t fun x => { x with
          xfer := KMap.set [] x.xfer u rs, sram := if r.bytes.isEmpty then x.sram else writeRanges x.sram (x.rangesOf r 58) r.bytes }
        completionSignal (maxLat s t (u - 4)) t r
      else s
    | [] => s
  else match x.running.find? fun e => match e.2 with
      | some r => r.done && (x.units r.op).contains u
      | none => false with
    | some (v, some r) => completionSignal (s.modTile t fun x => { x with running := KMap.set none x.running v none }) t r
    | _ =>
      if u = routerPort ∨ u = enginePort then
        match takeDone (fun r => r.op.engine == (u == enginePort)) x.outst with
        | some (r, rest) => completionSignal (endVReq (s.modTile t fun x => { x with outst := rest }) t r.key) t r
        | none => s
      else s

def execMacroOpComplete (t : TileIx) (u : UnitId) (s : State) : Host.Outcome State Fault Refusal := .next (complete s t.val (unitIndex u))

/-! ### LOAD and STORE (R113) -/

/-- A transfer of a queue that is not done: the first, or the `nth` after it, since one may end before an earlier one (R142). -/
def Tile.nextXfer (x : Tile) (u nth : Nat) : Option Running := ((KMap.get [] x.xfer u).filter fun r => !r.done)[nth]?

def xferDone (s : State) (t u : Nat) (r : Running) : State :=
  s.modTile t fun x =>
    { x with xfer := KMap.upd [] x.xfer u fun l => l.map fun (y : Running) => if y.key = r.key then { y with done := true } else y }

/-- A memory access of a plan outside its pages, or against their rights: L1 MEM_DENIED (R129, R255). The macro-op that made it is over. -/
def memDenied (s : State) (t k : Nat) : State := against s .memDenied (srcTile t) k

/-- A LOAD's transfer (R113, R245, R255): every word is read and delivered, also where the plan has ended by then (R151, R153). -/
def loadOp (s : State) (t q nth : Nat) (found : Findings) : State :=
  let s := meshWait (bankWait s t found.waits) found.mesh
  let x := s.getTile t
  match x.nextXfer (4 + q) nth, x.ctx with
  | some r, some i =>
    let k := i.slot
    let src := x.rangesOf r 48
    match src.find? fun p => !s.vaOk k p.1 p.2 false with
    | some _ => xferDone (memDenied s t k) t (4 + q) r
    | none =>
      match readPages s k found .plan (src.flatMap fun p => pieces p.1 p.2) with
      | (true, s) => xferDone s t (4 + q) r
      | (false, s) =>
        let bytes := src.flatMap fun p => s.ctxRead k p.1 p.2
        let s := s.countAccs k src
        xferDone (s.modTile t fun x => { x with sram := writeRanges x.sram (x.rangesOf r 58) bytes }) t (4 + q) r
  | _, _ => s

def execLoad (t : TileIx) (q : Fin 4) (nth : Fin 32) (found : Findings) (s : State) : Host.Outcome State Fault Refusal :=
  .next (loadOp s t.val q.val nth.val found)

/-- Bytes written over a list of a context's ranges in turn. -/
def ctxWriteRanges (s : State) (k : Nat) (tile mop : Nat) : List (Nat × Nat) → List Byte → State
  | [], _ => s
  | (a, n) :: rs, bs => ctxWriteRanges (s.ctxWrite k a (bs.take n) tile mop) k tile mop rs (bs.drop n)

/-- A STORE's transfer (R113, R255): stores to a page in motion wait with its exchange (R260). -/
def storeOp (s : State) (t q nth : Nat) (found : Findings) : State :=
  let s := meshWait (bankWait s t found.waits) found.mesh
  let x := s.getTile t
  match x.nextXfer (8 + q) nth, x.ctx with
  | some r, some i =>
    let k := i.slot
    let dst := x.rangesOf r 58
    match dst.find? fun p => !s.vaOk k p.1 p.2 true with
    | some _ => xferDone (memDenied s t k) t (8 + q) r
    | none =>
      match readSram s t found (x.rangesOf r 48) with
      | (true, s) => xferDone s t (8 + q) r
      | (false, s) =>
        let bytes := readRanges (s.getTile t).sram (x.rangesOf r 48)
        let s := s.countAccs k dst
        xferDone (ctxWriteRanges s k t r.key dst bytes) t (8 + q) r
  | _, _ => s

def execStore (t : TileIx) (q : Fin 2) (nth : Fin 32) (found : Findings) (s : State) : Host.Outcome State Fault Refusal :=
  .next (storeOp s t.val q.val nth.val found)

/-! ### Streams (R114, R115) -/

/-- The mesh slot (R290): mesh cycles since chip reset, modulo 64, 2.64 to a reference tick. -/
def State.meshSlot (s : State) : Nat := s.time.refTicks * 66 / 25 % 64

/-- The physical tile at the far end of an on-chip stream. -/
def State.meshDest (s : State) (k t stream : Nat) : Nat := (s.getCtx k).tiles.getD ((s.getTile t).outStream stream).vtile 576

/-- The flits of a remote MOVE (R114): 32 bytes each with what they write, and DSIG on the last. -/
def moveFlits (s : State) (k t : Nat) (r : Running) (bytes : List Byte) : List MeshFlit :=
  let x := s.getTile t
  let cells := chunks 32 ((addrsOf (x.rangesOf r 58)).zip bytes)
  let n := cells.length
  cells.zipIdx.map fun (ws, i) =>
    { ctx := s.idOf k, src := t, stream := r.op.stream, dst := s.meshDest k t r.op.stream, writes := ws, mop := r.key,
      signal := if i + 1 = n ∧ r.op.f 81 1 = 1 then some (r.op.f 75 6, 1) else none, kind := 3, last := i + 1 == n }

/-- MOVE (R114): within the tile the bytes are copied; on a stream its flits wait for their slots. -/
def moveOp (s : State) (t : Nat) (found : Findings) : State :=
  let s := bankWait s t found.waits
  match (s.getTile t).doing fun o => o.op == opMove, s.tileCtx t with
  | some (u, r), some k =>
    let x := s.getTile t
    match readSram s t found (x.rangesOf r 48) with
    | (true, s) => markDone s t u
    | (false, s) =>
      let bytes := readRanges (s.getTile t).sram (x.rangesOf r 48)
      if r.op.remote then
        handOff { s with net := { s.net with flits := s.net.flits ++ moveFlits s k t r bytes } } t u r
      else markDone (s.modTile t fun x => { x with sram := writeRanges x.sram (x.rangesOf r 58) bytes }) t u
  | _, _ => s

def execMove (t : TileIx) (found : Findings) (s : State) : Host.Outcome State Fault Refusal := .next (moveOp s t.val found)

/-- Flits queued on an outgoing link stream of a tile. -/
def Tile.queueOut (x : Tile) (stream : Nat) (fs : List OutFlit) : Tile := { x with outbox := KMap.upd [] x.outbox stream fun l => l ++ fs }

/-- The links of the plan. -/
def Image.planLinks (im : Image) : List Nat := (Sys2Proof.Machine.links).filter fun l => im.links / 2 ^ l % 2 == 1

/-- The plan slots of a link whose scheduled cycle is `c`: transmit entries of USE 1. -/
def State.sendSlots (s : State) (im : Image) (l c : Nat) : List Nat :=
  (slotsAt (s.getLink l).half c).filter fun g => decide (g % 64 < 56) && (im.slot l false (g % 64)).use == 1

/-- Increments and payloads of a stream that may leave a tile in cycle `c`. -/
def Tile.sendable (x : Tile) (stream c : Nat) : List OutFlit := (KMap.get [] x.outbox stream).filter fun f => decide (f.from_ ≤ c)

/-- A SEND or remote SIGNAL of a stream that has dispatched and not read its tile's SRAM (R130). -/
def Tile.unsent (x : Tile) (stream c : Nat) : Option Running :=
  (x.unitQ.flatMap Prod.snd ++ x.running.filterMap Prod.snd).find? fun r =>
    (r.op.op == opSend || (r.op.op == opSignal && r.op.remote)) && r.op.stream == stream && !r.done && decide (r.base + r.op.at_ ≤ c)

/-- The first flit of a tile's stream that may leave in cycle `c` goes, or none does. -/
def takeFlit (s : State) (t stream c : Nat) : Option OutFlit × State :=
  match KMap.get [] (s.getTile t).outbox stream with
  | f :: r => if f.from_ ≤ c then (some f, s.modTile t fun x => { x with outbox := KMap.set [] x.outbox stream r }) else (none, s)
  | [] => (none, s)

/-- A plan slot of a link takes the next flit of its stream, an EMPTY flit where the stream has none (R296, R326), or waits for a SEND or remote
SIGNAL that is late with its read (R130). -/
def fillSlot (s : State) (k : Nat) (im : Image) (l g : Nat) : State :=
  let e := im.slot l false (g % 64)
  let t := (s.getCtx k).planTiles.getD e.vtile 576
  let c := slotCycle (s.getLink l).half g
  let put (s : State) (p : PlanFlit) : State :=
    s.modLink l fun x => { x with txPlan := KMap.upd [] x.txPlan (g % 64) fun q => q ++ [p], txDue := x.txDue.erase g }
  match takeFlit s t e.stream c with
  | (some f, s) =>
    put s { g := g, payload := if f.signal.isSome then none else some f.payload, signal := f.signal, tile := t, mop := f.mop }
  | (none, s) => if ((s.getTile t).unsent e.stream c).isSome then s else put s { g := g }

/-- The plan slots of a context that have begun and are not filled, in turn. -/
def fillDue (s : State) (k : Nat) : State :=
  match (s.getCtx k).image with
  | some im => s.each im.planLinks fun s l => s.each (s.getLink l).txDue fun s g => fillSlot s k im l g
  | none => s

/-- SEND (R115): its bytes are packed into flits of 32 bytes, the last padded with zeros, that take the stream's slots from its AT on. -/
def sendOp (s : State) (t : Nat) (found : Findings) : State :=
  let s := bankWait s t found.waits
  match (s.getTile t).doing fun o => o.op == opSend, s.tileCtx t with
  | some (u, r), some k =>
    let x := s.getTile t
    match readSram s t found (x.rangesOf r 48) with
    | (true, s) => markDone s t u
    | (false, s) =>
      let flits := (chunks 32 (readRanges (s.getTile t).sram (x.rangesOf r 48))).map fun b =>
        { from_ := r.base + r.op.at_, payload := padTo b 32 0, mop := r.key : OutFlit }
      fillDue (handOff (s.modTile t fun x => x.queueOut r.op.stream flits) t u { r with awaits := flits.length }) k
  | _, _ => s

def execSend (t : TileIx) (found : Findings) (s : State) : Host.Outcome State Fault Refusal := .next (sendOp s t.val found)

/-- A remote SIGNAL that has started on the router port: one flit on its stream, behind every earlier flit of it (R115, R134). -/
def signalOut (s : State) (k t : Nat) : State :=
  match (s.getTile t).doing fun o => o.op == opSignal with
  | some (u, r) =>
    let sig := some (r.op.obj, r.op.target)
    if ((s.getTile t).outStream r.op.stream).dest = 1 then
      let f : MeshFlit := { ctx := s.idOf k, src := t, stream := r.op.stream, dst := s.meshDest k t r.op.stream, signal := sig, kind := 4, mop := r.key, last := true }
      handOff { s with net := { s.net with flits := s.net.flits ++ [f] } } t u r
    else
      fillDue (handOff (s.modTile t fun x => x.queueOut r.op.stream [{ from_ := r.base + r.op.at_, signal := sig, mop := r.key }]) t u
        { r with awaits := 1 }) k
  | none => s

/-- A flit of a SEND or of a remote SIGNAL has been acknowledged (R102, R334): with its last one the macro-op is done. -/
def ackFlit (s : State) (t key : Nat) : State :=
  s.modTile t fun x => { x with outst := x.outst.map fun (r : Running) =>
    if r.key = key ∧ !r.op.engine then { r with awaits := r.awaits - 1, done := r.done || decide (r.awaits ≤ 1) } else r }

/-- What a flit of a mesh stream does at the tile it reaches, while the tile is still its context's: its bytes, and its increment. -/
def meshArrive (s : State) (t : Nat) (f : MeshFlit) : State :=
  if (s.getTile f.dst).ctx = some f.ctx then
    let s := s.modTile f.dst fun x => { x with sram := f.writes.foldl (fun m w => m.set w.1 w.2) x.sram }
    match f.signal with
    | some (k, v) => increment s f.dst k v { kind := f.kind, tile := t, mop := f.mop }
    | none => s
  else s

/-- The acknowledgement of a macro-op's last flit. -/
def meshAck (s : State) (t : Nat) (f : MeshFlit) : State :=
  if f.last && (s.getTile t).ctx == some f.ctx then
    s.modTile t fun x => { x with outst := x.outst.map fun (r : Running) => if r.key = f.mop ∧ !r.op.engine then { r with done := true } else r }
  else s

/-- A mesh flit is written into its destination tile's SRAM (R292), with the object that it signals; the stream's flits come in order. The last
flit acknowledges its macro-op. A flit whose tile has left the context writes nothing (R151). -/
def meshDeliver (s : State) (t stream waits : Nat) : State :=
  match s.net.flits.find? fun f => f.src == t && f.stream == stream with
  | none => s
  | some f =>
    let s := bankWait s f.dst waits
    meshAck (meshArrive { s with net := { s.net with flits := s.net.flits.erase f } } t f) t f

def execMeshFlitDeliver (t : TileIx) (stream : Fin 64) (waits : Nat) (s : State) : Host.Outcome State Fault Refusal :=
  .next (meshDeliver s t.val stream.val waits)

/-! ### Incoming link streams (R115, R116) -/

/-- The flits that a RECV takes. -/
def Tile.recvFlits (x : Tile) (r : Running) : Nat := ceilDiv (sumN ((x.rangesOf r 48).map Prod.snd)) 32

/-- A payload written where a RECV's next flit belongs. -/
def Tile.putRecv (x : Tile) (r : Running) (payload : List Byte) : Tile :=
  let cells := slice (addrsOf (x.rangesOf r 48)) (32 * r.recvd) 32
  let n := r.recvd + 1
  { x with sram := (cells.zip payload).foldl (fun m w => m.set w.1 w.2) x.sram,
           outst := x.outst.map fun (y : Running) => if y.key = r.key then { y with recvd := n, done := decide (x.recvFlits r ≤ n) } else y }

/-- A remote SIGNAL that came over a link takes effect (R134); on a BARRIER object that takes it, it is reported to the ledger (R146). -/
def linkSignal (s : State) (t k : Nat) (v : BitVec 32) (i : InItem) : State :=
  let s := if s.takesSignal t k && ((s.getTile t).obj k).barrier then barrierReport s i.link i.slack else s
  increment s t k v { kind := 5, link := i.link }

/-- What stands in an incoming stream is taken in order: increments apply, payloads go to the oldest RECV of the stream that still takes flits. -/
def drainIn (s : State) (t stream : Nat) : State :=
  let rec go (s : State) : List InItem → State
    | [] => s.modTile t fun x => { x with inbox := KMap.set [] x.inbox stream [] }
    | i :: is => match i.signal with
      | some (k, v) => go (linkSignal s t k v i) is
      | none => match (s.getTile t).outst.find? fun r => r.op.op == opRecv && r.op.stream == stream && !r.done with
        | some r => go (s.modTile t fun x => x.putRecv r i.payload) is
        | none => s.modTile t fun x => { x with inbox := KMap.set [] x.inbox stream (i :: is) }
  go s (KMap.get [] (s.getTile t).inbox stream)

/-- RECV (R115): the started RECVs of a tile take what their streams have released to it. -/
def recvOp (s : State) (t : Nat) : State :=
  s.each ((s.getTile t).outst.filter fun r => r.op.op == opRecv && !r.done) fun s r => drainIn s t r.op.stream

def execRecv (t : TileIx) (waits : Nat) (s : State) : Host.Outcome State Fault Refusal := .next (recvOp (bankWait s t.val waits) t.val)

/-- Fabric cycles of a context in a number of ticks, at the step of the slowest region that holds any of its tiles (R49, R146): 2.64 a tick at
step 0. -/
def State.fabricCycles (s : State) (k ticks : Nat) : Nat :=
  let step := ((s.getCtx k).tiles.map fun t => (s.getRegionClk (regionOf t)).step).foldl max 0
  ticks * [20, 19, 18, 17, 16, 14, 12, 10].getD step 10 * 33 / 250

/-- Acceptance to release of an entry, in fabric cycles (R146, log entry 24). -/
def State.slack (s : State) (k : Nat) (e : RxEntry) : Nat := max (e.release - e.at_) (s.fabricCycles k (s.time.refTicks - e.tick))

/-- The oldest released flit of a link reaches its tile (R295), while the tile is still its context's; an uncorrectable entry of the receive buffer is
not delivered and raises L1 LINK_DATA_UE (R301). -/
def treeWrite (s : State) (l : Nat) (ue : Bool) : State :=
  match (s.getLink l).tree with
  | [] => s
  | e :: rest =>
    let s := s.modLink l fun x => { x with tree := rest }
    match s.linkHolder l with
    | none => s
    | some k =>
      if ue then against s .linkDataUe (srcLnk l) k l
      else if (s.getTile e.dst).ctx ≠ some (s.idOf k) then s
      else drainIn (s.modTile e.dst fun x => { x with inbox := KMap.upd [] x.inbox e.stream fun q =>
        q ++ [{ payload := e.payload.getD [], signal := e.signal, link := l, slack := s.slack k e }] }) e.dst e.stream

/-- A remote SIGNAL takes effect at its release (R134), behind whatever its link has released before it. -/
def flushSignals (s : State) (l : Nat) : State :=
  let n := (s.getLink l).tree.zipIdx.foldl (fun n e => if e.1.signal.isSome then e.2 + 1 else n) 0
  s.each (List.range n) fun s _ => treeWrite s l false

/-- The tile that the oldest released flit of a link goes to. -/
def State.treeTile (s : State) (l : Nat) : Option Nat := ((s.getLink l).tree.head?).map RxEntry.dst

/-- RECEIVE_TREE_WRITE, with the cycles that the write waits for its bank (R72). -/
def execReceiveTreeWrite (l : LinkIx) (bufferUe : Bool) (waits : Nat) (s : State) : Host.Outcome State Fault Refusal :=
  match s.treeTile l.val with
  | some t => .next (treeWrite (bankWait s t waits) l.val bufferUe)
  | none => .next (treeWrite s l.val bufferUe)

end Sys2Proof.Machine
end

