-- ==== Sys2Proof/Machine/PlanCycle.lean ====
section
/-! DEFINITION. Plan cycles of a context (R49 to R66): the horizon, the release rule, lateness, Frost and thaw, stop-at-cycle, and what a
plan cycle does when it is executed (R99, R115, R280, R296). -/

namespace Sys2Proof.Machine

/-! ### What holds a context at a plan cycle (R54, R55, R101) -/

/-- A cause of Frost: its code and detail (R61). -/
structure Hold where
  code   : Nat
  detail : Nat
deriving DecidableEq, Repr

/-- D_hop of a context's plan. -/
def Ctx.dhop (c : Ctx) : Nat := match c.image with
  | some im => dHop im.dhop
  | none => 0

/-- The links whose neighbour's stamp does not allow cycle `c` (R54), or, with the margin of R56, does not allow a thaw. -/
def Ctx.behind (x : Ctx) (c : Nat) (thaw : Bool) : List Nat :=
  x.links.filter fun l =>
    let st := KMap.get ({} : Stamp) x.plan.stamps l
    !st.ended && decide (st.value < (c : Int) - (if thaw then x.dhop / 2 else x.dhop : Nat))

/-- The plan slots of a link whose flit is released at cycle `c` (R55): receive entries of USE 1. -/
def State.dueSlots (s : State) (im : Image) (l c : Nat) : List Nat :=
  let d := dHop im.dhop
  if c < d then [] else (slotsAt (s.getLink l).half (c - d)).filter fun g => decide (g % 64 < 56) && (im.slot l true (g % 64)).use == 1

/-- A receive buffer entry's presence. -/
def Link.holds (x : Link) (g : Nat) : Bool := x.buf.any fun e => e.1 == g

/-- The links on which a flit due at `c` is absent. -/
def State.lateLinks (s : State) (im : Image) (c : Nat) : List Nat :=
  im.planLinks.filter fun l => (s.dueSlots im l c).any fun g => !(s.getLink l).holds g

/-- A timed macro-op's cause where it is late (R101, R124). -/
def lateHold (c : Ctx) (x : Tile) (t : Nat) (o : MacroOp) : Hold :=
  if o.op = opWait then { code := if o.waitClass = 1 then 5 else if o.waitClass = 2 then 6 else if o.waitClass = 3 then 7 else 8,
                          detail := t + 1024 * (if o.waitClass = 0 then o.obj else o.waitIndex) }
  else if o.op = opStepEnd ∧ (c.variantOf (x.step + 1)).isNone then { code := 4, detail := (x.step + 1) % 65536 }
  else { code := 8, detail := t + 1024 * (if o.op = opSend ∨ o.op = opRecv ∨ o.op = opMove then o.sig else 0) }

/-- The macro-ops of a tile's stream that have not dispatched: the issue queue, then what is not fetched. -/
def State.undispatched (s : State) (k t : Nat) : List MacroOp :=
  let x := s.getTile t
  let c := s.getCtx k
  match c.image, c.vtile t with
  | some im, some vt =>
    let (va, len) := im.stream x.variant vt
    x.issueQ ++ s.opsAt k va x.fetchPos (len - x.fetchPos)
  | _, _ => x.issueQ

/-- The timed macro-ops that keep a tile from cycle `c` (R101, log entry 23): those due where the head cannot dispatch, else those whose AT is this
cycle and which are not the head that dispatches in it. -/
def State.lateOps (s : State) (k t c : Nat) : List MacroOp :=
  let x := s.getTile t
  let all := s.undispatched k t
  if x.endTaken then []
  else if !s.ready k t c then all.filter fun o => o.timed && decide (x.base + o.at_ ≤ c)
  else (all.drop (if x.lastDisp = some c then 0 else 1)).filter fun o => o.timed && x.base + o.at_ == c

/-- Sends that keep a context from cycle `c` (R130): a slot of the stream has come up, or comes up in it, and no flit of the macro-op has left
SRAM. -/
def State.lateSends (s : State) (k : Nat) (im : Image) (c : Nat) : List Hold :=
  let tiles := (s.getCtx k).planTiles
  im.planLinks.flatMap fun l =>
    let gs := s.sendSlots im l c
    ((s.getLink l).txDue ++ gs).filterMap fun g =>
      let e := im.slot l false (g % 64)
      let t := tiles.getD e.vtile 576
      let x := s.getTile t
      let before := countP (fun h => decide (h ≤ g) && im.slot l false (h % 64) == e) gs
      match x.unsent e.stream c with
      | some r => if (x.sendable e.stream c).length < max 1 before then some { code := 8, detail := t + 1024 * r.op.sig } else none
      | none => none

/-- What the horizon and the release rule hold against cycle `c` (R54, R55, R56). -/
def State.linkHolds (s : State) (k c frosted : Nat) : List Hold :=
  let x := s.getCtx k
  match x.image with
  | none => []
  | some im =>
    let hor := (x.behind c (frosted == 2)).map fun l => { code := 2, detail := l : Hold }
    let rel := if c < x.plan.released then [] else (s.lateLinks im c).map fun l => { code := 3, detail := l : Hold }
    hor ++ rel

/-- Everything that holds a context at cycle `c`; `frosted` is the cause of an open interval, 0 for none. -/
def State.holds (s : State) (k c frosted : Nat) : List Hold :=
  let x := s.getCtx k
  match x.image with
  | none => []
  | some im =>
    let ops := x.planTiles.flatMap fun t =>
      if frosted = 0 then (s.lateOps k t c).map (lateHold x (s.getTile t) t)
      else if (s.getTile t).held ∧ !s.ready k t c then [{ code := 8, detail := t }] else []
    s.linkHolds k c frosted ++ ops ++ s.lateSends k im c

/-- The hold that a Frost record names: the lowest code, then the lowest detail of tile or link. -/
def firstHold (hs : List Hold) : Option Hold :=
  hs.foldl (fun b h => match b with
    | none => some h
    | some a => if h.code < a.code ∨ (h.code = a.code ∧ h.detail % 1024 < a.detail % 1024) then some h else some a) none

/-! ### Executing a cycle -/

/-- Flits due at a cycle pass from a link's buffer to its receive tree, bound for their slots' tiles (R55, R295), and remote SIGNALs among them take
effect (R134); EMPTY flits end here. -/
def releaseLink (s : State) (im : Image) (tiles : List Nat) (c l : Nat) : State :=
  flushSignals (s.each (s.dueSlots im l c) fun s g => s.modLink l fun x =>
    let e := KMap.get ({} : RxEntry) x.buf g
    let en := im.slot l true (g % 64)
    { x with
      buf := KMap.drop x.buf fun h => h == g,
      tree := if e.payload.isSome || e.signal.isSome then
          x.tree ++ [{ e with slot := g % 64, release := c, dst := tiles.getD en.vtile 576, stream := en.stream }] else x.tree }) l

/-- What is due at a cycle is released once, when neither the horizon nor the release rule holds the context: a macro-op that is late then may
wait for it. -/
def releaseFlits (s : State) (k c frosted : Nat) : State :=
  let x := s.getCtx k
  match x.image with
  | some im =>
    if c < x.plan.released ∨ s.linkHolds k c frosted ≠ [] then s
    else s.each im.planLinks (fun s l => releaseLink s im x.tiles c l) |>.modPlan k fun p => { p with released := c + 1 }
  | none => s

/-- The transmit slots of a cycle begin (R296): each takes its flit, or waits for it (R130). -/
def sendFlits (s : State) (k : Nat) (im : Image) (c : Nat) : State :=
  fillDue (s.each im.planLinks fun s l => let gs := s.sendSlots im l c; s.modLink l fun x => { x with txDue := x.txDue ++ gs }) k

/-- The plan has completed the cycle in which its tiles took END: it ends, and a pre-emption that waits saves it at once (R59, R280). -/
def finishPlan (s : State) (k : Nat) : State :=
  let e := (s.getCtx k).part
  let pre := (s.getCtx k).plan.stopP.isSome
  let s := endPlan s k .completed
  if pre ∧ (!e.multi || e.go) then enterSaving s k else s

/-- A context that stops and that CONTEXT_LOST has marked ends at once (R152). -/
def loseIfMarked (s : State) (k : Nat) : State :=
  if (s.getCtx k).lostMark then against (s.modCtx k fun c => { c with lostMark := false }) .waitAbandoned srcTim k else s

/-- A plan that has completed cycle P holds there in STOPPED, and saves where it need not wait for GO (R280); one that CONTEXT_LOST has marked ends
(R152). -/
def reachP (s : State) (k : Nat) : State :=
  let c := s.getCtx k
  match c.plan.stopP with
  | some p =>
    if c.plan.pcy.toNat = p + 1 then
      let s := s.modPlan k fun x => { x with state := .stopped }
      if c.lostMark then loseIfMarked s k
      else if !c.part.multi || c.part.go then enterSaving s k else s
    else s
  | none => s

/-- Plan cycle `c` is executed (R49, R62, R99, R115). -/
def runCycle (s : State) (k c : Nat) : State :=
  match (s.getCtx k).image with
  | none => s
  | some im =>
    let s := closeFrost s k false
    let s := s.modPlan k fun p => { p with state := .running }
    let s := s.each (s.getCtx k).planTiles fun s t => dispatchIf s k t
    if (s.getCtx k).plan.state = .ended then s
    else
      let s := sendFlits s k im c
      let s := s.each (s.getCtx k).planTiles fun s t => wakeHint s k t
      let s := s.modPlan k fun p => { p with pcy := p.pcy + 1 }
      let s := s.modCtx k fun x => { x with serve := { x.serve with begun := max x.serve.begun 1 } }
      if (s.getCtx k).planTiles.any fun t => (s.getTile t).endTaken then finishPlan s k else reachP s k

/-! ### The step of a plan -/

/-- STOP_EN is set and the next cycle is at or past STOP_AT (R66). -/
def State.stopDue (s : State) (k : Nat) : Bool :=
  s.bit .timCtxStop [k] 63 && decide (s.fld .timCtxStop [k] 0 63 ≤ (s.getCtx k).plan.pcy.toNat)

/-- STOPPED is entered before the next cycle, and STOP_EN clears (R66). -/
def stopPlan (s : State) (k : Nat) : State :=
  let s := closeFrost s k true
  let s := (s.modPlan k fun p => { p with state := .stopped }).setBit .timCtxStop [k] 63 false
  loseIfMarked s k

/-- A Frost begins (R61, R62): the tiles whose macro-op is late show HELD. -/
def beginFrost (s : State) (k : Nat) (h : Hold) (late : List Nat) : State :=
  loseIfMarked (openFrost (s.each late fun s t => s.modTile t fun x => { x with held := true }) k h.code h.detail) k

/-- One plan cycle of a running or frosted context: it stops where a stop is due and no Frost is open, it is frosted where something holds it, and
else it executes the cycle; a stop due at a thaw comes before the cycle. What is due at the cycle is released first. -/
def planCycle (s : State) (k : Nat) : State :=
  let x := s.getCtx k
  let c := x.plan.pcy.toNat
  let waits := x.planTiles.any fun t => match (s.getTile t).issueQ with
    | o :: _ => o.op == opWait
    | [] => false
  match x.plan.state with
  | .running =>
    if x.lostMark && waits then loseIfMarked s k
    else if s.stopDue k then stopPlan s k
    else
      let r := releaseFlits s k c 0
      match firstHold (s.holds k c 0) with
      | some h => beginFrost r k h (x.planTiles.filter fun t => !(s.lateOps k t c).isEmpty)
      | none => runCycle r k c
  | .frosted =>
    let cause := (x.plan.frost.map Frost.cause).getD 1
    if x.lostMark then loseIfMarked s k
    else if cause = 1 then s
    else
      let r := releaseFlits s k c cause
      if (firstHold (s.holds k c cause)).isSome then r
      else if r.stopDue k then stopPlan r k
      else runCycle r k c
  | _ => s

def execPlanCycleExecute (k : CtxSlot) (s : State) : Host.Outcome State Fault Refusal := .next (planCycle s k.val)

/-! ### The rows of the sequencer (R99, R101, R112) -/

/-- A context may execute its next plan cycle: it runs, and nothing holds it there (R52, R54, R55, R66, R101). -/
def State.mayRun (s : State) (k : Nat) : Bool :=
  (s.getCtx k).plan.state == .running && !s.stopDue k && (s.holds k (s.getCtx k).plan.pcy.toNat 0).isEmpty

/-- The row of a sequencer's macro-op: it dispatches where it is the head of the issue queue, its context may execute the cycle, and R99 holds. -/
def sequence (s : State) (t opc : Nat) : State :=
  match s.tileCtx t with
  | none => s
  | some k =>
    match (s.getTile t).issueQ with
    | [] => s
    | o :: _ =>
      if o.op = opc ∧ !o.remote ∧ s.mayRun k ∧ ((s.getCtx k).vtile t).isSome then dispatchIf s k t else s

def execNop (t : TileIx) (s : State) : Host.Outcome State Fault Refusal := .next (sequence s t.val opNop)

/-- A running context that CONTEXT_LOST has marked ends when a tile reaches a WAIT (R152); else the WAIT dispatches where it may. -/
def waitRow (s : State) (t : Nat) : State :=
  match s.tileCtx t, (s.getTile t).issueQ with
  | some k, o :: _ =>
    let c := s.getCtx k
    if o.op = opWait ∧ c.lostMark ∧ c.plan.state = .running then
      against (s.modCtx k fun c => { c with lostMark := false }) .waitAbandoned (srcTile t) k
    else sequence s t opWait
  | _, _ => s

def execWait (t : TileIx) (s : State) : Host.Outcome State Fault Refusal := .next (waitRow s t.val)

def execFence (t : TileIx) (s : State) : Host.Outcome State Fault Refusal := .next (sequence s t.val opFence)
def execStepEnd (t : TileIx) (s : State) : Host.Outcome State Fault Refusal := .next (sequence s t.val opStepEnd)
def execEndOp (t : TileIx) (s : State) : Host.Outcome State Fault Refusal := .next (sequence s t.val opEnd)
def execSleep (t : TileIx) (s : State) : Host.Outcome State Fault Refusal := .next (sequence s t.val opSleep)

/-- SIGNAL (R112): a local one at the head of the issue queue dispatches and adds VALUE; a remote one that has started on the router port
sends its flit. -/
def execSignal (t : TileIx) (s : State) : Host.Outcome State Fault Refusal :=
  match s.tileCtx t.val with
  | some k => .next (signalOut (sequence s t.val opSignal) k t.val)
  | none => .next s

/-! ### The start of a plan -/

/-- An ARMED context executes its first cycle once MT has reached T_L and its plan tiles run (R50, R390). -/
def execPlanStart (k : CtxSlot) (s : State) : Host.Outcome State Fault Refusal :=
  let c := s.getCtx k.val
  if c.plan.state = .armed ∧ c.plan.tl.toNat ≤ s.mtN ∧ c.planTiles.all (fun t => (s.getTile t).power == .run && !(s.getTile t).waking) then
    .next (planCycle (s.modPlan k.val fun p => { p with state := .running }) k.val)
  else .next s

end Sys2Proof.Machine
end

