-- ==== Sys2Proof/Machine/PlanImage.lean ====
section
/-! DEFINITION. A plan image as the loader reads it (R155 to R165, R459): header, section table, sections and their entries, and the first two
of the load's five passes (R170). -/

namespace Sys2Proof.Machine

/-! ### Header and sections -/

/-- A failure of a load (R170): the reason's code and its location in LDR_WHERE. -/
structure Reject where
  code : Nat
  index : Nat := 0
  sec : Nat := 65535
  vtile : Nat := 0
deriving DecidableEq, Repr

/-- The first failure of a list of checks. -/
def firstBad (l : List (Option Reject)) : Option Reject := l.findSome? id

/-- A failure where a condition holds. -/
def failIf (b : Bool) (r : Reject) : Option Reject := if b then some r else none

/-- A section table entry with its index (R156). -/
structure Sec where
  index   : Nat
  typ     : Nat
  chip    : Nat
  variant : Nat
  vtile   : Nat
  off     : Nat
  size    : Nat
deriving DecidableEq, Repr

/-- The header's fields (R155). -/
structure Hdr where
  grades   : Nat
  dhop     : Nat
  serving  : Bool
  chips    : Nat
  lead     : Nat
  variants : Nat
  var0     : Nat
  var1     : Nat
  vrows    : Nat
  engines  : Nat
  secs     : Nat
  table    : Nat
  vocab    : Nat
deriving DecidableEq, Repr

def Hdr.parse (b : List Byte) : Hdr :=
  { grades := leAt b 6 1, dhop := leAt b 7 1 % 4, serving := leAt b 7 1 / 4 % 2 == 1, chips := leAt b 16 4, lead := leAt b 20 4,
    variants := leAt b 24 2, var0 := leAt b 26 1, var1 := leAt b 27 1, vrows := leAt b 28 1, engines := leAt b 29 1, secs := leAt b 32 4,
    table := leAt b 36 4, vocab := leAt b 40 4 }

/-- A section table entry. -/
def Sec.parse (b : List Byte) (table i : Nat) : Sec :=
  let a := table + 24 * i
  { index := i, typ := leAt b a 2, chip := leAt b (a + 2) 2, variant := leAt b (a + 4) 2, vtile := leAt b (a + 6) 2, off := leAt b (a + 8) 8,
    size := leAt b (a + 16) 8 }

/-- An image with its header and section table read. -/
structure Img where
  b    : List Byte
  h    : Hdr
  secs : List Sec
deriving DecidableEq, Repr

def Img.parse (b : List Byte) : Img :=
  let h := Hdr.parse b
  { b := b, h := h, secs := (List.range h.secs).map (Sec.parse b h.table) }

/-- Section types (R157). -/
def secChips : Nat := 0x0001
def secVariants : Nat := 0x0002
def secStream : Nat := 0x0010
def secDescs : Nat := 0x0011
def secAttrs : Nat := 0x0012
def secBounds : Nat := 0x0013
def secSram : Nat := 0x0014
def secStreams : Nat := 0x0015
def secSegs : Nat := 0x0020
def secSegInit : Nat := 0x0021
def secVault : Nat := 0x0022
def secRelocs : Nat := 0x0023
def secSlots : Nat := 0x0024
def secRoutes : Nat := 0x0025

/-- The size of an entry of a section type; 1 for sections of records, none for a reserved type. -/
def entrySize (t : Nat) : Option Nat :=
  if t = secChips ∨ t = secDescs then some 32
  else if t = secVariants ∨ t = secBounds ∨ t = secRoutes then some 8
  else if t = secStream ∨ t = secSegs then some 16
  else if t = secAttrs then some 48
  else if t = secSram ∨ t = secSegInit then some 1
  else if t = secStreams then some 2048
  else if t = secVault then some 64
  else if t = secRelocs then some 24
  else if t = secSlots then some 448
  else none

/-- A virtual tile's row-major index from its VTILE key, and back (R156). -/
def ofKey (v : Nat) : Nat := 32 * (v % 16) + v / 16 % 32
def toKey (vt : Nat) : Nat := vt / 32 + 16 * (vt % 32)

/-- The section of a type with its keys. -/
def Img.find (im : Img) (t c v vt : Nat) : Option Sec :=
  im.secs.find? fun x => x.typ == t && x.chip == c && x.variant == v && x.vtile == vt

/-- The bytes of a section; none has none. -/
def Img.body (im : Img) : Option Sec → List Byte
  | some x => slice im.b x.off x.size
  | none => []

/-- The place of a section in LDR_WHERE. -/
def secIx : Option Sec → Nat
  | some x => x.index
  | none => 65535

/-- The entries of `n` bytes of a section. -/
def Img.entries (im : Img) (n : Nat) (x : Option Sec) : List Nat := (chunks n (im.body x)).map leNat

/-- Sections of a chip, of a tile, and of a tile's variant. -/
def Img.chipSec (im : Img) (t c : Nat) : Option Sec := im.find t c 65535 65535
def Img.tileSec (im : Img) (t c vt : Nat) : Option Sec := im.find t c 65535 (toKey vt)
def Img.streamSec (im : Img) (c v vt : Nat) : Option Sec := im.find secStream c v (toKey vt)

/-- The entries of the chip table and of the variant table. -/
def Img.chipTable (im : Img) : List Nat := im.entries 32 (im.find secChips 65535 65535 65535)
def Img.variantTable (im : Img) : List Nat := im.entries 8 (im.find secVariants 65535 65535 65535)
def Img.chip (im : Img) (c : Nat) : Nat := im.chipTable.getD c 0
/-- LINKS, HBM_PAGES, CXL_PAGES and REQ_QUOTA of a chip (R158). -/
def Img.links (im : Img) (c : Nat) : Nat := fieldN (im.chip c) 16 6
def Img.hbmPages (im : Img) (c : Nat) : Nat := fieldN (im.chip c) 32 32
def Img.cxlPages (im : Img) (c : Nat) : Nat := fieldN (im.chip c) 64 32
def Img.quota (im : Img) (c : Nat) : Nat := fieldN (im.chip c) 96 32
/-- STEP_LEN and KIND of a variant (R159): 0 STEP, 1 FINAL, 2 END_MARK. -/
def Img.variant (im : Img) (v : Nat) : Nat × Nat := let w := im.variantTable.getD v 0; (fieldN w 0 32, fieldN w 32 8)
/-- The variants that have streams. -/
def Img.streamed (im : Img) : List Nat := (List.range im.h.variants).filter fun v => decide ((im.variant v).2 ≤ 1)
/-- The plan tiles, as virtual tiles. -/
def Img.tiles (im : Img) : List Nat := List.range (32 * im.h.vrows)

/-! ### Records (R459) -/

/-- The records of an SRAM_INIT section as far as they are well formed, and whether they fill it. -/
def sramRecs : Nat → List Byte → List (Nat × List Byte) × Bool
  | _, [] => ([], true)
  | 0, _ => ([], false)
  | fuel + 1, bs =>
    let w := leAt bs 0 8
    let a := fieldN w 0 21
    let n := fieldN w 32 32
    if bs.length < 8 + n ∨ fieldN w 21 11 ≠ 0 ∨ a % 32 ≠ 0 ∨ n % 32 ≠ 0 ∨ sramEnd < a + n then ([], false)
    else
      let r := sramRecs fuel (bs.drop (8 + n))
      ((a, slice bs 8 n) :: r.1, r.2)

/-- The records of a SEGMENT_INIT section (segment, offset, data), by the sizes of the segments. -/
def segRecs (sizes : List Nat) : Nat → List Byte → List (Nat × Nat × List Byte) × Bool
  | _, [] => ([], true)
  | 0, _ => ([], false)
  | fuel + 1, bs =>
    let g := leAt bs 0 8
    let o := leAt bs 8 8
    let n := leAt bs 16 8
    let e := 16 * ceilDiv (24 + n) 16
    if bs.length < e ∨ sizes.length ≤ g ∨ sizes.getD g 0 < o + n ∨ (slice bs (24 + n) (e - 24 - n)).any (· != 0) then ([], false)
    else
      let r := segRecs sizes fuel (bs.drop e)
      ((g, o, slice bs 24 n) :: r.1, r.2)

/-- A chip's segments: SIZE and the word of TIER, WRITE and WINDOW (R163). -/
def Img.segs (im : Img) (c : Nat) : List (Nat × Nat) :=
  (im.entries 16 (im.chipSec secSegs c)).map fun w => (w % 2 ^ 64, w / 2 ^ 64)

/-- A chip's SEGMENT_INIT records. -/
def Img.segInit (im : Img) (c : Nat) : List (Nat × Nat × List Byte) :=
  let b := im.body (im.chipSec secSegInit c)
  (segRecs ((im.segs c).map Prod.fst) b.length b).1

/-- A tile's SRAM_INIT records. -/
def Img.sramInit (im : Img) (c vt : Nat) : List (Nat × List Byte) :=
  let b := im.body (im.tileSec secSram c vt)
  (sramRecs b.length b).1

/-- The macro-ops of a tile's stream of a variant; a tile without a section has the one word of R159. -/
def Img.stream (im : Img) (c v vt : Nat) : List MacroOp :=
  match im.streamSec c v vt with
  | some x => (im.entries 16 (some x)).zipIdx.map fun (w, i) => { word := w, index := i }
  | none => [{ word := (if (im.variant v).2 = 0 then opStepEnd else opEnd) + (im.variant v).1 * 2 ^ 16, index := 0 }]

/-- Bytes that a run of `n` macro-ops takes in the stream segment (R167). -/
def streamBytes (n : Nat) : Nat := 64 * ceilDiv n 4

/-- The size of a chip's stream segment before it is rounded up to pages (R158). -/
def Img.streamTotal (im : Img) (c : Nat) : Nat :=
  let vs := im.streamed
  let own := im.secs.filter fun x => x.typ == secStream && x.chip == c && vs.contains x.variant
  64 * ((im.tiles.length * vs.length) - own.length) + sumN (own.map fun x => streamBytes (x.size / 16))

/-! ### Pass 1 (R155 to R159, R163, R459) -/

/-- BAD_HEADER (R155). -/
def Img.badHeader (im : Img) : Bool :=
  let h := im.h
  let b := im.b
  let n := b.length
  let digest := sha384 (b.take (n - 48))
  decide (n < 256 ∨ n % 16 ≠ 0 ∨ leAt b 0 4 ≠ 0x4C505753 ∨ leAt b 5 1 ≠ 1 ∨ leAt b 8 8 ≠ n ∨ 8 ≤ h.grades ∨ 8 ≤ leAt b 7 1 ∨ 16 ≤ h.engines
    ∨ leAt b 30 2 ≠ 0 ∨ leAt b 44 84 ≠ 0 ∨ h.chips = 0 ∨ 32768 < h.chips ∨ h.chips ≤ h.lead ∨ h.variants = 0 ∨ 256 < h.variants ∨ h.vrows = 0
    ∨ 16 < h.vrows ∨ (h.vocab ≠ 0 ∧ h.engines / 8 % 2 = 0) ∨ h.table % 16 ≠ 0 ∨ h.table < 128 ∨ n - 48 < h.table + 24 * h.secs)
    || digest != b.drop (n - 48)

/-- The keys of an entry lie in their ranges (R156). -/
def Img.keysOk (im : Img) (x : Sec) : Bool :=
  let chip := decide (x.chip < im.h.chips)
  let tile := decide (x.vtile < 512 ∧ x.vtile % 16 < im.h.vrows)
  if x.typ ≤ secVariants then x.chip == 65535 && x.variant == 65535 && x.vtile == 65535
  else if secSegs ≤ x.typ then chip && x.variant == 65535 && x.vtile == 65535
  else if x.typ = secStream then chip && decide (x.variant < im.h.variants) && tile
  else chip && x.variant == 65535 && tile

/-- The order of the section table. -/
def Sec.key (x : Sec) : Nat := ((x.chip * 65536 + x.typ) * 65536 + x.variant) * 65536 + x.vtile

/-- Sizes that a section may have: whole entries, one entry where there is one a tile, the descriptors that a tile has, at most 2^24
macro-ops and 0x7FFF segments, and a slot table for each link in LINKS. DESIGN CHOICE (log entry 117): more descriptors than a tile has are
BAD_SECTION. -/
def Img.sizeOk (im : Img) (x : Sec) : Bool :=
  match entrySize x.typ with
  | none => false
  | some n =>
    x.size % n == 0 && (
      if x.typ = secAttrs ∨ x.typ = secStreams then x.size == n
      else if x.typ = secDescs then decide (x.size ≤ 32 * 1024)
      else if x.typ = secStream then decide (x.size ≤ 16 * 2 ^ 24)
      else if x.typ = secSegs then decide (x.size ≤ 16 * 0x7FFF)
      else if x.typ = secChips then x.size == 32 * im.h.chips
      else if x.typ = secVariants then x.size == 8 * im.h.variants
      else true)

/-- Two ranges of bytes meet. -/
def meets (a n b m : Nat) : Bool := decide (0 < n ∧ 0 < m ∧ a < b + m ∧ b < a + n)

/-- An entry of the section table breaks R156 or R157. -/
def Img.badSec (im : Img) (x : Sec) : Bool :=
  let before := im.secs.take x.index
  !im.keysOk x || !im.sizeOk x || x.off % 16 != 0 || decide (im.b.length - 48 < x.off + x.size) || meets x.off x.size 0 128
    || meets x.off x.size im.h.table (24 * im.h.secs) || before.any (fun y => decide (x.key ≤ y.key) || meets x.off x.size y.off y.size)

/-- The first entry of a section whose contents break R157, R163 or R459. -/
def Img.badEntry (im : Img) (x : Sec) : Option Nat :=
  let b := im.body (some x)
  let bad (l : List Nat) (p : Nat → Bool) : Option Nat := l.findIdx? p
  if x.typ = secAttrs then if b.any (fun v => decide (1 < v.toNat)) then some 0 else none
  else if x.typ = secBounds then bad (im.entries 8 (some x)) fun w => fieldN w 16 16 != 0
  else if x.typ = secSram then let r := sramRecs b.length b; if r.2 then none else some r.1.length
  else if x.typ = secSegs then
    bad (im.entries 16 (some x)) fun w => decide (w % 2 ^ 64 = 0 ∨ w % pageBytes ≠ 0 ∨ 2 < fieldN w 64 8 ∨ fieldN w 74 54 ≠ 0)
  else if x.typ = secSegInit then
    let r := segRecs ((im.segs x.chip).map Prod.fst) b.length b
    if r.2 then none else some r.1.length
  else if x.typ = secSlots then if x.size = 448 * countP (fun l => fieldN (im.links x.chip) l 1 == 1) Sys2Proof.Machine.links then none else some 0
  else none

/-- A chip's entry differs from what R158 asks: reserved bits, a COORD seen before, its LINK_SLOTS missing, or a page count that is not its
sum. -/
def Img.badChip (im : Img) (c : Nat) : Bool :=
  let e := im.chip c
  let sum (p : Nat → Bool) : Nat := sumN (((im.segs c).filter fun g => p (g.2 % 256)).map fun g => g.1 / pageBytes)
  decide (fieldN e 15 1 ≠ 0 ∨ fieldN e 22 10 ≠ 0 ∨ fieldN e 128 128 ≠ 0) || (im.chipTable.take c).any (fun d => fieldN d 0 15 == fieldN e 0 15)
    || (im.links c != 0 && (im.chipSec secSlots c).isNone) || im.hbmPages c != sum (fun t => decide (t < 2)) + ceilDiv (im.streamTotal c) pageBytes
    || im.cxlPages c != sum fun t => t == 2

/-- Pass 1, on the bytes that the loader read; `ue` says that a word of the staging buffer was uncorrectable. -/
def Img.pass1 (im : Img) (ue : Bool) : Option Reject :=
  if ue then some { code := 0x01 }
  else if im.badHeader then some { code := 0x02 }
  else match im.secs.find? im.badSec with
  | some x => some { code := 0x03, sec := x.index }
  | none =>
    firstBad [failIf (im.find secChips 65535 65535 65535).isNone { code := 0x03 }, failIf (im.find secVariants 65535 65535 65535).isNone { code := 0x03 },
      im.secs.findSome? fun x => (im.badEntry x).map fun i => { code := 0x03, index := i, sec := x.index },
      ((List.range im.h.chips).find? im.badChip).map fun i => { code := 0x03, index := i, sec := secIx (im.find secChips 65535 65535 65535) }]

/-! ### Pass 2 -/

/-- The context's member entry (R166): the chip table entry at this chip's relative coordinate under the live partition entry. -/
def State.member (s : State) (k : Nat) (im : Img) : Option Nat :=
  let c := s.getCtx k
  if c.part.state = .free ∨ c.part.ctxGen ≠ c.gen then none
  else im.chipTable.findIdx? fun e => fieldN e 0 15 == s.relOf s.self c.part.origin

/-- STACK of a chip's VAULT_REQ entries. -/
def Img.stacks (im : Img) (c : Nat) : List Nat := (im.entries 64 (im.chipSec secVault c)).map fun w => fieldN w 448 8

/-- A chip's first macro-op that needs the vault, which grade N lacks. -/
def Img.vaultOp (im : Img) (c : Nat) : Option Reject :=
  im.tiles.findSome? fun vt => (List.range im.h.variants).findSome? fun v => match im.streamSec c v vt with
    | some x => ((im.stream c v vt).find? fun o => o.op == opVaultGemv || o.op == opVaultStream).map fun o =>
        { code := 0x06, index := o.index, sec := x.index, vtile := vt }
    | none => none

/-- ENGINE_ABSENT (R4, R5): the vault's entries and macro-ops of another chip are not judged here. -/
def State.engineAbsent (s : State) (im : Img) (me : Option Nat) : Option Reject :=
  let st := match me with
    | some c => im.stacks c
    | none => []
  let at_ := match me with
    | some c => secIx (im.chipSec secVault c)
    | none => 65535
  if s.fuses.grade = 3 then
    firstBad [failIf (im.h.engines % 4 != 0) { code := 0x06 }, failIf (!st.isEmpty) { code := 0x06, sec := at_ },
      match me with
      | some c => im.vaultOp c
      | none => none]
  else (st.findIdx? fun v => decide (v < 4) && s.vaultFused v).map fun i => { code := 0x06, index := i, sec := at_ }

/-- BAD_VARIANT_TABLE (R159). -/
def Img.badVariants (im : Img) : Option Reject :=
  let h := im.h
  let t := secIx (im.find secVariants 65535 65535 65535)
  let bad (v : Nat) : Bool := decide (h.variants ≤ v ∨ (im.variant v).2 = 2)
  firstBad [(im.variantTable.findIdx? fun w => decide (fieldN w 0 32 = 0 ∨ 2 < fieldN w 32 8 ∨ fieldN w 40 24 ≠ 0)).map fun i =>
      { code := 0x0B, index := i, sec := t },
    failIf (bad h.var0) { code := 0x0B, index := h.var0, sec := t }, failIf (bad h.var1) { code := 0x0B, index := h.var1, sec := t },
    failIf (!h.serving && (h.variants != 1 || (im.variant 0).2 != 1)) { code := 0x0B, sec := t },
    (im.secs.find? fun x => x.typ == secStream && (im.variant x.variant).2 == 2).map fun x => { code := 0x0B, index := x.variant, sec := x.index }]

/-- Pass 2. -/
def State.pass2 (s : State) (k : Nat) (im : Img) : Option Reject :=
  let me := s.member k im
  firstBad [failIf (fieldN im.h.grades (s.fuses.grade - 1) 1 == 0) { code := 0x04 }, failIf (im.h.dhop == 3) { code := 0x05 },
    s.engineAbsent im me, failIf (decide (s.gridRows < im.h.vrows)) { code := 0x07 }, failIf me.isNone { code := 0x08 }, im.badVariants]

end Sys2Proof.Machine
end

