-- ==== Sys2Proof/Machine/LoadCheck.lean ====
section
/-! DEFINITION. Passes 3 to 5 of a load (R170): tickets, descriptors (R107), relocations (R165, R168), macro-ops (R104, R105, R111, R126 to
R128), streams, slot tables, links, routes, the buffer bound (R297) and mesh claims (R291 to R293). -/

namespace Sys2Proof.Machine

/-! ### Pass 3 -/

/-- The mapped tiles still belong to the context and are good (R278). -/
def State.mapped (s : State) (k : Nat) (ts : List Nat) : Bool :=
  ts.all fun t => (s.getTile t).state == .granted && (s.getTile t).ctx == some (s.idOf k)

/-- TICKET_SHORT: tiles of the mapping, frames, records and links. -/
def State.short (s : State) (k : Nat) (im : Img) (c : Nat) (mapping : List Nat) : Bool :=
  let x := s.getCtx k
  decide (mapping.length < im.tiles.length ∨ x.hbm.length < im.hbmPages c ∨ x.cxl.length < im.cxlPages c ∨ x.quota < im.quota c)
    || !s.mapped k (mapping.take im.tiles.length) || links.any fun l => fieldN (im.links c) l 1 == 1 && !x.links.contains l

/-- The regions bound to a context, by stack and entry. -/
def State.boundRegions (s : State) (k : Nat) : List (Nat × Nat) := (List.range 4).flatMap fun v => (s.regionsOf k v).map fun r => (v, r)

/-- The region that a VAULT_REQ entry names (R164): the first of the context's regions, by stack and entry, whose digest, size and stack match. -/
def State.vaultMatch (s : State) (k e : Nat) : Option (Nat × Nat) :=
  (s.boundRegions k).find? fun (v, r) =>
    let x := s.getRegion v r
    leNat x.digest == e % 2 ^ 384 && x.size == fieldN e 384 64 && (fieldN e 448 8 == v || fieldN e 448 8 == 255)

/-- The base of each vault region of the image in vault space (R181), with its size. -/
def State.vaultBases (s : State) (k : Nat) (im : Img) (c : Nat) : List (Option (Nat × Nat)) :=
  (im.entries 64 (im.chipSec secVault c)).map fun e =>
    (s.vaultMatch k e).map fun (v, r) => (v * 2 ^ 37 + (s.getRegion v r).first * 2 ^ 26, fieldN e 384 64)

/-- Pass 3. -/
def State.pass3 (s : State) (k : Nat) (im : Img) (c : Nat) (mapping : List Nat) : Option Reject :=
  firstBad [failIf (s.short k im c mapping) { code := 0x09 },
    ((s.vaultBases k im c).findIdx? Option.isNone).map fun i => { code := 0x0A, index := i, sec := secIx (im.chipSec secVault c) }]

/-! ### Pass 4: descriptors (R107) -/

/-- The descriptors that the image defines on a tile. -/
def Img.descs (im : Img) (c vt : Nat) : List Desc := (chunks 32 (im.body (im.tileSec secDescs c vt))).map Desc.parse

/-- A tile's INDEX_BOUNDS: count array and largest index. -/
def Img.bounds (im : Img) (c vt : Nat) : List (Nat × Nat) :=
  (im.entries 8 (im.tileSec secBounds c vt)).map fun w => (fieldN w 0 16, fieldN w 32 32)

/-- Bytes from DATA that a descriptor's data and scales take, with the largest index (R107, R168). -/
def Desc.extent (d : Desc) (bound : Nat) : Nat :=
  (if d.kind = 3 then 4 * d.rows else max ((d.lines - 1) * d.stride + d.lineBytes) (d.scaleOff + 2 * d.lines * d.blocks)) + d.indexStride * bound

/-- The largest index that the count array of an indexed descriptor takes; 0 for one that is not indexed. -/
def boundOf (bs : List (Nat × Nat)) (d : Desc) : Nat :=
  if d.indexEn then ((bs.find? fun e => e.1 == d.indexDesc).map Prod.snd).getD 0 else 0

/-- A descriptor breaks R106 or R107; `reserved` are its reserved bits. -/
def Desc.bad (d : Desc) (reserved : Nat) (ds : List Desc) (bs : List (Nat × Nat)) : Bool :=
  decide (reserved ≠ 0 ∨ 3 < d.kind ∨ 3 < d.fmt ∨ d.rows = 0 ∨ d.cols = 0)
    || (!d.indexEn && d.indexStride != 0)
    || (d.indexEn && ((ds[d.indexDesc]?).map Desc.kind != some 3 || !(bs.any fun e => e.1 == d.indexDesc)))
    || (if d.kind = 3 then decide (d.fmt ≠ 3 ∨ d.cols ≠ 1 ∨ d.axis = true ∨ d.stride ≠ 4 ∨ d.scaleOff ≠ 0 ∨ d.indexEn = true ∨ d.data % 4 ≠ 0)
        else decide (d.len % 32 ≠ 0 ∨ d.stride < d.lineBytes ∨ d.data % 32 ≠ 0 ∨ d.stride % 32 ≠ 0 ∨ (d.data + d.scaleOff) % 32 ≠ 0))
    || ((d.kind == 0 || d.kind == 3) && decide (sramEnd < d.data + d.extent (boundOf bs d)))

/-- BAD_DESCRIPTOR on a tile: descriptors, then the entries of INDEX_BOUNDS. -/
def Img.badDescs (im : Img) (c vt : Nat) : Option Reject :=
  let raw := im.entries 32 (im.tileSec secDescs c vt)
  let ds := im.descs c vt
  let bs := im.bounds c vt
  firstBad [((ds.zip raw).findIdx? fun (d, w) => d.bad (fieldN w 18 14) ds bs).map fun i =>
      { code := 0x0F, index := i, sec := secIx (im.tileSec secDescs c vt), vtile := vt },
    ((List.range bs.length).find? fun i =>
      let j := (bs.getD i (0, 0)).1
      (ds[j]?).map Desc.kind != some 3 || (bs.take i).any fun e => e.1 == j).map fun i =>
      { code := 0x0F, index := i, sec := secIx (im.tileSec secBounds c vt), vtile := vt }]

/-! ### Pass 4: relocations (R165, R167, R168) -/

/-- A RELOCS record. -/
structure Reloc where
  index : Nat
  kind  : Nat
  vtile : Nat
  seg   : Nat
  place : Nat
  add   : Nat
  resv  : Bool
deriving DecidableEq, Repr

def Img.relocs (im : Img) (c : Nat) : List Reloc :=
  (im.entries 24 (im.chipSec secRelocs c)).zipIdx.map fun (w, i) =>
    { index := i, kind := fieldN w 0 8, vtile := fieldN w 32 16, seg := fieldN w 48 16, place := fieldN w 64 32, add := fieldN w 128 64,
      resv := fieldN w 8 24 != 0 || fieldN w 96 32 != 0 }

/-- The virtual bases of segments of the given sizes (R167). -/
def segBases : Nat → List Nat → List Nat
  | _, [] => []
  | a, n :: r => a :: segBases (a + n + pageBytes) r

/-- The base of the stream segment (R167). -/
def streamBase : Nat := 0x800000000000

/-- Base and size of what SEG names: segments, the stream segment, vault regions. -/
def segBase (im : Img) (c : Nat) (vault : List (Option (Nat × Nat))) (seg : Nat) : Option (Nat × Nat) :=
  let sizes := (im.segs c).map Prod.fst
  if seg < 0x7FFF then (if seg < sizes.length then some ((segBases pageBytes sizes).getD seg 0, sizes.getD seg 0) else none)
  else if seg = 0x7FFF then some (streamBase, pageBytes * ceilDiv (im.streamTotal c) pageBytes)
  else (vault.getD (seg - 0x8000) none)

/-- A record of a plan tile breaks R165 or R168: `before` are the tile's earlier records. DESIGN CHOICE (log entry 118): the ADDEND of a TKIND 1
record is not held to its segment's or region's size, and a TKIND 0 record on a descriptor of KIND 0 or 3 breaks R165. -/
def Img.badReloc (im : Img) (c vt : Nat) (vault : List (Option (Nat × Nat))) (before : List Reloc) (r : Reloc) : Bool :=
  match segBase im c vault r.seg with
  | none => true
  | some (base, size) =>
    r.resv || (if r.kind = 1 then
        r.place % 8 != 0 || !(im.sramInit c vt).any fun e => decide (e.1 ≤ r.place ∧ r.place + 8 ≤ e.1 + e.2.length)
      else if r.kind = 0 then
        match (im.descs c vt)[r.place]? with
        | none => true
        | some d =>
          !((d.kind == 1 && decide (r.seg < 0x8000)) || (d.kind == 2 && decide (0x8000 ≤ r.seg)))
            || before.any (fun q => q.kind == 0 && q.place == r.place) || (base + r.add) % 32 != 0 || (base + r.add + d.scaleOff) % 32 != 0
            || decide (size < r.add + d.extent (boundOf (im.bounds c vt) d))
      else true)

/-- RELOC_RANGE on a tile: its records in order, then a descriptor of memory or of the vault without one. -/
def Img.badRelocs (im : Img) (c vt : Nat) (vault : List (Option (Nat × Nat))) : Option Reject :=
  let rs := (im.relocs c).filter fun r => ofKey r.vtile == vt
  let at_ := secIx (im.chipSec secRelocs c)
  firstBad [(rs.zipIdx.find? fun (r, i) => im.badReloc c vt vault (rs.take i) r).map fun (r, _) => { code := 0x10, index := r.index, sec := at_, vtile := vt },
    ((im.descs c vt).zipIdx.find? fun (d, i) => (d.kind == 1 || d.kind == 2) && !(rs.any fun r => r.kind == 0 && r.place == i)).map fun (_, i) =>
      { code := 0x10, index := i, sec := at_, vtile := vt }]

/-! ### Pass 4: macro-ops (R104, R105, R111) -/

/-- The operand fields of an opcode: lowest bit and width (R111). -/
def operandBits (op : Nat) : List (Nat × Nat) :=
  if op = opWait then [(48, 6), (54, 32), (86, 3), (89, 6)]
  else if op = opSignal then [(48, 6), (54, 32), (86, 1), (87, 6)]
  else if op = opFence then [(48, 5)]
  else if op = opSleep then [(48, 2), (50, 32)]
  else if op = opLoad then [(48, 22)]
  else if op = opStore then [(48, 21)]
  else if op = opMove then [(48, 34)]
  else if op = opSend ∨ op = opRecv then [(48, 16)]
  else if op = opMatmul then [(48, 61)]
  else if op = opAttn then [(48, 67)]
  else if op = opNorm then [(48, 75)]
  else if op = opAct then [(48, 40)]
  else if op = opSoftmax then [(48, 48)]
  else if op = opRequant then [(48, 37)]
  else if op = opVec then [(48, 76)]
  else if op = opTailorApply then [(48, 40)]
  else if op = opVaultGemv then [(48, 66)]
  else if op = opVaultStream then [(48, 20)]
  else if op = opTailorGather then [(48, 28)]
  else if op = opSample then [(48, 29), (77, 29)]
  else if op = opSampleCollect then [(48, 31)]
  else if op = opBatchFetch then [(48, 18)]
  else []

/-- A reserved bit of a macro-op is not 0: bit 15, or one of [127:48] that its opcode does not list. -/
def MacroOp.stray (o : MacroOp) : Bool :=
  ([(0, 15), (16, 32)] ++ operandBits o.op).foldl (fun (w : Nat) (f : Nat × Nat) => w - fieldN o.word f.1 f.2 * 2 ^ f.1) o.word != 0

/-- Opcodes that are assigned, and those with a completion signal (R104). -/
def knownOp (op : Nat) : Bool := decide (op ≤ 0x06 ∨ (0x10 ≤ op ∧ op ≤ 0x14) ∨ (0x20 ≤ op ∧ op ≤ 0x27) ∨ (0x30 ≤ op ∧ op ≤ 0x35))
def signalsDone (op : Nat) : Bool := decide (0x10 ≤ op)

/-- The descriptor field of the output that RQ_MODE and RQ_SCALE are for. -/
def rqOut (op : Nat) : Option Nat :=
  if op = opMatmul ∨ op = opNorm ∨ op = opVaultGemv then some 68
  else if op = opAttn then some 78
  else if op = opAct ∨ op = opSoftmax ∨ op = opRequant then some 58
  else none

/-- Indices that a WAIT's CLASS allows (R111). -/
def classRange (c : Nat) : Nat := if c = 0 then 1 else if c = 1 then 4 else if c = 2 then 2 else 4

/-- BAD_FIELD (R105). -/
def badField (ds : List Desc) (o : MacroOp) : Bool :=
  let op := o.op
  let rq := match rqOut op with
    | some b =>
      let (fixed, mo, eo) := o.rq
      (fixed && mo == 0) || ((ds[o.f b 10]?).map Desc.fmt == some 3 && (fixed || mo != 0 || eo != 0))
    | none => false
  o.stray || (o.sigEn && (!signalsDone op || decide (48 ≤ o.sig))) || ((op == opWait || op == opSignal) && decide (48 ≤ o.obj))
    || (op == opWait && decide (o.waitClass < 4 ∧ classRange o.waitClass ≤ o.waitIndex)) || (op == opSignal && !o.remote && o.f 87 6 != 0)
    || (op == opFence && o.f 48 5 == 0) || (op == opMove && o.f 81 1 == 1 && decide (48 ≤ o.f 75 6))
    || (op == opVec && ((o.bImm && o.f 58 10 != 0) || decide (0x06 ≤ o.vop ∧ o.vop ≤ 0x09 ∧ o.f 97 27 ≠ 0)))
    || (op == opSample && decide (o.f 68 9 = 0 ∨ 256 < o.f 68 9)) || (op == opSampleCollect && decide (o.f 58 10 = 0 ∨ 512 < o.f 58 10)) || rq

/-- What an operand must be: the lowest bit of its field, KIND, and where they matter whether it is narrow or A32, and its AXIS. -/
structure Need where
  at_  : Nat
  kind : Nat := 0
  fmt  : Option (List Nat) := none
  axis : Option Bool := none
deriving DecidableEq, Repr

def narrow : Option (List Nat) := some [0, 1, 2]
def a32Only : Option (List Nat) := some [3]

/-- The operands of a macro-op (R83, R111, R119, R120, R194, R221), counts left out. -/
def needs (o : MacroOp) : List Need :=
  let op := o.op
  if op = opLoad then [{ at_ := 48, kind := 1 }, { at_ := 58 }]
  else if op = opStore then [{ at_ := 48 }, { at_ := 58, kind := 1 }]
  else if op = opMove ∨ op = opNorm ∨ op = opAct then
    [{ at_ := 48, fmt := if op = opAct ∧ o.f 68 3 = 3 then a32Only else none }, { at_ := 58, fmt := if op = opNorm then some [0] else none }]
      ++ (if op = opNorm then [{ at_ := 68 }] else [])
  else if op = opSend ∨ op = opRecv ∨ op = opSampleCollect then [{ at_ := 48 }]
  else if op = opMatmul then
    [{ at_ := 48, fmt := narrow, axis := some false }, { at_ := 58, fmt := narrow, axis := some true }, { at_ := 68, axis := some false }]
  else if op = opAttn then
    [{ at_ := 48, fmt := narrow, axis := some false }, { at_ := 58, fmt := narrow, axis := some false }, { at_ := 68, fmt := narrow, axis := some true },
     { at_ := 78, axis := some false }, { at_ := 88, kind := 3 }]
  else if op = opSoftmax then [{ at_ := 48, axis := some false }, { at_ := 58, axis := some false }]
  else if op = opRequant then [{ at_ := 48, fmt := a32Only }, { at_ := 58, fmt := narrow }]
  else if op = opVec then
    let f := if o.vop < 0x10 then a32Only else none
    if 0x16 ≤ o.vop then []
    else if o.vop = 0x14 then [{ at_ := 48, kind := 3 }]
    else if o.vop = 0x13 then [{ at_ := 68 }]
    else if o.vop = 0x12 then [{ at_ := 48 }]
    else [{ at_ := 48, fmt := f }] ++ (if vopUsesB o.vop && !o.bImm then [{ at_ := 58, fmt := f }] else [])
      ++ (if vopUsesOut o.vop then [{ at_ := 68, fmt := if o.vop = 0x15 then none else a32Only }] else [])
  else if op = opTailorApply then [{ at_ := 48, fmt := narrow }, { at_ := 58 }, { at_ := 68, fmt := a32Only }, { at_ := 78, kind := 3 }]
  else if op = opVaultGemv then
    [{ at_ := 48, kind := 2, fmt := narrow, axis := some true }, { at_ := 58, fmt := narrow, axis := some false }, { at_ := 68, axis := some false }]
  else if op = opVaultStream then [{ at_ := 48, kind := 2 }, { at_ := 58 }]
  else if op = opTailorGather then [{ at_ := 48, kind := 3 }, { at_ := 58 }]
  else if op = opSample then [{ at_ := 48, fmt := a32Only, axis := some false }, { at_ := 58 }]
  else if op = opBatchFetch then [{ at_ := 48, fmt := a32Only, axis := some false }]
  else []

/-- The descriptor meets the need. -/
def Need.met (n : Need) (o : MacroOp) (ds : List Desc) : Bool :=
  match ds[o.f n.at_ 10]? with
  | none => false
  | some d => d.kind == n.kind && (n.fmt.all fun l => l.contains d.fmt) && n.axis.all fun a => d.axis == a

/-- The bit of ENGINES that a macro-op needs (R155). -/
def engineBit (op : Nat) : Option Nat :=
  if op = opVaultGemv then some 0 else if op = opVaultStream then some 1
  else if op = opTailorGather ∨ op = opTailorApply then some 2
  else if op = opSample ∨ op = opSampleCollect ∨ op = opBatchFetch then some 3
  else none

/-- The shapes of a macro-op's operands fit (R109, R111, R113, R117, R118, R194, R198, R221). -/
def shapesFit (o : MacroOp) (ds : List Desc) : Bool :=
  let d (b : Nat) : Desc := ds.getD (o.f b 10) (Desc.parse [])
  let same (x y : Desc) : Bool := x.rows == y.rows && x.cols == y.cols
  let op := o.op
  if op = opLoad ∨ op = opStore then same (d 48) (d 58) && (d 48).fmt == (d 58).fmt
  else if op = opVaultStream then same (d 48) (d 58) && (d 48).fmt == (d 58).fmt && (d 48).axis == (d 58).axis
  else if op = opMatmul then
    (d 48).cols == (d 58).rows && (d 68).rows == (d 48).rows && (d 68).cols == (d 58).cols
      && (!(decide (2 ≤ o.f 78 3 ∧ o.f 78 3 ≤ 4)) || decide ((d 48).rows ≤ 256 ∧ (d 58).cols ≤ 64))
  else if op = opAttn then
    (d 58).cols == (d 48).cols && (d 68).rows == (d 58).rows && (d 68).cols == (d 48).cols && same (d 78) (d 48) && (d 88).rows == (d 48).rows
  else if op = opRequant then same (d 48) (d 58) && (d 48).axis == (d 58).axis
  else if op = opTailorApply then (d 48).rows == (d 68).rows
  else if op = opVec ∧ o.vop = 0x15 then same (d 48) (d 68) && (d 48).fmt == (d 68).fmt
  else if op = opVaultGemv then
    decide ((d 58).rows ≤ 8 ∧ (d 58).lines * ((d 58).lineBytes + 2 * (d 58).blocks) ≤ 524288) && (d 48).rows == (d 58).cols
      && (d 68).rows == (d 58).rows && (d 68).cols == (d 48).cols
  else if op = opBatchFetch then
    let fs := o.f 58 8
    decide (fs < 64) || fs == 64 || fs == 128
  else true

/-- A count array of a macro-op is one, with an element for each row that a count per row governs (R109). -/
def countFits (o : MacroOp) (ds : List Desc) : Bool :=
  match o.cntAt with
  | none => true
  | some b => match ds[o.f b 10]? with
    | none => false
    | some c => c.kind == 3 && (!(o.op == opNorm || o.op == opSoftmax) || decide (((ds.getD (o.f 48 10) (Desc.parse [])).lines) ≤ c.rows))

/-- BAD_OPERAND (R105, R170). -/
def badOperand (engines : Nat) (ds : List Desc) (o : MacroOp) : Bool :=
  (engineBit o.op).any (fun e => fieldN engines e 1 == 0) || !(needs o).all (fun n => n.met o ds) || !countFits o ds || !shapesFit o ds

/-- A sub-code is reserved (R105): CLASS, ACC, FUNC, VOP, LEVEL. -/
def badSub (o : MacroOp) : Bool :=
  (o.op == opWait && decide (4 ≤ o.waitClass)) || (o.op == opMatmul && decide (5 ≤ o.f 78 3)) || (o.op == opAct && decide (4 ≤ o.f 68 3))
    || (o.op == opVec && decide (0x16 ≤ o.vop)) || (o.op == opSleep && (o.f 48 2 == 0 || o.f 48 2 == 3))

/-- BAD_TIMING at a macro-op of a stream of a variant (R126 to R128): `before` and `after` are its neighbours. -/
def badTiming (len kind : Nat) (before after : List MacroOp) (o : MacroOp) : Bool :=
  let last := ((before.filter MacroOp.timed).map MacroOp.at_).foldl max 0
  let ends := o.op == opStepEnd || o.op == opEnd
  decide (len < o.at_) || (o.timed && decide (o.at_ < last))
    || ((ends || after.isEmpty) && (!after.isEmpty || o.op != (if kind = 0 then opStepEnd else opEnd) || o.at_ != len))
    || (o.op == opSleep && (after.head?).any fun n => decide (n.at_ < o.f 50 32 + (if o.f 48 2 = 1 then 64 else 66000)))

/-- A stream's first macro-op that the loader refuses, with the reason's code; the checks of one macro-op stand in the order of R105. -/
def badStream (engines len kind : Nat) (ds : List Desc) (ops : List MacroOp) : Option (Nat × Nat) :=
  if ops.isEmpty then some (0x11, 0)
  else ops.zipIdx.findSome? fun (o, i) =>
    if !knownOp o.op then some (0x0C, i)
    else if badField ds o then some (0x0D, i)
    else if badOperand engines ds o then some (0x0E, i)
    else if badSub o then some (0x0C, i)
    else if badTiming len kind (ops.take i) (ops.drop (i + 1)) o then some (0x11, i)
    else none

/-- The streams of a tile, in ascending variant. -/
def Img.badStreams (im : Img) (c vt : Nat) : Option Reject :=
  im.streamed.findSome? fun v => match im.streamSec c v vt with
    | none => none
    | some x => (badStream im.h.engines (im.variant v).1 (im.variant v).2 (im.descs c vt) (im.stream c v vt)).map fun (code, i) =>
      { code := code, index := i, sec := x.index, vtile := vt }

/-- Pass 4. -/
def State.pass4 (s : State) (k : Nat) (im : Img) (c : Nat) : Option Reject :=
  let vault := s.vaultBases k im c
  firstBad [((im.relocs c).find? fun r => decide (512 ≤ r.vtile ∨ im.h.vrows ≤ r.vtile % 16)).map fun r =>
      { code := 0x10, index := r.index, sec := secIx (im.chipSec secRelocs c) },
    im.tiles.findSome? fun vt => firstBad [im.badDescs c vt, im.badRelocs c vt vault, im.badStreams c vt]]

/-! ### Pass 5: streams (R160) -/

/-- Entry `i` of a tile's TILE_STREAMS: outgoing 0 to 63, then incoming. -/
def Img.streamWord (im : Img) (c vt i : Nat) : Nat := leAt (im.body (im.tileSec secStreams c vt)) (16 * i) 16
def Img.streamEntry (im : Img) (c vt i : Nat) : StreamEntry := StreamEntry.parse (im.streamWord c vt i)

/-- A TILE_STREAMS entry breaks R160, or is an outgoing mesh entry that the incoming entry it names does not name back. -/
def Img.badStreamEntry (im : Img) (c vt i : Nat) : Bool :=
  let w := im.streamWord c vt i
  let e := StreamEntry.parse w
  let back := im.streamEntry c e.vtile (64 + e.dstream)
  fieldN w 20 44 != 0 || e.dest == 3 || (e.dest == 0 && w != 0) || (e.dest != 2 && e.link != 0)
    || ((e.dest == 2 || decide (64 ≤ i)) && e.slots != 0)
    || (decide (i < 64) && e.dest == 1 && !(decide (e.vtile < im.tiles.length) && back.dest == 1 && back.vtile == vt && back.dstream == i))

/-- A macro-op names a stream that it cannot use (R160, R292). DESIGN CHOICE (log entry 119): a MOVE within its tile uses no stream, so its STREAM
is not looked at. -/
def Img.badUse (im : Img) (c vt : Nat) (o : MacroOp) : Bool :=
  let out := im.streamEntry c vt o.stream
  if o.op = opSend then out.dest != 2
  else if o.op = opRecv then (im.streamEntry c vt (64 + o.stream)).dest != 2
  else if o.op = opMove ∧ o.remote then out.dest != 1 || out.slots == 0
  else if o.op = opSignal ∧ o.remote then !(out.dest == 2 || (out.dest == 1 && out.slots != 0))
  else false

/-- STREAM_MISMATCH on a tile. -/
def Img.badTileStreams (im : Img) (c vt : Nat) : Option Reject :=
  firstBad [((List.range 128).find? (im.badStreamEntry c vt)).map fun i =>
      { code := 0x12, index := i, sec := secIx (im.tileSec secStreams c vt), vtile := vt },
    im.streamed.findSome? fun v => ((im.stream c v vt).find? (im.badUse c vt)).map fun o =>
      { code := 0x12, index := o.index, sec := secIx (im.streamSec c v vt), vtile := vt }]

/-! ### Pass 5: slot tables (R161, R297) -/

/-- The place of a link's table in LINK_SLOTS: the links in LINKS in the order of R26. -/
def linkPlace (mask l : Nat) : Nat := countP (fun j => fieldN mask j 1 == 1) (List.range l)

/-- A LINK_SLOTS entry of a chip: transmit 0 to 55, then receive; 0 on a link outside LINKS. -/
def Img.slotWord (im : Img) (c l i : Nat) : Nat :=
  if fieldN (im.links c) l 1 = 1 then leAt (im.body (im.chipSec secSlots c)) (448 * linkPlace (im.links c) l + 4 * i) 4 else 0

/-- The links of a chip's plan. -/
def Img.planLinks (im : Img) (c : Nat) : List Nat := (Sys2Proof.Machine.links).filter fun l => fieldN (im.links c) l 1 == 1

/-- A slot entry breaks R161, or a VC0 slot names a stream that is not of its link. -/
def Img.badSlot (im : Img) (c l i : Nat) : Bool :=
  let w := im.slotWord c l i
  let e := SlotEntry.parse w
  let x := im.streamEntry c e.vtile (if i < 56 then e.stream else 64 + e.stream)
  e.use == 3 || fieldN w 17 15 != 0 || (e.use != 1 && fieldN w 2 15 != 0) || (e.use == 1 && !(x.dest == 2 && x.link == l))

/-- The first link stream of a tile that has no slot. -/
def Img.slotless (im : Img) (c vt : Nat) : Option Nat :=
  (List.range 128).find? fun i =>
    let e := im.streamEntry c vt i
    e.dest == 2 && !((List.range 56).any fun j =>
      let g := SlotEntry.parse (im.slotWord c e.link (if i < 64 then j else 56 + j))
      g.use == 1 && g.vtile == vt && g.stream == i % 64)

/-- BAD_SLOT_TABLE. -/
def Img.badSlots (im : Img) (c : Nat) : Option Reject :=
  let at_ := secIx (im.chipSec secSlots c)
  firstBad [(im.planLinks c).findSome? fun l => ((List.range 112).find? (im.badSlot c l)).map fun i =>
      { code := 0x13, index := 112 * linkPlace (im.links c) l + i, sec := at_ },
    im.tiles.findSome? fun vt => (im.slotless c vt).map fun i => { code := 0x13, index := i, sec := secIx (im.tileSec secStreams c vt), vtile := vt }]

/-- The chip table index of the chip that a link of chip `c` leads to. -/
def State.farMember (s : State) (k : Nat) (im : Img) (l : Nat) : Option Nat :=
  let o := (s.getCtx k).part.origin
  im.chipTable.findIdx? fun e => fieldN e 0 15 == s.relOf (s.farOf l) o

/-- LINK_MISMATCH on a link: the far chip's receive entry of a slot is what the transmit entry translates to (R160). -/
def State.badLink (s : State) (k : Nat) (im : Img) (c l : Nat) : Option Nat :=
  match s.farMember k im l with
  | none => some 0
  | some f =>
    if fieldN (im.links f) (facing l) 1 = 0 then some 0
    else (List.range 56).find? fun j =>
      let t := SlotEntry.parse (im.slotWord c l j)
      let r := SlotEntry.parse (im.slotWord f (facing l) (56 + j))
      let e := im.streamEntry c t.vtile t.stream
      t.use != r.use || (t.use == 1 && !(e.vtile == r.vtile && e.dstream == r.stream))

/-- BAD_ROUTE (R162). -/
def Img.badRoute (im : Img) (c : Nat) : Option Nat :=
  (im.entries 8 (im.chipSec secRoutes c)).findIdx? fun w =>
    let out := fieldN w 8 3
    fieldN w 11 53 != 0 || out == 7 || (decide (out < 6) && fieldN (im.links c) out 1 == 0)

/-- N_f (R297), with the plan frame at half rate on a half-width link (R339). -/
def framesIn (dhop : Nat) (half : Bool) : Nat := ceilDiv (2 * dhop * 425) (if half then 8448 else 4224) + 1

/-- BUFFER_BOUND on a link (R60, R297). -/
def State.overBuffer (s : State) (im : Img) (c l : Nat) : Bool :=
  let n := countP (fun i => (SlotEntry.parse (im.slotWord c l (56 + i))).use == 1) (List.range 56)
  decide (32768 < n * framesIn (dHop im.h.dhop) (s.getLink l).half)

/-! ### Pass 5: the mesh (R290 to R293) -/

/-- The router outputs of a route in order (R291): router and output, 0 N, 1 S, 2 E, 3 W, 4 L. -/
def meshRoute (a b : Nat) : List (Nat × Nat) :=
  let (r1, c1) := (a / 24, a % 24)
  let (r2, c2) := (b / 24, b % 24)
  let row := if c1 ≤ c2 then (List.range (c2 - c1)).map fun i => (24 * r1 + c1 + i, 2) else (List.range (c1 - c2)).map fun i => (24 * r1 + c1 - i, 3)
  let col := if r1 ≤ r2 then (List.range (r2 - r1)).map fun i => (24 * (r1 + i) + c2, 1) else (List.range (r1 - r2)).map fun i => (24 * (r1 - i) + c2, 0)
  row ++ col ++ [(b, 4)]

/-- The claims of a stream (R292), each as its key in the claim map: output i of the route in slot (j + i) mod 64 for each slot j. -/
def meshClaims (a b mask : Nat) : List Nat :=
  (meshRoute a b).zipIdx.flatMap fun ((r, o), i) => ((List.range 64).filter fun j => fieldN mask j 1 == 1).map fun j => (5 * r + o) * 64 + (j + i) % 64

/-- A mesh stream of an image under a mapping: virtual tile, stream, source tile, claims. -/
structure MeshStream where
  vtile  : Nat
  stream : Nat
  src    : Nat
  claims : List Nat
deriving DecidableEq, Repr

/-- The mesh streams, in ascending tile and stream. -/
def Img.meshStreams (im : Img) (c : Nat) (mapping : List Nat) : List MeshStream :=
  im.tiles.flatMap fun vt => (List.range 64).filterMap fun i =>
    let e := im.streamEntry c vt i
    let src := mapping.getD vt 576
    if e.dest = 1 then some { vtile := vt, stream := i, src := src, claims := meshClaims src (mapping.getD e.vtile 576) e.slots } else none

/-- A claim of the chip-wide map is taken. -/
def State.claimed (s : State) (key : Nat) : Bool := (KMap.get none s.net.claims key).isSome

/-- MESH_CONFLICT (R293): the first stream, by tile and stream, that meets another stream of the image or a claim of a loaded plan. -/
def State.meshConflict (s : State) (im : Img) (c : Nat) (mapping : List Nat) : Option Reject :=
  let ms := im.meshStreams c mapping
  (ms.find? fun m => m.claims.any fun x => s.claimed x || ms.any fun n => (n.vtile != m.vtile || n.stream != m.stream) && n.claims.contains x).map fun m =>
    { code := 0x17, index := m.stream, sec := secIx (im.tileSec secStreams c m.vtile), vtile := m.vtile }

/-- Pass 5, in the order of the table. -/
def State.pass5 (s : State) (k : Nat) (im : Img) (c : Nat) (mapping : List Nat) : Option Reject :=
  let at_ := secIx (im.chipSec secSlots c)
  let ls := im.planLinks c
  firstBad [im.tiles.findSome? (im.badTileStreams c), im.badSlots c,
    ls.findSome? fun l => (s.badLink k im c l).map fun i => { code := 0x14, index := 112 * linkPlace (im.links c) l + i, sec := at_ },
    (im.badRoute c).map fun i => { code := 0x15, index := i, sec := secIx (im.chipSec secRoutes c) },
    (ls.find? (s.overBuffer im c)).map fun l => { code := 0x16, index := l, sec := at_ },
    s.meshConflict im c mapping]

end Sys2Proof.Machine
end

