-- ==== Sys2Proof/Machine/Memory.lean ====
section
/-! DEFINITION. The commands and events of HBM stacks, CXL ports, Moraine and the erasure engine (R239 to R268). -/

namespace Sys2Proof.Machine

/-! ### HBM (R244, R248, R249) -/

/-- The patrol scrubber reads a frame whole (R244); findings are listed by offset in the frame. The last frame ends a pass. -/
def execPatrolScrub (m : StackIx) (frame : Nat) (found : Findings) (s : State) : Host.Outcome State Fault Refusal :=
  if s.fld .memScrub [m.val] 0 16 ≠ 0 ∧ (s.getHbm m.val).phase = .ready ∧ frame < stackFrames then
    let s := (readFrame s { unit := m.val, frame := frame } 0 pageBytes 0 found .scrub).2
    .next (if frame + 1 = stackFrames then s.setFld .memScrub [m.val] 16 32 (s.fld .memScrub [m.val] 16 32 + 1) else s)
  else .next s

/-- A temperature sample (R248); HOT is shown while it is at or above HOT_THRESH. -/
def execMemTempSample (m : StackIx) (temp : Byte) (s : State) : Host.Outcome State Fault Refusal :=
  .next (s.setFld .memTemp [m.val] 0 8 temp.toNat)

/-- An intrusive action begins (R249): BIST destroys what the frames it covers hold. -/
def startMem (s : State) (m : Nat) (op : MemPhase) : State :=
  let s := (s.setBit .memCmdStatus [m] 9 false).modHbm m fun h => { h with phase := op, queued := none }
  if op = .bist then
    s.modHbm m fun h => { h with mem := h.mem.clear 0 (grantFrames * pageBytes), frames := KMap.mapV {} h.frames fun f => { f with clean := false } }
  else s

/-- MEM_CMD (R249, R266). -/
def memCmd (s : State) (acc : Accessor) (m : Nat) (op : MemPhase) (queue : Bool) : State :=
  onBlock s (srcMem m) fun s =>
    let now := s.hbmIdle m && s.hbmOpen m
    match firstOf [(acc == .vc3, .denied), (!now && (!queue || (s.getHbm m).queued.isSome), .busy)] with
    | some st => s.finish .memCmdStatus [m] st
    | none =>
      let s := s.setFld .memCmdStatus [m] 0 8 Status.ok.code
      if now then startMem s m op
      else (s.setBit .memCmdStatus [m] 9 true).modHbm m fun h => { h with queued := some op }

def execRetrain (acc : Accessor) (m : StackIx) (queue : Bool) (s : State) : Host.Outcome State Fault Refusal :=
  .next (memCmd s acc m.val .retrain queue)

def execBist (acc : Accessor) (m : StackIx) (queue : Bool) (s : State) : Host.Outcome State Fault Refusal :=
  .next (memCmd s acc m.val .bist queue)

/-- A queued action runs once no ticket holds a frame of the stack (R249). -/
def execMemQueuedStart (m : StackIx) (s : State) : Host.Outcome State Fault Refusal :=
  match (s.getHbm m.val).queued with
  | some op => if s.hbmIdle m.val ∧ (s.getHbm m.val).phase = .ready then .next (startMem s m.val op) else .next s
  | none => .next s

/-- A RETRAIN or BIST ends (R249): a BIST reports BIST_FAIL and retires the frames that failed. -/
def execMemCmdDone (m : StackIx) (failed : List Nat) (s : State) : Host.Outcome State Fault Refusal :=
  let phase := (s.getHbm m.val).phase
  if phase = .retrain ∨ phase = .bist then
    let s := (s.modHbm m.val fun h => { h with phase := .ready }).setBit .memCmdStatus [m.val] 8 true
    if phase = .bist then
      let bad := failed.filter fun f => decide (f < grantFrames)
      .next ((s.setBit .memCmdStatus [m.val] 10 !bad.isEmpty).each bad fun s f => s.retireFrame m.val f)
    else .next s
  else .next s

/-- A management core's read of the carve-out that finds an uncorrectable word (R246): the access ends in a bus error, no value is
answered. -/
def execMemUeMgt (core : Fin 8) (offset : Nat) (s : State) : Host.Outcome State Fault Refusal :=
  let (f, off) := carveFrame (0x1000000000 + offset % 0x400000000)
  .next ({ memUe s f.unit (f.frame * pageBytes + off / 32 * 32) .core with resp := none }.emit (.coreFault core.val))

/-! ### Exchanges (R259 to R261) -/

/-- A page may take part in an exchange (R253, R259). -/
def Pte.movable (e : Pte) : Bool := e.frame.isSome && e.tier != 0 && !e.stream && !e.window

/-- A bounce frame goes back to its port. -/
def State.putBounce (s : State) (p b : Nat) : State :=
  s.modCxl p fun x => { x with bounce := insertBy (fun a c => decide (a ≤ c)) b x.bounce }

/-- The held stores of an exchange on a page are written, and leave it (R260). -/
def flushHeld (s : State) (id page : Nat) : State :=
  match s.mor.exchanges.find? fun x => x.id == id with
  | none => s
  | some x =>
    let mine := x.held.filter fun h => h.va / pageBytes == page
    let rest := x.held.filter fun h => h.va / pageBytes != page
    let s := { s with mor := { s.mor with exchanges := s.mor.exchanges.map fun (y : Exchange) => if y.id = id then { y with held := rest } else y } }
    s.each mine fun s h => s.ctxWrite x.ctx.slot h.va h.bytes

/-- The entry of a page where an exchange still holds it in a frame. -/
def State.holdsPage (s : State) (x : Exchange) (page : Nat) (f : FrameId) (moving : Bool) : Bool :=
  let e := KMap.get {} (s.getCtx x.ctx.slot).pt page
  s.live x.ctx && e.frame == some f && e.moving == moving

/-- An exchange leaves the list, and frames of it that no ticket holds any longer go back (R261). -/
def dropExchange (s : State) (x : Exchange) : State :=
  let s := { s with mor := { s.mor with exchanges := s.mor.exchanges.filter fun y => y.id != x.id } }
  s.each [x.hFrame, x.xFrame] fun s f =>
    let held := if f.cxl then (s.getCxl f.unit).held.contains f.frame else (KMap.get ({} : FrameInfo) (s.getHbm f.unit).frames f.frame).held
    if held && (s.frameOwner f).isNone then s.freeFrame f else s

/-- Pages that an exchange still holds go back to, or stay in, their source frames, and stores held for them are written. -/
def returnPages (s : State) (x : Exchange) : State :=
  let k := x.ctx.slot
  let b : FrameId := { cxl := true, unit := x.port, frame := x.bounce }
  let s := if s.holdsPage x x.victim b false then
      (s.frameCopy b x.hFrame).modPte k x.victim fun e => { e with frame := some x.hFrame }
    else if s.holdsPage x x.victim x.hFrame true then
      flushHeld (s.modPte k x.victim fun e => { e with moving := false }) x.id x.victim
    else s
  if s.holdsPage x x.cand x.xFrame true then flushHeld (s.modPte k x.cand fun e => { e with moving := false }) x.id x.cand else s

/-- An exchange aborted (R261): each page keeps, or returns to, its source frame. -/
def abortExchange (s : State) (x : Exchange) : State :=
  dropExchange (((returnPages s x).putBounce x.port x.bounce).addFld .morStat [] 32 32 1) x

/-- The exchanges of a port, in start order. -/
def State.portExchanges (s : State) (p : Nat) : List Exchange := s.mor.exchanges.filter fun x => x.port == p

/-- The candidate on a port (R259): the first HOT page, else the page with the highest ACC from MOR_PROMOTE_MIN on. -/
def candidate (pages : List (Nat × Pte)) (p minAcc : Nat) : Option (Nat × Pte) :=
  let on := pages.filter fun e => match e.2.frame with
    | some f => f.cxl && f.unit == p
    | none => false
  match on.find? fun e => e.2.hint == 1 with
  | some e => some e
  | none => (on.filter fun e => decide (minAcc ≤ e.2.acc)).foldl (fun b e => match b with
    | none => some e
    | some c => if c.2.acc < e.2.acc then some e else some c) none

/-- The victim (R259): the first COLD page in HBM, else the page with the lowest ACC that is not HOT. -/
def victim (pages : List (Nat × Pte)) : Option (Nat × Pte) :=
  let on := pages.filter fun e => match e.2.frame with
    | some f => !f.cxl
    | none => false
  match on.find? fun e => e.2.hint == 2 with
  | some e => some e
  | none => (on.filter fun e => e.2.hint != 1).foldl (fun b e => match b with
    | none => some e
    | some c => if e.2.acc < c.2.acc then some e else some c) none

/-- An exchange started (R260, order 1). -/
def startExchange (s : State) (k p : Nat) (v c : Nat × Pte) : State :=
  match (s.getCxl p).bounce, v.2.frame, c.2.frame with
  | b :: bs, some h, some x =>
    let s := (s.modCxl p fun y => { y with bounce := bs }).each [v.1, c.1] fun s page => s.modPte k page fun e => { e with moving := true }
    { s with mor := { s.mor with
        exchanges := s.mor.exchanges ++ [{ id := s.mor.nextId, ctx := s.idOf k, port := p, victim := v.1, cand := c.1, hFrame := h, xFrame := x, bounce := b }],
        nextId := s.mor.nextId + 1, lastSlot := k } }
  | _, _, _ => s

/-- One context on one port in a scan (R259). -/
def scanPort (s : State) (k p : Nat) : State :=
  let pages := (s.getCtx k).pt.filter fun e => e.2.movable && !e.2.moving
  if (s.portExchanges p).length < max 1 (s.fld .morCtl [] 1 3) ∧ (s.getCxl p).device then
    match candidate pages p (s.fld .morPromoteMin [] 0 16), victim pages with
    | some c, some v => if c.2.hint = 1 ∨ v.2.hint = 2 ∨ v.2.acc < c.2.acc then startExchange s k p v c else s
    | _, _ => s
  else s

/-- MOR_SCAN (R259): the contexts from the slot after the last that started an exchange. -/
def execMorScan (s : State) : Host.Outcome State Fault Refusal :=
  if s.bit .morCtl [] 0 then
    let order := (List.range 32).map fun i => (s.mor.lastSlot + 1 + i) % 32
    .next (s.each order fun s k =>
      let c := s.getCtx k
      if c.state = .free ∨ c.state = .quarantine ∨ c.state = .saved ∨ c.plan.state = .ended ∨ c.plan.state = .idle then s
      else s.each [0, 1] fun s p => scanPort s k p)
  else .next s

/-- MOR_EPOCH (R257): every access count is halved. -/
def execMorEpoch (s : State) : Host.Outcome State Fault Refusal :=
  .next (s.each slots fun s k => s.modCtx k fun c => { c with pt := KMap.mapV {} c.pt fun e => { e with acc := e.acc / 2 } })

/-- The exchange of an identifier whose copy of a direction is the port's running one (R260: one at a time, in start order). -/
def State.runningCopy (s : State) (ex : Nat) (demoted : Bool) : Option Exchange :=
  match s.mor.exchanges.find? fun x => x.id == ex && x.demoted == demoted with
  | some x => if ((s.portExchanges x.port).find? fun y => y.demoted == demoted).map (·.id) = some x.id then some x else none
  | none => none

/-- The victim's copy has ended (R260, orders 2 and 3); findings are listed by offset in the page. -/
def execDemoteCopyDone (ex : Nat) (found : Findings) (s : State) : Host.Outcome State Fault Refusal :=
  match s.runningCopy ex false with
  | none => .next s
  | some x =>
    let b : FrameId := { cxl := true, unit := x.port, frame := x.bounce }
    let set (s : State) : State :=
      { s with mor := { s.mor with exchanges := s.mor.exchanges.map fun y => if y.id = x.id then { y with demoted := true } else y } }
    if s.holdsPage x x.victim x.hFrame true ∧ s.holdsPage x x.cand x.xFrame true then
      match readFrame s x.hFrame 0 pageBytes 0 found .copy with
      | (true, s) => .next (abortExchange s x)
      | (false, s) =>
        let s := s.frameCopy x.hFrame b
        let s := s.modPte x.ctx.slot x.victim fun e => { e with frame := some b, moving := false }
        .next (flushHeld (set s) x.id x.victim)
    else .next (set s)

/-- The candidate's copy has ended (R260, orders 4 and 5). An exchange whose pages are gone completes without a remap (R261). -/
def execPromoteCopyDone (ex : Nat) (found : Findings) (s : State) : Host.Outcome State Fault Refusal :=
  match s.runningCopy ex true with
  | none => .next s
  | some x =>
    let b : FrameId := { cxl := true, unit := x.port, frame := x.bounce }
    if s.holdsPage x x.cand x.xFrame true then
      match readFrame s x.xFrame 0 pageBytes 0 found .copy with
      | (true, s) => .next (abortExchange s x)
      | (false, s) =>
        let s := s.frameCopy x.xFrame x.hFrame
        let s := s.modPte x.ctx.slot x.cand fun e => { e with frame := some x.hFrame, moving := false }
        let s := flushHeld s x.id x.cand
        let s := s.modCtx x.ctx.slot fun c => { c with cxl := c.cxl.map fun f => if f = x.xFrame then b else f }
        let s := s.modCxl x.port fun y => { y with held := y.held.map fun f => if f = x.xFrame.frame then x.bounce else f }
        .next (dropExchange ((s.putBounce x.port x.xFrame.frame).addFld .morStat [] 0 32 1) x)
    else .next (dropExchange (((returnPages s x).putBounce x.port x.bounce).addFld .morStat [] 0 32 1) x)

/-! ### CXL ports (R250 to R252) -/

/-- The contexts that hold frames on a port. -/
def State.cxlHolders (s : State) (p : Nat) : List Nat := slots.filter fun k => (s.getCtx k).cxl.any fun f => f.unit == p

/-- A port's link goes down (R252). -/
def execCxlDown (p : PortIx) (s : State) : Host.Outcome State Fault Refusal :=
  if (s.getCxl p.val).link = .up then
    let s := s.modCxl p.val fun x => { x with link := .training, device := false }
    let s := s.each (s.portExchanges p.val) abortExchange
    .next (raiseGroup s .cxlDown (srcCxl p.val) 0 (s.cxlHolders p.val))
  else .next s

/-- A port whose link is not up trains, for the first time or again (R252). -/
def execCxlTrainRetry (p : PortIx) (s : State) : Host.Outcome State Fault Refusal :=
  if (s.getCxl p.val).link = .up then .next s else .next (s.modCxl p.val fun x => { x with link := .training })

/-- Training completes (R252); the spread-spectrum settings of the port's reference output are those in CLK_SSC (R396). -/
def execCxlLinkUp (p : PortIx) (rate : BitVec 2) (half : Bool) (s : State) : Host.Outcome State Fault Refusal :=
  if (s.getCxl p.val).link = .training then
    .next (s.modCxl p.val fun x => { x with link := .up, rate := rate.toNat, half := half, sscInUse := s.fld .clkSsc [p.val] 0 8 })
  else .next s

/-- The device is attached (R251): with the link UP and no ticket left on its frames. -/
def execCxlAttach (p : PortIx) (frames : Nat) (unsupported : Bool) (s : State) : Host.Outcome State Fault Refusal :=
  let x := s.getCxl p.val
  if x.link = .up ∧ !x.device ∧ s.cxlIdle p.val ∧ (s.portExchanges p.val).isEmpty then
    if unsupported then .next (s.modCxl p.val fun x => { x with unsupported := true })
    else
      let n := min frames 1048576
      let total := n - 64
      .next (s.modCxl p.val fun x =>
        { x with unsupported := false, device := true, total := total, bounce := (List.range (n - total)).map (total + ·) })
  else .next s

/-- A poll of the device's mailbox (R250, R267). -/
def execCxlHealthPoll (p : PortIx) (health : CxlHealth) (s : State) : Host.Outcome State Fault Refusal :=
  if (s.getCxl p.val).device then
    let s := s.setRg .cxlHealth [p.val] (pack [(0, 8, health.status.toNat), (8, 8, health.media.toNat), (16, 8, health.life.toNat),
      (24, 16, health.temp.toNat)])
    .next (s.addFld .cxlPoison [p.val] 32 32 health.events)
  else .next s

/-! ### MOR commands (R258, R262, R263, R268) -/

/-- A command of the MOR window: from management cores alone, one at a time. -/
def morCmd (s : State) (acc : Accessor) (conds : List (Bool × Status)) (act : State → State) : State :=
  onBlock s srcMor fun s => match firstOf ([(!isCore acc, .denied), (s.mor.erasure.isSome, .busy)] ++ conds) with
  | some st => s.finish .morCmdStatus [] st
  | none => act s

/-- A page's HINT set (R258); HOT starts its age anew. -/
def State.setHint (s : State) (k page hint : Nat) : State :=
  s.modPte k page fun e => if e.frame.isSome then { e with hint := hint, hotAge := if hint = 1 then 0 else e.hotAge } else e

/-- HINT (R258, R268). -/
def cmdHint (s : State) (acc : Accessor) : State :=
  let id := CtxId.ofNat (s.fld .morArg0 [] 0 16)
  let hint := s.fld .morArg0 [] 16 2
  let va := (s.rg .morArg1 []).toNat
  let n := (s.rg .morArg2 []).toNat
  let shape := hint == 3 || va % pageBytes != 0 || n == 0 || decide (1048576 < n)
  let hole := !shape && (List.range n).any fun i => (s.pte id.slot (va + pageBytes * i)).isNone
  morCmd s acc [(!s.live id, .stale), (!s.owns acc id.slot, .denied), (shape || hole, .rejected)] fun s =>
    (s.each (List.range n) fun s i => s.setHint id.slot (va / pageBytes + i) hint).finish .morCmdStatus [] .ok

def execHint (acc : Accessor) (s : State) : Host.Outcome State Fault Refusal := .next (cmdHint s acc)

/-- A buffer of an erasure descriptor (R263). -/
structure ErasureBuf where
  addr    : Nat
  virtual : Bool
  ctx     : CtxId
deriving DecidableEq, Repr

/-- An erasure descriptor (R263). -/
structure ErasureOp where
  op  : Nat
  k   : Nat
  e0  : Nat
  e1  : Nat
  len : Nat
  buf : List ErasureBuf
deriving DecidableEq, Repr

/-- The bytes of a descriptor with the most buffers. -/
def erasureBytes : Nat := 16 + 16 * 16

/-- A descriptor read from its bytes. -/
def ErasureOp.parse (d : List Byte) : ErasureOp :=
  let op := leAt d 0 1
  let k := leAt d 1 1
  let n := if op = 2 then 2 else k + 2
  { op := op, k := k, e0 := leAt d 2 1, e1 := leAt d 3 1, len := leAt d 8 8,
    buf := (List.range n).map fun i =>
      { addr := leAt d (16 + 16 * i) 8, virtual := leAt d (24 + 16 * i) 1 % 2 == 1,
        ctx := { slot := leAt d (24 + 16 * i) 1 / 2 % 32, gen := leAt d (25 + 16 * i) 2 % 2048 } } }

/-- The buffers that an operation writes. -/
def ErasureOp.outputs (o : ErasureOp) : List Nat :=
  if o.op = 1 then [o.k, o.k + 1] else if o.op = 2 then [1] else if o.e1 = 255 then [o.e0] else [o.e0, o.e1]

/-- The buffers that an operation reads. -/
def ErasureOp.sources (o : ErasureOp) : List Nat :=
  if o.op = 1 then List.range o.k else if o.op = 2 then [0, 1] else (List.range (o.k + 2)).filter fun i => i != o.e0 && i != o.e1

/-- The shape of a descriptor (R263). -/
def ErasureOp.shapeOk (o : ErasureOp) : Bool :=
  decide (1 ≤ o.op ∧ o.op ≤ 3 ∧ 1 ≤ o.k ∧ o.k ≤ 14 ∧ o.len % 32 = 0 ∧ 32 ≤ o.len ∧ o.len ≤ 2 ^ 30)
    && (if o.op = 1 then o.e0 == 0 && o.e1 == 0
        else if o.op = 2 then o.k == 1 && decide (o.e0 ≤ 254) && o.e1 == 0
        else decide (o.e0 ≤ o.k + 1) && (o.e1 == 255 || (decide (o.e1 ≤ o.k + 1) && o.e0 != o.e1)))

/-- A range of management memory (R416); the first 256 MiB are not written. -/
def mgtRange (a n : Nat) (write : Bool) : Bool :=
  decide ((if write then 0x1010000000 else 0x1000000000) ≤ a ∧ a + n ≤ 0x1400000000)

/-- What each buffer of a descriptor needs (R263). -/
def erasureConds (s : State) (acc : Accessor) (o : ErasureOp) : List (Bool × Status) :=
  if o.shapeOk then
    o.buf.zipIdx.flatMap fun (b, i) =>
      let write := o.outputs.contains i
      if b.virtual then [(!s.live b.ctx, .stale), (!s.owns acc b.ctx.slot || s.dirtyAt b.ctx.slot b.addr o.len, .denied), (!s.vaOk b.ctx.slot b.addr o.len write, .rejected)]
      else [(!mgtRange b.addr o.len write, .rejected)]
  else [(true, .rejected)]

/-- ERASURE (R263): the descriptor is read and checked, and the engine starts. -/
def cmdErasure (s : State) (acc : Accessor) : State :=
  let a := (s.rg .morArg0 []).toNat
  let d := s.mgt.read a erasureBytes
  let place := a % 64 != 0 || !mgtRange a 16 false
  morCmd s acc ((place, .rejected) :: erasureConds s acc (ErasureOp.parse d)) fun s =>
    { s with mor := { s.mor with erasure := some d, erasureBy := some acc } }

def execErasure (acc : Accessor) (s : State) : Host.Outcome State Fault Refusal := .next (cmdErasure s acc)

/-- The bytes of a buffer. -/
def State.bufRead (s : State) (b : ErasureBuf) (n : Nat) : List Byte :=
  if b.virtual then s.ctxRead b.ctx.slot b.addr n else s.mgt.read b.addr n

/-- Bytes written to a buffer. A context that is gone or no longer has the pages takes none. -/
def State.bufWrite (s : State) (b : ErasureBuf) (bs : List Byte) : State :=
  if b.virtual then (if s.live b.ctx && s.vaOk b.ctx.slot b.addr bs.length true then s.ctxWrite b.ctx.slot b.addr bs else s)
  else s.mgtWrite b.addr bs

/-- The words of management memory that a read finds bad, decoded as HBM words of the carve-out. -/
def readMgt (s : State) (a n at_ : Nat) (found : Findings) : Bool × State :=
  (Findings.within found.syms at_ n).foldl (fun (bad, s) e =>
    if bad then (bad, s) else
      let (f, off) := carveFrame (a + e.1)
      codeWords s f .plan [(off, e.2)]) (false, s)

/-- The sources of an operation read; findings are listed by 2^30 times the buffer's number plus the offset in it. -/
def readSources (s : State) (o : ErasureOp) (found : Findings) : Bool × State :=
  o.sources.foldl (fun (bad, s) i =>
    if bad then (bad, s) else match o.buf[i]? with
      | some b =>
        if b.virtual then
          let shift (a : Nat) : Nat := a - i * 2 ^ 30 + b.addr
          let mine (a : Nat) : Bool := decide (i * 2 ^ 30 ≤ a ∧ a < i * 2 ^ 30 + o.len)
          readPages s b.ctx.slot { syms := (found.syms.filter fun e => mine e.1).map fun e => (shift e.1, e.2), poison := (found.poison.filter mine).map shift }
            .plan (pieces b.addr o.len)
        else readMgt s b.addr o.len (i * 2 ^ 30) found
      | none => (bad, s)) (false, s)

/-- Shards added byte by byte in GF(2^8). -/
def gfAdd (a b : List Byte) : List Byte := List.zipWith (· ^^^ ·) a b

/-- A shard times a power of alpha. -/
def gfScale (e : Nat) (a : List Byte) : List Byte := a.map (gfMul (gfAlpha e))

/-- P0 or P1 of data shards, listed with their indices (R262). -/
def parity (second : Bool) (n : Nat) (ds : List (Nat × List Byte)) : List Byte :=
  ds.foldl (fun p d => gfAdd p (if second then gfScale d.1 d.2 else d.2)) (List.replicate n 0)

/-- The two equations' right sides less what the known shards give, and the erased shards that satisfy them (R262). -/
def recover (k n : Nat) (known : List (Nat × List Byte)) (a b : Nat) : List (Nat × List Byte) :=
  let data := known.filter fun d => decide (d.1 < k)
  let par (i : Nat) : List Byte := ((known.find? fun d => d.1 == k + i).map Prod.snd).getD (List.replicate n 0)
  let s0 := gfAdd (par 0) (parity false n data)
  let s1 := gfAdd (par 1) (parity true n data)
  let lost (i : Nat) : Bool := i == a || i == b
  let da := (if a = b then [a] else [a, b]).filter fun i => decide (i < k)
  let solved : List (Nat × List Byte) := match da with
    | [i, j] =>
      -- d_i + d_j = s0 and alpha^i d_i + alpha^j d_j = s1
      let dj := (gfAdd s1 (gfScale i s0)).map (gfMul (gfInv (gfAlpha i ^^^ gfAlpha j)))
      [(i, gfAdd s0 dj), (j, dj)]
    | [i] => if lost k then [(i, s1.map (gfMul (gfInv (gfAlpha i))))] else [(i, s0)]
    | _ => []
  let all := data ++ solved
  solved ++ (if lost k then [(k, parity false n all)] else []) ++ (if lost (k + 1) then [(k + 1, parity true n all)] else [])

/-- What an operation writes: each output buffer's number with its bytes (R262). -/
def erasureResult (s : State) (o : ErasureOp) : List (Nat × List Byte) :=
  let src := o.sources.filterMap fun i => (o.buf[i]?).map fun b => (i, s.bufRead b o.len)
  if o.op = 1 then [(o.k, parity false o.len src), (o.k + 1, parity true o.len src)]
  else if o.op = 2 then match src with
    | [(_, a), (_, d)] => [(1, gfAdd d (gfScale o.e0 a))]
    | _ => []
  else recover o.k o.len src o.e0 (if o.e1 = 255 then o.e0 else o.e1)

/-- The erasure engine ends (R262, R263): its outputs are written, or bad source data ends it REJECTED. -/
def execErasureComplete (found : Findings) (s : State) : Host.Outcome State Fault Refusal :=
  match s.mor.erasure with
  | none => .next s
  | some d =>
    let o := ErasureOp.parse d
    let s := { s with mor := { s.mor with erasure := none, erasureBy := none } }
    match readSources s o found with
    | (true, s) => .next (s.finish .morCmdStatus [] .rejected)
    | (false, s) =>
      let s := s.each (erasureResult s o) fun s e => match o.buf[e.1]? with
        | some b => s.bufWrite b e.2
        | none => s
      .next (s.finish .morCmdStatus [] .ok)

end Sys2Proof.Machine
end

