-- ==== Sys2Proof/Machine/Serving.lean ====
section
/-! DEFINITION. The Serving Engine: bytes of its blocks and messages (R210, R216), its journal in RECORD and REPLAY (R219, R409, R410), its
commands (R211 to R213, R231 to R233), freeze points (R214 to R220, R227), step messages (R215, R258), results and deliveries (R229,
R230). -/

namespace Sys2Proof.Machine

/-! ### Bytes (R210, R215, R216) -/

/-- A parameter block read from its 64 bytes. -/
def parseParams (b : List Byte) : ParamBlock :=
  { seed := b.take 32, invTemp := leAt b 32 4, topk := leAt b 36 2, topp := leAt b 40 4, rep := leAt b 44 4, pres := leAt b 48 4,
    freq := leAt b 52 4, penWindow := leAt b 56 2, draftLen := leAt b 58 1, maxNew := leAt b 60 4 }

/-- A parameter block's fields are in their ranges and its reserved fields 0 (R210). -/
def paramsOk (b : List Byte) : Bool :=
  let p := parseParams b
  decide (p.invTemp ≤ 2 ^ 24 ∧ 1 ≤ p.topk ∧ p.topk ≤ 256 ∧ 1 ≤ p.topp ∧ p.topp ≤ 65536 ∧ 65536 ≤ p.rep ∧ p.rep ≤ 2 ^ 24 ∧ p.pres < 2 ^ 31
    ∧ p.freq < 2 ^ 31 ∧ p.penWindow ≤ 512 ∧ p.draftLen ≤ 15 ∧ 1 ≤ p.maxNew ∧ leAt b 38 2 = 0 ∧ leAt b 59 1 = 0)

/-- The 64 bytes of a parameter block. -/
def paramBytes (p : ParamBlock) : List Byte :=
  padTo p.seed 32 0 ++ leBytes 4 p.invTemp ++ leBytes 2 p.topk ++ leBytes 2 0 ++ leBytes 4 p.topp ++ leBytes 4 p.rep ++ leBytes 4 p.pres
    ++ leBytes 4 p.freq ++ leBytes 2 p.penWindow ++ leBytes 1 p.draftLen ++ leBytes 1 0 ++ leBytes 4 p.maxNew

/-- Bytes 4 to 7 of a batch row (R216): the META column of R221. -/
def rowMeta (r : BatchRow) : Nat :=
  r.role.toNat + 4 * b2n r.samples + 256 * (r.pos.toNat + 16 * r.dlen.toNat) + 65536 * r.collect.toNat

/-- The 32 bytes of a batch row (R216). -/
def rowBytes (r : BatchRow) : List Byte :=
  leBytes 4 r.handle.toNat ++ leBytes 4 (rowMeta r) ++ leBytes 4 r.tailor.toNat ++ leBytes 4 r.kvidx.toNat ++ leBytes 4 r.poff.toNat
    ++ leBytes 4 r.plen.toNat ++ leBytes 8 0

/-- A batch row read from its 32 bytes. -/
def parseRow (b : List Byte) : BatchRow :=
  { handle := BitVec.ofNat 32 (leAt b 0 4), role := BitVec.ofNat 2 (leAt b 4 1), samples := fieldN (leAt b 4 1) 2 1 == 1,
    pos := BitVec.ofNat 4 (leAt b 5 1), dlen := BitVec.ofNat 4 (leAt b 5 1 / 16), collect := BitVec.ofNat 4 (leAt b 6 1),
    tailor := BitVec.ofNat 16 (leAt b 8 2), kvidx := BitVec.ofNat 32 (leAt b 12 4), poff := BitVec.ofNat 32 (leAt b 16 4),
    plen := BitVec.ofNat 32 (leAt b 20 4) }

/-- Counts, variant, rows, parameter entries and release handles of a step message: the body of a STEP record (R409). -/
def stepBody (m : StepMsg) : List Byte :=
  leBytes 4 m.rows.length ++ leBytes 2 m.params.length ++ leBytes 2 m.releases.length ++ leBytes 1 m.variant.toNat ++ leBytes 7 0
    ++ m.rows.flatMap rowBytes ++ m.params.flatMap (fun p => leBytes 4 p.1.toNat ++ List.replicate 28 0 ++ paramBytes p.2)
    ++ m.releases.flatMap fun h => leBytes 4 h.toNat

/-- A step message read from the body of a STEP record. -/
def parseStep (step : Nat) (b : List Byte) : StepMsg :=
  let nr := leAt b 0 4
  let np := leAt b 4 2
  let nf := leAt b 6 2
  let at_ (base size i : Nat) : List Byte := slice b (base + size * i) size
  { step := step, variant := BitVec.ofNat 8 (leAt b 8 1), rows := (List.range nr).map fun i => parseRow (at_ 16 32 i),
    params := (List.range np).map fun i =>
      let e := at_ (16 + 32 * nr) 96 i
      (BitVec.ofNat 32 (leAt e 0 4), parseParams (e.drop 32)),
    releases := (List.range nf).map fun i => BitVec.ofNat 32 (leNat (at_ (16 + 32 * nr + 96 * np) 4 i)) }

/-- The body of a STEP packet (R215: 96 bytes beside rows and entries, head and CRC included): the step number, then the parts of a STEP
record, its 16 bytes of counts in a field of 68 (log entry 26). -/
def stepPacketBody (m : StepMsg) : List Byte :=
  let b := stepBody m
  padTo (leBytes 8 m.step ++ b.take 16) 76 0 ++ b.drop 16

/-- The step message of a STEP packet's body. -/
def parseStepPacket (b : List Byte) : StepMsg := parseStep (leAt b 0 8) (slice b 8 16 ++ b.drop 76)

/-! ### The journal in REPLAY (R410) -/

/-- The bytes from a tailor set's base that its table and projections span. -/
def setExtent (table : List Byte) : Nat :=
  (List.range 256).foldl (fun n i =>
    let kn := leAt table (16 * i + 8) 4 + leAt table (16 * i + 12) 4
    if kn = 0 then n else max n (leAt table (16 * i) 8 + 17 * kn)) 4096

/-- A tailor set bound or unbound (R233). -/
def State.setTailor (s : State) (k id : Nat) (t : Option TailorSet) : State := s.modServe k fun v => { v with tailors := KMap.set none v.tailors id t }

/-- A TAILOR record applied. -/
def applyTailor (s : State) (k flags : Nat) (body : List Byte) : State :=
  let s := if flags % 2 = 1 then s.setBit .fltJrnStatus [k] 1 true else s
  let base := leAt body 8 8
  if leAt body 0 1 = 1 then s.setTailor k (leAt body 2 2) (some { base := base, extent := setExtent (s.ctxRead k base 4096) })
  else s.setTailor k (leAt body 2 2) none

/-- The record at HEAD of a replayed journal, once PAD records and the TAILOR records of steps that have begun are passed. A reading
error diverges, and nothing is read after it. -/
def jrnNext : Nat → State → Nat → JrnRead × State
  | 0, s, _ => (.wait, s)
  | fuel + 1, s, k =>
    if s.fld .fltJrnStatus [k] 2 2 = 2 then (.wait, s)
    else match s.jrnPeek k with
      | .bad => (.wait, diverge s k 2 ((s.getCtx k).serve.next - 1))
      | .record 0 _ _ _ len => jrnNext fuel (s.jrnAdvance k len) k
      | .record 4 flags step body len =>
        let c := s.getCtx k
        if step < c.serve.begun then
          let s := if c.jrnTailor = 0 then applyTailor s k flags body else s.modCtx k fun c => { c with jrnTailor := c.jrnTailor - 1 }
          jrnNext fuel (s.jrnAdvance k len) k
        else (.wait, s)
      | r => (r, s)

/-- The next record that a replaying chip acts on. -/
def State.jrnHead (s : State) (k : Nat) : JrnRead × State := jrnNext (s.jrnAvail k / 16 + 1) s k

/-- The TAILOR records among the supplied bytes from an offset of the ring on. -/
def tailorsFrom (s : State) (k base size : Nat) : Nat → Nat → Nat → List (Nat × Nat × List Byte)
  | 0, _, _ => []
  | fuel + 1, pos, avail =>
    let h := s.mgt.read (base + pos) 16
    let len := leAt h 4 4
    if avail < 16 ∨ len < 16 ∨ avail < len ∨ size < pos + len then []
    else
      let rest := tailorsFrom s k base size fuel ((pos + len) % size) (avail - len)
      if leAt h 0 1 = 4 then (leAt h 1 1, leAt h 8 8, s.mgt.read (base + pos + 16) (len - 16)) :: rest else rest

/-- TAILOR records of a step are applied before any gather of it (R410), also where HEAD has not come to them. -/
def replayTailors (s : State) (k step : Nat) : State :=
  if s.jrnMode k = 2 ∧ s.fld .fltJrnStatus [k] 2 2 ≠ 2 then
    let all := tailorsFrom s k (s.rg .fltJrnBase [k]).toNat (s.fld .fltJrnSize [k] 0 40) (s.jrnAvail k / 16) (s.fld .fltJrnHead [k] 0 40) (s.jrnAvail k)
    let now := (all.drop (s.getCtx k).jrnTailor).takeWhile fun r => decide (r.2.1 ≤ step)
    (s.each now fun s r => applyTailor s k r.1 r.2.2).modCtx k fun c => { c with jrnTailor := c.jrnTailor + now.length }
  else s

/-! ### Commands (R211, R212) -/

/-- A context runs a SERVING plan of which this chip is the lead. -/
def Ctx.leads (c : Ctx) : Bool := match c.image with
  | some im => im.serving && im.isLead
  | none => false

/-- A context is saved, or being saved or restored. -/
def Ctx.away (c : Ctx) : Bool := c.state == .saving || c.state == .saved || c.state == .restoring

/-- A command of the SRV window: from management cores alone (R211), dropped while one is in progress. -/
def srvCmd (s : State) (acc : Accessor) (conds : List (Bool × Status)) (act : State → State) : State :=
  onBlock s srcSrv fun s => if s.srvWait.isSome then s
  else match firstOf ((!isCore acc, .denied) :: conds) with
    | some st => s.finish .srvCmdStatus [] st
    | none => act s

/-- The context that SRV_ARG0 names, and what a command on a context checks. -/
def State.srvId (s : State) : CtxId := CtxId.ofNat (s.fld .srvArg0 [] 0 16)
def State.srvCtxConds (s : State) (acc : Accessor) : List (Bool × Status) :=
  [(!s.live s.srvId, .stale), (!s.owns acc s.srvId.slot, .denied)]

/-- The handle that SRV_ARG0 names, and what a command on a handle checks (R207, R211). -/
def State.srvHandle (s : State) : Nat := s.fld .srvArg0 [] 0 32
def State.srvConds (s : State) (acc : Accessor) : List (Bool × Status) :=
  match s.reqOf s.srvHandle with
  | none => [(true, .stale)]
  | some i =>
    let k := (s.getReq i).ctx.slot
    [(!s.owns acc k, .denied), ((s.getCtx k).away || s.jrnMode k == 2, .busy)]

/-- A command on the record of SRV_ARG0's handle. -/
def handleCmd (s : State) (acc : Accessor) (conds : Nat → List (Bool × Status)) (act : State → Nat → State) : State :=
  let i := s.srvHandle % 16384
  srvCmd s acc (s.srvConds acc ++ if (s.reqOf s.srvHandle).isSome then conds i else []) fun s => act s i

/-- OPEN and ADMIT are BUSY once END_PLAN was accepted (R212). -/
def Ctx.closed (c : Ctx) : Bool := c.serve.ending.isSome

/-- A command that reads a context's memory (R245, R257): where the read delivers nothing it is REJECTED (log entry 120). -/
def srvRead (s : State) (k va n : Nat) (found : Findings) (act : State → State) : State :=
  match engineRead s k va n found with
  | (true, s) => s.finish .srvCmdStatus [] .rejected
  | (false, s) => act s

/-- What a command still checks once it has read memory. -/
def srvThen (s : State) (conds : List (Bool × Status)) (act : State → State) : State :=
  match firstOf conds with
  | some st => s.finish .srvCmdStatus [] st
  | none => act s

/-- The lowest free slot of a lead's records. -/
def State.freeRec (s : State) : Option Nat := (List.range 16384).find? fun i => (s.getReq i).state == .free

/-- Lead records of a context. -/
def State.leadReqs (s : State) (k : Nat) : List Nat := (s.reqsOf k).filter fun i => (s.getReq i).lead

/-- OPEN (R209, R210, R212). -/
def cmdOpen (s : State) (acc : Accessor) (found : Findings) : State :=
  let id := s.srvId
  let k := id.slot
  let c := s.getCtx k
  let va := (s.rg .srvArg1 []).toNat
  let quota := match c.image with
    | some im => im.minQuota
    | none => 0
  let busy := s.freeRec.isNone || decide (16384 ≤ s.reqsUsed ∨ c.quota ≤ (s.reqsOf k).length ∨ quota ≤ (s.leadReqs k).length) || c.closed || c.away
    || s.jrnMode k == 2
  srvCmd s acc (s.srvCtxConds acc ++ [(!c.leads, .denied), ((s.segOf k va 64).isNone, .rejected)]) fun s => srvRead s k va 64 found fun s =>
    let block := s.ctxRead k va 64
    srvThen s [(!paramsOk block, .rejected), (busy, .busy)] fun s => match s.freeRec with
    | none => s
    | some i =>
      let h := mkHandle i (s.getReq i).gen
      let s := s.modReq i fun r =>
        { gen := r.gen, state := .idle, ctx := id, handle := h, kvidx := s.fld .srvArg2 [] 32 32, tailor := s.fld .srvArg2 [] 0 16,
          params := parseParams block, ttftTgt := s.fld .srvArg3 [] 0 32, tbtTgt := s.fld .srvArg3 [] 32 32, cmdMt := s.mtN }
      let s := s.modServe k fun v => { v with newReq := v.newReq ++ [(h, s.mtN)] }
      (s.setRg .srvCmdResult [] (Word.ofNat h)).finish .srvCmdStatus [] .ok

def execOpenReq (acc : Accessor) (found : Findings) (s : State) : Host.Outcome State Fault Refusal := .next (cmdOpen s acc found)

/-- A range lies in one WINDOW segment (R163). -/
def State.inWindow (s : State) (k va n : Nat) : Bool := match s.segOf k va n with
  | some g => g.window
  | none => false

/-- The prompt that an input slot holds (R213): its count of tokens where the slot and every token are as they must be. -/
def State.promptOf (s : State) (k va : Nat) : Option Nat :=
  let n := s.ctxNat k (va + 8) 4
  let vocab := match (s.getCtx k).image with
    | some im => im.vocab
    | none => 0
  if s.inWindow k va 64 && flagOwner (s.ctxNat k va 8) == 2 && decide (1 ≤ n ∧ n ≤ 65520) && s.inWindow k va (64 + 4 * n)
      && (chunks 4 (s.ctxRead k (va + 64) (4 * n))).all fun b => decide (leNat b < vocab)
  then some n else none

/-- A turn admitted on an IDLE record (R212). -/
def admitTurn (s : State) (i slotVa ring n prompt : Nat) : State :=
  let s := s.modReq i fun r =>
    { r with state := .ready, mtAdmit := s.mtN, admSeq := s.admSeq, slotVa := slotVa, ringVa := ring, ringN := n, ringPos := 0,
             promptN := prompt, placed := 0, lastChunk := none, turnNew := 0, formed := false, cancel := false, cancelFrom := none, cmdMt := s.mtN }
  { s with admSeq := s.admSeq + 1 }

/-- ADMIT (R212, R213). -/
def cmdAdmit (s : State) (acc : Accessor) (found : Findings) : State :=
  let va := (s.rg .srvArg1 []).toNat
  let ring := (s.rg .srvArg2 []).toNat
  let n := s.fld .srvArg3 [] 0 11
  handleCmd s acc (fun i => [(decide (n < 2 ∨ 1024 < n) || !s.inWindow (s.getReq i).ctx.slot va 64 || !s.inWindow (s.getReq i).ctx.slot ring (128 * n), .rejected)])
    fun s i =>
      let k := (s.getReq i).ctx.slot
      srvRead s k va (64 + 4 * ((s.promptOf k va).getD 0)) found fun s =>
        srvThen s [((s.promptOf k va).isNone, .rejected), ((s.getReq i).state != .idle || (s.getCtx k).closed, .busy)] fun s =>
          (admitTurn s i va ring n ((s.promptOf k va).getD 0)).finish .srvCmdStatus [] .ok

def execAdmitReq (acc : Accessor) (found : Findings) (s : State) : Host.Outcome State Fault Refusal := .next (cmdAdmit s acc found)

/-- CANCEL (R231). -/
def cmdCancel (s : State) (acc : Accessor) : State :=
  handleCmd s acc (fun i =>
      let r := s.getReq i
      [(r.state == .idle && (r.lastEnd == 1 || r.lastEnd == 2), .cancelAfterEnd)]) fun s i =>
    let r := s.getReq i
    let k := r.ctx.slot
    let s := match r.state with
      | .ready => (s.handFlag k r.slotVa 0).endTurn i 3 ((s.getCtx k).serve.next - 1)
      | .prefill | .decode => if r.cancel then s else s.modReq i fun r => { r with cancel := true, cmdMt := s.mtN }
      | _ => s
    s.finish .srvCmdStatus [] .ok

def execCancel (acc : Accessor) (s : State) : Host.Outcome State Fault Refusal := .next (cmdCancel s acc)

/-- CLOSE (R212): the record is freed at the next freeze point that finds it IDLE with nothing held (R230; log entry 52). -/
def cmdClose (s : State) (acc : Accessor) : State :=
  handleCmd s acc (fun i => [((s.getReq i).state != .idle, .busy)]) fun s i =>
    (s.modReq i fun r => if r.closing then r else { r with closing := true, cmdMt := s.mtN }).finish .srvCmdStatus [] .ok

def execCloseReq (acc : Accessor) (s : State) : Host.Outcome State Fault Refusal := .next (cmdClose s acc)

/-- END_PLAN (R212): ENDVAR must name a variant of KIND END_MARK. -/
def cmdEndPlan (s : State) (acc : Accessor) : State :=
  let k := s.srvId.slot
  let c := s.getCtx k
  let mark := match c.image with
    | some im => match im.variants[s.fld .srvCtxEndvar [k] 0 8]? with
      | some (_, kind) => kind == 2
      | none => false
    | none => false
  srvCmd s acc (s.srvCtxConds acc ++ [(!c.leads, .denied), (!mark, .rejected), (c.away || s.jrnMode k == 2, .busy)]) fun s =>
    (s.modServe k fun v => { v with ending := some (v.ending.getD s.mtN) }).finish .srvCmdStatus [] .ok

def execEndPlan (acc : Accessor) (s : State) : Host.Outcome State Fault Refusal := .next (cmdEndPlan s acc)

/-! ### Tailor sets (R233) -/

/-- A projection entry of a tailor set's table is absent or lies in the context's segments. -/
def State.entryOk (s : State) (k base off kk n : Nat) : Bool :=
  (kk == 0 && n == 0) || (decide (0 < kk ∧ 0 < n ∧ kk % 32 = 0 ∧ n % 32 = 0 ∧ kk ≤ 65536 ∧ n ≤ 65536 ∧ off % 32 = 0)
    && (s.segOf k (base + off) (17 * (kk + n))).isSome)

/-- A tailor set's table and every extent in it pass the checks of R233. -/
def State.setOk (s : State) (k base : Nat) : Bool :=
  let t := s.ctxRead k base 4096
  (s.segOf k base 4096).isSome && (List.range 256).all fun i =>
    s.entryOk k base (leAt t (16 * i) 8) (leAt t (16 * i + 8) 4) (leAt t (16 * i + 12) 4)

/-- A batch table of the present or of a later step names a tailor identifier, so that a TAILOR record is UNSAFE (R409). -/
def Serve.names (v : Serve) (id : Nat) : Bool :=
  v.tables.any fun m => decide (v.begun ≤ m.step + 1) && m.rows.any fun r => r.tailor.toNat == id

/-- The TAILOR record of a binding that completes now (R409). -/
def tailorRecord (s : State) (w : SrvWait) : List Byte :=
  let v := (s.getCtx w.slot).serve
  jrnRecord 4 (b2n (v.names w.id)) (v.begun - 1)
    (leBytes 1 (if w.set.isSome then 1 else 2) ++ leBytes 1 0 ++ leBytes 2 w.id ++ leBytes 4 0 ++ leBytes 8 ((w.set.map TailorSet.base).getD 0))

/-- A binding completes once its record has room, and waits until then (R409). -/
def finishTailor (s : State) (w : SrvWait) : State :=
  let rec_ := tailorRecord s w
  if s.jrnMode w.slot = 1 ∧ !s.jrnRoom w.slot [rec_] then { s.setBit .srvCmdStatus [] 9 true with srvWait := some w }
  else
    let s := if s.jrnMode w.slot = 1 then s.jrnPut w.slot rec_ else s
    let s := { (s.setTailor w.slot w.id w.set).setBit .srvCmdStatus [] 9 false with srvWait := none }
    s.finish .srvCmdStatus [] .ok

/-- TAILOR_BIND (R233). -/
def cmdTailorBind (s : State) (acc : Accessor) (found : Findings) : State :=
  let k := s.srvId.slot
  let id := s.fld .srvArg0 [] 16 16
  let base := (s.rg .srvArg1 []).toNat
  let tab := (s.getCtx k).serve.tailors
  let full := decide (4096 ≤ tab.length) && (KMap.get none tab id).isNone
  srvCmd s acc (s.srvCtxConds acc ++ [(id == 0 || (s.segOf k base 4096).isNone, .rejected)]) fun s => srvRead s k base 4096 found fun s =>
    srvThen s [(!s.setOk k base, .rejected), (full || s.jrnMode k == 2, .busy)] fun s =>
      finishTailor s { slot := k, id := id, set := some { base := base, extent := setExtent (s.ctxRead k base 4096) } }

def execTailorBind (acc : Accessor) (found : Findings) (s : State) : Host.Outcome State Fault Refusal := .next (cmdTailorBind s acc found)

/-- TAILOR_UNBIND (R212). -/
def cmdTailorUnbind (s : State) (acc : Accessor) : State :=
  let k := s.srvId.slot
  let id := s.fld .srvArg0 [] 16 16
  srvCmd s acc (s.srvCtxConds acc ++ [((KMap.get none (s.getCtx k).serve.tailors id).isNone, .rejected), (s.jrnMode k == 2, .busy)]) fun s =>
    finishTailor s { slot := k, id := id, set := none }

def execTailorUnbind (acc : Accessor) (s : State) : Host.Outcome State Fault Refusal := .next (cmdTailorUnbind s acc)

/-! ### Forming a step's table (R214, R217, R218, R220, R227) -/

/-- An entry of SRV_CTX_VTAB. -/
structure VEntry where
  var    : Nat
  vrows  : Nat
  prows  : Nat
  pchunk : Nat
  depth  : Nat
deriving DecidableEq, Repr

/-- The VALID entries of a context's variant table. -/
def State.vtab (s : State) (k : Nat) : List VEntry :=
  ((List.range 16).filter fun i => s.bit .srvCtxVtab [k, i] 63).map fun i =>
    let f (lo n : Nat) : Nat := s.fld .srvCtxVtab [k, i] lo n
    { var := f 0 8, vrows := f 8 12, prows := f 20 8, pchunk := f 28 20, depth := f 48 4 }

/-- DLEN of a request at a freeze point (R227): while ZERO_RUN is 16 or more, every 64th step that gives rows is a probe. -/
def Req.dlen (r : Req) : Nat :=
  let d := if 16 ≤ r.zeroRun ∧ (r.probe + 1) % 64 ≠ 0 then 0 else r.params.draftLen
  min d (r.params.maxNew - r.turnNew - 1)

/-- AT_RISK at MT `now` with the step estimate in ticks (R220). -/
def Req.risk (r : Req) (now est : Nat) : Bool :=
  match r.state with
  | .ready | .prefill => r.ttftTgt != 0 && decide (r.mtAdmit + usTicks r.ttftTgt ≤ now + 3 * est)
  | .decode => r.tbtTgt != 0 && decide (r.mtLast + usTicks r.tbtTgt ≤ now + 3 * est)
  | _ => false

/-- A row of a request. -/
def Req.row (r : Req) (role pos dlen collect : Nat) (samples : Bool := false) (poff plen : Nat := 0) : BatchRow :=
  { handle := BitVec.ofNat 32 r.handle, role := BitVec.ofNat 2 role, samples := samples, pos := BitVec.ofNat 4 pos, dlen := BitVec.ofNat 4 dlen,
    collect := BitVec.ofNat 4 collect, tailor := BitVec.ofNat 16 r.tailor, kvidx := BitVec.ofNat 32 r.kvidx, poff := BitVec.ofNat 32 poff,
    plen := BitVec.ofNat 32 plen }

/-- Decode requests that get rows, in order, while they fit VROWS and the 2,048 rows of a message; each with its DLEN. -/
def fillDecode (s : State) (depth : Nat) : List Nat → Nat → Nat → List (Nat × Nat)
  | [], _, _ => []
  | i :: is, vrows, room =>
    let d := min (s.getReq i).dlen depth
    if d + 1 ≤ vrows ∧ 2 * d + 1 ≤ room then (i, d) :: fillDecode s depth is (vrows - (d + 1)) (room - (2 * d + 1))
    else fillDecode s depth is vrows room

/-- What a record keeps of the rows that a step gives it. -/
def Req.given (r : Req) (step d : Nat) : Req :=
  { r with lastRows := step, frozen := r.frozen ++ [step], draftEff := d, probe := if 16 ≤ r.zeroRun then r.probe + 1 else r.probe }

/-- The table of a step under the chosen entry (R218 steps 5 and 6), with the records updated. -/
def fillTable (s : State) (step : Nat) (e : VEntry) (dec pre : List Nat) : List BatchRow × State :=
  let given := fillDecode s e.depth dec e.vrows 2048
  let verify := given.flatMap fun (i, d) => (List.range (d + 1)).map fun p => (s.getReq i).row 1 p d e.depth
  let draft := given.flatMap fun (i, d) => (List.range d).map fun p => (s.getReq i).row 2 p d p
  let pres := (pre.take e.prows).take (2048 - verify.length - draft.length)
  let chunk (r : Req) : Nat := min (r.promptN - r.placed) e.pchunk
  let prefill := pres.map fun i =>
    let r := s.getReq i
    let last := chunk r == r.promptN - r.placed
    r.row 0 0 0 (if last then e.depth else 0) last r.placed (chunk r)
  let s := s.each given fun s (i, d) => s.modReq i fun r => r.given step d
  let s := s.each pres fun s i => s.modReq i fun r =>
    { r.given step 0 with state := .prefill, placed := r.placed + chunk r,
                          lastChunk := if chunk r = r.promptN - r.placed then some step else r.lastChunk }
  (verify ++ draft ++ prefill, s)

/-- Records that closed before this tick are freed and their handles wait for a message (R212, R215), once nothing is held (R230). -/
def freeClosed (s : State) (k : Nat) : State :=
  s.each ((s.leadReqs k).filter fun i =>
      let r := s.getReq i
      r.closing && r.state == .idle && r.held.isEmpty && decide (r.cmdMt < s.mtN)) fun s i =>
    let h := (s.getReq i).handle
    (s.freeReq i).modServe k fun v => { v with release := v.release ++ [h], newReq := v.newReq.filter fun e => e.1 != h }

/-- What a freeze point does to the lead's records before the table is formed: cancels take effect (R231), a turn of which no frozen step is left
ends, prompts whose last chunk lies three steps back make DECODE (R208), AT_RISK is judged (R220). -/
def ageRecords (s : State) (k step : Nat) : State :=
  let est := usTicks (s.fld .srvCtxStepEst [k] 0 32)
  s.each (s.leadReqs k) fun s i =>
    let r := s.getReq i
    let r := if r.cancel && r.cancelFrom.isNone && decide (r.cmdMt < s.mtN) then { r with cancelFrom := some step } else r
    let old := match r.lastChunk with
      | some c => decide (c + 3 ≤ step)
      | none => false
    let r := if r.state == .prefill && old then { r with state := .decode } else r
    let s := s.modReq i fun _ => { r with atRisk := r.risk s.mtN est }
    if r.cancelFrom.isSome ∧ r.frozen.isEmpty ∧ r.state ≠ .idle then s.endTurn i 3 (step - 1) else s

/-- The decode set of a step in its order (R218 step 2). -/
def State.decodeSet (s : State) (k step : Nat) : List Nat :=
  let ok (i : Nat) : Bool :=
    let r := s.getReq i
    let placed := match r.lastChunk with
      | some c => decide (c < step)
      | none => false
    (r.state == .decode || (r.state == .prefill && placed)) && r.cancelFrom.isNone && r.held.isEmpty
  let le (a b : Nat) : Bool :=
    let x := s.getReq a
    let y := s.getReq b
    if x.atRisk != y.atRisk then x.atRisk else if x.lastRows ≠ y.lastRows then decide (x.lastRows < y.lastRows) else decide (a ≤ b)
  sortBy le ((s.leadReqs k).filter ok)

/-- The prefill set of a step in its order (R218 step 3). -/
def State.prefillSet (s : State) (k : Nat) : List Nat :=
  let ok (i : Nat) : Bool :=
    let r := s.getReq i
    ((r.state == .ready && decide (r.cmdMt < s.mtN)) || (r.state == .prefill && decide (r.placed < r.promptN))) && r.cancelFrom.isNone && r.held.isEmpty
  let le (a b : Nat) : Bool :=
    let x := s.getReq a
    let y := s.getReq b
    if x.atRisk != y.atRisk then x.atRisk else decide (x.admSeq ≤ y.admSeq)
  sortBy le ((s.leadReqs k).filter ok)

/-- The entry that a freeze point chooses (R218 step 4): the first that suffices, else the VALID one with the highest index. -/
def State.chooseEntry (s : State) (k : Nat) (dec pre : List Nat) : Option VEntry :=
  let ds := dec.map fun i => (s.getReq i).dlen
  let need := sumN (ds.map (· + 1))
  let depth := ds.foldl max 0
  let left := (pre.map fun i => (s.getReq i).promptN - (s.getReq i).placed).foldl max 0
  match (s.vtab k).find? fun e => decide (need ≤ e.vrows ∧ depth ≤ e.depth ∧ pre.length ≤ e.prows ∧ left ≤ e.pchunk) with
  | some e => some e
  | none => (s.vtab k).getLast?

/-- The message of a freeze point (R215, R218); none where no variant table entry is VALID (R217). `selects` tells END_PLAN's. -/
def formStep (s : State) (k step : Nat) : Option (StepMsg × Bool) × State :=
  let s := ageRecords (freeClosed s k) k step
  let v := (s.getCtx k).serve
  let new := (v.newReq.filter fun e => decide (e.2 < s.mtN)).take 64
  let params := new.map fun e => (BitVec.ofNat 32 e.1, match s.reqOf e.1 with
    | some i => (s.getReq i).params
    | none => noParams)
  let releases := (v.release.take 64).map (BitVec.ofNat 32)
  let s := s.modServe k fun v => { v with newReq := v.newReq.filter fun e => !new.contains e, release := v.release.drop 64 }
  let ends := match v.ending with
    | some t => decide (t < s.mtN)
    | none => false
  if ends then (some ({ step := step, variant := BitVec.ofNat 8 (s.fld .srvCtxEndvar [k] 0 8), rows := [], params := params, releases := releases }, true), s)
  else
    let dec := s.decodeSet k step
    let pre := s.prefillSet k
    match s.chooseEntry k dec pre with
    | none => (none, s)
    | some e =>
      let (rows, s) := fillTable s step e dec pre
      (some ({ step := step, variant := BitVec.ofNat 8 e.var, rows := rows, params := params, releases := releases }, false), s)

/-! ### Taking a table in (R209, R215, R258) -/

/-- Every HOT page of a context a step older; a page that reaches MOR_HOT_STEPS is NONE, and keeps its age (R258). -/
def ageHot (s : State) (k : Nat) : State :=
  let limit := s.fld .morHotSteps [] 0 8
  s.modCtx k fun c => { c with pt := c.pt.map fun e =>
    if e.2.hint = 1 then (e.1, { e.2 with hint := if limit ≤ e.2.hotAge + 1 then 0 else 1, hotAge := satN 8 (e.2.hotAge + 1) }) else e }

/-- A range of a context's addresses made HOT. -/
def heat (s : State) (k va n : Nat) : State :=
  s.each (List.range (if n = 0 then 0 else (va + n - 1) / pageBytes - va / pageBytes + 1)) fun s i => s.setHint k (va / pageBytes + i) 1

/-- The pages of a row's key-value range and tailor set made HOT (R258). -/
def heatRow (s : State) (k : Nat) (r : BatchRow) : State :=
  let seg := match (s.getCtx k).image with
    | some im => im.segs[s.fld .morCtxKv0 [k] 0 15]?
    | none => none
  let s := match seg with
    | some g =>
      let off := (s.rg .morCtxKv1 [k]).toNat + r.kvidx.toNat * s.fld .morCtxKv2 [k] 0 32 * pageBytes
      if s.bit .morCtxKv0 [k] 15 then heat s k (g.base + off) (min (s.fld .morCtxKv2 [k] 32 32 * pageBytes) (g.size - off)) else s
    | none => s
  match KMap.get none (s.getCtx k).serve.tailors r.tailor.toNat with
  | some t => heat s k t.base t.extent
  | none => s

/-- Mirrors freed and created as a message says (R209): a handle that it first names gets a record above the slots. -/
def takeMirrors (s : State) (k : Nat) (m : StepMsg) : State :=
  let s := s.each m.releases fun s h => match s.mirrorOf k h.toNat with
    | some i => s.freeReq i
    | none => s
  let s := s.each (m.rows.map BatchRow.handle ++ m.params.map Prod.fst) fun s h =>
    if (s.mirrorOf k h.toNat).isSome ∨ 16384 ≤ s.reqsUsed then s
    else match (List.range 16384).find? fun i => (s.getReq (16384 + i)).state == .free with
      | some i => s.modReq (16384 + i) fun _ => { state := .idle, lead := false, ctx := s.idOf k, handle := h.toNat }
      | none => s
  let s := s.each m.params fun s p => match s.mirrorOf k p.1.toNat with
    | some i => s.modReq i fun r => { r with params := p.2 }
    | none => s
  s.each (s.reqsOf k) fun s i => s.modReq i fun r =>
    match m.rows.find? fun x => x.handle.toNat == r.handle with
    | some x => { r with state := .decode, tailor := x.tailor.toNat, kvidx := x.kvidx.toNat }
    | none => { r with state := .idle }

/-- A chip takes a whole table in: it stands for its step, and its variant index is present (R124, R215). -/
def takeStep (s : State) (k : Nat) (m : StepMsg) : State :=
  let s := s.modCtx k fun c =>
    { c with varIdx := KMap.set 256 c.varIdx m.step m.variant.toNat,
             serve := { c.serve with tables := c.serve.tables ++ [m], next := max c.serve.next (m.step + 1) } }
  (ageHot s k).each m.rows fun s r => heatRow s k r

/-- A step message for a follower (R18, R215): taken in once, while its plan has not ended. -/
def actStep (s : State) (k : Nat) (m : StepMsg) : State :=
  let c := s.getCtx k
  let serving := match c.image with
    | some im => im.serving
    | none => false
  if !serving || c.leads || c.plan.state == .ended || (c.serve.table m.step).isSome then s else takeStep (takeMirrors s k m) k m

def execStepMessage (part : BitVec 16) (gen : BitVec 8) (msg : StepMsg) (s : State) : Host.Outcome State Fault Refusal :=
  match s.msgSlot part.toNat gen.toNat with
  | some k => .next (actStep s k msg)
  | none => .next s

/-! ### The freeze point -/

/-- The lead's step may be frozen (R214): the step two before it has begun, and the results of the one three before it are consumed; with
SLOTS 0 nothing is consumed (R237). -/
def State.freezeDue (s : State) (k : Nat) : Bool :=
  let c := s.getCtx k
  let v := c.serve
  c.leads && c.plan.active && c.state == .opened && !v.closed && decide (v.next ≤ v.begun + 1)
    && (s.fld .srvCtxRrcfg [k] 0 8 == 0 || decide (v.next ≤ v.expect + 2))

/-- The lead sends a frozen table to its partition and takes it in. -/
def publish (s : State) (k : Nat) (m : StepMsg) (ends : Bool) : State :=
  let s := sendFlood s k 3 2 (stepPacketBody m)
  (takeStep s k m).modServe k fun v => { v with closed := v.closed || ends }

/-- FREEZE_POINT (R214, R218, R219): the lead forms the table, or takes it from the journal in a replay. In RECORD mode it waits until the step's STEP
and CHECK records have room (R409). -/
def freezePoint (s : State) (k : Nat) : State :=
  if !s.freezeDue k then s
  else
    let step := (s.getCtx k).serve.next
    if s.jrnMode k = 2 then
      match s.jrnHead k with
      | (.record 2 _ n body len, s) =>
        if n = step then
          let m := parseStep step body
          let ends := match (s.getCtx k).image with
            | some im => match im.variants[m.variant.toNat]? with
              | some (_, kind) => kind == 2
              | none => false
            | none => false
          publish (takeMirrors (s.jrnAdvance k len) k m) k m ends
        else s
      | (_, s) => s
    else match formStep s k step with
      | (none, s) => against (s.modServe k fun v => { v with closed := true }) .serveConfig srcSrv k
      | (some (m, ends), s') =>
        if s.jrnMode k = 1 then
          let r := jrnRecord 2 0 step (stepBody m)
          if s.jrnRoom k [r, jrnRecord 5 0 step (List.replicate 8 0)] then publish (s'.jrnPut k r) k m ends else s
        else publish s' k m ends

def execFreezePoint (k : CtxSlot) (s : State) : Host.Outcome State Fault Refusal := .next (freezePoint s k.val)

/-! ### Results and deliveries (R229, R230) -/

/-- A row of a result slot (R228). -/
structure OutRow where
  token     : Nat
  committed : Bool := false
  last      : Bool := false
  end_      : Nat := 0
  miss      : Bool := false
  handle    : Nat := 0
  tokidx    : Nat := 0
deriving DecidableEq, Repr

/-- The 16 bytes of a row (R228). -/
def OutRow.bytes (r : OutRow) : List Byte :=
  leBytes 4 r.token ++ leBytes 4 (b2n r.committed + 2 * b2n r.last + 4 * r.end_ + 32 * b2n r.miss) ++ leBytes 4 r.handle ++ leBytes 4 r.tokidx

def OutRow.parse (b : List Byte) : OutRow :=
  let f := leAt b 4 4
  { token := leAt b 0 4, committed := f % 2 == 1, last := fieldN f 1 1 == 1, end_ := fieldN f 2 3, miss := fieldN f 5 1 == 1, handle := leAt b 8 4,
    tokidx := leAt b 12 4 }

/-- The committed rows of one request in a consumed step: counters, delivery entry and the end of its turn (R227, R229 to R232). -/
def commitRows (s : State) (i step dlen : Nat) (rows : List OutRow) (miss : Bool) : State :=
  let n := rows.length
  let end_ := ((rows.find? fun r => r.last).map OutRow.end_).getD 0
  let s := s.modReq i fun r =>
    let run := if dlen = 0 then r.zeroRun else if n = 1 then r.zeroRun + 1 else 0
    { r with tokidx := (r.tokidx + n) % 2 ^ 32, turnNew := r.turnNew + n, zeroRun := run,
             probe := if run = 16 ∧ r.zeroRun = 15 then r.frozen.length else r.probe,
             proposed := satN 32 (r.proposed + dlen), accepted := if dlen = 0 then r.accepted else satN 32 (r.accepted + (n - 1)) }
  let r := s.getReq i
  let gone := r.cancelFrom.isSome && r.frozen.isEmpty
  let reason := if end_ = 1 ∨ end_ = 2 then end_ else if gone then 3 else 0
  let s := s.formDelivery i ((rows.map OutRow.tokidx).headD 0) (rows.map OutRow.token) reason (decide (reason = 1 ∨ reason = 2) && r.cancel) miss step
  if reason = 0 then s else s.idleReq i reason

/-- The rows of a consumed step reach the records (R229). -/
def consumeRows (s : State) (k step : Nat) (rows : List OutRow) : State :=
  let table := ((s.getCtx k).serve.table step).map StepMsg.rows |>.getD []
  s.each (s.leadReqs k) fun s i =>
    let r := s.getReq i
    let had := r.frozen.contains step
    let mine := rows.filter fun x => x.handle == r.handle
    let done := mine.filter OutRow.committed
    let miss := mine.any OutRow.miss
    let s := s.modReq i fun r => { r with frozen := r.frozen.filter (· != step), missed := if had then miss else r.missed }
    let r := s.getReq i
    let dlen := ((table.find? fun x => x.role == 1 && x.handle.toNat == r.handle).map fun x => x.dlen.toNat).getD 0
    if r.state = .idle ∨ r.state = .ready then s
    else if !done.isEmpty then commitRows s i step dlen done miss
    else if r.cancelFrom.isSome ∧ r.frozen.isEmpty then s.endTurn i 3 step
    else s

/-- The CHECK record of a consumed slot (R409), or the comparison with it in a replay (R410). None where the replay waits for it. -/
def checkSlot (s : State) (k step count : Nat) (bytes : List Byte) : Option State :=
  let body := leBytes 4 count ++ leBytes 4 (crc32c bytes).toNat
  if s.jrnMode k = 2 then
    match s.jrnHead k with
    | (.record 5 _ _ b len, s) =>
      let s := s.jrnAdvance k len
      some (if b.take 8 != body then diverge s k 0 step else s)
    | (_, _) => none
  else some (s.jrnSay k 5 0 step body)

/-- The rows of a result slot that have been read are consumed, and the slot's flag goes back to the plan. -/
def consumeStep (s : State) (k va step count slots pos : Nat) : State :=
  let bytes := s.ctxRead k (va + 64) (16 * min count 4092)
  match checkSlot s k step count bytes with
  | none => (s.jrnHead k).2
  | some s =>
    let s := if s.jrnMode k = 2 then s else consumeRows s k step ((chunks 16 bytes).map OutRow.parse)
    (s.handFlag k va 1).modServe k fun v => { v with expect := v.expect + 1, ringPos := if slots ≤ pos + 1 then 0 else pos + 1 }

/-- RESULT_SLOT_CONSUME (R229): the next slot is read (R245), once the plan has handed its flag over. -/
def consumeSlot (s : State) (k : Nat) (found : Findings) : State :=
  let c := s.getCtx k
  let slots := s.fld .srvCtxRrcfg [k] 0 8
  let pos := if slots = 0 then 0 else c.serve.ringPos % slots
  let va := (s.rg .srvCtxRring [k]).toNat + 0x10000 * pos
  if !c.leads || !c.plan.active || c.state != .opened || slots == 0 || flagOwner (s.ctxNat k va 8) != 2 then s
  else match engineRead s k va 64 found with
    | (true, s) => s
    | (false, s) =>
      let step := s.ctxNat k (va + 8) 8
      let count := s.ctxNat k (va + 16) 4
      if step ≠ c.serve.expect then against s .resultOrder srcSrv k
      else match engineRead s k (va + 64) (16 * min count 4092) found with
        | (true, s) => s
        | (false, s) => consumeStep s k va step count slots pos

def execResultSlotConsume (k : CtxSlot) (found : Findings) (s : State) : Host.Outcome State Fault Refusal := .next (consumeSlot s k.val found)

/-- HELD_DELIVERY_WRITE (R230): held deliveries of a record are written in order as entries return. -/
def execHeldDeliveryWrite (k : CtxSlot) (slot : BitVec 14) (s : State) : Host.Outcome State Fault Refusal :=
  let r := s.getReq slot.toNat
  if r.state ≠ .free ∧ r.lead ∧ r.ctx.slot = k.val ∧ !(s.getCtx k.val).away then .next (s.drainHeld slot.toNat) else .next s

end Sys2Proof.Machine
end

