-- ==== Sys2Proof/Machine/Loader.lean ====
section
/-! DEFINITION. The loader (R166 to R171, R175, R176): the load command and the end of a load, by the five passes of R170 and the placing of
the plan. -/

namespace Sys2Proof.Machine

/-! ### Placing the plan (R166 to R169) -/

/-- The segments of a chip with their bases (R163, R167). -/
def Img.segments (im : Img) (c : Nat) : List Seg :=
  let gs := im.segs c
  List.zipWith (fun base g => { base := base, size := g.1, tier := g.2 % 256, write := fieldN g.2 8 1 == 1, window := fieldN g.2 9 1 == 1 })
    (segBases pageBytes (gs.map Prod.fst)) gs

/-- Page table entries for `fs` from a page on. -/
def layPages (page : Nat) (e : Pte) (fs : List FrameId) : KMap Pte := fs.zipIdx.map fun (f, i) => (page + i, { e with frame := some f })

/-- The page table of a chip's segments and stream segment over the context's frames in grant order (R253): HBM for tiers 0 and 1 and the
streams, CXL for tier 2. -/
def pageTable : List Seg → Nat → List FrameId → List FrameId → KMap Pte
  | [], n, h, _ => layPages (streamBase / pageBytes) { tier := 0, stream := true } (h.take n)
  | g :: r, n, h, x =>
    let m := g.size / pageBytes
    let e : Pte := { tier := g.tier, write := g.write, window := g.window }
    if g.tier = 2 then layPages (g.base / pageBytes) e (x.take m) ++ pageTable r n h (x.drop m)
    else layPages (g.base / pageBytes) e (h.take m) ++ pageTable r n (h.drop m) x

/-- The streams of a chip in the stream segment (R167): each tile's, variant by variant, each from a 64-byte line on: tile, variant, macro-ops,
virtual address. -/
def Img.laidStreams (im : Img) (c : Nat) : List (Nat × Nat × List MacroOp × Nat) :=
  let all := im.tiles.flatMap fun vt => im.streamed.map fun v => (vt, v, im.stream c v vt)
  (all.foldl (fun (acc : List (Nat × Nat × List MacroOp × Nat) × Nat) x =>
    (acc.1 ++ [(x.1, x.2.1, x.2.2, acc.2)], acc.2 + streamBytes x.2.2.length)) ([], streamBase)).1

/-- The value of a fix-up (R168). -/
def Img.fixup (im : Img) (c : Nat) (vault : List (Option (Nat × Nat))) (r : Reloc) : Nat :=
  ((segBase im c vault r.seg).getD (0, 0)).1 + r.add

/-- A tile as a load leaves it (R169): SRAM as SRAM_INIT and the fix-ups write it, descriptors, objects with COUNT 0, the sequencer at VAR0 in
step 0; queues, accumulators and masks are empty. -/
def loadTile (im : Img) (c vt : Nat) (vault : List (Option (Nat × Nat))) (x : Tile) : Tile :=
  let rs := (im.relocs c).filter fun r => ofKey r.vtile == vt
  let sram := (im.sramInit c vt).foldl (fun (m : Memory) e => m.write e.1 e.2) []
  let sram := (rs.filter fun r => r.kind == 1).foldl (fun (m : Memory) r => m.write r.place (leBytes 8 (im.fixup c vault r))) sram
  let body := im.body (im.tileSec secDescs c vt)
  let desc := (rs.filter fun r => r.kind == 0).foldl (fun (m : Memory) r => m.write (32 * r.place + 16) (leBytes 8 (im.fixup c vault r)))
    (Memory.write [] 0 body)
  let attr := im.body (im.tileSec secAttrs c vt)
  let words := (im.entries 16 (im.tileSec secStreams c vt)).zipIdx
  { state := x.state, ctx := x.ctx, bistQueued := x.bistQueued, bistFrom := x.bistFrom, ueReports := x.ueReports, power := x.power, bank := .active,
    sram := sram, desc := desc, descLimit := some (body.length / 32), variant := im.h.var0,
    tstreams := words.foldl (fun (m : KMap Nat) e => KMap.set 0 m e.2 e.1) [],
    sync := attr.zipIdx.foldl (fun (m : KMap SyncObj) e => if e.1.toNat = 1 then KMap.set {} m e.2 { barrier := true } else m) [] }

/-- What the context keeps of the image. -/
def Img.keep (im : Img) (c : Nat) : Image :=
  { id := im.b.drop (im.b.length - 48), chip := c, chips := im.h.chips, minQuota := (im.chipTable.map fun e => fieldN e 96 32).foldl min (2 ^ 32),
    isLead := c == im.h.lead, serving := im.h.serving, dhop := im.h.dhop,
    variants := (List.range im.h.variants).map im.variant, var0 := im.h.var0, var1 := im.h.var1, vrows := im.h.vrows, vocab := im.h.vocab,
    links := im.links c, segs := im.segments c,
    streams := (im.laidStreams c).foldl (fun (m : KMap (Nat × Nat)) e => KMap.set (0, 0) m (512 * e.2.1 + e.1) (e.2.2.2, e.2.2.1.length)) [],
    slots := (im.planLinks c).foldl (fun (m : KMap Nat) l => (List.range 112).foldl (fun m i => KMap.set 0 m (112 * l + i) (im.slotWord c l i)) m) [],
    routes := (im.entries 8 (im.chipSec secRoutes c)).map fun w => (fieldN w 0 8, fieldN w 8 3) }

/-- A context's mesh claims entered (R293). -/
def State.enterClaims (s : State) (k rot : Nat) (ms : List MeshStream) : State :=
  { s with net := { s.net with claims := ms.foldl (fun m n => n.claims.foldl (fun m x =>
      KMap.set none m x (some { ctx := s.idOf k, stream := n.stream, src := n.src, rot := rot })) m) s.net.claims } }

/-- Routes written to the bank of a context slot that is not current (R162, R308). -/
def State.putRoutes (s : State) (k bank : Nat) (rs : List (Nat × Nat)) : State :=
  { s with net := { s.net with routes := rs.foldl (fun m r => KMap.set 0 m (8192 * bank + 256 * k + r.1) (r.2 + 8)) s.net.routes } }

/-- The waiter lists of the objects of a plan's tiles are empty (R133): watches that software has armed since the grant end. DESIGN CHOICE (log entry
121): they end ABANDONED. -/
def dropWatches (s : State) (tiles : List Nat) : State :=
  s.each tiles fun s t => s.each (s.syncWatches t) fun s w => s.endSyncWatch t w .abandoned false

/-- The plan is placed (R133, R166 to R169): every frame of the plan and every frame received dirty is zeroed, streams and segment data are written,
tiles and routes set, claims entered, and the context holds the image with its plan IDLE. -/
def placePlan (s : State) (k : Nat) (im : Img) (c : Nat) (mapping : List Nat) : State :=
  let x := s.getCtx k
  let vault := s.vaultBases k im c
  let hbm := x.hbm.take (im.hbmPages c)
  let cxl := x.cxl.take (im.cxlPages c)
  let s := s.each (hbm ++ cxl ++ x.dirty) State.frameClear
  let s := s.modCtx k fun y => { y with dirty := [], pt := pageTable (im.segments c) (ceilDiv (im.streamTotal c) pageBytes) hbm cxl }
  let s := s.each (im.laidStreams c) fun s e => s.ctxWrite k e.2.2.2 (e.2.2.1.flatMap fun o => leBytes 16 o.word)
  let s := s.each (im.segInit c) fun s e => s.ctxWrite k (((im.segments c).map Seg.base).getD e.1 0 + e.2.1) e.2.2
  let s := dropWatches s (im.tiles.map fun vt => mapping.getD vt 576)
  let s := (s.endRunning fun e => mapping.contains e.tile).each im.tiles fun s vt => s.modTile (mapping.getD vt 576) (loadTile im c vt vault)
  let s := (s.putRoutes k (1 - s.epochOf k) ((im.keep c).routes)).enterClaims k 0 (im.meshStreams c mapping)
  let id := im.b.drop (im.b.length - 48)
  let s := s.each (List.range 6) fun s j => s.setRg .ldrCtxImage [k, j] (Word.ofNat (leAt id (8 * j) 8))
  s.modCtx k fun y => { y with image := some (im.keep c), plan := {}, varIdx := KMap.set 256 (KMap.set 256 [] 0 im.h.var0) 1 im.h.var1 }

/-! ### The end of a load (R166, R170, R171, R311) -/

/-- LDR_STATUS at the end of a load, and the repairs that waited for it. -/
def endLoad (s : State) (l : Loader) (st : Status) (reason : Nat) : State :=
  let k := l.ctx.slot
  let s := { s.setRg .ldrStatus [] (pack [(1, 1, 1), (8, 8, st.code), (16, 8, reason), (24, 5, k)]) with loader := none }
  s.each l.repairs fun s vt => match s.spare with
    | some sp => remapTile s k vt sp
    | none => s

/-- A load that a check refuses (R171). -/
def rejectLoad (s : State) (l : Loader) (r : Reject) : State :=
  endLoad (s.setRg .ldrWhere [] (pack [(0, 32, r.index), (32, 16, r.sec), (48, 4, r.vtile / 32), (52, 5, r.vtile % 32)])) l .rejected r.code

/-- The passes of R170 in order, from the third on for chip `c`. -/
def State.laterPasses (s : State) (k : Nat) (im : Img) (c : Nat) (mapping : List Nat) : Option Reject :=
  firstBad [s.pass3 k im c mapping, s.pass4 k im c, s.pass5 k im c mapping]

/-- The route bank that is not current is locked, and the image has routes for it (R308). -/
def State.bankWaits (s : State) (k : Nat) (im : Img) (c : Nat) : Bool :=
  decide (s.mtN < KMap.get 0 s.net.unlockAt k) && (im.chipSec secRoutes c).any fun x => x.size != 0

/-- The load in progress ends: on a locked route bank it goes on waiting. -/
def loadDone (s : State) (ue : Bool) : State :=
  match s.loader with
  | none => s
  | some l =>
    let k := l.ctx.slot
    let im := Img.parse l.bytes
    match im.pass1 ue with
    | some r => rejectLoad s l r
    | none => match s.pass2 k im, s.member k im with
      | some r, _ => rejectLoad s l r
      | none, none => rejectLoad s l { code := 0x08 }
      | none, some c =>
        let s := s.setRg .ldrChip [] (Word.ofNat c)
        match s.laterPasses k im c l.tiles with
        | some r => rejectLoad s l r
        | none => if s.bankWaits k im c then s else endLoad (placePlan s k im c l.tiles) l .ok 0

def execImageLoadDone (stagingUe : Bool) (s : State) : Host.Outcome State Fault Refusal := .next (loadDone s stagingUe)

/-! ### The load command (R175, R176) -/

/-- LDR_CMD: refused without a change to LDR_STATUS, or a load begins. -/
def cmdLoad (s : State) (acc : Accessor) (v : Word) : State :=
  let id := CtxId.ofNat v.toNat
  let src := (s.rg .ldrSrc []).toNat
  let len := (s.rg .ldrLen []).toNat
  match firstOf [(!s.live id, .stale), (!s.owns acc id.slot, .denied), (src % 64 != 0 || !mgtRange src len false, .rejected),
      (!s.canLoad id.slot, .busy)] with
  | some st => s.setRg .ldrRefuse [] (pack [(0, 8, st.code), (8, 5, id.slot), (13, 1, 1)])
  | none => beginLoad s id.slot src len

def execImageLoad (acc : Accessor) (value : Word) (s : State) : Host.Outcome State Fault Refusal := .next (onBlock s srcClo fun s => cmdLoad s acc value)

end Sys2Proof.Machine
end

