-- ==== Sys2Proof/Machine/Save.lean ====
section
/-! DEFINITION. Saving and restoring a context (R149, R150, R281 to R285, R309, R310, R357), and the clearing of released tiles (R277). -/

namespace Sys2Proof.Machine

/-! ### The drain (R149, R204, R281) -/

/-- A macro-op that has left its port may be saved as it stands: a RECV, a SEND or remote SIGNAL with flits whose slots come after P, or a vault
request that has not started. -/
def State.savable (s : State) (k vt : Nat) (x : Tile) (r : Running) : Bool :=
  r.op.op == opRecv || (KMap.get [] x.outbox r.op.stream).any (fun f => f.mop == r.key)
    || (List.range 4).any fun v => (KMap.get [] (s.getVault v).queue k).any fun q => q.vtile == vt && q.key == r.key && !q.started

/-- A tile has no macro-op in flight but those: a vault macro-op may wait at its port for room in a queue. -/
def State.tileDrained (s : State) (k vt : Nat) (x : Tile) : Bool :=
  (x.running.all fun e => match e.2 with
    | some r => r.op.op == opVaultGemv || r.op.op == opVaultStream
    | none => true)
    && (x.xfer.all fun e => e.2.isEmpty) && x.outst.all (s.savable k vt x)

/-- A link has passed on what this chip sent at cycles up to P and holds what its neighbour scheduled there (R149). -/
def State.linkDrained (s : State) (k l : Nat) : Bool :=
  let c := s.getCtx k
  let x := s.getLink l
  let p := c.plan.pcy.toNat - 1
  match c.image with
  | none => true
  | some im =>
    let d := dHop im.dhop
    x.tree.isEmpty && x.txDue.isEmpty && (x.txPlan.all fun e => e.2.isEmpty) && (x.sent.all fun f => f.flits.all fun w => w.vc != 0)
      && ((KMap.get ({} : Stamp) c.plan.stamps l).ended || (List.range (min d (p + 1))).all fun i =>
        (slotsAt x.half (p - i)).all fun g => !(decide (g % 64 < 56) && (im.slot l true (g % 64)).use == 1) || x.holds g)

/-- Nothing of the context is in flight any more (R281). -/
def State.drainDone (s : State) (k : Nat) : Bool :=
  let c := s.getCtx k
  (c.tiles.zipIdx.all fun (t, vt) => s.tileDrained k vt (s.getTile t)) && (s.net.flits.all fun f => f.ctx.slot != k)
    && ((List.range 4).all fun v => (KMap.get [] (s.getVault v).queue k).all fun q => !q.started)
    && (s.mor.exchanges.all fun x => x.ctx.slot != k) && (!c.plan.active || c.links.all (s.linkDrained k))

/-- SAVE_DRAIN_END. -/
def execSaveDrainEnd (k : CtxSlot) (s : State) : Host.Outcome State Fault Refusal :=
  let c := s.getCtx k.val
  if c.state = .saving ∧ !c.drained ∧ s.drainDone k.val then .next (s.modCtx k.val fun c => { c with drained := true }) else .next s

/-- CLO_DRAIN_LIMIT: values above 0x39_3870 count as that (R289). -/
def State.drainLimit (s : State) : Nat := min 0x393870 (s.fld .cloDrainLimit [] 0 32)

/-- PREEMPT_TIMEOUT: a drain that is pending at CLO_DRAIN_LIMIT ends the plan, and nothing is saved (R281). -/
def execPreemptTimeout (k : CtxSlot) (s : State) : Host.Outcome State Fault Refusal :=
  let c := s.getCtx k.val
  if c.state = .saving ∧ !c.drained ∧ c.drainFrom + s.drainLimit ≤ s.mtN then
    let s := s.dropCloOp k.val .timeout
    let s := against s .preemptTimeout srcClo k.val
    .next (s.modCtx k.val fun c => { c with state := .opened })
  else .next s

/-! ### The save (R282, R357) -/

/-- The counters of a tile that its record holds. -/
def tileCounters : List RegName := [.tilArithSat, .tilSramCe, .tilBankWait, .tilCountClamp, .tilSyncDrop]

/-- The save area of a context; in it the sync objects are SUSPENDED (R149). -/
def State.saveArea (s : State) (k : Nat) : SaveArea :=
  let c := s.getCtx k
  { rows := c.tiles.length / 32, groups := (List.range 4).map fun v => (s.groupsOf k v).length, links := c.links,
    tiles := c.tiles.map fun t => { s.getTile t with bank := .suspended }, counters := c.tiles.map fun t => tileCounters.map fun r => s.rg r [t],
    bufs := c.links.map fun l => ((s.getLink l).buf, (s.getLink l).rxFrames), epoch := s.epochOf k }

/-- A tile leaves a context that is saved: a BAD one stays with it, unmapped. -/
def State.saveTile (s : State) (k vt t : Nat) : State :=
  if (s.getTile t).state = .bad then s.modCtx k fun c => { c with badTiles := c.badTiles ++ [(vt, t)] } else s.takeTile t

/-- An accumulator in a tile record (R282): mant, exp, empty, and padding. -/
def Acc.bytes (a : Acc) : List Byte :=
  leBytes 8 (a.mant % 2 ^ 64).toNat ++ leBytes 2 (a.exp % 2 ^ 16).toNat ++ leBytes 1 (b2n a.empty) ++ leBytes 5 0

/-- The parts of a tile record that R282 lays out, by offset: SRAM, descriptors, issue queue and entry buffer, masks, accumulators, stationary
buffers (log entry 63). -/
def Tile.record (x : Tile) : List (Nat × List Byte) :=
  let words (n : Nat) (l : List MacroOp) : List Byte := padTo (l.flatMap fun o => leBytes 16 o.word) (16 * n) 0
  [(0, x.sram.read 0 0x180000), (0x180000, x.desc.read 0 0x8000), (0x188000, words 256 x.issueQ ++ words 64 x.entryBuf),
   (0x189F00, (List.range 8).flatMap fun i => leBytes 8 (KMap.get 0 x.masks i).toNat),
   (0x18D000, (List.range 16384).flatMap fun i => (KMap.get {} x.acc i).bytes), (0x1CD000, padTo x.stationary 16384 0)]

/-- Free bytes of a frame. -/
def fillFree (s : State) (f : FrameId) (off n : Nat) : State :=
  let (bs, s) := s.drawBytes n
  s.frameWrite f off bs

/-- The record of a tile written to a save frame (R282): the parts whose inner layout the manual does not give hold free bytes. -/
def saveRecord (s : State) (f : FrameId) (x : Tile) : State :=
  fillFree (fillFree (s.each x.record fun s p => s.frameWrite f p.1 p.2) f 0x189400 0xB00) f 0x189F40 0x30C0

/-- The save area written to its frames (R282): each tile's record, and header frames, whose inner layout the manual does not give. -/
def saveFrames (s : State) (k : Nat) : State :=
  let c := s.getCtx k
  (s.each (c.tiles.zip c.saveFr) fun s e => saveRecord s e.2 (s.getTile e.1)).each c.header fun s f => fillFree s f 0 pageBytes

/-- The context is SAVED: watches end BUSY with OWNER_SUSPENDED, claims and routes go, tiles, groups and links return, and the partition
entry is SUSPENDED (R150, R281, R309, R357). -/
def saveCtx (s : State) (k : Nat) : State :=
  let area := s.saveArea k
  let s := (saveFrames s k).endWatches k .busy true
  let s := s.dropClaims k
  let s := s.each (s.getCtx k).tiles.zipIdx fun s e => s.saveTile k e.2 e.1
  let s := s.each (List.range 4) fun s v => s.dropGroups v (s.groupsOf k v)
  let s := s.each area.links fun s l => s.modLink l fun x => { x with buf := [], tree := [], rxFrames := [], rxWait := [] }
  let s := s.modCtx k fun c => { c with state := .saved, drained := false, save := some area, saveDead := false, tiles := [], links := [],
                                        plan := { c.plan with stopP := none } }
  s.modPart k fun e => if e.state = .committed ∨ e.state = .joined then e.rejoin.leave .suspended else e

/-- A REBIND that saved its source: the target in its slot, with the selected tiles, groups and links of the source (R284, R285). -/
def finishRebind (s : State) (k j types issuer : Nat) : State :=
  let c := s.getCtx k
  let groups := (List.range 4).map fun v => s.groupsOf k v
  let good := c.tiles.filter fun t => (s.getTile t).state == .granted
  let s := saveCtx s k
  match s.takeFrames (8 + if hasType types 1 then c.tiles.length else 0) with
  | none => s.finish .cloCmdStatus [] .busy
  | some (fs, s) =>
    let s := openCtx s j issuer ((fs.take 8).map Prod.fst)
    let s := if hasType types 1 then
        (s.each good fun s t => (s.clearTile t).giveTile j t).modCtx j fun x => { x with tiles := good, saveFr := (fs.drop 8).map Prod.fst }
      else s
    let s := if hasType types 4 then s.each groups.zipIdx fun s e => s.giveGroups j e.2 e.1 else s
    let s := if hasType types 7 then s.modCtx j fun x => { x with links := c.links } else s
    s.finish .cloCmdStatus [] .ok

/-- SAVE_COMPLETE. -/
def saveComplete (s : State) (k : Nat) : State :=
  let c := s.getCtx k
  if c.state = .saving ∧ c.drained then
    match s.cloOp with
    | some (.preempt i) => if i = k then ({ saveCtx s k with cloOp := none }).finish .cloCmdStatus [] .ok else saveCtx s k
    | some (.rebind i j types issuer) => if i = k then { finishRebind s k j types issuer with cloOp := none } else saveCtx s k
    | _ => saveCtx s k
  else s

def execSaveComplete (k : CtxSlot) (s : State) : Host.Outcome State Fault Refusal := .next (saveComplete s k.val)

/-! ### RESUME (R283, R310) -/

/-- MESH_SLOTS rotated: bit j moves to bit (j + r) mod 64. -/
def rotSlots (m r : Nat) : Nat := m * 2 ^ r % 2 ^ 64 + m * 2 ^ r / 2 ^ 64

/-- The mesh streams of saved tiles under a new mapping, in ascending source tile and stream, each with its slots and destination. -/
def savedStreams (tiles : List Tile) (mapping : List Nat) : List (Nat × Nat × Nat × Nat × Nat) :=
  tiles.zipIdx.flatMap fun (x, vt) => (List.range 64).filterMap fun i =>
    let e := x.outStream i
    if e.dest = 1 then some (vt, i, mapping.getD vt 576, mapping.getD e.vtile 576, e.slots) else none

/-- The streams placed in order into the claim map, each under the smallest rotation that clears every conflict (R310); none where a stream
has no such rotation. -/
def placeStreams (s : State) (k : Nat) : List (Nat × Nat × Nat × Nat × Nat) → Option State
  | [] => some s
  | (vt, i, a, b, m) :: r =>
    match (List.range 64).find? fun rot => !(meshClaims a b (rotSlots m rot)).any s.claimed with
    | none => none
    | some rot => placeStreams (s.enterClaims k rot [{ vtile := vt, stream := i, src := a, claims := meshClaims a b (rotSlots m rot) }]) k r

/-- What RESUME grants again, all of it or none (R283, R357). -/
def regrant (s : State) (k : Nat) (a : SaveArea) : Option State :=
  let n := 32 * a.rows
  let groups := a.groups.zipIdx.map fun (n, v) => (v, (s.groupsFree v).take n, n)
  if s.planTiles < s.tilesGranted + n ∨ groups.any (fun g => g.2.1.length < g.2.2 || (g.2.2 != 0 && s.vaultClosed g.1)) ∨ a.links.any (fun l => !s.linkFree l)
  then none
  else match s.pickTiles n with
    | none => none
    | some ts =>
      let s := s.each ts fun s t => s.giveTile k t
      let s := s.each groups fun s g => s.giveGroups k g.1 g.2.1
      let s := s.each a.links fun s l => s.giveLink k l
      let c := s.getCtx k
      let s := s.modCtx k fun c => { c with tiles := ts }
      match c.image with
      | some im => if c.plan.state = .ended then some s else placeStreams s k (savedStreams (a.tiles.take (32 * im.vrows)) ts)
      | none => some s

/-- RESUME (R283): REJECTED where the save is lost (R401) or the mapping names a BAD tile (R278). -/
def cmdResume (s : State) (acc : Accessor) : State :=
  let k := s.cloId.slot
  let c := s.getCtx k
  let lost := decide (c.state = .saved) && (c.saveDead || !c.badTiles.isEmpty)
  let again : Option State := match c.save with
    | some a => if c.state = CtxState.saved then regrant s k a else none
    | none => none
  cloCmd s (s.frozenConds ++ s.ctxConds acc ++ [(lost, .rejected), (again.isNone, .busy)]) fun s =>
    match again with
    | some s => { s.modCtx k fun c => { c with state := .restoring } with cloOp := some (.resume k) }
    | none => s

def execResume (acc : Accessor) (s : State) : Host.Outcome State Fault Refusal := .next (cmdResume s acc)

/-- A tile record put back on a physical tile; a plan that does not run leaves it DEEP (R390). -/
def restoreTile (asleep : Bool) (rec x : Tile) : Tile :=
  { rec with state := x.state, ctx := x.ctx, bistQueued := x.bistQueued, bistFrom := x.bistFrom, ueReports := x.ueReports, unclear := false,
             bank := .active, power := if asleep then .deep else rec.power, waking := rec.waking && !asleep }

/-- RESTORE_COMPLETE (R283): it waits while the route bank that the saved epoch does not name is locked. -/
def restoreComplete (s : State) (k : Nat) : State :=
  let c := s.getCtx k
  match c.state, c.save with
  | .restoring, some a =>
    if s.mtN < KMap.get 0 s.net.unlockAt k then s
    else
      let s := s.each (c.tiles.zip a.tiles) fun s e => s.modTile e.1 fun x => restoreTile (!c.plan.active) e.2 x
      let s := s.each (c.tiles.zip a.counters) fun s e => s.each (tileCounters.zip e.2) fun s w => s.setRg w.1 [e.1] w.2
      let s := s.each (a.links.zip a.bufs) fun s e => s.modLink e.1 fun x => { x with buf := e.2.1, rxFrames := e.2.2 }
      let s := if c.plan.state = .ended then s else match c.image with
        | some im => s.putRoutes k (1 - a.epoch) im.routes
        | none => s
      let s := s.modCtx k fun c => { c with state := .opened, save := none, plan := { c.plan with held := c.plan.active } }
      let s := s.modPart k fun e => if e.state = .suspended then e.rejoin else e
      match s.cloOp with
      | some (.resume i) => if i = k then ({ s with cloOp := none }).finish .cloCmdStatus [] .ok else s
      | _ => s
  | _, _ => s

def execRestoreComplete (k : CtxSlot) (s : State) : Host.Outcome State Fault Refusal := .next (restoreComplete s k.val)

/-! ### Clearing (R277) -/

/-- Nothing is on its way to a tile: no flit of the mesh or of a receive tree (R311), and no result of the vault (R204). -/
def State.tileQuiet (s : State) (t : Nat) : Bool :=
  (s.net.flits.all fun f => f.dst != t) && (links.all fun l => (s.getLink l).tree.all fun e => e.dst != t)
    && (List.range 4).all fun v => (s.getVault v).ending.all fun e => e.tile != t

/-- A released tile is cleared once nothing is on its way to it (R277, R311). -/
def execTileClear (t : TileIx) (s : State) : Host.Outcome State Fault Refusal :=
  let x := s.getTile t.val
  if x.unclear ∧ x.ctx.isNone ∧ x.state ≠ .bist ∧ s.tileQuiet t.val then .next (s.clearTile t.val) else .next s

end Sys2Proof.Machine
end

