-- ==== Sys2Proof/Machine/Window.lean ====
section
/-! DEFINITION. Control space (02_swatch_and_registers.md): the block windows (R26), the Swatch table (R27 to R35), expert halves (R36 to R38, R458), and the
accesses that reach no register (R21, R41). -/

namespace Sys2Proof.Machine

/-- A row of the block type table (R26), tiles apart: instances follow one another by the window's size. -/
structure BlockType where
  type   : Nat
  count  : Nat
  base   : Nat
  window : Nat
deriving DecidableEq, Repr

/-- The block types from CHP to MGT, in ascending order of base (R26, R30). -/
def blockTypes : List BlockType :=
  [ { type := 0x10, count := 1, base := 0x10000, window := 0x10000 }, { type := 0x11, count := 1, base := 0x20000, window := 0x20000 },
    { type := 0x12, count := 1, base := 0x40000, window := 0x40000 }, { type := 0x13, count := 1, base := 0x80000, window := 0x40000 },
    { type := 0x14, count := 1, base := 0xC0000, window := 0x40000 }, { type := 0x15, count := 1, base := 0x100000, window := 0x40000 },
    { type := 0x16, count := 1, base := 0x140000, window := 0x40000 }, { type := 0x17, count := 1, base := 0x180000, window := 0x80000 },
    { type := 0x20, count := 8, base := 0x200000, window := 0x10000 }, { type := 0x21, count := 2, base := 0x300000, window := 0x10000 },
    { type := 0x22, count := 4, base := 0x400000, window := 0x40000 }, { type := 0x23, count := 6, base := 0x500000, window := 0x10000 },
    { type := 0x24, count := 1, base := 0x600000, window := 0x100000 }, { type := 0x25, count := 1, base := 0x700000, window := 0x100000 } ]

/-- A block instance: source identifier, type, instance, base, window. -/
structure Inst where
  src    : Nat
  type   : Nat
  inst   : Nat
  base   : Nat
  window : Nat
deriving DecidableEq, Repr

/-- The instances of a row. -/
def BlockType.insts (b : BlockType) : List Inst :=
  (List.range b.count).map fun i => { src := source b.type i, type := b.type, inst := i, base := b.base + b.window * i, window := b.window }

/-- A tile's instance. -/
def tileInst (t : Nat) : Inst := { src := srcTile t, type := 0x0F00 + t / 24, inst := t % 24, base := 0x10000000 + 0x10000 * t, window := 0x10000 }

/-- Every block instance, in ascending order of base. -/
def allInsts : List Inst := blockTypes.flatMap BlockType.insts ++ (List.range 576).map tileInst

/-- The block instance whose window an address lies in; the SWT window is none of them. -/
def instAt (addr : Nat) : Option Inst :=
  if 0x10000000 ≤ addr then
    let t := (addr - 0x10000000) / 0x10000
    if t < 576 then some (tileInst t) else none
  else (blockTypes.flatMap BlockType.insts).find? fun b => decide (b.base ≤ addr ∧ addr < b.base + b.window)

/-- An address of the SWT window. -/
def inSwt (addr : Nat) : Bool := decide (addr < 0x10000)

/-! ### Expert halves (R36 to R38, R458) -/

/-- The address of a block's EXPERT_UNLOCK (R36). -/
def Inst.unlockAddr (b : Inst) : Nat := b.base + b.window / 2 - 8

/-- The upper half of a window. -/
def Inst.upper (b : Inst) (addr : Nat) : Bool := decide (b.base + b.window / 2 ≤ addr)

/-- A type of block has a register in its upper half (R458). -/
def typeExpert (type : Nat) : Bool := RegName.all.any fun n => match instAt n.row.base with
  | some b => b.type == type && b.upper n.row.base
  | none => false

/-- EXPERT_AVAIL (R28, R407, R458). -/
def State.expertAvail (s : State) (b : Inst) : Bool :=
  !s.absent b.src && typeExpert b.type && (b.type != 0x13 || s.fuses.lifecycle == 1)

/-- UNLOCKED of a block (R36). -/
def State.unlocked (s : State) (b : Inst) : Bool := bitOf (KMap.get 0 s.csr b.unlockAddr) 16

/-- A write to EXPERT_UNLOCK (R36, R37). -/
def expertWrite (s : State) (b : Inst) (v : Word) : State :=
  let key := field v 0 16 == 0x5EC0
  let s1 : State := { s with csr := KMap.set 0 s.csr b.unlockAddr (if key && s.expertAvail b then 0x10000 else 0) }
  if key && !s.expertAvail b then notice s1 .expertLocked b.src else s1

/-- A write that needs an unlocked block: dropped with EXPERT_LOCKED while it is locked (R37). -/
def onUnlocked (s : State) (b : Inst) (act : State → State) : State :=
  if s.unlocked b then act s else notice s .expertLocked b.src

/-- Writes of an accessor reach a block: CLK, FLT, NET and MGT take none over VC3 (R314, R399, R415, R442). -/
def writesReach (a : Accessor) (type : Nat) : Bool := isLocal a || !(type == 0x12 || type == 0x13 || type == 0x24 || type == 0x25)

def execExpertUnlock (acc : Accessor) (addr : BitVec 32) (value : Word) (s : State) : Host.Outcome State Fault Refusal :=
  match instAt addr.toNat with
  | some b =>
    if addr.toNat = b.unlockAddr then .next (onBlock s b.src fun s => if writesReach acc b.type then expertWrite s b value else s) else .next s
  | none => .next s

/-! ### Accesses that reach no register (R21, R41, R416) -/

/-- What a read that reaches nothing returns (R21, R41). -/
def allOnes : Word := 0xFFFFFFFFFFFFFFFF

/-- An answer to the accessor. -/
def State.answer (s : State) (w : Word) : State := { s with resp := some w }

/-- MISALIGNED against the block whose window an address lies in (R21). DESIGN CHOICE (log entry 110): a window of an absent block gives that
block, no window and the SWT window give source 0, and neither gives ABSENT_TARGET as well. -/
def misalignedNotice (s : State) (addr : Nat) : State :=
  notice s .misaligned (match instAt addr with
    | some b => b.src
    | none => 0)

/-- An access of another width or alignment (R21); aligned accesses of 64 bits are none. The notice's source is a DESIGN CHOICE (log entry 110). -/
def execMisaligned (_acc : Accessor) (addr : BitVec 32) (bytes : Nat) (write : Bool) (s : State) : Host.Outcome State Fault Refusal :=
  if bytes = 8 ∧ addr.toNat % 8 = 0 then .next s
  else
    let s := misalignedNotice s addr.toNat
    .next (if write then s else s.answer allOnes)

/-- An address that reaches nothing: outside every window, or in the window of an absent block (R41). -/
def State.unreached (s : State) (addr : Nat) : Option Nat :=
  if inSwt addr then none
  else match instAt addr with
    | some b => if s.absent b.src then some b.src else none
    | none => some 0

/-- A physical address of the cores' map with a target (R416). -/
def mapped (pa : Nat) : Bool :=
  decide (pa < 0x100000000) || decide (0x1000000000 ≤ pa ∧ pa < 0x1400000000) || decide (0x4000000000 ≤ pa ∧ pa < 0x8000000000)

/-- An access to nothing (R41); a core's access to a physical address without a target also faults (R416). -/
def absentAccess (s : State) (acc : Accessor) (addr : AbsentAddr) (write : Bool) : State :=
  match addr with
  | .control a => match s.unreached a.toNat with
    | some src =>
      let s := notice s .absentTarget src
      if write then s else s.answer allOnes
    | none => s
  | .physical pa =>
    if mapped pa.toNat then s
    else match acc with
      | .mgt c => (notice s .absentTarget 0).emit (.coreFault c.val)
      | _ => s

def execAbsentTarget (acc : Accessor) (addr : AbsentAddr) (write : Bool) (s : State) : Host.Outcome State Fault Refusal :=
  .next (absentAccess s acc addr write)

/-! ### The Swatch table (R27 to R35) -/

/-- PRESENCE (R28): fused off, failed, present. -/
def State.presence (s : State) (b : Inst) : Nat :=
  if b.type = 0x22 ∧ s.vaultFused b.inst then 1 else if s.absent b.src then 2 else 0

/-- CAPS by type (R265, R312, R346, R398, R414). -/
def capsOf (type : Nat) : Nat :=
  if type = 0x20 ∨ type = 0x17 then 3 else if type = 0x21 ∨ type = 0x24 ∨ type = 0x13 then 7 else if type = 0x23 ∨ type = 0x12 then 15 else 0

/-- A swatch with its check byte (R27). -/
def swatchBytes (type inst version base window caps flags : Nat) : List Byte :=
  let front := leBytes 2 type ++ leBytes 1 inst ++ leBytes 1 version ++ leBytes 4 base ++ leBytes 4 window ++ leBytes 8 caps ++ leBytes 1 flags
    ++ leBytes 10 0
  front ++ leBytes 1 ((256 - sumN (front.map BitVec.toNat) % 256) % 256)

/-- The swatch of a block instance. -/
def State.swatch (s : State) (b : Inst) : List Byte :=
  let p := s.presence b
  swatchBytes b.type b.inst 0x10 b.base b.window (if p = 0 then capsOf b.type else 0) (p + 4 * b2n (s.expertAvail b))

/-- The header swatch (R31): 607 entries, the digest at 0x7F00. -/
def swatchHeader : List Byte := swatchBytes 1 0 0x10 0 0x10000 (607 + 65536 * 0x7F00) 0

/-- The table (R30). -/
def State.swatchTable (s : State) : List Byte := swatchHeader ++ allInsts.flatMap s.swatch

/-- One entry of the table. -/
def State.swatchEntry (s : State) (e : Nat) : List Byte := if e = 0 then swatchHeader else match allInsts[e - 1]? with
  | some b => s.swatch b
  | none => []

end Sys2Proof.Machine
end

