-- ==== Sys2Proof/Machine/Collector.lean ====
section
/-! DEFINITION. What software does with the fault collector (16_faults_and_determinism.md): acknowledging (R402), injecting (R407), ALIVE (R405) and
snapshots (R411). -/

namespace Sys2Proof.Machine

/-- A write to a register of the FLT window: dropped over VC3 (R415). -/
def onFlt (s : State) (acc : Accessor) (act : State → State) : State := onBlock s srcFlt fun s => if isLocal acc then act s else s

/-! ### FLT_ACK and FLT_INJECT -/

/-- A record acknowledged, unless it is an L2 (R403). -/
def FltRecord.ack (r : FltRecord) : FltRecord := if r.written ∧ r.level < 2 then { r with acked := true } else r

/-- FLT_ACK (R415): one record, or every L0 and L1 record. -/
def fltAck (s : State) (v : Word) : State :=
  let i := field v 0 9
  let s := if bitOf v 9 then s.modFlt fun f => { f with ring := KMap.mapV {} f.ring FltRecord.ack }
    else s.modFlt fun f => { f with ring := KMap.set {} f.ring i (s.fltRec i).ack }
  s.refreshHead

def execFltAck (acc : Accessor) (value : Word) (s : State) : Host.Outcome State Fault Refusal := .next (onFlt s acc fun s => fltAck s value)

/-- The FLT window. -/
def fltInst : Inst := { src := srcFlt, type := 0x13, inst := 0, base := 0x80000, window := 0x40000 }

/-- FLT_INJECT (R407, R415): a reserved code is dropped, and a stale generation is recorded without CTX_VALID. -/
def fltInject (s : State) (v : Word) : State :=
  onUnlocked s fltInst fun s =>
    match Cause.ofCode (field v 24 16) with
    | some c =>
      let id : CtxId := { slot := field v 41 5, gen := field v 46 11 }
      raise s { cause := c, source := field v 0 24, ctx := if bitOf v 40 && s.live id then some id.slot else none, injected := true }
    | none => s

def execFltInject (acc : Accessor) (value : Word) (s : State) : Host.Outcome State Fault Refusal := .next (onFlt s acc fun s => fltInject s value)

/-! ### ALIVE (R405) -/

/-- A toggle of ALIVE. -/
def execAliveToggle (s : State) : Host.Outcome State Fault Refusal :=
  if s.flt.aliveRun then
    .next { s.modFlt (fun f => { f with aliveOut := !f.aliveOut }) with pins := { s.pins with toggles := (s.pins.toggles + 1) % 2 ^ 30 } }
  else .next s

/-- The watchdog's deadline has passed: the last kick plus the present WDOG_MS. -/
def State.wdogDue (s : State) : Bool :=
  s.bit .fltAlive [] 20 && decide (s.flt.lastKick + 1250000 * max 1 (s.fld .fltAlive [] 21 16) ≤ s.time.refTicks)

/-- A deadline that passes stops ALIVE and raises ALIVE_WATCHDOG, once. -/
def aliveExpire (s : State) : State :=
  if s.wdogDue && !s.flt.expired then
    let run := s.flt.aliveRun
    notice (s.modFlt fun f => { f with expired := true, aliveRun := false, wdogTrip := f.wdogTrip || run }) .aliveWatchdog srcFlt
  else s

def execAliveWatchdog (s : State) : Host.Outcome State Fault Refusal := .next (aliveExpire s)

/-- A kick: the deadline counts from now, and ALIVE resumes where the watchdog had stopped it. -/
def aliveKick (s : State) : State :=
  s.modFlt fun f => { f with lastKick := s.time.refTicks, expired := false, wdogTrip := false,
                             aliveRun := f.aliveRun || (f.wdogTrip && !f.fatal) }

def execAliveKick (acc : Accessor) (value : Word) (s : State) : Host.Outcome State Fault Refusal :=
  .next (onFlt s acc fun s => if bitOf value 0 then aliveKick s else s)

/-- FLT_ALIVE: enabling the watchdog is a kick, and another WDOG_MS moves the running deadline at once. -/
def aliveConfig (s : State) (v : Word) : State :=
  let on := s.bit .fltAlive [] 20
  let s := s.setRg .fltAlive [] (Word.ofNat (field v 0 37))
  let s := if bitOf v 20 && !on then s.modFlt fun f => { f with lastKick := s.time.refTicks, expired := false } else s
  if s.wdogDue then aliveExpire s else s.modFlt fun f => { f with expired := false }

def execAliveConfigWrite (acc : Accessor) (value : Word) (s : State) : Host.Outcome State Fault Refusal :=
  .next (onFlt s acc fun s => aliveConfig s value)

/-! ### Snapshots (R411, R412) -/

/-- FLT_SNAP_CMD: a STOPPED context's snapshot starts. -/
def snap (s : State) (acc : Accessor) (v : Word) : State :=
  let id := CtxId.ofNat (field v 0 16)
  let c := s.getCtx id.slot
  match firstOf [(!s.live id, .stale), (!s.owns acc id.slot, .denied), (c.plan.state != .stopped || s.snap.isSome, .busy)] with
  | some st => if s.snap.isSome then s else s.finish .fltSnapStatus [] st
  | none => { s with snap := some { ctx := id, scope := field v 16 2, perTile := bitOf v 18 } }

def execSnap (acc : Accessor) (value : Word) (s : State) : Host.Outcome State Fault Refusal := .next (onFlt s acc fun s => snap s acc value)

/-- What a snapshot reads of a tile: its SRAM and its 48 sync counts. -/
def Tile.snapBytes (x : Tile) : List Byte := x.sram.read 0 1572864 ++ (List.range 48).flatMap fun k => leBytes 4 (KMap.get {} x.sync k).count.toNat

/-- What a snapshot reads (R411). -/
def State.snapBytes (s : State) (k scope : Nat) : List Byte :=
  let c := s.getCtx k
  let tiles := if scope % 2 = 1 then c.tiles.flatMap fun t => (s.getTile t).snapBytes else []
  let segs := match c.image with
    | some im => if scope / 2 = 1 then (im.segs.filter Seg.write).flatMap fun g => s.ctxRead k g.base g.size else []
    | none => []
  tiles ++ segs

/-- The digest, and the digests of the tiles where they are asked for, are written once nothing of the context is in flight. -/
def snapDone (s : State) : State :=
  match s.snap with
  | none => s
  | some p =>
    let k := p.ctx.slot
    if s.live p.ctx ∧ s.drainDone k then
      let d := sha384 (s.snapBytes k p.scope)
      let s := s.each (List.range 6) fun s j => s.setRg .fltSnapDigest [j] (Word.ofNat (leAt d (8 * j) 8))
      let s := if p.perTile then
          s.mgtWrite (s.rg .fltSnapArg []).toNat ((s.getCtx k).tiles.flatMap fun t => sha384 (s.getTile t).snapBytes)
        else s
      { s.finish .fltSnapStatus [] .ok with snap := none }
    else s

def execSnapDone (s : State) : Host.Outcome State Fault Refusal := .next (snapDone s)

end Sys2Proof.Machine
end

