-- ==== Sys2Proof/Machine/Tensor.lean ====
section
/-! DEFINITION. The compute macro-ops of a tile (R117 to R121): tensor engine, function unit, requantiser and vector unit, with the
masks and counts of R109. -/

namespace Sys2Proof.Machine

/-- A result with the number of blocks in which an element saturated (R88). -/
structure Counted (α : Type) where
  val : α
  sat : Nat := 0
deriving DecidableEq, Repr

/-- A block in the output's format: as it is in A32, else requantised (R85 to R87). -/
def toFormat (o : MacroOp) (fmt : Nat) (b : Block) : Block × Nat :=
  if fmt = 3 then (b, 0)
  else
    let (fixed, mo, eo) := o.rq
    let (c, hit) := if fixed then requantFixed b fmt mo eo else requantMax b fmt
    (c, b2n hit)

/-- Blocks packed from mantissas and exponents, then brought to the output's format. -/
def packOut (o : MacroOp) (fmt : Nat) (xs : List (Int × Int)) : Counted (List Block) :=
  let out := (chunks 32 xs).map fun c =>
    let (b, hit) := pack32 c
    let (q, n) := toFormat o fmt b
    (q, n + b2n hit)
  { val := out.map Prod.fst, sat := sumN (out.map Prod.snd) }

/-- Every line of an output. -/
def Counted.all (ls : List (Counted (List Block))) : Counted (List (List Block)) :=
  { val := ls.map Counted.val, sat := sumN (ls.map Counted.sat) }

/-- The tensor of a descriptor field of a running macro-op, its descriptor, and its write. -/
def Tile.descOf (x : Tile) (r : Running) (b : Nat) : Desc := x.getDesc (r.op.f b 10)
def Tile.tensor (x : Tile) (r : Running) (b : Nat) : List (List Block) := readTensor x.sram (x.descOf r b) (r.dataOf b)

/-- A tensor written to a tile with its saturations counted. -/
def putTensor (s : State) (t : Nat) (r : Running) (b : Nat) (out : Counted (List (List Block))) : State :=
  satBlocks (s.modTile t fun x => { x with sram := writeTensor x.sram (x.descOf r b) (r.dataOf b) out.val }) t out.sat

/-- The count of a whole macro-op, or its bound. -/
def Running.count (r : Running) (bound : Nat) : Nat := r.counts.headD bound

/-- The count of row `i`, or the row's length. -/
def Running.rowCount (r : Running) (i len : Nat) : Nat := if r.counts.isEmpty then len else r.counts.getD i 0

/-! ### MATMUL (R80 to R82, R117) -/

/-- The accumulators of a row: what each starts with, and the row's blocks applied against every column. -/
def accRow (start : List Acc) (row : List Block) (cols : List (List Block)) : List Acc := List.zipWith (fun a c => a.dot row c) start cols

/-- A row of accumulators drained (R82, R87). -/
def drainRow (o : MacroOp) (fmt : Nat) (as : List Acc) : Counted (List Block) :=
  packOut o fmt (as.map fun a => if a.empty then (0, a.exp) else (a.mant, a.exp))

/-- An output row that is masked (R109). -/
def maskedRow (o : MacroOp) (fmt blocks : Nat) : Counted (List Block) := { val := List.replicate blocks (toFormat o fmt Block.zeroA32).1 }

/-- Held accumulators of a row. -/
def Tile.heldRow (x : Tile) (i n : Nat) : List Acc := (List.range n).map fun j => KMap.get {} x.acc (64 * i + j)

/-- The accumulators that an output line gives (R81). -/
def accsOf (line : List Block) : List Acc := line.flatMap fun b => b.codes.map fun c => Acc.ofElement c b.m b.e

/-- Accumulators left in the store of 256 rows by 64 columns: of more rows or columns, the last chunk's and the last group's (R117). DESIGN CHOICE
(log entry 114): what an earlier macro-op has held in other rows or columns is gone. -/
def holdRows (rows : List (List Acc)) : KMap Acc :=
  rows.zipIdx.foldl (fun m (row, i) =>
    (row.drop ((row.length - 1) / 64 * 64)).zipIdx.foldl (fun m (a, j) => KMap.set {} m (64 * (i % 256) + j) a) m) []

def isOp (n : Nat) : MacroOp → Bool := fun o => o.op == n

/-- A free value that a macro-op of a tile lets its plan see, by the lane (R17, log entry 8). -/
def State.planFree (s : State) (t : Nat) (r : Running) (lane : Nat) : Word :=
  match s.tileCtx t with
  | some k =>
    let c := s.getCtx k
    Config.planFree ((c.image.map Image.id).getD []) r.step ((c.vtile t).getD 0) r.op.index lane
  | none => Config.planFree [] r.step t r.op.index lane

/-- The tensor engine's stationary buffers after a macro-op hold what it left there. -/
def newStationary (s : State) (t : Nat) (r : Running) : State :=
  s.modTile t fun x => { x with stationary := Config.stationary r.step t r.op.index }

/-- MATMUL (R117): a row at or beyond the count takes no block, and its accumulators keep what they held or started with, also where the others are
drained (R109). -/
def matmulBody (s : State) (t : Nat) (r : Running) : State :=
  let x := s.getTile t
  let mode := r.op.f 78 3
  let dc := x.descOf r 68
  let cols := x.tensor r 58
  let n := cols.length
  let live := r.count (x.descOf r 48).rows
  let c := if mode = 1 then x.tensor r 68 else []
  let start (i : Nat) : List Acc :=
    if mode = 1 then accsOf (c.getD i [])
    else if (mode = 3 ∨ mode = 4) ∧ x.accHeld then x.heldRow i n
    else List.replicate n {}
  let rows := (x.tensor r 48).zipIdx.map fun (a, i) => if i < live then accRow (start i) a cols else start i
  let s := newStationary s t r
  if mode = 2 ∨ mode = 3 then s.modTile t fun x => { x with acc := holdRows rows, accHeld := true }
  else
    let out := rows.zipIdx.map fun (as, i) => if i < live then drainRow r.op dc.fmt as else maskedRow r.op dc.fmt dc.blocks
    let left := rows.zipIdx.map fun (as, i) => if i < live then List.replicate n {} else as
    putTensor (s.modTile t fun x => { x with acc := holdRows left, accHeld := decide (live < rows.length) }) t r 68 (Counted.all out)

def matmul (s : State) (t : Nat) (found : Findings) : State :=
  perform s t (isOp opMatmul) (fun r => [48, 58] ++ if r.op.f 78 3 = 1 then [68] else []) found fun s r => matmulBody s t r

def execMatmul (t : TileIx) (found : Findings) (s : State) : Host.Outcome State Fault Refusal := .next (matmul s t.val found)

/-! ### SOFTMAX and ATTN (R92, R118) -/

/-- The Q16 elements of a line, with the blocks that saturate. -/
def lineQ16 (line : List Block) : Counted (List Int) :=
  let out := line.map fun b => b.codes.map fun c => toQ16 c b.m b.e
  { val := out.flatMap fun b => b.map Prod.fst, sat := countP (fun b => b.any Prod.snd) out }

/-- The softmax of a line whose first `n` elements are valid: A32 blocks of scale (1, -30). -/
def softmaxLine (line : List Block) (n : Nat) : Counted (List Block) :=
  let valid := (line.zipIdx.filter fun e => decide (32 * e.2 < n)).map fun (b, i) => { b with codes := b.codes.take (n - 32 * i) : Block }
  let q := lineQ16 valid
  let len := 32 * line.length
  let p := softmaxRow (q.val.map some ++ List.replicate (len - q.val.length) none)
  { val := (chunks 32 p).map fun c => { codes := c, m := 1, e := -30 }, sat := q.sat }

/-- Blocks of a line brought to the output's format. -/
def lineOut (o : MacroOp) (fmt : Nat) (l : Counted (List Block)) : Counted (List Block) :=
  let out := l.val.map (toFormat o fmt)
  { val := out.map Prod.fst, sat := l.sat + sumN (out.map Prod.snd) }

def softmaxBody (s : State) (t : Nat) (r : Running) : State :=
  let x := s.getTile t
  let fmt := (x.descOf r 58).fmt
  let len := (x.descOf r 48).len
  putTensor s t r 58 (Counted.all ((x.tensor r 48).zipIdx.map fun (l, i) => lineOut r.op fmt (softmaxLine l (r.rowCount i len))))

def softmax (s : State) (t : Nat) (found : Findings) : State :=
  perform s t (isOp opSoftmax) (fun _ => [48]) found fun s r => softmaxBody s t r

def execSoftmax (t : TileIx) (found : Findings) (s : State) : Host.Outcome State Fault Refusal := .next (softmax s t.val found)

/-- One query row of ATTN: scores, softmax over its first `n` keys, requantisation to S8, and the product with V. -/
def attnRow (o : MacroOp) (fmt : Nat) (q : List Block) (keys vals : List (List Block)) (n : Nat) : Counted (List Block) :=
  let sc := (chunks 32 (accRow (List.replicate keys.length {}) q keys)).map packAccs
  let p := softmaxLine (sc.map Prod.fst) n
  let p8 := p.val.map fun b => requantMax b 0
  let out := drainRow o fmt (accRow (List.replicate vals.length {}) (p8.map Prod.fst) vals)
  { out with sat := countP Prod.snd sc + p.sat + countP Prod.snd p8 + out.sat }

def attnBody (s : State) (t : Nat) (r : Running) : State :=
  let x := s.getTile t
  let fmt := (x.descOf r 78).fmt
  let len := (x.descOf r 58).rows
  let keys := x.tensor r 58
  let vals := x.tensor r 68
  let out := Counted.all ((x.tensor r 48).zipIdx.map fun (q, i) => attnRow r.op fmt q keys vals (r.rowCount i len))
  putTensor ((newStationary s t r).modTile t fun x => { x with acc := [], accHeld := false }) t r 78 out

def attn (s : State) (t : Nat) (found : Findings) : State :=
  perform s t (isOp opAttn) (fun _ => [48, 58, 68]) found fun s r => attnBody s t r

def execAttn (t : TileIx) (found : Findings) (s : State) : Host.Outcome State Fault Refusal := .next (attn s t.val found)

/-! ### NORM, ACT, REQUANT (R85 to R93, R119) -/

def normBody (s : State) (t : Nat) (r : Running) : State :=
  let x := s.getTile t
  let fmt := (x.descOf r 68).fmt
  let len := (x.descOf r 48).len
  let gain := (x.tensor r 58).headD []
  putTensor s t r 68 (Counted.all ((x.tensor r 48).zipIdx.map fun (l, i) =>
    packOut r.op fmt (normRow (r.op.f 78 1 == 1) l gain (r.rowCount i len) (r.op.f 79 8) (signedOf 8 (r.op.f 87 8)))))

def norm (s : State) (t : Nat) (found : Findings) : State :=
  perform s t (isOp opNorm) (fun _ => [48, 58]) found fun s r => normBody s t r

def execNorm (t : TileIx) (found : Findings) (s : State) : Host.Outcome State Fault Refusal := .next (norm s t.val found)

/-- One block of ACT before the output's format (R91): SIGMOID, SILU, GELU, RELU. -/
def actBlock (func : Nat) (b : Block) : Block × Nat :=
  if func = 3 then ({ b with codes := b.codes.map (max 0) }, 0)
  else
    let q := b.codes.map fun c => toQ16 c b.m b.e
    let hit := b2n (q.any Prod.snd)
    let xs := q.map Prod.fst
    if func = 0 then ({ codes := xs.map sigQ30, m := 1, e := -30 }, hit)
    else
      let (p, h) := pack32 (xs.map fun v => (if func = 1 then siluMant v else geluMant v, -46))
      (p, hit + b2n h)

def actBody (s : State) (t : Nat) (r : Running) : State :=
  let x := s.getTile t
  let fmt := (x.descOf r 58).fmt
  putTensor s t r 58 (Counted.all ((x.tensor r 48).map fun l =>
    let out := l.map (actBlock (r.op.f 68 3))
    lineOut r.op fmt { val := out.map Prod.fst, sat := sumN (out.map Prod.snd) }))

def actOp (s : State) (t : Nat) (found : Findings) : State :=
  perform s t (isOp opAct) (fun _ => [48]) found fun s r => actBody s t r

def execAct (t : TileIx) (found : Findings) (s : State) : Host.Outcome State Fault Refusal := .next (actOp s t.val found)

def requantBody (s : State) (t : Nat) (r : Running) : State :=
  let x := s.getTile t
  putTensor s t r 58 (Counted.all ((x.tensor r 48).map fun l => lineOut r.op (x.descOf r 58).fmt { val := l }))

def requantOp (s : State) (t : Nat) (found : Findings) : State :=
  perform s t (isOp opRequant) (fun _ => [48]) found fun s r => requantBody s t r

def execRequant (t : TileIx) (found : Findings) (s : State) : Host.Outcome State Fault Refusal := .next (requantOp s t.val found)

/-! ### VEC (R94, R120) -/

/-- One lane of an operation on codes: the result, and whether it saturated. -/
def vecLane (vop : Nat) (imm : Int) (sel : Bool) (a b : Int) : Int × Bool :=
  let sh := (imm % 32).toNat
  match vop with
  | 0x00 => (wrap32 (a + b), false)
  | 0x01 => sat32 (a + b)
  | 0x02 => (wrap32 (a - b), false)
  | 0x03 => sat32 (a - b)
  | 0x04 => (wrap32 (a * b), false)
  | 0x05 => sat32 (a * b)
  | 0x06 => (signedOf 32 (unsignedOf 32 a / 2 ^ sh), false)
  | 0x07 => (a / (2 ^ sh : Nat), false)
  | 0x08 => (rneShr a sh, false)
  | 0x09 => sat32 (a * (2 ^ sh : Nat))
  | 0x0A => (min a b, false)
  | 0x0B => (max a b, false)
  | 0x0F => (if sel then a else b, false)
  | _ => (a, false)

/-- One lane of a compare. -/
def vecCmp (vop : Nat) (a b : Int) : Bool := if vop = 0x0C then a == b else if vop = 0x0D then decide (a < b) else decide (a ≤ b)

/-- A mask register, and its bit for an element. -/
def Tile.mask (x : Tile) (m : Nat) : Word := KMap.get 0 x.masks m
def Tile.maskBit (x : Tile) (m i : Nat) : Bool := bitOf (x.mask m) (i % 64)

def setMask (s : State) (t m : Nat) (w : Word) : State := s.modTile t fun x => { x with masks := KMap.set 0 x.masks m w }

/-- Lanes that the predicate switches off keep what DOUT holds (R120). -/
def predicate (x : Tile) (o : MacroOp) (old : List Int) (first : Nat) (new : List Int) : List Int :=
  if o.f 87 1 = 1 then (List.zipWith (fun n p => (n, p)) new old).zipIdx.map fun (e, i) => if x.maskBit (o.f 84 3) (first + i) then e.1 else e.2 else new

/-- Block `i` of the whole tensor under an operation, before the predicate: codes, scale, saturated blocks. TADD and TMUL pack (R94); every other
operation keeps A's scale. DESIGN CHOICE (log entry 115): a lane that the predicate switches off counts as saturating like any other (R88). -/
def vecBlock (x : Tile) (o : MacroOp) (a b : Block) (first : Nat) : Block × Nat :=
  if o.vop = 0x10 ∨ o.vop = 0x11 then
    let (p, hit) := pack32 (if o.vop = 0x10 then taddBlock a b else tmulBlock a b)
    (p, b2n hit)
  else
    let out := (List.zipWith (fun p q => (p, q)) a.codes b.codes).zipIdx.map fun (e, i) => vecLane o.vop o.imm (x.maskBit (o.f 88 3) (first + i)) e.1 e.2
    ({ a with codes := out.map Prod.fst }, b2n (out.any Prod.snd))

/-- The B operand of a VEC: its tensor, the immediate in every lane with scale (1, 0), or nothing where it has none. -/
def Tile.vecB (x : Tile) (r : Running) (a : List Block) : List Block :=
  if vopUsesB r.op.vop then
    if r.op.bImm then a.map fun b => { codes := b.codes.map fun _ => r.op.imm, m := 1, e := 0 } else (x.tensor r 58).flatten
  else a

/-- The mask that a compare writes: the last group of 64 lanes; lanes beyond the tensor hold free bits (log entry 25). -/
def cmpMask (s : State) (t : Nat) (r : Running) (a b : List Block) : State :=
  let bits := List.zipWith (vecCmp r.op.vop) (a.flatMap Block.codes) (b.flatMap Block.codes)
  let last := bits.drop ((bits.length - 1) / 64 * 64)
  let known := packN (last.map fun p => (1, b2n p))
  setMask s t (r.op.f 88 3) (Word.ofNat (known + field (s.planFree t r 0) last.length (64 - last.length) * 2 ^ last.length))

/-- VEC (R94, R120). DESIGN CHOICE (log entry 115): where the predicate leaves some or all lanes of a block, DOUT's block takes the scale of the
operation's result all the same, and its saturation counts. -/
def vecBody (s : State) (t : Nat) (r : Running) : State :=
  let x := s.getTile t
  let v := r.op.vop
  let o := r.op
  if v = 0x12 then setMask s t (o.f 88 3) (Word.ofNat (leNat (x.sram.read (r.dataOf 48) 8)))
  else if v = 0x13 then s.modTile t fun x => { x with sram := x.sram.write (r.dataOf 68) (leBytes 8 (x.mask (o.f 84 3)).toNat) }
  else if v = 0x14 then setMask s t (o.f 88 3) (Word.ofNat (2 ^ min (leNat (x.sram.read (r.dataOf 48) 4)) 64 - 1))
  else
    let a := (x.tensor r 48).flatten
    let b := x.vecB r a
    if 0x0C ≤ v ∧ v ≤ 0x0E then cmpMask s t r a b
    else
      let old := (x.tensor r 68).flatten
      let out := ((a.zip b).zip old).zipIdx.map fun (e, i) =>
        let (blk, n) := vecBlock x o e.1.1 e.1.2 (32 * i)
        ({ blk with codes := predicate x o e.2.codes (32 * i) blk.codes : Block }, n)
      putTensor s t r 68 { val := chunks (x.descOf r 68).blocks (out.map Prod.fst), sat := sumN (out.map Prod.snd) }

/-- The inputs that a VEC reads. -/
def vecInputs (r : Running) : List Nat := (if vopUsesA r.op.vop then [48] else []) ++ if vopUsesB r.op.vop && !r.op.bImm then [58] else []

def vecOp (s : State) (t : Nat) (found : Findings) : State :=
  perform s t (isOp opVec) vecInputs found fun s r => vecBody s t r

def execVec (t : TileIx) (found : Findings) (s : State) : Host.Outcome State Fault Refusal := .next (vecOp s t.val found)

/-! ### TAILOR_APPLY (R121) -/

/-- The rows of a matrix of 16 rows of `n` S8 elements whose codes stand at an address and whose scales follow them. -/
def tailorRows (m : Memory) (a n : Nat) : List (List Block) :=
  readTensor m { kind := 0, fmt := 0, axis := false, indexEn := false, indexDesc := 0, rows := 16, cols := n, stride := n, data := a,
                 scaleOff := 16 * n, indexStride := 0 } a

/-- The block of a line that holds element `j`, with the element's code. -/
def elementOf (bs : List Block) (j : Nat) : Int × Nat × Int :=
  match bs[j / 32]? with
  | some b => (b.codes.getD (j % 32) 0, b.m, b.e)
  | none => (0, 0, 0)

/-- The tailoring of one row (R121): y + B·(A·x), packed block by block. -/
def tailorRow (a b : List (List Block)) (x y : List Block) : Counted (List Block) :=
  let us := a.map fun row => ({} : Acc).dot row x
  let (u, h1) := packAccs (us ++ List.replicate 16 {})
  let (q, h2) := requantMax u 0
  let accs := (accsOf y).zipIdx.map fun (acc, j) =>
    (q.codes.take 16).zipIdx.foldl (fun (acc : Acc) (c, r) =>
      let (code, m, e) := elementOf (b.getD r []) j
      acc.apply (c * code) q.m m q.e e) acc
  let out := (chunks 32 accs).map packAccs
  { val := out.map Prod.fst, sat := b2n h1 + b2n h2 + countP Prod.snd out }

def tailorBody (s : State) (t : Nat) (r : Running) : State :=
  let x := s.getTile t
  let dx := x.descOf r 48
  let stg := x.descOf r 58
  let dy := x.descOf r 68
  let ids := readCounts x.sram (r.dataOf 78) dx.rows
  let ys := x.tensor r 68
  let out := (((x.tensor r 48).zip ys).zip ids).zipIdx.map fun (e, i) =>
    if e.2 % 65536 = 0 then { val := e.1.2 : Counted (List Block) }
    else
      let base := r.dataOf 58 + i * stg.stride
      let a := tailorRows x.sram base dx.cols
      let b := tailorRows x.sram (base + 17 * dx.cols) dy.cols
      tailorRow a b e.1.1 e.1.2
  putTensor ((newStationary s t r).modTile t fun x => { x with acc := [], accHeld := false }) t r 68 (Counted.all out)

def tailorApply (s : State) (t : Nat) (found : Findings) : State :=
  perform s t (isOp opTailorApply) (fun _ => [48, 58, 68, 78]) found fun s r => tailorBody s t r

def execTailorApply (t : TileIx) (found : Findings) (s : State) : Host.Outcome State Fault Refusal := .next (tailorApply s t.val found)

end Sys2Proof.Machine
end

