-- ==== Sys2Proof/Machine/Engines.lean ====
section
/-! DEFINITION. The engine port's macro-ops (R122, R123): the vault's GEMV and streams (R182, R194 to R200), tailor gathers (R234), sampling
(R222 to R228) and batch fetches (R221, R223). -/

namespace Sys2Proof.Machine

/-- The engine's work on a macro-op that has left its port is done. -/
def engineDone (s : State) (t key : Nat) : State :=
  s.modTile t fun x => { x with outst := x.outst.map fun (r : Running) => if r.key = key ∧ r.op.engine then { r with done := true } else r }

/-- The first macro-op of an opcode that has left a tile's engine port and is not done. -/
def Tile.handed (x : Tile) (opc : Nat) : Option Running := x.outst.find? fun r => r.op.op == opc && !r.done

/-! ### Requests to the vault (R197) -/

/-- The stack of a vault address (R181). -/
def stackOf (a : Nat) : Nat := a / 2 ^ 37 % 4

/-- A vault request is handed over while its stack's queue of the context has room (R197); else the port holds it. -/
def vaultRequest (s : State) (t opc : Nat) : State :=
  match (s.getTile t).doing (isOp opc), s.tileCtx t with
  | some (u, r), some k =>
    let v := stackOf (r.dataOf 48)
    match (s.getCtx k).vtile t with
    | some vt =>
      if (KMap.get [] (s.getVault v).queue k).length < 16 then
        handOff (s.modVault v fun x => { x with queue := KMap.upd [] x.queue k fun q => q ++ [{ vtile := vt, key := r.key, stream := opc == opVaultStream }] }) t u r
      else s
    | none => s
  | _, _ => s

def execVaultGemv (t : TileIx) (s : State) : Host.Outcome State Fault Refusal := .next (vaultRequest s t.val opVaultGemv)
def execVaultStream (t : TileIx) (s : State) : Host.Outcome State Fault Refusal := .next (vaultRequest s t.val opVaultStream)

/-! ### Reads of the vault (R182, R199, R200) -/

/-- The region bound to a context at its present generation that holds a word of a stack (R182). -/
def State.boundAt (s : State) (k v off : Nat) : Option Nat :=
  ((s.getVault v).regions.find? fun e => e.2.state == .bound && e.2.ctx == some (s.idOf k)
    && decide (e.2.first * 0x4000000 ≤ off ∧ off + 32 ≤ (e.2.first + e.2.nblk) * 0x4000000)).map Prod.fst

/-- A corrected vault word (R199). -/
def vaultCe (s : State) (k : Option Nat) (v off : Nat) : State :=
  let b := off / 0x4000000
  let s := (s.addFld .vltCe [v] 0 32 1).modVault v fun x => { x with ce := KMap.upd 0 x.ce b fun n => satN 16 (n + 1) }
  let s := raise s { cause := .vaultCe, source := srcVlt v, ctx := k }
  if s.fld .vltCeLimit [v] 0 16 < KMap.get 0 (s.getVault v).ce b ∧ !(s.getVault v).recalDue then
    notice (s.modVault v fun x => { x with recalDue := true }) .vaultRecalDue (srcVlt v)
  else s

/-- An uncorrectable vault word (R200): it stays so until it is written again. -/
def vaultUe (s : State) (k v off : Nat) : State :=
  let w := off / 32 * 32
  let s := s.modVault v fun x => { x with bad := if x.bad.contains w then x.bad else x.bad ++ [w] }
  let s := if s.bit .vltUeLog [v] 63 then s
    else s.setRg .vltUeLog [v] (pack [(0, 37, off / 32 * 32), (37, 16, (s.idOf k).toNat), (63, 1, 1)])
  let s := match s.boundAt k v (off / 32 * 32) with
    | some r => s.modRegion v r fun x => { x with ueSeen := true }
    | none => s
  against s .vaultUe (srcVlt v) k (s.rg .vltUeLog [v]).toNat

/-- Found words of a stack decoded in turn, always in correct-two mode (R177): what the read then sees of the stack, or none where it delivers
nothing. A word beyond the code's power is reported or reads as free bytes. -/
def decodeVault (s : State) (k v : Nat) (mem : Memory) : List (Nat × Nat) → Option Memory × State
  | [] => (some mem, s)
  | (off, n) :: r =>
    let (fate, s) := s.fate true n
    match fate with
    | .clean => decodeVault s k v mem r
    | .corrected => decodeVault (vaultCe s (some k) v off) k v mem r
    | .open_ =>
      let (bs, s) := s.drawBytes 32
      decodeVault s k v (mem.write (off / 32 * 32) bs) r
    | .lost => (none, vaultUe s k v off)

/-- The words of a list that have been found uncorrectable before, and not been written since (R200): they fail again. -/
def State.badWord (s : State) (v : Nat) (words : List Nat) : Option Nat := words.find? fun w => (s.getVault v).bad.contains w

/-- Ranges of a stack read for a context: every word is checked before it is read (R182), then decoded. Findings list vault words by 2^40 plus
their stack offset. None where the read delivers nothing. -/
def readVault (s : State) (k v : Nat) (found : Findings) (rs : List (Nat × Nat)) : Option Memory × State :=
  let words := rs.flatMap fun r => wordsOf r.1 r.2
  let good := words.takeWhile fun w => (s.boundAt k v w).isSome
  let hits := good.flatMap fun w => (found.syms.filter fun e => decide (e.1 / 32 * 32 = 2 ^ 40 + w)).map fun e => (e.1 - 2 ^ 40, e.2)
  match (match s.badWord v good with
    | some w => (none, vaultUe s k v w)
    | none => decodeVault s k v (s.getVault v).mem hits) with
  | (none, s) => (none, s)
  | (some m, s) => if good.length < words.length then (none, against s .vaultRange (srcVlt v) k) else (some m, s)

/-! ### GEMV and stream (R195, R198) -/

/-- The product of a VAULT_GEMV: a lane is active if its LANES bit is 1 and it is below the count. -/
def gemv (x : Tile) (r : Running) (w : Memory) (base : Nat) : Counted (List (List Block)) :=
  let fmt := (x.descOf r 68).fmt
  let blocks := (x.descOf r 68).blocks
  let cols := readTensor w (x.descOf r 48) base
  let live := r.count (x.descOf r 58).rows
  Counted.all ((x.tensor r 58).zipIdx.map fun (a, i) =>
    if r.op.f (78 + i) 1 = 1 ∧ i < live then drainRow r.op fmt (accRow (List.replicate cols.length {}) a cols) else maskedRow r.op fmt blocks)

/-- A vault request starts and does its work: X is read, the words of W are read, and the result is written to the tile's SRAM; a read that delivers
nothing ends the plan, and nothing is written; an indexed address beyond the vault lies in no region (R182). -/
def vaultWork (s : State) (k v t : Nat) (r : Running) (found : Findings) : State :=
  let x := s.getTile t
  let dw := x.descOf r 48
  let base := r.dataOf 48 % 2 ^ 37
  let isGemv := r.op.op == opVaultGemv
  match readSram s t found (if isGemv then x.rangesOf r 58 else []) with
  | (true, s) => engineDone s t r.key
  | (false, s) =>
    match (if 2 ^ 39 ≤ r.dataOf 48 then (none, against s .vaultRange (srcVlt v) k) else readVault s k v found (dw.ranges base)) with
    | (none, s) => engineDone s t r.key
    | (some w, s) =>
      let s := if isGemv then putTensor s t r 68 (gemv (s.getTile t) r w base)
        else s.modTile t fun x => { x with sram := writeRanges x.sram (x.rangesOf r 58) (readRanges w (dw.ranges base)) }
      engineDone s t r.key

/-- The lowest group of a context on a stack that no running stream of its occupies. -/
def State.streamGroup (s : State) (k v : Nat) : Option Nat :=
  let q := KMap.get [] (s.getVault v).queue k
  (s.groupsOf k v).find? fun g => !q.any fun r => r.started && r.stream && r.group == g

/-- The request of a context that starts next on a stack (R197): the first that has not started, a GEMV once it is the oldest, a stream once
no GEMV stands before it and a group is free. -/
def State.nextVReq (s : State) (k v : Nat) : Option (VReq × Nat) :=
  let q := KMap.get [] (s.getVault v).queue k
  match q.find? fun r => !r.started with
  | none => none
  | some r =>
    let before := q.takeWhile fun y => y.started
    if r.stream then (if before.any fun y => !y.stream then none else (s.streamGroup k v).map fun g => (r, g))
    else if before.isEmpty ∧ !(s.groupsOf k v).isEmpty then some (r, 0) else none

/-- VAULT_REQUEST_START (R197), while the context is OPEN and its plan has begun and not ended. -/
def vaultStart (s : State) (v k : Nat) (found : Findings) : State :=
  let c := s.getCtx k
  if c.state ≠ .opened ∨ !c.plan.active ∨ (s.getVault v).mode ≠ .service then s
  else match s.nextVReq k v with
    | none => s
    | some (q, g) =>
      let s := (meshWait s found.mesh).modVault v fun x => { x with queue := KMap.upd [] x.queue k fun l => l.map fun (y : VReq) =>
        if y.vtile = q.vtile ∧ y.key = q.key then { y with started := true, group := g } else y }
      let t := c.tiles.getD q.vtile 576
      match (s.getTile t).outst.find? fun r => r.key == q.key && r.op.engine with
      | some r => vaultWork s k v t r found
      | none => s

def execVaultRequestStart (v : VaultIx) (k : CtxSlot) (found : Findings) (s : State) : Host.Outcome State Fault Refusal :=
  .next (vaultStart s v.val k.val found)

/-! ### TAILOR_GATHER (R234) -/

/-- A row whose gather writes nothing: the notice, TAILOR_MISS for the step's requests that name the identifier (log entry 27), and identifier 0
in DTAB. -/
def gatherMiss (s : State) (k t step id cell : Nat) : State :=
  let s := against s .tailorUnbound srcSrv k
  let hs := ((((s.getCtx k).serve.table step).map StepMsg.rows).getD []).filter fun r => r.tailor.toNat == id
  let s := s.modServe k fun v => { v with missed := v.missed ++ hs.map fun r => (step, r.handle.toNat) }
  if (s.getCtx k).plan.state = .ended then s else s.modTile t fun x => { x with sram := x.sram.write cell (leBytes 4 0) }

/-- Row `i` of a gather; true where a read of memory delivers nothing, and once the plan has ended, after which nothing is written (R127). -/
def gatherRow (s : State) (k t : Nat) (r : Running) (found : Findings) (i : Nat) : Bool × State :=
  let x := s.getTile t
  let cell := r.dataOf 48 + 4 * i
  let id := leNat (x.sram.read cell 4) % 65536
  let stride := (x.descOf r 58).stride
  if (s.getCtx k).plan.state = .ended then (true, s)
  else if id = 0 then (false, s)
  else match KMap.get none (s.getCtx k).serve.tailors id with
    | none => (false, gatherMiss s k t r.step id cell)
    | some set =>
      let at_ := set.base + 16 * r.op.f 68 8
      if !s.vaOk k at_ 16 false then (true, memDenied s t k)
      else match readPages s k found .plan (pieces at_ 16) with
        | (true, s) => (true, s)
        | (false, s) =>
          let e := s.ctxRead k at_ 16
          let n := 17 * (leAt e 8 4 + leAt e 12 4)
          let src := set.base + leAt e 0 8
          if n = 0 ∨ stride < n then (false, gatherMiss s k t r.step id cell)
          else if !s.vaOk k src n false then (true, memDenied s t k)
          else match readPages s k found .plan (pieces src n) with
            | (true, s) => (true, s)
            | (false, s) =>
              let s := s.countAccs k [(src, n)]
              (false, s.modTile t fun x => { x with sram := x.sram.write (r.dataOf 58 + i * stride) (s.ctxRead k src n) })

/-- The rows of a gather in turn, until a read delivers nothing. -/
def gatherRows (s : State) (k t : Nat) (r : Running) (found : Findings) : List Nat → Bool × State
  | [] => (false, s)
  | i :: is => match gatherRow s k t r found i with
    | (true, s) => (true, s)
    | (false, s) => gatherRows s k t r found is

/-- TAILOR_GATHER: it leaves the port, and its rows are fetched until a read delivers nothing. -/
def tailorGather (s : State) (t : Nat) (found : Findings) : State :=
  match (s.getTile t).doing (isOp opTailorGather), s.tileCtx t with
  | some (u, r), some k =>
    match readSram (meshWait s found.mesh) t found ((s.getTile t).rangesOf r 48) with
    | (true, s) => markDone s t u
    | (false, s) =>
      let s := replayTailors (handOff s t u r) k r.step
      match gatherRows s k t r found (List.range ((s.getTile t).descOf r 48).rows) with
      | (_, s) => engineDone s t r.key
  | _, _ => s

def execTailorGather (t : TileIx) (found : Findings) (s : State) : Host.Outcome State Fault Refusal := .next (tailorGather s t.val found)

/-! ### SAMPLE (R123, R223) -/

/-- A row's penalty list (R223). -/
structure Penalty where
  rep     : Nat
  pres    : Nat
  freq    : Nat
  entries : List (Nat × Nat)
deriving DecidableEq, Repr

/-- The list that stands at an address; 512 entries at most. -/
def readPenalty (m : Memory) (a : Nat) : Penalty :=
  let w (i : Nat) : Nat := leNat (m.read (a + 4 * i) 4)
  { rep := w 1, pres := w 2, freq := w 3, entries := (List.range (min (w 0) 512)).map fun i => (w (4 + i) % 2 ^ 18, fieldN (w (4 + i)) 18 10) }

/-- The adjustment of a logit whose token has count `c` (R223). A division by a REP of 0, which no list of the Serving Engine holds, gives the
free value `open_`. -/
def Penalty.adj (p : Penalty) (open_ x : Int) (c : Nat) : Int :=
  let xr := if 0 < x then (if p.rep = 0 then open_ else rneDiv (x * 65536) p.rep) else -rneDiv (-x * p.rep) 65536
  (xr - x) - p.pres - p.freq * c

/-- ℓ of every column of a row that is a candidate, with its token, and the blocks in which an element saturated. -/
def sampleRow (line : List Block) (p : Penalty) (open_ : Nat → Int) (vbase vocab : Nat) : List Cand × Nat :=
  let out : List (List (Cand × Bool)) := line.zipIdx.map fun (b, i) => b.codes.zipIdx.map fun (c, j) =>
    let (x, h) := toQ16 c b.m b.e
    let tok := vbase + 32 * i + j
    let a := match p.entries.find? fun (e : Nat × Nat) => e.1 == tok with
      | some e => p.adj (open_ tok) x e.2
      | none => 0
    let (l, h') := satI (x + a) (-a32Max) a32Max
    (({ logit := l, tok := tok } : Cand), h || h')
  let live := out.map fun b => b.filter fun e => decide (e.1.tok < vocab)
  (live.flatMap fun b => b.map Prod.fst, countP (fun b => b.any Prod.snd) live)

/-- Candidates by descending ℓ, equal ℓ by ascending token (R123, R224). -/
def orderCands (l : List Cand) : List Cand := sortBy (fun a b => decide (b.logit < a.logit ∨ (a.logit = b.logit ∧ a.tok ≤ b.tok))) l

/-- The vocabulary of a context's plan. -/
def Ctx.vocab (c : Ctx) : Nat := match c.image with
  | some im => im.vocab
  | none => 0

/-- SAMPLE's work: the candidates of its valid rows join the contributions of its step. -/
def sampleBody (s : State) (k t : Nat) (r : Running) : State :=
  let x := s.getTile t
  let cand := r.op.f 68 9
  let dp := x.descOf r 58
  let live := r.count (x.descOf r 48).rows
  let rows := ((x.tensor r 48).take live).zipIdx.map fun (l, i) =>
    sampleRow l (readPenalty x.sram (r.dataOf 58 + i * dp.stride)) (fun tok => (s.planFree t r (2 ^ 18 * i + tok)).toInt) (r.op.f 77 18) (s.getCtx k).vocab
  let s := satBlocks s t (sumN (rows.map Prod.snd))
  s.modServe k fun v =>
    let p := v.pool r.step
    v.setPool { p with contribs := p.contribs ++ [(cand, rows.map fun e => (orderCands e.1).take cand)] }

def sampleOp (s : State) (t : Nat) (found : Findings) : State :=
  match s.tileCtx t with
  | some k => perform s t (isOp opSample) (fun _ => [48, 58]) found fun s r => sampleBody s k t r
  | none => s

def execSample (t : TileIx) (found : Findings) (s : State) : Host.Outcome State Fault Refusal := .next (sampleOp s t.val found)

/-! ### SAMPLE_COLLECT (R222, R224 to R228) -/

/-- SAMPLE_COLLECT hands its request over. -/
def execSampleCollect (t : TileIx) (s : State) : Host.Outcome State Fault Refusal :=
  match (s.getTile t.val).doing (isOp opSampleCollect) with
  | some (u, r) => .next (handOff s t.val u r)
  | none => .next s

/-- The random word of a token index (R225). -/
def drawWord (seed : List Byte) (t : Nat) : Nat := leAt (chacha20 (padTo seed 32 0) (t % 2 ^ 32) (leBytes 4 1 ++ leBytes 8 0)) 0 8

/-- The prefix of the weights that the top-p loop keeps (R224): how many, and their sum. -/
def topPrefix (topp total : Nat) : List Nat → Nat → Nat → Nat × Nat
  | [], m, p => (m, p)
  | w :: ws, m, p => if (p + w) * 65536 < topp * total then topPrefix topp total ws (m + 1) (p + w) else (m + 1, p + w)

/-- The first candidate whose running weight exceeds `r`. -/
def pickCand (r : Nat) : List (Cand × Nat) → Nat → Option Nat
  | [], _ => none
  | (c, w) :: cs, acc => if r < acc + w then some c.tok else pickCand r cs (acc + w)

/-- The token that R224 draws from ordered candidates; none where there is no candidate. -/
def drawToken (cs : List Cand) (p : ParamBlock) (u : Nat) : Option Nat :=
  match cs with
  | [] => none
  | c0 :: _ =>
    if p.invTemp = 0 then some c0.tok
    else
      let ks := cs.take p.topk
      let ws := ks.map fun c => expQ30 (max (rneShr ((c.logit - c0.logit) * p.invTemp) 16) (-(2 ^ 22 : Nat)))
      let (m, sum) := topPrefix p.topp (sumN ws) ws 0 0
      pickCand (u * sum / 2 ^ 64) ((ks.zip ws).take m) 0

/-- The candidates of row `i` of a collect: every contribution's merged, the first CAND kept (R224). -/
def mergeRow (contribs : List (Nat × List (List Cand))) (i : Nat) : List Cand :=
  (orderCands (contribs.flatMap fun c => c.2.getD i [])).take ((contribs.map Prod.fst).foldl max 0)

/-- The token of a row, at a token index; a free value where the row has no candidate (the manual gives none). -/
def rowToken (cs : List Cand) (p : ParamBlock) (u index : Nat) : Nat := (drawToken cs p u).getD (field (Config.openToken p.seed index) 0 32)

/-- The rows of a step's table that collect `ord` processes (R222). -/
def collectRows (rows : List BatchRow) (ord : Nat) : List BatchRow :=
  rows.filter fun r => r.collect.toNat == ord && (r.role != 0 || r.samples) && r.role != 3

/-- A proposed token of a DRAFT row (R224, R228). -/
def draftRow (s : State) (k step : Nat) (r : BatchRow) (cs : List Cand) (miss : Bool) : OutRow × State :=
  match s.mirrorOf k r.handle.toNat with
  | none => ({ token := 0 }, s)
  | some i =>
    let q := s.getReq i
    if q.sEnded then ({ token := 0 }, s)
    else
      let tok := rowToken cs { q.params with invTemp := 0 } 0 (q.sTok + r.pos.toNat)
      ({ token := tok, miss := miss, handle := r.handle.toNat, tokidx := (q.sTok + r.pos.toNat) % 2 ^ 32 },
       s.modServe k fun v => { v with drafts := (step, r.handle.toNat, r.pos.toNat, tok) :: v.drafts })

/-- The draft of a step at a position. -/
def Serve.draft (v : Serve) (step handle pos : Nat) : Option Nat :=
  (v.drafts.find? fun d => d.1 == step && d.2.1 == handle && d.2.2.1 == pos).map fun d => d.2.2.2

/-- The end tokens of a context (R237). -/
def State.endTokens (s : State) (k : Nat) : List Nat := [s.fld .srvCtxEnd [k] 0 32, s.fld .srvCtxEnd [k] 32 32].filter (· != 0xFFFFFFFF)

/-- The verify rows of one request, each with its place in the collect and its candidates, from position `n` on (R226): the tokens committed, with
END on the last. -/
def commitFrom (s : State) (k step handle : Nat) (q : Req) : List (Nat × List Cand) → Nat → List (Nat × Nat × Nat)
  | [], _ => []
  | (i, cs) :: rest, n =>
    let tok := rowToken cs q.params (drawWord q.params.seed (q.sTok + n)) (q.sTok + n)
    let end_ := if (s.endTokens k).contains tok then 1 else if q.params.maxNew ≤ q.sNew + n + 1 then 2 else 0
    if end_ ≠ 0 ∨ (s.getCtx k).serve.draft step handle n ≠ some tok then [(i, tok, end_)]
    else
      let l := commitFrom s k step handle q rest (n + 1)
      (i, tok, if l.isEmpty then end_ else 0) :: l

/-- A request's rows of a verify collect (R226, R228): a sampling PREFILL row begins a turn. Answers the rows written by their places. -/
def verifyReq (s : State) (k step : Nat) (handle : Nat) (rows : List (Nat × BatchRow)) (cands : List (List Cand)) (miss : Bool) :
    List (Nat × OutRow) × State :=
  match s.mirrorOf k handle with
  | none => ([], s)
  | some i =>
    let s := if rows.any fun e => e.2.role == 0 then s.modReq i fun r => { r with sEnded := false, sNew := 0 } else s
    let q := s.getReq i
    if q.sEnded then ([], s)
    else
      let com := commitFrom s k step handle q (rows.map fun e => (e.1, cands.getD e.1 [])) 0
      let n := com.length
      let ended := com.any fun c => c.2.2 != 0
      let s := s.modReq i fun r =>
        let hist := r.hist ++ com.map fun c => c.2.1
        { r with sTok := (r.sTok + n) % 2 ^ 32, sNew := r.sNew + n, sEnded := ended, hist := hist.drop (hist.length - 512) }
      (com.zipIdx.map fun (c, j) => (c.1, { token := c.2.1, committed := true, last := j + 1 == n, end_ := c.2.2, miss := miss, handle := handle,
                                            tokidx := (q.sTok + j) % 2 ^ 32 }), s)

/-- The rows of a collect (R228): a row at or beyond the count, or whose request has ended, is masked and written as 0. -/
def collectOut (s : State) (k step : Nat) (rows : List BatchRow) (cands : List (List Cand)) : List OutRow × State :=
  let missed (s : State) (h : Nat) : Bool := (s.getCtx k).serve.missed.contains (step, h)
  let blank : List OutRow := rows.map fun _ => { token := 0 }
  let (out, s) := rows.zipIdx.foldl (fun (out, s) (r, i) =>
    if r.role = 2 then
      let (o, s) := draftRow s k step r (cands.getD i []) (missed s r.handle.toNat)
      (out.set i o, s)
    else (out, s)) (blank, s)
  let verify := rows.zipIdx.filter fun e => e.1.role != 2
  let handles := (verify.map fun e => e.1.handle.toNat).eraseDups
  handles.foldl (fun (out, s) h =>
    let mine := (verify.filter fun e => e.1.handle.toNat == h).map fun e => (e.2, e.1)
    let (l, s) := verifyReq s k step h mine cands (missed s h)
    (l.foldl (fun out e => out.set e.1 e.2) out, s)) (out, s)

/-- A collect with every contribution accepted (R224 to R228): it draws, verifies, commits and writes its rows. -/
def collect (s : State) (k t : Nat) (r : Running) : State :=
  let x := s.getTile t
  let v := (s.getCtx k).serve
  let p := v.pool r.step
  let need := r.op.f 58 10
  let d := x.descOf r 48
  let cap := d.lines * d.lineBytes / 16
  let rows := (collectRows (((v.table r.step).map StepMsg.rows).getD []) r.recvd).take cap
  let live := rows.take (r.count cap)
  let contribs := p.contribs.take need
  let cands := live.zipIdx.map fun (_, i) => mergeRow contribs i
  let (out, s) := collectOut s k r.step live cands
  let bytes := (out ++ (rows.drop live.length).map fun _ => ({ token := 0 } : OutRow)).flatMap OutRow.bytes
  let s := s.modServe k fun v => v.setPool { p with done := p.done + 1, contribs := p.contribs.drop need }
  let lines := (List.range d.lines).map fun i => (r.dataOf 48 + i * d.stride, d.lineBytes)
  engineDone (s.modTile t fun x => { x with sram := writeRanges x.sram lines bytes }) t r.key

/-- COLLECT_COMPLETE: the oldest collect of a tile, in its order within the step (R222), unless its plan has ended (R235). -/
def collectComplete (s : State) (t : Nat) : State :=
  match (s.getTile t).handed opSampleCollect, s.tileCtx t with
  | some r, some k =>
    let c := s.getCtx k
    let p := c.serve.pool r.step
    if c.plan.active ∧ c.state = .opened ∧ p.done = r.recvd ∧ r.op.f 58 10 ≤ p.contribs.length then collect s k t r else s
  | _, _ => s

def execCollectComplete (t : TileIx) (s : State) : Host.Outcome State Fault Refusal := .next (collectComplete s t.val)

/-! ### BATCH_FETCH (R221, R223) -/

/-- The distinct tokens of a list in ascending order, each with its count. -/
def tokenCounts (l : List Nat) : List (Nat × Nat) :=
  (sortBy (fun a b => decide (a ≤ b)) l.eraseDups).map fun t => (t, countP (· == t) l)

/-- The penalty list of a row as words (R223). -/
def penaltyList (s : State) (k step : Nat) (r : BatchRow) : List Nat :=
  match s.mirrorOf k r.handle.toNat with
  | none => [0]
  | some i =>
    let q := s.getReq i
    let p := q.params
    let none_ := r.role == 2 || (r.role == 0 && !r.samples) || p.penWindow == 0
    let drafts := if r.role = 1 then (List.range r.pos.toNat).map fun n => ((s.getCtx k).serve.draft step r.handle.toNat n).getD 0 else []
    let seq := q.hist ++ drafts
    let es := if none_ then [] else tokenCounts (seq.drop (seq.length - p.penWindow))
    [es.length, p.rep, p.pres, p.freq] ++ es.map fun e => e.1 % 2 ^ 18 + 2 ^ 18 * (e.2 % 1024)

/-- A column of the batch table (R221). -/
def column (rows : List BatchRow) (b : Nat) : List Nat :=
  rows.map fun r => match b with
    | 0 => r.handle.toNat
    | 1 => rowMeta r
    | 2 => r.tailor.toNat
    | 3 => r.kvidx.toNat
    | 4 => r.poff.toNat
    | _ => r.plen.toNat

/-- What a BATCH_FETCH needs and gets from outside the engine. -/
inductive Fetched where
  /-- It waits: for a draft, for a journal record, or for journal room. -/
  | wait
  /-- A read of memory has delivered nothing. -/
  | dead
  | lines (l : List (List Nat))
deriving DecidableEq, Repr

/-- The prompt tokens of a PREFILL row on the lead chip, read from the input slot (R213). None where the read delivers nothing. -/
def promptTokens (s : State) (k : Nat) (found : Findings) (r : BatchRow) : Option (List Nat) × State :=
  match s.reqOf r.handle.toNat with
  | none => (some [], s)
  | some i =>
    let va := (s.getReq i).slotVa + 64 + 4 * r.poff.toNat
    let n := 4 * r.plen.toNat
    match engineRead s k va n found with
    | (true, s) => (none, s)
    | (false, s) => (some ((chunks 4 (s.ctxRead k va n)).map leNat), s)

/-- The slot's flag goes back to management once the fetch covers the prompt's last token (R213). -/
def returnSlot (s : State) (k : Nat) (r : BatchRow) : State :=
  match s.reqOf r.handle.toNat with
  | none => s
  | some i =>
    let q := s.getReq i
    if q.promptN ≤ r.poff.toNat + r.plen.toNat then s.handFlag k q.slotVa 0 else s

/-- The PROMPT record of a row (R409). -/
def promptRecord (step : Nat) (r : BatchRow) (toks : List Nat) : List Byte :=
  jrnRecord 3 0 step (leBytes 4 r.handle.toNat ++ leBytes 4 r.poff.toNat ++ leBytes 4 r.plen.toNat ++ leBytes 4 0 ++ toks.flatMap (leBytes 4))

/-- The tokens of every PREFILL row read in turn. -/
def promptLines (s : State) (k : Nat) (found : Findings) : List BatchRow → Option (List (List Nat)) × State
  | [] => (some [], s)
  | r :: rs => match promptTokens s k found r with
    | (none, s) => (none, s)
    | (some l, s) => match promptLines s k found rs with
      | (none, s) => (none, s)
      | (some ls, s) => (some (l :: ls), s)

/-- The tokens of PREFILL rows from the journal's PROMPT records (R410); none where one has not been supplied. -/
def replayPrompts (s : State) (k : Nat) : List BatchRow → Option (List (List Nat) × State)
  | [] => some ([], s)
  | _ :: rs => match s.jrnHead k with
    | (.record 3 _ _ body len, s) =>
      (replayPrompts (s.jrnAdvance k len) k rs).map fun (ls, s) => ((chunks 4 (slice body 16 (4 * leAt body 8 4))).map leNat :: ls, s)
    | _ => none

/-- The lines of PROMPT (R221, R409, R410). -/
def fetchPrompt (s : State) (k step : Nat) (found : Findings) (rows : List BatchRow) : Fetched × State :=
  let pre := rows.filter fun r => r.role == 0
  if !(s.getCtx k).leads then (.lines (pre.map fun _ => []), s)
  else if s.jrnMode k = 2 then
    match replayPrompts s k pre with
    | some (ls, s) => (.lines ls, s)
    | none => (.wait, s)
  else
    match promptLines s k found pre with
    | (none, s) => (.dead, s)
    | (some ls, s') =>
      let recs := List.zipWith (promptRecord step) pre ls
      if s.jrnMode k = 1 ∧ !s.jrnRoom k recs then (.wait, s)
      else
        let s := if s.jrnMode k = 1 then s'.each recs fun s r => s.jrnPut k r else s'
        (.lines ls, s.each pre fun s r => returnSlot s k r)

/-- The lines of a fetch after its header. -/
def fetchLines (s : State) (k step fieldset : Nat) (found : Findings) (rows : List BatchRow) : Fetched × State :=
  if fieldN fieldset 6 1 = 1 then fetchPrompt s k step found rows
  else if fieldN fieldset 7 1 = 1 then
    let need := (rows.filter fun r => r.role == 1).foldl (fun n r => max n r.pos.toNat) 0
    if ((s.getCtx k).serve.pool step).done < need then (.wait, s) else (.lines (rows.map (penaltyList s k step)), s)
  else (.lines (((List.range 6).filter fun b => fieldN fieldset b 1 == 1).map (column rows)), s)

/-- A fetch that has left the port: its lines are written as u32 elements, zeros after them, and (1, 0) in every scale (R221). -/
def fetchOp (s : State) (k t : Nat) (r : Running) (found : Findings) : State :=
  let c := s.getCtx k
  let table := c.serve.table r.step
  let rows := (table.map StepMsg.rows).getD []
  match fetchLines s k r.step (r.op.f 58 8) found rows with
  | (.lines ls, s) =>
    let d := (s.getTile t).descOf r 48
    let header := [rows.length, (c.variantOf r.step).getD 0, r.step % 2 ^ 32]
    let put (m : Memory) : Memory :=
      ((header :: ls).take d.lines).zipIdx.foldl (fun m (l, i) => m.write (r.dataOf 48 + i * d.stride) ((padTo l d.len 0).flatMap (leBytes 4))) m
    let scales := (List.replicate (d.lines * d.blocks) (leBytes 2 1)).flatten
    engineDone (s.modTile t fun x => { x with sram := (put x.sram).write (r.dataOf 48 + d.scaleOff) scales }) t r.key
  | (_, s) => s

/-- BATCH_FETCH: it leaves the port; the oldest of a tile that has left it and is not done fetches what it can. -/
def batchFetch (s : State) (t : Nat) (found : Findings) : State :=
  let s := meshWait s found.mesh
  let s := match (s.getTile t).doing (isOp opBatchFetch) with
    | some (u, r) => handOff s t u r
    | none => s
  match (s.getTile t).handed opBatchFetch, s.tileCtx t with
  | some r, some k => if (s.getCtx k).plan.active then fetchOp s k t r found else s
  | _, _ => s

def execBatchFetch (t : TileIx) (found : Findings) (s : State) : Host.Outcome State Fault Refusal := .next (batchFetch s t.val found)

end Sys2Proof.Machine
end

