-- ==== Sys2Proof/Machine/Install.lean ====
section
/-! DEFINITION. Installing weights in the vault (R180, R183 to R193, R203): chunks, the chain, placement, verification; REGION_FREE and
recalibration (R201, R206). -/

namespace Sys2Proof.Machine

/-! ### Chunks (R183, R184) -/

/-- A chunk as it was read. -/
structure Chunk where
  ok      : Bool
  magic   : Nat
  seq     : Nat
  type    : Nat
  ridx    : Nat
  pos     : Nat
  len     : Nat
  offset  : Nat
  payload : List Byte
deriving DecidableEq, Repr

/-- A chunk from its bytes; `ok` says that its CRC holds. -/
def Chunk.parse (b : List Byte) : Chunk :=
  let len := leAt b 12 4
  let pl := slice b 32 len
  { ok := pl.length == len && (crc32c (b.take 24 ++ pl)).toNat == leAt b 24 4, magic := leAt b 0 4, seq := leAt b 4 4, type := leAt b 8 1,
    ridx := leAt b 9 1, pos := leAt b 10 2, len := len, offset := leAt b 16 8, payload := pl }

/-- Reasons (R205). -/
def insNotArmed : Nat := 1
def insNotInChain : Nat := 2
def insBadHeader : Nat := 3
def insStackBusy : Nat := 4
def insVaultFull : Nat := 5
def insAbsent : Nat := 6
def insChainBroken : Nat := 7
def insGap : Nat := 8
def insCrc : Nat := 9
def insBadChunk : Nat := 10
def insIncomplete : Nat := 11
def insDigest : Nat := 12

/-- The chain of a header payload, once so much of it is known. -/
def chainOf (h : List Byte) : Option (List Nat) :=
  let n := leAt h 8 4
  if 16 ≤ h.length ∧ 64 + 8 * n ≤ h.length then some ((List.range n).map fun p => leAt h (64 + 8 * p) 8) else none

def State.modIns (s : State) (f : Install → Install) : State := { s with ins := f s.ins }

/-- REASON of INS_STATUS. -/
def State.insReason (s : State) (r : Nat) : State := s.setFld .insStatus [] 16 8 r

/-! ### The chain (R185, R186) -/

/-- A link is fenced where the chip is a member of partitions of several chips and it is internal to none of them (R350). -/
def State.fenced (s : State) (l : Nat) : Bool :=
  let es := slots.filter fun k => (s.getCtx k).part.multi
  !es.isEmpty && es.all fun k => !s.internal l (s.getCtx k).part.origin (s.getCtx k).part.extent

/-- The link that leads to a coordinate, where it can carry the stream (R186, R339). -/
def State.chainLink (s : State) (next : Nat) : Option Nat :=
  links.find? fun l => let x := s.getLink l; x.farKnown && x.farCoord == next && (x.state == .up || x.state == .retrain) && !s.miswired l && !s.fenced l

/-- A chunk sent on over a link as a packet of its own. -/
def sendChunk (s : State) (l dest : Nat) (raw : List Byte) : State :=
  let (seq, s) := s.takeSeq 1
  let p := packet { kind := 2, age := s.ageNow, src := s.self, dest := dest, seq := seq } raw
  ((s.sample p 6 l 1 false 0).queueOn l 1 false p).addFld .insCounts [] 32 32 1

/-- A chunk forwarded under R186; a chip that is not in the chain sends it straight on. -/
def forwardOne (s : State) (chain : List Nat) (src : Option Nat) (raw : List Byte) : State :=
  match chain.findIdx? (· == s.self) with
  | some p =>
    if chain.length ≤ p + 1 ∨ s.ins.broken then s
    else match s.chainLink (chain.getD (p + 1) 0) with
      | some l => sendChunk s l (chain.getD (p + 1) 0) raw
      | none => (s.modIns fun x => { x with broken := true }).insReason insChainBroken
  | none => match src with
    | some l => if (s.getLink (facing l)).isUp then sendChunk s (facing l) (s.farOf (facing l)) raw else s
    | none => s

/-- Every chunk goes on in order of receipt, once the chain of its stream is known. -/
def forward (s : State) (src : Option Nat) (raw : List Byte) : State :=
  let c := Chunk.parse raw
  let s := s.modIns fun x =>
    let x := if c.ok ∧ c.type = 1 ∧ c.offset = 0 then { x with front := c.payload, broken := false }
      else if c.ok ∧ c.type = 1 ∧ c.offset = x.front.length ∧ (chainOf x.front).isNone then { x with front := x.front ++ c.payload } else x
    { x with held := x.held ++ [(src, raw)] }
  match chainOf s.ins.front with
  | none => s
  | some chain =>
    let held := s.ins.held
    (s.modIns fun x => { x with held := [] }).each held fun s h => forwardOne s chain h.1 h.2

/-! ### Sessions -/

/-- Install mode ends on every stack (R189). -/
def State.endInstall (s : State) : State :=
  s.each (List.range 4) fun s v => if (s.getVault v).mode = .install then s.modVault v fun x => { x with mode := .service } else s

/-- INSTALLING regions end FAILED (R180, R193). -/
def State.failInstalling (s : State) : State :=
  s.each (List.range 4) fun s v => s.modVault v fun x => { x with
    regions := KMap.mapV {} x.regions fun r => if r.state = .installing then { r with state := .failed, reason := insIncomplete } else r }

/-- STATUS for a reason (R11). -/
def insCode (r : Nat) : Status := if r = 0 then .ok else if r = insStackBusy then .busy else if r = insAbsent then .absent else .rejected

/-- A session ends on this chip. -/
def State.endSession (s : State) (reason : Nat) : State :=
  (((s.modIns fun x => { x with phase := .idle }).insReason reason).setFld .insStatus [] 8 8 (insCode reason).code).setBit .insStatus [] 2 true

/-- Writing stops for the session (R191). -/
def State.stopWrite (s : State) (reason : Nat) : State :=
  if s.ins.stop = 0 then (s.modIns fun x => { x with stop := reason }).insReason reason else s

/-! ### Placement (R188) -/

/-- A block of a stack is free and may be installed again (R188, R190). -/
def Vault.blockFree (x : Vault) (b : Nat) : Bool := x.regions.all fun e => e.2.state == .free || decide (b < e.2.first ∨ e.2.first + e.2.nblk ≤ b)

/-- The lowest run of `n` blocks that pass a test, looking at blocks from `b` on with `got` of them so far. -/
def findRun (ok : Nat → Bool) (n : Nat) : Nat → Nat → Nat → Option Nat
  | 0, _, _ => none
  | fuel + 1, b, got =>
    if ok b then (if got + 1 = n then some (b + 1 - n) else findRun ok n fuel (b + 1) (got + 1)) else findRun ok n fuel (b + 1) 0

/-- The lowest free entry and run of a stack. -/
def Vault.spot (x : Vault) (n : Nat) : Option (Nat × Nat) :=
  match (List.range 64).find? fun r => (KMap.get {} x.regions r).state == .free,
    findRun (fun b => x.blockFree b && decide (KMap.get 0 x.installs b < 10000)) n 2048 0 0 with
  | some r, some b => some (r, b)
  | _, _ => none

/-- Why a stack does not take a region, 0 where it does. -/
def State.refusal (s : State) (v n : Nat) : Nat :=
  let x := s.getVault v
  if s.absent (srcVlt v) then insAbsent
  else if !(x.mode == .install || (x.mode == .service && s.vaultIdle v && !x.recalQ)) then insStackBusy
  else if (x.spot n).isNone then insVaultFull else 0

/-- A REGION entry placed (R188). -/
def placeRegion (s : State) (stack : Nat) (g : InsRegion) : State :=
  let n := ceilDiv g.size 0x4000000
  let vs := if stack = 0xFF then List.range 4 else [stack]
  match vs.find? fun v => s.refusal v n == 0 with
  | some v =>
    match (s.getVault v).spot n with
    | some (r, b) =>
      let s := (s.modVault v fun x => { x with mode := .install }).modRegion v r fun _ =>
        { state := .installing, first := b, nblk := n, size := g.size, want := g.digest }
      s.modIns fun x => { x with regions := x.regions ++ [{ g with place := some (v, r), result := 0 }] }
    | none => s
  | none =>
    let why := vs.map fun v => s.refusal v n
    let r := if why.contains insStackBusy then insStackBusy else if why.contains insVaultFull then insVaultFull else insAbsent
    s.modIns fun x => { x with regions := x.regions ++ [{ g with place := none, result := r }] }

/-! ### The header (R184, R188, R193) -/

/-- Two coordinates are torus neighbours. -/
def State.neighbours (s : State) (a b : Nat) : Bool :=
  let d (i : Nat) : Nat := (axis b i + s.size i - axis a i % s.size i) % s.size i
  let one (i : Nat) : Bool := d i == 1 || d i + 1 == s.size i
  (List.range 3).any fun i => one i && d i != 0 && (List.range 3).all fun j => j == i || d j == 0

/-- Consecutive entries of a list satisfy a relation. -/
def chained (p : Nat → Nat → Bool) : List Nat → Bool
  | a :: b :: r => p a b && chained p (b :: r)
  | _ => true

/-- A list holds no entry twice. -/
def noRepeat {α : Type} [BEq α] : List α → Bool
  | [] => true
  | a :: r => !r.contains a && noRepeat r

/-- The REGION entries of a header payload: POS, RIDX, STACK, SIZE, DIGEST. -/
def regionEntries (h : List Byte) : List (Nat × Nat × Nat × Nat × List Byte) :=
  let n := leAt h 8 4
  (List.range (leAt h 12 4)).map fun k =>
    let o := 64 + 8 * n + 64 * k
    (leAt h o 2, leAt h (o + 2) 1, leAt h (o + 3) 1, leAt h (o + 4) 8, slice h (o + 12) 48)

/-- The fields of a chunk are those of its type (R183). -/
def Chunk.wellFormed (c : Chunk) : Bool :=
  c.magic == 0x4B485753 && match c.type with
    | 0 | 1 => decide (1 ≤ c.len ∧ c.len ≤ 65536) && c.offset % 65536 == 0
    | 2 => c.len == 0 && c.offset == 0
    | _ => false

/-- The length that a header payload announces. -/
def headerLen (h : List Byte) : Nat := 64 + 8 * leAt h 8 4 + 64 * leAt h 12 4

/-- The payload obeys R184. -/
def State.headerOk (s : State) (h : List Byte) : Bool :=
  let n := leAt h 8 4
  let m := leAt h 12 4
  let chain := (chainOf h).getD []
  let rs := regionEntries h
  decide (1 ≤ n ∧ n ≤ 32768 ∧ 1 ≤ m ∧ m ≤ 65536) && h.length == headerLen h && chain.all (fun c => decide (c < 32768))
    && chained s.neighbours chain && noRepeat (rs.map fun r => (r.1, r.2.1))
    && rs.all fun r => decide (r.1 < n ∧ r.2.1 < 64 ∧ (r.2.2.1 < 4 ∨ r.2.2.1 = 0xFF) ∧ 1 ≤ r.2.2.2.1 ∧ r.2.2.2.1 ≤ 137438953472)

/-- The stacks of a resumed session enter install mode again where no ticket stands in the way (R188, R193). -/
def State.reenter (s : State) : State :=
  s.each s.ins.regions fun s g => match g.place with
    | some (v, r) =>
      let x := s.getVault v
      if (s.getRegion v r).state = .installing ∧ x.mode = .service ∧ s.vaultIdle v ∧ !x.recalQ then s.modVault v fun x => { x with mode := .install } else s
    | none => s

/-- A complete header payload on a chip armed for its session (R185, R188, R193). -/
def openSession (s : State) : State :=
  let x := s.ins
  let h := x.hdr
  let d := sha384 h
  let known := decide (x.session = x.armedFor ∧ x.digest ≠ [])
  if !s.headerOk h ∨ (known ∧ x.digest ≠ d) then s.endSession insBadHeader
  else
    let s := if known then s.modIns fun x => { x with stop := 0 }
      else s.failInstalling.endInstall.modIns fun x => { x with session := x.armedFor, digest := d, regions := [], resume := x.hdrSeq, stop := 0 }
    match ((chainOf h).getD []).findIdx? (· == s.self) with
    | none => s.endSession insNotInChain
    | some p =>
      let s := s.modIns fun x => { x with phase := .active, pos := p }
      if known then s.reenter
      else
        let mine := sortBy (fun a b => decide (a.2.1 ≤ b.2.1)) ((regionEntries h).filter fun r => r.1 == p)
        s.each mine fun s r => placeRegion s r.2.2.1 { ridx := r.2.1, size := r.2.2.2.1, digest := r.2.2.2.2, place := none, result := 0 }

/-- A HEADER chunk with a good CRC: of the armed session it is read, of another it is only forwarded (R185), and INS_STATUS then reports NOT_ARMED
unless a session is in progress (R204). A header that a session in progress has read already changes nothing (R191). -/
def headerChunk (s : State) (c : Chunk) : State :=
  if s.ins.phase = .idle then s.insReason insNotArmed
  else
    let s := if c.seq = 0 then s.modIns fun x => { x with foreign := leAt c.payload 0 8 != x.armedFor.toNat } else s
    if s.ins.foreign then (if s.ins.phase = .armed then s.insReason insNotArmed else s)
    else if s.ins.phase = .verifying then s
    else if s.ins.phase = .active then
      if c.seq < s.ins.resume then s else s.stopWrite (if s.ins.resume < c.seq then insGap else insBadChunk)
    else if !c.wellFormed then s.endSession insBadHeader
    else if c.seq = 0 ∧ c.offset = 0 then
      let s := s.modIns fun x => { x with hdr := c.payload, hdrSeq := 1 }
      if 16 ≤ c.payload.length ∧ headerLen c.payload ≤ c.payload.length then openSession s else s
    else if s.ins.hdrSeq = 0 then s.stopWrite insGap
    else if c.seq < s.ins.hdrSeq then s
    else if c.seq ≠ s.ins.hdrSeq then s.stopWrite insGap
    else if c.offset ≠ s.ins.hdr.length then s.endSession insBadHeader
    else
      let s := s.modIns fun x => { x with hdr := x.hdr ++ c.payload, hdrSeq := x.hdrSeq + 1 }
      if headerLen s.ins.hdr ≤ s.ins.hdr.length then openSession s else s

/-! ### Data (R190, R191) -/

/-- A DATA chunk written to its region; the first write of a session to a block raises its install count (R190). -/
def writeChunk (s : State) (v r : Nat) (c : Chunk) : State :=
  let x := s.getRegion v r
  let b := x.first + c.offset / 0x4000000
  let fresh := !x.opened.contains b
  let at_ := x.first * 0x4000000 + c.offset
  let s := s.modVault v fun y => { y with
    mem := y.mem.write at_ c.payload,
    bad := y.bad.filter fun w => decide (w < at_ ∨ at_ + c.len ≤ w),
    installs := if fresh then KMap.upd 0 y.installs b (· + 1) else y.installs,
    regions := KMap.upd {} y.regions r fun z => { z with
      written := if z.written.contains (c.offset / 65536) then z.written else c.offset / 65536 :: z.written,
      opened := if fresh then b :: z.opened else z.opened } }
  if fresh ∧ KMap.get 0 (s.getVault v).installs b = 9500 then notice s .vaultWear (srcVlt v) else s

/-- A DATA chunk with a good CRC (R190, R191). A region that the header named and no stack took is passed over (R188, R204: log entry 116). -/
def dataChunk (s : State) (c : Chunk) : State :=
  let x := s.ins
  if x.phase ≠ .active ∨ x.foreign ∨ x.stop ≠ 0 ∨ c.seq < x.resume then s
  else if x.resume < c.seq then s.stopWrite insGap
  else
    let next (s : State) : State := s.modIns fun x => { x with resume := x.resume + 1 }
    if !c.wellFormed then s.stopWrite insBadChunk
    else if c.pos ≠ x.pos then next s
    else match x.regions.find? fun g => g.ridx == c.ridx with
      | none => s.stopWrite insBadChunk
      | some g =>
        if g.size < c.offset + c.len then s.stopWrite insBadChunk
        else match g.place with
          | some (v, r) =>
            if (s.getRegion v r).state = .installing ∧ (s.getVault v).mode = .install then next (writeChunk s v r c) else s.stopWrite insBadChunk
          | none => next s

/-! ### The end (R192) -/

/-- The outcome of a session whose regions are all settled: the first region that was not placed or has failed gives its reason. -/
def State.sessionReason (s : State) : Nat :=
  ((s.ins.regions.map fun g => match g.place with
    | some (v, r) => (s.getRegion v r).reason
    | none => g.result).find? (· != 0)).getD (if s.fuses.grade = 3 then insAbsent else 0)

/-- No region of the session is INSTALLING any more. -/
def State.settled (s : State) : Bool :=
  s.ins.regions.all fun g => match g.place with
    | some (v, r) => (s.getRegion v r).state != .installing
    | none => true

/-- Verification is over: the session ends, and with it install mode, which keeps tickets off the stack that is read back (R189, R192, R202). -/
def verifyOver (s : State) : State := if s.ins.phase = .verifying ∧ s.settled then (s.endSession s.sessionReason).endInstall else s

/-- An END chunk with a good CRC (R189, R192). -/
def endChunk (s : State) (c : Chunk) : State :=
  let x := s.ins
  if x.phase ≠ .active ∨ x.foreign then s
  else if x.stop ≠ 0 then (s.endSession x.stop).endInstall
  else if c.seq < x.resume then s
  else if !c.wellFormed then s.stopWrite insBadChunk
  else if x.resume < c.seq then ((s.stopWrite insGap).endSession insGap).endInstall
  else
    let s := s.modIns fun x => { x with phase := .verifying }
    let s := s.each x.regions fun s g => match g.place with
      | some (v, r) =>
        let y := s.getRegion v r
        if y.state = .installing ∧ (List.range (ceilDiv y.size 65536)).any (fun i => !y.written.contains i) then
          s.modRegion v r fun z => { z with state := .failed, reason := insIncomplete }
        else s
      | none => s
    verifyOver s

/-- A chunk reaches the install engine (R183 to R192): it is forwarded, and then acts by its type. -/
def chunk (s : State) (src : Option Nat) (raw : List Byte) : State :=
  let s := forward s src raw
  let c := Chunk.parse raw
  if !c.ok then
    let s := s.addFld .insCounts [] 0 32 1
    if s.ins.phase = .active ∧ !s.ins.foreign then s.stopWrite insCrc else s
  else match c.type with
    | 0 => dataChunk s c
    | 1 => headerChunk s c
    | 2 => endChunk s c
    | _ => if s.ins.phase = .active ∧ !s.ins.foreign then s.stopWrite insBadChunk else s

/-- A chunk of the type that a command names. -/
def chunkOf (s : State) (type : Nat) (src : Option LinkIx) (raw : List Byte) : State :=
  if (Chunk.parse raw).type = type then chunk s (src.map Fin.val) raw else s

def execHeaderChunk (src : Option LinkIx) (raw : List Byte) (s : State) : Host.Outcome State Fault Refusal := .next (chunkOf s 1 src raw)
def execDataChunk (src : Option LinkIx) (raw : List Byte) (s : State) : Host.Outcome State Fault Refusal := .next (chunkOf s 0 src raw)
def execEndChunk (src : Option LinkIx) (raw : List Byte) (s : State) : Host.Outcome State Fault Refusal := .next (chunkOf s 2 src raw)

/-- The read-back of a region ends (R192): its digest makes it INSTALLED or FAILED. -/
def verifyDone (s : State) (v r : Nat) : State :=
  let y := s.getRegion v r
  if s.ins.phase = .verifying ∧ y.state = .installing then
    let d := sha384 ((s.getVault v).mem.read (y.first * 0x4000000) y.size)
    verifyOver (s.modRegion v r fun z =>
      if d = y.want then { z with state := .installed, digest := d, reason := 0 } else { z with state := .failed, reason := insDigest })
  else s

def execInstallVerifyDone (v : VaultIx) (region : Fin 64) (s : State) : Host.Outcome State Fault Refusal := .next (verifyDone s v.val region.val)

/-! ### Commands and the ring (R187, R193, R205) -/

/-- INS_CMD: from the management cores and the service processor. -/
def insCmd (s : State) (acc : Accessor) (conds : List (Bool × Status)) (act : State → State) : State :=
  onBlock s srcClo fun s => match firstOf ((!isLocal acc, .denied) :: conds) with
  | some st => s.setFld .insStatus [] 8 8 st.code
  | none => (act s).setFld .insStatus [] 8 8 Status.ok.code

/-- A session is in progress. -/
def Install.busy (x : Install) : Bool := x.phase == .active || x.phase == .verifying

/-- ARM (R193). -/
def cmdArm (s : State) (acc : Accessor) : State :=
  insCmd s acc [(s.ins.busy, .busy)] fun s =>
    (s.modIns fun x => { x with phase := .armed, armedFor := s.rg .insSession, hdr := [], hdrSeq := 0, foreign := true }).insReason 0

def execInstallArm (acc : Accessor) (s : State) : Host.Outcome State Fault Refusal := .next (cmdArm s acc)

/-- The ring's slots (R205), in management memory and 4 KiB aligned. -/
def State.ringOk (s : State) : Bool :=
  let n := s.fld .insRingSlots [] 0 16
  let base := (s.rg .insRingBase).toNat
  decide (2 ≤ n ∧ n ≤ 4096 ∧ base % 4096 = 0) && mgtRange base (n * 0x11000) false

/-- START (R187). -/
def cmdStart (s : State) (acc : Accessor) : State :=
  insCmd s acc [(s.ins.ring.isSome, .busy), (!s.ringOk, .rejected)] fun s => s.modIns fun x => { x with ring := some 0 }

def execInstallStart (acc : Accessor) (s : State) : Host.Outcome State Fault Refusal := .next (cmdStart s acc)

/-- DISARM ends the session and install mode; INSTALLING regions have failed (R180, R193). -/
def cmdDisarm (s : State) (acc : Accessor) : State :=
  insCmd s acc [] fun s =>
    let s := if s.ins.busy then s.setBit .insStatus [] 2 true else s
    (s.modIns fun x => { x with phase := .idle, ring := none }).failInstalling.endInstall

def execInstallDisarm (acc : Accessor) (s : State) : Host.Outcome State Fault Refusal := .next (cmdDisarm s acc)

/-- The engine takes the next ring slot once its OWN is 1 (R187); it stops after an END chunk. -/
def ringSlot (s : State) : State :=
  match s.ins.ring with
  | none => s
  | some i =>
    let a := (s.rg .insRingBase).toNat + 0x11000 * i
    if leNat (s.mgt.read (a + 0x20) 8) = 1 then
      let head := s.mgt.read a 32
      let raw := head ++ s.mgt.read (a + 0x1000) (min (leAt head 12 4) 65536)
      let s := s.mgtWrite (a + 0x20) (leBytes 8 0)
      let next := if (Chunk.parse raw).ok ∧ (Chunk.parse raw).type = 2 then none else some ((i + 1) % s.fld .insRingSlots [] 0 16)
      chunk (s.modIns fun x => { x with ring := next }) none raw
    else s

def execInstallRingSlot (s : State) : Host.Outcome State Fault Refusal := .next (ringSlot s)

/-! ### VLT_CMD (R201, R206) -/

/-- A vault command: from the management cores and the service processor. -/
def vltCmd (s : State) (acc : Accessor) (v : Nat) (conds : List (Bool × Status)) (act : State → State) : State :=
  onBlock s (srcVlt v) fun s =>
    match firstOf ((!isLocal acc, .denied) :: conds) with
    | some st => s.finish .vltCmdStatus [v] st
    | none => act s

/-- REGION_FREE: an INSTALLED or FAILED region frees its entry and blocks. -/
def cmdRegionFree (s : State) (acc : Accessor) (v r : Nat) : State :=
  let st := (s.getRegion v r).state
  vltCmd s acc v [(st == .free, .rejected), (st == .bound || st == .installing, .busy)] fun s =>
    (s.modRegion v r fun _ => {}).finish .vltCmdStatus [v] .ok

def execRegionFree (acc : Accessor) (v : VaultIx) (region : Fin 64) (s : State) : Host.Outcome State Fault Refusal :=
  .next (cmdRegionFree s acc v.val region.val)

/-- A recalibration starts (R201). -/
def startRecal (s : State) (v : Nat) : State :=
  (s.setBit .vltCmdStatus [v] 9 false).modVault v fun x => { x with mode := .recal, recalQ := false }

/-- RECAL: it runs while no context holds a ticket on the stack; with QUEUE it waits for that. -/
def cmdRecal (s : State) (acc : Accessor) (v : Nat) (queue : Bool) : State :=
  let now := s.vaultIdle v && !s.vaultClosed v
  vltCmd s acc v [(!now && (!queue || s.vaultClosed v), .busy)] fun s =>
    let s := s.setFld .vltCmdStatus [v] 0 8 Status.ok.code
    if now then startRecal s v else (s.setBit .vltCmdStatus [v] 9 true).modVault v fun x => { x with recalQ := true }

def execRecal (acc : Accessor) (v : VaultIx) (queue : Bool) (s : State) : Host.Outcome State Fault Refusal := .next (cmdRecal s acc v.val queue)

def execRecalQueuedStart (v : VaultIx) (s : State) : Host.Outcome State Fault Refusal :=
  .next (if (s.getVault v.val).recalQ ∧ s.vaultIdle v.val ∧ (s.getVault v.val).mode = .service then startRecal s v.val else s)

/-- The words that a recalibration finds bad: the stack as it reads, and the offsets of those that are lost. -/
def recalWords (s : State) (v : Nat) (mem : Memory) : List (Nat × Nat) → List Nat → (Memory × List Nat) × State
  | [], lost => ((mem, lost), s)
  | (off, n) :: r, lost =>
    let (fate, s) := s.fate true n
    match fate with
    | .clean => recalWords s v mem r lost
    | .corrected => recalWords (vaultCe s none v off) v mem r lost
    | .open_ => let (bs, s) := s.drawBytes 32; recalWords s v (mem.write (off / 32 * 32) bs) r lost
    | .lost => recalWords s v mem r (off :: lost)

/-- A recalibration ends (R199, R201): each INSTALLED region is kept, and clean, or has failed by its digest. -/
def recalDone (s : State) (v : Nat) (found : Findings) : State :=
  if (s.getVault v).mode = .recal then
    let read (o : Nat) : Bool := (s.getVault v).regions.any fun e =>
      e.2.state == .installed && decide (e.2.first * 0x4000000 ≤ o ∧ o < e.2.first * 0x4000000 + e.2.size)
    let hits := (found.syms.filter fun e => decide (2 ^ 40 ≤ e.1) && read (e.1 - 2 ^ 40)).map fun e => (e.1 - 2 ^ 40, e.2)
    let ((mem, lost), s) := recalWords s v (s.getVault v).mem hits []
    let check (y : VRegion) : VRegion :=
      if y.state ≠ .installed then y
      else
        let a := y.first * 0x4000000
        if lost.any (fun o => decide (a ≤ o ∧ o < a + y.size)) ∨ sha384 (mem.read a y.size) ≠ y.digest then { y with state := .failed, reason := insDigest }
        else { y with ueSeen := false }
    let kept (w : Nat) : Bool := !(read w) || lost.any fun o => o / 32 * 32 == w
    (s.modVault v fun x => { x with
      mode := .service, recalDue := false, regions := KMap.mapV {} x.regions check, bad := x.bad.filter kept }).setBit .vltCmdStatus [v] 8 true
  else s

def execRecalDone (v : VaultIx) (found : Findings) (s : State) : Host.Outcome State Fault Refusal := .next (recalDone s v.val found)

end Sys2Proof.Machine
end

