-- ==== Sys2Proof/Machine/Fabric.lean ====
section
/-! DEFINITION. Packets that arrive on VC1 to VC3 (R302 to R308, R313, R359, R360): the checks, delivery, forwarding, flooding, resending. -/

namespace Sys2Proof.Machine

/-! ### Resending (R305) -/

/-- A packet put ahead of the others of its link, in the resend slots. -/
def State.resendOn (s : State) (l : Nat) (x : SentPacket) : State :=
  s.modLink l fun k => if !k.isUp then k else { k with resendQ := k.resendQ ++ flitsOf x.epoch x.payload none }

/-- The body of a RESEND_REQ: SRC, SEQ and PART (the manual gives no layout, log entry 28). -/
def resendBody (src seq part : Nat) : List Byte := leBytes 2 src ++ leBytes 2 seq ++ leBytes 2 part

/-- A RESEND_REQ at a chip: at SRC the packet is sent again or counted as MISSED, elsewhere the request goes one link nearer to SRC along the
partition's own links (R305). -/
def resendReq (s : State) (src seq part : Nat) : State :=
  if src = s.self then
    match s.net.sent.find? fun x => x.seq == seq && x.part == part && decide ((s.time.mt - x.mt).toNat ≤ 1250000) with
    | some x => (s.each x.links fun s l => s.resendOn l x).addFld .netResend [] 0 32 1
    | none => s.addFld .netResend [] 32 32 1
  else match s.partSlot part with
    | some k =>
      let e := (s.getCtx k).part
      match s.parentLink e.origin e.extent src s.self with
      | some l => sendMachineOn s l 6 2 (resendBody src seq part)
      | none => s
    | none => s

def execResendReq (src : Coord) (seq : BitVec 16) (part : BitVec 16) (s : State) : Host.Outcome State Fault Refusal :=
  .next (resendReq s src.toNat seq.toNat part.toNat)

/-! ### The checks (R304) -/

/-- A live entry for PART with generation PART_GEN: one in any state other than FREE (R352). -/
def State.liveEntry (s : State) (part gen : Nat) : Bool := (s.msgSlot part gen).isSome

/-- A link is bound to a partition (R350, R353). -/
def State.boundTo (s : State) (l part : Nat) : Bool :=
  match s.partSlot part with
  | some k => s.bound k l
  | none => false

/-- The packet was accepted on this channel within the last 1 ms (R304 step 5). -/
def State.duplicate (s : State) (h : Head) (vc : Nat) : Bool :=
  s.net.seen.any fun x => x.src == h.src && x.seq == h.seq && x.vc == vc && decide ((s.time.mt - x.mt).toNat ≤ 1250000)

/-- The first check that a packet fails (R304); 0 where it passes all. -/
def State.packetStep (s : State) (l vc : Nat) (p : List Byte) : Nat :=
  let h := Head.parse p
  let n := p.length
  let age := signedOf 24 (s.ageNow + 2 ^ 24 - h.age)
  if n < 32 ∨ (crc32c (p.take (n - 4))).toNat ≠ leNat (p.drop (n - 4)) then 1
  else if 1220 < age ∨ age < -64 then 2
  else if h.part ≠ 0 ∧ !s.liveEntry h.part h.gen then 3
  else if h.part ≠ 0 ∧ !s.boundTo l h.part then 4
  else if s.duplicate h vc then 5
  else 0

/-- The channel of a packet kind (R302). -/
def kindVc (kind : Nat) : Option Nat :=
  if kind = 1 ∨ kind = 2 then some 1
  else if 3 ≤ kind ∧ kind ≤ 6 then some 2
  else if 7 ≤ kind ∧ kind ≤ 9 then some 3
  else none

/-- A packet dropped at a check is counted in the field that the check names (R304), and asked for again where it is protected (R305). -/
def dropAt (s : State) (step vc : Nat) (h : Head) : State :=
  match step with
  | 1 =>
    let s := s.addFld .netDrop1 [] 0 32 1
    match s.partSlot h.part with
    | some k => if vc = 2 ∧ members (s.getCtx k).part.extent ≤ 64 then resendReq s h.src h.seq h.part else s
    | none => s
  | 2 => s.addFld .netDrop0 [] 32 32 1
  | 3 | 4 => s.addFld .netDrop0 [] 0 32 1
  | _ => s.addFld .netDrop2 [] 32 32 1

/-- A packet counted as NOROUTE. -/
def State.noRoute (s : State) : State := s.addFld .netDrop2 [] 0 32 1

/-! ### Delivery -/

/-- An IMAGE packet for the partition that its link is bound to (R359, R361). -/
def takeImage (s : State) (l : Nat) (body : List Byte) : State :=
  match s.linkHolder l with
  | some k =>
    if s.bound k l then
      let (root, s) := imageRoot s k l
      actImage s k root (leAt body 0 8) (leAt body 8 8) ((body.drop 16).take (leAt body 8 8 - leAt body 0 8))
    else s
  | none => s

/-- A packet delivered on this chip. REG_REQ, REG_RESP and TELEMETRY have no body in the manual: what they do is the commands REG_REQ and REG_RESP;
telemetry has no consumer here (log entry 29). -/
def deliver (s : State) (l : Nat) (h : Head) (p : List Byte) : State :=
  let body := packetBody p
  match h.kind with
  | 1 => takeImage s l body
  | 2 => chunk s (some l) body
  | 3 => match s.partSlot h.part with
    | some k => actStep s k (parseStepPacket body)
    | none => s
  | 4 => actMessage s h.src (LaunchBody.parse p)
  | 5 => actAdvisory s l (leAt body 0 1) (leAt body 2 1) (leAt body 3 1)
  | 6 => resendReq s (leAt body 0 2 % 32768) (leAt body 2 2) (leAt body 4 2)
  | _ => s

/-- The links of a partition's context on which a flood goes on (R360). -/
def State.floodLinks (s : State) (l part : Nat) : List Nat :=
  match s.partSlot part with
  | some k => (s.boundLinks k).filter (· != l)
  | none => []

/-- The output that a packet takes (R306, R307): 0 to 5 a link, 6 local, 7 none. -/
def State.outputOf (s : State) (epoch : Bool) (h : Head) : Nat :=
  if h.part = 0 then
    if h.kind = 2 then 6
    else match s.towards h.dest with
      | none => 6
      | some m => if (s.getLink m).isUp && !s.miswired m then m else 7
  else if h.flood then 6
  else match s.partSlot h.part with
    | some k =>
      let e := KMap.get 0 s.net.routes (8192 * b2n epoch + 256 * k + h.route)
      if e < 8 then 7 else e - 8
    | none => 7

/-- An accepted packet is remembered for 1 ms (R304 step 5). -/
def State.accept (s : State) (h : Head) (vc : Nat) : State :=
  let recent := s.net.seen.filter fun x => decide ((s.time.mt - x.mt).toNat ≤ 1250000)
  { s with net := { s.net with seen := recent ++ [{ src := h.src, seq := h.seq, vc := vc, mt := s.time.mt }] } }

/-- A packet that has passed every check goes where its head says. A packet that is forwarded keeps its place in the receive buffer until its flits
depart, a flooded one until its last copy's do. -/
def route (s : State) (l vc out : Nat) (epoch : Bool) (h : Head) (p : List Byte) : State :=
  if out = 7 then s.noRoute.freeFlits vc (flitsOf epoch p (some l))
  else if out < 6 then s.queueOn out vc epoch p (some l)
  else
    let on := if h.flood && h.part != 0 then s.floodLinks l h.part else []
    let s := if on.isEmpty then s.freeFlits vc (flitsOf epoch p (some l)) else s
    (deliver s l h p).each on fun s m => s.queueOn m vc epoch p (if on.getLast? = some m then some l else none)

/-- The packet at the front of a receive buffer, and the rest: a first flit and those that follow it, as far as LEN says or another packet begins
(R302); none where it is not all there. -/
def frontPacket : List TxFlit → Option (List TxFlit × List TxFlit)
  | [] => none
  | f :: r =>
    let n := leAt f.payload 14 2 % 8192
    let rest := (r.takeWhile fun g => !g.first).take (n - 1)
    if n ≤ rest.length + 1 ∨ rest.length < r.length then some (f :: rest, r.drop rest.length) else none

/-- The packet at the front of a channel's receive buffer is taken (R298, R302 to R308, R313, R360): its checks, its sample, and its way. Flits
without the first one of their packet fail the check of R303. -/
def packetReceive (s : State) (l vc : Nat) : State :=
  match frontPacket (KMap.get [] (s.getLink l).rxq vc) with
  | none => s
  | some (fs, rest) =>
    let s := s.modLink l fun k => { k with rxq := KMap.set [] k.rxq vc rest }
    let p := fs.flatMap TxFlit.payload
    let epoch := (fs.head?.map TxFlit.epoch).getD false
    let h := Head.parse p
    let step := if (fs.head?.map TxFlit.first) = some true then s.packetStep l vc p else 1
    if step ≠ 0 then dropAt ((s.sample p l 7 vc epoch step).freeFlits vc fs) step vc h
    else
      let s := s.accept h vc
      let out := if kindVc h.kind = some vc then s.outputOf epoch h else 7
      route (s.sample p l out vc epoch 0) l vc out epoch h p

def execPacketReceive (l : LinkIx) (vc : Fin 4) (s : State) : Host.Outcome State Fault Refusal := .next (packetReceive s l.val vc.val)

/-- A bank that stopped being current 1,250,000 ticks ago unlocks (R308). -/
def execRouteBankUnlock (k : CtxSlot) (s : State) : Host.Outcome State Fault Refusal :=
  if KMap.get 0 s.net.unlockAt k.val ≤ s.mtN then .next { s with net := { s.net with unlockAt := KMap.set 0 s.net.unlockAt k.val 0 } } else .next s

end Sys2Proof.Machine
end

