-- ==== Sys2Proof/Machine/Reset.lean ====
section
/-! DEFINITION. Chip reset and power-on reset (R450): what survives (R180, R193, R406, R422, R431, R450). -/

namespace Sys2Proof.Machine

/-- A region table entry after a reset: a BOUND one is INSTALLED (R180). What its session has written and counted is kept (R190, R193). -/
def VRegion.reset (r : VRegion) : VRegion := { r with state := if r.state = .bound then .installed else r.state, ctx := none }

/-- A vault stack after a reset: its non-volatile state (R180, R206), and the words of its arrays that cannot be read (R200). -/
def Vault.reset (v : Vault) : Vault :=
  { mem := v.mem, installs := v.installs, regions := KMap.mapV {} v.regions VRegion.reset, bad := v.bad }

/-- The install engine after a reset: the session it keeps (R180, R193). -/
def Install.reset (i : Install) : Install :=
  { session := i.session, digest := i.digest, resume := i.resume, pos := i.pos, regions := i.regions }

/-- The service processor after a reset: flash, slots and a requested recovery. A slot whose writing was interrupted stays WRITING (R456). -/
def Security.reset (x : Security) : Security :=
  { flash := x.flash, slots := x.slots, recoveryReq := x.recoveryReq, entered := x.entered }

/-- The bit of CHP_RESET_CAUSE (R455). -/
inductive ResetCause where
  | porst | pin | i3c | recovery
deriving DecidableEq, Repr

def ResetCause.code : ResetCause → Nat
  | .porst => 1
  | .pin => 2
  | .i3c => 4
  | .recovery => 8

/-- Chip reset (R450): every block outside the always-on island returns to its reset state; fuses, flash, the vault's non-volatile state and the
fatal log survive, and so do bytes of memory that nothing overwrites (log entry 30). The pins and rails stand in the always-on island. -/
def chipReset (s : State) (cause : Nat) : State :=
  let fresh : State :=
    { State.reset with
      pending := s.pending, out := s.out, freeCtr := s.freeCtr, fuses := s.fuses, self := s.self, mgt := s.mgt, pins := s.pins,
      hbm := KMap.mapV {} s.hbm fun x => { mem := x.mem }, cxl := KMap.mapV {} s.cxl fun x => { mem := x.mem },
      vault := KMap.mapV {} s.vault Vault.reset, ins := s.ins.reset, sec := s.sec.reset, clk := { vout := s.fuses.vnom },
      flt := { log := s.flt.log, aliveOut := s.flt.aliveOut } }
  (fresh.setRg .chpStrap [] (s.rg .chpStrap [])).setRg .chpResetCause [] (Word.ofNat cause)

/-- The cause of a reset that a pin or a command begins; after RECOVER it is also a RECOVERY reset (R455). -/
def State.causeOf (s : State) (c : ResetCause) : Nat := if s.sec.recoveryReq ∧ c ≠ .recovery then c.code + 8 else c.code

/-- A reset that software or the board controller asks for while RESET_N stays high: the sequence waits at step 4 (R450). -/
def softReset (s : State) (c : ResetCause) : State :=
  let s := chipReset s (s.causeOf c)
  { s with pins := { s.pins with waits := true, step := min s.pins.step 4 } }

end Sys2Proof.Machine
end

