-- ==== Sys2Proof/Machine/Firmware.lean ====
section
/-! DEFINITION. Boot, firmware, keys and attestation, and the service port (R418, R419, R428 to R438). -/

namespace Sys2Proof.Machine

def State.modSec (s : State) (f : Security → Security) : State := { s with sec := f s.sec }
def State.getSlot (s : State) (i : Nat) : FwSlot := KMap.get {} s.sec.slots i
def State.modSlot (s : State) (i : Nat) (f : FwSlot → FwSlot) : State := s.modSec fun x => { x with slots := KMap.upd {} x.slots i f }

/-! ### Flash and its images (R431, R432) -/

/-- Where a slot begins in flash. -/
def slotBase (i : Nat) : Nat := if i = 0 then 0x100000 else 0x2000000

/-- A 64 KiB block of a slot; block 0 is the header block. -/
def State.fwBlock (s : State) (i k : Nat) : List Byte := s.sec.flash.read (slotBase i + 65536 * k) 65536

/-- Fields of a firmware header (R432). -/
def fwComps (h : List Byte) : Nat := leAt h 6 1
def fwSvn (h : List Byte) : Nat := leAt h 8 4
def fwNblk (h : List Byte) : Nat := leAt h 12 4
def fwVpk (h : List Byte) : List Byte := slice h 64 97

/-- The header passes step 2 of R419. -/
def State.fwHeaderOk (s : State) (h : List Byte) : Bool :=
  leAt h 0 4 == 0x46575753 && leAt h 4 2 == 0x0100 && decide (1 ≤ fwNblk h ∧ fwNblk h ≤ 495 ∧ s.fuses.svn ≤ fwSvn h)
    && (s.fuses.vpk.zipIdx.any fun (d, i) => d == sha384 (fwVpk h) && s.fuses.revoked / 2 ^ i % 2 == 0)

/-- The plaintext of data block k (R432): its CRC and its tag hold. -/
def State.fwPlain (s : State) (h : List Byte) (k : Nat) (b : List Byte) : Option (List Byte) :=
  if (crc32c (b.take 65520)).toNat = leAt b 65520 4 then
    Config.gcmOpen s.fuses.fek (slice h 24 8 ++ leBytes 4 k) (h.take 64) (b.take 65504) (slice b 65504 16)
  else none

/-- A slot's image after steps 2 to 4 of R419: its header and the plaintext of its data blocks, from block 1. -/
def State.fwVerify (s : State) (i : Nat) : Option (List Byte × List (List Byte)) :=
  let h := s.fwBlock i 0
  if s.fwHeaderOk h then
    let bs := (List.range (fwNblk h)).map fun k => s.fwBlock i (k + 1)
    if Config.ecdsaVerify (fwVpk h) (sha384 (h.take 176 ++ bs.flatMap fun b => b.take 65520)) (slice h 176 96) then
      let plain := bs.zipIdx.map fun (b, k) => s.fwPlain h (k + 1) b
      if plain.all Option.isSome then some (h, plain.map fun p => p.getD []) else none
    else none
  else none

/-- The blocks of a component, in order: FIRST and COUNT stand in component order (R432). -/
def componentOf (h : List Byte) (plain : List (List Byte)) (c : Nat) : List Byte :=
  ((plain.drop (leAt h (32 + 4 * c) 2 - 1)).take (leAt h (34 + 4 * c) 2)).flatMap id

/-- What the directory says of a slot, from its header. -/
def FwSlot.of (st : SlotState) (h : List Byte) : FwSlot :=
  { state := st, svn := fwSvn h, nblk := fwNblk h, comps := fwComps h % 8, version := Word.ofNat (leAt h 16 8) }

/-- The slots in a state, the lowest first. -/
def State.slotIn (s : State) (st : SlotState) : Option Nat := [0, 1].find? fun i => (s.getSlot i).state == st

/-! ### Measurements (R435) -/

/-- The components of an image that a mask names are loaded: each is measured. On grade N the vault component is skipped (R434). -/
def measure (s : State) (h : List Byte) (plain : List (List Byte)) (mask : Nat) : State :=
  let mine := (List.range 3).filter fun c => mask / 2 ^ c % 2 == 1 && fwComps h / 2 ^ c % 2 == 1 && !(c == 2 && s.fuses.grade == 3)
  s.each mine fun s c => s.modSec fun x => { x with meas := KMap.set [] x.meas c (sha384 (componentOf h plain c)) }

/-- A measurement, zero before one is latched. -/
def State.meas (s : State) (c : Nat) : List Byte := padTo (KMap.get [] s.sec.meas c) 48 0

/-- The digest over the three measurements (R429). -/
def State.measHash (s : State) : List Byte := sha384 (s.meas 0 ++ s.meas 1 ++ s.meas 2)

/-! ### Boot (R419) -/

/-- A slot that fails its boot: REJECTED, and reverted where it was in TRIAL (R419, R437). -/
def bootFail (s : State) (i : Nat) : State :=
  let trial := (s.getSlot i).state == .trial
  let s := notice (s.modSlot i fun x => { x with state := .rejected }) .bootSlotFail srcSec
  if trial then notice (s.setBit .secStatus [] 19 true) .fwReverted srcSec else s

/-- A verified slot is booted: everything is loaded and measured, and a trial's time begins (R436). -/
def bootSlot (s : State) (i : Nat) (h : List Byte) (plain : List (List Byte)) : State :=
  let trial := (s.getSlot i).state == .trial
  let s := measure (s.modSlot i fun x => FwSlot.of x.state h) h plain 7
  let s := s.modSec fun x => { x with bootSlot := some i, svn := fwSvn h, bootHash := s.measHash, trialFrom := if trial then some s.time.refTicks else none,
                                      took := if trial then 7 else 0, tookStacks := if trial then 15 else 0, recovery := false, entered := false }
  s

/-- Slots tried in order; none of them bootable: ROM recovery (R438). -/
def tryBoot (s : State) : List Nat → State
  | [] => s.modSec fun x => { x with recovery := true, entered := true }
  | i :: r => match s.fwVerify i with
    | some (h, plain) => bootSlot s i h plain
    | none => tryBoot (bootFail s i) r

/-- The boot of step 6 (R419): recovery by strap or request, else the slot in TRIAL, then the one in ACTIVE. -/
def boot (s : State) (strap : Bool) : State :=
  let was := s.sec.entered
  let s := if strap || s.sec.recoveryReq then s.modSec fun x => { x with recovery := true, entered := true, recoveryReq := false }
    else tryBoot s ([.trial, .active].filterMap s.slotIn)
  if was && !s.sec.recovery then notice s .recoveryEntered srcSec else s

/-! ### Activation (R434, R437) -/

/-- Fabric microcode may be loaded now. -/
def State.fabricFree (s : State) : Bool :=
  s.loader.isNone && slots.all fun k =>
    let p := (s.getCtx k).plan.state
    p == .idle || p == .ended

/-- The firmware of a vault stack may be loaded now. -/
def State.stackFree (s : State) (v : Nat) : Bool :=
  (s.getVault v).mode == .service && ((s.getVault v).groups.all fun e => e.2.isNone) && ((s.getVault v).regions.all fun e => e.2.state != .bound)

/-- The vault stacks that a mask names and the grade has (R434). -/
def State.stacksOf (s : State) (mask : Nat) : List Nat := (List.range 4).filter fun v => mask / 2 ^ v % 2 == 1 && !s.vaultFused v

/-- The parts of an activation that must wait: a component mask and a stack mask. -/
def State.blockedParts (s : State) (comps stackMask : Nat) : Nat × Nat :=
  let fab := if comps / 2 % 2 = 1 ∧ !s.fabricFree then 2 else 0
  let st := if comps / 4 % 2 = 1 then sumN (((s.stacksOf stackMask).filter fun v => !s.stackFree v).map fun v => 2 ^ v) else 0
  (fab + if st = 0 then 0 else 4, st)

/-- Parts of a slot's image loaded: each is measured, and the management firmware's SVN runs. -/
def loadParts (s : State) (i comps : Nat) : State :=
  match s.fwVerify i with
  | none => s
  | some (h, plain) =>
    let s := measure s h plain comps
    if comps % 2 = 1 ∧ fwComps h % 2 = 1 then s.modSec fun x => { x with svn := fwSvn h } else s

/-- What runs from the trial slot grows by parts that are loaded. -/
def State.takeTrial (s : State) (comps stackMask : Nat) : State :=
  s.modSec fun x => { x with took := x.took ||| comps, tookStacks := x.tookStacks ||| (if comps / 4 % 2 = 1 then stackMask else 0) }

/-- ACTIVATE (R434): the slot becomes TRIAL, the management firmware and every part that may be loaded are loaded, and the others wait where the
command queues; a component that the image lacks is REJECTED. -/
def activate (s : State) (arg : Nat) (queue : Bool) : Status × State :=
  let i := fieldN arg 0 1
  let comps := fieldN arg 1 3
  let stackMask := fieldN arg 4 4
  let w := s.blockedParts comps stackMask
  if (s.getSlot i).state ≠ .verified ∨ comps &&& (s.getSlot i).comps ≠ comps then (.rejected, s)
  else if w.1 ≠ 0 ∧ !queue then (.busy, s)
  else
    let s := s.modSlot i fun x => { x with state := .trial }
    let now := comps - w.1 + (if w.1 / 4 % 2 = 1 ∧ stackMask - w.2 ≠ 0 then 4 else 0)
    let s := (loadParts s i now).takeTrial now (stackMask - w.2)
    let s := if comps % 2 = 1 then s.modSec fun x => { x with trialFrom := some s.time.refTicks } else s
    (.ok, if w.1 = 0 then s else s.modSec fun x => { x with queued := some { slot := i, comps := w.1, stackMask := w.2, trial := true } })

/-- A queued activation runs as far as nothing blocks it. -/
def activationStart (s : State) : State :=
  match s.sec.queued with
  | none => s
  | some q =>
    let w := s.blockedParts q.comps q.stackMask
    let now := q.comps - w.1 + (if w.1 / 4 % 2 = 1 ∧ q.stackMask - w.2 ≠ 0 then 4 else 0)
    let s := loadParts s q.slot now
    let s := if q.trial then s.takeTrial now (q.stackMask - w.2) else s
    s.modSec fun x => { x with queued := if w.1 = 0 then none else some { q with comps := w.1, stackMask := w.2 } }

def execActivationQueuedStart (s : State) : Host.Outcome State Fault Refusal := .next (activationStart s)

/-- CONFIRM (R436): the trial slot becomes ACTIVE, the active one VERIFIED, and SVN_FUSED rises. -/
def confirm (s : State) : Status × State :=
  match s.slotIn .trial with
  | none => (.rejected, s)
  | some i =>
    let s := match s.slotIn .active with
      | some j => s.modSlot j fun x => { x with state := .verified }
      | none => s
    let s := s.modSlot i fun x => { x with state := .active }
    let s := s.modSec fun x => { x with trialFrom := none, took := 0, tookStacks := 0, queued := x.queued.map fun q => { q with trial := false } }
    (.ok, { s with fuses := { s.fuses with svn := max s.fuses.svn (s.getSlot i).svn } })

/-- A revert (R437): the trial slot is REJECTED, the ACTIVE slot's management firmware restarts, and what the other parts took from the trial
returns as though queued. -/
def revert (s : State) : State :=
  match s.slotIn .trial with
  | none => s
  | some i =>
    let x := s.sec
    let s := (s.modSlot i fun y => { y with state := .rejected }).setBit .secStatus [] 19 true
    let s := notice (s.modSec fun y => { y with trialFrom := none, queued := none, took := 0, tookStacks := 0 }) .fwReverted srcSec
    match s.slotIn .active with
    | none => s
    | some j =>
      let s := loadParts s j 1
      let back := x.took / 2 * 2
      if back = 0 then s
      else activationStart (s.modSec fun y => { y with queued := some { slot := j, comps := back, stackMask := x.tookStacks, trial := false } })

/-- A trial that nothing confirmed within SEC_TRIAL_LIMIT seconds (R436). -/
def execTrialTimeout (s : State) : Host.Outcome State Fault Refusal :=
  match s.sec.trialFrom with
  | some t => if t + 1250000000 * max 1 (s.fld .secTrialLimit [] 0 16) ≤ s.time.refTicks then .next (revert s) else .next s
  | none => .next s

/-! ### Attestation (R429, R430) -/

/-- The private keys (R429). -/
def State.dik (s : State) : List Byte := Config.hkdf s.fuses.uds [] ("ENX-DIK".toUTF8.data.toList.map fun b => BitVec.ofNat 8 b.toNat)
def State.ak (s : State) : List Byte := Config.hkdf s.fuses.uds s.sec.bootHash ("ENX-AK".toUTF8.data.toList.map fun b => BitVec.ofNat 8 b.toNat)

/-- A signature with a fresh random number. -/
def sign (s : State) (key body : List Byte) : List Byte × State :=
  let (w, s) := s.draw
  (padTo (Config.ecdsaSign key (sha384 body) w) 96 0, s)

/-- The BOUND regions of a context, by ascending stack and entry. -/
def State.reportRegions (s : State) (k : Nat) : List (Nat × Nat × VRegion) :=
  (List.range 4).flatMap fun v => ((s.getVault v).regions.filter fun e => e.2.state == .bound && e.2.ctx == some (s.idOf k)).map fun e => (v, e.1, e.2)

/-- The first 2,368 bytes of a report (R430); `digest` is SWT_DIGEST. -/
def State.report (s : State) (id : CtxId) (page : Nat) (nonce digest : List Byte) : List Byte :=
  let c := s.getCtx id.slot
  let chip := id.toNat == 0
  let all := if chip then [] else s.reportRegions id.slot
  let mine := slice all (32 * page) 32
  let entry (x : Nat × Nat × VRegion) : List Byte := leBytes 1 x.1 ++ leBytes 1 x.2.1 ++ leBytes 6 0 ++ leBytes 8 x.2.2.size ++ padTo x.2.2.digest 48 0
  let part := if chip ∨ c.part.state = .free then 0 else c.part.part
  let gen := if chip ∨ c.part.state = .free then 0 else c.part.gen
  let image := match c.image with
    | some im => if chip then [] else im.id
    | none => []
  leBytes 4 0x54525753 ++ leBytes 2 0x0100 ++ leBytes 1 s.fuses.grade ++ leBytes 1 (16 * s.fuses.major + s.fuses.minor) ++ leBytes 8 s.mtN
    ++ padTo nonce 32 0 ++ padTo s.fuses.serial 16 0 ++ leBytes 1 s.fuses.lifecycle
    ++ leBytes 1 (b2n (s.slotIn .trial).isSome + 2 * b2n (s.bit .secStatus [] 19)) ++ leBytes 2 s.fuses.svn ++ leBytes 4 s.sec.svn
    ++ s.meas 0 ++ s.meas 1 ++ s.meas 2 ++ padTo digest 48 0 ++ leBytes 2 id.toNat ++ leBytes 2 part ++ leBytes 1 gen ++ leBytes 1 page
    ++ leBytes 1 mine.length ++ leBytes 1 (b2n (decide (32 * page + 32 < all.length))) ++ padTo image 48 0 ++ padTo (mine.flatMap entry) 2048 0

/-- ATTEST (R418, R430, R438): a signed report, or the status that refuses it. -/
def attest (s : State) (arg : Nat) (nonce digest : List Byte) : Status × List Byte × State :=
  let id := CtxId.ofNat (arg % 65536)
  if s.fuses.lifecycle = 0 ∨ s.fuses.lifecycle = 3 then (.denied, [], s)
  else if s.sec.recovery then (.busy, [], s)
  else if id.toNat ≠ 0 ∧ !s.live id then (.stale, [], s)
  else
    let body := s.report id (fieldN arg 16 8) nonce digest
    let (sig, s) := sign s s.ak body
    (.ok, body ++ sig, s)

/-- The endorsement (R429); the signature covers the bytes before it (log entry 31). -/
def endorse (s : State) : Status × List Byte × State :=
  if s.fuses.lifecycle = 0 ∨ s.fuses.lifecycle = 3 then (.denied, [], s)
  else
    let body := padTo (Config.publicKey s.ak) 97 0 ++ padTo s.sec.bootHash 48 0 ++ List.replicate 15 0
    let (sig, s) := sign s s.dik body
    (.ok, body ++ sig, s)

/-! ### SEC_CMD (R441) -/

/-- A SEC command: DENIED over VC3. -/
def secCmd (s : State) (acc : Accessor) (act : State → Status × State) : State :=
  onBlock s srcSec fun s =>
    if isLocal acc then
      let (st, s) := act s
      s.finish .secCmdStatus [] st
    else s.finish .secCmdStatus [] .denied

def execConfirm (acc : Accessor) (s : State) : Host.Outcome State Fault Refusal := .next (secCmd s acc confirm)

def cmdActivate (s : State) (acc : Accessor) (queue : Bool) : State := secCmd s acc fun s => activate s (s.rg .secArg0 []).toNat queue

def execActivate (acc : Accessor) (queue : Bool) (s : State) : Host.Outcome State Fault Refusal := .next (cmdActivate s acc queue)

/-- Bytes that a command writes at SEC_ARG2 when it is OK. -/
def writeOut (r : Status × List Byte × State) : Status × State :=
  let s := r.2.2
  (r.1, if r.1 = .ok then s.mgtWrite (s.rg .secArg2 []).toNat r.2.1 else s)

/-- SWT_DIGEST (R32, R33), as it stands in its registers since the table was built. -/
def State.swtDigest (s : State) : List Byte := (List.range 6).flatMap fun j => leBytes 8 (s.rg .swtDigest [j]).toNat

def cmdAttest (s : State) (acc : Accessor) : State :=
  secCmd s acc fun s => writeOut (attest s (s.rg .secArg0 []).toNat (s.mgt.read (s.rg .secArg1 []).toNat 32) s.swtDigest)

def execAttest (acc : Accessor) (s : State) : Host.Outcome State Fault Refusal := .next (cmdAttest s acc)

def cmdEndorse (s : State) (acc : Accessor) : State := secCmd s acc fun s => writeOut (endorse s)

def execEndorse (acc : Accessor) (s : State) : Host.Outcome State Fault Refusal := .next (cmdEndorse s acc)

/-! ### The service port (R428) -/

/-- An answer: OP, STATUS, SEQ, twelve bytes of 0, data. -/
def svcAnswer (s : State) (op seq : Nat) (st : Status) (data : List Byte) : State :=
  let a := leBytes 1 op ++ leBytes 1 st.code ++ leBytes 2 seq ++ leBytes 12 0 ++ data
  (s.modSec fun x => { x with lastSeq := some seq, lastAnswer := a }).emit (.service a)

/-- A request: a repeated SEQ is answered again; a BLANK part takes none (R418, R428). -/
def svcRequest (s : State) (op : Nat) (seq : BitVec 16) (act : State → Status × List Byte × State) : State :=
  if s.fuses.lifecycle = 0 then s
  else if s.sec.lastSeq = some seq.toNat then s.emit (.service s.sec.lastAnswer)
  else
    let (st, data, s) := act s
    svcAnswer s op seq.toNat st data

/-- SEC_STATUS (R441). -/
def State.secStatus (s : State) : Word :=
  pack [(0, 2, s.fuses.lifecycle), (2, 1, s.sec.bootSlot.getD 0), (3, 1, b2n (s.slotIn .trial).isSome), (4, 7, s.fuses.svn), (11, 7, s.sec.svn),
        (18, 1, b2n s.sec.recovery), (19, 1, b2n (s.bit .secStatus [] 19)), (20, 1, b2n s.sec.recoveryReq)]

/-- The value of SEC_SLOT.STATE. -/
def SlotState.code : SlotState → Nat
  | .empty => 0
  | .writing => 1
  | .verified => 2
  | .trial => 3
  | .active => 4
  | .rejected => 5

/-- SEC_SLOT (R441). -/
def State.secSlot (s : State) (i : Nat) : Word :=
  let x := s.getSlot i
  pack [(0, 3, x.state.code), (3, 7, x.svn), (10, 9, x.nblk), (19, 3, x.comps)]

/-- STATUS: SEC_STATUS and both SEC_SLOT words (the manual gives no data for it, log entry 31). -/
def execSvcStatus (seq : BitVec 16) (s : State) : Host.Outcome State Fault Refusal :=
  .next (svcRequest s 1 seq fun s => (.ok, leBytes 8 s.secStatus.toNat ++ leBytes 8 (s.secSlot 0).toNat ++ leBytes 8 (s.secSlot 1).toNat, s))

/-- FW_BEGIN (R433): a slot in TRIAL or ACTIVE, or the one booted from, is BUSY; in ROM recovery either slot is taken (R438). -/
def fwBegin (s : State) (i n : Nat) : Status × List Byte × State :=
  let st := (s.getSlot i).state
  if n = 0 ∨ 496 < n then (.rejected, [], s)
  else if !s.sec.recovery && (st == .trial || st == .active || s.sec.bootSlot == some i) then (.busy, [], s)
  else
    let s := s.modSlot i fun _ => { state := .writing }
    (.ok, [], s.modSec fun x => { x with flash := x.flash.clear (slotBase i) (496 * 65536), writing := some i, blocks := n, parts := [], partBlock := 0 })

def execFwBegin (seq : BitVec 16) (slot : BitVec 1) (blocks : Nat) (s : State) : Host.Outcome State Fault Refusal :=
  .next (svcRequest s 2 seq fun s => fwBegin s slot.toNat blocks)

/-- FW_PART (R433): with part 7 the block is programmed, and a data block's CRC is checked. -/
def fwPart (s : State) (k j : Nat) (data : List Byte) : Status × List Byte × State :=
  match s.sec.writing with
  | none => (.rejected, [], s)
  | some i =>
    if s.sec.blocks ≤ k then (.rejected, [], s)
    else
      let old := if s.sec.partBlock = k then s.sec.parts else []
      let parts := KMap.set [] old j (padTo data 8192 0)
      if j = 7 then
        let b := (List.range 8).flatMap fun p => padTo (KMap.get [] parts p) 8192 0
        let s := s.modSec fun x => { x with flash := x.flash.write (slotBase i + 65536 * k) b, parts := [], partBlock := 0 }
        if k = 0 ∨ (crc32c (b.take 65520)).toNat = leAt b 65520 4 then (.ok, [], s) else (.rejected, [], notice s .fwBlockBad srcSec)
      else (.ok, [], s.modSec fun x => { x with parts := parts, partBlock := k })

def execFwPart (seq : BitVec 16) (block : BitVec 12) (part : BitVec 3) (data : List Byte) (s : State) : Host.Outcome State Fault Refusal :=
  .next (svcRequest s 3 seq fun s => fwPart s block.toNat part.toNat data)

/-- FW_END (R433): the slot is VERIFIED, or REJECTED with a notice. -/
def fwEnd (s : State) : Status × List Byte × State :=
  match s.sec.writing with
  | none => (.rejected, [], s)
  | some i =>
    let s := s.modSec fun x => { x with writing := none, parts := [], partBlock := 0 }
    match s.fwVerify i with
    | some (h, _) => (.ok, [], s.modSlot i fun _ => FwSlot.of .verified h)
    | none => (.rejected, [], notice (s.modSlot i fun x => { x with state := .rejected }) .fwVerifyFail srcSec)

def execFwEnd (seq : BitVec 16) (s : State) : Host.Outcome State Fault Refusal := .next (svcRequest s 4 seq fwEnd)

/-- ACTIVATE in ROM recovery (R438): the slot becomes ACTIVE and the chip is reset. -/
def recoveryActivate (s : State) (seq : BitVec 16) (i : Nat) : State :=
  if (s.getSlot i).state = .verified then
    let s := match s.slotIn .active with
      | some j => s.modSlot j fun x => { x with state := .verified }
      | none => s
    softReset (svcAnswer (s.modSlot i fun x => { x with state := .active }) 5 seq.toNat .ok []) .recovery
  else svcAnswer s 5 seq.toNat .rejected []

def execSvcActivate (seq : BitVec 16) (arg : BitVec 32) (s : State) : Host.Outcome State Fault Refusal :=
  if s.sec.recovery ∧ s.fuses.lifecycle ≠ 0 ∧ s.sec.lastSeq ≠ some seq.toNat then .next (recoveryActivate s seq (arg.toNat % 2))
  else .next (svcRequest s 5 seq fun s =>
    let (st, s) := activate s arg.toNat false
    (st, [], s))

def execSvcAttest (seq : BitVec 16) (arg : BitVec 32) (nonce : List Byte) (s : State) : Host.Outcome State Fault Refusal :=
  .next (svcRequest s 6 seq fun s => attest s arg.toNat nonce s.swtDigest)

/-- RECOVER (R428): the next chip reset enters ROM recovery. In recovery it is not among the requests that are taken (R438). -/
def execRecover (seq : BitVec 16) (s : State) : Host.Outcome State Fault Refusal :=
  .next (svcRequest s 7 seq fun s => if s.sec.recovery then (.rejected, [], s) else (.ok, [], s.modSec fun x => { x with recoveryReq := true }))

end Sys2Proof.Machine
end

