-- ==== Sys2Proof/Machine/LinkRx.lean ====
section
/-! DEFINITION. What a link receives (R325 to R333, R344): the flit code, VC0 flits into the receive buffer, replays, acknowledgements, the CONTROL
flit and the time exchange, and the end of a fast retrain. -/

namespace Sys2Proof.Machine

/-! ### The flit code (R316, R325) -/

/-- The generator of RS(40,36), highest power first: the product of x + α^i for i = 0 to 3. -/
def rsGen : List Byte := [0, 1, 2, 3].foldl (fun p i => List.zipWith (· ^^^ ·) (p ++ [0]) (0 :: p.map (gfMul (gfAlpha i)))) [1]

/-- One symbol divided into the remainder. -/
def rsStep (r : List Byte) (d : Byte) : List Byte :=
  let fb := d ^^^ r.headD 0
  List.zipWith (· ^^^ ·) (r.drop 1 ++ [0]) ((rsGen.drop 1).map (gfMul fb))

/-- The flit header (R325). -/
def flitHead (seq ack vc type : Nat) (epoch : Bool) : List Byte := leBytes 4 (packN [(12, seq), (12, ack), (2, vc), (3, type), (1, b2n epoch)])

/-- The 40 symbols of a flit: header, payload, check symbols. -/
def flitOf (head payload : List Byte) : List Byte := head ++ payload ++ (head ++ payload).foldl rsStep [0, 0, 0, 0]

/-- Syndrome `j` of a flit: symbol i is the coefficient of x^(39 - i). -/
def syndrome (f : List Byte) (j : Nat) : Byte := f.foldl (fun a c => gfMul a (gfAlpha j) ^^^ c) 0

/-- The exponents below 40 whose power of α passes a test. -/
def rsRoots (p : Byte → Bool) : List Nat := (List.range 40).filter fun j => p (gfAlpha j)

/-- A symbol changed, by its exponent. -/
def flipAt (f : List Byte) (j : Nat) (e : Byte) : List Byte := f.modify (39 - j) (· ^^^ e)

/-- The decoder (R325): the flit and the number of corrected symbols, none where more than two are wrong. -/
def rsDecode (f : List Byte) : Option (List Byte × Nat) :=
  let s0 := syndrome f 0
  let s1 := syndrome f 1
  let s2 := syndrome f 2
  let s3 := syndrome f 3
  if s0 = 0 ∧ s1 = 0 ∧ s2 = 0 ∧ s3 = 0 then some (f, 0)
  else
    let x := gfMul s1 (gfInv s0)
    let det := gfMul s1 s1 ^^^ gfMul s0 s2
    if s0 ≠ 0 ∧ s2 = gfMul s1 x ∧ s3 = gfMul s2 x then
      match rsRoots (· == x) with
      | [j] => some (flipAt f j s0, 1)
      | _ => none
    else if det = 0 then none
    else
      let a := gfMul (gfMul s1 s2 ^^^ gfMul s0 s3) (gfInv det)
      let b := gfMul (gfMul s1 s3 ^^^ gfMul s2 s2) (gfInv det)
      match rsRoots fun y => gfMul y y ^^^ gfMul a y ^^^ b == 0 with
      | [i, j] =>
        let e := gfMul (s1 ^^^ gfMul s0 (gfAlpha j)) (gfInv (gfAlpha i ^^^ gfAlpha j))
        some (flipAt (flipAt f i e) j (s0 ^^^ e), 2)
      | _ => none

/-! ### Positions and acknowledgement (R327, R333) -/

/-- How far a frame lies behind the one being received. -/
def Link.behindBy (x : Link) (fn : Nat) : Nat := (x.rxFn + 4096 - fn % 4096) % 4096

/-- The oldest frame with a missing position among some positions. -/
def Link.oldestOf (x : Link) (ps : List (Nat × Nat)) : Option Nat :=
  ps.foldl (fun b p => match b with
    | none => some p.1
    | some f => if x.behindBy f < x.behindBy p.1 then some p.1 else some f) none

/-- The sequenced slots of a frame (R327). -/
def sequenced : List Nat := List.range 56 ++ [60, 61]

/-- Every position of the frame being received, and of every earlier one, has been received. -/
def Link.complete (x : Link) : Bool := x.missing.isEmpty && sequenced.all x.rxSeen.contains

/-- The ACK that the receiver sends (R327). -/
def Link.ack (x : Link) : Nat := if x.complete then x.rxFn else ((x.oldestOf x.missing).getD x.rxFn + 4095) % 4096

/-- The positions of frames from the one being received up to frame `fn` that have not arrived. -/
def Link.unseen (x : Link) (fn : Nat) : List (Nat × Nat) :=
  let n := (fn + 4096 - x.rxFn) % 4096
  ((sequenced.filter fun k => !x.rxSeen.contains k).map fun k => (x.rxFn, k))
    ++ (List.range (n - 1)).flatMap fun i => sequenced.map fun k => ((x.rxFn + 1 + i) % 4096, k)

/-- The frame that arrives is frame `fn` (R327, R330): where it is a later one than any before it, what has not come of the earlier ones is
missing. -/
def Link.inFrame (x : Link) (fn : Nat) : Link :=
  let x := { x with rxCur := fn }
  if fnGe fn x.rxFn ∧ fn ≠ x.rxFn then { x with missing := x.missing ++ x.unseen fn, rxFn := fn, rxSeen := [] } else x

/-- A slot of a frame arrives: one that lies before the last belongs to the next frame. -/
def Link.atSlot (x : Link) (slot : Nat) : Link :=
  let y := if slot < x.rxNext then x.inFrame ((x.rxCur + 1) % 4096) else x
  { y with rxNext := slot + 1 }

/-- The receiver holds a position, or a later one has told that it is missing. -/
def Link.has (x : Link) (fn slot : Nat) : Bool := !x.missing.contains (fn, slot) && (fn != x.rxFn || x.rxSeen.contains slot)

/-- A position is held from now on. -/
def Link.take (x : Link) (fn slot : Nat) : Link :=
  { x with missing := x.missing.erase (fn, slot), rxSeen := if fn = x.rxFn ∧ !x.rxSeen.contains slot then slot :: x.rxSeen else x.rxSeen }

/-- A sequenced position of the frame that arrives is uncorrectable: it is missing unless it is held (R330). -/
def Link.spoil (x : Link) (slot : Nat) : Link :=
  if x.rxCur = x.rxFn ∧ !x.rxSeen.contains slot then { x with rxSeen := slot :: x.rxSeen, missing := x.missing ++ [(x.rxFn, slot)] } else x

/-- An ACK from the far end frees the frames it covers (R334), and their SENDs and remote SIGNALs hear of it (R102). -/
def linkAck (s : State) (l ack : Nat) : State :=
  let x := s.getLink l
  let gone := x.sent.filter fun f => fnGe ack f.fn
  let s := s.modLink l fun x => { x with sent := x.sent.filter fun f => !fnGe ack f.fn, goback := x.goback.filter fun f => !fnGe ack f }
  s.each (gone.flatMap SentFrame.flits) fun s w => if w.vc = 0 ∧ w.tile < 576 then ackFlit s w.tile w.mop else s

/-- Corrected symbols are counted, and too many in a window of LNK_DOWN_CTL take the link DOWN (R341). -/
def countCe (s : State) (l n : Nat) : State :=
  if n = 0 then s
  else
    let x := s.getLink l
    let window := 1250000 * max 1 (s.fld .lnkDownCtl [l] 0 16)
    let fresh := decide (window ≤ (s.time.mt - x.ceFrom).toNat)
    let seen := (if fresh then 0 else x.ceSeen) + n
    let s := (s.addFld .lnkCe [l] 0 32 n).modLink l fun x => { x with ceSeen := seen, ceFrom := if fresh then s.time.mt else x.ceFrom }
    if s.fld .lnkDownCtl [l] 16 32 < seen then goDown s l 2 else s

/-- An uncorrectable flit is counted, and eight in a row lose the alignment (R340). -/
def countBad (s : State) (l : Nat) : State :=
  let s := (s.addFld .lnkCe [l] 32 32 1).modLink l fun x => { x with badRun := x.badRun + 1 }
  if 8 ≤ (s.getLink l).badRun then startFast s l 4 true else s

/-! ### VC0 flits (R300, R326) -/

/-- The context whose table takes a VC0 flit of a slot (R300). -/
def State.vc0Ctx (s : State) (l slot : Nat) : Option Nat :=
  match s.linkHolder l with
  | some k =>
    let c := s.getCtx k
    match c.image with
    | some im =>
      if (im.slot l true slot).use = 1 ∧ c.plan.active ∧ s.bound k l then some k else none
    | none => none
  | none => none

/-- Flits of a slot that no earlier missing position holds back take their plan slots in order (R326). -/
def drainSlot (slot : Nat) : Nat → Link → Link
  | 0, x => x
  | n + 1, x =>
    let q := KMap.get [] x.rxWait slot
    match q with
    | [] => x
    | w :: r =>
      if x.missing.any fun m => m.2 == slot && fnGe w.fn m.1 then x
      else
        let g := 64 * KMap.get 0 x.rxFrames slot + slot
        drainSlot slot n { x with
          rxWait := KMap.set [] x.rxWait slot r, rxFrames := KMap.upd 0 x.rxFrames slot (· + 1),
          buf := KMap.set { slot := 64 } x.buf g { payload := w.payload, signal := w.signal, slot := slot, at_ := w.at_, tick := w.tick } }

/-- Whatever waits in a slot and need not wait any longer takes its plan slot. -/
def drainRx (s : State) (l slot : Nat) : State := s.modLink l fun x => drainSlot slot (KMap.get [] x.rxWait slot).length x

/-- A DATA or EMPTY flit that a slot carries enters the receive buffer under R300, or is counted as SLOT. -/
def takeVc0 (s : State) (l slot fn type : Nat) (payload : List Byte) (signal : Option (Nat × BitVec 32)) : State :=
  match s.vc0Ctx l slot with
  | none => s.addFld .netDrop1 [] 32 32 1
  | some k =>
    let w : RxWait := { fn := fn, payload := if type = 1 ∧ signal.isNone then some payload else none, signal := if type = 1 then signal else none,
                        at_ := (s.getCtx k).plan.pcy.toNat, tick := s.time.refTicks }
    s.modLink l fun x => { x with rxWait := KMap.upd [] x.rxWait slot (insertBy (fun a b => fnGe b.fn a.fn) w) }

/-! ### Flits of VC1 to VC3 (R298, R333) -/

/-- A missing position may hold a flit of a channel (log entry 74): slot 61 one of VC3, slot 60 one of VC2, slots 0 to 55 one of VC1 or a resent one
of VC2. -/
def mayCarry (vc slot : Nat) : Bool := if slot = 61 then vc == 3 else if slot = 60 then vc == 2 else vc != 3

/-- Position (fn, slot) lies before another. -/
def posBefore (fn slot fn' slot' : Nat) : Bool := if fn = fn' then decide (slot < slot') else fnGe fn' fn

/-- Flits of a channel that wait behind no earlier missing position enter the receive buffer, in position order. -/
def drainVc (vc : Nat) : Nat → Link → Link
  | 0, x => x
  | n + 1, x =>
    match KMap.get [] x.rxHeld vc with
    | [] => x
    | f :: r =>
      if x.missing.any fun m => mayCarry vc m.2 && posBefore m.1 m.2 f.fn f.slot then x
      else drainVc vc n { x with rxHeld := KMap.set [] x.rxHeld vc r, rxq := KMap.upd [] x.rxq vc fun q => q ++ [f.flit] }

/-- Whatever waits in the channels and need not wait any longer enters their buffers. -/
def drainVcs (x : Link) : Link := [1, 2, 3].foldl (fun x vc => drainVc vc (KMap.get [] x.rxHeld vc).length x) x

/-- A flit of VC1 to VC3 arrives in a position. -/
def takePacketFlit (s : State) (l vc slot fn : Nat) (epoch first : Bool) (payload : List Byte) : State :=
  let f : RxFlit := { fn := fn, slot := slot, flit := { epoch := epoch, first := first, payload := payload, from_ := some l } }
  s.modLink l fun x => { x with rxHeld := KMap.upd [] x.rxHeld vc (insertBy (fun a b => posBefore a.fn a.slot b.fn b.slot) f) }

/-- What a flit with header `h` carries, by its original TYPE: VC0 data, a flit of a packet, or nothing. It fills its position, and what waited for
it goes on. -/
def takeFlitAt (s : State) (l slot fn h type : Nat) (payload : List Byte) (signal : Option (Nat × BitVec 32)) : State :=
  let s := s.modLink l fun x => x.take fn slot
  let vc := fieldN h 24 2
  let s :=
    if type = 1 ∨ type = 2 then takeVc0 s l slot fn type payload signal
    else if (type = 3 ∨ type = 4) ∧ vc ≠ 0 then takePacketFlit s l vc slot fn (fieldN h 29 1 == 1) (type == 3) payload
    else s
  (drainRx s l slot).modLink l drainVcs

/-! ### Flits that arrive (R325, R326, R330, R331, R333) -/

/-- The TYPEs that a slot allows (R325). -/
def typeOk (slot type : Nat) : Bool :=
  if slot < 56 then decide (type ≤ 4)
  else if slot < 60 then decide (type = 0 ∨ 6 ≤ type)
  else if slot < 62 then decide (type = 0 ∨ type = 3 ∨ type = 4)
  else type == 5

/-- The decoder of a slot: a TYPE that the slot does not allow counts as uncorrectable. -/
def slotDecode (slot : Nat) (flit : List Byte) : Option (List Byte × Nat) :=
  match rsDecode flit with
  | some (f, n) => if typeOk slot (fieldN (leAt f 0 4) 26 3) then some (f, n) else none
  | none => none

/-- The link carries frames. -/
def Link.framed (x : Link) : Bool := x.state == .up || x.state == .degraded

/-- A flit arrives in its own sequenced slot. -/
def flitReceive (s : State) (l slot : Nat) (flit : List Byte) (signal : Option (Nat × BitVec 32)) : State :=
  if !(s.getLink l).framed ∨ !sequenced.contains slot then s
  else
    let s := s.modLink l fun x => x.atSlot slot
    match slotDecode slot flit with
    | none => countBad (s.modLink l fun x => x.spoil slot) l
    | some (f, n) =>
      let h := leAt f 0 4
      let fn := fieldN h 0 12
      let s := linkAck (s.modLink l fun x => { x with badRun := 0 }.inFrame fn) l (fieldN h 12 12)
      let s := if (s.getLink l).has fn slot then s else takeFlitAt s l slot fn h (fieldN h 26 3) (slice f 4 32) signal
      countCe s l n

def execVc0FlitReceive (l : LinkIx) (slot : Fin 62) (flit : List Byte) (signal : Option (BitVec 6 × BitVec 32)) (s : State) :
    Host.Outcome State Fault Refusal :=
  .next (flitReceive s l.val slot.val flit (signal.map fun v => (v.1.toNat, v.2)))

/-- The TYPE that a replayed flit had (R325). -/
def originalType (vc type : Nat) : Nat := if type = 0 then 0 else if vc = 0 then type - 5 else 10 - type

/-- A replay (R331, R333): it fills the missing position that RMAP and its SEQ name, or is a duplicate. -/
def replayReceive (s : State) (l orig : Nat) (flit : List Byte) (signal : Option (Nat × BitVec 32)) : State :=
  if !(s.getLink l).framed ∨ orig = 63 then s
  else
    match slotDecode 56 flit with
    | none => countBad s l
    | some (f, n) =>
      let h := leAt f 0 4
      let fn := fieldN h 0 12
      let s := linkAck (s.modLink l fun x => { x with badRun := 0 }) l (fieldN h 12 12)
      let s := if (s.getLink l).missing.contains (fn, orig)
        then takeFlitAt s l orig fn h (originalType (fieldN h 24 2) (fieldN h 26 3)) (slice f 4 32) signal else s
      countCe s l n

def execReplayFlitReceive (l : LinkIx) (orig : BitVec 6) (flit : List Byte) (signal : Option (BitVec 6 × BitVec 32)) (s : State) :
    Host.Outcome State Fault Refusal :=
  .next (replayReceive s l.val orig.toNat flit (signal.map fun v => (v.1.toNat, v.2)))

/-! ### The CONTROL flit (R328) -/

/-- The neighbour's progress stamp (R53), taken where the partition tag is that of the link's holder. A neighbour that has sent ENDED stays so for
the rest of the plan (R54, R59). -/
def takeStamp (s : State) (l stamp part gen : Nat) : State :=
  match s.linkHolder l with
  | none => s
  | some k =>
    let e := (s.getCtx k).part
    if e.state ≠ .free ∧ e.part = part ∧ e.gen = gen then
      s.modPlan k fun p => { p with stamps := KMap.upd {} p.stamps l fun (t : Stamp) =>
        { value := if fieldN stamp 48 1 = 0 then -1 else t.value + signedOf 48 (unsignedOf 48 ((stamp % 2 ^ 48 : Nat) - t.value)),
          ended := t.ended || fieldN stamp 49 1 == 1 } }
    else s

/-- A replay that is due starts a fast retrain instead where the position has been replayed LIMIT times (R332). -/
def State.atLimit (s : State) (l : Nat) (f : SentFrame) (slot : Nat) : Bool :=
  decide (max 1 (s.fld .lnkReplayCtl [l] 0 4) ≤ KMap.get 0 f.tries slot)

/-- A NAK of a position (R331): queued for the next free replay slot; one that repeats a NAK which has been answered within 1.5 round trips is
the same NAK (R330). -/
def takeNak (s : State) (l fn slot : Nat) : State :=
  let x := s.getLink l
  match x.sent.find? fun f => f.fn == fn with
  | none => s
  | some f =>
    let last := KMap.get 0 f.last slot
    if (x.nakQ.any fun e => e.1 == fn && e.2.1 == slot) ∨ (last ≠ 0 ∧ !s.rttPassed l (last - 1)) then s
    else if s.atLimit l f slot then startFast s l 1 true
    else s.modLink l fun x => { x with nakQ := x.nakQ ++ [(fn, slot, true)] }

/-- The chip's place in the time tree after an advertisement (R43, R44): a root that hears of a lower root gives way. -/
def hearRoot (s : State) (l : Nat) : State :=
  let lower : Bool := match (s.getLink l).advRoot with
    | some r => decide (coordKey r < coordKey s.self)
    | none => false
  if s.rootEn ∧ (s.getLink l).isUp ∧ (s.getLink l).advDepth < 63 ∧ lower then
    (notice (s.setBit .timRootCtl [] 0 false) .timeRootConflict srcTim).chooseParent
  else s.chooseParent

/-- EFF_ASYM of a link in ps (R39, R69). -/
def State.effAsym (s : State) (l : Nat) : Int :=
  clampI (-2000) 2000 (KMap.get 0 s.fuses.asym l + signedOf 16 (s.fld .timAsym [l] 16 16))

/-- An offset from the parent in ps (R45, R47): an UNSYNCED chip steps once; else MT slews. -/
def timeTake (s : State) (off : Int) : State :=
  let ticks := rneDiv off 800
  let s := s.setFld .timOffset [] 0 32 (unsignedOf 32 (clampI (-2147483648) 2147483647 off))
  let t := s.time
  match t.sync with
  | .unsynced => { s with time := { t with mt := t.mt + BitVec.ofInt 64 ticks, sync := .locked, everLock := true, slew := 0 } }
  | .locked =>
    let s := if 51200 < off ∨ off < -51200 then notice s .timeDeviation srcTim else s
    { s with time := { s.time with slew := ticks } }
  | .holdover => { s with time := { t with sync := .locked, slew := ticks } }

/-- A completed time exchange (R344), in 1/16 ticks of 50 ps: the round trip, and the parent's offset. -/
def exchange (s : State) (l fn echoFn turn : Nat) : State :=
  let x := s.getLink l
  match x.far0, x.txTimes.find? fun e => e.1 == echoFn with
  | some (f0, t4, t3), some (_, t1) =>
    if (f0 + 1) % 4096 = fn then
      let rtt := (signedOf 48 (unsignedOf 48 ((t4 : Int) - t1)) - turn).toNat
      let off := 50 * signedOf 48 (unsignedOf 48 ((t3 : Int) - t4)) + 25 * rtt + s.effAsym l
      let s := s.modLink l fun x => { x with rtts := (x.rtts ++ [50 * rtt]).drop (x.rtts.length - 15) }
      if s.time.parent = some l then timeTake s off else s
    else s
  | _, _ => s

/-- The SUB field by FN mod 4 (R328). -/
def takeSub (s : State) (l fn sub arrival : Nat) : State :=
  match fn % 4 with
  | 0 => hearRoot (s.modLink l fun x => { x with far0 := some (fn, arrival, sub % 2 ^ 48), advDepth := fieldN sub 48 6 }) l
  | 1 => exchange s l fn (fieldN sub 0 12) (fieldN sub 12 24)
  | 2 => s.modLink l fun x =>
      let want := (fieldN sub 0 6, fieldN sub 6 6)
      let move := (fieldN sub 12 12, fieldN sub 24 6, fieldN sub 30 6)
      { x with
        farReq := if want.1 < 32 ∧ (want.2 = 32 ∨ want.2 = 33) ∧ laneOf x.tx want.1 ≠ some want.2 then some want else none,
        farSat := if move.2.1 < 32 ∧ (move.2.2 = 32 ∨ move.2.2 = 33) ∧ laneOf x.rx move.2.1 ≠ some move.2.2 then some move else x.farSat }
  | _ => hearRoot (s.modLink l fun x => { x with advRoot := some (fieldN sub 18 15) }) l

/-- A CONTROL flit of frame `fn` (R328): what it says of the neighbour's context, credits, NAKs, time and lanes; a retrain that the far end asks
for. -/
def controlReceive (s : State) (l fn ack p arrival : Nat) : State :=
  let s := linkAck s l ack
  let s := takeStamp s l (fieldN p 0 64) (fieldN p 64 16) (fieldN p 80 8)
  let s := s.modLink l fun x => ({ x with
    badRun := 0, farPart := fieldN p 64 16, farGen := fieldN p 80 8,
    credited := KMap.set 0 (KMap.set 0 (KMap.set 0 x.credited 1 (fieldN p 88 14)) 2 (fieldN p 102 14)) 3 (fieldN p 116 14) }).inFrame fn
  let naks := if fieldN p 142 3 ≤ 4 then fieldN p 142 3 else 0
  let s := s.each (List.range naks) fun s i => takeNak s l (fieldN p 130 12) (fieldN p (145 + 6 * i) 6)
  let s := takeSub s l fn (fieldN p 195 61) arrival
  let req := fieldN p 193 2
  if req = 1 then startFast s l 6 false else if req = 2 then followFull s l else s

/-- The flit of slot 62 arrives: an uncorrectable one is counted and ignored. -/
def controlFlit (s : State) (l : Nat) (flit : List Byte) (arrival : Nat) : State :=
  if !(s.getLink l).framed then s
  else
    let s := s.modLink l fun x => x.atSlot 62
    match slotDecode 62 flit with
    | none => countBad s l
    | some (f, n) =>
      let h := leAt f 0 4
      countCe (controlReceive s l (fieldN h 0 12) (fieldN h 12 12) (leAt f 4 32) arrival) l n

def execLinkControlFlit (l : LinkIx) (flit : List Byte) (arrival : Nat) (s : State) : Host.Outcome State Fault Refusal :=
  .next (controlFlit s l.val flit arrival)

/-! ### The end of a fast retrain (R324) -/

/-- Each end goes back to the frame after the far end's ACK; lanes that failed ask for their spares, and a full training that the end still needs
starts (R340). -/
def fastComplete (s : State) (l : Nat) (rxGood txGood : BitVec 34) (farAck : Nat) : State :=
  if (s.getLink l).state = .retrain then
    let s := linkAck s l farAck
    let s := s.modLink l fun x => { x with
      goback := x.sent.map SentFrame.fn, nakQ := [], nakAt := [], rxCur := (x.ack + 1) % 4096, rxNext := 0,
      sent := x.sent.map fun f => { f with tries := [], last := [], at_ := s.mtN } }
    let s := nextFailing (comeUp (applyTaps s l) l rxGood txGood true) l
    if (s.getLink l).wantFull then startFull s l else s
  else s

def execFastRetrainComplete (l : LinkIx) (rxGood txGood : BitVec 34) (farAck : BitVec 12) (s : State) : Host.Outcome State Fault Refusal :=
  .next (fastComplete s l.val rxGood txGood farAck.toNat)

end Sys2Proof.Machine
end

