-- ==== Sys2Proof/Machine/LinkTx.lean ====
section
/-! DEFINITION. What a link sends (R296 to R299, R325 to R337): the frame of 64 slots, replays and go-back, the CONTROL flit and the lane check, and
the replay timer and the stall of the replay buffer. -/

namespace Sys2Proof.Machine

/-! ### Packet flits (R299, R305, R334, R336) -/

/-- The receive buffer of a channel in flits (R298). -/
def vcBuffer (vc : Nat) : Nat := if vc = 1 then 8192 else if vc = 2 then 4096 else 2048

/-- A frame that is being built: the link, the flits so far, and those that have left the receive buffers of links, by channel. -/
structure Building where
  link  : Link
  wires : List Wire := []
  left  : List (Nat × TxFlit) := []

/-- A channel may send a flit: it has a credit (R336), and the replay buffer's share is not full (R334). -/
def Building.room (b : Building) (vc : Nat) : Bool :=
  decide ((KMap.get 0 b.link.sentCnt vc + 16384 - KMap.get 0 b.link.credited vc) % 16384 < vcBuffer vc)
    && decide (sumN (b.link.sent.map fun f => countP (fun w => w.vc != 0) f.flits) + countP (fun w => w.vc != 0) b.wires < 8192)

/-- A flit of a channel put into a slot. -/
def Building.put (b : Building) (slot vc : Nat) (f : TxFlit) (x : Link) : Building :=
  { link := { x with sentCnt := KMap.upd 0 x.sentCnt vc fun n => (n + 1) % 16384 }, left := b.left ++ [(vc, f)],
    wires := b.wires ++ [{ slot := slot, vc := vc, type := if f.first then 3 else 4, epoch := f.epoch, payload := f.payload }] }

/-- The next flit of a channel, where it may go. -/
def Building.vc (b : Building) (slot vc : Nat) : Building :=
  match KMap.get [] b.link.vcq vc with
  | f :: r => if b.room vc then b.put slot vc f { b.link with vcq := KMap.set [] b.link.vcq vc r } else b
  | [] => b

/-- A packet of VC2 is under way. -/
def Link.midPacket (x : Link) : Bool := match KMap.get [] x.vcq 2 with
  | f :: _ => !f.first
  | [] => false

/-- The next flit of a resent packet (R305), between the packets of VC2; none where there is none or it may not go. -/
def Building.resend (b : Building) (slot : Nat) : Option Building :=
  match b.link.resendQ with
  | f :: r => if !b.link.midPacket && b.room 2 then some (b.put slot 2 f { b.link with resendQ := r }) else none
  | [] => none

/-- A slot of 0 to 55 (R296, R299, R326): the plan flit that waits for it; else a resent flit where the entry has USE 0; else VC1. `use` is none
where no context holds the link. -/
def Building.low (b : Building) (slot : Nat) (use : Option Nat) : Building :=
  match KMap.get [] b.link.txPlan slot with
  | p :: r =>
    { b with
      link := { b.link with txPlan := KMap.set [] b.link.txPlan slot r },
      wires := b.wires ++ [{ slot := slot, type := if p.payload.isSome ∨ p.signal.isSome then 1 else 2, payload := p.payload.getD [],
                             signal := p.signal, tile := p.tile, mop := p.mop }] }
  | [] => if use = some 0 then (b.resend slot).getD (b.vc slot 1) else b.vc slot 1

/-- The sequenced slots of a new frame; a DEGRADED link carries VC2 and VC3 alone (R339). -/
def Building.fill (b : Building) (use : Nat → Option Nat) : Building :=
  let b := if b.link.state = .up then (List.range 56).foldl (fun b k => b.low k (use k)) b else b
  ((b.resend 60).getD (b.vc 60 2)).vc 61 3

/-! ### Replays (R331, R332) -/

/-- A replay in a slot of 56 to 59: the frame, the original slot, and the flit, none for an IDLE position. -/
structure Replay where
  fn   : Nat
  orig : Nat
  wire : Option Wire

/-- The replays of a frame: the first four positions that wait and whose frames are not acknowledged; the rest wait on. -/
def Link.replays (x : Link) : List Replay × List (Nat × Nat × Bool) :=
  let live := x.nakQ.filter fun e => x.sent.any fun f => f.fn == e.1
  ((live.take 4).map fun e => { fn := e.1, orig := e.2.1, wire := (x.sent.find? fun f => f.fn == e.1).bind fun f => f.flits.find? fun w => w.slot == e.2.1 },
    live.drop 4)

/-- TYPE of a replay (R325). -/
def replayType (w : Wire) : Nat := if w.type = 1 ∨ w.type = 4 then 6 else 7

/-- A replay counted against its frame. -/
def SentFrame.replayed (f : SentFrame) (r : Replay) (mt : Nat) : SentFrame :=
  if f.fn = r.fn then { f with tries := KMap.upd 0 f.tries r.orig (· + 1), last := KMap.set 0 f.last r.orig (mt + 1) } else f

/-! ### The CONTROL flit (R328) -/

/-- The positions that the next CONTROL flit names, and the times at which positions were first named (R330): the oldest frame with positions that are
missing and have not waited 1.5 round trips in vain; all of them again when the list is exhausted. -/
def State.pickNaks (s : State) (l : Nat) : List (Nat × Nat) × List (Nat × Nat × Nat) :=
  let x := s.getLink l
  let at_ := x.nakAt.filter fun e => x.missing.contains (e.1, e.2.1)
  let spent (p : Nat × Nat) : Bool := at_.any fun e => e.1 == p.1 && e.2.1 == p.2 && s.rttPassed l e.2.2
  let open_ := x.missing.filter fun p => !spent p
  let again := open_.isEmpty
  let pool := if again then x.missing else open_
  let at_ := if again then [] else at_
  match x.oldestOf pool with
  | none => ([], at_)
  | some f =>
    let now := (sortBy (fun a b => decide (a.2 ≤ b.2)) (pool.filter fun p => p.1 == f)).take 4
    (now, at_ ++ (now.filter fun p => !at_.any fun e => e.1 == p.1 && e.2.1 == p.2).map fun p => (p.1, p.2, s.mtN))

/-- The progress stamp that a link carries (R53): the last cycle completed whose flits, and those of every earlier cycle, have been sent. -/
def State.stampOf (s : State) (l : Nat) : Nat :=
  match s.linkHolder l with
  | none => 0
  | some k =>
    let c := s.getCtx k
    let x := s.getLink l
    let waiting := x.txPlan.flatMap (fun e => e.2.map PlanFlit.g) ++ x.txDue
    let done := waiting.foldl (fun (n : Nat) g => min n (slotCycle x.half g)) c.plan.pcy.toNat
    packN [(48, done - 1), (1, b2n (decide (0 < done))), (1, b2n (c.plan.state == .ended))]

/-- PART and GEN of the context that holds the link. -/
def State.linkTag (s : State) (l : Nat) : Nat × Nat :=
  match s.linkHolder l with
  | some k => if (s.getCtx k).part.state = .free then (0, 0) else ((s.getCtx k).part.part, (s.getCtx k).part.gen)
  | none => (0, 0)

/-- The SUB field by FN mod 4 (R328); an exchange that is not open is named by a frame number that no such flit has. -/
def State.subOf (s : State) (l fn txTime : Nat) : Nat :=
  let x := s.getLink l
  match fn % 4 with
  | 0 => packN [(48, txTime), (6, s.time.depth)]
  | 1 => packN [(12, (x.echo.getD (4095, 0)).1), (24, (x.echo.getD (4095, 0)).2)]
  | 2 =>
    let want := x.sreq.getD (63, 0)
    let move := x.sat.getD (0, 63, 0)
    packN [(6, want.1), (6, want.2), (12, move.1), (6, move.2.1), (6, move.2.2), (2, x.spares), (1, b2n x.half)]
  | _ => packN [(15, s.self), (3, l), (15, s.time.rootCoord)]

/-- The payload of the CONTROL flit (R328). -/
def State.control (s : State) (l fn txTime : Nat) (naks : List (Nat × Nat)) (rs : List Replay) : Nat :=
  let x := s.getLink l
  let tag := s.linkTag l
  packN ([(64, s.stampOf l), (16, tag.1), (8, tag.2), (14, KMap.get 0 x.freed 1), (14, KMap.get 0 x.freed 2), (14, KMap.get 0 x.freed 3),
      (12, (naks.map Prod.fst).headD 0), (3, naks.length)]
    ++ ((List.range 4).map fun i => (6, ((naks.map Prod.snd)[i]?).getD 0)) ++ ((List.range 4).map fun i => (6, ((rs.map Replay.orig)[i]?).getD 63))
    ++ [(2, 0), (61, s.subOf l fn txTime)])

/-! ### The frame -/

/-- A flit's payload: what the manual leaves open is filler. -/
def Wire.fill (w : Wire) (ctr slot : Nat) : List Byte := if w.signal.isSome ∨ w.type = 0 then padTo (Config.filler ctr slot) 32 0 else padTo w.payload 32 0

/-- The bytes of a slot of 0 to 61. -/
def slotBytes (fn ack ctr : Nat) (wires : List Wire) (rs : List Replay) (slot : Nat) : List Byte :=
  let idle : Wire := { slot := slot }
  if 56 ≤ slot ∧ slot < 60 then
    match rs[slot - 56]? with
    | some r =>
      let w := r.wire.getD idle
      flitOf (flitHead r.fn ack w.vc (if r.wire.isSome then replayType w else 0) w.epoch) (w.fill ctr slot)
    | none => flitOf (flitHead fn ack 0 0 false) (idle.fill ctr slot)
  else
    let w := (wires.find? fun w => w.slot == slot).getD idle
    flitOf (flitHead fn ack w.vc w.type w.epoch) (w.fill ctr slot)

/-- The 64 slots (R325, R328, R329): slot 63 holds the parity of every bit over slots 0 to 62. -/
def frameBytes (fn ack ctr : Nat) (wires : List Wire) (rs : List Replay) (control : Nat) : List (List Byte) :=
  let fs := (List.range 62).map (slotBytes fn ack ctr wires rs) ++ [flitOf (flitHead fn ack 0 5 false) (leBytes 32 control)]
  fs ++ [fs.foldl (List.zipWith (· ^^^ ·)) (List.replicate 40 0)]

/-- The increments that flits of a frame carry. -/
def frameSignals (wires : List Wire) (rs : List Replay) : List (Nat × Nat × BitVec 32) :=
  (wires.filterMap fun w => w.signal.map fun v => (w.slot, v.1, v.2))
    ++ rs.zipIdx.filterMap fun (r, i) => (r.wire.bind Wire.signal).map fun v => (56 + i, v.1, v.2)

/-- The oldest frame that is not acknowledged lies 1,024 frames behind (R334). -/
def Link.stalled (x : Link) : Bool := x.sent.any fun f => decide (1024 ≤ (x.txFn + 4096 - f.fn) % 4096)

/-- USE of the transmit entries of a link's holder. -/
def State.txUse (s : State) (l k : Nat) : Option Nat :=
  match s.linkHolder l with
  | none => none
  | some c => some (match (s.getCtx c).image with
    | some im => (im.slot l false k).use
    | none => 0)

/-- The sending side finds a flit that its code cannot correct, in the transmit tree or in the replay buffer: L1 against the context whose flit it is,
while a packet of VC1 to VC3 is lost (R301, R335). -/
def sendUe (s : State) (l : Nat) (ws : List Wire) : State :=
  match s.linkHolder l with
  | some k => if ws.any fun w => w.vc == 0 then against s .linkDataUe (srcLnk l) k l else s
  | none => s

/-- A frame is sent (R325 to R331): after a fast retrain first the frames of the go-back as they were, then new ones. `bad` are the slots whose
flit is found uncorrectable: none of these is sent, and the position carries IDLE (log entry 113). -/
def frameSend (s : State) (l : Nat) (bad : List Nat) : State :=
  let x := s.getLink l
  if !x.framed then s
  else if x.goback.isEmpty ∧ x.stalled then startFast s l 2 true
  else
    let (w, s) := s.draw
    let ctr := s.freeCtr
    let fn := x.goback.headD x.txFn
    let txTime := 16 * s.mtN + w.toNat % 16
    let s := s.modLink l fun x =>
      let x := if fn % 4 = 2 ∧ x.sat.isNone then { x with sat := x.farReq.map fun r => ((fn + 16) % 4096, r.1, r.2) } else x
      if fn % 4 = 0 then { x with txTimes := (x.txTimes ++ [(fn, txTime)]).drop (x.txTimes.length - 1023),
                                  echo := x.far0.map fun e => (e.1, txTime - e.2.1) } else x
    let (naks, nakAt) := s.pickNaks l
    let back := x.goback != []
    let (rs, rest) := if back then ([], x.nakQ) else x.replays
    let b : Building := if back then { link := s.getLink l, wires := ((x.sent.find? fun f => f.fn == fn).map SentFrame.flits).getD [] }
      else Building.fill { link := s.getLink l } (s.txUse l)
    let spoiled (i : Nat) (r : Replay) : Bool := r.wire.isSome && bad.contains (56 + i)
    let lost := (b.wires.filter fun w => bad.contains w.slot) ++ rs.zipIdx.filterMap fun (r, i) => if spoiled i r then r.wire else none
    let wires := b.wires.filter fun w => !bad.contains w.slot
    let gone := (rs.zipIdx.filter fun (r, i) => spoiled i r).map Prod.fst
    let rs := rs.zipIdx.map fun (r, i) => if spoiled i r then { r with wire := none } else r
    let control := s.control l fn txTime naks rs
    let replayed := countP (fun e => e.2.2) ((x.nakQ.filter fun e => x.sent.any fun f => f.fn == e.1).take rs.length)
    let s := s.modLink l fun _ =>
      let keep (f : SentFrame) : SentFrame :=
        { f with flits := if back && f.fn == fn then wires else f.flits.filter fun w => !gone.any fun r => r.fn == f.fn && r.orig == w.slot }
      let y := { b.link with nakQ := rest, nakAt := nakAt, goback := b.link.goback.drop 1,
                             sent := b.link.sent.map fun f => rs.foldl (fun f r => f.replayed r s.mtN) (keep f) }
      if back then y else { y with txFn := (fn + 1) % 4096, sent := y.sent ++ [{ fn := fn, flits := wires, at_ := s.mtN }] }
    let s := s.each b.left fun s e => s.freeFlits e.1 [e.2]
    let s := if replayed = 0 then s else s.addFld .lnkReplays [l] 0 32 replayed
    sendUe (s.emit (.frame l fn (frameBytes fn (s.getLink l).ack ctr wires rs control) (frameSignals wires rs))) l lost

def execFrameSend (l : LinkIx) (bad : List Nat) (s : State) : Host.Outcome State Fault Refusal := .next (frameSend s l.val bad)

/-! ### Timers (R332, R334) -/

/-- A frame's replay timer expires (R332): every position is replayed, or, where one has been replayed LIMIT times, the link retrains. -/
def replayTimer (s : State) (l fn : Nat) : State :=
  let x := s.getLink l
  match x.sent.find? fun f => f.fn == fn with
  | none => s
  | some f =>
    let mult := max 9 (s.fld .lnkReplayCtl [l] 4 8)
    if (x.state = .up ∨ x.state = .degraded) ∧ mult * rttPs x ≤ 8 * 800 * (s.mtN - f.at_) then
      let s := s.addFld .lnkReplays [l] 32 32 1
      if sequenced.any fun k => s.atLimit l f k then startFast s l 1 true
      else s.modLink l fun x => { x with
        nakQ := x.nakQ ++ sequenced.map fun k => (fn, k, false),
        sent := x.sent.map fun g => if g.fn = fn then { g with at_ := s.mtN } else g }
    else s

def execReplayTimerExpiry (l : LinkIx) (fn : BitVec 12) (s : State) : Host.Outcome State Fault Refusal := .next (replayTimer s l.val fn.toNat)

/-- ACK_STALL (R334). -/
def execAckStall (l : LinkIx) (s : State) : Host.Outcome State Fault Refusal :=
  .next (if (s.getLink l.val).stalled then startFast s l.val 2 true else s)

end Sys2Proof.Machine
end

