-- ==== Sys2Proof/Machine/Pins.lean ====
section
/-! DEFINITION. Pins, power-up and reset (R446 to R451, R456, R457), the I3C commands (R454), boundary scan (R453) and TOD_RX (R48, R455). -/

namespace Sys2Proof.Machine

def State.modPins (s : State) (f : Pins → Pins) : State := { s with pins := f s.pins }

/-! ### Rails (R447, R449 steps 1 to 3) -/

/-- The rails that the device enables, in order, by row of R447 from 0; VDD_VLT is skipped on grade N. -/
def State.railOrder (s : State) : List Nat := if s.fuses.grade = 3 then [2, 3, 4, 6] else [2, 3, 4, 5, 6]

/-- A rail reports power good. -/
def Pins.isGood (p : Pins) (rail : Nat) : Bool := p.good / 2 ^ rail % 2 == 1

/-- All rails are up. -/
def State.railsUp (s : State) : Bool := s.railOrder.all s.pins.isGood

/-- PORST_N rises: the always-on island runs, and the first rail is enabled. -/
def execPorstRelease (s : State) : Host.Outcome State Fault Refusal :=
  if s.pins.porstN then .next s
  else .next (s.modPins fun p => { p with porstN := true, step := 3, good := 3, fault := 0, enabling := some 2, thermtrip := false })

/-- A rail's power good lets the next one be enabled; after the last, the sequence waits for RESET_N, or at step 4 where that is high. -/
def railGood (s : State) (rail : Nat) : State :=
  if s.pins.enabling = some rail then
    let next := (s.railOrder.dropWhile (· != rail)).drop 1
    s.modPins fun p => { p with good := p.good ||| 2 ^ rail, enabling := next.head?, waits := next.isEmpty && p.resetN }
  else s

def execRailPowerGood (rail : Fin 7) (s : State) : Host.Outcome State Fault Refusal := .next (railGood s rail.val)

/-- The PMBus rails are disabled in reverse order; VDD_AON and VDD_IO stay (R449, R451). -/
def State.railsOff (s : State) (fault : Nat) : State :=
  (s.modClk fun c => { c with pstate := 0 }).modPins fun p => { p with good := p.good % 4, enabling := none, waits := false, fault := fault }

/-- A rail that misses power good within 20 ms (R449). -/
def execRailPowerGoodTimeout (rail : Fin 7) (s : State) : Host.Outcome State Fault Refusal :=
  if s.pins.enabling = some rail.val then .next (s.railsOff (rail.val + 1)) else .next s

/-- The chip loses its rails while it runs (R451, R457): every plan ends as under L2 with no record, the links carry nothing any more and ALIVE
stops. -/
def stopChip (s : State) (fault : Nat) : State :=
  let s := s.each slots fun s k =>
    let c := s.getCtx k
    if c.state = .free ∨ c.state = .quarantine then s else endPlan s k .level1
  ({ s with link := [] }.modFlt fun f => { f with aliveRun := false }).railsOff fault

def execPowerGoodLoss (rail : Fin 7) (s : State) : Host.Outcome State Fault Refusal :=
  if 2 ≤ rail.val ∧ s.pins.isGood rail.val ∧ s.pins.enabling = none then .next (stopChip s (rail.val + 1)) else .next s

/-- PMB_ALERT_N (R456): the rail's status is read for I3C POWER. -/
def execPmbAlert (rail : Fin 7) (current : BitVec 16) (s : State) : Host.Outcome State Fault Refusal :=
  .next (s.modPins fun p => { p with currents := KMap.set 0 p.currents rail.val (current.toNat + 1) })

/-! ### Steps 4 to 7 (R449) -/

/-- The straps latched (R448). -/
def latchStraps (s : State) : State :=
  { s.setRg .chpStrap [] (Word.ofNat (s.pins.straps % 2 ^ 18)) with self := s.pins.straps % 32768 }

/-- Step 5: the stacks trained, the self-test's findings, the spare tiles (R275), the Swatch table's digest (R28, R33, R34, R35, R248). -/
def selfTest (s : State) (found : PowerUpFindings) : State :=
  let failed := found.failedHbm.map Fin.val
  let s : State := { s with failedT := found.failedTiles.map Fin.val, failedB := found.failedBlocks ++ failed.map srcMem, tested := true }
  let s := s.each s.failedT fun s t => s.modTile t fun x => { x with state := .failed }
  let s := s.each ((tilesAll.filter fun t => !s.failedT.contains t).drop s.planTiles) fun s t => s.modTile t fun x => { x with state := .spare }
  let s := s.each ((List.range 8).filter fun m => !failed.contains m) fun s m => s.modHbm m fun x => { x with phase := .ready }
  let d := sha384 s.swatchTable
  let s := s.each (List.range 6) fun s j => s.setRg .swtDigest [j] (Word.ofNat (leAt d (8 * j) 8))
  let s := s.each failed fun s m => notice s .memTrainFail (srcMem m)
  let s := if 576 - s.failedT.length < s.goodTiles then notice { s with shortT := true } .tileShortfall 0 else s
  if found.swatchBad then notice s .swatchCorrupt 0 else s

/-- Steps 6 and 7: the boot; then the management cores are released, PSTATE is 2 and ALIVE toggles. ROM recovery runs the management multiplexer
from the oscillator, and the sequence ends there (R382, R438). -/
def startUp (s : State) : State :=
  let s := boot (s.setBit .clkStatus [] 5 true) (s.bit .chpStrap [] 15)
  if s.sec.recovery then (s.setBit .clkMgtMux [] 0 false).modPins fun p => { p with step := 6 }
  else ((s.modClk fun c => { c with pstate := 2 }).modFlt fun f => { f with aliveRun := !f.fatal, lastKick := s.time.refTicks }).modPins fun p =>
    { p with step := 7 }

/-- From step 4 on: without a good reference the device waits there. -/
def bringUp (s : State) (found : PowerUpFindings) : State :=
  let s := (latchStraps s).modPins fun p => { p with step := max p.step 4 }
  if found.refOk then
    let s := s.modPins fun p => { p with waits := false }
    startUp (selfTest (((s.setBit .clkStatus [] 0 true).setBit .clkStatus [] 1 true).setBit .clkStatus [] 2 true) found)
  else (s.setBit .clkStatus [] 0 false).modPins fun p => { p with waits := true }

/-- RESET_N rises: with all rails up, the sequence goes on at step 4. -/
def execResetRelease (found : PowerUpFindings) (s : State) : Host.Outcome State Fault Refusal :=
  if s.pins.resetN then .next s
  else
    let s := s.modPins fun p => { p with resetN := true }
    if s.pins.porstN ∧ s.railsUp then .next (bringUp s found) else .next s

/-- The sequence that waits at step 4 tries again. -/
def execRef156Retry (found : PowerUpFindings) (s : State) : Host.Outcome State Fault Refusal :=
  if s.pins.waits ∧ s.railsUp then .next (bringUp s found) else .next s

/-! ### Resets (R450) -/

/-- RESET_N low for 10 µs. While PORST_N is low, the reset began with it. -/
def execChipReset (s : State) : Host.Outcome State Fault Refusal :=
  if s.pins.resetN then
    let s := chipReset s (if s.pins.porstN then s.causeOf .pin else ResetCause.porst.code)
    .next (s.modPins fun p => { p with resetN := false, waits := false, step := min p.step 3 })
  else .next s

/-- PORST_N low: the always-on island is reset too, and the fatal log survives while VDD_AON is present. -/
def execPorstAssert (s : State) : Host.Outcome State Fault Refusal :=
  let s := chipReset s ResetCause.porst.code
  .next ({ s with pins := { resetN := s.pins.resetN, straps := s.pins.straps, tap := s.pins.tap, bsr := s.pins.bsr } }.modFlt fun f => { f with aliveOut := false })

/-! ### I3C (R454) -/

/-- The always-on island answers from step 2 on. -/
def i3cAnswer (s : State) (bytes : List Byte) : Host.Outcome State Fault Refusal := if s.pins.porstN then .next (s.emit (.i3c bytes)) else .next s

def execI3cStatus (s : State) : Host.Outcome State Fault Refusal :=
  let flags := packN [(1, b2n s.flt.aliveOut), (1, b2n s.flt.aliveRun), (1, b2n s.flt.fatal), (1, b2n s.sec.recovery), (2, s.clk.pstate),
                      (1, b2n (s.bit .clkStatus [] 0)), (1, b2n s.pins.thermtrip)]
  i3cAnswer s (leBytes 1 flags ++ leBytes 1 s.pins.step ++ leBytes 1 s.pins.fault ++ leBytes 1 s.fuses.lifecycle ++ leBytes 4 s.self)

/-- A rail's current as I3C POWER shows it: 0xFFFF where it is unread, and for VDD_VLT on grade N. -/
def State.railCurrent (s : State) (rail : Nat) : Nat :=
  let c := KMap.get 0 s.pins.currents rail
  if c = 0 ∨ (rail = 5 ∧ s.fuses.grade = 3) then 0xFFFF else c - 1

def execI3cPower (packagePower : BitVec 16) (s : State) : Host.Outcome State Fault Refusal :=
  i3cAnswer s (leBytes 2 s.clk.vout ++ leBytes 2 packagePower.toNat ++ ([2, 3, 4, 5, 6].flatMap fun r => leBytes 2 (s.railCurrent r)) ++ leBytes 2 0)

def execI3cThermal (vaultTemp : Byte) (s : State) : Host.Outcome State Fault Refusal :=
  let top (l : List Nat) : Nat := l.foldl max 0
  i3cAnswer s (leBytes 1 (top ((List.range 16).map fun r => (s.getRegionClk r).temp)) ++ leBytes 1 (top ((List.range 8).map fun m => s.fld .memTemp [m] 0 8))
    ++ leBytes 1 (if s.fuses.grade = 3 then 0xFF else vaultTemp.toNat) ++ leBytes 1 s.trip ++ leBytes 4 0)

def execI3cAlive (s : State) : Host.Outcome State Fault Refusal :=
  i3cAnswer s (leBytes 4 (packN [(1, b2n s.flt.aliveOut), (1, b2n s.flt.aliveRun), (30, s.pins.toggles)]))

/-- I3C RESET: any byte but 0xA5 is ignored. -/
def execI3cReset (b : Byte) (s : State) : Host.Outcome State Fault Refusal :=
  if s.pins.porstN ∧ b = 0xA5 then .next (softReset s .i3c) else .next s

/-- I3C POWER_DOWN: any byte but 0x5A is ignored. -/
def execPowerDown (b : Byte) (s : State) : Host.Outcome State Fault Refusal :=
  if s.pins.porstN ∧ b = 0x5A then .next (stopChip s 0) else .next s

/-! ### Boundary scan (R453) -/

/-- The instruction that acts: EXTEST, HIGHZ and CLAMP act as BYPASS while RESET_N is high. -/
def Pins.acts (p : Pins) : TapInstr :=
  match p.tap with
  | .extest | .highz | .clamp => if p.resetN then .bypass else p.tap
  | t => t

/-- IDCODE (R453). -/
def State.idcode (s : State) : Nat := s.fuses.major % 16 * 2 ^ 28 + 0x5701 * 2 ^ 12 + 0x3A5 * 2 + 1

/-- An instruction loaded; its one-bit bypass register is cleared. -/
def loadTap (s : State) (t : TapInstr) : State := s.modPins fun p => { p with tap := t, bypassBit := false }

def execBypass (s : State) : Host.Outcome State Fault Refusal := .next (loadTap s .bypass)

def execIdcode (s : State) : Host.Outcome State Fault Refusal :=
  .next ((loadTap s .idcode).emit (.tdo ((List.range 32).map fun i => s.idcode / 2 ^ i % 2 == 1)))

/-- The pins' levels are captured and shifted out, and the values shifted in stand in the boundary-scan register. -/
def execSamplePreload (pins load : List Bool) (s : State) : Host.Outcome State Fault Refusal :=
  .next (((loadTap s .sample).modPins fun p => { p with bsr := load }).emit (.tdo pins))

def execExtest (s : State) : Host.Outcome State Fault Refusal := .next (loadTap s .extest)
def execHighz (s : State) : Host.Outcome State Fault Refusal := .next (loadTap s .highz)
def execClamp (s : State) : Host.Outcome State Fault Refusal := .next (loadTap s .clamp)

/-! ### TOD_RX (R48, R455) -/

/-- A byte on TOD_RX: into the FIFO on the root, lost with OVERRUN where it is full, discarded elsewhere. -/
def execTodByteReceive (b : Byte) (s : State) : Host.Outcome State Fault Refusal :=
  if s.bit .timRootCtl [] 0 then
    if s.pins.tod.length < 256 then .next (s.modPins fun p => { p with tod := p.tod ++ [b] }) else .next (s.setBit .chpTod [] 9 true)
  else .next s

/-- A read of CHP_TOD takes the oldest byte (R455). -/
def readTod (s : State) : Word × State :=
  if s.bit .timRootCtl [] 0 then
    let b := s.pins.tod.headD 0
    (pack [(0, 8, b.toNat), (8, 1, b2n (!s.pins.tod.isEmpty)), (9, 1, b2n (s.bit .chpTod [] 9))],
      (s.setBit .chpTod [] 9 false).modPins fun p => { p with tod := p.tod.drop 1 })
  else (0, s)

end Sys2Proof.Machine
end

