-- ==== Sys2Proof/Machine/Port.lean ====
section
/-! DEFINITION. The management port (R420 to R422), apertures (R423, R424) and flag watches (R425 to R427). -/

namespace Sys2Proof.Machine

/-- Accesses to the MGT window: the management cores and the service processor only (R442). -/
def onMgt (s : State) (acc : Accessor) (act : State → State) : State := onBlock s srcMgt fun s => if isLocal acc then act s else s

def State.modPort (s : State) (f : Port → Port) : State := { s with port := f s.port }

/-! ### Frames -/

/-- A big-endian field of a frame. -/
def beAt (bs : List Byte) (a n : Nat) : Nat := beNat (slice bs a n)

/-- The frame carries an IEEE 802.1Q tag. -/
def tagged (f : List Byte) : Bool := beAt f 12 2 == 0x8100

/-- The EtherType, behind the tag where there is one, and the place where the payload begins. -/
def etherType (f : List Byte) : Nat := if tagged f then beAt f 16 2 else beAt f 12 2
def etherBody (f : List Byte) : Nat := if tagged f then 18 else 14

/-- The fields of MGT_PORT_CNT (R442). -/
inductive Drop where
  | damaged | malformed | vlan | macsec | unprotected | unknownPeer | rate | txNosa
deriving DecidableEq, Repr

/-- A counter of MGT_PORT_CNT raised: register and lowest bit. -/
def Drop.place : Drop → Nat × Nat
  | .damaged => (0, 0)
  | .malformed => (0, 32)
  | .vlan => (1, 0)
  | .macsec => (1, 32)
  | .unprotected => (2, 0)
  | .unknownPeer => (2, 32)
  | .rate => (3, 0)
  | .txNosa => (3, 32)

def State.countDrop (s : State) (d : Drop) : State := s.addFld .mgtPortCnt [d.place.1] d.place.2 32 1

/-- Steps 1 to 3 of R420. -/
def State.frameFault (s : State) (m : MgtFrame) : Option Drop :=
  let f := m.bytes
  let n := f.length + 4
  if !m.fcsOk || !m.fecOk then some .damaged
  else if n < 64 ∨ 9216 < n ∨ etherType f < 0x0600 ∨ (tagged f ∧ beAt f 16 2 = 0x8100) then some .malformed
  else if tagged f then
    if (List.range 16).any fun i => s.bit .mgtVlan [i] 12 && s.fld .mgtVlan [i] 0 12 == beAt f 14 2 % 4096 then none else some .vlan
  else if s.bit .mgtPortCtl [] 1 then none else some .vlan

/-! ### Protection (R420 step 4) -/

/-- A security association by AN and direction. -/
def State.sa (s : State) (dir an : Nat) : Sa := KMap.get {} s.port.sas (an + 4 * dir)

def Sa.valid (x : Sa) : Bool := bitOf x.ctl 32

/-- The 32 bytes of a key. -/
def Sa.keyBytes (x : Sa) : List Byte := (List.range 4).flatMap fun j => leBytes 8 (KMap.get 0 x.key j).toNat

/-- A protected frame validated against the receive SA of its AN, with the SA's lowest PN moved by the replay window. -/
def macsecReceive (s : State) (f : List Byte) : Option (List Byte) × State :=
  let an := beAt f (etherBody f) 1 % 4
  let x := s.sa 0 an
  if x.valid then
    match Config.macsecOpen x.keyBytes x.sci (field x.ctl 0 32) f with
    | some (clear, pn) =>
      let low := max (field x.ctl 0 32) (pn + 1 - s.fld .mgtSecyCtl [] 0 32)
      (some clear, s.modPort fun p => { p with sas := KMap.set {} p.sas an { x with ctl := withField x.ctl 0 32 low } })
    | none => (none, s)
  else (none, s)

/-- The classes that may travel in clear, by EtherType, with their enabling bit. -/
def plainBit (et : Nat) : Option Nat := if et = 0x0806 then some 2 else if et = 0x888E then some 3 else if et = 0x88F7 then some 4 else none

/-- Step 4: the frame in clear and whether it was protected, or the counter. -/
def State.protection (s : State) (f : List Byte) : (Drop ⊕ (List Byte × Bool)) × State :=
  if etherType f = 0x88E5 then
    match macsecReceive s f with
    | (some clear, s) => (.inr (clear, true), s)
    | (none, s) => (.inl .macsec, s)
  else match plainBit (etherType f) with
    | some b => (if s.bit .mgtPortCtl [] b then .inr (f, false) else .inl .unprotected, s)
    | none => (.inl .unprotected, s)

/-! ### Address collisions (R421) -/

/-- The announcement of the own address (RFC 5227). -/
def State.announcement (s : State) : List Byte :=
  let ip := s.fld .mgtNetIp [] 0 32
  padTo (beBytes 6 (2 ^ 48 - 1) ++ beBytes 6 s.fuses.mac ++ beBytes 2 0x0806 ++ beBytes 2 1 ++ beBytes 2 0x0800 ++ beBytes 1 6 ++ beBytes 1 4 ++ beBytes 2 1
    ++ beBytes 6 s.fuses.mac ++ beBytes 4 ip ++ beBytes 6 0 ++ beBytes 4 ip) 60 0

/-- An ARP frame collides with the own address. -/
def State.arpCollides (s : State) (f : List Byte) : Bool :=
  let p := etherBody f
  let own := s.fld .mgtNetIp [] 0 32
  let sender := beAt f (p + 14) 4
  s.bit .mgtNetIp [] 32 && beAt f (p + 8) 6 != s.fuses.mac
    && (sender == own || (s.bit .mgtPortCtl [] 6 && sender == 0 && beAt f (p + 24) 4 == own))

/-- The collision detector: the other MAC latched, the notice, and a defence at most once per 10 s. -/
def arpSeen (s : State) (f : List Byte) : State :=
  if etherType f = 0x0806 && s.arpCollides f then
    let s := (s.setFld .mgtNetConflict [] 0 48 (beAt f (etherBody f + 8) 6)).setBit .mgtNetConflict [] 48 true
    let s := notice s .mgtIpConflict srcMgt
    let recent := match s.port.defended with
      | some t => decide (s.time.refTicks < t + 12500000000)
      | none => false
    if recent then s.setBit .mgtNetConflict [] 49 true
    else if s.bit .mgtPortCtl [] 5 then (s.modPort fun p => { p with defended := some s.time.refTicks }).emit (.mgtSend s.announcement)
    else s
  else s

/-! ### Peers and rates (R420 steps 5 and 6) -/

/-- A bucket's lack now: it fills by RATE frames per ms. -/
def Bucket.lack (b : Bucket) (rate now : Nat) : Nat := b.lacks - rate * (now - b.at_)

/-- A bucket of the depth has a frame's token. -/
def Bucket.has (b : Bucket) (rate depth now : Nat) : Bool := decide (b.lack rate now + 1250000 ≤ depth * 1250000)

/-- A token taken. -/
def Bucket.take (b : Bucket) (rate now : Nat) : Bucket := { lacks := b.lack rate now + 1250000, at_ := now }

/-- The peer of a source address. -/
def State.peerOf (s : State) (f : List Byte) : Option Nat :=
  (List.range 64).find? fun i => s.bit .mgtPeer [i] 48 && s.fld .mgtPeer [i] 0 48 == beAt f 6 6

/-- The frame's tokens, where the peer's bucket and, for an unprotected frame, the common bucket have them. -/
def takeTokens (s : State) (i : Nat) (prot : Bool) : Option State :=
  let now := s.time.refTicks
  let rate := s.fld .mgtRate [] 0 16
  let plain := s.fld .mgtRate [] 32 16
  let b := KMap.get {} s.port.peers i
  if b.has rate (s.fld .mgtRate [] 16 16) now && (prot || s.port.plain.has plain plain now) then
    some (s.modPort fun p => { p with peers := KMap.set {} p.peers i (b.take rate now), plain := if prot then p.plain else p.plain.take plain now })
  else none

/-- A PTP event message (IEEE 1588: Sync, Delay_Req, Pdelay_Req, Pdelay_Resp). -/
def ptpEvent (f : List Byte) : Bool := etherType f == 0x88F7 && decide (beAt f (etherBody f) 1 % 16 < 4)

/-- A frame whose tokens were taken goes to the cores, a PTP event message with its stamp (R422); one without is dropped. -/
def handOver (s : State) (f : List Byte) : Option State → State
  | none => s.countDrop .rate
  | some s => (if ptpEvent f then s.setRg .mgtPtpRx [] s.time.mt else s).emit (.mgtDeliver f)

/-- A frame in clear that passed its checks goes to the cores while its peer's bucket, and that of the unprotected frames, has a token (R420). -/
def passFrame (s : State) (f : List Byte) (prot : Bool) : State :=
  match s.peerOf f with
  | none => s.countDrop .unknownPeer
  | some i => handOver s f (takeTokens s i prot)

/-- A received frame goes through the checks of R420 and, passing them, to the cores, a PTP event message with its stamp (R422). In ROM recovery
the port is not started (R438). -/
def mgtReceive (s : State) (m : MgtFrame) : State :=
  if s.sec.recovery then s
  else match s.frameFault m with
  | some d => s.countDrop d
  | none =>
    match s.protection m.bytes with
    | (.inl d, s) => s.countDrop d
    | (.inr (f, prot), s) => passFrame (arpSeen s f) f prot

def execMgtFrameReceive (frame : MgtFrame) (s : State) : Host.Outcome State Fault Refusal := .next (mgtReceive s frame)

/-- A frame that a core sends (R420, R422): of a protected class it is sealed by the valid transmit SA of the lowest AN, or dropped without one. -/
def mgtTransmit (s : State) (f : List Byte) : State :=
  if s.sec.recovery then s
  else if (plainBit (etherType f)).isSome then (if ptpEvent f then s.setRg .mgtPtpTx [] s.time.mt else s).emit (.mgtSend f)
  else match (List.range 4).find? fun an => (s.sa 1 an).valid with
    | some an =>
      let x := s.sa 1 an
      let pn := field x.ctl 0 32
      (s.modPort fun p => { p with sas := KMap.set {} p.sas (an + 4) { x with ctl := withField x.ctl 0 32 (pn + 1) } }).emit
        (.mgtSend (Config.macsecSeal x.keyBytes x.sci pn f))
    | none => s.countDrop .txNosa

def execMgtFrameTransmit (bytes : List Byte) (s : State) : Host.Outcome State Fault Refusal := .next (mgtTransmit s bytes)

/-! ### Apertures (R423, R424) -/

/-- A pending watch names the aperture. -/
def State.aperWatched (s : State) (a : Nat) : Bool := (List.range 16).any fun w => s.bit .mgtFlagWatch [w] 40 && s.fld .mgtFlagWatch [w] 0 6 == a

/-- What VALID asks for holds (R423): none, or the status that refuses it. -/
def State.aperStatus (s : State) (acc : Accessor) (a : Nat) : Option Status :=
  let id := CtxId.ofNat (s.fld .mgtAper [a] 0 16)
  let c := s.getCtx id.slot
  let first := s.fld .mgtAperRange [a] 0 21
  let n := s.fld .mgtAperRange [a] 32 12
  let inside := match c.image with
    | some im => match im.segs[s.fld .mgtAper [a] 16 15]? with
      | some g => g.window && decide (1 ≤ n ∧ n ≤ 2048 ∧ (first + n) * pageBytes ≤ g.size)
      | none => false
    | none => false
  firstOf [(!s.live id, .stale), (!s.owns acc id.slot || (!c.dirty.isEmpty && c.pt.isEmpty), .denied), (!inside || !(c.state == .opened || c.state == .saved), .rejected)]

/-- MGT_APER written: the fields, and then VALID where the checks hold; SEG stays while a pending watch names the aperture (R442). -/
def aperWrite (s : State) (acc : Accessor) (a : Nat) (v : Word) : State :=
  let seg := if s.aperWatched a then s.fld .mgtAper [a] 16 15 else field v 16 15
  let s := s.setRg .mgtAper [a] (pack [(0, 16, field v 0 16), (16, 15, seg), (31, 1, b2n (bitOf v 31))])
  if bitOf v 32 then
    let st := (s.aperStatus acc a).getD .ok
    (if st = .ok then s.setBit .mgtAper [a] 32 true else s).setRg .mgtAperStatus [] (pack [(0, 8, st.code), (8, 6, a)])
  else s

def execAperValidWrite (acc : Accessor) (a : Fin 64) (value : Word) (s : State) : Host.Outcome State Fault Refusal :=
  .next (onMgt s acc fun s => aperWrite s acc a.val value)

/-- A core's read of a context's memory (R243, R246): an uncorrectable word, or poison, gives it a bus error. -/
def coreRead (s : State) (core k va n : Nat) (found : Findings) : State :=
  match readPages s k found .core (pieces va n) with
  | (true, s) => s.emit (.coreFault core)
  | (false, s) => s.emit (.coreRead core (s.ctxRead k va n))

/-- A core's access through an aperture (R424): a write with `data`, else a read of `n` bytes. -/
def aperAccess (s : State) (core a off n : Nat) (acc : Accessor) (data : Option (List Byte)) (found : Findings) : State :=
  let fits := decide (off + n ≤ s.fld .mgtAperRange [a] 32 12 * pageBytes)
  match s.aperVa a off with
  | some (k, va) =>
    if fits && s.owns acc k && (data.isNone || s.bit .mgtAper [a] 31) then
      match data with
      | some bs => s.ctxWrite k va bs
      | none => coreRead s core k va n found
    else (notice s .aperFault srcMgt).emit (.coreFault core)
  | none => (notice s .aperFault srcMgt).emit (.coreFault core)

def execApertureAccess (core : Fin 8) (a : Fin 64) (offset : BitVec 32) (bytes : Nat) (data : Option (List Byte)) (found : Findings) (s : State) :
    Host.Outcome State Fault Refusal :=
  .next (aperAccess s core.val a.val offset.toNat bytes (.mgt core) data found)

/-! ### Flag watches (R427) -/

/-- MGT_FLAG_WATCH written (R442): DONE by writing 1; nothing else while PENDING; with ARM the watch begins, and ends OK at once where OWNER already
equals EXPECT. -/
def flagWatchWrite (s : State) (w : Nat) (v : Word) : State :=
  let s := if bitOf v 41 then s.setBit .mgtFlagWatch [w] 41 false else s
  if s.bit .mgtFlagWatch [w] 40 then s
  else
    let s := s.setFld .mgtFlagWatch [w] 0 39 (field v 0 39)
    if bitOf v 39 then
      let s := (((s.setBit .mgtFlagWatch [w] 40 true).setBit .mgtFlagWatch [w] 41 false).setBit .mgtFlagWatch [w] 42 false).setFld .mgtFlagWatch [w] 43 8 0
      if s.flagMet w then s.endFlagWatch w .ok false else s
    else s

def execFlagWatchArm (acc : Accessor) (w : Fin 16) (value : Word) (s : State) : Host.Outcome State Fault Refusal :=
  .next (onMgt s acc fun s => flagWatchWrite s w.val value)

/-- A watch whose deadline MT has reached. -/
def execFlagWatchTimeout (w : Fin 16) (s : State) : Host.Outcome State Fault Refusal :=
  let d := s.rg .mgtFlagWatchDl [w.val]
  if s.bit .mgtFlagWatch [w.val] 40 ∧ d ≠ 0 ∧ d.toNat ≤ s.mtN then .next (s.endFlagWatch w.val .timeout false) else .next s

end Sys2Proof.Machine
end

