-- ==== Sys2Proof/Machine/View.lean ====
section
/-! DEFINITION. What the registers show whose fields report other state: one word per register, by the register tables of the chapters.
A register that is not named here shows the word that it keeps (`State.rg`). -/

namespace Sys2Proof.Machine

/-! ### Codes of states -/

/-- TIM_STATUS.SYNC (R69). -/
def Sync.code : Sync → Nat
  | .unsynced => 0
  | .locked => 1
  | .holdover => 2

/-- TIM_CTX_STATE.STATE (R51). -/
def PlanState.code : PlanState → Nat
  | .idle => 0
  | .armed => 1
  | .running => 2
  | .frosted => 3
  | .stopped => 4
  | .ended => 5

/-- CLO_CTX_STATE.STATE (R271). -/
def CtxState.code : CtxState → Nat
  | .free => 0
  | .opened => 1
  | .saving => 2
  | .saved => 3
  | .restoring => 4
  | .quarantine => 5

/-- CLO_TILE.STATE (R289). -/
def TileState.code : TileState → Nat
  | .free => 0
  | .granted => 1
  | .spare => 2
  | .bad => 3
  | .bist => 4
  | .failed => 5

/-- TIL_SEQ_STATUS.POWER (R131): 3 is never reported, a tile that is OFF has no context and is read by nobody. -/
def Power.code : Power → Nat
  | .run => 0
  | .sleep => 1
  | .deep => 2
  | .off => 0

/-- TIL_SYNC_INFO.STATE (R154). A saved record is on no tile, so SUSPENDED is never shown. -/
def SyncState.code : SyncState → Nat
  | .unbound => 0
  | .active => 1
  | .abandoned => 2
  | .suspended => 3

/-- MEM_STATUS.STATE (R266). -/
def MemPhase.code : MemPhase → Nat
  | .training => 0
  | .ready => 1
  | .retrain => 2
  | .bist => 3

/-- CXL_STATUS.LINK (R267). -/
def CxlLink.code : CxlLink → Nat
  | .down => 0
  | .training => 1
  | .up => 2
  | .error => 3

/-- CLK_REGION.SRC (R399). -/
def ClkSrc.code : ClkSrc → Nat
  | .ref => 0
  | .main => 1
  | .alt => 2
  | .half => 3

/-- The state of a multiplexer (R399). -/
def MuxState.code : MuxState → Nat
  | .stable => 0
  | .switching => 1
  | .hung => 2

/-- VLT_STATUS.MODE (R206). -/
def VaultMode.code : VaultMode → Nat
  | .service => 0
  | .install => 1
  | .recal => 2

/-- The state of a region entry (R180). -/
def RegionState.code : RegionState → Nat
  | .free => 0
  | .installing => 1
  | .installed => 2
  | .bound => 3
  | .failed => 4

/-- INS_STATUS.PHASE (R205). -/
def InsPhase.code : InsPhase → Nat
  | .idle => 0
  | .armed => 1
  | .active => 2
  | .verifying => 3

/-- LNK_STATUS.STATE (R347). -/
def LinkState.code : LinkState → Nat
  | .down => 0
  | .training => 1
  | .up => 2
  | .retrain => 3
  | .degraded => 4

/-- The state of a record (R208). -/
def RecState.code : RecState → Nat
  | .free => 0
  | .idle => 1
  | .ready => 2
  | .prefill => 3
  | .decode => 4

/-- The state of a partition entry (R352). -/
def PartState.code : PartState → Nat
  | .free => 0
  | .joined => 1
  | .prepared => 2
  | .committed => 3
  | .releasing => 4
  | .suspended => 5

/-- NET_PART_IMG.IMG_STATE (R361, R375). -/
def ImgState.code : ImgState → Nat
  | .none => 0
  | .receiving => 1
  | .complete => 2
  | .timeout => 3
  | .mismatch => 4
  | .overflow => 5
  | .loadWait => 6
  | .discarded => 7

/-- Bits 0 to 5 of the links that pass a test. -/
def linkMask (p : Nat → Bool) : Nat := sumN (links.map fun l => if p l then 2 ^ l else 0)

/-! ### CHP, TIM (R6, R69, R455) -/

def State.chpIdent (s : State) : Word := pack [(0, 4, s.fuses.grade), (4, 4, s.fuses.major), (8, 4, s.fuses.minor), (16, 16, 0x5701)]

def State.chpRail (s : State) : Word := pack [(0, 7, s.pins.good), (7, 4, s.pins.fault)]

def State.timStatus (s : State) : Word :=
  pack [(0, 2, s.time.sync.code), (2, 1, b2n s.rootEn), (3, 3, s.time.parent.getD 7), (6, 6, s.time.depth), (12, 1, b2n (s.bit .timStatus [] 12)),
        (13, 15, if s.time.depth < 63 then s.time.rootCoord else 0)]

def State.timCtxState (s : State) (k : Nat) : Word :=
  let c := s.getCtx k
  pack [(0, 3, c.plan.state.code), (3, 4, if c.plan.state = .frosted then (c.plan.frost.map Frost.cause).getD 0 else 0),
        (7, 2, (c.image.map Image.dhop).getD 0)]

def State.timAsym (s : State) (l : Nat) : Word :=
  pack [(0, 16, unsignedOf 16 (KMap.get 0 s.fuses.asym l)), (16, 16, s.fld .timAsym [l] 16 16), (32, 16, unsignedOf 16 (s.effAsym l))]

/-! ### Tiles (R97, R131, R154) -/

def Tile.seqStatus (x : Tile) (c : Option Ctx) : Word :=
  let next := c.bind fun c => c.variantOf (x.step + 1)
  pack [(0, 2, x.power.code), (2, 1, b2n x.held), (3, 1, b2n x.endTaken), (16, 8, x.variant), (24, 8, next.getD 0), (32, 1, b2n next.isSome)]

def Tile.queued (x : Tile) (u : Nat) : Nat := (KMap.get [] x.unitQ u).length

def Tile.unitQueues (x : Tile) : Word :=
  pack [(0, 4, x.queued 0), (4, 4, x.queued 1), (8, 4, x.queued 2), (12, 4, x.queued 3), (16, 4, x.queued routerPort), (20, 4, x.queued enginePort)]

def State.tilSyncInfo (s : State) (t k : Nat) : Word :=
  let x := s.getTile t
  let target := match x.heldWait with
    | some (o, v) => if o = k then some v.toNat else none
    | none => none
  pack [(0, 2, x.bank.code), (2, 1, b2n (x.obj k).barrier), (3, 1, b2n target.isSome),
        (4, 2, countP (fun w => s.fld .tilSyncWatch [t, w] 0 6 == k) (s.syncWatches t)), (32, 32, target.getD 0)]

def Tile.syncLast (x : Tile) (k : Nat) : Word :=
  let l := (x.obj k).last
  pack [(0, 3, l.kind), (3, 10, l.srcTile), (13, 3, l.link), (16, 16, l.srcMop), (32, 32, l.pcy)]

/-- The queue port of a transfer queue is its unit 4 + q. -/
def State.tilQstat (s : State) (t q : Nat) : Word :=
  let x := s.getTile t
  pack [(0, 6, (KMap.get [] x.xfer (4 + q)).length), (6, 6, s.fld .tilQstat [t, q] 6 6), (12, 3, x.queued (4 + q)), (16, 32, s.fld .tilQstat [t, q] 16 32)]

/-! ### INS, VLT (R205, R206) -/

def State.insStatusWord (s : State) : Word :=
  pack [(0, 2, s.ins.phase.code), (2, 1, b2n (s.bit .insStatus [] 2)), (8, 16, s.fld .insStatus [] 8 16), (24, 16, s.ins.pos)]

def VRegion.blocks (r : VRegion) : Nat := if r.state = .free then 0 else r.nblk

def State.vltStatus (s : State) (v : Nat) : Word :=
  let x := s.getVault v
  pack [(0, 2, x.mode.code), (2, 1, b2n x.recalDue), (3, 12, 2048 - sumN (x.regions.map fun e => e.2.blocks)),
        (15, 8, sumN ((List.range 8).map fun g => if (KMap.get none x.groups g).isSome then 2 ^ g else 0))]

def State.vltBlockInfo (s : State) (v : Nat) : Word :=
  let x := s.getVault v
  let b := s.fld .vltBlockSel [v] 0 11
  let owner := x.regions.find? fun e => decide (e.2.state ≠ .free ∧ e.2.first ≤ b ∧ b < e.2.first + e.2.nblk)
  pack [(0, 14, KMap.get 0 x.installs b), (14, 1, b2n owner.isNone), (15, 6, (owner.map Prod.fst).getD 0), (21, 16, satN 16 (KMap.get 0 x.ce b))]

def State.vltGroup (s : State) (v g : Nat) : Word := match KMap.get none (s.getVault v).groups g with
  | some i => pack [(0, 16, i.toNat), (16, 1, 1)]
  | none => 0

def VRegion.word0 (r : VRegion) : Word :=
  pack [(0, 3, r.state.code), (3, 1, b2n r.ueSeen), (4, 11, r.first), (15, 12, r.nblk), (27, 16, (r.ctx.map CtxId.toNat).getD 0), (43, 8, r.reason)]

/-- A factory field, the user's offset in bits 15 to 8 and the effective value (R39), for a quantity of `n` bits from 0 on. -/
def calWord (fcal : Nat) (w : Word) (n : Nat) : Word :=
  pack [(0, n, fcal), (8, 8, field w 8 8), (16, n, (clampI 0 ((2 ^ n - 1 : Nat) : Int) ((fcal : Int) + signedOf 8 (field w 8 8))).toNat)]

/-! ### SRV (R236 to R238) -/

/-- The record that SRV_REC_SEL names for an accessor that holds a ticket of its context: the lead's, or else a mirror. -/
def State.shownReq (s : State) (acc : Accessor) : Option Req :=
  let h := s.fld .srvRecSel [] 0 32
  let lead := (s.reqOf h).map s.getReq
  let mirror := (s.req.find? fun e => e.2.state != .free && !e.2.lead && e.2.handle == h && s.owns acc e.2.ctx.slot).map Prod.snd
  match lead with
  | some r => if s.owns acc r.ctx.slot then some r else mirror
  | none => mirror

/-- A word of the record view (R238). -/
def Req.word (r : Req) : Nat → Word
  | 0 => pack [(0, 3, r.state.code), (3, 16, r.ctx.toNat), (19, 1, b2n r.lead), (20, 1, b2n r.atRisk), (21, 1, b2n r.cancel), (22, 1, b2n r.missed),
               (23, 1, b2n !r.held.isEmpty), (24, 4, r.draftEff), (32, 32, r.handle)]
  | 1 => pack [(0, 32, if r.lead then r.tokidx else r.sTok), (32, 32, r.promptN - r.placed)]
  | 2 => pack [(0, 32, r.turnNew), (32, 16, r.tailor), (48, 3, r.lastEnd)]
  | 3 => if r.lead then Word.ofNat r.mtAdmit else 0
  | 4 => if r.lead then Word.ofNat r.mtLast else 0
  | 5 => if r.lead then pack [(0, 32, satN 32 r.ttft), (32, 32, satN 32 r.tbtMax)] else 0
  | 6 => if r.lead then pack [(0, 32, r.misses), (32, 16, satN 16 r.zeroRun)] else 0
  | _ => pack [(0, 32, satN 32 r.proposed), (32, 32, satN 32 r.accepted)]

/-- SRV_CTX_STEP: 0 until step 2 is frozen or taken in (R214, R237). -/
def Serve.lastStep (v : Serve) : Word := if v.next ≤ 2 then 0 else Word.ofNat (v.next - 1)

/-! ### MEM, CXL, MOR (R256, R266 to R268) -/

def State.memStatusWord (s : State) (m : Nat) : Word := pack [(0, 2, (s.getHbm m).phase.code), (2, 1, b2n (decide (s.fld .memTemp [m] 8 8 ≤ s.fld .memTemp [m] 0 8)))]

def State.cxlStatus (s : State) (p : Nat) : Word :=
  let x := s.getCxl p
  pack [(0, 3, x.link.code), (3, 2, x.rate), (5, 1, b2n x.half), (6, 1, b2n x.device), (7, 1, b2n x.unsupported), (16, 21, if x.device then x.total else 0),
        (37, 8, if x.device then 64 else 0), (45, 8, x.sscInUse)]

/-- A page table entry as R256 lays it out. -/
def Pte.word (e : Pte) : Word := match e.frame with
  | none => 0
  | some f => pack [(0, 2, if f.cxl then 2 else 1), (2, 2, if e.stream then 0 else e.tier), (4, 1, b2n e.write), (5, 1, b2n e.window), (6, 1, b2n e.moving),
                    (7, 3, f.unit), (10, 21, f.frame), (32, 16, satN 16 e.acc), (48, 2, e.hint), (50, 8, satN 8 e.hotAge)]

def Ctx.residence (c : Ctx) : Word :=
  let at_ (cxl : Bool) : Nat := countP (fun e => e.2.movable && (e.2.frame.map FrameId.cxl) == some cxl) c.pt
  pack [(0, 32, at_ false), (32, 32, at_ true)]

/-! ### CLO (R289) -/

def State.cloStatus (s : State) : Word :=
  let free := if s.tested then countP (fun t => (s.getTile t).state == .free) tilesAll else 0
  let clean := sumN (s.hbm.map fun e => countP (fun f => decide (f.1 < grantFrames) && f.2.clean && !f.2.held && !f.2.retired) e.2.frames)
  pack [(0, 10, free), (10, 8, countP (fun e => e.2.state == .spare) s.tile), (18, 6, countP (fun k => (s.getCtx k).state == .free) slots), (24, 18, clean)]

def Ctx.stateWord (c : Ctx) : Word :=
  pack [(0, 3, c.state.code), (3, 11, c.gen), (14, 10, c.owners.toNat), (24, 5, c.tiles.length / 32), (29, 6, linkMask c.links.contains),
        (35, 1, b2n !c.dirty.isEmpty)]

def State.cloCtxVault (s : State) (k : Nat) : Word := pack ((List.range 4).map fun v => (8 * v, 4, (s.groupsOf k v).length))

def State.cloMapData (s : State) (acc : Accessor) : Word :=
  let k := s.fld .cloMapSel [] 0 5
  if s.owns acc k then Word.ofNat ((s.getCtx k).tiles.getD (32 * s.fld .cloMapSel [] 5 4 + s.fld .cloMapSel [] 9 5) 0x3FF) else 0x3FF

def Tile.word (x : Tile) : Word :=
  pack [(0, 3, x.state.code), (3, 5, if x.state = .granted ∨ x.state = .bad then (x.ctx.map CtxId.slot).getD 0 else 0), (8, 1, b2n x.bistQueued)]

/-! ### NET (R314, R375) -/

/-- NET_VCBUF (R314): the VC0 entries, those whose plan slot is not known yet among them, and the flits of VC1 to VC3 in the receive buffers, those of
packets that wait to leave by a link among them. -/
def State.netVcbuf (s : State) (l : Nat) : Word :=
  let x := s.getLink l
  let leaving (vc : Nat) : Nat := sumN (links.map fun m => countP (fun (f : TxFlit) => f.from_ == some l) (KMap.get [] (s.getLink m).vcq vc))
  let n (vc : Nat) : Nat := (KMap.get [] x.rxq vc).length + leaving vc
  pack [(0, 16, x.buf.length + sumN (x.rxWait.map fun e => e.2.length)), (16, 14, n 1), (30, 13, n 2), (43, 12, n 3)]

def State.netCtxEpoch (s : State) (k : Nat) : Word := pack [(0, 1, s.epochOf k), (1, 1, b2n (decide (s.mtN < KMap.get 0 s.net.unlockAt k)))]

def State.netRtData (s : State) (acc : Accessor) : Word :=
  let k := s.fld .netRtSel [] 0 5
  if s.owns acc k then Word.ofNat (KMap.get 0 s.net.routes (8192 * s.fld .netRtSel [] 13 1 + 256 * k + s.fld .netRtSel [] 5 8) % 16) else 0

def State.netMeshData (s : State) (acc : Accessor) : Word :=
  let router := s.fld .netMeshSel [] 0 10
  let out := s.fld .netMeshSel [] 10 3
  if 576 ≤ router ∨ 5 ≤ out then 0
  else match KMap.get none s.net.claims ((5 * router + out) * 64 + s.fld .netMeshSel [] 13 6) with
    | none => 0
    | some c =>
      if s.owns acc c.ctx.slot then pack [(0, 16, c.ctx.toNat), (16, 6, c.stream), (22, 10, c.src), (32, 1, 1), (33, 6, c.rot)] else pack [(32, 1, 1)]

def State.netTopo (s : State) : Word := pack [(0, 15, s.fld .netTopo [] 0 15), (16, 15, s.self), (32, 6, linkMask s.miswired)]

def State.partEnt0 (s : State) (k : Nat) : Word :=
  let e := (s.getCtx k).part
  if e.state = .free then 0
  else pack [(0, 3, e.state.code), (8, 16, e.part), (24, 8, e.gen), (32, 16, ({ slot := k, gen := e.ctxGen } : CtxId).toNat)]

def State.partEnt1 (s : State) (k : Nat) : Word :=
  let e := (s.getCtx k).part
  if e.state = .free then 0
  else
    let inner (l : Nat) : Bool := s.internal l e.origin e.extent
    pack [(0, 15, e.origin), (15, 15, e.extent), (30, 15, s.relOf s.self e.origin), (45, 6, linkMask inner),
          (51, 6, linkMask fun l => s.isJoined k l)]

/-- The bytes that some range covers; ranges are taken in ascending order. -/
def covered (l : List (Nat × Nat)) : Nat :=
  ((sortBy (fun a b => decide (a.1 ≤ b.1)) l).foldl (fun (p : Nat × Nat) r => (p.1 + (r.1 + r.2 - max p.2 r.1), max p.2 (r.1 + r.2))) (0, 0)).1

def PartEntry.imgWord (e : PartEntry) : Word := pack [(0, 48, covered e.img.got), (48, 3, e.img.state.code)]

/-! ### LNK (R347) -/

def State.lnkStatusWord (s : State) (l : Nat) : Word :=
  let x := s.getLink l
  pack [(0, 3, x.state.code), (3, 1, b2n x.half), (4, 3, x.phase), (7, 1, b2n x.reversed), (8, 15, x.farCoord), (23, 3, x.farInst),
        (26, 1, b2n (s.bit .lnkStatus [l] 26)), (27, 3, x.reason), (30, 2, x.spares), (32, 4, x.lastCause)]

def Link.spareWord (x : Link) : Word :=
  pack [(0, 6, x.lost0), (6, 6, x.lost1), (12, 34, sumN (lanesAll.map fun q => if (getLane x.rx q).inverted then 2 ^ q else 0))]

/-- LNK_LANE_SEL (R347): the lane, and whether it is a transmit lane. -/
def State.laneSel (s : State) (l : Nat) : Nat × Bool := (s.fld .lnkLaneSel [l] 0 6, s.bit .lnkLaneSel [l] 6)

def Lane.word (y : Lane) : Word :=
  pack [(0, 2, y.role), (2, 6, y.logical), (8, 1, b2n y.lock), (9, 4, y.preset), (13, 16, satN 16 y.errs), (29, 8, y.eye)]

def State.lnkLaneData (s : State) (l : Nat) : Word :=
  let (q, tx) := s.laneSel l
  let x := s.getLink l
  if q < 34 then (getLane (if tx then x.tx else x.rx) q).word else Word.ofNat RegName.lnkLaneData.row.reset

def State.lnkTxeq (s : State) (l : Nat) : Word :=
  let (q, _) := s.laneSel l
  if q < 34 then KMap.get 0 (s.getLink l).txeq q else 0

def State.lnkRxeq (s : State) (l : Nat) : Word :=
  let (q, _) := s.laneSel l
  if q < 34 then calWord (KMap.get 0 s.fuses.ctle (34 * l + q)) (KMap.get 0 (s.getLink l).rxeq q) 4 else 0

/-! ### CLK, FLT (R399, R402, R415) -/

def State.clkStatusWord (s : State) : Word :=
  pack [(0, 3, s.fld .clkStatus [] 0 3), (3, 2, s.clk.pstate), (5, 1, b2n (s.bit .clkStatus [] 5))]

def State.clkVolt (s : State) : Word :=
  pack [(0, 12, s.clk.vout), (12, 12, s.fuses.vmin), (24, 12, s.fuses.vmax), (36, 12, s.fuses.vnom), (48, 1, b2n (s.bit .clkVolt [] 48))]

def Region.word (x : Region) : Word :=
  pack [(0, 3, x.step), (3, 2, x.src.code), (5, 2, x.mux.code), (7, 1, b2n x.pllOn), (8, 3, x.standby), (11, 1, b2n x.locked), (12, 6, x.margin),
        (18, 8, x.temp)]

def State.fltStatus (s : State) : Word :=
  pack [(0, 1, b2n s.flt.fatal), (1, 9, s.flt.head), (10, 10, countP (fun e => e.2.open_) s.flt.ring), (20, 1, b2n s.flt.aliveOut), (21, 1, b2n s.flt.aliveRun),
        (22, 9, s.flt.last.getD 0), (31, 1, b2n s.flt.last.isSome)]

/-- A word of a record (R402). -/
def FltRecord.word (r : FltRecord) : Nat → Word
  | 0 => pack [(0, 24, r.source), (24, 16, r.cause), (40, 2, r.level), (42, 1, b2n r.escalated), (43, 1, b2n r.counted), (44, 1, b2n r.acked),
               (45, 1, b2n r.ctx.isSome), (46, 16, (r.ctx.map CtxId.toNat).getD 0), (62, 1, b2n r.injected), (63, 1, b2n r.group)]
  | 1 => r.mt
  | 2 => r.pcy
  | _ => pack [(0, 32, r.count), (32, 32, r.detail)]

/-! ### All registers -/

/-- What a register shows to an accessor that may read it; `i` and `j` are its first two indices. -/
def State.view (s : State) (acc : Accessor) (n : RegName) (ix : List Nat) : Word :=
  let i := ix.getD 0 0
  let j := ix.getD 1 0
  let own := s.rg n ix
  match n with
  | .chpIdent => s.chpIdent
  | .chpRail => s.chpRail
  | .timMt => s.time.mt
  | .timStatus => s.timStatus
  | .timCtxPcy => (s.getCtx i).plan.pcy
  | .timCtxState => s.timCtxState i
  | .timCtxLaunch => (s.getCtx i).plan.tl
  | .timAsym => s.timAsym i
  | .tilExpRom => Word.ofNat (expRom.getD j 0)
  | .tilSeqStatus => (s.getTile i).seqStatus (((s.getTile i).ctx).map fun c => s.getCtx c.slot)
  | .tilSeqPc => Word.ofNat (s.getTile i).pc
  | .tilSeqBase => Word.ofNat (s.getTile i).base
  | .tilSeqStep => Word.ofNat (s.getTile i).step
  | .tilUnitQ => (s.getTile i).unitQueues
  | .tilDescData => Word.ofNat (leNat ((s.getTile i).desc.read (32 * s.fld .tilDescSel [i] 0 10 + 8 * j) 8))
  | .tilSyncCount => Word.ofNat ((s.getTile i).obj j).count.toNat
  | .tilSyncInfo => s.tilSyncInfo i j
  | .tilSyncLast => (s.getTile i).syncLast j
  | .tilQstat => s.tilQstat i j
  | .insStatus => s.insStatusWord
  | .insResume => Word.ofNat (s.ins.resume % 2 ^ 32)
  | .vltStatus => s.vltStatus i
  | .vltBlockInfo => s.vltBlockInfo i
  | .vltGroup => s.vltGroup i j
  | .vltRegionW0 => (s.getRegion i j).word0
  | .vltRegionW1 => Word.ofNat (s.getRegion i j).size
  | .vltRegionDigest => Word.ofNat (leAt (s.getRegion i j).digest (8 * ix.getD 2 0) 8)
  | .vltVref => calWord (KMap.get 0 s.fuses.vrefVlt i) own 8
  | .srvStatus => Word.ofNat (16384 - s.reqsUsed)
  | .srvRecData => match s.shownReq acc with
    | some r => r.word i
    | none => 0
  | .srvCtxStep => (s.getCtx i).serve.lastStep
  | .memStatus => s.memStatusWord i
  | .memVref => calWord (KMap.get 0 s.fuses.vrefMem i) own 7
  | .cxlStatus => s.cxlStatus i
  | .morCtl => if field own 1 3 = 0 then own ||| 2 else own
  | .morCmdStatus => withField own 9 1 (b2n s.mor.erasure.isSome)
  | .morCtxRes => (s.getCtx i).residence
  | .morCtxPtData => match s.pte i (pageBytes * s.fld .morCtxPtSel [i] 0 27) with
    | some e => e.word
    | none => 0
  | .cloCmdStatus => withField own 9 1 (b2n s.cloOp.isSome)
  | .cloStatus => s.cloStatus
  | .cloDrainLimit => Word.ofNat s.drainLimit
  | .cloCtxState => (s.getCtx i).stateWord
  | .cloCtxMem => pack [(0, 32, (s.getCtx i).hbm.length), (32, 32, (s.getCtx i).cxl.length)]
  | .cloCtxVault => s.cloCtxVault i
  | .cloCtxQuota => Word.ofNat (s.getCtx i).quota
  | .cloCtxPreempt => (s.getCtx i).preemptP
  | .cloCtxSave => match (s.getCtx i).header with
    | f :: _ => pack [(0, 3, f.unit), (3, 15, f.frame)]
    | [] => 0
  | .cloMapData => s.cloMapData acc
  | .cloTile => (s.getTile i).word
  | .netVcbuf => s.netVcbuf i
  | .netCtxEpoch => s.netCtxEpoch i
  | .netRtData => s.netRtData acc
  | .netMeshData => s.netMeshData acc
  | .netTopo => s.netTopo
  | .netPartEnt0 => s.partEnt0 i
  | .netPartEnt1 => s.partEnt1 i
  | .netPartDeadline => if (s.getCtx i).part.state = .prepared then (s.getCtx i).part.deadline else 0
  | .netPartTl => (s.getCtx i).part.tl
  | .netPartImg => (s.getCtx i).part.imgWord
  | .lnkStatus => s.lnkStatusWord i
  | .lnkRtt => pack [(0, 32, rttPs (s.getLink i)), (32, 16, rttFc (s.getLink i))]
  | .lnkSpare => (s.getLink i).spareWord
  | .lnkLaneData => s.lnkLaneData i
  | .lnkTxeq => s.lnkTxeq i
  | .lnkRxeq => s.lnkRxeq i
  | .clkStatus => s.clkStatusWord
  | .clkVolt => s.clkVolt
  | .clkMgtMux => withField own 1 2 s.clk.mgtMux.code
  | .clkSpMux => withField own 1 2 s.clk.spMux.code
  | .clkMeshMargin => Word.ofNat s.clk.meshMargin
  | .clkRegion => (s.getRegionClk i).word
  | .clkMarginCal => calWord (KMap.get 0 s.fuses.warn i) own 6
  | .fltStatus => s.fltStatus
  | .fltRec => (s.fltRec i).word j
  | .fltFatal => (s.flt.log.getD i {}).word j
  | .fltSnapStatus => withField own 9 1 (b2n s.snap.isSome)
  | .secStatus => s.secStatus
  | .secCmdStatus => withField own 10 1 (b2n s.sec.queued.isSome)
  | .secSlot => s.secSlot i
  | .secSlotVer => (s.getSlot i).version
  | .secMeas => Word.ofNat (leAt (s.meas i) (8 * j) 8)
  | .secVpk => Word.ofNat (s.fuses.revoked % 4)
  | .mgtSaSci => (s.sa (s.fld .mgtSaSel [] 2 1) (s.fld .mgtSaSel [] 0 2)).sci
  | .mgtSaCtl => (s.sa (s.fld .mgtSaSel [] 2 1) (s.fld .mgtSaSel [] 0 2)).ctl
  | _ => own

end Sys2Proof.Machine
end

