-- ==== Sys2Proof/Machine/Registers.lean ====
section
/-! DEFINITION. Accesses to control space (R21 to R25, R37, R41): who may read and write a register (R97, R205, R314, R415, R442), what a read leaves, and
what a write does; remote register access (R302) and READ on the service port (R428). -/

namespace Sys2Proof.Machine

/-! ### Who may reach a register -/

/-- Registers of a context slot, the first index, that are open to its ticket's holders alone (R69, R237, R268, R415). -/
def RegName.ofSlot : RegName → Bool
  | .timCtxPcy | .timCtxState | .timCtxLaunch | .timCtxStop | .timCtxResume | .timCtxFrostTotal | .timCtxFrostCount | .timCtxFrostLimit
  | .srvCtxEnd | .srvCtxStep | .srvCtxRring | .srvCtxRrcfg | .srvCtxStepEst | .srvCtxEndvar | .srvCtxMiss | .srvCtxVtab
  | .morCtxKv0 | .morCtxKv1 | .morCtxKv2 | .morCtxRes | .morCtxPtSel | .morCtxPtData
  | .fltJrnCtl | .fltJrnBase | .fltJrnSize | .fltJrnHead | .fltJrnTail | .fltJrnStatus | .fltJrnDivstep => true
  | _ => false

/-- Registers of a tile, the first index, that are open to the holders of its context's ticket alone (R97, R131, R154). -/
def RegName.ofTile : RegName → Bool
  | .tilArithSat | .tilSramCe | .tilSramUe | .tilBankWait | .tilSeqStatus | .tilSeqPc | .tilSeqBase | .tilSeqStep | .tilUnitQ | .tilDescSel | .tilDescData
  | .tilCountClamp | .tilSyncCount | .tilSyncInfo | .tilSyncLast | .tilQstat | .tilSyncWatch | .tilSyncWatchDl | .tilSyncDrop => true
  | _ => false

/-- Registers of R154, which read their reset value on an UNBOUND tile. -/
def RegName.ofBank : RegName → Bool
  | .tilSyncCount | .tilSyncInfo | .tilSyncLast | .tilQstat | .tilSyncWatch | .tilSyncWatchDl | .tilSyncDrop => true
  | _ => false

/-- Registers of the install engine (R205). -/
def RegName.ofInstall : RegName → Bool
  | .insCmd | .insSession | .insRingBase | .insRingSlots | .insStatus | .insResume | .insCounts => true
  | _ => false

/-- An accessor holds the ticket that a register asks for. -/
def State.ticketFor (s : State) (acc : Accessor) (n : RegName) (ix : List Nat) : Bool :=
  if n.ofSlot then s.owns acc (ix.getD 0 0)
  else if n.ofTile then match s.tileCtx (ix.getD 0 0) with
    | some k => s.owns acc k
    | none => false
  else true

/-- A read reaches the register: NET, MGT and the install engine answer 0 over VC3 but for NET_PART_ENT0 and NET_PART_ENT1 (R205, R314, R442). -/
def State.readOpen (s : State) (acc : Accessor) (b : Inst) (n : RegName) (ix : List Nat) : Bool :=
  s.ticketFor acc n ix
    && (isLocal acc || !(b.type == 0x24 || b.type == 0x25 || n.ofInstall) || n == .netPartEnt0 || n == .netPartEnt1)

/-- A write reaches the register. Commands of CLK and the install engine answer VC3 with DENIED; every other write over VC3 to CLK, FLT, NET, MGT
and the install engine is dropped (R205, R314, R399, R415, R442). -/
def State.writeOpen (s : State) (acc : Accessor) (b : Inst) (n : RegName) (ix : List Nat) : Bool :=
  n == .clkGateCmd || n == .insCmd
    || (s.ticketFor acc n ix && writesReach acc b.type && (isLocal acc || !n.ofInstall))

/-! ### Reads -/

/-- RC fields back at their reset value (R23). -/
def State.readClear (s : State) (n : RegName) (ix : List Nat) : State :=
  let row := n.row
  if row.rc = 0 then s else s.setRg n ix ((s.rg n ix &&& ~~~(Word.ofNat row.rc)) ||| (Word.ofNat row.reset &&& Word.ofNat row.rc))

/-- LANE_ERR of the selected lane back at 0 (R347). -/
def State.clearLaneErr (s : State) (l : Nat) : State :=
  let (q, tx) := s.laneSel l
  if q < 34 then
    s.modLink l fun x =>
      if tx then { x with tx := modLane x.tx q fun y => { y with errs := 0 } } else { x with rx := modLane x.rx q fun y => { y with errs := 0 } }
  else s

/-- A read that reaches its register: the value, and the state that RC fields leave. -/
def readReg (s : State) (acc : Accessor) (n : RegName) (ix : List Nat) : Word × State :=
  if n.ofBank && (s.getTile (ix.getD 0 0)).bank == .unbound then (Word.ofNat n.row.reset, s)
  else match n with
    | .chpTod => readTod s
    | .netLedgerRank => let s := ledgerRank s; (s.rg .netLedgerRank [], s)
    | .lnkLaneData => (s.view acc n ix, s.clearLaneErr (ix.getD 0 0))
    | _ => (s.view acc n ix, s.readClear n ix)

/-- A word of the SWT window (R32): the table, its digest, else 0. DESIGN CHOICE (log entry 111): before the first self-test of a power-up has built
the table (R33), it reads with nothing failed, and the digest as 0. -/
def State.swtWord (s : State) (addr : Nat) : Word := match regAt addr with
  | some (.swtEntry, ix) => let e := ix.getD 0 0; Word.ofNat (leAt (s.swatchEntry (e / 4)) (8 * (e % 4)) 8)
  | some (n, ix) => s.rg n ix
  | none => 0

/-- A read of an aligned word of control space. -/
def readAt (s : State) (acc : Accessor) (addr : Nat) : Word × State :=
  match s.unreached addr with
  | some src => (allOnes, notice s .absentTarget src)
  | none => match instAt addr with
    | none => (s.swtWord addr, s)
    | some b =>
      if addr = b.unlockAddr then (if isLocal acc || !(b.type == 0x24 || b.type == 0x25) then pack [(16, 1, b2n (s.unlocked b))] else 0, s)
      else match regAt addr with
        | none => (0, s)
        | some (n, ix) => if s.readOpen acc b n ix then readReg s acc n ix else (0, s)

/-! ### Writes -/

/-- RW fields take the value and W1C bits are cleared by a 1 (R23). -/
def RegRow.write (r : RegRow) (old v : Word) : Word :=
  ((old &&& ~~~(Word.ofNat r.rw)) ||| (v &&& Word.ofNat r.rw)) &&& ~~~(v &&& Word.ofNat r.w1c)

/-- A register that keeps what is written. -/
def State.plainWrite (s : State) (n : RegName) (ix : List Nat) (v : Word) : State :=
  if n.row.rw = 0 ∧ n.row.w1c = 0 then s else s.setRg n ix (n.row.write (s.rg n ix) v)

/-- CLO_CMD (R289). -/
def cloCommand (s : State) (acc : Accessor) (v : Word) : State :=
  match field v 0 4 with
  | 1 => cmdCreate s acc
  | 2 => cmdGrant s acc
  | 3 => cmdRelease s acc
  | 4 => cmdRepair s acc
  | 5 => cmdPreempt s acc
  | 6 => cmdResume s acc
  | 7 => cmdDestroy s acc
  | 8 => cmdRebind s acc
  | 9 => cmdOwners s acc
  | 10 => cmdTileBist s acc (bitOf v 4)
  | _ => cloCmd s [(true, .rejected)] id

/-- SRV_CMD (R212). -/
def srvCommand (s : State) (acc : Accessor) (v : Word) : State :=
  match field v 0 4 with
  | 1 => cmdOpen s acc {}
  | 2 => cmdAdmit s acc {}
  | 3 => cmdCancel s acc
  | 4 => cmdClose s acc
  | 5 => cmdTailorBind s acc {}
  | 6 => cmdTailorUnbind s acc
  | 7 => cmdEndPlan s acc
  | _ => srvCmd s acc [(true, .rejected)] id

/-- NET_PART_CMD (R375). -/
def partCommand (s : State) (acc : Accessor) (v : Word) : State :=
  match field v 0 4 with
  | 1 => cmdJoin s acc
  | 2 => cmdLeave s acc
  | 3 => cmdDistribute s acc
  | 4 => cmdLaunch s acc
  | 5 => cmdAbort s acc
  | _ => onBlock s srcNet fun s => if acc = .vc3 then s else s.finish .netPartCmdStatus [] (if isCore acc then .rejected else .denied)

/-- MEM_CMD (R266). -/
def memCommand (s : State) (acc : Accessor) (m : Nat) (v : Word) : State :=
  match field v 0 4 with
  | 1 => memCmd s acc m .retrain (bitOf v 4)
  | 2 => memCmd s acc m .bist (bitOf v 4)
  | _ => onBlock s (srcMem m) fun s => s.finish .memCmdStatus [m] (if isLocal acc then .rejected else .denied)

/-- MOR_CMD (R268). -/
def morCommand (s : State) (acc : Accessor) (v : Word) : State :=
  match field v 0 4 with
  | 1 => cmdHint s acc
  | 2 => cmdErasure s acc
  | _ => morCmd s acc [(true, .rejected)] id

/-- INS_CMD (R205). -/
def insCommand (s : State) (acc : Accessor) (v : Word) : State :=
  match field v 0 4 with
  | 1 => cmdArm s acc
  | 2 => cmdStart s acc
  | 3 => cmdDisarm s acc
  | _ => insCmd s acc [(true, .rejected)] id

/-- VLT_CMD (R206). -/
def vltCommand (s : State) (acc : Accessor) (i : Nat) (v : Word) : State :=
  match field v 0 4 with
  | 1 => cmdRegionFree s acc i (field v 4 6)
  | 2 => cmdRecal s acc i (bitOf v 10)
  | _ => vltCmd s acc i [(true, .rejected)] id

/-- LNK_CMD (R347). -/
def lnkCommand (s : State) (acc : Accessor) (l : Nat) (v : Word) : State :=
  match field v 0 4 with
  | 1 => cmdFullTrain s acc l (bitOf v 4) (bitOf v 5)
  | 2 => cmdFastRetrain s acc l
  | 3 => cmdAcceptHalf s acc l
  | _ => lnkCmd s acc l [(true, .rejected)] id

/-- SEC_CMD (R441). -/
def secCommand (s : State) (acc : Accessor) (v : Word) : State :=
  match field v 0 4 with
  | 1 => secCmd s acc confirm
  | 2 => cmdActivate s acc (bitOf v 4)
  | 3 => cmdAttest s acc
  | 4 => cmdEndorse s acc
  | _ => secCmd s acc fun s => (.rejected, s)

/-- CLK_GATE_CMD (R399). -/
def gateCommand (s : State) (acc : Accessor) (v : Word) : State :=
  match field v 10 3 with
  | 4 => fabricOff s acc
  | 5 => fabricOn s acc
  | 6 | 7 => onBlock s srcClk fun s => gateAnswer s (if isLocal acc then .rejected else .denied) 0
  | a => gate s acc (field v 0 10) a

/-- FLT_JRN_CTL (R415): MODE keeps its value while the plan is not IDLE. -/
def jrnCtlWrite (s : State) (k : Nat) (v : Word) : State :=
  if (s.getCtx k).plan.state = .idle then s.plainWrite .fltJrnCtl [k] v else s.setBit .fltJrnCtl [k] 2 (bitOf v 2)

/-- FLT_JRN_TAIL (R409, R415): records that wait for room go on. -/
def jrnTailWrite (s : State) (k : Nat) (v : Word) : State :=
  let s := (s.plainWrite .fltJrnTail [k] v).jrnFlush k
  match s.srvWait with
  | some w => if w.slot = k then finishTailor s w else s
  | none => s

/-- CLK_SSC (R396): a setting written while the port's link is DOWN is in use at once. -/
def sscWrite (s : State) (p : Nat) (v : Word) : State :=
  let s := s.plainWrite .clkSsc [p] v
  if (s.getCxl p).link = .down then s.modCxl p fun x => { x with sscInUse := s.fld .clkSsc [p] 0 8 } else s

/-- LNK_TXEQ and LNK_RXEQ of the selected lane (R347). -/
def eqWrite (s : State) (l : Nat) (tx : Bool) (v : Word) : State :=
  let (q, _) := s.laneSel l
  if q < 34 then
    s.modLink l fun x =>
      if tx then { x with txeq := KMap.set 0 x.txeq q (Word.ofNat (field v 0 25)) } else { x with rxeq := KMap.set 0 x.rxeq q (pack [(8, 8, field v 8 8)]) }
  else s

/-- A change of the security association that MGT_SA_SEL names (R442). -/
def saWrite (s : State) (f : Sa → Sa) : State :=
  s.modPort fun p => { p with sas := KMap.upd {} p.sas (s.fld .mgtSaSel [] 0 3) f }

/-- A write that reaches its register. -/
def writeReg (s : State) (acc : Accessor) (n : RegName) (ix : List Nat) (v : Word) : State :=
  let i := ix.getD 0 0
  let j := ix.getD 1 0
  match n with
  | .timMtSet => mtSet s v
  | .timRootCtl => rootEnSet s v
  | .timCtxResume => ctxResume s acc i v
  | .tilSyncWatch => watchWrite s acc i j v
  | .ldrCmd => cmdLoad s acc v
  | .insCmd => insCommand s acc v
  | .vltCmd => vltCommand s acc i v
  | .srvCmd => srvCommand s acc v
  | .memCmd => memCommand s acc i v
  | .morCmd => morCommand s acc v
  | .cloCmd => cloCommand s acc v
  | .netPartCmd => partCommand s acc v
  | .netTopo => if slots.all fun k => (s.getCtx k).part.state == .free then s.plainWrite n ix v else s
  | .lnkCmd => lnkCommand s acc i v
  | .lnkCtl => ctlWrite s i v
  | .lnkTxeq => eqWrite s i true v
  | .lnkRxeq => eqWrite s i false v
  | .clkCap => capWrite s v
  | .clkMgtMux => mgtMuxWrite s v
  | .clkSpMux => spMuxWrite s v
  | .clkGateCmd => gateCommand s acc v
  | .clkFmeasCtl => fmeasWrite s v
  | .clkSsc => sscWrite s i v
  | .fltAck => fltAck s v
  | .fltAlive => aliveConfig s v
  | .fltAliveKick => if bitOf v 0 then aliveKick s else s
  | .fltJrnCtl => jrnCtlWrite s i v
  | .fltJrnTail => jrnTailWrite s i v
  | .fltSnapCmd => snap s acc v
  | .fltInject => fltInject s v
  | .secCmd => secCommand s acc v
  | .mgtSaKey => saWrite s fun (x : Sa) => { x with key := KMap.set 0 x.key i v }
  | .mgtSaSci => saWrite s fun (x : Sa) => { x with sci := v }
  | .mgtSaCtl => saWrite s fun (x : Sa) => { x with ctl := Word.ofNat (field v 0 33) }
  | .mgtAper => aperWrite s acc i v
  | .mgtFlagWatch => flagWatchWrite s i v
  | _ => s.plainWrite n ix v

/-- A write to a register while its block's expert half is locked, for the upper half (R37). -/
def lockedWrite (s : State) (b : Inst) (addr : Nat) (act : State → State) : State := if b.upper addr then onUnlocked s b act else act s

/-- A write of an aligned word of control space. -/
def writeAt (s : State) (acc : Accessor) (addr : Nat) (v : Word) : State :=
  match s.unreached addr with
  | some src => notice s .absentTarget src
  | none => match instAt addr with
    | none => s
    | some b =>
      if addr = b.unlockAddr then (if writesReach acc b.type then expertWrite s b v else s)
      else match regAt addr with
        | none => s
        | some (n, ix) => if s.writeOpen acc b n ix then lockedWrite s b addr fun s => writeReg s acc n ix v else s

/-! ### The rows -/

/-- An access of 64 bits at an address that need not be aligned. -/
def aligned (addr : BitVec 32) : Bool := addr.toNat % 8 == 0

def execRegisterWrite (acc : Accessor) (addr : BitVec 32) (value : Word) (s : State) : Host.Outcome State Fault Refusal :=
  if aligned addr then .next (writeAt s acc addr.toNat value) else execMisaligned acc addr 8 true s

def execRcRegisterRead (acc : Accessor) (addr : BitVec 32) (s : State) : Host.Outcome State Fault Refusal :=
  if aligned addr then
    let (w, s) := readAt s acc addr.toNat
    .next (s.answer w)
  else execMisaligned acc addr 8 false s

/-- A remote access with VC3's rights, and REG_RESP to its requester (R302); the manual gives neither body (log entry 29). -/
def execRegReq (src : Coord) (write : Bool) (addr : BitVec 32) (value : Word) (bytes : Nat) (s : State) : Host.Outcome State Fault Refusal :=
  let (w, s) := if bytes = 8 ∧ aligned addr then (if write then (0, writeAt s .vc3 addr.toNat value) else readAt s .vc3 addr.toNat)
    else (if write then 0 else allOnes, misalignedNotice s addr.toNat)
  .next (sendMachine s src.toNat 8 3 (leBytes 8 w.toNat))

/-- A response reaches the software that asked (R302). -/
def execRegResp (value : Word) (s : State) : Host.Outcome State Fault Refusal := .next (s.answer value)

/-- Consecutive words read with the service processor's rights. -/
def readWords (s : State) (addr : Nat) : Nat → List Byte × State
  | 0 => ([], s)
  | n + 1 =>
    let (w, s) := readAt s .sp (addr % 2 ^ 32)
    let (l, s) := readWords s (addr + 8) n
    (leBytes 8 w.toNat ++ l, s)

/-- READ on the service port (R428): 1 to 1,024 words. -/
def execSvcRead (seq : BitVec 16) (addr : BitVec 32) (count : Nat) (s : State) : Host.Outcome State Fault Refusal :=
  .next (svcRequest s 8 seq fun s =>
    if count = 0 ∨ 1024 < count then (.rejected, [], s)
    else if !aligned addr then (.ok, (List.range count).flatMap fun _ => leBytes 8 allOnes.toNat, s.each (List.range count) fun s i =>
        misalignedNotice s (addr.toNat + 8 * i))
    else
      let (data, s) := readWords s addr.toNat count
      (.ok, data, s))

end Sys2Proof.Machine
end

