-- ==== Sys2Proof/Machine/Dispatch.lean ====
section
/-! DEFINITION. What each command does: one direct call of its meaning per constructor of `Instr`. -/

namespace Sys2Proof.Machine

def exec (i : Instr) (s : State) : Host.Outcome State Fault Refusal :=
  match i with
  | .registerWrite acc addr value => Sys2Proof.Machine.execRegisterWrite acc addr value s
  | .rcRegisterRead acc addr => Sys2Proof.Machine.execRcRegisterRead acc addr s
  | .misaligned acc addr bytes write => Sys2Proof.Machine.execMisaligned acc addr bytes write s
  | .absentTarget acc addr write => Sys2Proof.Machine.execAbsentTarget acc addr write s
  | .expertUnlock acc addr value => Sys2Proof.Machine.execExpertUnlock acc addr value s
  | .timMtSet acc value => Sys2Proof.Machine.execTimMtSet acc value s
  | .rootEnWrite acc value => Sys2Proof.Machine.execRootEnWrite acc value s
  | .ppsEdge => Sys2Proof.Machine.execPpsEdge s
  | .todByteReceive b => Sys2Proof.Machine.execTodByteReceive b s
  | .mtSlewTick => Sys2Proof.Machine.execMtSlewTick s
  | .planStart k => Sys2Proof.Machine.execPlanStart k s
  | .planCycleExecute k => Sys2Proof.Machine.execPlanCycleExecute k s
  | .frostTimeout k => Sys2Proof.Machine.execFrostTimeout k s
  | .timCtxResume acc k value => Sys2Proof.Machine.execTimCtxResume acc k value s
  | .streamLineFetch t found => Sys2Proof.Machine.execStreamLineFetch t found s
  | .unitStart t u bankWaits found => Sys2Proof.Machine.execUnitStart t u bankWaits found s
  | .macroOpComplete t u => Sys2Proof.Machine.execMacroOpComplete t u s
  | .nop t => Sys2Proof.Machine.execNop t s
  | .wait t => Sys2Proof.Machine.execWait t s
  | .signal t => Sys2Proof.Machine.execSignal t s
  | .fence t => Sys2Proof.Machine.execFence t s
  | .stepEnd t => Sys2Proof.Machine.execStepEnd t s
  | .endOp t => Sys2Proof.Machine.execEndOp t s
  | .sleep t => Sys2Proof.Machine.execSleep t s
  | .wakeHint t => Sys2Proof.Machine.execWakeHint t s
  | .tileWakeComplete t => Sys2Proof.Machine.execTileWakeComplete t s
  | .load t q nth found => Sys2Proof.Machine.execLoad t q nth found s
  | .store t q nth found => Sys2Proof.Machine.execStore t q nth found s
  | .move t found => Sys2Proof.Machine.execMove t found s
  | .send t found => Sys2Proof.Machine.execSend t found s
  | .recv t waits => Sys2Proof.Machine.execRecv t waits s
  | .matmul t found => Sys2Proof.Machine.execMatmul t found s
  | .attn t found => Sys2Proof.Machine.execAttn t found s
  | .norm t found => Sys2Proof.Machine.execNorm t found s
  | .act t found => Sys2Proof.Machine.execAct t found s
  | .softmax t found => Sys2Proof.Machine.execSoftmax t found s
  | .requant t found => Sys2Proof.Machine.execRequant t found s
  | .vec t found => Sys2Proof.Machine.execVec t found s
  | .tailorApply t found => Sys2Proof.Machine.execTailorApply t found s
  | .vaultGemv t => Sys2Proof.Machine.execVaultGemv t s
  | .vaultStream t => Sys2Proof.Machine.execVaultStream t s
  | .tailorGather t found => Sys2Proof.Machine.execTailorGather t found s
  | .sample t found => Sys2Proof.Machine.execSample t found s
  | .sampleCollect t => Sys2Proof.Machine.execSampleCollect t s
  | .batchFetch t found => Sys2Proof.Machine.execBatchFetch t found s
  | .vaultRequestStart v k found => Sys2Proof.Machine.execVaultRequestStart v k found s
  | .syncWatchArm acc t w value => Sys2Proof.Machine.execSyncWatchArm acc t w value s
  | .syncWatchTimeout t w => Sys2Proof.Machine.execSyncWatchTimeout t w s
  | .meshFlitDeliver t stream waits => Sys2Proof.Machine.execMeshFlitDeliver t stream waits s
  | .receiveTreeWrite l bufferUe waits => Sys2Proof.Machine.execReceiveTreeWrite l bufferUe waits s
  | .vc0FlitReceive l slot flit signal => Sys2Proof.Machine.execVc0FlitReceive l slot flit signal s
  | .packetReceive l vc => Sys2Proof.Machine.execPacketReceive l vc s
  | .resendReq src seq part => Sys2Proof.Machine.execResendReq src seq part s
  | .routeBankUnlock k => Sys2Proof.Machine.execRouteBankUnlock k s
  | .regReq src write addr value bytes => Sys2Proof.Machine.execRegReq src write addr value bytes s
  | .regResp value => Sys2Proof.Machine.execRegResp value s
  | .linkControlFlit l flit arrival => Sys2Proof.Machine.execLinkControlFlit l flit arrival s
  | .replayFlitReceive l orig flit signal => Sys2Proof.Machine.execReplayFlitReceive l orig flit signal s
  | .replayTimerExpiry l fn => Sys2Proof.Machine.execReplayTimerExpiry l fn s
  | .ackStall l => Sys2Proof.Machine.execAckStall l s
  | .laneCheck l mismatch spareErrs => Sys2Proof.Machine.execLaneCheck l mismatch spareErrs s
  | .laneSpared l transmit => Sys2Proof.Machine.execLaneSpared l transmit s
  | .trainingSequence l lane seq eye => Sys2Proof.Machine.execTrainingSequence l lane seq eye s
  | .trainingComplete l rxGood txGood rtt => Sys2Proof.Machine.execTrainingComplete l rxGood txGood rtt s
  | .trainFail l => Sys2Proof.Machine.execTrainFail l s
  | .rosReceive l full => Sys2Proof.Machine.execRosReceive l full s
  | .fastRetrainComplete l rxGood txGood farAck => Sys2Proof.Machine.execFastRetrainComplete l rxGood txGood farAck s
  | .fastRetrainTimeout l => Sys2Proof.Machine.execFastRetrainTimeout l s
  | .fullTrain acc l queue force => Sys2Proof.Machine.execFullTrain acc l queue force s
  | .fastRetrain acc l => Sys2Proof.Machine.execFastRetrain acc l s
  | .acceptHalf acc l => Sys2Proof.Machine.execAcceptHalf acc l s
  | .queuedFullTrainStart l => Sys2Proof.Machine.execQueuedFullTrainStart l s
  | .linkDisable acc l value => Sys2Proof.Machine.execLinkDisable acc l value s
  | .signalLoss l => Sys2Proof.Machine.execSignalLoss l s
  | .autoTrainRetry l => Sys2Proof.Machine.execAutoTrainRetry l s
  | .installArm acc => Sys2Proof.Machine.execInstallArm acc s
  | .installStart acc => Sys2Proof.Machine.execInstallStart acc s
  | .installDisarm acc => Sys2Proof.Machine.execInstallDisarm acc s
  | .installRingSlot => Sys2Proof.Machine.execInstallRingSlot s
  | .headerChunk src raw => Sys2Proof.Machine.execHeaderChunk src raw s
  | .dataChunk src raw => Sys2Proof.Machine.execDataChunk src raw s
  | .endChunk src raw => Sys2Proof.Machine.execEndChunk src raw s
  | .installVerifyDone v region => Sys2Proof.Machine.execInstallVerifyDone v region s
  | .regionFree acc v region => Sys2Proof.Machine.execRegionFree acc v region s
  | .recal acc v queue => Sys2Proof.Machine.execRecal acc v queue s
  | .recalQueuedStart v => Sys2Proof.Machine.execRecalQueuedStart v s
  | .recalDone v found => Sys2Proof.Machine.execRecalDone v found s
  | .openReq acc found => Sys2Proof.Machine.execOpenReq acc found s
  | .admitReq acc found => Sys2Proof.Machine.execAdmitReq acc found s
  | .cancel acc => Sys2Proof.Machine.execCancel acc s
  | .closeReq acc => Sys2Proof.Machine.execCloseReq acc s
  | .tailorBind acc found => Sys2Proof.Machine.execTailorBind acc found s
  | .tailorUnbind acc => Sys2Proof.Machine.execTailorUnbind acc s
  | .endPlan acc => Sys2Proof.Machine.execEndPlan acc s
  | .freezePoint k => Sys2Proof.Machine.execFreezePoint k s
  | .stepMessage part gen msg => Sys2Proof.Machine.execStepMessage part gen msg s
  | .collectComplete t => Sys2Proof.Machine.execCollectComplete t s
  | .resultSlotConsume k found => Sys2Proof.Machine.execResultSlotConsume k found s
  | .heldDeliveryWrite k slot => Sys2Proof.Machine.execHeldDeliveryWrite k slot s
  | .patrolScrub m frame found => Sys2Proof.Machine.execPatrolScrub m frame found s
  | .memTempSample m temp => Sys2Proof.Machine.execMemTempSample m temp s
  | .retrain acc m queue => Sys2Proof.Machine.execRetrain acc m queue s
  | .bist acc m queue => Sys2Proof.Machine.execBist acc m queue s
  | .memQueuedStart m => Sys2Proof.Machine.execMemQueuedStart m s
  | .memCmdDone m failed => Sys2Proof.Machine.execMemCmdDone m failed s
  | .cxlDown p => Sys2Proof.Machine.execCxlDown p s
  | .cxlTrainRetry p => Sys2Proof.Machine.execCxlTrainRetry p s
  | .cxlLinkUp p rate half => Sys2Proof.Machine.execCxlLinkUp p rate half s
  | .cxlAttach p frames unsupported => Sys2Proof.Machine.execCxlAttach p frames unsupported s
  | .cxlHealthPoll p health => Sys2Proof.Machine.execCxlHealthPoll p health s
  | .morEpoch => Sys2Proof.Machine.execMorEpoch s
  | .morScan => Sys2Proof.Machine.execMorScan s
  | .demoteCopyDone ex found => Sys2Proof.Machine.execDemoteCopyDone ex found s
  | .promoteCopyDone ex found => Sys2Proof.Machine.execPromoteCopyDone ex found s
  | .hint acc => Sys2Proof.Machine.execHint acc s
  | .erasure acc => Sys2Proof.Machine.execErasure acc s
  | .erasureComplete found => Sys2Proof.Machine.execErasureComplete found s
  | .create acc => Sys2Proof.Machine.execCreate acc s
  | .grant acc => Sys2Proof.Machine.execGrant acc s
  | .release acc => Sys2Proof.Machine.execRelease acc s
  | .repair acc => Sys2Proof.Machine.execRepair acc s
  | .preempt acc => Sys2Proof.Machine.execPreempt acc s
  | .resume acc => Sys2Proof.Machine.execResume acc s
  | .destroy acc => Sys2Proof.Machine.execDestroy acc s
  | .rebind acc => Sys2Proof.Machine.execRebind acc s
  | .owners acc => Sys2Proof.Machine.execOwners acc s
  | .tileBist acc queue => Sys2Proof.Machine.execTileBist acc queue s
  | .tileBistQueuedStart t => Sys2Proof.Machine.execTileBistQueuedStart t s
  | .tileBistDone t pass => Sys2Proof.Machine.execTileBistDone t pass s
  | .saveDrainEnd k => Sys2Proof.Machine.execSaveDrainEnd k s
  | .preemptTimeout k => Sys2Proof.Machine.execPreemptTimeout k s
  | .saveComplete k => Sys2Proof.Machine.execSaveComplete k s
  | .restoreComplete k => Sys2Proof.Machine.execRestoreComplete k s
  | .quarantineEnd k => Sys2Proof.Machine.execQuarantineEnd k s
  | .frameZero cxl m frame => Sys2Proof.Machine.execFrameZero cxl m frame s
  | .tileClear t => Sys2Proof.Machine.execTileClear t s
  | .imageLoad acc value => Sys2Proof.Machine.execImageLoad acc value s
  | .imageLoadDone stagingUe => Sys2Proof.Machine.execImageLoadDone stagingUe s
  | .join acc => Sys2Proof.Machine.execJoin acc s
  | .leave acc => Sys2Proof.Machine.execLeave acc s
  | .releasingEnd k => Sys2Proof.Machine.execReleasingEnd k s
  | .partQuarantineEnd e => Sys2Proof.Machine.execPartQuarantineEnd e s
  | .distribute acc => Sys2Proof.Machine.execDistribute acc s
  | .imagePacket part gen src offset length data => Sys2Proof.Machine.execImagePacket part gen src offset length data s
  | .imageTimeout k => Sys2Proof.Machine.execImageTimeout k s
  | .loadWaitRetry k => Sys2Proof.Machine.execLoadWaitRetry k s
  | .launch acc => Sys2Proof.Machine.execLaunch acc s
  | .abort acc => Sys2Proof.Machine.execAbort acc s
  | .prepare msg => Sys2Proof.Machine.execPrepare msg s
  | .answer msg => Sys2Proof.Machine.execAnswer msg s
  | .prepareRetry k => Sys2Proof.Machine.execPrepareRetry k s
  | .commit msg => Sys2Proof.Machine.execCommit msg s
  | .abortFlood msg => Sys2Proof.Machine.execAbortFlood msg s
  | .launchDeadline k => Sys2Proof.Machine.execLaunchDeadline k s
  | .contextLost part gen => Sys2Proof.Machine.execContextLost part gen s
  | .preemptPrepare msg => Sys2Proof.Machine.execPreemptPrepare msg s
  | .preemptAnswer msg => Sys2Proof.Machine.execPreemptAnswer msg s
  | .preemptGo msg => Sys2Proof.Machine.execPreemptGo msg s
  | .preemptCancel msg => Sys2Proof.Machine.execPreemptCancel msg s
  | .preemptDeadline k => Sys2Proof.Machine.execPreemptDeadline k s
  | .ledgerRankRead acc => Sys2Proof.Machine.execLedgerRankRead acc s
  | .marginSample margins temps => Sys2Proof.Machine.execMarginSample margins temps s
  | .critMargin r => Sys2Proof.Machine.execCritMargin r s
  | .thermalTrip r => Sys2Proof.Machine.execThermalTrip r s
  | .stepUp r => Sys2Proof.Machine.execStepUp r s
  | .capWrite acc value => Sys2Proof.Machine.execCapWrite acc value s
  | .synthLock r => Sys2Proof.Machine.execSynthLock r s
  | .clkPllUnlock r current => Sys2Proof.Machine.execClkPllUnlock r current s
  | .muxSwitch m => Sys2Proof.Machine.execMuxSwitch m s
  | .clkMuxHung m => Sys2Proof.Machine.execClkMuxHung m s
  | .clkSourceDead r => Sys2Proof.Machine.execClkSourceDead r s
  | .avsFail => Sys2Proof.Machine.execAvsFail s
  | .freqAdvisory l region oldStep newStep cause => Sys2Proof.Machine.execFreqAdvisory l region oldStep newStep cause s
  | .mgtMuxSwitch acc value => Sys2Proof.Machine.execMgtMuxSwitch acc value s
  | .mgtMuxForce acc => Sys2Proof.Machine.execMgtMuxForce acc s
  | .spMuxSwitch acc value => Sys2Proof.Machine.execSpMuxSwitch acc value s
  | .gateRun acc node => Sys2Proof.Machine.execGateRun acc node s
  | .gateSleep acc node => Sys2Proof.Machine.execGateSleep acc node s
  | .gateDeep acc node => Sys2Proof.Machine.execGateDeep acc node s
  | .gateOff acc node => Sys2Proof.Machine.execGateOff acc node s
  | .fabricOff acc => Sys2Proof.Machine.execFabricOff acc s
  | .fabricOn acc => Sys2Proof.Machine.execFabricOn acc s
  | .regionPllStop r => Sys2Proof.Machine.execRegionPllStop r s
  | .refCheck edges => Sys2Proof.Machine.execRefCheck edges s
  | .fmeasStart acc value => Sys2Proof.Machine.execFmeasStart acc value s
  | .fmeasDone count => Sys2Proof.Machine.execFmeasDone count s
  | .fltAck acc value => Sys2Proof.Machine.execFltAck acc value s
  | .fltInject acc value => Sys2Proof.Machine.execFltInject acc value s
  | .aliveToggle => Sys2Proof.Machine.execAliveToggle s
  | .aliveWatchdog => Sys2Proof.Machine.execAliveWatchdog s
  | .aliveKick acc value => Sys2Proof.Machine.execAliveKick acc value s
  | .aliveConfigWrite acc value => Sys2Proof.Machine.execAliveConfigWrite acc value s
  | .snap acc value => Sys2Proof.Machine.execSnap acc value s
  | .snapDone => Sys2Proof.Machine.execSnapDone s
  | .mgtFrameReceive frame => Sys2Proof.Machine.execMgtFrameReceive frame s
  | .mgtFrameTransmit bytes => Sys2Proof.Machine.execMgtFrameTransmit bytes s
  | .aperValidWrite acc a value => Sys2Proof.Machine.execAperValidWrite acc a value s
  | .apertureAccess core a offset bytes data found => Sys2Proof.Machine.execApertureAccess core a offset bytes data found s
  | .flagWatchArm acc w value => Sys2Proof.Machine.execFlagWatchArm acc w value s
  | .flagWatchTimeout w => Sys2Proof.Machine.execFlagWatchTimeout w s
  | .svcStatus seq => Sys2Proof.Machine.execSvcStatus seq s
  | .fwBegin seq slot blocks => Sys2Proof.Machine.execFwBegin seq slot blocks s
  | .fwPart seq block part data => Sys2Proof.Machine.execFwPart seq block part data s
  | .fwEnd seq => Sys2Proof.Machine.execFwEnd seq s
  | .svcActivate seq arg => Sys2Proof.Machine.execSvcActivate seq arg s
  | .svcAttest seq arg nonce => Sys2Proof.Machine.execSvcAttest seq arg nonce s
  | .recover seq => Sys2Proof.Machine.execRecover seq s
  | .svcRead seq addr count => Sys2Proof.Machine.execSvcRead seq addr count s
  | .confirm acc => Sys2Proof.Machine.execConfirm acc s
  | .activate acc queue => Sys2Proof.Machine.execActivate acc queue s
  | .activationQueuedStart => Sys2Proof.Machine.execActivationQueuedStart s
  | .attest acc => Sys2Proof.Machine.execAttest acc s
  | .endorse acc => Sys2Proof.Machine.execEndorse acc s
  | .trialTimeout => Sys2Proof.Machine.execTrialTimeout s
  | .porstRelease => Sys2Proof.Machine.execPorstRelease s
  | .railPowerGood rail => Sys2Proof.Machine.execRailPowerGood rail s
  | .railPowerGoodTimeout rail => Sys2Proof.Machine.execRailPowerGoodTimeout rail s
  | .resetRelease found => Sys2Proof.Machine.execResetRelease found s
  | .ref156Retry found => Sys2Proof.Machine.execRef156Retry found s
  | .chipReset => Sys2Proof.Machine.execChipReset s
  | .powerGoodLoss rail => Sys2Proof.Machine.execPowerGoodLoss rail s
  | .pmbAlert rail current => Sys2Proof.Machine.execPmbAlert rail current s
  | .i3cStatus => Sys2Proof.Machine.execI3cStatus s
  | .i3cPower packagePower => Sys2Proof.Machine.execI3cPower packagePower s
  | .i3cThermal vaultTemp => Sys2Proof.Machine.execI3cThermal vaultTemp s
  | .i3cAlive => Sys2Proof.Machine.execI3cAlive s
  | .i3cReset b => Sys2Proof.Machine.execI3cReset b s
  | .powerDown b => Sys2Proof.Machine.execPowerDown b s
  | .bypass => Sys2Proof.Machine.execBypass s
  | .idcode => Sys2Proof.Machine.execIdcode s
  | .samplePreload pins load => Sys2Proof.Machine.execSamplePreload pins load s
  | .extest => Sys2Proof.Machine.execExtest s
  | .highz => Sys2Proof.Machine.execHighz s
  | .clamp => Sys2Proof.Machine.execClamp s
  | .frameSend l bad => Sys2Proof.Machine.execFrameSend l bad s
  | .laneLockLoss l lane => Sys2Proof.Machine.execLaneLockLoss l lane s
  | .porstAssert => Sys2Proof.Machine.execPorstAssert s
  | .memUeMgt core offset => Sys2Proof.Machine.execMemUeMgt core offset s

end Sys2Proof.Machine
end

