-- ==== Sys2Proof/Safety.lean ====
section
/-! DEFINITION. What statements are said in: steps that go on, frames over the parts of the state, and the canonical form of
every family and memory of the state. -/

namespace Sys2Proof.Safety

open Sys2Proof.Machine

/-- The machine goes on from a state: its step ends in no fault and no refusal. -/
def Goes (s : State) : Prop := ∃ t, step s = Host.Outcome.next t

/-- The machine stops on a state with a fault. -/
def Faults (s : State) : Prop := ∃ r, step s = Host.Outcome.fault r

/-! ### Frames -/

/-- The parts of the state that commands change: the stored registers, and each kind of thing that the state holds beside them. -/
inductive Part where
  | out | resp | freeCtr | csr | fuses | failed | flt | snap | time | clk | ctx | tile | hbm | hbmPtr | cxl | mgt | mor
  | link | net | self | req | cloOp | partQuar | vault | ins | srvWait | loader | port | sec | pins
deriving DecidableEq, Repr

/-- Two states agree on a part. -/
def Part.same (s t : State) : Part → Prop
  | .out => t.out = s.out
  | .resp => t.resp = s.resp
  | .freeCtr => t.freeCtr = s.freeCtr
  | .csr => t.csr = s.csr
  | .fuses => t.fuses = s.fuses
  | .failed => t.failedT = s.failedT ∧ t.failedB = s.failedB ∧ t.tested = s.tested ∧ t.shortT = s.shortT
  | .flt => t.flt = s.flt
  | .snap => t.snap = s.snap
  | .time => t.time = s.time
  | .clk => t.clk = s.clk
  | .ctx => t.ctx = s.ctx
  | .tile => t.tile = s.tile
  | .hbm => t.hbm = s.hbm
  | .hbmPtr => t.hbmPtr = s.hbmPtr
  | .cxl => t.cxl = s.cxl
  | .mgt => t.mgt = s.mgt
  | .mor => t.mor = s.mor
  | .link => t.link = s.link
  | .net => t.net = s.net
  | .self => t.self = s.self
  | .req => t.req = s.req ∧ t.admSeq = s.admSeq
  | .cloOp => t.cloOp = s.cloOp
  | .partQuar => t.partQuar = s.partQuar
  | .vault => t.vault = s.vault
  | .ins => t.ins = s.ins
  | .srvWait => t.srvWait = s.srvWait
  | .loader => t.loader = s.loader
  | .port => t.port = s.port
  | .sec => t.sec = s.sec
  | .pins => t.pins = s.pins

/-- The frame of a command: every part but the named ones stays, and so does the queue. -/
def OnlyChanges (ps : List Part) (s t : State) : Prop :=
  t.pending = s.pending ∧ ∀ p, p ∉ ps → p.same s t

/-- A command completes on a state: it answers a next state, of which `q` holds and in which only the named parts of the machine have
changed. -/
def Completes (c : Instr) (s : State) (ps : List Part) (q : State → Prop) : Prop :=
  ∃ t, exec c s = Host.Outcome.next t ∧ q t ∧ OnlyChanges ps s t

/-- The stored registers of a frame: every register instance whose address is not among the named ones stays. -/
def RegsKept (named : List Nat) (s t : State) : Prop :=
  ∀ (n : RegName) (ix : List Nat), n.addr ix ∉ named → t.rg n ix = s.rg n ix

/-- Every entry of a family but those with the named keys stays. -/
def Kept {α : Type} (d : α) (named : List Nat) (m m' : KMap α) : Prop := ∀ k, k ∉ named → KMap.get d m' k = KMap.get d m k

/-! ### The canonical form of the state -/

/-- The byte memories of a tile are in canonical form. -/
def TileOk (x : Tile) : Prop := x.sram.wf = true ∧ x.desc.wf = true

/-- So are those of the tiles in a save area. -/
def CtxOk (c : Ctx) : Prop := ∀ a, c.save = some a → ∀ x ∈ a.tiles, TileOk x

/-- Keys strictly rising. -/
def Rising {α : Type} (m : KMap α) : Prop := m.Pairwise fun a b => a.1 < b.1

/-- Every indexed family of the state and every byte memory is in canonical form: keys strictly rise and no entry holds what an
unlisted key reads as; the stored registers rise by address. -/
structure Canonical (s : State) : Prop where
  csr      : Rising s.csr
  ctx      : KMap.wf {} s.ctx = true
  tile     : KMap.wf {} s.tile = true
  hbm      : KMap.wf {} s.hbm = true
  cxl      : KMap.wf {} s.cxl = true
  link     : KMap.wf {} s.link = true
  req      : KMap.wf {} s.req = true
  vault    : KMap.wf {} s.vault = true
  partQuar : KMap.wf 0 s.partQuar = true
  mgt      : s.mgt.wf = true
  flash    : s.sec.flash.wf = true
  ctxs     : ∀ k, CtxOk (s.getCtx k)
  tiles    : ∀ t, TileOk (s.getTile t)
  hbms     : ∀ m, (s.getHbm m).mem.wf = true
  cxls     : ∀ p, (s.getCxl p).mem.wf = true
  vaults   : ∀ v, (s.getVault v).mem.wf = true

/-- The registers that keep what software writes and that read as they are kept: a write acts on nothing else (R23). -/
def plainReg : RegName → Bool
  | .timCtxStop | .timCtxFrostLimit | .timFrostTail | .tilDescSel | .tilSyncWatchDl | .tilSramUe | .ldrSrc | .ldrLen | .ldrStatus | .ldrRefuse
  | .insSession | .insRingBase | .insRingSlots | .vltUeLog | .vltCeLimit | .vltBlockSel | .srvArg0 | .srvArg1 | .srvArg2 | .srvArg3
  | .srvRecSel | .srvCtxEnd | .srvCtxRring | .srvCtxRrcfg | .srvCtxStepEst | .srvCtxEndvar | .srvCtxVtab | .memUeLog | .memScrub | .memCeLimit
  | .cxlPoll | .cxlPoisonLog | .morEpoch | .morScan | .morPromoteMin | .morHotSteps | .morArg0 | .morArg1 | .morArg2 | .morCtxKv0 | .morCtxKv1
  | .morCtxKv2 | .morCtxPtSel | .cloArg0 | .cloArg1 | .cloArg2 | .cloMapSel | .netRtSel | .netMeshSel | .lnkReplayCtl | .lnkDownCtl
  | .lnkLaneSel | .netPartArg0 | .netPartArg1 | .netPartArg2 | .netPartArg3 | .clkTherm | .clkMarginCtl | .fltCountCfg | .fltJrnBase
  | .fltJrnSize | .fltSnapArg | .secArg0 | .secArg1 | .secArg2 | .secTrialLimit | .mgtPortCtl | .mgtRate | .mgtSecyCtl | .mgtSaSel | .mgtNetIp
  | .mgtVlan | .mgtPeer | .mgtAperRange | .mgtFlagWatchDl | .memTemp | .memCode | .lnkLaneCtl | .vltCmdStatus | .memCmdStatus | .srvCmdStatus
  | .lnkCmdStatus | .netPartCmdStatus | .netLaunchLead | .netLedgerCtl | .netUnschedW | .netSampleCtl | .clkGateStatus | .clkFmeasRes
  | .fltJrnStatus | .mgtNetConflict => true
  | _ => false

/-- The fuses of two states agree but for the minimum SVN, which never falls (R418, R431). -/
def FusesKept (s t : State) : Prop := s.fuses.svn ≤ t.fuses.svn ∧ t.fuses = { s.fuses with svn := t.fuses.svn }

end Sys2Proof.Safety
end

