-- ==== Sys2Proof/Certificates/Slice0/Obligations.lean ====
section
/-! DEFINITION. The statements about the model, by the spec's files. A claim is a part of the obligation that names it. -/

open Sys2Proof Sys2Proof.Machine Sys2Proof.Safety

/-! ### The machine as a whole -/

/-- A step takes the command at the front of the queue and runs it on the state with the queue's rest; with no command waiting, machine time
advances by one tick, which is this model's choice for an empty queue (DESIGN CHOICE, log entry 3). -/
def Obligations.StepRunsFrontCommand : Prop :=
  (∀ (c : Instr) (rest : List Instr) (s : State), step { s with pending := c :: rest } = exec c { s with pending := rest })
  ∧ ∀ s : State, s.pending = [] →
      step s = .next { s with time := { s.time with mt := s.time.mt + 1, refTicks := s.time.refTicks + 1 } }

/-- After reset every stored register holds its reset value, MT is 0 and UNSYNCED, every context slot and tile is FREE with its plan IDLE, HBM trains, links
and CXL ports are down, no fault is recorded, ALIVE does not toggle, memories list nothing and no command waits. Where the manual states no
reset value the value is the model's (log entry 2). -/
def Claims.ResetState : Prop :=
  (∀ n ix, State.reset.rg n ix = Word.ofNat n.row.reset)
  ∧ State.reset.time.mt = 0 ∧ State.reset.time.sync = .unsynced ∧ State.reset.time.depth = 63
  ∧ (∀ k, (State.reset.getCtx k).state = .free ∧ (State.reset.getCtx k).gen = 0 ∧ (State.reset.getCtx k).plan.state = .idle
        ∧ (State.reset.getCtx k).part.state = .free)
  ∧ (∀ t, (State.reset.getTile t).state = .free ∧ (State.reset.getTile t).sram = [])
  ∧ (∀ m, (State.reset.getHbm m).phase = .training) ∧ (∀ p, (State.reset.getCxl p).link = .down)
  ∧ (∀ l, (State.reset.getLink l).state = .down)
  ∧ (∀ i, (State.reset.fltRec i).written = false) ∧ State.reset.flt.fatal = false ∧ State.reset.flt.aliveRun = false
  ∧ State.reset.mgt = [] ∧ State.reset.pending = [] ∧ State.reset.out = []

/-- The state after reset is in canonical form, and so are the bytes of every memory in it. -/
def Claims.ResetCanonical : Prop := Canonical State.reset

/-- The machine right after reset: what the spec gives, and every family of the state in canonical form. -/
def Obligations.ResetMachine : Prop :=
  Claims.ResetState ∧ Claims.ResetCanonical

/-- Every step keeps the canonical form: each register file, table and byte memory of the machine stays sorted by its keys without a repeat and lists no
entry that reads as an unlisted one, whatever the command. -/
def Obligations.StepKeepsCanonical : Prop := ∀ s t : State, Canonical s → step s = .next t → Canonical t

/-- A command leaves the queue of waiting commands as it stands. -/
def Claims.CommandsKeepQueue : Prop := ∀ (c : Instr) (s t : State), exec c s = .next t → t.pending = s.pending

/-- No step changes a fuse but the minimum SVN, and that never falls: anti-rollback holds in every state (R431). -/
def Claims.StepKeepsFuses : Prop := ∀ s t : State, step s = .next t → FusesKept s t

/-- No command touches the queue of waiting commands, and no step changes a fuse but the minimum SVN, which never falls. -/
def Obligations.QueueAndFuses : Prop :=
  Claims.CommandsKeepQueue ∧ Claims.StepKeepsFuses

/-- Every command but UNIT_START answers a next state on every state, and UNIT_START stops with one fault alone: a descriptor that the loaded
image does not define. No command is refused.
Where the manual is open this follows the model's choices in log entries 4 and 105. -/
def Obligations.OnlyUndefinedDescriptorStops : Prop :=
  ∀ (c : Instr) (s : State),
    (∃ t, exec c s = .next t)
    ∨ (∃ (x : TileIx) (u : UnitId) (b : Nat) (found : Findings) (i : Nat), c = .unitStart x u b found
        ∧ exec c s = .fault (.undefinedDescriptor x.val i) ∧ ∃ n, (s.getTile x.val).descLimit = some n ∧ n ≤ i)

/-! ### Registers (02_swatch_and_registers.md) -/

/-- An address of control space names at most one register instance: the one whose address it is, with its indices in range, at a multiple of 8
bytes. -/
def Obligations.RegisterMapSound : Prop :=
  ∀ (a : Nat) (n : RegName) (ix : List Nat), regAt a = some (n, ix) →
    n.addr ix = a ∧ a % 8 = 0 ∧ ix.length = n.row.dims.length ∧ ∀ (j i : Nat) (d : Nat × Nat), ix[j]? = some i → n.row.dims[j]? = some d → i < d.1

/-- R23, bit by bit: a write sets an RW bit to the bit written, a 1 clears a W1C bit and a 0 leaves it, and every other bit ignores the write. -/
def Obligations.FieldWrite : Prop :=
  ∀ (n : RegName) (old v : Word) (i : Nat), i < 64 →
    (n.row.write old v).getLsbD i =
      (if n.row.w1c.testBit i then old.getLsbD i && !v.getLsbD i
       else if n.row.rw.testBit i then v.getLsbD i
       else old.getLsbD i)

/-- REGISTER_WRITE and RC_REGISTER_READ of a register that keeps what is written: a write that reaches it, over an unlocked block where the register is
an expert one, changes its RW and W1C fields and nothing else of the machine; a read answers the word and returns RC fields to their reset
values. -/
def Claims.PlainRegisterAccess : Prop :=
  ∀ (acc : Accessor) (addr : BitVec 32) (v : Word) (b : Inst) (n : RegName) (ix : List Nat) (s : State),
    addr.toNat % 8 = 0 → instAt addr.toNat = some b → s.absent b.src = false → addr.toNat ≠ b.unlockAddr →
    regAt addr.toNat = some (n, ix) → plainReg n = true →
    (s.writeOpen acc b n ix = true → (b.upper addr.toNat = true → s.unlocked b = true) →
      Completes (.registerWrite acc addr v) s [.csr] fun t => t.rg n ix = n.row.write (s.rg n ix) v ∧ RegsKept [n.addr ix] s t)
    ∧ (s.readOpen acc b n ix = true →
        (n.ofBank = true → (s.getTile (ix.getD 0 0)).bank ≠ .unbound) →
        Completes (.rcRegisterRead acc addr) s [.resp, .csr] fun t =>
          t.resp = some (s.rg n ix)
          ∧ t.rg n ix = ((s.rg n ix &&& ~~~(Word.ofNat n.row.rc)) ||| (Word.ofNat n.row.reset &&& Word.ofNat n.row.rc))
          ∧ RegsKept [n.addr ix] s t)

/-- R22: an offset of a present block's window that names no register reads 0 and ignores writes, and nothing else of the machine changes; an address
in no block's window behaves as an absent block, with source 0: a write is dropped and a read answers all ones, with the L0 notice ABSENT_TARGET. -/
def Obligations.UnnamedAddress : Prop :=
  ∀ (acc : Accessor) (addr : BitVec 32) (v : Word) (s : State), addr.toNat % 8 = 0 →
    (∀ b : Inst, instAt addr.toNat = some b → s.absent b.src = false → addr.toNat ≠ b.unlockAddr → regAt addr.toNat = none →
      exec (.registerWrite acc addr v) s = .next s ∧ exec (.rcRegisterRead acc addr) s = .next (s.answer 0))
    ∧ (instAt addr.toNat = none → 0x10000 ≤ addr.toNat →
      exec (.absentTarget acc (.control addr) true) s = .next (notice s .absentTarget 0)
      ∧ exec (.absentTarget acc (.control addr) false) s = .next ((notice s .absentTarget 0).answer 0xFFFFFFFFFFFFFFFF))

/-- Accesses that a register refuses: a register of a ticket
that the accessor does not hold, and over VC3 a register of NET, MGT or the install engine, reads 0 and ignores writes; a write over VC3 to a
register of CLK or FLT is dropped; a write to an expert register of a locked block is dropped with
EXPERT_LOCKED (R37). -/
def Claims.RefusedAccess : Prop :=
  ∀ (acc : Accessor) (addr : BitVec 32) (v : Word) (b : Inst) (s : State),
    addr.toNat % 8 = 0 → instAt addr.toNat = some b → s.absent b.src = false → addr.toNat ≠ b.unlockAddr →
    ∀ n ix, regAt addr.toNat = some (n, ix) →
        ((s.ticketFor acc n ix = false ∨ (acc = .vc3 ∧ (b.type = 0x12 ∨ b.type = 0x13 ∨ b.type = 0x24 ∨ b.type = 0x25 ∨ n.ofInstall = true))) →
            n ≠ .clkGateCmd → n ≠ .insCmd → exec (.registerWrite acc addr v) s = .next s)
        ∧ ((s.ticketFor acc n ix = false ∨ (acc = .vc3 ∧ (b.type = 0x24 ∨ b.type = 0x25 ∨ n.ofInstall = true))) →
            n ≠ .netPartEnt0 → n ≠ .netPartEnt1 → exec (.rcRegisterRead acc addr) s = .next (s.answer 0))
        ∧ (s.writeOpen acc b n ix = true → b.upper addr.toNat = true → s.unlocked b = false →
            exec (.registerWrite acc addr v) s = .next (notice s .expertLocked b.src))

/-- MISALIGNED and ABSENT_TARGET: an access of another width or alignment, and one to a block that is absent or to no window, raises its L0 notice with
the block's source (0 where no block is there); a write is dropped and a read answers all ones; a core's access to a physical address with no
target takes a bus error as well. -/
def Claims.UnreachedAccess : Prop :=
  ∀ (acc : Accessor) (addr : BitVec 32) (bytes : Nat) (s : State),
    (¬(bytes = 8 ∧ addr.toNat % 8 = 0) →
      exec (.misaligned acc addr bytes true) s = .next (notice s .misaligned (match instAt addr.toNat with | some b => b.src | none => 0))
      ∧ exec (.misaligned acc addr bytes false) s
          = .next ((notice s .misaligned (match instAt addr.toNat with | some b => b.src | none => 0)).answer 0xFFFFFFFFFFFFFFFF))
    ∧ (∀ src, ((∃ b, instAt addr.toNat = some b ∧ s.absent b.src = true ∧ src = b.src) ∨ (instAt addr.toNat = none ∧ 0x10000 ≤ addr.toNat ∧ src = 0)) →
        exec (.absentTarget acc (.control addr) true) s = .next (notice s .absentTarget src)
        ∧ exec (.absentTarget acc (.control addr) false) s = .next ((notice s .absentTarget src).answer 0xFFFFFFFFFFFFFFFF))
    ∧ ∀ (core : Fin 8) (pa : BitVec 64) (w : Bool), mapped pa.toNat = false →
        exec (.absentTarget (.mgt core) (.physical pa) w) s = .next ((notice s .absentTarget 0).emit (.coreFault core.val))

/-- EXPERT_UNLOCK: KEY 0x5EC0 sets UNLOCKED where EXPERT_AVAIL is 1, and raises EXPERT_LOCKED where it is 0; any other KEY clears it. -/
def Claims.ExpertUnlock : Prop :=
  ∀ (acc : Accessor) (addr : BitVec 32) (v : Word) (b : Inst) (s : State),
    instAt addr.toNat = some b → addr.toNat = b.unlockAddr → s.absent b.src = false → writesReach acc b.type = true →
    ((field v 0 16 ≠ 0x5EC0 ∨ s.expertAvail b = true) →
      Completes (.expertUnlock acc addr v) s [.csr] fun t => (t.unlocked b = true ↔ field v 0 16 = 0x5EC0)
        ∧ RegsKept [b.unlockAddr] s t)
    ∧ (field v 0 16 = 0x5EC0 → s.expertAvail b = false →
        ∃ t0 t, exec (.expertUnlock acc addr v) s = .next t ∧ t0.unlocked b = false ∧ OnlyChanges [.csr] s t0 ∧ t = notice t0 .expertLocked b.src)

/-- Accesses that are refused, accesses that reach nothing, and the unlocking of expert halves.
Where the manual is open this follows the model's choices in log entries 20, 21, 110 and 111. -/
def Obligations.AccessLimits : Prop :=
  Claims.RefusedAccess ∧ Claims.UnreachedAccess ∧ Claims.ExpertUnlock

/-- Remote register access (R302): REG_REQ makes the access that a local command of VC3's rights makes and sends REG_RESP to the chip that asked, with the
value read; REG_RESP gives the value to the software that asked. The bodies of both packets are the model's (log entry 29). -/
def Claims.RemoteAccess : Prop :=
  ∀ (src : Coord) (addr : BitVec 32) (v : Word) (s t : State),
    (exec (.registerWrite .vc3 addr v) s = .next t → exec (.regReq src true addr v 8) s = .next (sendMachine t src.toNat 8 3 (leBytes 8 0)))
    ∧ (addr.toNat % 8 = 0 → ∀ w, exec (.rcRegisterRead .vc3 addr) s = .next t → t.resp = some w →
        exec (.regReq src false addr v 8) s = .next (sendMachine { t with resp := s.resp } src.toNat 8 3 (leBytes 8 w.toNat)))
    ∧ Completes (.regResp v) s [.resp] fun t => t.resp = some v

/-- Accesses to plain registers, from the chip and over VC3.
Where the manual is open this follows the model's choices in log entries 20, 21, 29 and 33. -/
def Obligations.RegisterAccesses : Prop :=
  Claims.PlainRegisterAccess ∧ Claims.RemoteAccess

/-! ### Machine time (03_plan_time.md) -/

/-- TIM_MT_SET and ROOT_EN_WRITE: MT loads and the chip stays UNSYNCED while ROOT_EN is 0 and SYNC is UNSYNCED, and the write is dropped with
TIME_SET_REFUSED else; ROOT_EN = 1 makes the chip the root, LOCKED at depth 0, counting on from the MT it has; ROOT_EN = 0 makes it a follower
whose MT does not step. -/
def Claims.TimeSetCommands : Prop :=
  ∀ (acc : Accessor) (v : Word) (s : State), s.absent srcTim = false →
    (s.rootEn = false → s.time.sync = .unsynced →
      Completes (.timMtSet acc v) s [.time] fun t => t.time = { s.time with mt := v })
    ∧ (s.rootEn = true ∨ s.time.sync ≠ .unsynced → exec (.timMtSet acc v) s = .next (notice s .timeSetRefused srcTim))
    ∧ (v.getLsbD 0 = true →
        Completes (.rootEnWrite acc v) s [.csr, .time] fun t => t.rootEn = true ∧ RegsKept [RegName.timRootCtl.addr []] s t
          ∧ t.time = { s.time with parent := none, depth := 0, rootCoord := s.self, sync := .locked, everLock := true, slew := 0 })
    ∧ (v.getLsbD 0 = false →
        Completes (.rootEnWrite acc v) s [.csr, .time] fun t => t.rootEn = false ∧ RegsKept [RegName.timRootCtl.addr []] s t
          ∧ t.time.mt = s.time.mt ∧ t.time.refTicks = s.time.refTicks
          ∧ (s.bestParent = none → t.time.parent = none ∧ t.time.depth = 63
              ∧ t.time.sync = if s.time.sync = .locked then .holdover else s.time.sync)
          ∧ ∀ l, s.bestParent = some l → t.time.parent = some l ∧ t.time.depth = (s.getLink l).advDepth + 1
              ∧ some t.time.rootCoord = (s.getLink l).advRoot ∧ t.time.sync = s.time.sync)

/-- PPS_EDGE and TOD_BYTE_RECEIVE act only on the chip whose ROOT_EN is 1: the root latches MT in TIM_PPS_LATCH and sets PPS_SEEN, and keeps the bytes of
TOD_RX in a FIFO of 256; a byte that finds it full is lost with OVERRUN. -/
def Claims.TimeInputs : Prop :=
  ∀ (b : Byte) (s : State),
    (s.rootEn = true →
      (Completes .ppsEdge s [.csr] fun t => t.rg .timPpsLatch [] = s.time.mt ∧ t.bit .timStatus [] 12 = true
          ∧ RegsKept [RegName.timPpsLatch.addr [], RegName.timStatus.addr []] s t)
      ∧ (s.pins.tod.length < 256 → Completes (.todByteReceive b) s [.pins] fun t => t.pins = { s.pins with tod := s.pins.tod ++ [b] })
      ∧ (256 ≤ s.pins.tod.length → Completes (.todByteReceive b) s [.csr] fun t => t.bit .chpTod [] 9 = true ∧ RegsKept [RegName.chpTod.addr []] s t))
    ∧ (s.rootEn = false → exec .ppsEdge s = .next s ∧ exec (.todByteReceive b) s = .next s)

/-- MT_SLEW_TICK: MT advances by 1 each tick, but a correction advances it by 2 or by 0 on one tick, and the next correction is at least 1,024
ticks later; the correction that remains falls by one tick. -/
def Claims.SlewTick : Prop :=
  ∀ s : State, Completes .mtSlewTick s [.time] fun t =>
    t.time.refTicks = s.time.refTicks + 1
    ∧ ((s.time.slew = 0 ∨ (s.time.lastSlew ≠ 0 ∧ s.time.refTicks + 1 < s.time.lastSlew + 1024)) →
        t.time.mt = s.time.mt + 1 ∧ t.time.slew = s.time.slew ∧ t.time.lastSlew = s.time.lastSlew)
    ∧ (s.time.slew ≠ 0 → (s.time.lastSlew = 0 ∨ s.time.lastSlew + 1024 ≤ s.time.refTicks + 1) →
        t.time.lastSlew = s.time.refTicks + 1 ∧ t.time.slew.natAbs + 1 = s.time.slew.natAbs
        ∧ (0 < s.time.slew → t.time.mt = s.time.mt + 2) ∧ (s.time.slew < 0 → t.time.mt = s.time.mt))
    ∧ t.time.sync = s.time.sync ∧ t.time.parent = s.time.parent ∧ t.time.depth = s.time.depth

/-- How machine time is set, fed and corrected. -/
def Obligations.MachineTime : Prop :=
  Claims.TimeSetCommands ∧ Claims.TimeInputs ∧ Claims.SlewTick

/-! ### The fault collector (16_faults_and_determinism.md) -/

/-- Where a notice is recorded (R402), for an event that names no context: an unacknowledged L0 record of the same source, cause and no context counts
it; else the lowest slot never written or the oldest acknowledged record takes the new record, with MT and COUNT 1; with no such slot the notice is
counted in FLT_LOST.L0. Nothing else of the machine changes. -/
def Obligations.NoticePlacement : Prop :=
  ∀ (c : Cause) (src detail : Nat) (s : State), c.level = 0 →
    (∀ e, (s.flt.ring.find? fun e => e.2.open_ && e.2.level == 0 && e.2.source == src && e.2.cause == c.code && e.2.ctx == none) = some e →
        OnlyChanges [.flt] s (notice s c src detail)
        ∧ (notice s c src detail).fltRec e.1 = { e.2 with count := satN 32 (e.2.count + 1) }
        ∧ ∀ j, j ≠ e.1 → (notice s c src detail).fltRec j = s.fltRec j)
    ∧ ((∀ e ∈ s.flt.ring, ¬(e.2.open_ = true ∧ e.2.level = 0 ∧ e.2.source = src ∧ e.2.cause = c.code ∧ e.2.ctx = none)) →
        (∀ i, s.oldestAcked = some i →
          OnlyChanges [.flt] s (notice s c src detail)
          ∧ (notice s c src detail).fltRec i
              = { written := true, source := src, cause := c.code, mt := s.time.mt, count := 1, detail := detail % 2 ^ 32, seq := s.flt.nextSeq }
          ∧ (notice s c src detail).flt.last = some i
          ∧ ∀ j, j ≠ i → (notice s c src detail).fltRec j = s.fltRec j)
        ∧ (s.oldestAcked = none →
            OnlyChanges [.csr] s (notice s c src detail) ∧ (notice s c src detail).fld .fltLost [] 0 32 = satN 32 (s.fld .fltLost [] 0 32 + 1)
            ∧ RegsKept [RegName.fltLost.addr []] s (notice s c src detail)))

/-- FLT_ACK: an L0 or L1 record is acknowledged, one by its index or all of them, and an L2 record stays unacknowledged until chip reset; the other
contents of the ring stay. -/
def Claims.Acknowledge : Prop :=
  ∀ (acc : Accessor) (v : Word) (s : State), s.absent srcFlt = false → isLocal acc = true →
    Completes (.fltAck acc v) s [.flt] fun t =>
      t.flt.fatal = s.flt.fatal ∧ t.flt.log = s.flt.log
      ∧ (v.getLsbD 9 = false → ∀ i, t.fltRec i
          = if i = field v 0 9 ∧ (s.fltRec i).written = true ∧ (s.fltRec i).level < 2 then { s.fltRec i with acked := true } else s.fltRec i)
      ∧ (v.getLsbD 9 = true →
          (∀ e ∈ s.flt.ring, e.2.written = true → (e.1, if e.2.level < 2 then { e.2 with acked := true } else e.2) ∈ t.flt.ring)
          ∧ ∀ e ∈ t.flt.ring, ∃ r, (e.1, r) ∈ s.flt.ring ∧ (e.2 = r ∨ (r.level < 2 ∧ e.2 = { r with acked := true })))

/-- FLT_INJECT on a part in the factory state with the FLT window unlocked raises the cause that the code names, from the SOURCE and against the context
written, with INJECTED; a reserved code is dropped, and a locked window drops the write with EXPERT_LOCKED. -/
def Claims.Inject : Prop :=
  ∀ (acc : Accessor) (v : Word) (s : State), s.absent srcFlt = false → isLocal acc = true →
    (∀ c k g, s.unlocked fltInst = true → Cause.ofCode (field v 24 16) = some c → k = field v 41 5 → g = field v 46 11 →
      exec (.fltInject acc v) s = .next (raise s
        { cause := c, source := field v 0 24, ctx := if v.getLsbD 40 && s.live { slot := k, gen := g } then some k else none, injected := true }))
    ∧ (s.unlocked fltInst = true → Cause.ofCode (field v 24 16) = none → exec (.fltInject acc v) s = .next s)
    ∧ (s.unlocked fltInst = false → exec (.fltInject acc v) s = .next (notice s .expertLocked srcFlt))

/-- What the levels do (R401, R403, R406): an L1 against a context ends its plan; an L1 that meets an unacknowledged L1 or L2 record of its
class is an L2 with ESCALATED; an L2 sets FATAL, stops ALIVE and stands first in the fatal log of at most 8 records. -/
def Claims.Levels : Prop :=
  ∀ (c : Cause) (src k detail : Nat) (s : State), s.live (s.idOf k) = true → k < 32 →
    (c.level = 1 → s.classOpen c.code = false → (s.oldestAcked ≠ none ∨ s.oldest (fun x => x.open_ && x.level == 0) ≠ none) →
        ((against s c src k detail).getCtx k).plan.state = .ended
        ∧ (against s c src k detail).flt.fatal = s.flt.fatal)
    ∧ (c.level = 1 → s.classOpen c.code = true → (against s c src k detail).flt.fatal = true ∧ (against s c src k detail).flt.aliveRun = false)
    ∧ (c.level = 2 → (notice s c src detail).flt.fatal = true ∧ (notice s c src detail).flt.aliveRun = false
        ∧ ∃ r, (notice s c src detail).flt.log = (r :: s.flt.log).take 8 ∧ r.cause = c.code ∧ r.source = src ∧ r.level = 2)

/-- Acknowledging and injecting fault records, and what the levels do.
Where the manual is open this follows the model's choices in log entry 87. -/
def Obligations.FaultRing : Prop :=
  Claims.Acknowledge ∧ Claims.Inject ∧ Claims.Levels

/-- ALIVE (R405): ALIVE_TOGGLE inverts the output while it toggles; ALIVE_KICK counts the deadline from now and starts ALIVE again where the watchdog had
stopped it; ALIVE_WATCHDOG after WDOG_MS milliseconds without a kick stops it, once, with the L0 notice; ALIVE_CONFIG_WRITE keeps its fields: a
write that sets WDOG_EN is a kick, and one that moves the running deadline into the past expires it at once. -/
def Claims.AliveCommands : Prop :=
  ∀ (acc : Accessor) (v : Word) (s : State), s.absent srcFlt = false → isLocal acc = true →
    (s.flt.aliveRun = true → Completes .aliveToggle s [.flt, .pins] fun t =>
        t.flt = { s.flt with aliveOut := !s.flt.aliveOut } ∧ t.pins = { s.pins with toggles := (s.pins.toggles + 1) % 2 ^ 30 })
    ∧ (s.flt.aliveRun = false → exec .aliveToggle s = .next s)
    ∧ (v.getLsbD 0 = true → Completes (.aliveKick acc v) s [.flt] fun t =>
        t.flt = { s.flt with lastKick := s.time.refTicks, expired := false, wdogTrip := false,
                             aliveRun := s.flt.aliveRun || (s.flt.wdogTrip && !s.flt.fatal) })
    ∧ (s.bit .fltAlive [] 20 = true → s.flt.lastKick + 1250000 * max 1 (s.fld .fltAlive [] 21 16) ≤ s.time.refTicks → s.flt.expired = false →
        ∃ t0, OnlyChanges [.flt] s t0 ∧ t0.flt.aliveRun = false ∧ t0.flt.expired = true ∧ t0.flt.ring = s.flt.ring
          ∧ exec .aliveWatchdog s = .next (notice t0 .aliveWatchdog srcFlt))
    ∧ (v.getLsbD 20 = true → s.bit .fltAlive [] 20 = false → Completes (.aliveConfigWrite acc v) s [.flt, .csr] fun t =>
        t.rg .fltAlive [] = Word.ofNat (field v 0 37) ∧ RegsKept [RegName.fltAlive.addr []] s t
        ∧ t.flt = { s.flt with lastKick := s.time.refTicks, expired := false })
    ∧ (v.getLsbD 20 = false ∨ (s.bit .fltAlive [] 20 = true ∧ s.time.refTicks < s.flt.lastKick + 1250000 * max 1 (field v 21 16)) →
        Completes (.aliveConfigWrite acc v) s [.flt, .csr] fun t =>
          t.rg .fltAlive [] = Word.ofNat (field v 0 37) ∧ RegsKept [RegName.fltAlive.addr []] s t ∧ t.flt = { s.flt with expired := false })
    ∧ (v.getLsbD 20 = true → s.bit .fltAlive [] 20 = true → s.flt.lastKick + 1250000 * max 1 (field v 21 16) ≤ s.time.refTicks →
        s.flt.expired = false →
        ∃ t0, OnlyChanges [.flt, .csr] s t0 ∧ t0.rg .fltAlive [] = Word.ofNat (field v 0 37) ∧ RegsKept [RegName.fltAlive.addr []] s t0
          ∧ t0.flt.aliveRun = false ∧ t0.flt.expired = true ∧ t0.flt.ring = s.flt.ring
          ∧ exec (.aliveConfigWrite acc v) s = .next (notice t0 .aliveWatchdog srcFlt))

/-- SNAP starts a snapshot of a STOPPED context for a holder of its ticket, and answers STALE, DENIED or BUSY else; SNAP_DONE, once nothing of the context is in flight, writes the SHA-384 digest over
what SCOPE names in FLT_SNAP_DIGEST and reports OK; with PER_TILE it also writes the digests of the tiles at FLT_SNAP_ARG, and without it no byte
of memory changes. -/
def Claims.Snapshots : Prop :=
  ∀ (acc : Accessor) (v : Word) (s : State), s.absent srcFlt = false → isLocal acc = true →
    (∀ id, id = CtxId.ofNat (field v 0 16) → s.live id = true → s.owns acc id.slot = true → (s.getCtx id.slot).plan.state = .stopped → s.snap = none →
      Completes (.snap acc v) s [.snap] fun t => t.snap = some { ctx := id, scope := field v 16 2, perTile := v.getLsbD 18 })
    ∧ (∀ id st, id = CtxId.ofNat (field v 0 16) → s.snap = none →
      ((s.live id = false ∧ st = 4) ∨ (s.live id = true ∧ s.owns acc id.slot = false ∧ st = 3)
        ∨ (s.live id = true ∧ s.owns acc id.slot = true ∧ (s.getCtx id.slot).plan.state ≠ .stopped ∧ st = 1)) →
      Completes (.snap acc v) s [.csr] fun t => t.fld .fltSnapStatus [] 0 8 = st ∧ t.bit .fltSnapStatus [] 8 = true
        ∧ RegsKept [RegName.fltSnapStatus.addr []] s t)
    ∧ ∀ p, s.snap = some p → s.live p.ctx = true → s.drainDone p.ctx.slot = true →
        Completes .snapDone s [.csr, .snap, .mgt] fun t =>
          t.snap = none ∧ RegsKept (RegName.fltSnapStatus.addr [] :: (List.range 6).map fun j => RegName.fltSnapDigest.addr [j]) s t
          ∧ t.fld .fltSnapStatus [] 0 8 = 0 ∧ t.bit .fltSnapStatus [] 8 = true
          ∧ (∀ j, j < 6 → t.rg .fltSnapDigest [j] = Word.ofNat (leAt (sha384 (s.snapBytes p.ctx.slot p.scope)) (8 * j) 8))
          ∧ (p.perTile = false → t.mgt = s.mgt)
          ∧ (p.perTile = true → t.mgt = s.mgt.write (s.rg .fltSnapArg []).toNat
              ((s.getCtx p.ctx.slot).tiles.flatMap fun x => sha384 (s.getTile x).snapBytes))

/-- The ALIVE watchdog and the snapshots.
Where the manual is open this follows the model's choices in log entries 84 and 85. -/
def Obligations.AliveAndSnapshots : Prop :=
  Claims.AliveCommands ∧ Claims.Snapshots

/-! ### Pins, power-up and reset (18_pins_and_package.md) -/

/-- Rails (R449): PORST_N rising starts the always-on island and enables VDD_AUX; power good of the rail being enabled enables the next of VDD_AUX, VDD_SER,
VDD_HBM, VDD_VLT (skipped on grade N) and VDD_CORE; a rail that misses it leaves only VDD_AON and VDD_IO with POWER_FAULT naming its row and PSTATE 0,
and so does the loss of power good later; PMB_ALERT_N keeps the rail's current for I3C POWER. -/
def Claims.Rails : Prop :=
  ∀ (rail : Fin 7) (i : BitVec 16) (s : State),
    (s.pins.porstN = false → Completes .porstRelease s [.pins] fun t =>
        t.pins = { s.pins with porstN := true, step := 3, good := 3, fault := 0, enabling := some 2, thermtrip := false })
    ∧ (s.pins.enabling = some rail.val → 2 ≤ rail.val → Completes (.railPowerGood rail) s [.pins] fun t =>
        t.pins.isGood rail.val = true
        ∧ (rail.val = 2 → t.pins.enabling = some 3) ∧ (rail.val = 3 → t.pins.enabling = some 4)
        ∧ (rail.val = 4 → t.pins.enabling = if s.fuses.grade = 3 then some 6 else some 5)
        ∧ (rail.val = 5 → s.fuses.grade ≠ 3 → t.pins.enabling = some 6) ∧ (rail.val = 6 → t.pins.enabling = none ∧ t.pins.waits = s.pins.resetN)
        ∧ t.pins.step = s.pins.step ∧ t.pins.fault = s.pins.fault)
    ∧ (s.pins.enabling = some rail.val → Completes (.railPowerGoodTimeout rail) s [.pins, .clk] fun t =>
        t.pins = { s.pins with good := s.pins.good % 4, enabling := none, waits := false, fault := rail.val + 1 } ∧ t.clk = { s.clk with pstate := 0 })
    ∧ (2 ≤ rail.val → s.pins.isGood rail.val = true → s.pins.enabling = none → ∃ t, exec (.powerGoodLoss rail) s = .next t
        ∧ t.pins.good < 4 ∧ t.pins.fault = rail.val + 1 ∧ t.clk.pstate = 0 ∧ t.flt.aliveRun = false ∧ t.flt.ring = s.flt.ring
        ∧ (∀ l, (t.getLink l).state = .down)
        ∧ ∀ k, k < 32 → (s.getCtx k).state ≠ .free → (s.getCtx k).state ≠ .quarantine → (t.getCtx k).plan.state = .ended)
    ∧ Completes (.pmbAlert rail i) s [.pins] fun t =>
        t.railCurrent rail.val = (if rail.val = 5 ∧ s.fuses.grade = 3 then 0xFFFF else i.toNat) ∧ ∀ r, r ≠ rail.val → t.railCurrent r = s.railCurrent r

/-- Reset (R450, R455): RESET_N low, PORST_N low and the I3C commands RESET (0xA5) return every block to its reset state and report the cause;
fuses, flash and firmware slots, the vault's contents and the fatal log survive. That bytes of HBM, CXL and management memory survive is the
model's choice (DESIGN CHOICE, log entry 30). Any other byte of RESET or POWER_DOWN is ignored; POWER_DOWN (0x5A) ends every plan and disables the
PMBus rails. -/
def Claims.Resets : Prop :=
  ∀ (b : Byte) (s : State),
    (∀ c t, ((c = Instr.chipReset ∧ s.pins.resetN = true) ∨ c = .porstAssert ∨ (c = .i3cReset 0xA5 ∧ s.pins.porstN = true)) → exec c s = .next t →
      (∀ n ix, n.addr ix ≠ RegName.chpStrap.addr [] → n.addr ix ≠ RegName.chpResetCause.addr [] → t.rg n ix = State.reset.rg n ix)
      ∧ t.time = {} ∧ t.ctx = [] ∧ t.tile = [] ∧ t.link = [] ∧ t.req = [] ∧ t.flt.ring = [] ∧ t.flt.fatal = false ∧ t.flt.aliveRun = false
      ∧ t.loader = none ∧ t.cloOp = none
      ∧ t.fuses = s.fuses ∧ t.sec.flash = s.sec.flash ∧ t.sec.slots = s.sec.slots ∧ t.flt.log = s.flt.log ∧ t.mgt = s.mgt ∧ t.out = s.out
      ∧ (Canonical s → (∀ v, (t.getVault v).mem = (s.getVault v).mem) ∧ ∀ m, (t.getHbm m).mem = (s.getHbm m).mem))
    ∧ (s.pins.resetN = true → ∃ t, exec .chipReset s = .next t ∧ t.pins.resetN = false ∧ t.pins.waits = false ∧ t.pins.step = min s.pins.step 3
        ∧ (t.bit .chpResetCause [] 1 = s.pins.porstN) ∧ (t.bit .chpResetCause [] 0 = !s.pins.porstN))
    ∧ (∃ t, exec .porstAssert s = .next t ∧ t.pins.porstN = false ∧ t.pins.good = 0 ∧ t.pins.thermtrip = false ∧ t.flt.aliveOut = false
        ∧ t.rg .chpResetCause [] = 1)
    ∧ (s.pins.porstN = true → (∃ t, exec (.i3cReset 0xA5) s = .next t ∧ t.bit .chpResetCause [] 2 = true ∧ t.pins.waits = true)
        ∧ (b ≠ 0xA5 → exec (.i3cReset b) s = .next s) ∧ (b ≠ 0x5A → exec (.powerDown b) s = .next s)
        ∧ ∃ t, exec (.powerDown 0x5A) s = .next t ∧ t.pins.good < 4 ∧ t.pins.fault = 0 ∧ t.clk.pstate = 0
          ∧ ∀ k, k < 32 → (s.getCtx k).state ≠ .free → (s.getCtx k).state ≠ .quarantine → (t.getCtx k).plan.state = .ended)

/-- The power-up sequence from step 4 on (R448, R449): with all rails up, RESET_N rising latches the straps; with a good reference the tests give
their findings, the firmware boots, and at step 7 PSTATE is 2 and ALIVE toggles, or the device stays in ROM recovery at step 6; with none the device waits
at step 4 with REF_OK clear, and REF156_RETRY takes the sequence on from there. -/
def Claims.PowerUpSequence : Prop :=
  ∀ (c : Instr) (found : PowerUpFindings) (s : State), s.railsUp = true →
    ((c = .resetRelease found ∧ s.pins.resetN = false ∧ s.pins.porstN = true) ∨ (c = .ref156Retry found ∧ s.pins.waits = true)) →
    (found.refOk = false → Completes c s [.csr, .self, .pins] fun t =>
        t.self = s.pins.straps % 32768 ∧ t.fld .chpStrap [] 0 18 = s.pins.straps % 2 ^ 18 ∧ t.pins.waits = true ∧ t.pins.step = max s.pins.step 4
        ∧ t.bit .clkStatus [] 0 = false ∧ RegsKept [RegName.chpStrap.addr [], RegName.clkStatus.addr []] s t)
    ∧ (found.refOk = true → found.swatchBad = false → found.failedTiles = [] → found.failedHbm = [] →
        ∃ t, exec c s = .next t ∧ t.self = s.pins.straps % 32768 ∧ t.pins.waits = false
          ∧ t.failedT = [] ∧ t.failedB = found.failedBlocks ∧ t.tested = true ∧ (∀ m, m < 8 → (t.getHbm m).phase = .ready)
          ∧ t.bit .clkStatus [] 0 = true
          ∧ (t.sec.recovery = false → t.pins.step = 7 ∧ t.clk.pstate = 2 ∧ t.flt.aliveRun = !s.flt.fatal)
          ∧ (t.sec.recovery = true → t.pins.step = 6 ∧ t.bit .clkMgtMux [] 0 = false ∧ t.clk = s.clk))

/-- Rails, resets and the power-up sequence.
Where the manual is open this follows the model's choices in log entries 1, 2, 30 and 95. -/
def Obligations.PowerAndReset : Prop :=
  Claims.Rails ∧ Claims.Resets ∧ Claims.PowerUpSequence

/-- The I3C commands (R454) answer from PORST_N high on and change nothing else: STATUS with ALIVE, FATAL, RECOVERY, PSTATE, REF_OK and THERMTRIP in its
first byte, then step, POWER_FAULT, LIFECYCLE and SELF; POWER with VOUT and the package power; THERMAL with the hottest region, HBM stack and vault stack and the trip temperature; ALIVE with the
level, the toggling bit and the count of toggles. -/
def Claims.I3cReads : Prop :=
  ∀ (p : BitVec 16) (temp : Byte) (s : State), s.pins.porstN = true →
    (Completes .i3cStatus s [.out] fun t => ∃ b, t.out = s.out ++ [.i3c b] ∧ b.length = 8
        ∧ (b.getD 0 0).getLsbD 0 = s.flt.aliveOut ∧ (b.getD 0 0).getLsbD 1 = s.flt.aliveRun ∧ (b.getD 0 0).getLsbD 2 = s.flt.fatal
        ∧ (b.getD 0 0).getLsbD 3 = s.sec.recovery ∧ (b.getD 0 0).toNat / 16 % 4 = s.clk.pstate % 4
        ∧ (b.getD 0 0).getLsbD 6 = s.bit .clkStatus [] 0 ∧ (b.getD 0 0).getLsbD 7 = s.pins.thermtrip
        ∧ leAt b 1 1 = s.pins.step % 256 ∧ leAt b 2 1 = s.pins.fault % 256 ∧ leAt b 3 1 = s.fuses.lifecycle % 256 ∧ leAt b 4 4 = s.self % 2 ^ 32)
    ∧ (Completes (.i3cPower p) s [.out] fun t => ∃ b, t.out = s.out ++ [.i3c b] ∧ b.length = 16 ∧ leAt b 0 2 = s.clk.vout % 65536
        ∧ leAt b 2 2 = p.toNat ∧ (∀ j, j < 5 → leAt b (4 + 2 * j) 2 = s.railCurrent (j + 2) % 65536) ∧ leAt b 14 2 = 0)
    ∧ (Completes (.i3cThermal temp) s [.out] fun t => ∃ b, t.out = s.out ++ [.i3c b] ∧ b.length = 8
        ∧ ((∀ r, r < 16 → (s.getRegionClk r).temp < 256) →
            (∀ r, r < 16 → (s.getRegionClk r).temp ≤ leAt b 0 1) ∧ ∃ r, r < 16 ∧ (s.getRegionClk r).temp = leAt b 0 1)
        ∧ (∀ m, m < 8 → s.fld .memTemp [m] 0 8 ≤ leAt b 1 1) ∧ (∃ m, m < 8 ∧ s.fld .memTemp [m] 0 8 = leAt b 1 1)
        ∧ leAt b 2 1 = (if s.fuses.grade = 3 then 0xFF else temp.toNat) ∧ leAt b 3 1 = s.trip % 256 ∧ leAt b 4 4 = 0)
    ∧ Completes .i3cAlive s [.out] fun t => ∃ b, t.out = s.out ++ [.i3c b] ∧ b.length = 4 ∧ (b.getD 0 0).getLsbD 0 = s.flt.aliveOut
        ∧ (b.getD 0 0).getLsbD 1 = s.flt.aliveRun ∧ leNat b / 4 = s.pins.toggles % 2 ^ 30

/-- Boundary scan (R453): BYPASS, IDCODE, SAMPLE/PRELOAD, EXTEST, HIGHZ and CLAMP load their instruction and disturb nothing else of the chip; IDCODE shifts
out STEP_MAJOR, 0x5701, 0x3A5 and 1; SAMPLE/PRELOAD shifts the captured levels out and keeps what is shifted in; EXTEST, HIGHZ and CLAMP act as
BYPASS while RESET_N is high. -/
def Claims.BoundaryScan : Prop :=
  ∀ (levels load : List Bool) (s : State),
    (Completes .bypass s [.pins] fun t => t.pins = { s.pins with tap := .bypass, bypassBit := false })
    ∧ (Completes .idcode s [.pins, .out] fun t => t.pins = { s.pins with tap := .idcode, bypassBit := false }
        ∧ ∃ bits, t.out = s.out ++ [.tdo bits] ∧ bits.length = 32
          ∧ ∀ i, i < 32 → bits[i]? = some ((s.fuses.major % 16 * 0x10000000 + 0x570174B).testBit i))
    ∧ (Completes (.samplePreload levels load) s [.pins, .out] fun t =>
        t.pins = { s.pins with tap := .sample, bypassBit := false, bsr := load } ∧ t.out = s.out ++ [.tdo levels])
    ∧ ∀ c x, (c = Instr.extest ∧ x = TapInstr.extest) ∨ (c = .highz ∧ x = .highz) ∨ (c = .clamp ∧ x = .clamp) →
        Completes c s [.pins] fun t => t.pins = { s.pins with tap := x, bypassBit := false }
          ∧ t.pins.acts = if s.pins.resetN then .bypass else x

/-! ### Firmware, attestation and the service port (17_management_and_security.md) -/

/-- An answer on the service port (R428): OP, STATUS, SEQ, twelve bytes of zero and the data. -/
def serviceAnswer (op st : Nat) (seq : BitVec 16) (data : List Byte) : List Byte :=
  leBytes 1 op ++ leBytes 1 st ++ leBytes 2 seq.toNat ++ List.replicate 12 0 ++ data

/-- A request that the service port takes: the part is not BLANK and the SEQ is not the last one (R418, R428). -/
abbrev TakesRequest (s : State) (seq : BitVec 16) : Prop := s.fuses.lifecycle ≠ 0 ∧ s.sec.lastSeq ≠ some seq.toNat

/-- The answer has left, and a repetition of its SEQ finds it. -/
abbrev Answered (s t : State) (op st : Nat) (seq : BitVec 16) (data : List Byte) : Prop :=
  t.out = s.out ++ [.service (serviceAnswer op st seq data)] ∧ t.sec.lastSeq = some seq.toNat ∧ t.sec.lastAnswer = serviceAnswer op st seq data

/-- A request that repeats the last SEQ is answered again and not executed again, whatever its OP; a BLANK part takes no request. -/
def Claims.ServiceRepeat : Prop :=
  ∀ (seq : BitVec 16) (slot : BitVec 1) (n : Nat) (block : BitVec 12) (part : BitVec 3) (data nonce : List Byte) (arg addr : BitVec 32) (c : Instr)
    (s : State),
    (c = .svcStatus seq ∨ c = .fwBegin seq slot n ∨ c = .fwPart seq block part data ∨ c = .fwEnd seq ∨ c = .svcActivate seq arg
      ∨ c = .svcAttest seq arg nonce ∨ c = .recover seq ∨ c = .svcRead seq addr n) →
    (s.fuses.lifecycle ≠ 0 → s.sec.lastSeq = some seq.toNat → exec c s = .next (s.emit (.service s.sec.lastAnswer)))
    ∧ (s.fuses.lifecycle = 0 → exec c s = .next s)

/-- SVC_STATUS, RECOVER and SVC_READ: STATUS answers OK and changes nothing else; RECOVER sets RECOVERY_REQ; READ answers each word that a register read by
the service processor answers, 1 to 1,024 of them, and REJECTED for any other count. What STATUS carries as data is the model's choice (log entry
31). -/
def Claims.ServiceReads : Prop :=
  ∀ (seq : BitVec 16) (addr : BitVec 32) (n : Nat) (s : State), TakesRequest s seq →
    (Completes (.svcStatus seq) s [.out, .sec] fun t =>
        (∃ data, Answered s t 1 0 seq data ∧ data.take 8 = leBytes 8 s.secStatus.toNat)
        ∧ t.sec = { s.sec with lastSeq := t.sec.lastSeq, lastAnswer := t.sec.lastAnswer })
    ∧ (s.sec.recovery = false → Completes (.recover seq) s [.out, .sec] fun t =>
        Answered s t 7 0 seq [] ∧ t.sec = { s.sec with recoveryReq := true, lastSeq := t.sec.lastSeq, lastAnswer := t.sec.lastAnswer })
    ∧ (∀ w u, addr.toNat % 8 = 0 → exec (.rcRegisterRead .sp addr) s = .next u → u.resp = some w →
        ∃ t, exec (.svcRead seq addr 1) s = .next t ∧ Answered s t 8 0 seq (leBytes 8 w.toNat) ∧ OnlyChanges [.out, .resp, .sec] u t)
    ∧ (addr.toNat % 8 = 0 → 1 ≤ n → n ≤ 1024 → ∃ t data, exec (.svcRead seq addr n) s = .next t ∧ data.length = 8 * n ∧ Answered s t 8 0 seq data)
    ∧ (n = 0 ∨ 1024 < n → Completes (.svcRead seq addr n) s [.out, .sec] fun t => Answered s t 8 6 seq [])

/-- The I3C target, the boundary scan, and the service port's repeats and reads.
Where the manual is open this follows the model's choices in log entries 31 and 33. -/
def Obligations.SidePorts : Prop :=
  Claims.I3cReads ∧ Claims.BoundaryScan ∧ Claims.ServiceRepeat ∧ Claims.ServiceReads

/-- FW_BEGIN, FW_PART and FW_END (R433): FW_BEGIN erases a slot that is neither in TRIAL or ACTIVE nor booted from and sets it WRITING, and touches
no byte of flash outside the slot; the eighth part programs its block, and no other byte; a data block whose CRC-32C fails is REJECTED with
FW_BLOCK_BAD; FW_END sets the slot VERIFIED where its header, signature and every block verify, and REJECTED with FW_VERIFY_FAIL else.
Where the manual is open this follows the model's choices in log entries 9, 91 and 94. -/
def Obligations.FirmwareUpdate : Prop :=
  ∀ (seq : BitVec 16) (slot : BitVec 1) (n : Nat) (block : BitVec 12) (part : BitVec 3) (data : List Byte) (s : State), TakesRequest s seq →
    (1 ≤ n → n ≤ 496 → (s.getSlot slot.toNat).state ≠ .trial → (s.getSlot slot.toNat).state ≠ .active → s.sec.bootSlot ≠ some slot.toNat →
      Completes (.fwBegin seq slot n) s [.out, .sec] fun t => Answered s t 2 0 seq []
        ∧ (t.getSlot slot.toNat).state = .writing ∧ t.sec.writing = some slot.toNat ∧ t.sec.blocks = n
        ∧ (∀ j, j ≠ slot.toNat → t.getSlot j = s.getSlot j)
        ∧ (s.sec.flash.wf = true → ∀ a, slotBase slot.toNat ≤ a → a < slotBase slot.toNat + 496 * 65536 → t.sec.flash.get a = 0)
        ∧ (s.sec.flash.wf = true → ∀ a, a < slotBase slot.toNat ∨ slotBase slot.toNat + 496 * 65536 ≤ a → t.sec.flash.get a = s.sec.flash.get a))
    ∧ (1 ≤ n → n ≤ 496 → s.sec.recovery = false →
        ((s.getSlot slot.toNat).state = .trial ∨ (s.getSlot slot.toNat).state = .active ∨ s.sec.bootSlot = some slot.toNat) →
        Completes (.fwBegin seq slot n) s [.out, .sec] fun t => Answered s t 2 1 seq [] ∧ t.sec.flash = s.sec.flash ∧ t.sec.slots = s.sec.slots)
    ∧ (∀ i, s.sec.writing = some i → block.toNat < s.sec.blocks → part.toNat ≠ 7 →
        Completes (.fwPart seq block part data) s [.out, .sec] fun t => Answered s t 3 0 seq []
          ∧ t.sec.flash = s.sec.flash ∧ t.sec.slots = s.sec.slots ∧ t.sec.partBlock = block.toNat
          ∧ KMap.get [] t.sec.parts part.toNat = padTo data 8192 0)
    ∧ (∀ i b, s.sec.writing = some i → block.toNat < s.sec.blocks → s.sec.partBlock = block.toNat → part.toNat = 7 →
        b = ((List.range 7).flatMap fun p => padTo (KMap.get [] s.sec.parts p) 8192 0) ++ padTo data 8192 0 →
        (block.toNat = 0 ∨ (crc32c (b.take 65520)).toNat = leAt b 65520 4 →
          Completes (.fwPart seq block part data) s [.out, .sec] fun t => Answered s t 3 0 seq []
            ∧ t.sec.flash = s.sec.flash.write (slotBase i + 65536 * block.toNat) b ∧ t.sec.slots = s.sec.slots)
        ∧ (block.toNat ≠ 0 → (crc32c (b.take 65520)).toNat ≠ leAt b 65520 4 →
          ∃ t0 t, exec (.fwPart seq block part data) s = .next t ∧ OnlyChanges [.sec] s t0
            ∧ t0.sec.flash = s.sec.flash.write (slotBase i + 65536 * block.toNat) b
            ∧ Answered (notice t0 .fwBlockBad srcSec) t 3 6 seq [] ∧ OnlyChanges [.out, .sec] (notice t0 .fwBlockBad srcSec) t))
    ∧ (∀ i, s.sec.writing = some i → match s.fwVerify i with
        | some (h, _) => Completes (.fwEnd seq) s [.out, .sec] fun t => Answered s t 4 0 seq []
            ∧ t.getSlot i = { state := .verified, svn := leAt h 8 4, nblk := leAt h 12 4, comps := leAt h 6 1 % 8, version := Word.ofNat (leAt h 16 8) }
            ∧ t.sec.writing = none ∧ t.sec.flash = s.sec.flash ∧ ∀ j, j ≠ i → t.getSlot j = s.getSlot j
        | none => ∃ t0 t, exec (.fwEnd seq) s = .next t ∧ OnlyChanges [.sec] s t0 ∧ (t0.getSlot i).state = .rejected
            ∧ t0.sec.flash = s.sec.flash ∧ Answered (notice t0 .fwVerifyFail srcSec) t 4 6 seq []
            ∧ OnlyChanges [.out, .sec] (notice t0 .fwVerifyFail srcSec) t)

/-- ACTIVATE, CONFIRM, the trial's end and ACTIVATION_QUEUED_START (R434, R436, R437): a VERIFIED slot whose components can all be loaded becomes TRIAL; one
that must wait is BUSY, or waits with QUEUE; CONFIRM makes the trial slot ACTIVE and the ACTIVE one VERIFIED and raises the minimum SVN to the image's; a
trial that nothing confirms in SEC_TRIAL_LIMIT seconds is REJECTED with REVERTED set. -/
def Claims.Activation : Prop :=
  ∀ (acc : Accessor) (queue : Bool) (seq : BitVec 16) (arg : BitVec 32) (s : State),
    (∀ i comps a, s.absent srcSec = false → isLocal acc = true → a = (s.rg .secArg0 []).toNat → i = a % 2 → comps = a / 2 % 8 →
      (s.getSlot i).state = .verified → comps &&& (s.getSlot i).comps = comps →
      (s.blockedParts comps (a / 16 % 16) = (0, 0) → Completes (.activate acc queue) s [.csr, .sec] fun t =>
        (t.getSlot i).state = .trial ∧ t.fld .secCmdStatus [] 0 8 = 0 ∧ t.bit .secCmdStatus [] 8 = true ∧ t.sec.queued = s.sec.queued
        ∧ (∀ j, j ≠ i → t.getSlot j = s.getSlot j) ∧ RegsKept [RegName.secCmdStatus.addr []] s t)
      ∧ ((s.blockedParts comps (a / 16 % 16)).1 ≠ 0 →
          (queue = false → Completes (.activate acc queue) s [.csr] fun t => t.fld .secCmdStatus [] 0 8 = 1 ∧ t.bit .secCmdStatus [] 8 = true
            ∧ RegsKept [RegName.secCmdStatus.addr []] s t)
          ∧ (queue = true → Completes (.activate acc queue) s [.csr, .sec] fun t => t.fld .secCmdStatus [] 0 8 = 0
            ∧ t.sec.queued = some { slot := i, comps := (s.blockedParts comps (a / 16 % 16)).1,
                                    stackMask := (s.blockedParts comps (a / 16 % 16)).2, trial := true })))
    ∧ (∀ i, TakesRequest s seq → s.sec.recovery = false → i = arg.toNat % 2 → (s.getSlot i).state = .verified →
        arg.toNat / 2 % 8 &&& (s.getSlot i).comps = arg.toNat / 2 % 8 → s.blockedParts (arg.toNat / 2 % 8) (arg.toNat / 16 % 16) = (0, 0) →
        Completes (.svcActivate seq arg) s [.out, .sec] fun t => Answered s t 5 0 seq [] ∧ (t.getSlot i).state = .trial)
    ∧ (∀ q, s.sec.queued = some q → s.blockedParts q.comps q.stackMask = (0, 0) →
        Completes .activationQueuedStart s [.sec] fun t => t.sec.queued = none ∧ t.sec.slots = s.sec.slots ∧ t.sec.flash = s.sec.flash)
    ∧ (∀ i, s.absent srcSec = false → isLocal acc = true → s.slotIn .trial = some i → Completes (.confirm acc) s [.csr, .sec, .fuses] fun t =>
        (t.getSlot i).state = .active ∧ t.fuses = { s.fuses with svn := max s.fuses.svn (s.getSlot i).svn }
        ∧ (∀ j, s.slotIn .active = some j → (t.getSlot j).state = .verified) ∧ t.sec.trialFrom = none
        ∧ t.fld .secCmdStatus [] 0 8 = 0 ∧ RegsKept [RegName.secCmdStatus.addr []] s t)
    ∧ ∀ i x, s.slotIn .trial = some i → s.sec.trialFrom = some x → x + 1250000000 * max 1 (s.fld .secTrialLimit [] 0 16) ≤ s.time.refTicks →
        Completes .trialTimeout s [.csr, .sec, .flt] fun t => (t.getSlot i).state = .rejected ∧ t.bit .secStatus [] 19 = true ∧ t.sec.trialFrom = none

/-- ATTEST and ENDORSE (R418, R429, R430): in FACTORY and PRODUCTION and outside ROM recovery they write, or answer, a report of 2,368 bytes with MAGIC,
grade, MT, the nonce, the minimum SVN and the context identifier in their places, followed by 96 bytes of signature, and an endorsement of 256 bytes;
in recovery ATTEST is BUSY. -/
def Claims.Attestation : Prop :=
  ∀ (acc : Accessor) (seq : BitVec 16) (arg : BitVec 32) (nonce : List Byte) (s : State), s.fuses.lifecycle = 1 ∨ s.fuses.lifecycle = 2 →
    (s.sec.recovery = false → s.absent srcSec = false → isLocal acc = true →
      (CtxId.ofNat (field (s.rg .secArg0 []) 0 16) = ⟨0, 0⟩ ∨ s.live (CtxId.ofNat (field (s.rg .secArg0 []) 0 16)) = true) →
      Completes (.attest acc) s [.csr, .mgt, .freeCtr] fun t =>
        t.fld .secCmdStatus [] 0 8 = 0 ∧ t.bit .secCmdStatus [] 8 = true ∧ RegsKept [RegName.secCmdStatus.addr []] s t
        ∧ ∃ r, t.mgt = s.mgt.write (s.rg .secArg2 []).toNat r ∧ r.length = 2464 ∧ leAt r 0 4 = 0x54525753 ∧ leAt r 6 1 = s.fuses.grade % 256
          ∧ leAt r 8 8 = s.mtN ∧ slice r 16 32 = padTo (s.mgt.read (s.rg .secArg1 []).toNat 32) 32 0 ∧ leAt r 66 2 = s.fuses.svn % 65536
          ∧ leAt r 264 2 = field (s.rg .secArg0 []) 0 16)
    ∧ (s.absent srcSec = false → isLocal acc = true → Completes (.endorse acc) s [.csr, .mgt, .freeCtr] fun t =>
        t.fld .secCmdStatus [] 0 8 = 0 ∧ t.bit .secCmdStatus [] 8 = true ∧ RegsKept [RegName.secCmdStatus.addr []] s t
        ∧ ∃ e, t.mgt = s.mgt.write (s.rg .secArg2 []).toNat e ∧ e.length = 256 ∧ slice e 145 15 = List.replicate 15 0)
    ∧ (TakesRequest s seq → s.sec.recovery = false → arg.toNat % 65536 = 0 → Completes (.svcAttest seq arg nonce) s [.out, .sec, .freeCtr] fun t =>
        ∃ r, Answered s t 6 0 seq r ∧ r.length = 2464 ∧ slice r 16 32 = padTo nonce 32 0)
    ∧ (TakesRequest s seq → s.sec.recovery = true → Completes (.svcAttest seq arg nonce) s [.out, .sec] fun t => Answered s t 6 1 seq [])

/-- Activating firmware, and attestation with the endorsement.
Where the manual is open this follows the model's choices in log entries 9, 31, 92 and 93. -/
def Obligations.ActivationAndAttestation : Prop :=
  Claims.Activation ∧ Claims.Attestation

/-! ### Plans (03_plan_time.md) -/

/-- The horizon (R54): whenever a step makes a context complete a plan cycle, at its start, in its run or at a thaw, every plan neighbour has sent
ENDED or a stamp of at least that cycle less D_hop; a stamp with STARTED = 0, as a control flit brings it to the context that holds the link, stands
at -1, and a neighbour that has sent ENDED stays ENDED whatever it sends next (R59). -/
def Obligations.HorizonRule : Prop :=
  (∀ (c : Instr) (k : CtxSlot) (s t : State), c = .planStart k ∨ c = .planCycleExecute k →
    exec c s = .next t → (t.getCtx k.val).plan.pcy ≠ (s.getCtx k.val).plan.pcy →
    ∀ l ∈ (s.getCtx k.val).links, (KMap.get {} (s.getCtx k.val).plan.stamps l).ended = true
      ∨ ((s.getCtx k.val).plan.pcy.toNat : Int) - (s.getCtx k.val).dhop ≤ (KMap.get {} (s.getCtx k.val).plan.stamps l).value)
  ∧ ∀ (k l stamp part gen : Nat) (s : State), s.linkHolder l = some k → (s.getCtx k).part.state ≠ .free → (s.getCtx k).part.part = part →
      (s.getCtx k).part.gen = gen →
      (fieldN stamp 48 1 = 0 → (KMap.get {} ((takeStamp s l stamp part gen).getCtx k).plan.stamps l).value = -1)
      ∧ ((KMap.get {} ((takeStamp s l stamp part gen).getCtx k).plan.stamps l).ended = true
          ↔ (KMap.get {} (s.getCtx k).plan.stamps l).ended = true ∨ fieldN stamp 49 1 = 1)

/-- PLAN_START and PLAN_CYCLE_EXECUTE (R50, R61, R62, R66): an ARMED context whose T_L has come and whose tiles run executes its first cycle, and nothing
happens before; a running context that something holds is FROSTED with an open record at HEAD that names the first cause, START_MT and START_PCY, and
PCY stands, and flits that are due reach their tiles unless the horizon or the release rule holds it; one whose STOP_AT has come is STOPPED with STOP_EN clear; one that nothing holds completes the cycle, or its plan ends in it. -/
def Claims.PlanCycles : Prop :=
  ∀ (k : CtxSlot) (s : State),
    ((s.getCtx k.val).plan.state = .armed → (s.getCtx k.val).plan.tl.toNat ≤ s.mtN →
      (∀ x ∈ (s.getCtx k.val).planTiles, (s.getTile x).power = .run ∧ (s.getTile x).waking = false) →
      exec (.planStart k) s = exec (.planCycleExecute k) (s.modPlan k.val fun p => { p with state := .running }))
    ∧ ((s.getCtx k.val).plan.state ≠ .armed ∨ s.mtN < (s.getCtx k.val).plan.tl.toNat → exec (.planStart k) s = .next s)
    ∧ ((s.getCtx k.val).plan.state = .running → (s.getCtx k.val).lostMark = false → s.stopDue k.val = false →
        ∀ h, firstHold (s.holds k.val (s.getCtx k.val).plan.pcy.toNat 0) = some h →
        Completes (.planCycleExecute k) s [.csr, .ctx, .tile, .link] fun t =>
          (t.getCtx k.val).plan = { (s.getCtx k.val).plan with
              state := .frosted, frost := some { index := s.fld .timFrostHead [] 0 8, cause := h.code, detail := h.detail, startMt := s.time.mt },
              released := if s.linkHolds k.val (s.getCtx k.val).plan.pcy.toNat 0 = []
                then max (s.getCtx k.val).plan.released ((s.getCtx k.val).plan.pcy.toNat + 1) else (s.getCtx k.val).plan.released }
          ∧ (s.linkHolds k.val (s.getCtx k.val).plan.pcy.toNat 0 ≠ [] → t.link = s.link)
          ∧ t.rg .timFrostRec [s.fld .timFrostHead [] 0 8, 0] = s.time.mt
          ∧ t.rg .timFrostRec [s.fld .timFrostHead [] 0 8, 1] = (s.getCtx k.val).plan.pcy
          ∧ t.fld .timFrostRec [s.fld .timFrostHead [] 0 8, 2] 32 16 = h.detail % 65536
          ∧ t.fld .timFrostRec [s.fld .timFrostHead [] 0 8, 2] 48 4 = h.code % 16
          ∧ t.bit .timFrostRec [s.fld .timFrostHead [] 0 8, 3] 31 = true
          ∧ t.fld .timFrostHead [] 0 8 = (s.fld .timFrostHead [] 0 8 + 1) % 256
          ∧ ∀ j, j ≠ k.val → t.getCtx j = s.getCtx j)
    ∧ ((s.getCtx k.val).plan.state = .running → (s.getCtx k.val).lostMark = false → s.stopDue k.val = true → (s.getCtx k.val).plan.frost = none →
        Completes (.planCycleExecute k) s [.csr, .ctx] fun t =>
          (t.getCtx k.val).plan = { (s.getCtx k.val).plan with state := .stopped } ∧ t.bit .timCtxStop [k.val] 63 = false
          ∧ t.fld .timCtxStop [k.val] 0 63 = s.fld .timCtxStop [k.val] 0 63 ∧ RegsKept [RegName.timCtxStop.addr [k.val]] s t)
    ∧ ((s.getCtx k.val).plan.state = .running → (s.getCtx k.val).lostMark = false → s.stopDue k.val = false → (s.getCtx k.val).image ≠ none →
        firstHold (s.holds k.val (s.getCtx k.val).plan.pcy.toNat 0) = none →
        ∃ t, exec (.planCycleExecute k) s = .next t
          ∧ ((t.getCtx k.val).plan.state = .ended ∨ (t.getCtx k.val).plan.pcy = (s.getCtx k.val).plan.pcy + 1))

/-- FROST_TIMEOUT and TIM_CTX_RESUME (R64, R67): an open Frost longer than the limit raises L1 FROST_TIMEOUT against the context with the record's detail,
and a limit of 0 never does; RESUME = 1 by a holder of the ticket puts a STOPPED context back in RUNNING, and in any other state has no effect. -/
def Claims.FrostLimitAndResume : Prop :=
  ∀ (acc : Accessor) (k : CtxSlot) (v : Word) (s : State),
    (∀ f, (s.getCtx k.val).plan.frost = some f →
      (s.fld .timCtxFrostLimit [k.val] 0 40 ≠ 0 → s.fld .timCtxFrostLimit [k.val] 0 40 < (s.time.mt - f.startMt).toNat →
        exec (.frostTimeout k) s = .next (against s .frostTimeout srcTim k.val f.detail))
      ∧ (s.fld .timCtxFrostLimit [k.val] 0 40 = 0 ∨ (s.time.mt - f.startMt).toNat ≤ s.fld .timCtxFrostLimit [k.val] 0 40 →
        exec (.frostTimeout k) s = .next s))
    ∧ ((s.getCtx k.val).plan.frost = none → exec (.frostTimeout k) s = .next s)
    ∧ (s.absent srcTim = false → s.owns acc k.val = true → v.getLsbD 0 = true → (s.getCtx k.val).plan.state = .stopped →
        (s.getCtx k.val).plan.held = false → (s.getCtx k.val).plan.stopP = none → (s.getCtx k.val).state = .opened →
        Completes (.timCtxResume acc k v) s [.ctx] fun t =>
          t.getCtx k.val = { s.getCtx k.val with plan := { (s.getCtx k.val).plan with state := .running } } ∧ ∀ j, j ≠ k.val → t.getCtx j = s.getCtx j)
    ∧ (s.absent srcTim = false → (s.owns acc k.val = false ∨ v.getLsbD 0 = false ∨ (s.getCtx k.val).plan.state ≠ .stopped) →
        exec (.timCtxResume acc k v) s = .next s)

/-- Plan cycles, Frost intervals and resuming.
Where the manual is open this follows the model's choices in log entries 41, 65, 99, 122 and 123. -/
def Obligations.PlanTime : Prop :=
  Claims.PlanCycles ∧ Claims.FrostLimitAndResume

/-! ### The macro-op sequencer (05_macro_ops.md) -/

/-- What R99 asks of the macro-op at the head of a tile's issue queue but for the conditions of single opcodes: its context runs and nothing holds or stops
it at its next cycle (R52, R66), the tile is a plan
tile that runs and has not taken END, PCY has reached step base + AT, every unit that the macro-op occupies has a free entry in its queue of four, and
nothing has dispatched on the tile in this plan cycle. -/
structure MayDispatch (s : State) (k x : Nat) (o : MacroOp) (rest : List MacroOp) : Prop where
  ctx     : s.tileCtx x = some k
  head    : (s.getTile x).issueQ = o :: rest
  runs    : (s.getCtx k).plan.state = .running
  free    : s.holds k (s.getCtx k).plan.pcy.toNat 0 = []
  goes    : s.stopDue k = false
  mapped  : ((s.getCtx k).vtile x).isSome = true
  power   : (s.getTile x).power = .run
  awake   : (s.getTile x).waking = false
  going   : (s.getTile x).endTaken = false
  due     : (s.getTile x).base + o.at_ ≤ (s.getCtx k).plan.pcy.toNat
  room    : ∀ u ∈ (s.getTile x).units o, (KMap.get [] (s.getTile x).unitQ u).length < 4
  first   : (s.getTile x).lastDisp ≠ some (s.getCtx k).plan.pcy.toNat

/-- A tile whose head has left the issue queue. -/
def popped (s : State) (k x : Nat) (o : MacroOp) (rest : List MacroOp) : Tile :=
  { s.getTile x with issueQ := rest, pc := o.index + 1, lastDisp := some (s.getCtx k).plan.pcy.toNat, held := false }

/-- NOP, WAIT, FENCE, END, SLEEP and STEP_END of a tile dispatch in the first plan cycle that R99 allows (R112, R124, R127, R128, R144): a WAIT once its
object is ACTIVE and has reached TARGET modulo 2^32, a FENCE once every earlier macro-op of its classes has completed, STEP_END once the next step's variant
is present, which then begins at its entry with step base + L. Nothing changes but the tile, and the ledger where a WAIT on a BARRIER object takes the
last kind-5 signal since the previous one: its link's LAST gains 1 (R372). -/
def Claims.SequencerDispatch : Prop :=
  (∀ (x : TileIx) (k : Nat) (o : MacroOp) (rest : List MacroOp) (s : State), s.tileCtx x.val = some k → (s.getTile x.val).issueQ = o :: rest →
    o.op = opWait → ((s.getTile x.val).bank ≠ .active ∨ 2 ^ 31 ≤ (((s.getTile x.val).obj o.obj).count - o.target).toNat) →
    (s.getCtx k).lostMark = false → exec (.wait x) s = .next s)
  ∧ ∀ (x : TileIx) (k : Nat) (o : MacroOp) (rest : List MacroOp) (s : State), MayDispatch s k x.val o rest →
    (o.op = opNop → Completes (.nop x) s [.tile] fun t => t.getTile x.val = popped s k x.val o rest ∧ Kept {} [x.val] s.tile t.tile)
    ∧ (o.op = opWait → (s.getTile x.val).bank = .active → (((s.getTile x.val).obj o.obj).count - o.target).toNat < 2 ^ 31 →
        (s.getCtx k).lostMark = false →
        ((((s.getTile x.val).obj o.obj).barrier = false ∨ ((s.getTile x.val).obj o.obj).last5 = none) →
          Completes (.wait x) s [.tile] fun t => t.getTile x.val = popped s k x.val o rest ∧ Kept {} [x.val] s.tile t.tile)
        ∧ ∀ l, ((s.getTile x.val).obj o.obj).barrier = true → ((s.getTile x.val).obj o.obj).last5 = some l →
          Completes (.wait x) s [.tile, .csr, .flt] fun t =>
            t.fld .netLedgerBar [l] 32 32 = satN 32 (s.fld .netLedgerBar [l] 32 32 + 1)
            ∧ (t.getTile x.val).obj o.obj = { (s.getTile x.val).obj o.obj with last5 := none }
            ∧ t.getTile x.val = { popped s k x.val o rest with sync := (t.getTile x.val).sync } ∧ Kept {} [x.val] s.tile t.tile)
    ∧ (o.op = opFence → (∀ r ∈ (s.getTile x.val).inFlight, ∀ c, r.op.fenceClass = some c → o.word.testBit (48 + c) = false) →
        Completes (.fence x) s [.tile] fun t => t.getTile x.val = popped s k x.val o rest ∧ Kept {} [x.val] s.tile t.tile)
    ∧ (o.op = opEnd → Completes (.endOp x) s [.tile] fun t =>
        t.getTile x.val = { popped s k x.val o rest with endTaken := true } ∧ Kept {} [x.val] s.tile t.tile)
    ∧ (o.op = opSleep → Completes (.sleep x) s [.tile] fun t =>
        t.getTile x.val = { popped s k x.val o rest with
            power := if o.f 48 2 = 2 then .deep else .sleep, wakeAt := some ((s.getTile x.val).base + o.f 50 32) }
        ∧ Kept {} [x.val] s.tile t.tile)
    ∧ (∀ im v pos kind, o.op = opStepEnd → (s.getCtx k).image = some im → (s.getCtx k).variantOf ((s.getTile x.val).step + 1) = some v →
        im.variants[v]? = some (pos, kind) → (s.getCtx k).wrongKind im ((s.getTile x.val).step + 1) kind = false →
        Completes (.stepEnd x) s [.tile, .ctx] fun t =>
          (t.getTile x.val).base = (s.getTile x.val).base + o.at_ ∧ (t.getTile x.val).step = (s.getTile x.val).step + 1
          ∧ (t.getTile x.val).variant = v ∧ (t.getTile x.val).pc = 0 ∧ ((t.getTile x.val).endTaken = true ↔ kind = 2)
          ∧ (t.getTile x.val).issueQ = (if (s.getTile x.val).entryVar = some v then (s.getTile x.val).entryBuf else [])
          ∧ (t.getTile x.val).sram = (s.getTile x.val).sram ∧ (t.getTile x.val).sync = (s.getTile x.val).sync
          ∧ (t.getTile x.val).unitQ = (s.getTile x.val).unitQ ∧ Kept {} [x.val] s.tile t.tile
          ∧ (t.getCtx k).plan = (s.getCtx k).plan ∧ Kept {} [k] s.ctx t.ctx)

/-- SIGNAL, WAKE_HINT, TILE_WAKE_COMPLETE and STREAM_LINE_FETCH (R98, R112, R128, R134): a local SIGNAL adds VALUE to its object modulo 2^32 with kind 1
at its dispatch, which its record keeps where no increment of the same tick ranks above it (R136); a sleeping tile begins to wake once PCY has reached WAKE_AT, and when it has woken it runs, with its accumulators empty and its stationary
buffers and masks zero after deep sleep; a fetch of words that read clean appends at most four macro-ops of the tile's stream, in its order. -/
def Claims.SequencerRest : Prop :=
  ∀ (x : TileIx) (k : Nat) (s : State), s.tileCtx x.val = some k →
    (∀ o rest, MayDispatch s k x.val o rest → o.op = opSignal → o.remote = false → o.obj < 48 → (s.getTile x.val).bank = .active →
        ((s.getTile x.val).doing fun o => o.op == opSignal) = none →
        Completes (.signal x) s [.tile, .csr] fun t =>
          ((t.getTile x.val).obj o.obj).count = ((s.getTile x.val).obj o.obj).count + o.target
          ∧ (((s.getTile x.val).obj o.obj).last.kind = 0 ∨ ((s.getTile x.val).obj o.obj).last.tick ≠ s.time.refTicks →
              ((t.getTile x.val).obj o.obj).last.kind = 1) ∧ (∀ j, j ≠ o.obj → (t.getTile x.val).obj j = (s.getTile x.val).obj j)
          ∧ t.getTile x.val = { popped s k x.val o rest with sync := (t.getTile x.val).sync } ∧ Kept {} [x.val] s.tile t.tile
          ∧ RegsKept ((List.range 3).map fun w => RegName.tilSyncWatch.addr [x.val, w]) s t)
    ∧ (∀ a, (s.getTile x.val).wakeAt = some a →
        (a ≤ (s.getCtx k).plan.pcy.toNat → (s.getTile x.val).power = .sleep ∨ (s.getTile x.val).power = .deep →
          Completes (.wakeHint x) s [.tile] fun t =>
            t.getTile x.val = { s.getTile x.val with waking := true, wakeAt := none } ∧ Kept {} [x.val] s.tile t.tile)
        ∧ ((s.getCtx k).plan.pcy.toNat < a → exec (.wakeHint x) s = .next s))
    ∧ ((s.getTile x.val).waking = true →
        ((s.getTile x.val).power = .deep → Completes (.tileWakeComplete x) s [.tile] fun t =>
          t.getTile x.val = { s.getTile x.val with power := .run, waking := false, acc := [], accHeld := false, stationary := [], masks := [] }
          ∧ Kept {} [x.val] s.tile t.tile)
        ∧ ((s.getTile x.val).power ≠ .deep → Completes (.tileWakeComplete x) s [.tile] fun t =>
          t.getTile x.val = { s.getTile x.val with power := .run, waking := false } ∧ Kept {} [x.val] s.tile t.tile))
    ∧ (∀ im vt, (s.getCtx k).image = some im → (s.getCtx k).vtile x.val = some vt → (s.getCtx k).plan.state ≠ .ended →
        (s.getTile x.val).endTaken = false → (s.getTile x.val).fetchPos < (im.stream (s.getTile x.val).variant vt).2 →
        (s.getTile x.val).issueQ.length + 4 ≤ 256 →
        Completes (.streamLineFetch x {}) s [.tile] fun t =>
          ∃ ops, t.getTile x.val = { s.getTile x.val with issueQ := (s.getTile x.val).issueQ ++ ops, fetchPos := (s.getTile x.val).fetchPos + ops.length }
            ∧ ops.length = min 4 ((im.stream (s.getTile x.val).variant vt).2 - (s.getTile x.val).fetchPos)
            ∧ (∀ j o, ops[j]? = some o → o.index = (s.getTile x.val).fetchPos + j
                ∧ o.word = s.ctxNat k ((im.stream (s.getTile x.val).variant vt).1 + 16 * ((s.getTile x.val).fetchPos + j)) 16)
            ∧ Kept {} [x.val] s.tile t.tile)

/-- What a tile's sequencer dispatches, and when it rests.
Where the manual is open this follows the model's choices in log entries 10, 32, 124 and 125. -/
def Obligations.Sequencers : Prop :=
  Claims.SequencerDispatch ∧ Claims.SequencerRest

/-! ### Units of a tile (05_macro_ops.md, 06_synchronization.md) -/

/-- DATA that a descriptor gives a macro-op that starts (R108): with INDEX_EN the u32 of its index descriptor times INDEX_STRIDE is added. -/
def dataAtStart (x : Tile) (d : Desc) : Nat :=
  if d.indexEn then d.data + leNat (x.sram.read (x.getDesc d.indexDesc).data 4) * d.indexStride else d.data

/-- The count array that a macro-op reads when it starts (R109). -/
def countsAtStart (x : Tile) (o : MacroOp) : List Nat := match o.cntAt with
  | none => []
  | some b => readCounts x.sram (x.getDesc (o.f b 10)).data (x.cntShape o).2

/-- What UNIT_START asks for the plain course of a macro-op: its context is OPEN and runs, it is the next of the unit, the image defines its descriptors,
no LOAD that has not signalled writes what it reads (R142), indexed tensors stay in tile SRAM and no count stands above its bound. -/
structure MayStart (s : State) (k x u : Nat) (r : Running) : Prop where
  ctx    : s.tileCtx x = some k
  opened : (s.getCtx k).state = .opened
  runs   : (s.getCtx k).plan.state = .running
  next   : (s.getTile x).next u = some r
  descs  : ∀ m, (s.getTile x).descLimit = some m → ∀ i ∈ r.op.descs, i < m
  signed : (s.getTile x).openLoads ((s.getTile x).startReads r.op) = []
  mine   : u ∈ (s.getTile x).units r.op
  inside : ∀ b ∈ r.op.fields, ((s.getTile x).getDesc (r.op.f b 10)).indexEn = true → ((s.getTile x).getDesc (r.op.f b 10)).kind = 0 →
    ((s.getTile x).getDesc (r.op.f b 10)).endAt (dataAtStart (s.getTile x) ((s.getTile x).getDesc (r.op.f b 10))) ≤ sramEnd
  bound  : ∀ c ∈ countsAtStart (s.getTile x) r.op, c ≤ ((s.getTile x).cntShape r.op).1

/-- A macro-op that has started with what it read: the DATA of every descriptor and its counts. -/
abbrev StartedAs (x : Tile) (r r' : Running) : Prop :=
  r'.op = r.op ∧ r'.base = r.base ∧ r'.step = r.step ∧ r'.started = true ∧ r'.done = r.done ∧ r'.counts = countsAtStart x r.op
  ∧ ∀ b ∈ r.op.fields, r'.dataOf b = dataAtStart x (x.getDesc (r.op.f b 10))

/-- UNIT_START (R100, R108, R109, R147), over words that read clean: the next macro-op of a unit leaves the queues of its units with the DATA of its descriptors
and its counts; a LOAD or STORE takes a transfer entry, a RECV waits beside the port for its flits, and any other holds its unit; the wait cycles are
counted. -/
def Claims.UnitStart : Prop :=
  ∀ (x : TileIx) (k : Nat) (u : UnitId) (n : Nat) (r : Running) (s : State), MayStart s k x.val (unitIndex u) r →
    Completes (.unitStart x u n {}) s [.tile, .csr] fun t =>
      (∃ r', StartedAs (s.getTile x.val) r r'
        ∧ (r.op.op ≠ opLoad → r.op.op ≠ opStore → r.op.op ≠ opRecv →
            KMap.get none (t.getTile x.val).running (((s.getTile x.val).units r.op).headD (unitIndex u)) = some r'
            ∧ (t.getTile x.val).xfer = (s.getTile x.val).xfer ∧ (t.getTile x.val).outst = (s.getTile x.val).outst)
        ∧ (r.op.op = opRecv → (t.getTile x.val).outst = (s.getTile x.val).outst ++ [r'] ∧ (t.getTile x.val).xfer = (s.getTile x.val).xfer)
        ∧ (r.op.op = opLoad ∨ r.op.op = opStore →
            KMap.get [] (t.getTile x.val).xfer (unitIndex u) = KMap.get [] (s.getTile x.val).xfer (unitIndex u) ++ [r']
            ∧ (t.getTile x.val).outst = (s.getTile x.val).outst))
      ∧ KMap.get [] (t.getTile x.val).unitQ (unitIndex u) = (KMap.get [] (s.getTile x.val).unitQ (unitIndex u)).drop 1
      ∧ (t.getTile x.val).sram = (s.getTile x.val).sram ∧ (t.getTile x.val).sync = (s.getTile x.val).sync
      ∧ t.fld .tilBankWait [x.val] 0 48 = satN 48 (s.fld .tilBankWait [x.val] 0 48 + n) ∧ Kept {} [x.val] s.tile t.tile
      ∧ RegsKept [RegName.tilBankWait.addr [x.val], RegName.tilQstat.addr [x.val, unitIndex u - 4]] s t

/-- What the signal of a completing macro-op does (R102, R134): with SIG_EN its object, and no other, gains 1. -/
abbrev Signalled (x x' : Tile) (o : MacroOp) : Prop :=
  ∀ j, (x'.obj j).count = (x.obj j).count + (if o.sigEn = true ∧ j = o.sig then 1 else 0)

/-- MACRO_OP_COMPLETE (R102, R142): the oldest transfer of a queue completes once it is done and no store of it waits for a page; a macro-op that holds its unit
and is done frees it; one that has left its port completes when it is done; each adds 1 to its sync object where SIG_EN is 1. A LOAD whose destination was read
before its signal then stands there as it was loaded. -/
def Claims.MacroOpCompletion : Prop :=
  ∀ (x : TileIx) (k : Nat) (u : UnitId) (r : Running) (s : State), s.tileCtx x.val = some k → (s.getCtx k).plan.state = .running →
    (s.getTile x.val).bank = .active → r.done = true → (r.op.sigEn = true → r.op.sig < 48) →
    (∀ rs, 4 ≤ unitIndex u → unitIndex u < 10 → KMap.get [] (s.getTile x.val).xfer (unitIndex u) = r :: rs → s.storeHeld x.val r = false →
        Completes (.macroOpComplete x u) s [.tile, .csr, .freeCtr] fun t =>
          KMap.get [] (t.getTile x.val).xfer (unitIndex u) = rs ∧ Signalled (s.getTile x.val) (t.getTile x.val) r.op
          ∧ (t.getTile x.val).sram = (if r.bytes = [] then (s.getTile x.val).sram
              else writeRanges (s.getTile x.val).sram ((s.getTile x.val).rangesOf r 58) r.bytes)
          ∧ (t.getTile x.val).running = (s.getTile x.val).running
          ∧ Kept {} [x.val] s.tile t.tile
          ∧ RegsKept (RegName.tilQstat.addr [x.val, unitIndex u - 4] :: (List.range 3).map fun w => RegName.tilSyncWatch.addr [x.val, w]) s t)
    ∧ (unitIndex u < 4 → KMap.get none (s.getTile x.val).running (unitIndex u) = some r → (unitIndex u) ∈ (s.getTile x.val).units r.op →
        (∀ p ∈ (s.getTile x.val).running, ∀ e ∈ p.2, (p.1 = unitIndex u ∧ e = r) ∨ (p.1 ≠ unitIndex u ∧ unitIndex u ∉ (s.getTile x.val).units e.op)) →
        Completes (.macroOpComplete x u) s [.tile, .csr] fun t =>
          KMap.get none (t.getTile x.val).running (unitIndex u) = none ∧ Kept none [unitIndex u] (s.getTile x.val).running (t.getTile x.val).running
          ∧ Signalled (s.getTile x.val) (t.getTile x.val) r.op ∧ (t.getTile x.val).sram = (s.getTile x.val).sram
          ∧ Kept {} [x.val] s.tile t.tile ∧ RegsKept ((List.range 3).map fun w => RegName.tilSyncWatch.addr [x.val, w]) s t)
    ∧ ((u = .router ∨ u = .engine) → (∀ p ∈ (s.getTile x.val).running, ∀ e ∈ p.2, e.done = false ∨ unitIndex u ∉ (s.getTile x.val).units e.op) →
        ∀ rest, takeDone (fun r => r.op.engine == (unitIndex u == 11)) (s.getTile x.val).outst = some (r, rest) →
        Completes (.macroOpComplete x u) s [.tile, .csr, .vault] fun t =>
          (t.getTile x.val).outst = rest ∧ Signalled (s.getTile x.val) (t.getTile x.val) r.op ∧ (t.getTile x.val).sram = (s.getTile x.val).sram
          ∧ Kept {} [x.val] s.tile t.tile ∧ RegsKept ((List.range 3).map fun w => RegName.tilSyncWatch.addr [x.val, w]) s t)

/-- SYNC_WATCH_ARM and SYNC_WATCH_TIMEOUT (R154): a holder of the tile's ticket arms a watch on an object of an ACTIVE bank, which waits as PENDING, or
ends OK at once where the object has reached TARGET; on an abandoned bank it ends ABANDONED, and an object number above 47 is REJECTED; a pending watch
whose deadline has come ends with TIMEOUT. -/
def Claims.SyncWatches : Prop :=
  (∀ (acc : Accessor) (x : TileIx) (w : Fin 3) (v : Word) (k st : Nat) (pend : Bool) (s : State), s.absent (srcTile x.val) = false →
    s.tileCtx x.val = some k → s.owns acc k = true → s.syncWatches x.val = [] → v.getLsbD 38 = true →
    ((48 ≤ field v 0 6 ∧ st = 6 ∧ pend = false)
      ∨ (field v 0 6 < 48 ∧ (s.getTile x.val).bank = .abandoned ∧ st = 5 ∧ pend = false)
      ∨ (field v 0 6 < 48 ∧ (s.getTile x.val).bank = .active ∧ st = 0
          ∧ pend = decide (2 ^ 31 ≤ (((s.getTile x.val).obj (field v 0 6)).count - BitVec.ofNat 32 (field v 6 32)).toNat))) →
    Completes (.syncWatchArm acc x w v) s [.csr] fun t =>
      t.fld .tilSyncWatch [x.val, w.val] 0 38 = field v 0 38 ∧ t.bit .tilSyncWatch [x.val, w.val] 39 = pend
      ∧ t.bit .tilSyncWatch [x.val, w.val] 40 = !pend ∧ (pend = false → t.fld .tilSyncWatch [x.val, w.val] 42 8 = st)
      ∧ RegsKept [RegName.tilSyncWatch.addr [x.val, w.val]] s t)
  ∧ ∀ (x : TileIx) (w : Fin 3) (s : State), s.bit .tilSyncWatch [x.val, w.val] 39 = true → s.rg .tilSyncWatchDl [x.val, w.val] ≠ 0 →
      ((s.rg .tilSyncWatchDl [x.val, w.val]).toNat ≤ s.mtN → Completes (.syncWatchTimeout x w) s [.csr] fun t =>
          t.bit .tilSyncWatch [x.val, w.val] 39 = false ∧ t.bit .tilSyncWatch [x.val, w.val] 40 = true
          ∧ t.fld .tilSyncWatch [x.val, w.val] 42 8 = 7 ∧ RegsKept [RegName.tilSyncWatch.addr [x.val, w.val]] s t)
      ∧ (s.mtN < (s.rg .tilSyncWatchDl [x.val, w.val]).toNat → exec (.syncWatchTimeout x w) s = .next s)

/-- Units that start and end their macro-ops, and the watches on sync objects.
Where the manual is open this follows the model's choices in log entries 10, 90, 100 and 101. -/
def Obligations.UnitsAndWatches : Prop :=
  Claims.UnitStart ∧ Claims.MacroOpCompletion ∧ Claims.SyncWatches

/-! ### Moving data (05_macro_ops.md, 06_synchronization.md, 10_memory_tiers.md) -/

/-- A byte address lies in none of a list of ranges. -/
abbrev Outside (rs : List (Nat × Nat)) (a : Nat) : Prop := ∀ p ∈ rs, a < p.1 ∨ p.1 + p.2 ≤ a

/-- The transfer entries of a queue with one of them done. -/
def xferWithDone (x : Tile) (u : Nat) (r : Running) : List Running :=
  (KMap.get [] x.xfer u).map fun y => if y.key = r.key then { y with done := true } else y

/-- A write within one page of a context (R255, R260): where the page has an entry, is not in motion and no flag watch of the context waits, the bytes read
back, and every other byte of the page's frame, and every byte of every other frame, is unchanged. -/
def Claims.ContextWrite : Prop :=
  ∀ (k va : Nat) (bs : List Byte) (e : Pte) (f : FrameId) (s : State), 0 < bs.length → va % pageBytes + bs.length ≤ pageBytes →
    s.pte k va = some e → e.frame = some f → e.moving = false → s.watchesOf k = [] →
    (s.ctxWrite k va bs).ctxRead k va bs.length = bs
    ∧ OnlyChanges [.hbm, .cxl] s (s.ctxWrite k va bs)
    ∧ (∀ off, off < va % pageBytes ∨ va % pageBytes + bs.length ≤ off → (s.ctxWrite k va bs).frameRead f off 1 = s.frameRead f off 1)
    ∧ ∀ g off, g.cxl ≠ f.cxl ∨ g.unit ≠ f.unit ∨ g.frame ≠ f.frame → off < pageBytes → (s.ctxWrite k va bs).frameRead g off 1 = s.frameRead g off 1

/-- LOAD (R72, R113, R129, R245): over words that read clean, every byte of the source passes into the destination's ranges of tile SRAM, in their order, and no
other byte of the tile changes, also where the plan has ended by then (R151); a source outside the context's pages raises L1 MEM_DENIED; the transfer, which
need not be its queue's first (R142), is done either way, and the cycles that it waits for banks and routers are counted. -/
def Claims.LoadTransfer : Prop :=
  ∀ (x : TileIx) (q : Fin 4) (nth : Fin 32) (w m : Nat) (i : CtxId) (r : Running) (s : State),
    (s.getTile x.val).nextXfer (4 + q.val) nth.val = some r → (s.getTile x.val).ctx = some i →
    ((∀ p ∈ (s.getTile x.val).rangesOf r 48, s.vaOk i.slot p.1 p.2 false = true) →
        Completes (.load x q nth { waits := w, mesh := m }) s [.tile, .ctx, .csr] fun t =>
          KMap.get [] (t.getTile x.val).xfer (4 + q.val) = xferWithDone (s.getTile x.val) (4 + q.val) r
          ∧ (t.getTile x.val).sram = writeRanges (s.getTile x.val).sram ((s.getTile x.val).rangesOf r 58)
              (((s.getTile x.val).rangesOf r 48).flatMap fun p => s.ctxRead i.slot p.1 p.2)
          ∧ (∀ a, Outside ((s.getTile x.val).rangesOf r 58) a → (t.getTile x.val).sram.get a = (s.getTile x.val).sram.get a)
          ∧ t.getTile x.val = { s.getTile x.val with sram := (t.getTile x.val).sram, xfer := (t.getTile x.val).xfer } ∧ Kept {} [x.val] s.tile t.tile
          ∧ t.fld .tilBankWait [x.val] 0 48 = satN 48 (s.fld .tilBankWait [x.val] 0 48 + w)
          ∧ t.fld .netUnschedWait [] 0 48 = satN 48 (s.fld .netUnschedWait [] 0 48 + m)
          ∧ RegsKept [RegName.tilBankWait.addr [x.val], RegName.netUnschedWait.addr []] s t
          ∧ (t.getCtx i.slot).plan = (s.getCtx i.slot).plan ∧ Kept {} [i.slot] s.ctx t.ctx)
    ∧ ((∃ p ∈ (s.getTile x.val).rangesOf r 48, s.vaOk i.slot p.1 p.2 false = false) →
        ∃ t0 t, OnlyChanges [.csr] s t0 ∧ RegsKept [RegName.tilBankWait.addr [x.val], RegName.netUnschedWait.addr []] s t0
          ∧ exec (.load x q nth { waits := w, mesh := m }) s = .next t ∧ OnlyChanges [.tile] (against t0 .memDenied (srcTile x.val) i.slot) t
          ∧ (t.getTile x.val).sram = ((against t0 .memDenied (srcTile x.val) i.slot).getTile x.val).sram)

/-- STORE (R72, R113, R129): over tile SRAM that reads clean and that no LOAD has yet to signal for (R142), the bytes of the source's ranges are written at the
destination's ranges of the context's memory, each as `ContextWrite` says, and the tile keeps every byte; a destination outside the context's pages, or in
pages without WRITE, raises L1 MEM_DENIED and nothing is written. -/
def Claims.StoreTransfer : Prop :=
  ∀ (x : TileIx) (q : Fin 2) (nth : Fin 32) (w m : Nat) (i : CtxId) (r : Running) (s : State),
    (s.getTile x.val).nextXfer (8 + q.val) nth.val = some r → (s.getTile x.val).ctx = some i →
    ((∀ p ∈ (s.getTile x.val).rangesOf r 58, s.vaOk i.slot p.1 p.2 true = true) →
      (s.getTile x.val).openLoads ((s.getTile x.val).rangesOf r 48) = [] →
        ∃ t0, OnlyChanges [.ctx, .csr] s t0 ∧ (∀ va, (t0.pte i.slot va).map Pte.frame = (s.pte i.slot va).map Pte.frame)
          ∧ (t0.getCtx i.slot).plan = (s.getCtx i.slot).plan
          ∧ RegsKept [RegName.tilBankWait.addr [x.val], RegName.netUnschedWait.addr []] s t0
          ∧ ∃ t, exec (.store x q nth { waits := w, mesh := m }) s = .next t
            ∧ OnlyChanges [.tile] (ctxWriteRanges t0 i.slot x.val r.key ((s.getTile x.val).rangesOf r 58)
                (readRanges (s.getTile x.val).sram ((s.getTile x.val).rangesOf r 48))) t
            ∧ t.getTile x.val = { s.getTile x.val with xfer := (t.getTile x.val).xfer } ∧ Kept {} [x.val] s.tile t.tile
            ∧ KMap.get [] (t.getTile x.val).xfer (8 + q.val) = xferWithDone (s.getTile x.val) (8 + q.val) r)
    ∧ ((∃ p ∈ (s.getTile x.val).rangesOf r 58, s.vaOk i.slot p.1 p.2 true = false) →
        ∃ t0 t, OnlyChanges [.csr] s t0 ∧ RegsKept [RegName.tilBankWait.addr [x.val], RegName.netUnschedWait.addr []] s t0
          ∧ exec (.store x q nth { waits := w, mesh := m }) s = .next t ∧ OnlyChanges [.tile] (against t0 .memDenied (srcTile x.val) i.slot) t)

/-- Writes to a context's memory, and the transfers of LOAD and STORE.
Where the manual is open this follows the model's choices in log entries 10, 40 and 100. -/
def Obligations.Transfers : Prop :=
  Claims.ContextWrite ∧ Claims.LoadTransfer ∧ Claims.StoreTransfer

/-- MOVE and SEND (R72, R114, R115, R130), over tile SRAM that reads clean and that no LOAD has yet to signal for (R142): a local MOVE copies its source over its
destination's ranges, and no other byte changes; a remote one queues its flits on the mesh; a SEND packs its bytes into flits of 32, the last padded with
zeros, which may leave from step base + AT on, behind the stream's earlier flits, and waits for that many acknowledgements; slots that waited for it then
take their flits.
Where the manual is open this follows the model's choices in log entry 10. -/
def Obligations.MoveAndSend : Prop :=
  ∀ (x : TileIx) (k u w : Nat) (r : Running) (s : State), s.tileCtx x.val = some k →
    (s.getTile x.val).openLoads ((s.getTile x.val).rangesOf r 48) = [] →
    ((s.getTile x.val).doing (fun o => o.op == opMove) = some (u, r) →
      (r.op.remote = false → Completes (.move x { waits := w }) s [.tile, .csr] fun t =>
          (t.getTile x.val).sram = writeRanges (s.getTile x.val).sram ((s.getTile x.val).rangesOf r 58)
            (readRanges (s.getTile x.val).sram ((s.getTile x.val).rangesOf r 48))
          ∧ (∀ a, Outside ((s.getTile x.val).rangesOf r 58) a → (t.getTile x.val).sram.get a = (s.getTile x.val).sram.get a)
          ∧ t.getTile x.val = { s.getTile x.val with sram := (t.getTile x.val).sram, running := (t.getTile x.val).running }
          ∧ Kept none [u] (s.getTile x.val).running (t.getTile x.val).running ∧ Kept {} [x.val] s.tile t.tile
          ∧ t.fld .tilBankWait [x.val] 0 48 = satN 48 (s.fld .tilBankWait [x.val] 0 48 + w) ∧ RegsKept [RegName.tilBankWait.addr [x.val]] s t)
      ∧ (r.op.remote = true → Completes (.move x { waits := w }) s [.tile, .net, .csr] fun t =>
          t.net.flits = s.net.flits ++ moveFlits s k x.val r (readRanges (s.getTile x.val).sram ((s.getTile x.val).rangesOf r 48))
          ∧ t.net = { s.net with flits := t.net.flits }
          ∧ KMap.get none (t.getTile x.val).running u = none ∧ (t.getTile x.val).outst = (s.getTile x.val).outst ++ [r]
          ∧ (t.getTile x.val).sram = (s.getTile x.val).sram ∧ Kept {} [x.val] s.tile t.tile ∧ RegsKept [RegName.tilBankWait.addr [x.val]] s t))
    ∧ ((s.getTile x.val).doing (fun o => o.op == opSend) = some (u, r) →
        ∃ t fs, exec (.send x { waits := w }) s = .next (fillDue t k) ∧ OnlyChanges [.tile, .csr] s t
          ∧ ((∀ l, (s.getLink l).txDue = []) → fillDue t k = t)
          ∧ KMap.get [] (t.getTile x.val).outbox r.op.stream = KMap.get [] (s.getTile x.val).outbox r.op.stream ++ fs
          ∧ (∀ f ∈ fs, f.payload.length = 32 ∧ f.from_ = r.base + r.op.at_ ∧ f.signal = none ∧ f.mop = r.key)
          ∧ (∃ pad, (fs.flatMap OutFlit.payload) = readRanges (s.getTile x.val).sram ((s.getTile x.val).rangesOf r 48) ++ List.replicate pad 0 ∧ pad < 32)
          ∧ (t.getTile x.val).outst = (s.getTile x.val).outst ++ [{ r with awaits := fs.length }]
          ∧ KMap.get none (t.getTile x.val).running u = none ∧ (t.getTile x.val).sram = (s.getTile x.val).sram ∧ Kept {} [x.val] s.tile t.tile
          ∧ RegsKept [RegName.tilBankWait.addr [x.val]] s t)

/-- RECV, RECEIVE_TREE_WRITE and MESH_FLIT_DELIVER (R72, R115, R134, R136, R146, R151, R292, R295, R301): a released flit of a link comes to its tile's stream while the
tile is its context's, an increment applies with kind 5, and counts in the ledger on a BARRIER object, and a payload waits where no RECV takes it; an
uncorrectable entry raises L1 LINK_DATA_UE; a RECV takes the payload at the head of its stream into its next 32 bytes; a mesh flit writes its bytes into the
tile it reaches, in order, while the tile is its context's.
Where the manual is open this follows the model's choices in log entries 24, 74, 102 and 126. -/
def Obligations.Deliveries : Prop :=
  (∀ (l : LinkIx) (e : RxEntry) (rest : List RxEntry) (k w : Nat) (s : State),
      (s.getLink l.val).tree = e :: rest → s.linkHolder l.val = some k →
      (exec (.receiveTreeWrite l true w) s
        = .next (against ((bankWait s e.dst w).modLink l.val fun y => { y with tree := rest }) .linkDataUe (srcLnk l.val) k l.val))
      ∧ ((s.getTile e.dst).ctx ≠ some (s.idOf k) →
          Completes (.receiveTreeWrite l false w) s [.link, .csr] fun t =>
            t.getLink l.val = { s.getLink l.val with tree := rest } ∧ Kept {} [l.val] s.link t.link ∧ RegsKept [RegName.tilBankWait.addr [e.dst]] s t)
      ∧ ((s.getTile e.dst).ctx = some (s.idOf k) → e.signal = none →
          (∀ r ∈ (s.getTile e.dst).outst, ¬(r.op.op = opRecv ∧ r.op.stream = e.stream ∧ r.done = false)) →
          (∀ i ∈ KMap.get [] (s.getTile e.dst).inbox e.stream, i.signal = none) →
          Completes (.receiveTreeWrite l false w) s [.link, .tile, .csr] fun t =>
            KMap.get [] (t.getTile e.dst).inbox e.stream
              = KMap.get [] (s.getTile e.dst).inbox e.stream ++ [{ payload := e.payload.getD [], signal := none, link := l.val, slack := s.slack k e }]
            ∧ t.getTile e.dst = { s.getTile e.dst with inbox := (t.getTile e.dst).inbox } ∧ Kept {} [e.dst] s.tile t.tile
            ∧ t.getLink l.val = { s.getLink l.val with tree := rest } ∧ Kept {} [l.val] s.link t.link ∧ RegsKept [RegName.tilBankWait.addr [e.dst]] s t)
      ∧ (∀ o v, (s.getTile e.dst).ctx = some (s.idOf k) → e.signal = some (o, v) → KMap.get [] (s.getTile e.dst).inbox e.stream = [] → o < 48 →
          (s.getTile e.dst).bank = .active → (s.getCtx k).plan.state ≠ .ended →
          Completes (.receiveTreeWrite l false w) s [.link, .tile, .csr] fun t =>
            ((t.getTile e.dst).obj o).count = ((s.getTile e.dst).obj o).count + v ∧ ((t.getTile e.dst).obj o).last5 = some l.val
            ∧ (((s.getTile e.dst).obj o).last.kind = 0 ∨ ((s.getTile e.dst).obj o).last.tick ≠ s.time.refTicks →
                ((t.getTile e.dst).obj o).last.kind = 5 ∧ ((t.getTile e.dst).obj o).last.link = l.val)
            ∧ t.fld .netLedgerBar [l.val] 0 32
                = (if ((s.getTile e.dst).obj o).barrier = true then satN 32 (s.fld .netLedgerBar [l.val] 0 32 + 1) else s.fld .netLedgerBar [l.val] 0 32)
            ∧ (t.getTile e.dst).sram = (s.getTile e.dst).sram ∧ Kept {} [e.dst] s.tile t.tile
            ∧ KMap.get [] (t.getTile e.dst).inbox e.stream = []))
  ∧ (∀ (x : TileIx) (w : Nat) (r : Running) (i : InItem) (s : State), (s.getTile x.val).outst = [r] → r.op.op = opRecv → r.done = false → i.signal = none →
      KMap.get [] (s.getTile x.val).inbox r.op.stream = [i] →
      Completes (.recv x w) s [.tile, .csr] fun t =>
        (t.getTile x.val).outst = [{ r with recvd := r.recvd + 1, done := decide ((s.getTile x.val).recvFlits r ≤ r.recvd + 1) }]
        ∧ KMap.get [] (t.getTile x.val).inbox r.op.stream = []
        ∧ (∀ a, a ∉ slice (addrsOf ((s.getTile x.val).rangesOf r 48)) (32 * r.recvd) 32 → (t.getTile x.val).sram.get a = (s.getTile x.val).sram.get a)
        ∧ ((addrsOf ((s.getTile x.val).rangesOf r 48)).Nodup → ∀ (j a : Nat) (b : Byte), (slice (addrsOf ((s.getTile x.val).rangesOf r 48)) (32 * r.recvd) 32)[j]? = some a →
            i.payload[j]? = some b → (t.getTile x.val).sram.get a = b)
        ∧ Kept {} [x.val] s.tile t.tile ∧ RegsKept [RegName.tilBankWait.addr [x.val]] s t)
  ∧ ∀ (x : TileIx) (stream : Fin 64) (w : Nat) (f : MeshFlit) (s : State),
      (s.net.flits.find? fun g => g.src == x.val && g.stream == stream.val) = some f → f.signal = none →
      ((s.getTile f.dst).ctx = some f.ctx → Completes (.meshFlitDeliver x stream w) s [.net, .tile, .csr] fun t =>
          t.net = { s.net with flits := s.net.flits.erase f } ∧ RegsKept [RegName.tilBankWait.addr [f.dst]] s t
          ∧ (∀ a, (∀ c ∈ f.writes, c.1 ≠ a) → (t.getTile f.dst).sram.get a = (s.getTile f.dst).sram.get a)
          ∧ ((f.writes.map Prod.fst).Nodup → ∀ c ∈ f.writes, (t.getTile f.dst).sram.get c.1 = c.2)
          ∧ (∀ y, y ≠ f.dst → (t.getTile y).sram = (s.getTile y).sram)
          ∧ ((s.getTile x.val).ctx = some f.ctx → f.last = true → ∀ r ∈ (t.getTile x.val).outst, r.key = f.mop → r.op.engine = false → r.done = true))
      ∧ ((s.getTile f.dst).ctx ≠ some f.ctx → Completes (.meshFlitDeliver x stream w) s [.net, .tile, .csr] fun t =>
          t.net = { s.net with flits := s.net.flits.erase f } ∧ (∀ y, (t.getTile y).sram = (s.getTile y).sram)
          ∧ RegsKept [RegName.tilBankWait.addr [f.dst]] s t)

/-! ### Tiles and arithmetic (04_tile_and_arithmetic.md, 05_macro_ops.md) -/

/-- Lines of blocks fit a descriptor's tensor: no more lines than it has, in each no more blocks than a line has, and 32 elements in each block. -/
abbrev Fits (d : Desc) (ls : List (List Block)) : Prop :=
  ls.length ≤ d.lines ∧ (∀ l ∈ ls, l.length ≤ d.blocks ∧ ∀ b ∈ l, b.codes.length = 32) ∧ d.kind ≠ 3 ∧ d.fmt < 4

/-- Rounding is half to even (R79): over fewer than 120 places the result lies within half a unit of the exact quotient, and at exactly half it is even. A
dot product is exact (R80): blocks of scale (1, 0) with 8-bit codes accumulate to the sum of all products of elements. The codes and scale that
MAXABS gives stay within the target's bounds (R85). -/
def Claims.Arithmetic : Prop :=
  (∀ (v : Int) (n : Nat), n < 120 →
      2 * (v - rneShr v n * (2 ^ n : Nat)).natAbs ≤ 2 ^ n ∧ (2 * (v - rneShr v n * (2 ^ n : Nat)).natAbs = 2 ^ n → 0 < n → rneShr v n % 2 = 0))
  ∧ (∀ xs ys : List Block, xs.length ≤ 2 ^ 40 →
      (∀ b, (b ∈ xs ∨ b ∈ ys) → b.m = 1 ∧ b.e = 0 ∧ b.codes.length = 32 ∧ ∀ c ∈ b.codes, -128 ≤ c ∧ c ≤ 127) →
      (({} : Acc).dot xs ys).exp = 0
      ∧ (({} : Acc).dot xs ys).mant = ((xs.zip ys).map fun p => dotCodes p.1.codes p.2.codes).foldl (· + ·) 0)
  ∧ ∀ (b : Block) (fmt : Nat), fmt < 3 → b.m < 256 → -128 ≤ b.e → b.e ≤ 127 → (∀ c ∈ b.codes, c.natAbs ≤ 2 ^ 31) →
      (requantMax b fmt).1.codes.length = b.codes.length ∧ (requantMax b fmt).1.m ≤ 255
      ∧ -128 ≤ (requantMax b fmt).1.e ∧ (requantMax b fmt).1.e ≤ 127
      ∧ ∀ c ∈ (requantMax b fmt).1.codes, -fmtTarget fmt ≤ c ∧ c ≤ fmtTarget fmt

/-- Tensors in tile SRAM (R75 to R77): a line written in a format reads back, its codes being of that format and its scales in range, where its elements and
its scales do not overlap; and lines that fit a tensor change no byte outside the ranges of its descriptor. -/
def Claims.TensorStorage : Prop :=
  ∀ (m : Memory) (d : Desc) (data : Nat), d.fmt < 4 → d.kind ≠ 3 →
    (∀ (i : Nat) (bs : List Block), bs.length = d.blocks → d.len = 32 * d.blocks →
        (∀ b ∈ bs, b.codes.length = 32 ∧ b.m < 256 ∧ -128 ≤ b.e ∧ b.e ≤ 127
          ∧ ∀ c ∈ b.codes, -(2 ^ (fmtBits d.fmt - 1) : Nat) ≤ c ∧ c < (2 ^ (fmtBits d.fmt - 1) : Nat)) →
        (data + i * d.stride + d.lineBytes ≤ data + d.scaleOff + 2 * d.blocks * i
          ∨ data + d.scaleOff + 2 * d.blocks * i + 2 * d.blocks ≤ data + i * d.stride) →
        readLine (writeLine m d data i bs) d data i = bs)
    ∧ ∀ ls : List (List Block), Fits d ls → ∀ a, Outside (d.ranges data) a → (writeTensor m d data ls).get a = m.get a

/-- Element arithmetic, and tensors in tile SRAM. -/
def Obligations.TileNumbers : Prop :=
  Claims.Arithmetic ∧ Claims.TensorStorage

/-- No LOAD that has yet to signal writes where a macro-op reads (R142). -/
abbrev Settled (X : Tile) (r : Running) : Prop := ∀ b ∈ r.op.fields, X.openLoads (X.rangesOf r b) = []

/-- The eight compute macro-ops, over tile SRAM that reads clean and settled: the row of one that runs and has not written its results marks it done and keeps every other
field of its tile but SRAM, the accumulators, the stationary buffers and the masks, of which the last four change only with tensor-engine macro-ops
and VEC; of the registers only TIL_ARITH_SAT of the tile counts. Where none runs nothing changes. -/
def Claims.ComputeRows : Prop :=
  ∀ (x : TileIx) (c : Instr) (n : Nat) (s : State),
    ((c = .matmul x {} ∧ n = opMatmul) ∨ (c = .attn x {} ∧ n = opAttn) ∨ (c = .norm x {} ∧ n = opNorm) ∨ (c = .act x {} ∧ n = opAct)
      ∨ (c = .softmax x {} ∧ n = opSoftmax) ∨ (c = .requant x {} ∧ n = opRequant) ∨ (c = .vec x {} ∧ n = opVec)
      ∨ (c = .tailorApply x {} ∧ n = opTailorApply)) →
    ((s.getTile x.val).doing (isOp n) = none → exec c s = .next s)
    ∧ ∀ u r, (s.getTile x.val).doing (isOp n) = some (u, r) → Settled (s.getTile x.val) r →
        Completes c s [.tile, .csr] fun t =>
          (∀ y, KMap.get none (s.getTile x.val).running u = some y → KMap.get none (t.getTile x.val).running u = some { y with done := true })
          ∧ Kept none [u] (s.getTile x.val).running (t.getTile x.val).running
          ∧ t.getTile x.val = { s.getTile x.val with
              sram := (t.getTile x.val).sram, running := (t.getTile x.val).running, acc := (t.getTile x.val).acc, accHeld := (t.getTile x.val).accHeld,
              stationary := (t.getTile x.val).stationary, masks := (t.getTile x.val).masks }
          ∧ (n ≠ opVec → (t.getTile x.val).masks = (s.getTile x.val).masks)
          ∧ (n ≠ opMatmul → n ≠ opAttn → n ≠ opTailorApply → (t.getTile x.val).acc = (s.getTile x.val).acc
              ∧ (t.getTile x.val).accHeld = (s.getTile x.val).accHeld ∧ (t.getTile x.val).stationary = (s.getTile x.val).stationary)
          ∧ Kept {} [x.val] s.tile t.tile ∧ RegsKept [RegName.tilArithSat.addr [x.val]] s t

/-- A macro-op's output stands in tile SRAM as its descriptor lays it out, no byte outside the descriptor's ranges has changed where it fits them, and
its saturated blocks are counted (R88). -/
abbrev Wrote (s t : State) (x : Nat) (r : Running) (b : Nat) (out : List (Counted (List Block))) : Prop :=
  (t.getTile x).sram = writeTensor (s.getTile x).sram ((s.getTile x).descOf r b) (r.dataOf b) (out.map Counted.val)
  ∧ (Fits ((s.getTile x).descOf r b) (out.map Counted.val) → ∀ a, Outside ((s.getTile x).rangesOf r b) a →
      (t.getTile x).sram.get a = (s.getTile x).sram.get a)
  ∧ t.fld .tilArithSat [x] 0 32 = satN 32 (s.fld .tilArithSat [x] 0 32 + sumN (out.map Counted.sat))

/-- Rows of A that a MATMUL applies (R109). -/
def liveRows (X : Tile) (r : Running) : Nat := r.counts.headD (X.descOf r 48).rows

/-- The accumulators that row i of a MATMUL starts from (R81): empty for ACC 0 and 2, C's elements for ACC 1, the ones held for ACC 3 and 4. -/
def startRow (X : Tile) (r : Running) (i : Nat) : List Acc :=
  if r.op.f 78 3 = 1 then accsOf ((X.tensor r 68).getD i [])
  else if 3 ≤ r.op.f 78 3 ∧ X.accHeld then X.heldRow i (X.tensor r 58).length
  else List.replicate (X.tensor r 58).length {}

/-- The accumulators of a MATMUL when every row of A has met every column of B (R80, R117). -/
def productRows (X : Tile) (r : Running) : List (List Acc) :=
  (X.tensor r 48).zipIdx.map fun e =>
    if e.2 < liveRows X r then List.zipWith (fun acc col => Acc.dot acc e.1 col) (startRow X r e.2) (X.tensor r 58) else startRow X r e.2

/-- What the tensor engine gives (R81, R82, R109, R117, R118): in MATMUL, row i of A against every column of B, each accumulator starting empty, from C's
element, or from the one held, and rows from the count on not applied; the modes that hold keep the accumulators and every byte, the others
drain them to C, masked from the count on, and leave the accumulators of the rows that were not applied as they were (R109). ATTN gives for each query row the sequence of R118, over as many keys as the row's count. -/
def Claims.TensorEngineResults : Prop :=
  ∀ (x : TileIx) (u : Nat) (r : Running) (s t : State) (X : Tile), X = s.getTile x.val →
    (X.doing (isOp opMatmul) = some (u, r) → Settled X r → exec (.matmul x {}) s = .next t →
      r.op.f 78 3 ≤ 4 →
        ((r.op.f 78 3 = 2 ∨ r.op.f 78 3 = 3) → (t.getTile x.val).acc = holdRows (productRows X r) ∧ (t.getTile x.val).accHeld = true
            ∧ (t.getTile x.val).sram = X.sram ∧ t.fld .tilArithSat [x.val] 0 32 = s.fld .tilArithSat [x.val] 0 32)
        ∧ ((r.op.f 78 3 = 0 ∨ r.op.f 78 3 = 1 ∨ r.op.f 78 3 = 4) → (t.getTile x.val).acc = holdRows ((productRows X r).zipIdx.map fun e =>
                if e.2 < liveRows X r then List.replicate (X.tensor r 58).length {} else e.1)
            ∧ (t.getTile x.val).accHeld = decide (liveRows X r < (X.tensor r 48).length)
            ∧ Wrote s t x.val r 68 ((productRows X r).zipIdx.map fun e =>
                if e.2 < liveRows X r then drainRow r.op (X.descOf r 68).fmt e.1 else maskedRow r.op (X.descOf r 68).fmt (X.descOf r 68).blocks)))
    ∧ (X.doing (isOp opAttn) = some (u, r) → Settled X r → exec (.attn x {}) s = .next t →
        (t.getTile x.val).acc = [] ∧ (t.getTile x.val).accHeld = false
        ∧ Wrote s t x.val r 78 ((X.tensor r 48).zipIdx.map fun e =>
            attnRow r.op (X.descOf r 78).fmt e.1 (X.tensor r 58) (X.tensor r 68) (r.rowCount e.2 (X.descOf r 58).rows)))
    ∧ (X.doing (isOp opTailorApply) = some (u, r) → Settled X r → exec (.tailorApply x {}) s = .next t →
        ((∀ i ∈ readCounts X.sram (r.dataOf 78) (X.descOf r 48).rows, i % 65536 = 0) → (X.descOf r 48).lines = (X.descOf r 68).lines →
          (X.descOf r 48).rows = (X.descOf r 48).lines →
          Wrote s t x.val r 68 ((X.tensor r 68).map fun y => { val := y }))
        ∧ ((X.descOf r 48).rows = 1 → (X.descOf r 48).axis = false → (X.descOf r 68).lines = 1 →
            leNat (X.sram.read (r.dataOf 78) 4) % 65536 ≠ 0 →
            Wrote s t x.val r 68 [tailorRow (tailorRows X.sram (r.dataOf 58) (X.descOf r 48).cols)
              (tailorRows X.sram (r.dataOf 58 + 17 * (X.descOf r 48).cols) (X.descOf r 68).cols)
              (readLine X.sram (X.descOf r 48) (r.dataOf 48) 0) (readLine X.sram (X.descOf r 68) (r.dataOf 68) 0)]))

/-- The rows of the compute engines and the results of the tensor engine.
Where the manual is open this follows the model's choices in log entries 8, 10, 43 and 114. -/
def Obligations.TensorEngine : Prop :=
  Claims.ComputeRows ∧ Claims.TensorEngineResults

/-- What the function unit, the requantiser and the vector unit give (R85 to R94, R119, R120): NORM, ACT, SOFTMAX and REQUANT bring each row to the output's
format, over the row's count of elements; the operations of VEC on codes apply lane by lane under the predicate, with A's scale, and a lane
that the predicate switches off keeps what DOUT holds; a compare writes the bits of its last 64 lanes into MDST, and lanes beyond the tensor are open
(log entries 8 and 25); MASK_LD, MASK_ST and MASK_CNT move a mask.
Where the manual is open this follows the model's choices in log entries 8, 25, 42 and 115. -/
def Obligations.FunctionAndVectorResults : Prop :=
  ∀ (x : TileIx) (u : Nat) (r : Running) (s t : State) (X : Tile), X = s.getTile x.val →
    (X.doing (isOp opNorm) = some (u, r) → Settled X r → exec (.norm x {}) s = .next t →
      Wrote s t x.val r 68 ((X.tensor r 48).zipIdx.map fun e => packOut r.op (X.descOf r 68).fmt
        (normRow (r.op.f 78 1 == 1) e.1 ((X.tensor r 58).headD []) (r.rowCount e.2 (X.descOf r 48).len) (r.op.f 79 8) (signedOf 8 (r.op.f 87 8)))))
    ∧ (X.doing (isOp opAct) = some (u, r) → Settled X r → exec (.act x {}) s = .next t →
        Wrote s t x.val r 58 ((X.tensor r 48).map fun l => lineOut r.op (X.descOf r 58).fmt
          { val := l.map fun b => (actBlock (r.op.f 68 3) b).1, sat := sumN (l.map fun b => (actBlock (r.op.f 68 3) b).2) }))
    ∧ (X.doing (isOp opSoftmax) = some (u, r) → Settled X r → exec (.softmax x {}) s = .next t →
        Wrote s t x.val r 58 ((X.tensor r 48).zipIdx.map fun e =>
          lineOut r.op (X.descOf r 58).fmt (softmaxLine e.1 (r.rowCount e.2 (X.descOf r 48).len))))
    ∧ (X.doing (isOp opRequant) = some (u, r) → Settled X r → exec (.requant x {}) s = .next t →
        Wrote s t x.val r 58 ((X.tensor r 48).map fun l => lineOut r.op (X.descOf r 58).fmt { val := l }))
    ∧ (X.doing (isOp opVec) = some (u, r) → Settled X r → exec (.vec x {}) s = .next t →
        (r.op.vop = 0x12 → KMap.get 0 (t.getTile x.val).masks (r.op.f 88 3) = Word.ofNat (leNat (X.sram.read (r.dataOf 48) 8))
          ∧ Kept 0 [r.op.f 88 3] X.masks (t.getTile x.val).masks ∧ (t.getTile x.val).sram = X.sram)
        ∧ (r.op.vop = 0x13 → (t.getTile x.val).masks = X.masks
          ∧ (t.getTile x.val).sram = X.sram.write (r.dataOf 68) (leBytes 8 (X.mask (r.op.f 84 3)).toNat))
        ∧ (r.op.vop = 0x14 → (∀ i, i < 64 → (KMap.get 0 (t.getTile x.val).masks (r.op.f 88 3)).getLsbD i
              = decide (i < leNat (X.sram.read (r.dataOf 48) 4)))
          ∧ Kept 0 [r.op.f 88 3] X.masks (t.getTile x.val).masks ∧ (t.getTile x.val).sram = X.sram)
        ∧ (0x0C ≤ r.op.vop → r.op.vop ≤ 0x0E → (t.getTile x.val).sram = X.sram ∧ Kept 0 [r.op.f 88 3] X.masks (t.getTile x.val).masks
            ∧ ∀ bits : List Bool, bits = List.zipWith (vecCmp r.op.vop) ((X.tensor r 48).flatten.flatMap Block.codes)
                ((X.vecB r (X.tensor r 48).flatten).flatMap Block.codes) →
              ∀ (i : Nat) (b : Bool), i < 64 → bits[(bits.length - 1) / 64 * 64 + i]? = some b →
                (KMap.get 0 (t.getTile x.val).masks (r.op.f 88 3)).getLsbD i = b)
        ∧ (r.op.vop ≤ 0x0B ∨ (0x0F ≤ r.op.vop ∧ r.op.vop ≤ 0x11) ∨ r.op.vop = 0x15 → (t.getTile x.val).masks = X.masks
            ∧ ∃ out : List Block, (t.getTile x.val).sram = writeTensor X.sram (X.descOf r 68) (r.dataOf 68) (chunks (X.descOf r 68).blocks out)
              ∧ t.fld .tilArithSat [x.val] 0 32 = satN 32 (s.fld .tilArithSat [x.val] 0 32 + sumN
                  ((((X.tensor r 48).flatten.zip (X.vecB r (X.tensor r 48).flatten)).zip (X.tensor r 68).flatten).zipIdx.map fun e =>
                    (vecBlock X r.op e.1.1.1 e.1.1.2 (32 * e.2)).2))
              ∧ ∀ (i : Nat) (a b o q : Block), (X.tensor r 48).flatten[i]? = some a → (X.vecB r (X.tensor r 48).flatten)[i]? = some b →
                  (X.tensor r 68).flatten[i]? = some o → out[i]? = some q →
                  q.m = (vecBlock X r.op a b (32 * i)).1.m ∧ q.e = (vecBlock X r.op a b (32 * i)).1.e
                  ∧ ∀ (j : Nat) (w z : Int), (vecBlock X r.op a b (32 * i)).1.codes[j]? = some w → o.codes[j]? = some z →
                    q.codes[j]? = some (if r.op.f 87 1 = 1 ∧ X.maskBit (r.op.f 84 3) (32 * i + j) = false then z else w)))
    ∧ ∀ (o : MacroOp) (a b : Block) (first : Nat),
        (o.vop = 0x10 → (vecBlock X o a b first).1 = (pack32 (taddBlock a b)).1)
        ∧ (o.vop = 0x11 → (vecBlock X o a b first).1 = (pack32 (tmulBlock a b)).1)
        ∧ (o.vop ≠ 0x10 → o.vop ≠ 0x11 → (vecBlock X o a b first).1.m = a.m ∧ (vecBlock X o a b first).1.e = a.e
            ∧ ∀ (j : Nat) (p y : Int), a.codes[j]? = some p → b.codes[j]? = some y →
              (vecBlock X o a b first).1.codes[j]? = some (vecLane o.vop o.imm (X.maskBit (o.f 88 3) (first + j)) p y).1)

/-! ### The engine port: vault, tailor gathers, sampling, batch fetches (08_weight_vault.md, 09_serving_engine.md) -/

/-- A macro-op has left its port: its unit is free and it waits among those that have not completed. -/
abbrev HandedOff (s t : State) (x u : Nat) (r : Running) : Prop :=
  KMap.get none (t.getTile x).running u = none ∧ Kept none [u] (s.getTile x).running (t.getTile x).running
  ∧ (t.getTile x).outst = (s.getTile x).outst ++ [r]
  ∧ t.getTile x = { s.getTile x with running := (t.getTile x).running, outst := (t.getTile x).outst } ∧ Kept {} [x] s.tile t.tile

/-- The engine macro-ops of a list with one of them done. -/
def withDone (l : List Running) (key : Nat) : List Running := l.map fun y => if y.key = key ∧ y.op.engine = true then { y with done := true } else y

/-- Vault requests (R197, R182, R195, R198): VAULT_GEMV and VAULT_STREAM leave the port for the context's queue on the stack while it holds fewer than 16
requests, and wait else; a request that may start, of an OPEN context whose plan has begun and not ended, over words that read clean and
are bound to the context, marks its macro-op done and writes its result: for GEMV, for each active lane below the count, the row against every column of W, and masked lanes else; for a stream the words copied in order. A
word bound to no region of the context, or beyond the vault, raises L1 VAULT_RANGE, and nothing is written; nor is it where a word has been found uncorrectable
and not been written since, which fails again (R200). -/
def Claims.VaultRequests : Prop :=
  (∀ (x : TileIx) (c : Instr) (n u k vt v : Nat) (r : Running) (s : State), ((c = .vaultGemv x ∧ n = opVaultGemv) ∨ (c = .vaultStream x ∧ n = opVaultStream)) →
      (s.getTile x.val).doing (isOp n) = some (u, r) → s.tileCtx x.val = some k → (s.getCtx k).vtile x.val = some vt → v = stackOf (r.dataOf 48) →
      ((KMap.get [] (s.getVault v).queue k).length < 16 → Completes c s [.tile, .vault] fun t =>
          HandedOff s t x.val u r
          ∧ KMap.get [] (t.getVault v).queue k = KMap.get [] (s.getVault v).queue k ++ [{ vtile := vt, key := r.key, stream := n == opVaultStream }]
          ∧ t.getVault v = { s.getVault v with queue := (t.getVault v).queue } ∧ Kept {} [v] s.vault t.vault)
      ∧ (16 ≤ (KMap.get [] (s.getVault v).queue k).length → exec c s = .next s))
  ∧ ∀ (v : VaultIx) (k : CtxSlot) (q : VReq) (g y m : Nat) (r : Running) (words : List Nat) (s : State),
      (s.getCtx k.val).state = .opened → (s.getCtx k.val).plan.active = true → (s.getVault v.val).mode = .service → s.nextVReq k.val v.val = some (q, g) →
      y = (s.getCtx k.val).tiles.getD q.vtile 576 → ((s.getTile y).outst.find? fun r => r.key == q.key && r.op.engine) = some r →
      words = (((s.getTile y).descOf r 48).ranges (r.dataOf 48 % 2 ^ 37)).flatMap (fun p => wordsOf p.1 p.2) →
      (r.op.op = opVaultGemv → (s.getTile y).openLoads ((s.getTile y).rangesOf r 58) = []) →
      (r.dataOf 48 < 2 ^ 39 → (∀ w ∈ words, (s.boundAt k.val v.val w).isSome = true ∧ w ∉ (s.getVault v.val).bad) →
        Completes (.vaultRequestStart v k { mesh := m }) s [.vault, .tile, .csr] fun t =>
          t.getVault v.val = { s.getVault v.val with queue := (t.getVault v.val).queue } ∧ Kept {} [v.val] s.vault t.vault
          ∧ KMap.get [] (t.getVault v.val).queue k.val = (KMap.get [] (s.getVault v.val).queue k.val).map (fun z =>
              if z.vtile = q.vtile ∧ z.key = q.key then { z with started := true, group := g } else z)
          ∧ (t.getTile y).outst = withDone (s.getTile y).outst r.key
          ∧ t.getTile y = { s.getTile y with sram := (t.getTile y).sram, outst := (t.getTile y).outst } ∧ Kept {} [y] s.tile t.tile
          ∧ RegsKept [RegName.tilArithSat.addr [y], RegName.netUnschedWait.addr []] s t
          ∧ t.fld .netUnschedWait [] 0 48 = satN 48 (s.fld .netUnschedWait [] 0 48 + m)
          ∧ (r.op.op ≠ opVaultGemv → RegsKept [RegName.netUnschedWait.addr []] s t ∧ (t.getTile y).sram = writeRanges (s.getTile y).sram ((s.getTile y).rangesOf r 58)
              (readRanges (s.getVault v.val).mem (((s.getTile y).descOf r 48).ranges (r.dataOf 48 % 2 ^ 37))))
          ∧ (r.op.op = opVaultGemv → Wrote s t y r 68 (((s.getTile y).tensor r 58).zipIdx.map fun e =>
              if r.op.f (78 + e.2) 1 = 1 ∧ e.2 < r.counts.headD ((s.getTile y).descOf r 58).rows
              then drainRow r.op ((s.getTile y).descOf r 68).fmt
                ((readTensor (s.getVault v.val).mem ((s.getTile y).descOf r 48) (r.dataOf 48 % 2 ^ 37)).map fun c => Acc.dot {} e.1 c)
              else maskedRow r.op ((s.getTile y).descOf r 68).fmt ((s.getTile y).descOf r 68).blocks)))
      ∧ ((2 ^ 39 ≤ r.dataOf 48 ∨ ∃ w ∈ words, s.boundAt k.val v.val w = none) → (∀ w ∈ words, w ∉ (s.getVault v.val).bad) →
          ∃ t0 t, OnlyChanges [.vault, .csr] s t0 ∧ exec (.vaultRequestStart v k { mesh := m }) s = .next t
          ∧ OnlyChanges [.tile] (against t0 .vaultRange (srcVlt v.val) k.val) t
          ∧ (t.getTile y).sram = ((against t0 .vaultRange (srcVlt v.val) k.val).getTile y).sram)
      ∧ (∀ w, r.dataOf 48 < 2 ^ 39 → (∀ w ∈ words, (s.boundAt k.val v.val w).isSome = true) → s.badWord v.val words = some w →
          ∃ t0 t, OnlyChanges [.vault, .csr] s t0 ∧ exec (.vaultRequestStart v k { mesh := m }) s = .next t
          ∧ OnlyChanges [.tile] (vaultUe t0 k.val v.val w) t ∧ (t.getTile y).sram = ((vaultUe t0 k.val v.val w).getTile y).sram)

/-- TAILOR_GATHER (R233, R234), outside a replay, in a plan that has not ended and over memory that reads clean: it leaves the port and is done; a row whose identifier is 0 fetches
nothing; the row of a bound identifier gets the bytes of the projection that its entry names at its staging slot; a row whose identifier is
bound to no set raises the L0 notice TAILOR_UNBOUND against the context, and its identifier in DTAB becomes 0. -/
def Claims.TailorGathers : Prop :=
  ∀ (x : TileIx) (u k m : Nat) (r : Running) (s : State), (s.getTile x.val).doing (isOp opTailorGather) = some (u, r) → s.tileCtx x.val = some k →
    r.op.engine = true → s.jrnMode k ≠ 2 → (s.getCtx k).plan.state ≠ .ended → (s.getTile x.val).openLoads ((s.getTile x.val).rangesOf r 48) = [] →
    (((∀ i, i < ((s.getTile x.val).descOf r 48).rows → leNat ((s.getTile x.val).sram.read (r.dataOf 48 + 4 * i) 4) % 65536 = 0) →
        Completes (.tailorGather x { mesh := m }) s [.tile, .csr] fun t =>
          RegsKept [RegName.netUnschedWait.addr []] s t ∧
          (t.getTile x.val).outst = withDone ((s.getTile x.val).outst ++ [r]) r.key ∧ KMap.get none (t.getTile x.val).running u = none
          ∧ (t.getTile x.val).sram = (s.getTile x.val).sram ∧ Kept {} [x.val] s.tile t.tile))
    ∧ (∀ (id at_ n src : Nat) (set : TailorSet) (e : List Byte), ((s.getTile x.val).descOf r 48).rows = 1 →
        id = leNat ((s.getTile x.val).sram.read (r.dataOf 48) 4) % 65536 → id ≠ 0 → KMap.get none (s.getCtx k).serve.tailors id = some set →
        at_ = set.base + 16 * r.op.f 68 8 → s.vaOk k at_ 16 false = true → e = s.ctxRead k at_ 16 → n = 17 * (leAt e 8 4 + leAt e 12 4) → n ≠ 0 →
        n ≤ ((s.getTile x.val).descOf r 58).stride → src = set.base + leAt e 0 8 → s.vaOk k src n false = true →
        Completes (.tailorGather x { mesh := m }) s [.tile, .ctx, .csr] fun t =>
          RegsKept [RegName.netUnschedWait.addr []] s t ∧
          (t.getTile x.val).outst = withDone ((s.getTile x.val).outst ++ [r]) r.key ∧ KMap.get none (t.getTile x.val).running u = none
          ∧ (t.getTile x.val).sram = (s.getTile x.val).sram.write (r.dataOf 58) (s.ctxRead k src n)
          ∧ t.getTile x.val = { s.getTile x.val with
              sram := (t.getTile x.val).sram, outst := (t.getTile x.val).outst, running := (t.getTile x.val).running }
          ∧ Kept {} [x.val] s.tile t.tile ∧ (t.getCtx k).plan = (s.getCtx k).plan ∧ (t.getCtx k).serve = (s.getCtx k).serve ∧ Kept {} [k] s.ctx t.ctx)
    ∧ (∀ (id : Nat), ((s.getTile x.val).descOf r 48).rows = 1 →
        id = leNat ((s.getTile x.val).sram.read (r.dataOf 48) 4) % 65536 → id ≠ 0 → KMap.get none (s.getCtx k).serve.tailors id = none →
        ∃ t0 t, OnlyChanges [.tile, .csr] s t0 ∧ (t0.getTile x.val).sram = (s.getTile x.val).sram ∧ exec (.tailorGather x { mesh := m }) s = .next t
          ∧ OnlyChanges [.tile, .ctx] (against t0 .tailorUnbound srcSrv k) t
          ∧ (t.getTile x.val).sram = ((against t0 .tailorUnbound srcSrv k).getTile x.val).sram.write (r.dataOf 48) (leBytes 4 0)
          ∧ (t.getCtx k).plan = ((against t0 .tailorUnbound srcSrv k).getCtx k).plan)

/-- The draw of R224: with INV_TEMP 0 it takes the highest ℓ and, among equals, the lowest token; it always takes one of the first TOPK candidates in that
order; and it answers one wherever there is a candidate, TOPK and TOPP being in their ranges. -/
def Claims.TokenDraw : Prop :=
  ∀ (cs : List Cand) (p : ParamBlock) (w : Nat), cs ≠ [] →
    (p.invTemp = 0 → ∃ c ∈ cs, drawToken (orderCands cs) p w = some c.tok ∧ ∀ d ∈ cs, d.logit < c.logit ∨ (d.logit = c.logit ∧ c.tok ≤ d.tok))
    ∧ (1 ≤ p.topk → 1 ≤ p.topp → p.topp ≤ 65536 → w < 2 ^ 64 → ∃ c ∈ (orderCands cs).take (max 1 p.topk), drawToken (orderCands cs) p w = some c.tok)
    ∧ (orderCands cs).Perm cs

/-- SAMPLE, SAMPLE_COLLECT and COLLECT_COMPLETE (R123, R222 to R228): SAMPLE adds one contribution of its step, at most CAND candidates for each row; a collect leaves the port
and completes when it is the next of its step and its contributions are there, which it takes, in an OPEN context whose plan has begun
and not ended; the lines of its output change and no other byte; where its one row is a verify row of a request whose turn has not
ended, the token drawn at the request's token index is committed and appended to its history. -/
def Claims.Sampling : Prop :=
  ∀ (x : TileIx) (u k : Nat) (r : Running) (s : State), s.tileCtx x.val = some k →
    ((s.getTile x.val).doing (isOp opSample) = some (u, r) → Settled (s.getTile x.val) r → Completes (.sample x {}) s [.tile, .csr, .ctx] fun t =>
        (∃ rows : List (List Cand), ((t.getCtx k).serve.pool r.step).contribs = ((s.getCtx k).serve.pool r.step).contribs ++ [(r.op.f 68 9, rows)]
          ∧ rows.length = min (r.counts.headD ((s.getTile x.val).descOf r 48).rows) ((s.getTile x.val).descOf r 48).lines
          ∧ ∀ l ∈ rows, l.length ≤ r.op.f 68 9 ∧ ∀ c ∈ l, c.tok < (s.getCtx k).vocab ∧ r.op.f 77 18 ≤ c.tok)
        ∧ (∀ n, n ≠ r.step → (t.getCtx k).serve.pool n = (s.getCtx k).serve.pool n)
        ∧ t.getCtx k = { s.getCtx k with serve := { (s.getCtx k).serve with collects := (t.getCtx k).serve.collects } } ∧ Kept {} [k] s.ctx t.ctx
        ∧ (∀ y, KMap.get none (s.getTile x.val).running u = some y → KMap.get none (t.getTile x.val).running u = some { y with done := true })
        ∧ t.getTile x.val = { s.getTile x.val with running := (t.getTile x.val).running } ∧ Kept {} [x.val] s.tile t.tile
        ∧ RegsKept [RegName.tilArithSat.addr [x.val]] s t)
    ∧ ((s.getTile x.val).doing (isOp opSampleCollect) = some (u, r) →
        Completes (.sampleCollect x) s [.tile] fun t => HandedOff s t x.val u r)
    ∧ ∀ (p : Collect), (s.getTile x.val).handed opSampleCollect = some r → r.op.engine = true → (s.getCtx k).plan.active = true → (s.getCtx k).state = .opened →
        p = (s.getCtx k).serve.pool r.step → p.done = r.recvd → r.op.f 58 10 ≤ p.contribs.length →
        Completes (.collectComplete x) s [.tile, .ctx, .req] fun t =>
          (t.getTile x.val).outst = withDone (s.getTile x.val).outst r.key
          ∧ ((t.getCtx k).serve.pool r.step).done = p.done + 1 ∧ ((t.getCtx k).serve.pool r.step).contribs = p.contribs.drop (r.op.f 58 10)
          ∧ (∀ a, (∀ i, i < ((s.getTile x.val).descOf r 48).lines →
                a < r.dataOf 48 + i * ((s.getTile x.val).descOf r 48).stride
                  ∨ r.dataOf 48 + i * ((s.getTile x.val).descOf r 48).stride + ((s.getTile x.val).descOf r 48).lineBytes ≤ a) →
              (t.getTile x.val).sram.get a = (s.getTile x.val).sram.get a)
          ∧ t.getTile x.val = { s.getTile x.val with sram := (t.getTile x.val).sram, outst := (t.getTile x.val).outst } ∧ Kept {} [x.val] s.tile t.tile
          ∧ (t.getCtx k).plan = (s.getCtx k).plan ∧ Kept {} [k] s.ctx t.ctx
          ∧ ∀ (row : BatchRow) (i tok : Nat), collectRows (((s.getCtx k).serve.table r.step).map StepMsg.rows |>.getD []) r.recvd = [row] → row.role = 1 →
              1 ≤ r.counts.headD 1 → 1 ≤ ((s.getTile x.val).descOf r 48).lines → 16 ≤ ((s.getTile x.val).descOf r 48).lineBytes →
              s.mirrorOf k row.handle.toNat = some i → (s.getReq i).sEnded = false →
              drawToken (mergeRow (p.contribs.take (r.op.f 58 10)) 0) (s.getReq i).params (drawWord (s.getReq i).params.seed (s.getReq i).sTok) = some tok →
              (t.getReq i).sTok = ((s.getReq i).sTok + 1) % 2 ^ 32 ∧ (t.getReq i).sNew = (s.getReq i).sNew + 1
              ∧ (t.getReq i).hist = ((s.getReq i).hist ++ [tok]).drop ((s.getReq i).hist.length + 1 - 512)
              ∧ leNat ((t.getTile x.val).sram.read (r.dataOf 48) 4) = tok % 2 ^ 32 ∧ (∀ j, j ≠ i → t.getReq j = s.getReq j)

/-- The draw of a token and the sampling commands.
Where the manual is open this follows the model's choices in log entries 44, 45 and 46. -/
def Obligations.TokenSampling : Prop :=
  Claims.TokenDraw ∧ Claims.Sampling

/-- BATCH_FETCH (R221, R223): it leaves the port and is done, in a plan that has begun and not ended, once what it needs is there; each line stands as u32 elements with zeros after them,
first the count of rows, the variant and the step, then the columns that FIELDSET names, and every scale is (1, 0). A fetch of penalty
lists waits until the drafts that its verify rows follow are drawn. -/
def Claims.BatchFetches : Prop :=
  ∀ (x : TileIx) (u k m : Nat) (r : Running) (rows : List BatchRow) (s : State), s.tileCtx x.val = some k →
    (s.getTile x.val).doing (isOp opBatchFetch) = some (u, r) → (s.getTile x.val).handed opBatchFetch = none → r.op.engine = true →
    (s.getCtx k).plan.active = true → rows = (((s.getCtx k).serve.table r.step).map StepMsg.rows).getD [] →
    (r.op.f 64 2 = 0 → ∀ (d : Desc) (ls : List (List Nat)), d = (s.getTile x.val).descOf r 48 →
        ls = [rows.length, ((s.getCtx k).variantOf r.step).getD 0, r.step % 2 ^ 32]
          :: ((List.range 6).filter fun b => r.op.f (58 + b) 1 == 1).map (column rows) →
        Completes (.batchFetch x { mesh := m }) s [.tile, .csr] fun t =>
          RegsKept [RegName.netUnschedWait.addr []] s t ∧ (t.getTile x.val).outst = withDone ((s.getTile x.val).outst ++ [r]) r.key ∧ KMap.get none (t.getTile x.val).running u = none
          ∧ t.getTile x.val = { s.getTile x.val with
              sram := (t.getTile x.val).sram, outst := (t.getTile x.val).outst, running := (t.getTile x.val).running }
          ∧ Kept {} [x.val] s.tile t.tile
          ∧ ((∀ l ∈ ls, l.length ≤ d.len ∧ ∀ w ∈ l, w < 2 ^ 32) → 4 * d.len ≤ d.stride →
              (d.scaleOff + 2 * d.lines * d.blocks = d.scaleOff ∨ d.lines * d.stride ≤ d.scaleOff) →
              (∀ (i j : Nat) (l : List Nat), i < d.lines → j < d.len → ls[i]? = some l →
                leNat ((t.getTile x.val).sram.read (r.dataOf 48 + i * d.stride + 4 * j) 4) = l.getD j 0)
              ∧ ∀ i, i < d.lines * d.blocks → leNat ((t.getTile x.val).sram.read (r.dataOf 48 + d.scaleOff + 2 * i) 2) = 1))
    ∧ (r.op.f 64 2 = 2 → ((s.getCtx k).serve.pool r.step).done < (rows.filter fun y => y.role == 1).foldl (fun n y => max n y.pos.toNat) 0 →
        Completes (.batchFetch x { mesh := m }) s [.tile, .csr] fun t => HandedOff s t x.val u r ∧ RegsKept [RegName.netUnschedWait.addr []] s t)

/-- Tailored gathers and the fetches of batch descriptors.
Where the manual is open this follows the model's choices in log entries 13, 27, 47 and 53. -/
def Obligations.GathersAndFetches : Prop :=
  Claims.TailorGathers ∧ Claims.BatchFetches

/-! ### Packets (12_fabric_and_routing.md) -/

/-- Packets on the wire (R302, R303): the head that a packet begins with reads back whole, with LEN the packet's flits, the CRC-32C in its last four bytes
is that of the bytes before it, and the body stands behind the head. -/
def Obligations.PacketCodec : Prop :=
  ∀ (h : Head) (body : List Byte) (n : Nat), h.kind < 256 → h.route < 256 → h.part < 65536 → h.gen < 256 → h.age < 2 ^ 24 → h.src < 32768 → h.dest < 32768 →
    h.seq < 65536 → n = ceilDiv (16 + body.length + 4) 32 → n < 8192 →
    Head.parse (packet h body) = { h with len := n } ∧ (packet h body).length = 32 * n
    ∧ (crc32c ((packet h body).take (32 * n - 4))).toNat = leNat ((packet h body).drop (32 * n - 4))
    ∧ (packetBody (packet h body)).take body.length = body

/-- The whole packet at the front of a channel's receive buffer: its flits, of which the link holds every one, with the first one first (R298, R302). -/
structure AtFront (s : State) (l vc : Nat) (fs rest : List TxFlit) (epoch : Bool) (p : List Byte) : Prop where
  front : frontPacket (KMap.get [] (s.getLink l).rxq vc) = some (fs, rest)
  first : fs.head?.map TxFlit.first = some true
  epoch : fs.head?.map TxFlit.epoch = some epoch
  bytes : p = fs.flatMap TxFlit.payload
  mine  : ∀ f ∈ fs, f.from_ = some l

/-- The packet has left the receive buffer, and `n` flits of credit have gone back. -/
abbrev Received (s t : State) (l vc n : Nat) (rest : List TxFlit) : Prop :=
  t.getLink l = { s.getLink l with rxq := KMap.set [] (s.getLink l).rxq vc rest, freed := (t.getLink l).freed }
  ∧ KMap.get 0 (t.getLink l).freed vc = (KMap.get 0 (s.getLink l).freed vc + n) % 16384

/-- PACKET_RECEIVE with sampling off (R298, R304 to R307, R360) completes on every state: where no whole packet stands at the front of the channel nothing
happens; a packet that fails a check is counted under it, its credits return, and it goes no further, except that a protected VC2 packet with a bad CRC is
asked for again; one that passes is remembered, and without an output it is counted as NOROUTE, with a link as its output it is queued there, where
its flits hold their credits until they depart, and a telemetry packet for this chip goes on as a flood over the partition's other bound links and has no
other effect here (log entry 29).
Where the manual is open this follows the model's choices in log entries 29 and 83. -/
def Obligations.PacketReception : Prop :=
  ∀ (l : LinkIx) (vc : Fin 4) (epoch : Bool) (p : List Byte) (h : Head) (fs rest : List TxFlit) (s : State), s.fld .netSampleCtl [] 0 5 = 0 →
    (frontPacket (KMap.get [] (s.getLink l.val).rxq vc.val) = none → exec (.packetReceive l vc) s = .next s)
    ∧ (AtFront s l.val vc.val fs rest epoch p → h = Head.parse p → 0 < p.length →
      (∀ n r lo, s.packetStep l.val vc.val p = n →
          ((n = 1 ∧ r = RegName.netDrop1 ∧ lo = 0 ∧ (vc.val ≠ 2 ∨ s.partSlot h.part = none)) ∨ (n = 2 ∧ r = .netDrop0 ∧ lo = 32)
            ∨ ((n = 3 ∨ n = 4) ∧ r = .netDrop0 ∧ lo = 0) ∨ (n = 5 ∧ r = .netDrop2 ∧ lo = 32)) →
          Completes (.packetReceive l vc) s [.link, .csr] fun t =>
            t.fld r [] lo 32 = satN 32 (s.fld r [] lo 32 + 1) ∧ t.fld r [] (32 - lo) 32 = s.fld r [] (32 - lo) 32 ∧ RegsKept [r.addr []] s t
            ∧ Received s t l.val vc.val fs.length rest ∧ Kept {} [l.val] s.link t.link)
      ∧ (∀ k, s.packetStep l.val vc.val p = 1 → vc.val = 2 → s.partSlot h.part = some k → members (s.getCtx k).part.extent ≤ 64 →
          ∃ t0, OnlyChanges [.link, .csr] s t0 ∧ Received s t0 l.val vc.val fs.length rest ∧ Kept {} [l.val] s.link t0.link
            ∧ t0.fld .netDrop1 [] 0 32 = satN 32 (s.fld .netDrop1 [] 0 32 + 1) ∧ RegsKept [RegName.netDrop1.addr []] s t0
            ∧ exec (.packetReceive l vc) s = .next (resendReq t0 h.src h.seq h.part))
      ∧ (s.packetStep l.val vc.val p = 0 →
          (kindVc h.kind ≠ some vc.val ∨ s.outputOf epoch h = 7 → Completes (.packetReceive l vc) s [.link, .csr, .net] fun t =>
            t.fld .netDrop2 [] 0 32 = satN 32 (s.fld .netDrop2 [] 0 32 + 1) ∧ RegsKept [RegName.netDrop2.addr []] s t
            ∧ t.net = { s.net with seen := t.net.seen } ∧ { src := h.src, seq := h.seq, vc := vc.val, mt := s.time.mt } ∈ t.net.seen
            ∧ Received s t l.val vc.val (ceilDiv p.length 32) rest ∧ Kept {} [l.val] s.link t.link)
          ∧ (∀ m, kindVc h.kind = some vc.val → s.outputOf epoch h = m → m < 6 → (s.getLink m).isUp = true →
              Completes (.packetReceive l vc) s [.link, .net] fun t =>
              KMap.get [] (t.getLink m).vcq vc.val = KMap.get [] (s.getLink m).vcq vc.val ++ flitsOf epoch p (some l.val)
              ∧ Kept [] [vc.val] (s.getLink m).vcq (t.getLink m).vcq
              ∧ (t.getLink l.val).freed = (s.getLink l.val).freed ∧ (t.getLink l.val).rxq = KMap.set [] (s.getLink l.val).rxq vc.val rest
              ∧ t.net = { s.net with seen := t.net.seen } ∧ { src := h.src, seq := h.seq, vc := vc.val, mt := s.time.mt } ∈ t.net.seen
              ∧ Kept {} [l.val, m] s.link t.link)
          ∧ (vc.val = 3 → s.outputOf epoch h = 6 → h.kind = 9 → h.flood = true → h.part ≠ 0 →
              (∀ k ∈ s.partSlot h.part, (s.getCtx k).links.Nodup) → Completes (.packetReceive l vc) s [.link, .net] fun t =>
              (∀ m ∈ s.floodLinks l.val h.part, (s.getLink m).isUp = true →
                KMap.get [] (t.getLink m).vcq vc.val = KMap.get [] (s.getLink m).vcq vc.val
                  ++ flitsOf epoch p (if (s.floodLinks l.val h.part).getLast? = some m then some l.val else none))
              ∧ t.net = { s.net with seen := t.net.seen } ∧ Kept {} (l.val :: s.floodLinks l.val h.part) s.link t.link)))

/-- RESEND_REQ and ROUTE_BANK_UNLOCK (R305, R308) complete on every state: at SRC a packet kept for at most 1 ms goes into the resend slots of the links it
left by and is counted as RESENT, and one that is not kept is counted as MISSED; on another chip the request goes one link nearer to SRC, in a packet
whose body is the model's (log entry 28), and where the partition has no entry or no such link nothing happens. A route bank whose 1 ms is over unlocks,
and one whose 1 ms is not over stays as it is.
Where the manual is open this follows the model's choices in log entry 28. -/
def Obligations.ResendAndUnlock : Prop :=
  (∀ (src : Coord) (seq part : BitVec 16) (s : State),
      (src.toNat = s.self → ∀ x, (s.net.sent.find? fun x => x.seq == seq.toNat && x.part == part.toNat && decide ((s.time.mt - x.mt).toNat ≤ 1250000)) = some x →
          x.links.Nodup → Completes (.resendReq src seq part) s [.link, .csr] fun t =>
            t.fld .netResend [] 0 32 = satN 32 (s.fld .netResend [] 0 32 + 1) ∧ RegsKept [RegName.netResend.addr []] s t
            ∧ (∀ m ∈ x.links, (s.getLink m).isUp = true →
                t.getLink m = { s.getLink m with resendQ := (s.getLink m).resendQ ++ flitsOf x.epoch x.payload none })
            ∧ Kept {} x.links s.link t.link)
      ∧ (src.toNat = s.self → (∀ x ∈ s.net.sent, ¬(x.seq = seq.toNat ∧ x.part = part.toNat ∧ (s.time.mt - x.mt).toNat ≤ 1250000)) →
          Completes (.resendReq src seq part) s [.csr] fun t =>
            t.fld .netResend [] 32 32 = satN 32 (s.fld .netResend [] 32 32 + 1) ∧ RegsKept [RegName.netResend.addr []] s t)
      ∧ (src.toNat ≠ s.self → s.partSlot part.toNat = none → exec (.resendReq src seq part) s = .next s)
      ∧ (src.toNat ≠ s.self → ∀ k, s.partSlot part.toNat = some k →
          (s.parentLink (s.getCtx k).part.origin (s.getCtx k).part.extent src.toNat s.self = none → exec (.resendReq src seq part) s = .next s)
          ∧ ∀ m, s.parentLink (s.getCtx k).part.origin (s.getCtx k).part.extent src.toNat s.self = some m →
            exec (.resendReq src seq part) s = .next (sendMachineOn s m 6 2 (leBytes 2 src.toNat ++ leBytes 2 seq.toNat ++ leBytes 2 part.toNat))))
  ∧ ∀ (k : CtxSlot) (s : State),
      (KMap.get 0 s.net.unlockAt k.val ≤ s.mtN → Completes (.routeBankUnlock k) s [.net] fun t =>
        KMap.get 0 t.net.unlockAt k.val = 0 ∧ Kept 0 [k.val] s.net.unlockAt t.net.unlockAt ∧ t.net = { s.net with unlockAt := t.net.unlockAt })
      ∧ (s.mtN < KMap.get 0 s.net.unlockAt k.val → exec (.routeBankUnlock k) s = .next s)

/-! ### Links (13_links.md) -/

/-- A link in service carries frames. -/
abbrev InService (x : Link) : Prop := x.state = .up ∨ x.state = .degraded

/-- A link's record changed, and no other link's. -/
abbrev LinkSet (s t : State) (l : Nat) (y : Link) : Prop := t.getLink l = y ∧ Kept {} [l] s.link t.link

/-- What a link's slots receive, with nothing of its own unacknowledged and in the order of slots (R298, R300, R325, R326, R330, R333): a DATA flit of the
frame being received enters the receive buffer at its plan slot with the context's PCY, once; without a context that takes it, it is counted as SLOT; a
flit of a packet enters its channel's receive buffer; a flit that cannot be decoded, or has a TYPE that its slot does not allow, is counted, and its
position is missing; a replay fills the position that is missing and does nothing else. -/
def Claims.FlitReception : Prop :=
  ∀ (l : LinkIx) (slot : Fin 62) (flit f : List Byte) (fn : Nat) (x : Link) (s : State), x = s.getLink l.val → InService x → x.sent = [] → x.goback = [] →
    x.rxHeld = [] → x.rxNext ≤ slot.val →
    (56 ≤ slot.val → slot.val < 60 → exec (.vc0FlitReceive l slot flit none) s = .next s)
    ∧ ((slot.val < 56 ∨ 60 ≤ slot.val) → slotDecode slot.val flit = none → x.badRun + 1 < 8 →
        Completes (.vc0FlitReceive l slot flit none) s [.link, .csr] fun t =>
        t.fld .lnkCe [l.val] 32 32 = satN 32 (s.fld .lnkCe [l.val] 32 32 + 1) ∧ RegsKept [RegName.lnkCe.addr [l.val]] s t
        ∧ ((x.rxCur = x.rxFn ∧ slot.val ∉ x.rxSeen) → LinkSet s t l.val
            { x with rxNext := slot.val + 1, badRun := x.badRun + 1, rxSeen := slot.val :: x.rxSeen, missing := x.missing ++ [(x.rxFn, slot.val)] })
        ∧ (¬(x.rxCur = x.rxFn ∧ slot.val ∉ x.rxSeen) → LinkSet s t l.val { x with rxNext := slot.val + 1, badRun := x.badRun + 1 }))
    ∧ (slot.val < 56 → rsDecode flit = some (f, 0) → fn = fieldN (leAt f 0 4) 0 12 → fieldN (leAt f 0 4) 26 3 = 1 → fn = x.rxFn → x.missing = [] →
        (slot.val ∉ x.rxSeen → KMap.get [] x.rxWait slot.val = [] → ∀ k, s.vc0Ctx l.val slot.val = some k →
          Completes (.vc0FlitReceive l slot flit none) s [.link] fun t =>
            KMap.get { slot := 64 } (t.getLink l.val).buf (64 * KMap.get 0 x.rxFrames slot.val + slot.val)
              = { payload := some (slice f 4 32), slot := slot.val, at_ := (s.getCtx k).plan.pcy.toNat, tick := s.time.refTicks }
            ∧ Kept { slot := 64 } [64 * KMap.get 0 x.rxFrames slot.val + slot.val] x.buf (t.getLink l.val).buf
            ∧ KMap.get 0 (t.getLink l.val).rxFrames slot.val = KMap.get 0 x.rxFrames slot.val + 1 ∧ (t.getLink l.val).rxSeen = slot.val :: x.rxSeen
            ∧ LinkSet s t l.val { x with badRun := 0, rxCur := fn, rxNext := slot.val + 1, rxSeen := slot.val :: x.rxSeen, buf := (t.getLink l.val).buf,
                                         rxFrames := (t.getLink l.val).rxFrames, rxWait := (t.getLink l.val).rxWait })
        ∧ (slot.val ∉ x.rxSeen → KMap.get [] x.rxWait slot.val = [] → s.vc0Ctx l.val slot.val = none →
            Completes (.vc0FlitReceive l slot flit none) s [.link, .csr] fun t =>
              t.fld .netDrop1 [] 32 32 = satN 32 (s.fld .netDrop1 [] 32 32 + 1) ∧ RegsKept [RegName.netDrop1.addr []] s t
              ∧ LinkSet s t l.val { x with badRun := 0, rxCur := fn, rxNext := slot.val + 1, rxSeen := slot.val :: x.rxSeen })
        ∧ (slot.val ∈ x.rxSeen → Completes (.vc0FlitReceive l slot flit none) s [.link] fun t =>
            LinkSet s t l.val { x with badRun := 0, rxCur := fn, rxNext := slot.val + 1 }))
    ∧ (∀ vc type : Nat, (slot.val < 56 ∨ 60 ≤ slot.val) → rsDecode flit = some (f, 0) → fn = fieldN (leAt f 0 4) 0 12 → vc = fieldN (leAt f 0 4) 24 2 →
        type = fieldN (leAt f 0 4) 26 3 → vc ≠ 0 → (type = 3 ∨ type = 4) → fn = x.rxFn → x.missing = [] → slot.val ∉ x.rxSeen → KMap.get [] x.rxWait slot.val = [] →
          Completes (.vc0FlitReceive l slot flit none) s [.link] fun t =>
            KMap.get [] (t.getLink l.val).rxq vc = KMap.get [] x.rxq vc
              ++ [{ epoch := fieldN (leAt f 0 4) 29 1 == 1, first := type == 3, payload := slice f 4 32, from_ := some l.val }]
            ∧ Kept [] [vc] x.rxq (t.getLink l.val).rxq
            ∧ LinkSet s t l.val { x with badRun := 0, rxCur := fn, rxNext := slot.val + 1, rxSeen := slot.val :: x.rxSeen, rxq := (t.getLink l.val).rxq,
                                         rxHeld := (t.getLink l.val).rxHeld })
    ∧ (slot.val < 56 → rsDecode flit = some (f, 0) → fn = fieldN (leAt f 0 4) 0 12 → fieldN (leAt f 0 4) 26 3 = 6 → fieldN (leAt f 0 4) 24 2 = 0 →
        (x.missing = [(fn, slot.val)] → KMap.get [] x.rxWait slot.val = [] → ∀ k, s.vc0Ctx l.val slot.val = some k →
          Completes (.replayFlitReceive l (BitVec.ofNat 6 slot.val) flit none) s [.link] fun t =>
            KMap.get { slot := 64 } (t.getLink l.val).buf (64 * KMap.get 0 x.rxFrames slot.val + slot.val)
              = { payload := some (slice f 4 32), slot := slot.val, at_ := (s.getCtx k).plan.pcy.toNat, tick := s.time.refTicks }
            ∧ (t.getLink l.val).missing = []
            ∧ LinkSet s t l.val { x with badRun := 0, missing := [], buf := (t.getLink l.val).buf, rxFrames := (t.getLink l.val).rxFrames,
                                         rxWait := (t.getLink l.val).rxWait,
                                         rxSeen := if fn = x.rxFn ∧ slot.val ∉ x.rxSeen then slot.val :: x.rxSeen else x.rxSeen })
        ∧ ((fn, slot.val) ∉ x.missing → Completes (.replayFlitReceive l (BitVec.ofNat 6 slot.val) flit none) s [.link] fun t =>
            LinkSet s t l.val { x with badRun := 0 }))

/-- The CONTROL flit (R53, R54, R327, R328, R336, R344), with nothing unacknowledged, no NAK and no REQ in it: it shows the frame that arrives, returns the
credits of VC1 to VC3, names the far context, and gives the neighbour's progress stamp to the context that holds the link under the same partition tag, where
ENDED stays once it has been sent; its time stamps complete an exchange, which steps an UNSYNCED follower of this link and slews a LOCKED one by the offset in
ticks. One that cannot be decoded is counted and does nothing else. -/
def Claims.ControlFlit : Prop :=
  ∀ (l : LinkIx) (flit f : List Byte) (fn p : Nat) (arrival : Nat) (x : Link) (s : State), x = s.getLink l.val → InService x → x.sent = [] →
    x.goback = [] → x.rxNext ≤ 62 →
    (slotDecode 62 flit = none → x.badRun + 1 < 8 → Completes (.linkControlFlit l flit arrival) s [.link, .csr] fun t =>
        t.fld .lnkCe [l.val] 32 32 = satN 32 (s.fld .lnkCe [l.val] 32 32 + 1) ∧ RegsKept [RegName.lnkCe.addr [l.val]] s t
        ∧ LinkSet s t l.val { x with rxNext := 63, badRun := x.badRun + 1 })
    ∧ (slotDecode 62 flit = some (f, 0) → fn = fieldN (leAt f 0 4) 0 12 → p = leAt f 4 32 → fieldN p 142 3 = 0 → fieldN p 193 2 = 0 →
      (fn % 4 = 2 → Completes (.linkControlFlit l flit arrival) s [.link, .ctx] fun t =>
        (fnGe fn x.rxFn = true → (t.getLink l.val).rxFn = fn)
        ∧ (fn ≠ x.rxFn → fnGe fn x.rxFn = true → (t.getLink l.val).rxSeen = []
            ∧ ∀ k ∈ sequenced, k ∉ x.rxSeen → (x.rxFn, k) ∈ (t.getLink l.val).missing)
        ∧ (fn = x.rxFn ∨ fnGe fn x.rxFn = false →
            (t.getLink l.val).rxFn = x.rxFn ∧ (t.getLink l.val).rxSeen = x.rxSeen ∧ (t.getLink l.val).missing = x.missing)
        ∧ (∀ vc, 1 ≤ vc → vc ≤ 3 → KMap.get 0 (t.getLink l.val).credited vc = fieldN p (74 + 14 * vc) 14)
        ∧ (t.getLink l.val).farPart = fieldN p 64 16 ∧ (t.getLink l.val).farGen = fieldN p 80 8 ∧ (t.getLink l.val).badRun = 0
        ∧ (t.getLink l.val).buf = x.buf ∧ (t.getLink l.val).state = x.state ∧ Kept {} [l.val] s.link t.link
        ∧ (s.linkHolder l.val = none → t.ctx = s.ctx)
        ∧ ∀ k, s.linkHolder l.val = some k → Kept {} [k] s.ctx t.ctx
          ∧ (((s.getCtx k).part.state = .free ∨ (s.getCtx k).part.part ≠ fieldN p 64 16 ∨ (s.getCtx k).part.gen ≠ fieldN p 80 8) → t.ctx = s.ctx)
          ∧ ((s.getCtx k).part.state ≠ .free → (s.getCtx k).part.part = fieldN p 64 16 → (s.getCtx k).part.gen = fieldN p 80 8 →
              ((KMap.get {} (t.getCtx k).plan.stamps l.val).ended = true
                ↔ (KMap.get {} (s.getCtx k).plan.stamps l.val).ended = true ∨ fieldN p 49 1 = 1)
              ∧ (fieldN p 48 1 = 0 → (KMap.get {} (t.getCtx k).plan.stamps l.val).value = -1)
              ∧ (fieldN p 48 1 = 1 → (KMap.get {} (t.getCtx k).plan.stamps l.val).value % (2 ^ 48 : Nat) = (p % 2 ^ 48 : Nat)
                  ∧ ((KMap.get {} (t.getCtx k).plan.stamps l.val).value - (KMap.get {} (s.getCtx k).plan.stamps l.val).value).natAbs ≤ 2 ^ 47)
              ∧ Kept {} [l.val] (s.getCtx k).plan.stamps (t.getCtx k).plan.stamps
              ∧ t.getCtx k = { s.getCtx k with plan := { (s.getCtx k).plan with stamps := (t.getCtx k).plan.stamps } }))
      ∧ ∀ (f0 t1 t3 t4 rtt : Nat) (off : Int) (e : Nat × Nat), fn % 4 = 1 → x.far0 = some (f0, t4, t3) → (f0 + 1) % 4096 = fn →
        (x.txTimes.find? fun e => e.1 == fieldN p 195 12) = some e → t1 = e.2 → s.time.parent = some l.val →
        rtt = (signedOf 48 (unsignedOf 48 ((t4 : Int) - t1)) - (fieldN p 207 24 : Nat)).toNat →
        off = 50 * signedOf 48 (unsignedOf 48 ((t3 : Int) - t4)) + 25 * rtt + s.effAsym l.val →
        (s.time.sync = .unsynced → Completes (.linkControlFlit l flit arrival) s [.link, .ctx, .csr, .time] fun t =>
          t.time = { s.time with mt := s.time.mt + BitVec.ofInt 64 (rneDiv off 800), sync := .locked, everLock := true, slew := 0 }
          ∧ RegsKept [RegName.timOffset.addr []] s t ∧ t.fld .timOffset [] 0 32 = unsignedOf 32 (clampI (-2147483648) 2147483647 off))
        ∧ (s.time.sync = .locked → -51200 ≤ off → off ≤ 51200 → Completes (.linkControlFlit l flit arrival) s [.link, .ctx, .csr, .time] fun t =>
          t.time = { s.time with slew := rneDiv off 800 }
          ∧ RegsKept [RegName.timOffset.addr []] s t ∧ t.fld .timOffset [] 0 32 = unsignedOf 32 (clampI (-2147483648) 2147483647 off)))

/-- Data flits and control flits that arrive.
Where the manual is open this follows the model's choices in log entries 67, 74, 75, 76 and 102. -/
def Obligations.Flits : Prop :=
  Claims.FlitReception ∧ Claims.ControlFlit

/-- Fewer than two retrains in the last second (R341). -/
abbrev FewRetrains (s : State) (l : Nat) : Prop := ((s.getLink l).starts.filter fun t => decide ((s.time.mt - t).toNat < 1250000000)).length < 2

/-- A fast retrain has begun (R324): it keeps everything that waits to be sent or released, and ROS goes out on every lane. -/
abbrev Retrains (s t : State) (l cause : Nat) : Prop :=
  LinkSet s t l { s.getLink l with
    state := .retrain, lastCause := cause, leads := (t.getLink l).leads, starts := (t.getLink l).starts, far0 := none, echo := none, txTimes := [], sreq := none, farReq := none, sat := none, farSat := none, badRun := 0 }
  ∧ t.fld .lnkRetrains [l] 0 16 = satN 16 (s.fld .lnkRetrains [l] 0 16 + 1) ∧ t.out = s.out ++ [.ros l false]

/-- Sending (R296, R301, R325, R326, R329, R332, R334, R335): a link that is UP and not stalled sends the next frame, 64 flits of 40 bytes whose parity flit makes every
bit even, takes the plan flit that waits for each of the slots 0 to 55 with it, and keeps the frame until it is acknowledged; a plan flit that the sending side
cannot correct is not sent, and raises L1 LINK_DATA_UE against the context; a replay timer that
has run its time asks for every position of its frame again, or starts a fast retrain where a position has been replayed LIMIT times; a replay
buffer whose oldest frame lies 1,024 frames back starts a fast retrain. -/
def Claims.LinkSending : Prop :=
  ∀ (l : LinkIx) (x : Link) (s : State), x = s.getLink l.val →
    (∀ bad : List Nat, x.state = .up → x.goback = [] → x.stalled = false →
      (bad = [] ∨ s.linkHolder l.val = none → Completes (.frameSend l bad) s [.link, .csr, .out, .freeCtr] fun t =>
        (∃ bytes signals, t.out = s.out ++ [.frame l.val x.txFn bytes signals] ∧ bytes.length = 64 ∧ (∀ b ∈ bytes, b.length = 40)
          ∧ ∀ j, j < 40 → (bytes.map fun b => b.getD j 0).foldl (· ^^^ ·) (0 : Byte) = 0)
        ∧ (t.getLink l.val).txFn = (x.txFn + 1) % 4096
        ∧ (∃ old fr, (t.getLink l.val).sent = old ++ [fr] ∧ old.map SentFrame.fn = x.sent.map SentFrame.fn ∧ fr.fn = x.txFn ∧ fr.at_ = s.mtN
          ∧ (∀ w ∈ fr.flits, w.slot ∉ bad)
          ∧ ∀ (k : Nat) (f : PlanFlit) (r : List PlanFlit), k < 56 → KMap.get [] x.txPlan k = f :: r →
            KMap.get [] (t.getLink l.val).txPlan k = r
            ∧ (k ∉ bad → {
                slot := k, type := if f.payload.isSome ∨ f.signal.isSome then 1 else 2, payload := f.payload.getD [], signal := f.signal,
                tile := f.tile, mop := f.mop } ∈ fr.flits))
        ∧ (t.getLink l.val).state = .up ∧ (t.getLink l.val).buf = x.buf ∧ (t.getLink l.val).tree = x.tree
        ∧ (∀ m, m ≠ l.val → t.getLink m = { s.getLink m with freed := (t.getLink m).freed })
        ∧ RegsKept [RegName.lnkReplays.addr [l.val]] s t)
      ∧ ∀ k, s.linkHolder l.val = some k → (∃ j ∈ bad, j < 56 ∧ KMap.get [] x.txPlan j ≠ []) →
          ∃ t0, OnlyChanges [.link, .csr, .out, .freeCtr] s t0 ∧ exec (.frameSend l bad) s = .next (against t0 .linkDataUe (srcLnk l.val) k l.val))
    ∧ (∀ f : SentFrame, InService x → FewRetrains s l.val → (x.sent.find? fun g => g.fn == f.fn) = some f → f.fn < 4096 →
        max 9 (s.fld .lnkReplayCtl [l.val] 4 8) * rttPs x ≤ 8 * 800 * (s.mtN - f.at_) →
        ((∀ k ∈ sequenced, s.atLimit l.val f k = false) → Completes (.replayTimerExpiry l (BitVec.ofNat 12 f.fn)) s [.link, .csr] fun t =>
          LinkSet s t l.val { x with
            nakQ := x.nakQ ++ sequenced.map fun k => (f.fn, k, false), sent := x.sent.map fun g => if g.fn = f.fn then { g with at_ := s.mtN } else g }
          ∧ t.fld .lnkReplays [l.val] 32 32 = satN 32 (s.fld .lnkReplays [l.val] 32 32 + 1) ∧ RegsKept [RegName.lnkReplays.addr [l.val]] s t)
        ∧ ((∃ k ∈ sequenced, s.atLimit l.val f k = true) → Completes (.replayTimerExpiry l (BitVec.ofNat 12 f.fn)) s [.link, .csr, .out] fun t =>
          Retrains s t l.val 1 ∧ RegsKept [RegName.lnkReplays.addr [l.val], RegName.lnkRetrains.addr [l.val]] s t))
    ∧ (x.stalled = true → InService x → FewRetrains s l.val → Completes (.ackStall l) s [.link, .csr, .out] fun t =>
        Retrains s t l.val 2 ∧ RegsKept [RegName.lnkRetrains.addr [l.val]] s t)
    ∧ (x.stalled = false → exec (.ackStall l) s = .next s)

/-- What another link loses when a link falls out of service: nothing, but that flits which came by the lost one are no longer its, and that room comes back
for what the lost one was to forward. -/
abbrev OthersKeep (s t : State) (l : Nat) : Prop :=
  ∀ m, m < 6 → m ≠ l → t.getLink m = { s.getLink m with
    freed := (t.getLink m).freed, vcq := (s.getLink m).vcq.map fun e => (e.1, e.2.map (TxFlit.untag l)) }

/-- A link has gone DOWN with a reason (R341, R342): what it had not delivered is lost, and a neighbour's place in the time tree goes with it. -/
abbrev WentDown (s t : State) (l reason : Nat) : Prop :=
  t.getLink l = { (s.getLink l).lose with state := .down, phase := 0, reason := reason, downAt := s.time.mt, freed := (t.getLink l).freed }
  ∧ OthersKeep s t l
  ∧ (t.getLink l).buf = [] ∧ (t.getLink l).tree = [] ∧ (t.getLink l).sent = [] ∧ (t.getLink l).vcq = [] ∧ (t.getLink l).txPlan = []
  ∧ t.time.mt = s.time.mt ∧ t.time.parent ≠ some l

/-- A full training has begun (R320, R340, R343); a link that was in service has sent ROS. -/
abbrev Trains (s t : State) (l : Nat) : Prop :=
  t.getLink l = { (s.getLink l).lose with
    state := .training, phase := 0, reversed := false, spares := 0, lost0 := 63, lost1 := 63, rx := [], tx := [], queuedTrain := false, wantFull := false,
    starts := (t.getLink l).starts, freed := (t.getLink l).freed }
  ∧ OthersKeep s t l ∧ t.out = s.out ++ (if (s.getLink l).isUp then [.ros l true] else [])
  ∧ t.fld .lnkRetrains [l] 16 16 = satN 16 (s.fld .lnkRetrains [l] 16 16 + 1) ∧ t.bit .lnkCmdStatus [l] 9 = false

/-- A command status stands: its code, and DONE. -/
abbrev Status8 (t : State) (r : RegName) (ix : List Nat) (code : Nat) : Prop := t.fld r ix 0 8 = code ∧ t.bit r ix 8 = true

/-- No partition is launching or running on the chip. -/
abbrev NoLaunch (s : State) : Prop := ∀ k, k < 32 → (s.getCtx k).part.state ≠ .prepared ∧ (s.getCtx k).part.state ≠ .committed

/-- A link whose loss nobody hears of: it is out of service, or no context holds it and no partition launches or runs. -/
abbrev Unused (s : State) (l : Nat) : Prop := (s.getLink l).isUp = false ∨ (s.linkHolder l = none ∧ NoLaunch s)

/-- The life of a link (R320, R324, R339 to R343, R347): what takes it DOWN, what starts a full training or a fast retrain, and its commands with their
statuses. A link in service that a context holds raises L1 LINK_DOWN against it as well, and in a launching or running partition floods ABORT (R369). -/
def Claims.LinkLife : Prop :=
  ∀ (acc : Accessor) (l : LinkIx) (queue force : Bool) (v : Word) (x : Link) (s : State), x = s.getLink l.val →
    (Unused s l.val →
      (x.state ≠ .down → Completes (.signalLoss l) s [.link, .time] fun t => WentDown s t l.val 5)
      ∧ (x.state = .training → Completes (.trainFail l) s [.link, .time] fun t => WentDown s t l.val 3)
      ∧ (x.state ≠ .training → exec (.trainFail l) s = .next s)
      ∧ (x.state = .retrain → Completes (.fastRetrainTimeout l) s [.link, .time, .csr, .out] fun t =>
          Trains s t l.val ∧ RegsKept [RegName.lnkRetrains.addr [l.val], RegName.lnkCmdStatus.addr [l.val]] s t)
      ∧ (x.state = .down → s.bit .lnkCtl [l.val] 0 = true → s.bit .lnkCtl [l.val] 1 = true → 125000000 ≤ (s.time.mt - x.downAt).toNat →
          Completes (.autoTrainRetry l) s [.link, .time, .csr, .out] fun t =>
            Trains s t l.val ∧ RegsKept [RegName.lnkRetrains.addr [l.val], RegName.lnkCmdStatus.addr [l.val]] s t)
      ∧ (((InService x ∧ FewRetrains s l.val) ∨ (x.state = .retrain ∧ (x.leads = false ∨ s.farLeads l.val = true))) →
          Completes (.rosReceive l true) s [.link, .time, .csr, .out] fun t =>
            Trains s t l.val ∧ RegsKept [RegName.lnkRetrains.addr [l.val], RegName.lnkCmdStatus.addr [l.val]] s t)
      ∧ (s.absent (srcLnk l.val) = false → isLocal acc = true → s.linkHolder l.val = none ∨ force = true →
          Completes (.fullTrain acc l queue force) s [.link, .time, .csr, .out] fun t =>
            Trains s t l.val ∧ Status8 t .lnkCmdStatus [l.val] 0 ∧ RegsKept [RegName.lnkRetrains.addr [l.val], RegName.lnkCmdStatus.addr [l.val]] s t)
      ∧ (x.queuedTrain = true → s.linkHolder l.val = none → Completes (.queuedFullTrainStart l) s [.link, .time, .csr, .out] fun t =>
          Trains s t l.val ∧ t.bit .lnkCmdStatus [l.val] 8 = true
          ∧ RegsKept [RegName.lnkRetrains.addr [l.val], RegName.lnkCmdStatus.addr [l.val]] s t))
    ∧ (x.isUp = true → ∃ t0, WentDown s t0 l.val 5 ∧ OnlyChanges [.link, .time] s t0 ∧ exec (.signalLoss l) s = .next (failedLink t0 l.val)
        ∧ ∀ k, NoLaunch s → s.linkHolder l.val = some k → failedLink t0 l.val = against t0 .linkDown (srcLnk l.val) k l.val)
    ∧ (InService x → FewRetrains s l.val →
        (Completes (.rosReceive l false) s [.link, .csr, .out] fun t => Retrains s t l.val 6 ∧ RegsKept [RegName.lnkRetrains.addr [l.val]] s t)
        ∧ (s.absent (srcLnk l.val) = false → isLocal acc = true → Completes (.fastRetrain acc l) s [.link, .csr, .out] fun t =>
            Retrains s t l.val 5 ∧ Status8 t .lnkCmdStatus [l.val] 0 ∧ RegsKept [RegName.lnkRetrains.addr [l.val], RegName.lnkCmdStatus.addr [l.val]] s t))
    ∧ (x.state = .training → x.phase = 0 → s.farLeads l.val = true → Completes (.rosReceive l false) s [.link] fun t =>
        LinkSet s t l.val { x with state := .retrain, lastCause := 6, leads := false, wantFull := true })
    ∧ (s.absent (srcLnk l.val) = false →
        (isLocal acc = true → ¬InService x → Completes (.fastRetrain acc l) s [.csr] fun t =>
            Status8 t .lnkCmdStatus [l.val] 0 ∧ RegsKept [RegName.lnkCmdStatus.addr [l.val]] s t)
        ∧ (isLocal acc = true → InService x → ¬FewRetrains s l.val → Unused s l.val → Completes (.fastRetrain acc l) s [.link, .csr, .time] fun t =>
            (t.getLink l.val).state = .down ∧ (t.getLink l.val).reason = 1 ∧ RegsKept [RegName.lnkCmdStatus.addr [l.val]] s t)
        ∧ (∀ k, isLocal acc = true → s.linkHolder l.val = some k → force = false →
            (queue = false → Completes (.fullTrain acc l queue force) s [.csr] fun t =>
              Status8 t .lnkCmdStatus [l.val] 1 ∧ RegsKept [RegName.lnkCmdStatus.addr [l.val]] s t)
            ∧ (queue = true → Completes (.fullTrain acc l queue force) s [.csr, .link] fun t =>
              LinkSet s t l.val { x with queuedTrain := true } ∧ t.fld .lnkCmdStatus [l.val] 0 8 = 0 ∧ t.bit .lnkCmdStatus [l.val] 9 = true
              ∧ RegsKept [RegName.lnkCmdStatus.addr [l.val]] s t))
        ∧ (isLocal acc = true → x.state = .degraded → Completes (.acceptHalf acc l) s [.link, .csr] fun t =>
            LinkSet s t l.val { x with state := .up, halfOk := true } ∧ Status8 t .lnkCmdStatus [l.val] 0 ∧ RegsKept [RegName.lnkCmdStatus.addr [l.val]] s t)
        ∧ (isLocal acc = true → x.state ≠ .degraded → Completes (.acceptHalf acc l) s [.csr] fun t =>
            Status8 t .lnkCmdStatus [l.val] 6 ∧ RegsKept [RegName.lnkCmdStatus.addr [l.val]] s t)
        ∧ (s.bit .lnkCtl [l.val] 0 = true → v.getLsbD 0 = false → s.linkHolder l.val = none → x.state ≠ .down → Unused s l.val →
            Completes (.linkDisable acc l v) s [.link, .csr, .time] fun t =>
              WentDown s t l.val 7 ∧ t.fld .lnkCtl [l.val] 0 8 = field v 0 8 ∧ RegsKept [RegName.lnkCtl.addr [l.val]] s t)
        ∧ (∀ k, s.bit .lnkCtl [l.val] 0 = true → v.getLsbD 0 = false → s.linkHolder l.val = some k → Completes (.linkDisable acc l v) s [.csr] fun t =>
            Status8 t .lnkCmdStatus [l.val] 1 ∧ t.fld .lnkCtl [l.val] 0 8 = field v 0 8 + 1
            ∧ RegsKept [RegName.lnkCtl.addr [l.val], RegName.lnkCmdStatus.addr [l.val]] s t))

/-- What a link sends, and its training, retraining and loss.
Where the manual is open this follows the model's choices in log entries 66, 70, 71, 72 and 113. -/
def Obligations.LinkService : Prop :=
  Claims.LinkSending ∧ Claims.LinkLife

/-- No receive lane of a link but those named waits for a spare, and no active one of them has as many mismatches in its window as THRESH asks (R337). -/
abbrev LanesSound (s : State) (l : Nat) (but : List Nat) : Prop :=
  ∀ q, q < 34 → q ∉ but → (getLane (s.getLink l).rx q).failing = false
    ∧ ((getLane (s.getLink l).rx q).role = 0 → (getLane (s.getLink l).rx q).window + 1 < s.fld .lnkLaneCtl [l] 0 16)

/-- A link has a map of its receive lanes: some lane carries a logical one. -/
abbrev Mapped (x : Link) : Prop := ∃ q, q < 34 ∧ (KMap.get {} x.rx q).logical < 32

/-- Lanes (R315, R317, R320, R321, R324, R329, R337): the lane check counts each mismatch on the lane that carries the logical lane, and a spare's sequence
errors on the spare; a lane that reaches THRESH or loses lock asks for the lowest free locked spare; a swap moves the logical lane onto the spare with
LANE_SPARED; a training sequence that passes its CRC names lane and far end, and the end answers on its own lane; one that fails it is ignored; a full
training with every lane good brings the link up at full width, lane j on lane j, with frame numbers at 0, and with fewer than 16 lanes it goes DOWN; a fast
retrain keeps the lanes and goes back to the frames that are not acknowledged.
Where the manual is open this follows the model's choices in log entries 69 and 72. -/
def Obligations.LinkLanes : Prop :=
  ∀ (l : LinkIx) (x : Link) (s : State), x = s.getLink l.val →
    (InService x → Mapped x → ∀ (mismatch : BitVec 32) (spareErrs : Nat × Nat),
        (LanesSound s l.val [] → Completes (.laneCheck l mismatch spareErrs) s [.link] fun t =>
          Kept {} [l.val] s.link t.link ∧ (t.getLink l.val).state = x.state ∧ (t.getLink l.val).sreq = x.sreq ∧ (t.getLink l.val).buf = x.buf
          ∧ ∀ q, q < 34 → (getLane (t.getLink l.val).rx q).role = (getLane x.rx q).role
            ∧ (getLane (t.getLink l.val).rx q).logical = (getLane x.rx q).logical
            ∧ (getLane (t.getLink l.val).rx q).errs = (if (getLane x.rx q).role = 1
                then satN 16 ((getLane x.rx q).errs + (if q = 32 then spareErrs.1 else spareErrs.2))
                else if (getLane x.rx q).logical < 32 ∧ mismatch.getLsbD (getLane x.rx q).logical = true
                then satN 16 ((getLane x.rx q).errs + 1) else (getLane x.rx q).errs)
            ∧ (64 * s.fld .lnkLaneCtl [l.val] 16 16 ≤ x.windowFn + 1 → (getLane (t.getLink l.val).rx q).window = 0))
        ∧ ∀ (q : Fin 34) (p : Nat), LanesSound s l.val [q.val] → (getLane x.rx q.val).role = 0 → (getLane x.rx q.val).logical < 32 → x.half = false → x.sreq = none →
            freeSpare x.rx = some p →
            ((mismatch.getLsbD (getLane x.rx q.val).logical = true → s.fld .lnkLaneCtl [l.val] 0 16 ≤ (getLane x.rx q.val).window + 1 →
                Completes (.laneCheck l mismatch spareErrs) s [.link] fun t =>
                  (t.getLink l.val).sreq = some ((getLane x.rx q.val).logical, p) ∧ (t.getLink l.val).state = x.state ∧ Kept {} [l.val] s.link t.link)
            ∧ Completes (.laneLockLoss l q) s [.link] fun t =>
                (getLane (t.getLink l.val).rx q.val).lock = false ∧ (t.getLink l.val).sreq = some ((getLane x.rx q.val).logical, p)
                ∧ (t.getLink l.val).state = x.state ∧ Kept {} [l.val] s.link t.link
                ∧ ∀ y, y ≠ q.val → getLane (t.getLink l.val).rx y = getLane x.rx y))
    ∧ (InService x → Mapped x → ∀ fn j p old, x.farSat = some (fn, j, p) → fnGe x.rxFn fn = true → laneOf x.rx j = some old → old ≠ p →
        LanesSound s l.val [old] → p < 34 →
        ∃ t0 t, OnlyChanges [.link] s t0 ∧ Kept {} [l.val] s.link t0.link
          ∧ (getLane (t0.getLink l.val).rx p).role = 0 ∧ (getLane (t0.getLink l.val).rx p).logical = j ∧ (getLane (t0.getLink l.val).rx old).role = 2
          ∧ (t0.getLink l.val).farSat = none ∧ (t0.getLink l.val).sreq = none ∧ (∀ y, y ≠ p → y ≠ old → getLane (t0.getLink l.val).rx y = getLane x.rx y)
          ∧ exec (.laneSpared l false) s = .next t ∧ OnlyChanges [.csr] (notice t0 .laneSpared (srcLnk l.val) l.val) t)
    ∧ (∀ (q : Fin 34) (n : BitVec 128) (eye : Byte), n.toNat % 65536 = 0xF628 → fieldN n.toNat 16 3 < 6 →
        ((crc16 0xFFFF ((leBytes 16 n.toNat).take 14)).toNat ≠ n.toNat / 2 ^ 112 → exec (.trainingSequence l q n eye) s = .next s)
        ∧ ((crc16 0xFFFF ((leBytes 16 n.toNat).take 14)).toNat = n.toNat / 2 ^ 112 → x.state = .training → x.phase < 2 → x.farKnown = false →
            Completes (.trainingSequence l q n eye) s [.link, .out] fun t =>
              (getLane (t.getLink l.val).rx q.val).ident = fieldN n.toNat 19 6 ∧ (getLane (t.getLink l.val).rx q.val).eye = eye.toNat
              ∧ (getLane (t.getLink l.val).rx q.val).inverted = (getLane x.rx q.val).inverted
              ∧ (t.getLink l.val).farKnown = true ∧ (t.getLink l.val).farCoord = fieldN n.toNat 25 15 ∧ (t.getLink l.val).farInst = fieldN n.toNat 40 3
              ∧ (t.getLink l.val).state = .training ∧ x.phase ≤ (t.getLink l.val).phase ∧ (t.getLink l.val).phase ≤ x.phase + 1
              ∧ t.out = s.out ++ [.training l.val q.val (t.tapsOf l.val q.val) (t.trainingOut l.val q.val)] ∧ Kept {} [l.val] s.link t.link))
    ∧ (∀ (rxGood txGood : BitVec 34) (rtt : Nat),
        (x.state = .training → x.phase = 5 → x.txeq = [] → s.bit .lnkCtl [l.val] 3 = false → rxGood = BitVec.allOnes 34 → txGood = BitVec.allOnes 34 →
          (∀ q, q < 34 → (getLane x.rx q).role ≠ 2 ∧ (getLane x.tx q).role ≠ 2) →
          Completes (.trainingComplete l rxGood txGood rtt) s [.link, .time] fun t =>
            (t.getLink l.val).state = .up ∧ (t.getLink l.val).half = false ∧ (t.getLink l.val).txFn = 0 ∧ (t.getLink l.val).rxFn = 0
            ∧ (t.getLink l.val).sent = [] ∧ (t.getLink l.val).spares = 0 ∧ (t.getLink l.val).rtts = [rtt] ∧ Kept {} [l.val] s.link t.link
            ∧ ∀ q, q < 34 → (getLane (t.getLink l.val).rx q).lock = true ∧ (q < 32 → (getLane (t.getLink l.val).rx q).role = 0
                ∧ (getLane (t.getLink l.val).rx q).logical = q) ∧ (32 ≤ q → (getLane (t.getLink l.val).rx q).role = 1))
        ∧ (x.state = .training → x.phase = 5 → x.txeq = [] → s.bit .lnkCtl [l.val] 3 = false → (goodLanes x.rx rxGood).length < 16 →
            Completes (.trainingComplete l rxGood txGood rtt) s [.link, .time] fun t =>
              (t.getLink l.val).state = .down ∧ (t.getLink l.val).reason = 4 ∧ OthersKeep s t l.val)
        ∧ (x.state ≠ .training ∨ x.phase ≠ 5 → exec (.trainingComplete l rxGood txGood rtt) s = .next s)
        ∧ (∀ farAck : BitVec 12, x.state = .retrain → Mapped x → x.half = false → x.wantFull = false → x.txeq = [] →
            (∀ f ∈ x.sent, ∀ w ∈ f.flits, w.tile = 576) →
            32 ≤ (goodLanes x.rx rxGood).length → 32 ≤ (goodLanes x.tx txGood).length →
            (∀ q, q < 34 → (getLane x.rx q).role = 0 → rxGood.getLsbD q = true) →
            Completes (.fastRetrainComplete l rxGood txGood farAck) s [.link] fun t =>
              (t.getLink l.val).state = .up ∧ (t.getLink l.val).sent.map SentFrame.fn = (x.sent.map SentFrame.fn).filter (fun f => !fnGe farAck.toNat f)
              ∧ (t.getLink l.val).goback = (t.getLink l.val).sent.map SentFrame.fn ∧ (t.getLink l.val).nakQ = []
              ∧ (∀ q, q < 34 → (getLane x.rx q).role = 0 → (getLane (t.getLink l.val).rx q).logical = (getLane x.rx q).logical)
              ∧ Kept {} [l.val] s.link t.link))

/-! ### Installing weights (08_weight_vault.md) -/

/-- The commands of the install engine (R187, R189, R193, R205): ARM arms the chip for INS_SESSION, keeping what it holds of a stored session, and is BUSY
while a session runs; START starts the ring at its first slot, is BUSY while it runs and REJECTED where the ring is none; DISARM ends the session, the
ring and install mode, and INSTALLING regions have failed; the engine takes a ring slot whose OWN is 1, hands it back, and acts on its
chunk as on one that came over a link.
Where the manual is open this follows the model's choices in log entries 77 and 80. -/
def Obligations.InstallCommands : Prop :=
  ∀ (acc : Accessor) (s : State),
    (s.absent srcClo = false → isLocal acc = true →
      (s.ins.busy = false → Completes (.installArm acc) s [.ins, .csr] fun t =>
          t.ins = { s.ins with phase := .armed, armedFor := s.rg .insSession, hdr := [], hdrSeq := 0, foreign := true }
          ∧ t.fld .insStatus [] 8 8 = 0 ∧ t.fld .insStatus [] 16 8 = 0 ∧ RegsKept [RegName.insStatus.addr []] s t)
      ∧ (s.ins.busy = true → Completes (.installArm acc) s [.csr] fun t => t.fld .insStatus [] 8 8 = 1 ∧ RegsKept [RegName.insStatus.addr []] s t)
      ∧ (s.ins.ring = none → s.ringOk = true → Completes (.installStart acc) s [.ins, .csr] fun t =>
          t.ins = { s.ins with ring := some 0 } ∧ t.fld .insStatus [] 8 8 = 0 ∧ RegsKept [RegName.insStatus.addr []] s t)
      ∧ ((s.ins.ring = none ∧ s.ringOk = false) → Completes (.installStart acc) s [.csr] fun t =>
          t.fld .insStatus [] 8 8 = 6 ∧ RegsKept [RegName.insStatus.addr []] s t)
      ∧ (s.ins.ring ≠ none → s.ringOk = true → Completes (.installStart acc) s [.csr] fun t =>
          t.fld .insStatus [] 8 8 = 1 ∧ RegsKept [RegName.insStatus.addr []] s t)
      ∧ Completes (.installDisarm acc) s [.ins, .csr, .vault] fun t =>
          t.ins = { s.ins with phase := .idle, ring := none } ∧ t.fld .insStatus [] 8 8 = 0 ∧ RegsKept [RegName.insStatus.addr []] s t
          ∧ (s.ins.busy = true → t.bit .insStatus [] 2 = true) ∧ Kept {} [0, 1, 2, 3] s.vault t.vault
          ∧ ∀ v, v < 4 → (t.getVault v).mem = (s.getVault v).mem ∧ (t.getVault v).installs = (s.getVault v).installs
            ∧ (t.getVault v).mode = (if (s.getVault v).mode = .install then .service else (s.getVault v).mode)
            ∧ (∀ e ∈ (t.getVault v).regions, e.2.state ≠ .installing)
            ∧ ∀ e ∈ (s.getVault v).regions, e.2 ≠ {} →
                (e.1, if e.2.state = .installing then { e.2 with state := .failed, reason := insIncomplete } else e.2) ∈ (t.getVault v).regions)
    ∧ ∀ (i a : Nat) (raw : List Byte), s.ins.ring = some i → a = (s.rg .insRingBase).toNat + 0x11000 * i →
        raw = s.mgt.read a 32 ++ s.mgt.read (a + 0x1000) (min (leAt (s.mgt.read a 32) 12 4) 65536) →
        (leNat (s.mgt.read (a + 0x20) 8) ≠ 1 → exec .installRingSlot s = .next s)
        ∧ (leNat (s.mgt.read (a + 0x20) 8) = 1 → ∃ t0, OnlyChanges [.mgt, .ins] s t0 ∧ t0.mgt = s.mgt.write (a + 0x20) (leBytes 8 0)
            ∧ t0.ins = { s.ins with
                ring := if (Chunk.parse raw).ok = true ∧ (Chunk.parse raw).type = 2 then none else some ((i + 1) % s.fld .insRingSlots [] 0 16) }
            ∧ ∀ c : Instr, ((Chunk.parse raw).type = 0 ∧ c = .dataChunk none raw) ∨ ((Chunk.parse raw).type = 1 ∧ c = .headerChunk none raw)
                ∨ ((Chunk.parse raw).type = 2 ∧ c = .endChunk none raw) → exec .installRingSlot s = exec c t0)

/-- The chip is the last of the chain of its stream, and no chunk waits to go on. -/
abbrev LastInChain (s : State) : Prop :=
  s.ins.held = [] ∧ (chainOf s.ins.front).any (fun chain => (chain.findIdx? (· == s.self)).any fun p => decide (chain.length ≤ p + 1)) = true

/-- The fields of a chunk are those of its type (R183). -/
abbrev WellMade (c : Chunk) : Prop := c.magic = 0x4B485753 ∧
  if c.type = 2 then c.len = 0 ∧ c.offset = 0 else 1 ≤ c.len ∧ c.len ≤ 65536 ∧ c.offset % 65536 = 0

/-- Chunks on the last chip of a chain (R183, R184, R188, R190 to R192): a chunk whose CRC fails is counted and stops the writing of a session; the next DATA
chunk of the session is written at its OFFSET of its region where it is for this position, and the first write to a block raises its install count; one that
is not made as R183 says, that names no region of the session or leaves it, or whose region is no longer written, stops the writing with BAD_CHUNK, and one of
a region that no stack took is passed over (log entry 116); a chunk out of order stops the writing with GAP; the next END chunk begins the verification, at
whose end install mode ends; a header of the armed session that obeys the rules opens it, and a region placed on a stack takes the lowest free entry and the
lowest run of free blocks; the read-back makes a region INSTALLED where its digest is the one wanted and FAILED else.
Where the manual is open this follows the model's choices in log entries 78, 79 and 116. -/
def Obligations.InstallChunks : Prop :=
  ∀ (src : Option LinkIx) (raw : List Byte) (c : Chunk) (s : State), c = Chunk.parse raw →
    (LastInChain s → s.ins.phase = .active → s.ins.foreign = false → s.ins.stop = 0 →
      (c.ok = false → c.type = 0 → Completes (.dataChunk src raw) s [.ins, .csr] fun t =>
          t.ins = { s.ins with stop := insCrc } ∧ t.fld .insCounts [] 0 32 = satN 32 (s.fld .insCounts [] 0 32 + 1) ∧ t.fld .insStatus [] 16 8 = insCrc
          ∧ RegsKept [RegName.insCounts.addr [], RegName.insStatus.addr []] s t)
      ∧ (c.ok = true → c.type = 0 → s.ins.resume < c.seq → Completes (.dataChunk src raw) s [.ins, .csr] fun t =>
          t.ins = { s.ins with stop := insGap } ∧ t.fld .insStatus [] 16 8 = insGap ∧ RegsKept [RegName.insStatus.addr []] s t)
      ∧ (c.ok = true → c.type = 0 → c.seq < s.ins.resume → exec (.dataChunk src raw) s = .next s)
      ∧ (c.ok = true → c.type = 0 → c.seq = s.ins.resume → WellMade c → c.pos ≠ s.ins.pos → Completes (.dataChunk src raw) s [.ins] fun t =>
          t.ins = { s.ins with resume := s.ins.resume + 1 })
      ∧ (c.ok = true → c.type = 0 → c.seq = s.ins.resume →
          (¬WellMade c ∨ (c.pos = s.ins.pos ∧ ((∀ g ∈ s.ins.regions, g.ridx ≠ c.ridx) ∨
            ∃ g, (s.ins.regions.find? fun g => g.ridx == c.ridx) = some g ∧ (g.size < c.offset + c.len
              ∨ ∃ v r, g.place = some (v, r) ∧ ((s.getRegion v r).state ≠ .installing ∨ (s.getVault v).mode ≠ .install))))) →
          Completes (.dataChunk src raw) s [.ins, .csr] fun t => t.ins = { s.ins with stop := insBadChunk } ∧ t.fld .insStatus [] 16 8 = insBadChunk
            ∧ RegsKept [RegName.insStatus.addr []] s t)
      ∧ (∀ g, c.ok = true → c.type = 0 → c.seq = s.ins.resume → WellMade c → c.pos = s.ins.pos →
          (s.ins.regions.find? fun g => g.ridx == c.ridx) = some g → c.offset + c.len ≤ g.size → g.place = none →
          Completes (.dataChunk src raw) s [.ins] fun t => t.ins = { s.ins with resume := s.ins.resume + 1 })
      ∧ (∀ g v r y b, c.ok = true → c.type = 0 → c.seq = s.ins.resume → c.pos = s.ins.pos → (s.ins.regions.find? fun g => g.ridx == c.ridx) = some g →
          WellMade c → c.offset + c.len ≤ g.size → g.place = some (v, r) →
          y = s.getRegion v r → y.state = .installing → (s.getVault v).mode = .install → b = y.first + c.offset / 0x4000000 →
          KMap.get 0 (s.getVault v).installs b + 1 ≠ 9500 ∨ b ∈ y.opened → Completes (.dataChunk src raw) s [.ins, .vault] fun t =>
            t.ins = { s.ins with resume := s.ins.resume + 1 } ∧ Kept {} [v] s.vault t.vault
            ∧ (t.getVault v).mem = (s.getVault v).mem.write (y.first * 0x4000000 + c.offset) c.payload
            ∧ KMap.get 0 (t.getVault v).installs b = KMap.get 0 (s.getVault v).installs b + (if b ∈ y.opened then 0 else 1)
            ∧ Kept 0 [b] (s.getVault v).installs (t.getVault v).installs ∧ c.offset / 65536 ∈ (t.getRegion v r).written
            ∧ t.getRegion v r = { y with written := (t.getRegion v r).written, opened := (t.getRegion v r).opened }
            ∧ Kept {} [r] (s.getVault v).regions (t.getVault v).regions ∧ (t.getVault v).mode = .install
            ∧ (∀ w ∈ (t.getVault v).bad, w < y.first * 0x4000000 + c.offset ∨ y.first * 0x4000000 + c.offset + c.len ≤ w))
      ∧ (c.ok = true → c.type = 2 → WellMade c → s.ins.resume < c.seq → ∃ t, exec (.endChunk src raw) s = .next t ∧ t.ins.phase = .idle ∧ t.ins.stop = insGap
          ∧ t.fld .insStatus [] 16 8 = insGap ∧ t.fld .insStatus [] 8 8 = 6 ∧ t.bit .insStatus [] 2 = true ∧ OnlyChanges [.ins, .vault, .csr] s t)
      ∧ (c.ok = true → c.type = 2 → WellMade c → c.seq = s.ins.resume →
          (∀ g ∈ s.ins.regions, ∀ q ∈ g.place, (s.getRegion q.1 q.2).state = .installing →
            ∀ i, i < ceilDiv (s.getRegion q.1 q.2).size 65536 → i ∈ (s.getRegion q.1 q.2).written) →
          s.ins.regions.any (fun g => g.place.any fun q => (s.getRegion q.1 q.2).state == .installing) = true →
          Completes (.endChunk src raw) s [.ins] fun t => t.ins = { s.ins with phase := .verifying }))
    ∧ (∀ (chain : List Nat) (p v r b n : Nat) (e : Nat × Nat × Nat × Nat × List Byte), c.ok = true → c.type = 1 → WellMade c → c.seq = 0 → c.offset = 0 →
        s.ins.phase = .armed → s.ins.held = [] → leAt c.payload 0 8 = s.ins.armedFor.toNat → s.headerOk c.payload = true → (s.ins.session ≠ s.ins.armedFor ∨ s.ins.digest = []) →
        chainOf c.payload = some chain → chain.findIdx? (· == s.self) = some p → chain.length ≤ p + 1 →
        (∀ u, u < 4 → (s.getVault u).mode ≠ .install ∧ ∀ q ∈ (s.getVault u).regions, q.2.state ≠ .installing ∧ q.2 ≠ {}) →
        (regionEntries c.payload).filter (fun q => q.1 == p) = [e] → e.2.2.1 = v → v < 4 → n = ceilDiv e.2.2.2.1 0x4000000 → s.refusal v n = 0 →
        (s.getVault v).spot n = some (r, b) →
        Completes (.headerChunk src raw) s [.ins, .vault] fun t =>
          t.ins.phase = .active ∧ t.ins.session = s.ins.armedFor ∧ t.ins.digest = sha384 c.payload ∧ t.ins.resume = 1 ∧ t.ins.pos = p ∧ t.ins.stop = 0
          ∧ t.ins.regions = [{ ridx := e.2.1, size := e.2.2.2.1, digest := e.2.2.2.2, place := some (v, r), result := 0 }]
          ∧ t.getRegion v r = { state := .installing, first := b, nblk := n, size := e.2.2.2.1, want := e.2.2.2.2 }
          ∧ (t.getVault v).mode = .install ∧ (t.getVault v).mem = (s.getVault v).mem ∧ (t.getVault v).installs = (s.getVault v).installs
          ∧ Kept {} [r] (s.getVault v).regions (t.getVault v).regions ∧ Kept {} [v] s.vault t.vault)
    ∧ (c.ok = true → c.type = 1 → c.seq = 0 → c.offset = 0 → s.ins.phase = .armed → LastInChain s → chainOf c.payload = chainOf s.ins.front →
        leAt c.payload 0 8 = s.ins.armedFor.toNat → 16 ≤ c.payload.length → headerLen c.payload ≤ c.payload.length → s.headerOk c.payload = false →
        Completes (.headerChunk src raw) s [.ins, .csr] fun t => t.ins.phase = .idle ∧ t.fld .insStatus [] 16 8 = insBadHeader ∧ t.fld .insStatus [] 8 8 = 6
          ∧ t.bit .insStatus [] 2 = true ∧ RegsKept [RegName.insStatus.addr []] s t)
    ∧ ∀ (v : VaultIx) (r : Fin 64) (y : VRegion) (d : List Byte), y = s.getRegion v.val r.val → s.ins.phase = .verifying → y.state = .installing →
        d = sha384 ((s.getVault v.val).mem.read (y.first * 0x4000000) y.size) →
        Completes (.installVerifyDone v r) s [.ins, .csr, .vault] fun t =>
          t.getRegion v.val r.val = (if d = y.want then { y with state := .installed, digest := d, reason := 0 } else { y with state := .failed, reason := insDigest })
          ∧ Kept {} [r.val] (s.getVault v.val).regions (t.getVault v.val).regions ∧ Kept {} [0, 1, 2, 3] s.vault t.vault
          ∧ (∀ u, u < 4 → t.getVault u = { s.getVault u with
              regions := (t.getVault u).regions, mode := if t.ins.phase = .idle ∧ (s.getVault u).mode = .install then .service else (s.getVault u).mode })
          ∧ (∀ u, u ≠ v.val → (t.getVault u).regions = (s.getVault u).regions)
          ∧ (t.ins.phase = .idle ↔ ∀ g ∈ s.ins.regions, ∀ q ∈ g.place, (t.getRegion q.1 q.2).state ≠ .installing)
          ∧ (t.ins.phase = .idle ∨ t.ins = s.ins) ∧ RegsKept [RegName.insStatus.addr []] s t

/-- VLT_CMD (R180, R199, R201, R206): REGION_FREE frees an INSTALLED or FAILED region, is REJECTED of a FREE one and BUSY of another; RECAL runs at once on a stack
without tickets, waits with QUEUE for the last to go, and is BUSY else; at its end, over words that read clean, each INSTALLED region whose
digest still holds is kept and the others have failed, and no cell, count or other region has changed. -/
def Claims.VaultCommands : Prop :=
  ∀ (acc : Accessor) (v : VaultIx) (r : Fin 64) (queue : Bool) (y : VRegion) (s : State), y = s.getRegion v.val r.val →
    (s.absent (srcVlt v.val) = false → isLocal acc = true →
      ((y.state = .installed ∨ y.state = .failed) → Completes (.regionFree acc v r) s [.vault, .csr] fun t =>
          t.getRegion v.val r.val = {} ∧ Kept {} [r.val] (s.getVault v.val).regions (t.getVault v.val).regions
          ∧ t.getVault v.val = { s.getVault v.val with regions := (t.getVault v.val).regions } ∧ Kept {} [v.val] s.vault t.vault
          ∧ Status8 t .vltCmdStatus [v.val] 0 ∧ RegsKept [RegName.vltCmdStatus.addr [v.val]] s t)
      ∧ (∀ st, ((y.state = .free ∧ st = 6) ∨ ((y.state = .bound ∨ y.state = .installing) ∧ st = 1)) → Completes (.regionFree acc v r) s [.csr] fun t =>
          Status8 t .vltCmdStatus [v.val] st ∧ RegsKept [RegName.vltCmdStatus.addr [v.val]] s t)
      ∧ (s.vaultIdle v.val = true → s.vaultClosed v.val = false → Completes (.recal acc v queue) s [.vault, .csr] fun t =>
          t.getVault v.val = { s.getVault v.val with mode := .recal, recalQ := false } ∧ Kept {} [v.val] s.vault t.vault
          ∧ t.fld .vltCmdStatus [v.val] 0 8 = 0 ∧ t.bit .vltCmdStatus [v.val] 9 = false ∧ RegsKept [RegName.vltCmdStatus.addr [v.val]] s t)
      ∧ (s.vaultIdle v.val = false → s.vaultClosed v.val = false →
          (queue = true → Completes (.recal acc v queue) s [.vault, .csr] fun t =>
            t.getVault v.val = { s.getVault v.val with recalQ := true } ∧ Kept {} [v.val] s.vault t.vault
            ∧ t.fld .vltCmdStatus [v.val] 0 8 = 0 ∧ t.bit .vltCmdStatus [v.val] 9 = true ∧ RegsKept [RegName.vltCmdStatus.addr [v.val]] s t)
          ∧ (queue = false → Completes (.recal acc v queue) s [.csr] fun t =>
            Status8 t .vltCmdStatus [v.val] 1 ∧ RegsKept [RegName.vltCmdStatus.addr [v.val]] s t)))
    ∧ ((s.getVault v.val).recalQ = true → s.vaultIdle v.val = true → (s.getVault v.val).mode = .service → Completes (.recalQueuedStart v) s [.vault, .csr] fun t =>
        t.getVault v.val = { s.getVault v.val with mode := .recal, recalQ := false } ∧ Kept {} [v.val] s.vault t.vault
        ∧ t.bit .vltCmdStatus [v.val] 9 = false ∧ RegsKept [RegName.vltCmdStatus.addr [v.val]] s t)
    ∧ ((s.getVault v.val).mode = .recal → Completes (.recalDone v {}) s [.vault, .csr] fun t =>
        (t.getVault v.val).mode = .service ∧ (t.getVault v.val).recalDue = false ∧ (t.getVault v.val).mem = (s.getVault v.val).mem
        ∧ (t.getVault v.val).installs = (s.getVault v.val).installs ∧ Kept {} [v.val] s.vault t.vault ∧ t.bit .vltCmdStatus [v.val] 8 = true
        ∧ RegsKept [RegName.vltCmdStatus.addr [v.val]] s t
        ∧ (KMap.wf {} (s.getVault v.val).regions = true → t.getRegion v.val r.val =
            if y.state = .installed then
              (if sha384 ((s.getVault v.val).mem.read (y.first * 0x4000000) y.size) = y.digest then { y with ueSeen := false }
                else { y with state := .failed, reason := insDigest })
            else y))

/-- Requests to the vault stacks and the commands on them.
Where the manual is open this follows the model's choices in log entries 5, 54, 80 and 96. -/
def Obligations.Vault : Prop :=
  Claims.VaultRequests ∧ Claims.VaultCommands

/-! ### The Serving Engine (09_serving_engine.md) -/

/-- An outcome of a command of the SRV window: its status stands in SRV_CMD_STATUS, and of the registers only those named have changed. -/
abbrev SrvSays (s t : State) (code : Nat) (named : List Nat) : Prop := Status8 t .srvCmdStatus [] code ∧ RegsKept (RegName.srvCmdStatus.addr [] :: named) s t

/-- A command's read of a context's memory that delivers its bytes, and the state after it. -/
abbrev Delivers (s : State) (k va n : Nat) (found : Findings) (s1 : State) : Prop := engineRead s k va n found = (false, s1)

/-- The commands of the Serving Engine (R211, R212, R213, R231, R233): a management core that holds the context's ticket opens a record with its handle, admits a prompt to an IDLE
one, marks a turn for cancelling, closes a record, ends the plan, and binds and unbinds tailor sets; a stale identifier or handle is STALE, another core's
context DENIED, and a command is dropped while one is in progress. A read of the context's memory in which no word fails delivers and counts accesses
(R257) alone; where it delivers nothing (R245) the command is REJECTED (log entry 120).
Where the manual is open this follows the model's choices in log entries 52, 53 and 120. -/
def Obligations.ServingCommands : Prop :=
  ∀ (core : Fin 8) (acc : Accessor) (k : Nat) (found : Findings) (s : State), acc = .mgt core → s.absent srcSrv = false →
    (∀ va n, ∃ s1, Delivers s k va n {} s1 ∧ OnlyChanges [.ctx] s s1 ∧ s1.getCtx k = { s.getCtx k with pt := (s1.getCtx k).pt } ∧ Kept {} [k] s.ctx s1.ctx)
    ∧ (s.srvWait ≠ none → ∀ c, (c = Instr.openReq acc found ∨ c = .admitReq acc found ∨ c = .cancel acc ∨ c = .closeReq acc ∨ c = .endPlan acc ∨ c = .tailorBind acc found
        ∨ c = .tailorUnbind acc) → exec c s = .next s)
    ∧ (s.srvWait = none → s.live s.srvId = false → ∀ c, (c = Instr.openReq acc found ∨ c = .endPlan acc ∨ c = .tailorBind acc found ∨ c = .tailorUnbind acc) →
        Completes c s [.csr] fun t => SrvSays s t 4 [])
    ∧ (s.srvWait = none → s.reqOf s.srvHandle = none → ∀ c, (c = Instr.admitReq acc found ∨ c = .cancel acc ∨ c = .closeReq acc) →
        Completes c s [.csr] fun t => SrvSays s t 4 [])
    ∧ (s.srvWait = none → s.live s.srvId = true → s.owns acc s.srvId.slot = false →
        ∀ c, (c = Instr.openReq acc found ∨ c = .endPlan acc ∨ c = .tailorBind acc found ∨ c = .tailorUnbind acc) → Completes c s [.csr] fun t => SrvSays s t 3 [])
    ∧ (s.srvWait = none → s.live s.srvId = true → k = s.srvId.slot → s.owns acc k = true → s.jrnMode k = 0 →
        ((s.getCtx k).leads = true → (s.segOf k (s.rg .srvArg1 []).toNat 64).isSome = true →
            (∀ s1, engineRead s k (s.rg .srvArg1 []).toNat 64 found = (true, s1) → exec (.openReq acc found) s = .next (s1.finish .srvCmdStatus [] .rejected))
            ∧ ∀ (s1 : State) (block : List Byte) (im : Image) (i : Nat), Delivers s k (s.rg .srvArg1 []).toNat 64 found s1 →
              block = s1.ctxRead k (s1.rg .srvArg1 []).toNat 64 → s1.rg .srvArg1 [] = s.rg .srvArg1 [] → paramsOk block = true →
              s1.freeRec = some i → s.freeRec = some i → s.reqsUsed < 16384 → (s.reqsOf k).length < (s.getCtx k).quota →
              (s.getCtx k).image = some im → (s.leadReqs k).length < im.minQuota → (s.getCtx k).closed = false → (s.getCtx k).away = false →
              ∃ t, exec (.openReq acc found) s = .next t ∧ OnlyChanges [.csr, .ctx, .req] s1 t
                ∧ t.getReq i = { gen := (s1.getReq i).gen, state := .idle, ctx := s1.srvId, handle := mkHandle i (s1.getReq i).gen,
                                 kvidx := s1.fld .srvArg2 [] 32 32, tailor := s1.fld .srvArg2 [] 0 16, params := parseParams block,
                                 ttftTgt := s1.fld .srvArg3 [] 0 32, tbtTgt := s1.fld .srvArg3 [] 32 32, cmdMt := s1.mtN }
                ∧ (∀ j, j ≠ i → t.getReq j = s1.getReq j) ∧ t.rg .srvCmdResult [] = Word.ofNat (mkHandle i (s1.getReq i).gen)
                ∧ SrvSays s1 t 0 [RegName.srvCmdResult.addr []]
                ∧ t.getCtx k = { s1.getCtx k with serve := { (s1.getCtx k).serve with
                    newReq := (s1.getCtx k).serve.newReq ++ [(mkHandle i (s1.getReq i).gen, s1.mtN)] } }
                ∧ Kept {} [k] s1.ctx t.ctx)
        ∧ (∀ im v, (s.getCtx k).leads = true → (s.getCtx k).image = some im → im.variants[s.fld .srvCtxEndvar [k] 0 8]? = some (v, 2) →
            (s.getCtx k).away = false → Completes (.endPlan acc) s [.csr, .ctx] fun t =>
              t.getCtx k = { s.getCtx k with serve := { (s.getCtx k).serve with ending := some ((s.getCtx k).serve.ending.getD s.mtN) } }
              ∧ Kept {} [k] s.ctx t.ctx ∧ SrvSays s t 0 [])
        ∧ (∀ id base, id = s.fld .srvArg0 [] 16 16 → id ≠ 0 → base = (s.rg .srvArg1 []).toNat → (s.segOf k base 4096).isSome = true →
            (∀ s1, engineRead s k base 4096 found = (true, s1) → exec (.tailorBind acc found) s = .next (s1.finish .srvCmdStatus [] .rejected))
            ∧ ∀ s1, Delivers s k base 4096 found s1 → s1.setOk k base = true → s1.jrnMode k = 0 →
              ((s.getCtx k).serve.tailors.length < 4096 ∨ KMap.get none (s.getCtx k).serve.tailors id ≠ none) →
              ∃ t, exec (.tailorBind acc found) s = .next t ∧ OnlyChanges [.csr, .ctx] s1 t
                ∧ KMap.get none (t.getCtx k).serve.tailors id = some { base := base, extent := setExtent (s1.ctxRead k base 4096) }
                ∧ Kept none [id] (s1.getCtx k).serve.tailors (t.getCtx k).serve.tailors
                ∧ t.getCtx k = { s1.getCtx k with serve := { (s1.getCtx k).serve with tailors := (t.getCtx k).serve.tailors } }
                ∧ Kept {} [k] s1.ctx t.ctx ∧ SrvSays s1 t 0 [])
        ∧ (∀ id, id = s.fld .srvArg0 [] 16 16 → KMap.get none (s.getCtx k).serve.tailors id ≠ none →
            Completes (.tailorUnbind acc) s [.csr, .ctx] fun t =>
              KMap.get none (t.getCtx k).serve.tailors id = none ∧ Kept none [id] (s.getCtx k).serve.tailors (t.getCtx k).serve.tailors
              ∧ t.getCtx k = { s.getCtx k with serve := { (s.getCtx k).serve with tailors := (t.getCtx k).serve.tailors } }
              ∧ Kept {} [k] s.ctx t.ctx ∧ SrvSays s t 0 [])
        ∧ (KMap.get none (s.getCtx k).serve.tailors (s.fld .srvArg0 [] 16 16) = none → Completes (.tailorUnbind acc) s [.csr] fun t => SrvSays s t 6 []))
    ∧ (∀ (i : Nat) (r : Req), s.srvWait = none → s.reqOf s.srvHandle = some i → r = s.getReq i → s.owns acc r.ctx.slot = true →
        (s.getCtx r.ctx.slot).away = false → s.jrnMode r.ctx.slot = 0 →
        (∀ va len, va = (s.rg .srvArg1 []).toNat → len = 64 + 4 * (s.promptOf r.ctx.slot va).getD 0 → s.inWindow r.ctx.slot va 64 = true →
            2 ≤ s.fld .srvArg3 [] 0 11 → s.fld .srvArg3 [] 0 11 ≤ 1024 →
            s.inWindow r.ctx.slot (s.rg .srvArg2 []).toNat (128 * s.fld .srvArg3 [] 0 11) = true →
            (∀ s1, engineRead s r.ctx.slot va len found = (true, s1) → exec (.admitReq acc found) s = .next (s1.finish .srvCmdStatus [] .rejected))
            ∧ ∀ s1 n, Delivers s r.ctx.slot va len found s1 → s1.promptOf r.ctx.slot va = some n → s1.getReq i = r → r.state = .idle →
              (s1.getCtx r.ctx.slot).closed = false → ∃ t, exec (.admitReq acc found) s = .next t ∧ OnlyChanges [.csr, .req] s1 t
                ∧ t.getReq i = { r with
                    state := .ready, mtAdmit := s1.mtN, admSeq := s1.admSeq, slotVa := va, ringVa := (s.rg .srvArg2 []).toNat,
                    ringN := s.fld .srvArg3 [] 0 11, ringPos := 0, promptN := n, placed := 0, lastChunk := none, turnNew := 0, formed := false,
                    cancel := false, cancelFrom := none, cmdMt := s1.mtN }
                ∧ (∀ j, j ≠ i → t.getReq j = s1.getReq j) ∧ t.admSeq = s1.admSeq + 1 ∧ SrvSays s1 t 0 [])
        ∧ ((r.state = .prefill ∨ r.state = .decode) → Completes (.cancel acc) s [.csr, .req] fun t =>
            t.getReq i = (if r.cancel = true then r else { r with cancel := true, cmdMt := s.mtN })
            ∧ (∀ j, j ≠ i → t.getReq j = s.getReq j) ∧ SrvSays s t 0 [])
        ∧ (r.state = .idle → (r.lastEnd = 1 ∨ r.lastEnd = 2) → Completes (.cancel acc) s [.csr] fun t => SrvSays s t 8 [])
        ∧ (r.state = .idle → r.lastEnd ≠ 1 → r.lastEnd ≠ 2 → Completes (.cancel acc) s [.csr] fun t => SrvSays s t 0 [])
        ∧ (r.state = .ready → ∃ t, exec (.cancel acc) s = .next t ∧ (t.getReq i).state = .idle ∧ (t.getReq i).lastEnd = 3 ∧ (t.getReq i).handle = r.handle
            ∧ (∀ j, j ≠ i → t.getReq j = s.getReq j) ∧ Status8 t .srvCmdStatus [] 0)
        ∧ (r.state = .idle → Completes (.closeReq acc) s [.csr, .req] fun t =>
            t.getReq i = (if r.closing = true then r else { r with closing := true, cmdMt := s.mtN })
            ∧ (∀ j, j ≠ i → t.getReq j = s.getReq j) ∧ SrvSays s t 0 [])
        ∧ (r.state ≠ .idle → Completes (.closeReq acc) s [.csr] fun t => SrvSays s t 1 []))

/-- The table of a step (R218, R227): the rows that the decode requests get under an entry take no more than its VROWS, and with their draft rows no more than
2,048; each gets the DLEN it may, no deeper than the entry; the table has at most 2,048 rows, verify rows first, and at most the entry's PROWS prefill rows. -/
def Obligations.StepTable : Prop :=
  ∀ (s : State) (step : Nat) (e : VEntry) (dec pre : List Nat),
    sumN ((fillDecode s e.depth dec e.vrows 2048).map fun g => g.2 + 1) ≤ e.vrows
    ∧ sumN ((fillDecode s e.depth dec e.vrows 2048).map fun g => 2 * g.2 + 1) ≤ 2048
    ∧ (∀ g ∈ fillDecode s e.depth dec e.vrows 2048, g.1 ∈ dec ∧ g.2 = min (s.getReq g.1).dlen e.depth)
    ∧ ∃ verify rest : List BatchRow, (fillTable s step e dec pre).1 = verify ++ rest ∧ (∀ r ∈ verify, r.role = 1)
        ∧ (∀ r ∈ rest, r.role = 2 ∨ r.role = 0) ∧ verify.length ≤ e.vrows ∧ verify.length + rest.length ≤ 2048
        ∧ (rest.filter fun r => r.role == 0).length ≤ e.prows

/-- FREEZE_POINT, STEP_MESSAGE, RESULT_SLOT_CONSUME and HELD_DELIVERY_WRITE, with the journal off (R209, R214, R215, R217, R229, R230): at its time the lead forms the table of the next step,
sends it and takes it in, or raises L1 SERVE_CONFIG where no variant table entry is VALID; a follower takes each step's table once, and with
it the variant of the step; the lead consumes the next result slot once its flag is the Serving Engine's, in the order of the steps, or raises
L1 RESULT_ORDER; a held delivery is written when its entry has come back.
Where the manual is open this follows the model's choices in log entries 51, 56 and 120. -/
def Obligations.ServingSteps : Prop :=
  ∀ (k : CtxSlot) (s : State),
    (s.freezeDue k.val = false → exec (.freezePoint k) s = .next s)
    ∧ (s.freezeDue k.val = true → s.jrnMode k.val = 0 →
        match formStep s k.val (s.getCtx k.val).serve.next with
        | (none, s') => ∃ t0, OnlyChanges [.ctx] s' t0
            ∧ t0.getCtx k.val = { s'.getCtx k.val with serve := { (s'.getCtx k.val).serve with closed := true } } ∧ Kept {} [k.val] s'.ctx t0.ctx
            ∧ exec (.freezePoint k) s = .next (against t0 .serveConfig srcSrv k.val)
        | (some (m, ends), _) => ∃ t, exec (.freezePoint k) s = .next t
            ∧ m.step = (s.getCtx k.val).serve.next ∧ m ∈ (t.getCtx k.val).serve.tables ∧ (t.getCtx k.val).serve.next = m.step + 1
            ∧ KMap.get 256 (t.getCtx k.val).varIdx m.step = m.variant.toNat
            ∧ (t.getCtx k.val).serve.closed = ((s.getCtx k.val).serve.closed || ends) ∧ (t.getCtx k.val).plan = (s.getCtx k.val).plan
            ∧ m.params.length ≤ 64 ∧ m.releases.length ≤ 64 ∧ m.rows.length ≤ 2048)
    ∧ (∀ (part : BitVec 16) (gen : BitVec 8) (m : StepMsg) (im : Image), s.msgSlot part.toNat gen.toNat = some k.val → (s.getCtx k.val).image = some im →
        im.serving = true → im.isLead = false → (s.getCtx k.val).plan.state ≠ .ended →
        ((s.getCtx k.val).serve.table m.step = none → Completes (.stepMessage part gen m) s [.ctx, .req] fun t =>
            (t.getCtx k.val).serve.table m.step = some m ∧ KMap.get 256 (t.getCtx k.val).varIdx m.step = m.variant.toNat
            ∧ (t.getCtx k.val).serve.next = max (s.getCtx k.val).serve.next (m.step + 1) ∧ (t.getCtx k.val).plan = (s.getCtx k.val).plan
            ∧ Kept {} [k.val] s.ctx t.ctx)
        ∧ ((s.getCtx k.val).serve.table m.step ≠ none → exec (.stepMessage part gen m) s = .next s))
    ∧ (∀ (va pos : Nat) (found : Findings), (s.getCtx k.val).leads = true → (s.getCtx k.val).plan.active = true → (s.getCtx k.val).state = .opened → s.jrnMode k.val = 0 →
        s.fld .srvCtxRrcfg [k.val] 0 8 ≠ 0 → pos = (s.getCtx k.val).serve.ringPos % s.fld .srvCtxRrcfg [k.val] 0 8 →
        va = (s.rg .srvCtxRring [k.val]).toNat + 0x10000 * pos →
        (flagOwner (s.ctxNat k.val va 8) ≠ 2 → exec (.resultSlotConsume k found) s = .next s)
        ∧ (∀ s1, flagOwner (s.ctxNat k.val va 8) = 2 → engineRead s k.val va 64 found = (true, s1) → exec (.resultSlotConsume k found) s = .next s1)
        ∧ ∀ s1 step count, flagOwner (s.ctxNat k.val va 8) = 2 → Delivers s k.val va 64 found s1 → step = s1.ctxNat k.val (va + 8) 8 →
          count = s1.ctxNat k.val (va + 16) 4 →
          (step ≠ (s.getCtx k.val).serve.expect → exec (.resultSlotConsume k found) s = .next (against s1 .resultOrder srcSrv k.val))
          ∧ (∀ s2, step = (s.getCtx k.val).serve.expect → engineRead s1 k.val (va + 64) (16 * min count 4092) found = (true, s2) →
              exec (.resultSlotConsume k found) s = .next s2)
          ∧ (∀ s2, step = (s.getCtx k.val).serve.expect → Delivers s1 k.val (va + 64) (16 * min count 4092) found s2 → s2.jrnMode k.val = 0 →
            ∃ t, exec (.resultSlotConsume k found) s = .next t
            ∧ (t.getCtx k.val).serve.expect = (s2.getCtx k.val).serve.expect + 1
            ∧ (t.getCtx k.val).serve.ringPos = (if s.fld .srvCtxRrcfg [k.val] 0 8 ≤ pos + 1 then 0 else pos + 1)
            ∧ (t.getCtx k.val).plan = (s2.getCtx k.val).plan
            ∧ ∀ (i : Nat) (r : Req) (o : OutRow), s2.leadReqs k.val = [i] → r = s2.getReq i → r.state = .decode → count = 1 →
                o = OutRow.parse (s2.ctxRead k.val (va + 64) 16) → o.handle = r.handle → o.committed = true →
                (t.getReq i).tokidx = (r.tokidx + 1) % 2 ^ 32 ∧ (t.getReq i).turnNew = r.turnNew + 1
                ∧ (t.getReq i).frozen = r.frozen.filter (· != step) ∧ (t.getReq i).formed = true
                ∧ (o.last = true → (o.end_ = 1 ∨ o.end_ = 2) → (t.getReq i).state = .idle ∧ (t.getReq i).lastEnd = o.end_)))
    ∧ ∀ (slot : BitVec 14) (r : Req) (d : Delivery), r = s.getReq slot.toNat → r.state ≠ .free → r.lead = true → r.ctx.slot = k.val → (s.getCtx k.val).away = false →
        r.held = [d] →
        (s.entryFree slot.toNat = false → Completes (.heldDeliveryWrite k slot) s [.req] fun t => ∀ j, t.getReq j = s.getReq j)
        ∧ (∀ e f, s.entryFree slot.toNat = true → s.pte k.val (r.ringVa + 128 * r.ringPos) = some e → e.frame = some f → e.moving = false →
            (r.ringVa + 128 * r.ringPos) % pageBytes + 128 ≤ pageBytes → s.watchesOf k.val = [] →
            ∃ t, exec (.heldDeliveryWrite k slot) s = .next t ∧ (t.getReq slot.toNat).held = []
              ∧ (t.getReq slot.toNat).ringPos = (if r.ringN ≤ r.ringPos + 1 then 0 else r.ringPos + 1) ∧ (t.getReq slot.toNat).mtLast = s.mtN
              ∧ t.ctxRead k.val (r.ringVa + 128 * r.ringPos) 128
                = deliveryBytes s d (s.ctxNat k.val (r.ringVa + 128 * r.ringPos) 8)
              ∧ (∀ j, j ≠ slot.toNat → t.getReq j = s.getReq j) ∧ OnlyChanges [.req, .csr, .hbm, .cxl] s t)

/-! ### Memory tiers (10_memory_tiers.md) -/

/-- HBM stacks (R242 to R249): the patrol scrubber reads a frame of a READY stack, corrects a word with one bad symbol with MEM_CE counted and noticed, and an
uncorrectable one is MEM_UE against the context that holds the frame, and a frame that no ticket holds is retired once its corrections pass MEM_CE_LIMIT; after the
last frame a pass is counted; a temperature sample is kept, and HOT shows while it is at HOT_THRESH or above; RETRAIN and BIST run at once on a stack without tickets, wait with QUEUE, and are BUSY else, BIST clearing what the Cloakroom's frames
hold; their end makes the stack READY and retires the frames that failed; an uncorrectable word that a core's read of the carve-out finds ends
in a bus error with MEM_UE_MGT. -/
def Claims.MemoryStacks : Prop :=
  ∀ (m : StackIx) (acc : Accessor) (queue : Bool) (h : Hbm) (s : State), h = s.getHbm m.val →
    (∀ frame, s.fld .memScrub [m.val] 0 16 ≠ 0 → h.phase = .ready → frame < stackFrames →
        (Completes (.patrolScrub m frame {}) s [.csr] fun t =>
            t.fld .memScrub [m.val] 16 32 = (if frame + 1 = stackFrames then (s.fld .memScrub [m.val] 16 32 + 1) % 2 ^ 32 else s.fld .memScrub [m.val] 16 32)
            ∧ RegsKept [RegName.memScrub.addr [m.val]] s t)
        ∧ ∀ off, off < pageBytes → frame + 1 < grantFrames → s.bit .memCode [m.val] 0 = false →
            (∃ t0, OnlyChanges [.csr, .hbm] s t0 ∧ t0.fld .memCe [m.val] 0 32 = satN 32 (s.fld .memCe [m.val] 0 32 + 1) ∧ (t0.getHbm m.val).mem = h.mem
              ∧ (KMap.get {} (t0.getHbm m.val).frames frame).ce = (KMap.get {} h.frames frame).ce + 1
              ∧ ∀ t1, t1 = raise t0 { cause := .memCe, source := srcMem m.val, ctx := s.frameOwner { unit := m.val, frame := frame } } →
                exec (.patrolScrub m frame { syms := [(off, 1)] }) s
                = .next (if (KMap.get {} h.frames frame).held = false ∧ s.fld .memCeLimit [m.val] 0 16 < (KMap.get {} h.frames frame).ce + 1
                  then t1.retireFrame m.val frame else t1))
            ∧ ∀ k, s.frameOwner { unit := m.val, frame := frame } = some k → s.bit .memUeLog [m.val] 63 = false →
                ∃ t0, OnlyChanges [.csr, .hbm] s t0 ∧ (KMap.get {} (t0.getHbm m.val).frames frame).ue = true ∧ (t0.getHbm m.val).mem = h.mem
                  ∧ t0.fld .memUeLog [m.val] 0 36 = (frame * pageBytes + off / 32 * 32) % 2 ^ 36 ∧ t0.bit .memUeLog [m.val] 63 = true
                  ∧ exec (.patrolScrub m frame { syms := [(off, 2)] }) s
                    = .next (against t0 .memUe (srcMem m.val) k (t0.rg .memUeLog [m.val]).toNat))
    ∧ (∀ temp : Byte, Completes (.memTempSample m temp) s [.csr] fun t => t.fld .memTemp [m.val] 0 8 = temp.toNat
        ∧ (t.memStatusWord m.val).getLsbD 2 = decide (s.fld .memTemp [m.val] 8 8 ≤ temp.toNat) ∧ RegsKept [RegName.memTemp.addr [m.val]] s t)
    ∧ (∀ c op, ((c = Instr.retrain acc m queue ∧ op = MemPhase.retrain) ∨ (c = .bist acc m queue ∧ op = .bist)) → s.absent (srcMem m.val) = false → acc ≠ .vc3 →
        (s.hbmIdle m.val = true → s.hbmOpen m.val = true → Completes c s [.csr, .hbm] fun t =>
            (t.getHbm m.val).phase = op ∧ (t.getHbm m.val).queued = none ∧ Kept {} [m.val] s.hbm t.hbm
            ∧ (op = .retrain → (t.getHbm m.val).mem = h.mem ∧ (t.getHbm m.val).frames = h.frames)
            ∧ (op = .bist → h.mem.wf = true → ∀ a, (t.getHbm m.val).mem.get a = if a < grantFrames * pageBytes then 0 else h.mem.get a)
            ∧ t.fld .memCmdStatus [m.val] 0 8 = 0 ∧ RegsKept [RegName.memCmdStatus.addr [m.val]] s t)
        ∧ ((s.hbmIdle m.val = false ∨ s.hbmOpen m.val = false) → queue = true → h.queued = none → Completes c s [.csr, .hbm] fun t =>
            t.getHbm m.val = { h with queued := some op } ∧ Kept {} [m.val] s.hbm t.hbm ∧ t.bit .memCmdStatus [m.val] 9 = true
            ∧ t.fld .memCmdStatus [m.val] 0 8 = 0 ∧ RegsKept [RegName.memCmdStatus.addr [m.val]] s t)
        ∧ ((s.hbmIdle m.val = false ∨ s.hbmOpen m.val = false) → queue = false → Completes c s [.csr] fun t =>
            Status8 t .memCmdStatus [m.val] 1 ∧ RegsKept [RegName.memCmdStatus.addr [m.val]] s t))
    ∧ (∀ op, h.queued = some op → s.hbmIdle m.val = true → h.phase = .ready → Completes (.memQueuedStart m) s [.csr, .hbm] fun t =>
        (t.getHbm m.val).phase = op ∧ (t.getHbm m.val).queued = none ∧ Kept {} [m.val] s.hbm t.hbm ∧ RegsKept [RegName.memCmdStatus.addr [m.val]] s t)
    ∧ (h.phase = .retrain → ∀ failed, Completes (.memCmdDone m failed) s [.csr, .hbm] fun t =>
        t.getHbm m.val = { h with phase := .ready } ∧ Kept {} [m.val] s.hbm t.hbm ∧ t.bit .memCmdStatus [m.val] 8 = true
        ∧ RegsKept [RegName.memCmdStatus.addr [m.val]] s t)
    ∧ (h.phase = .bist → ∀ f, f < grantFrames → ∃ t, exec (.memCmdDone m [f]) s = .next t ∧ (t.getHbm m.val).phase = .ready
        ∧ t.bit .memCmdStatus [m.val] 8 = true ∧ t.bit .memCmdStatus [m.val] 10 = true ∧ (KMap.get {} (t.getHbm m.val).frames f).retired = true
        ∧ (t.getHbm m.val).mem = h.mem ∧ OnlyChanges [.csr, .hbm, .flt] s t)
    ∧ ∀ (core : Fin 8) (offset : Nat) (f : FrameId) (off : Nat), carveFrame (0x1000000000 + offset % 0x400000000) = (f, off) →
        ∃ t0, OnlyChanges [.csr] s t0 ∧ RegsKept [RegName.memUeLog.addr [f.unit]] s t0 ∧ exec (.memUeMgt core offset) s
          = .next ({ notice t0 .memUeMgt (srcMem f.unit) (t0.rg .memUeLog [f.unit]).toNat with resp := none }.emit (.coreFault core.val))

/-- CXL ports (R250 to R252): a port that is not up trains; a completed training brings it up with its rate and width; with the link up and no ticket on its frames, a device
is attached with its frames, 64 of them kept as bounce frames, and an unsupported one is not; a poll keeps the device's health; a link that goes down
trains again and loses its device, and the contexts that hold frames there have L1 CXL_DOWN. -/
def Claims.CxlPorts : Prop :=
  ∀ (p : PortIx) (x : Cxl) (s : State), x = s.getCxl p.val →
    (x.link ≠ .up → Completes (.cxlTrainRetry p) s [.cxl] fun t => t.getCxl p.val = { x with link := .training } ∧ Kept {} [p.val] s.cxl t.cxl)
    ∧ (x.link = .up → exec (.cxlTrainRetry p) s = .next s)
    ∧ (∀ rate half, x.link = .training → Completes (.cxlLinkUp p rate half) s [.cxl] fun t =>
        t.getCxl p.val = { x with link := .up, rate := rate.toNat, half := half, sscInUse := s.fld .clkSsc [p.val] 0 8 } ∧ Kept {} [p.val] s.cxl t.cxl)
    ∧ (x.link = .up → x.device = false → s.cxlIdle p.val = true → s.portExchanges p.val = [] → ∀ frames,
        (Completes (.cxlAttach p frames true) s [.cxl] fun t => t.getCxl p.val = { x with unsupported := true } ∧ Kept {} [p.val] s.cxl t.cxl)
        ∧ (64 ≤ frames → frames ≤ 1048576 → Completes (.cxlAttach p frames false) s [.cxl] fun t =>
            t.getCxl p.val = { x with
              unsupported := false, device := true, total := frames - 64, bounce := (List.range 64).map (frames - 64 + ·) }
            ∧ Kept {} [p.val] s.cxl t.cxl))
    ∧ (x.device = true → ∀ hl : CxlHealth, Completes (.cxlHealthPoll p hl) s [.csr] fun t =>
        t.fld .cxlHealth [p.val] 0 8 = hl.status.toNat ∧ t.fld .cxlHealth [p.val] 8 8 = hl.media.toNat ∧ t.fld .cxlHealth [p.val] 16 8 = hl.life.toNat
        ∧ t.fld .cxlHealth [p.val] 24 16 = hl.temp.toNat ∧ t.fld .cxlPoison [p.val] 32 32 = satN 32 (s.fld .cxlPoison [p.val] 32 32 + hl.events)
        ∧ RegsKept [RegName.cxlHealth.addr [p.val], RegName.cxlPoison.addr [p.val]] s t)
    ∧ (x.link = .up → s.portExchanges p.val = [] →
        (s.cxlHolders p.val = [] → Completes (.cxlDown p) s [.cxl] fun t =>
          t.getCxl p.val = { x with link := .training, device := false } ∧ Kept {} [p.val] s.cxl t.cxl)
        ∧ ∀ k, s.cxlHolders p.val = [k] → ∃ t0, OnlyChanges [.cxl] s t0 ∧ t0.getCxl p.val = { x with link := .training, device := false }
            ∧ Kept {} [p.val] s.cxl t0.cxl ∧ exec (.cxlDown p) s = .next (against t0 .cxlDown (srcCxl p.val) k))

/-- The HBM stacks and the CXL ports.
Where the manual is open this follows the model's choices in log entries 19, 38, 71 and 96. -/
def Obligations.MemoryTiers : Prop :=
  Claims.MemoryStacks ∧ Claims.CxlPorts

/-- Moraine (R257 to R260): an epoch halves every access count; a scan starts the exchange that the rules choose, with a bounce frame of the port, and MOVING
on both pages; the copy of the victim puts it into the bounce frame, and the copy of the candidate puts that into the victim's frame, each with its remap; HINT
sets the hint of present pages for a holder of the context's ticket.
Where the manual is open this follows the model's choices in log entry 98. -/
def Obligations.MoraineExchanges : Prop :=
  (∀ (s : State) (k page : Nat), k < 32 → (∀ j, j < 32 → KMap.wf {} (s.getCtx j).pt = true) → Completes .morEpoch s [.ctx] fun t =>
      KMap.get {} (t.getCtx k).pt page = { KMap.get {} (s.getCtx k).pt page with acc := (KMap.get {} (s.getCtx k).pt page).acc / 2 }
      ∧ t.getCtx k = { s.getCtx k with pt := (t.getCtx k).pt })
  ∧ (∀ s : State, s.bit .morCtl [] 0 = false → exec .morScan s = .next s)
  ∧ (∀ (k b : Nat) (bs : List Nat) (pages : List (Nat × Pte)) (c v : Nat × Pte) (hf xf : FrameId) (s : State), k < 32 → s.bit .morCtl [] 0 = true →
      (∀ j, j < 32 → j ≠ k → (s.getCtx j).state = .free) → (s.getCtx k).state = .opened → (s.getCtx k).plan.active = true →
      (s.getCxl 0).device = true → (s.getCxl 1).device = false → s.mor.exchanges = [] → (s.getCxl 0).bounce = b :: bs →
      pages = (s.getCtx k).pt.filter (fun e => e.2.movable && !e.2.moving) → candidate pages 0 (s.fld .morPromoteMin [] 0 16) = some c → victim pages = some v →
      (c.2.hint = 1 ∨ v.2.hint = 2 ∨ v.2.acc < c.2.acc) → v.2.frame = some hf → c.2.frame = some xf → Completes .morScan s [.ctx, .cxl, .mor] fun t =>
        t.mor = { s.mor with
          exchanges := [{ id := s.mor.nextId, ctx := s.idOf k, port := 0, victim := v.1, cand := c.1, hFrame := hf, xFrame := xf, bounce := b }],
          nextId := s.mor.nextId + 1, lastSlot := k }
        ∧ t.getCxl 0 = { s.getCxl 0 with bounce := bs } ∧ Kept {} [0] s.cxl t.cxl
        ∧ (∀ page, KMap.get {} (t.getCtx k).pt page = if page = v.1 ∨ page = c.1 then { KMap.get {} (s.getCtx k).pt page with moving := true }
            else KMap.get {} (s.getCtx k).pt page)
        ∧ t.getCtx k = { s.getCtx k with pt := (t.getCtx k).pt } ∧ Kept {} [k] s.ctx t.ctx)
  ∧ (∀ (x : Exchange) (b : FrameId) (s : State), Canonical s → s.mor.exchanges = [x] → x.held = [] → x.hFrame.cxl = false → x.xFrame.cxl = true →
      x.victim ≠ x.cand → b = { cxl := true, unit := x.port, frame := x.bounce } →
      (x.demoted = false → s.holdsPage x x.victim x.hFrame true = true → s.holdsPage x x.cand x.xFrame true = true →
        Completes (.demoteCopyDone x.id {}) s [.ctx, .cxl, .mor] fun t =>
          t.mor = { s.mor with exchanges := [{ x with demoted := true }] }
          ∧ (∀ off, off < pageBytes → t.frameRead b off 1 = s.frameRead x.hFrame off 1)
          ∧ KMap.get {} (t.getCtx x.ctx.slot).pt x.victim = { KMap.get {} (s.getCtx x.ctx.slot).pt x.victim with frame := some b, moving := false }
          ∧ Kept {} [x.victim] (s.getCtx x.ctx.slot).pt (t.getCtx x.ctx.slot).pt ∧ Kept {} [x.ctx.slot] s.ctx t.ctx)
      ∧ (x.demoted = true → s.holdsPage x x.cand x.xFrame true = true → ∃ t, exec (.promoteCopyDone x.id {}) s = .next t
          ∧ t.mor.exchanges = [] ∧ (∀ off, off < pageBytes → t.frameRead x.hFrame off 1 = s.frameRead x.xFrame off 1)
          ∧ KMap.get {} (t.getCtx x.ctx.slot).pt x.cand = { KMap.get {} (s.getCtx x.ctx.slot).pt x.cand with frame := some x.hFrame, moving := false }
          ∧ Kept {} [x.cand] (s.getCtx x.ctx.slot).pt (t.getCtx x.ctx.slot).pt ∧ x.xFrame.frame ∈ (t.getCxl x.port).bounce
          ∧ t.fld .morStat [] 0 32 = satN 32 (s.fld .morStat [] 0 32 + 1)))
  ∧ ∀ (acc : Accessor) (id : CtxId) (n va : Nat) (s : State), s.absent srcMor = false → isCore acc = true → s.mor.erasure = none →
      id = CtxId.ofNat (s.fld .morArg0 [] 0 16) → s.live id = true → s.owns acc id.slot = true → va = (s.rg .morArg1 []).toNat →
      n = (s.rg .morArg2 []).toNat → va % pageBytes = 0 → 1 ≤ n → n ≤ 1048576 →
      (s.fld .morArg0 [] 16 2 ≠ 3 → (∀ i, i < n → s.pte id.slot (va + pageBytes * i) ≠ none) → Completes (.hint acc) s [.csr, .ctx] fun t =>
          Status8 t .morCmdStatus [] 0 ∧ RegsKept [RegName.morCmdStatus.addr []] s t
          ∧ (∀ i, i < n → (KMap.get {} (t.getCtx id.slot).pt (va / pageBytes + i)).hint = s.fld .morArg0 [] 16 2)
          ∧ (∀ page, page < va / pageBytes ∨ va / pageBytes + n ≤ page → KMap.get {} (t.getCtx id.slot).pt page = KMap.get {} (s.getCtx id.slot).pt page)
          ∧ t.getCtx id.slot = { s.getCtx id.slot with pt := (t.getCtx id.slot).pt } ∧ Kept {} [id.slot] s.ctx t.ctx)
      ∧ ((∃ i, i < n ∧ s.pte id.slot (va + pageBytes * i) = none) → Completes (.hint acc) s [.csr] fun t =>
          Status8 t .morCmdStatus [] 6 ∧ RegsKept [RegName.morCmdStatus.addr []] s t)

/-- The shards of a group: data, then P0 and P1 (R262). -/
def shards (n : Nat) (ds : List (List Byte)) : List (Nat × List Byte) :=
  let d := ds.zipIdx.map fun e => (e.2, e.1)
  d ++ [(ds.length, parity false n d), (ds.length + 1, parity true n d)]

/-- RECOVER rebuilds any one or two erased shards of a group from the others (R262). -/
def Claims.ErasureRecovers : Prop :=
  ∀ (n a b : Nat) (ds : List (List Byte)), 1 ≤ ds.length → ds.length ≤ 14 → (∀ d ∈ ds, d.length = n) → a ≤ ds.length + 1 → b ≤ ds.length + 1 →
    ∀ i sh, (i = a ∨ i = b) → (i, sh) ∈ shards n ds →
      (i, sh) ∈ recover ds.length n ((shards n ds).filter fun e => e.1 != a && e.1 != b) a b

/-- The erasure engine (R262, R263), over sources that read clean: ERASURE takes a good descriptor of a management core and is BUSY while one runs; at its end ENCODE has written
both parities, and ACCUM has added the scaled source to the destination, in management memory, and no other byte has changed. -/
def Claims.ErasureEngine : Prop :=
  ∀ (acc : Accessor) (d : List Byte) (o : ErasureOp) (s : State), o = ErasureOp.parse d →
    (s.absent srcMor = false → isCore acc = true →
      (d = s.mgt.read (s.rg .morArg0 []).toNat erasureBytes → s.mor.erasure = none → (s.rg .morArg0 []).toNat % 64 = 0 →
        mgtRange (s.rg .morArg0 []).toNat 16 false = true → o.shapeOk = true → (∀ b ∈ o.buf, b.virtual = false ∧ mgtRange b.addr o.len true = true) →
        Completes (.erasure acc) s [.mor] fun t => t.mor = { s.mor with erasure := some d, erasureBy := some acc })
      ∧ (d = s.mgt.read (s.rg .morArg0 []).toNat erasureBytes → s.mor.erasure = none → (∀ b ∈ o.buf, b.virtual = false) →
          ((s.rg .morArg0 []).toNat % 64 ≠ 0 ∨ o.shapeOk = false) → Completes (.erasure acc) s [.csr] fun t =>
          Status8 t .morCmdStatus [] 6 ∧ RegsKept [RegName.morCmdStatus.addr []] s t)
      ∧ (s.mor.erasure ≠ none → d = s.mgt.read (s.rg .morArg0 []).toNat erasureBytes → (s.rg .morArg0 []).toNat % 64 = 0 →
          mgtRange (s.rg .morArg0 []).toNat 16 false = true → o.shapeOk = true → (∀ b ∈ o.buf, b.virtual = false ∧ mgtRange b.addr o.len true = true) →
          Completes (.erasure acc) s [.csr] fun t => Status8 t .morCmdStatus [] 1 ∧ RegsKept [RegName.morCmdStatus.addr []] s t))
    ∧ (s.mor.erasure = some d → (∀ b ∈ o.buf, b.virtual = false) →
        (o.op = 1 → ∀ p q, o.buf[o.k]? = some p → o.buf[o.k + 1]? = some q → p.addr + o.len ≤ q.addr ∨ q.addr + o.len ≤ p.addr →
          Completes (.erasureComplete {}) s [.mor, .mgt, .csr] fun t =>
            t.mor = { s.mor with erasure := none, erasureBy := none } ∧ Status8 t .morCmdStatus [] 0 ∧ RegsKept [RegName.morCmdStatus.addr []] s t
            ∧ (∀ src, src = (List.range o.k).filterMap (fun i => (o.buf[i]?).map fun b => (i, s.mgt.read b.addr o.len)) →
                t.mgt.read p.addr o.len = parity false o.len src ∧ t.mgt.read q.addr o.len = parity true o.len src)
            ∧ ∀ a, (a < p.addr ∨ p.addr + o.len ≤ a) → (a < q.addr ∨ q.addr + o.len ≤ a) → t.mgt.get a = s.mgt.get a)
        ∧ (o.op = 2 → ∀ src dst, o.buf[0]? = some src → o.buf[1]? = some dst → Completes (.erasureComplete {}) s [.mor, .mgt, .csr] fun t =>
            t.mor = { s.mor with erasure := none, erasureBy := none } ∧ Status8 t .morCmdStatus [] 0 ∧ RegsKept [RegName.morCmdStatus.addr []] s t
            ∧ t.mgt.read dst.addr o.len = gfAdd (s.mgt.read dst.addr o.len) (gfScale o.e0 (s.mgt.read src.addr o.len))
            ∧ ∀ a, a < dst.addr ∨ dst.addr + o.len ≤ a → t.mgt.get a = s.mgt.get a))

/-- The erasure code recovers what it can, and the engine's commands.
Where the manual is open this follows the model's choices in log entries 5 and 97. -/
def Obligations.Erasure : Prop :=
  Claims.ErasureRecovers ∧ Claims.ErasureEngine

/-! ### The Cloakroom (11_cloakroom.md) -/

/-- A Cloakroom command by an owner of the context in slot `k` that its operands name, while no other is in progress. -/
abbrev CloTakes (s : State) (acc : Accessor) (k : Nat) : Prop :=
  s.absent srcClo = false ∧ s.cloOp = none ∧ s.live s.cloId = true ∧ s.owns acc k = true ∧ k = s.cloId.slot

/-- A Cloakroom command has ended with a status, and no other register has changed. -/
abbrev CloEnds (s t : State) (code : Nat) : Prop := Status8 t .cloCmdStatus [] code ∧ RegsKept [RegName.cloCmdStatus.addr []] s t

/-- HBM frames taken in turn are held, and no byte of a stack has changed. -/
abbrev FramesHeld (s t : State) (fs : List (FrameId × Bool)) : Prop :=
  (∀ f ∈ fs, f.1.cxl = false ∧ (KMap.get {} (t.getHbm f.1.unit).frames f.1.frame).held = true) ∧ ∀ m, (t.getHbm m).mem = (s.getHbm m).mem

/-- Frames that no exchange uses have gone back, an HBM frame dirty; every other frame stays as it was, and no byte has changed. -/
abbrev FramesBack (s t : State) (fs : List FrameId) : Prop :=
  (∀ f ∈ fs, s.inExchange f = false →
    (f.cxl = true → f.frame ∉ (t.getCxl f.unit).held ∧ f.frame ∉ (t.getCxl f.unit).clean)
    ∧ (f.cxl = false → (KMap.get {} (t.getHbm f.unit).frames f.frame).held = false ∧ (KMap.get {} (t.getHbm f.unit).frames f.frame).clean = false))
  ∧ (∀ u x, ({ unit := u, frame := x } : FrameId) ∉ fs → KMap.get {} (t.getHbm u).frames x = KMap.get {} (s.getHbm u).frames x)
  ∧ ∀ u, (t.getHbm u).mem = (s.getHbm u).mem ∧ (t.getCxl u).mem = (s.getCxl u).mem

/-- The registers that a release of frames and tiles may change. -/
def releaseRegs (fs : List FrameId) (ts : List Nat) : List Nat :=
  RegName.cloCmdStatus.addr [] :: (fs.map fun f => RegName.memRetired.addr [f.unit])
    ++ ts.flatMap fun x => (List.range 3).map fun w => RegName.tilSyncWatch.addr [x, w]

/-- The registers that clearing tiles puts at reset (R277). -/
def tileRegs (ts : List Nat) : List Nat :=
  ts.flatMap fun x =>
    ([.tilArithSat, .tilSramCe, .tilSramUe, .tilBankWait, .tilCountClamp, .tilSyncDrop, .tilDescSel] : List RegName).map (·.addr [x])
    ++ (List.range 6).map (fun q => RegName.tilQstat.addr [x, q])
    ++ (List.range 3).flatMap fun w => [RegName.tilSyncWatch.addr [x, w], RegName.tilSyncWatchDl.addr [x, w]]

/-- A tile given to a context: DEEP with its objects ACTIVE (R132, R390), cleared first where its release has not been (R277). -/
abbrev givenTile (s : State) (k x : Nat) : Tile :=
  let y := s.getTile x
  let y : Tile := if y.unclear then { state := y.state, ctx := y.ctx, bistQueued := y.bistQueued, bistFrom := y.bistFrom, ueReports := y.ueReports } else y
  { y with state := .granted, ctx := some (s.idOf k), power := .deep, bank := .active }

/-- CREATE and OWNERS (R269, R272, R273): CREATE opens a context in the lowest FREE slot with a generation that is not 0, its creator as its only owner and 8
header frames, and leaves its identifier in CLO_CMD_RESULT; it is BUSY without a FREE slot and DENIED over VC3; OWNERS sets the owner mask, and is
REJECTED where the mask leaves its issuer out. -/
def Claims.CreateAndOwners : Prop :=
  ∀ (acc : Accessor) (s : State),
    (s.absent srcClo = false → s.cloOp = none → s.flt.fatal = false →
      (∀ k fs s1, acc ≠ .vc3 → s.freeSlot = some k → s.takeFrames 8 = some (fs, s1) → Completes (.create acc) s [.csr, .ctx, .hbm, .hbmPtr] fun t =>
          t.getCtx k = { gen := if (s.getCtx k).gen = 0 then 1 else (s.getCtx k).gen, state := .opened,
                         owners := BitVec.ofNat 10 (2 ^ accBit acc), header := fs.map Prod.fst }
          ∧ Kept {} [k] s.ctx t.ctx ∧ fs.length = 8 ∧ FramesHeld s t fs
          ∧ t.rg .cloCmdResult [] = Word.ofNat (t.idOf k).toNat ∧ Status8 t .cloCmdStatus [] 0
          ∧ RegsKept [RegName.cloCmdStatus.addr [], RegName.cloCmdResult.addr []] s t)
      ∧ (acc ≠ .vc3 → s.freeSlot = none → Completes (.create acc) s [.csr] fun t => CloEnds s t 1)
      ∧ (acc = .vc3 → Completes (.create acc) s [.csr] fun t => CloEnds s t 3))
    ∧ ∀ k mask, CloTakes s acc k → acc ≠ .vc3 → mask = BitVec.ofNat 10 s.cloA1 →
        (mask.getLsbD (accBit acc) = true → Completes (.owners acc) s [.csr, .ctx] fun t =>
          t.getCtx k = { s.getCtx k with owners := mask } ∧ Kept {} [k] s.ctx t.ctx ∧ CloEnds s t 0)
        ∧ (mask.getLsbD (accBit acc) = false → Completes (.owners acc) s [.csr] fun t => CloEnds s t 6)

/-- GRANT of each ticket type (R41, R273 to R276, R179, R209, R223, R343): tile rows come with 32 save frames each, each tile DEEP with its objects ACTIVE;
HBM frames in turn and CXL frames, dirty ones marked; the lowest free vault groups; a region that is INSTALLED, to a holder of a group on its stack; request
records with the frames of their penalty histories (log entry 112); a link that is free. A ticket of a block that is absent is ABSENT, one that cannot be
had in full BUSY, and nothing is granted. -/
def Claims.TicketsGranted : Prop :=
  ∀ (acc : Accessor) (s : State) (k a1 a2 : Nat) (c : Ctx), CloTakes s acc k → s.flt.fatal = false → c = s.getCtx k → a1 = s.cloA1 → a2 = s.cloA2 →
    (s.grantAbsent s.cloType a1 a2 = true → Completes (.grant acc) s [.csr] fun t => CloEnds s t 2)
    ∧ (s.grantAbsent s.cloType a1 a2 = false →
    (∀ ts fs s1, s.cloType = 1 → c.state = .opened → c.tiles.length / 32 + a1 ≤ s.gridRows → s.tilesGranted + 32 * a1 ≤ s.planTiles →
        s.pickTiles (32 * a1) = some ts → s.takeFrames (32 * a1) = some (fs, s1) →
        Completes (.grant acc) s [.csr, .ctx, .tile, .hbm, .hbmPtr, .clk, .vault, .net, .link] fun t =>
          t.getCtx k = { c with tiles := c.tiles ++ ts, saveFr := c.saveFr ++ fs.map Prod.fst } ∧ Kept {} [k] s.ctx t.ctx
          ∧ (∀ x ∈ ts, t.getTile x = givenTile s k x)
          ∧ Kept {} ts s.tile t.tile ∧ ts.length = 32 * a1 ∧ fs.length = 32 * a1 ∧ FramesHeld s t fs
          ∧ Status8 t .cloCmdStatus [] 0 ∧ RegsKept (RegName.cloCmdStatus.addr [] :: tileRegs ts) s t
          ∧ ((∀ x ∈ ts, (s.getTile x).unclear = false) → CloEnds s t 0 ∧ OnlyChanges [.csr, .ctx, .tile, .hbm, .hbmPtr, .clk] s t))
    ∧ (∀ fs s1, s.cloType = 2 → (c.state = .opened ∨ c.state = .saved) → s.takeFrames a1 = some (fs, s1) →
        Completes (.grant acc) s [.csr, .ctx, .hbm, .hbmPtr] fun t =>
          t.getCtx k = { c with hbm := c.hbm ++ fs.map Prod.fst, dirty := c.dirty ++ (fs.filter Prod.snd).map Prod.fst }
          ∧ Kept {} [k] s.ctx t.ctx ∧ fs.length = a1 ∧ FramesHeld s t fs ∧ CloEnds s t 0)
    ∧ (∀ fs, s.cloType = 3 → (c.state = .opened ∨ c.state = .saved) → a2 ≤ 3 → s.pickCxl a2 a1 = some fs →
        Completes (.grant acc) s [.csr, .ctx, .cxl] fun t =>
          t.getCtx k = { c with cxl := c.cxl ++ fs, dirty := c.dirty ++ fs.filter fun f => !(s.getCxl f.unit).clean.contains f.frame }
          ∧ Kept {} [k] s.ctx t.ctx ∧ fs.length = a1
          ∧ (∀ f ∈ fs, f.cxl = true ∧ f.frame ∈ (t.getCxl f.unit).held) ∧ (∀ p, (t.getCxl p).mem = (s.getCxl p).mem) ∧ CloEnds s t 0)
    ∧ (s.cloType = 4 → c.state = .opened → a1 ≤ 3 → s.vaultClosed a1 = false → a2 ≤ (s.groupsFree a1).length →
        Completes (.grant acc) s [.csr, .vault] fun t =>
          (∀ g ∈ (s.groupsFree a1).take a2, KMap.get none (t.getVault a1).groups g = some (s.idOf k))
          ∧ Kept none ((s.groupsFree a1).take a2) (s.getVault a1).groups (t.getVault a1).groups ∧ Kept {} [a1] s.vault t.vault
          ∧ (t.getVault a1).regions = (s.getVault a1).regions ∧ (t.getVault a1).mem = (s.getVault a1).mem ∧ CloEnds s t 0)
    ∧ (s.cloType = 5 → a1 ≤ 3 → a2 ≤ 63 → (s.vaultClosed a1 = true ∨ c.state = .saved) → Completes (.grant acc) s [.csr] fun t => CloEnds s t 1)
    ∧ (s.cloType = 5 → c.state = .opened → a1 ≤ 3 → a2 ≤ 63 → s.vaultClosed a1 = false → s.groupsOf k a1 ≠ [] →
        (s.getRegion a1 a2).state = .installed → Completes (.grant acc) s [.csr, .vault] fun t =>
          t.getRegion a1 a2 = { s.getRegion a1 a2 with state := .bound, ctx := some (s.idOf k) }
          ∧ Kept {} [a2] (s.getVault a1).regions (t.getVault a1).regions ∧ Kept {} [a1] s.vault t.vault
          ∧ (t.getVault a1).groups = (s.getVault a1).groups ∧ (t.getVault a1).mem = (s.getVault a1).mem ∧ CloEnds s t 0)
    ∧ (s.cloType = 6 → (c.state = .opened ∨ c.state = .saved) →
        (∀ fs s1, s.quotaSum + a1 ≤ 16384 → s.takeFrames (quotaFrames (c.quota + a1) - c.quotaFr.length) = some (fs, s1) →
          Completes (.grant acc) s [.csr, .ctx, .hbm, .hbmPtr] fun t =>
          t.getCtx k = { c with quota := c.quota + a1, quotaFr := c.quotaFr ++ fs.map Prod.fst } ∧ Kept {} [k] s.ctx t.ctx ∧ FramesHeld s t fs
          ∧ CloEnds s t 0)
        ∧ (16384 < s.quotaSum + a1 ∨ s.takeFrames (quotaFrames (c.quota + a1) - c.quotaFr.length) = none → Completes (.grant acc) s [.csr] fun t => CloEnds s t 1))
    ∧ (s.cloType = 7 → c.state = .opened → a1 ≤ 5 →
        (s.linkFree a1 = true → Completes (.grant acc) s [.csr, .ctx] fun t =>
          a1 ∈ (t.getCtx k).links ∧ (∀ l, l ≠ a1 → (l ∈ (t.getCtx k).links ↔ l ∈ c.links))
          ∧ t.getCtx k = { c with links := (t.getCtx k).links } ∧ Kept {} [k] s.ctx t.ctx ∧ CloEnds s t 0)
        ∧ (s.linkFree a1 = false → Completes (.grant acc) s [.csr] fun t => CloEnds s t 1)))

/-- Contexts are created and granted tickets.
Where the manual is open this follows the model's choices in log entries 17, 37, 38, 65 and 112. -/
def Obligations.ContextsAndGrants : Prop :=
  Claims.CreateAndOwners ∧ Claims.TicketsGranted

/-- RELEASE of each ticket type (R274 to R277, R293): the highest tile rows go, cleared later, with their save frames, and the context's mesh claims leave the claim map; HBM
and CXL frames go back dirty, with the pages that they carry; vault groups, a region that stays INSTALLED, unused records with the frames of their penalty
histories, links. A release of more than the
context holds is REJECTED, and one while a plan is active BUSY.
Where the manual is open this follows the model's choices in log entries 17 and 112. -/
def Obligations.TicketsReleased : Prop :=
  ∀ (acc : Accessor) (s : State) (k a1 a2 : Nat) (c : Ctx), CloTakes s acc k → c = s.getCtx k → a1 = s.cloA1 → a2 = s.cloA2 →
    (c.plan.active = false → c.plan.held = false → c.part.state ≠ .prepared → (c.state = .opened ∨ c.state = .saved) →
      (∀ ts fs, s.cloType = 1 → 32 * a1 ≤ c.tiles.length → ts = lastOf c.tiles (32 * a1) → fs = c.saveFr.drop (c.saveFr.length - ts.length) →
          Completes (.release acc) s [.csr, .ctx, .tile, .hbm, .cxl, .net, .flt] fun t =>
            t.getCtx k = { c with tiles := c.tiles.take (c.tiles.length - ts.length), saveFr := c.saveFr.take (c.saveFr.length - fs.length) }
            ∧ Kept {} [k] s.ctx t.ctx
            ∧ (∀ x ∈ ts, t.getTile x = { s.getTile x with
                state := if (s.getTile x).state = .bad then .bad else .free, ctx := none, unclear := true, power := .off, bank := .unbound,
                waking := false, wakeAt := none })
            ∧ Kept {} ts s.tile t.tile ∧ FramesBack s t fs
            ∧ t.net = { s.net with claims := s.net.claims.filter fun e => match e.2 with
                | some x => x.ctx.slot != k
                | none => true }
            ∧ Status8 t .cloCmdStatus [] 0 ∧ RegsKept (releaseRegs fs ts) s t)
      ∧ (∀ fs, (s.cloType = 2 ∧ a1 ≤ c.hbm.length ∧ fs = lastOf c.hbm a1) ∨ (s.cloType = 3 ∧ a2 ≤ 3 ∧ a1 ≤ (s.cxlOn k a2).length ∧ fs = lastOf (s.cxlOn k a2) a1) →
          Completes (.release acc) s [.csr, .ctx, .hbm, .cxl, .flt] fun t =>
            t.getCtx k = { c with
              hbm := c.hbm.filter fun f => !fs.contains f, cxl := c.cxl.filter fun f => !fs.contains f, dirty := c.dirty.filter fun f => !fs.contains f,
              pt := c.pt.filter fun e => match e.2.frame with
                | some f => !fs.contains f
                | none => true }
            ∧ Kept {} [k] s.ctx t.ctx ∧ FramesBack s t fs ∧ Status8 t .cloCmdStatus [] 0 ∧ RegsKept (releaseRegs fs []) s t)
      ∧ (∀ gs, s.cloType = 4 → a1 ≤ 3 → a2 ≤ (s.groupsOf k a1).length → gs = lastOf (s.groupsOf k a1) a2 →
          (s.regionsOf k a1 = [] ∨ (a2 ≠ 0 ∧ a2 ≠ (s.groupsOf k a1).length)) → Completes (.release acc) s [.csr, .vault] fun t =>
            (∀ g ∈ gs, KMap.get none (t.getVault a1).groups g = none) ∧ Kept none gs (s.getVault a1).groups (t.getVault a1).groups
            ∧ Kept {} [a1] s.vault t.vault ∧ (t.getVault a1).regions = (s.getVault a1).regions ∧ (t.getVault a1).mem = (s.getVault a1).mem
            ∧ CloEnds s t 0)
      ∧ (s.cloType = 5 → a1 ≤ 3 → a2 ∈ s.regionsOf k a1 → Completes (.release acc) s [.csr, .vault] fun t =>
          t.getRegion a1 a2 = { s.getRegion a1 a2 with state := .installed, ctx := none }
          ∧ Kept {} [a2] (s.getVault a1).regions (t.getVault a1).regions ∧ Kept {} [a1] s.vault t.vault
          ∧ (t.getVault a1).groups = (s.getVault a1).groups ∧ (t.getVault a1).mem = (s.getVault a1).mem ∧ CloEnds s t 0)
      ∧ (∀ n fs, s.cloType = 6 → fs = c.quotaFr.drop (quotaFrames n) →
          (a1 ≠ 0 ∧ a1 ≤ s.unusedRecs k ∧ n = c.quota - a1) ∨ (a1 = 0 ∧ s.reqsOf k = [] ∧ s.watchesOf k = [] ∧ n = 0) →
          Completes (.release acc) s [.csr, .ctx, .hbm, .cxl, .flt] fun t =>
            t.getCtx k = { c with quota := n, quotaFr := c.quotaFr.take (quotaFrames n) } ∧ Kept {} [k] s.ctx t.ctx ∧ FramesBack s t fs
            ∧ Status8 t .cloCmdStatus [] 0 ∧ RegsKept (releaseRegs fs []) s t)
      ∧ (s.cloType = 6 → a1 = 0 → KMap.wf {} s.req = true → ∃ t, exec (.release acc) s = .next t ∧ (t.getCtx k).quota = 0 ∧ t.reqsOf k = []
          ∧ Status8 t .cloCmdStatus [] 0)
      ∧ (s.cloType = 7 → (a2 = 1 ∨ (a2 = 0 ∧ a1 ∈ c.links)) → Completes (.release acc) s [.csr, .ctx] fun t =>
          t.getCtx k = { c with links := if a2 = 1 then [] else c.links.filter (· ≠ a1) } ∧ Kept {} [k] s.ctx t.ctx ∧ CloEnds s t 0))
    ∧ (∀ u, (s.cloType = 1 ∧ u = c.tiles.length / 32) ∨ (s.cloType = 2 ∧ u = c.hbm.length) ∨ (s.cloType = 6 ∧ u = s.unusedRecs k) →
        (u < a1 → Completes (.release acc) s [.csr] fun t => CloEnds s t 6)
        ∧ (a1 ≤ u → c.plan.active = true → Completes (.release acc) s [.csr] fun t => CloEnds s t 1))

/-- Tiles and frames at work (R276 to R279, R286): REPAIR replaces a BAD tile of an open context by the lowest spare, which joins it cleared, at once where no load runs;
TILE_BIST begins at once on a tile that no ticket names, is DENIED on one under a ticket of another, waits with QUEUE and is BUSY else, and ends with the tile
what it was or BAD; a released tile is cleared once nothing is on its way to it, and a dirty free frame of a stack or a port is zeroed and becomes clean. -/
def Claims.TilesAndFrames : Prop :=
  ∀ (acc : Accessor) (s : State),
    (∀ k vt old sp, CloTakes s acc k → s.flt.fatal = false → (s.getCtx k).state = .opened → (s.getCtx k).plan.active = false → s.loading k = false →
        vt = 32 * fieldN s.cloA1 0 4 + fieldN s.cloA1 4 5 → (s.getCtx k).tiles[vt]? = some old → (s.getTile old).state = .bad → s.spare = some sp →
        ∃ t, exec (.repair acc) s = .next t ∧ OnlyChanges [.csr, .ctx, .tile, .clk, .vault] s t
          ∧ t.getCtx k = { s.getCtx k with tiles := (s.getCtx k).tiles.set vt sp } ∧ Kept {} [k] s.ctx t.ctx
          ∧ t.getTile old = { s.getTile old with ctx := none, power := .off, bank := .unbound }
          ∧ t.getTile sp = { state := .granted, ctx := some (s.idOf k), bistFrom := (s.getTile sp).bistFrom, ueReports := (s.getTile sp).ueReports,
                             power := .deep, bank := .active }
          ∧ Kept {} [old, sp] s.tile t.tile ∧ Status8 t .cloCmdStatus [] 0)
    ∧ (∀ k vt old sp, CloTakes s acc k → s.flt.fatal = false → (s.getCtx k).state = .saved → vt = 32 * fieldN s.cloA1 0 4 + fieldN s.cloA1 4 5 →
        (s.getCtx k).badTiles.find? (fun b => b.1 == vt) = some (vt, old) → (s.getTile old).state = .bad → s.spare = some sp →
        Completes (.repair acc) s [.csr, .ctx, .tile] fun t =>
          t.getCtx k = { s.getCtx k with badTiles := (s.getCtx k).badTiles.filter fun b => b.1 != vt } ∧ Kept {} [k] s.ctx t.ctx
          ∧ t.getTile old = { s.getTile old with ctx := none, power := .off, bank := .unbound } ∧ t.getTile sp = { s.getTile sp with state := .free }
          ∧ Kept {} [old, sp] s.tile t.tile ∧ CloEnds s t 0)
    ∧ (∀ k l vt old sp, CloTakes s acc k → s.flt.fatal = false → (s.getCtx k).state = .opened → (s.getCtx k).plan.active = false → s.loader = some l →
        l.ctx.slot = k → vt = 32 * fieldN s.cloA1 0 4 + fieldN s.cloA1 4 5 → (s.getCtx k).tiles[vt]? = some old → (s.getTile old).state = .bad →
        s.spare = some sp → Completes (.repair acc) s [.csr, .loader] fun t =>
          t.loader = some { l with repairs := l.repairs ++ [vt] } ∧ CloEnds s t 0)
    ∧ (∀ (q : Bool) x, s.absent srcClo = false → s.cloOp = none → x = s.fld .cloArg0 [] 0 10 →
        (576 ≤ x → (s.getTile x).ctx = none → Completes (.tileBist acc q) s [.csr] fun t => CloEnds s t 6)
        ∧ (x < 576 → (s.getTile x).state ≠ .failed →
          (s.tileUnticketed x = true → Completes (.tileBist acc q) s [.csr, .tile, .clk, .vault] fun t =>
            t.getTile x = { state := .bist, bistFrom := (s.getTile x).state, ctx := (s.getTile x).ctx, ueReports := (s.getTile x).ueReports, unclear := true }
            ∧ Kept {} [x] s.tile t.tile ∧ Status8 t .cloCmdStatus [] 0 ∧ RegsKept (RegName.cloCmdStatus.addr [] :: tileRegs [x]) s t)
          ∧ (∀ i, (s.getTile x).ctx = some i → s.owns acc i.slot = false → Completes (.tileBist acc q) s [.csr] fun t => CloEnds s t 3)
          ∧ ((∀ i, (s.getTile x).ctx = some i → s.owns acc i.slot = true) → s.tileUnticketed x = false →
            (q = true → Completes (.tileBist acc q) s [.csr, .tile] fun t =>
              t.getTile x = { s.getTile x with bistQueued := true } ∧ Kept {} [x] s.tile t.tile ∧ t.bit .cloCmdStatus [] 10 = true ∧ CloEnds s t 0)
            ∧ (q = false → Completes (.tileBist acc q) s [.csr] fun t => CloEnds s t 1)))
        ∧ (x < 576 → (s.getTile x).state = .failed → Completes (.tileBist acc q) s [.csr] fun t => CloEnds s t 2))
    ∧ (∀ (x : TileIx) (p : Bool) (y : Tile), y = s.getTile x.val →
        (y.bistQueued = true → s.tileUnticketed x.val = true → Completes (.tileBistQueuedStart x) s [.csr, .tile, .clk, .vault] fun t =>
          t.getTile x.val = { state := .bist, bistFrom := y.state, ctx := y.ctx, ueReports := y.ueReports, unclear := true } ∧ Kept {} [x.val] s.tile t.tile)
        ∧ ((y.bistQueued = false ∨ s.tileUnticketed x.val = false) → exec (.tileBistQueuedStart x) s = .next s)
        ∧ (y.state = .bist → Completes (.tileBistDone x p) s [.tile] fun t =>
          t.getTile x.val = { y with state := if p then y.bistFrom else .bad } ∧ Kept {} [x.val] s.tile t.tile)
        ∧ (y.unclear = true → y.ctx = none → y.state ≠ .bist → s.tileQuiet x.val = true → Completes (.tileClear x) s [.csr, .tile, .vault] fun t =>
          t.getTile x.val = { state := y.state, bistQueued := y.bistQueued, bistFrom := y.bistFrom, ueReports := y.ueReports }
          ∧ Kept {} [x.val] s.tile t.tile ∧ Kept {} [] s.vault t.vault ∧ RegsKept (tileRegs [x.val]) s t
          ∧ (∀ q, q < 6 → t.rg .tilQstat [x.val, q] = 0) ∧ t.rg .tilArithSat [x.val] = 0 ∧ t.rg .tilSramCe [x.val] = 0 ∧ t.rg .tilSramUe [x.val] = 0
          ∧ t.rg .tilBankWait [x.val] = 0 ∧ t.rg .tilCountClamp [x.val] = 0 ∧ t.rg .tilSyncDrop [x.val] = 0)
        ∧ ((y.unclear = false ∨ y.ctx ≠ none ∨ y.state = .bist ∨ s.tileQuiet x.val = false) → exec (.tileClear x) s = .next s))
    ∧ ∀ (m : StackIx) (frame : Nat) (i : FrameInfo), i = KMap.get {} (s.getHbm m.val).frames frame →
        (frame < grantFrames → (s.getHbm m.val).phase = .ready → (s.getHbm m.val).mem.wf = true → i.held = false → i.clean = false → i.retired = false →
          Completes (.frameZero false m frame) s [.hbm] fun t =>
            (∀ a, (t.getHbm m.val).mem.get a = if frame * pageBytes ≤ a ∧ a < (frame + 1) * pageBytes then 0 else (s.getHbm m.val).mem.get a)
            ∧ KMap.get {} (t.getHbm m.val).frames frame = { i with clean := true }
            ∧ Kept {} [frame] (s.getHbm m.val).frames (t.getHbm m.val).frames ∧ Kept {} [m.val] s.hbm t.hbm)
        ∧ (i.held = true ∨ i.clean = true → exec (.frameZero false m frame) s = .next s)
        ∧ (frame ∈ s.cxlFree m.val → frame ∉ (s.getCxl m.val).clean → (s.getCxl m.val).mem.wf = true → Completes (.frameZero true m frame) s [.cxl] fun t =>
            (∀ a, (t.getCxl m.val).mem.get a = if frame * pageBytes ≤ a ∧ a < (frame + 1) * pageBytes then 0 else (s.getCxl m.val).mem.get a)
            ∧ t.getCxl m.val = { s.getCxl m.val with mem := (t.getCxl m.val).mem, clean := frame :: (s.getCxl m.val).clean } ∧ Kept {} [m.val] s.cxl t.cxl)
        ∧ (frame ∉ s.cxlFree m.val ∨ frame ∈ (s.getCxl m.val).clean → exec (.frameZero true m frame) s = .next s)

/-- No vault request of a context runs on a stack, and none has outlived its plan there. -/
abbrev Quiet (s : State) (k v : Nat) : Prop :=
  (∀ e ∈ (s.getVault v).ending, e.owner ≠ s.idOf k) ∧ ∀ r ∈ KMap.get [] (s.getVault v).queue k, r.started = false

/-- The end of a context (R269, R271, R288, R460): DESTROY puts the slot into QUARANTINE for 1,250,000 ticks of MT under the next generation and takes back everything the
context holds, but the groups of a stack where a request of it still runs (R204); it is BUSY while the context is being saved or restored. The quarantine ends when that time is over and the partition entry is FREE. -/
def Claims.ContextsEnd : Prop :=
  ∀ (s : State),
    (∀ (acc : Accessor) k c, CloTakes s acc k → c = s.getCtx k →
      ((c.state = .saving ∨ c.state = .restoring) → Completes (.destroy acc) s [.csr] fun t => CloEnds s t 1)
      ∧ (c.state ≠ .saving → c.state ≠ .restoring → ∃ t, exec (.destroy acc) s = .next t ∧ Status8 t .cloCmdStatus [] 0 ∧ t.pending = s.pending
          ∧ (t.getCtx k).state = .quarantine ∧ (t.getCtx k).gen = (if c.gen = 2047 then 1 else c.gen + 1)
          ∧ (t.getCtx k).quarUntil = s.time.mt + 1250000 ∧ (t.getCtx k).tiles = [] ∧ (t.getCtx k).hbm = [] ∧ (t.getCtx k).cxl = []
          ∧ (t.getCtx k).quota = 0 ∧ (t.getCtx k).quotaFr = [] ∧ (t.getCtx k).image = none ∧ (t.getCtx k).save = none ∧ (t.getCtx k).owners = 0
          ∧ (t.getCtx k).part.state = (if c.part.state = .free ∨ c.part.state = .suspended then .free else .releasing)
          ∧ (c.part.state = .free → (t.getCtx k).links = [])
          ∧ (∀ x ∈ c.tiles, (t.getTile x).ctx = none ∧ (t.getTile x).unclear = true)
          ∧ ∀ v, v < 4 → ((∃ e ∈ (s.getVault v).ending, e.owner = s.idOf k) → (t.getVault v).groups = (s.getVault v).groups)
            ∧ (Quiet s k v → ∀ g, g < 8 → KMap.get none (t.getVault v).groups g ≠ some (s.idOf k))))
    ∧ ∀ k : CtxSlot, (s.getCtx k.val).state = .quarantine →
        ((s.getCtx k.val).quarUntil.toNat ≤ s.mtN → (s.getCtx k.val).part.state = .free → Completes (.quarantineEnd k) s [.ctx] fun t =>
          t.getCtx k.val = { gen := (s.getCtx k.val).gen } ∧ Kept {} [k.val] s.ctx t.ctx)
        ∧ ((s.mtN < (s.getCtx k.val).quarUntil.toNat ∨ (s.getCtx k.val).part.state ≠ .free) → exec (.quarantineEnd k) s = .next s)

/-- Tiles and frames at work, and the end of a context.
Where the manual is open this follows the model's choices in log entries 18, 38 and 65. -/
def Obligations.TilesFramesAndEnds : Prop :=
  Claims.TilesAndFrames ∧ Claims.ContextsEnd

/-- Saving (R149, R150, R280 to R282, R309, R357): PREEMPT saves a context at once whose plan is IDLE or ENDED, whose route banks end with that, and stands a stop at PCY + 1 for one whose plan runs on a
single chip; the drain ends when nothing of the context is in flight, and at CLO_DRAIN_LIMIT the command ends with TIMEOUT and L1 PREEMPT_TIMEOUT; the
save keeps the tiles with their objects SUSPENDED, writes each tile's record to its save frame, returns tiles, groups and links, and ends the command OK.
Where the manual is open this follows the model's choices in log entries 62 and 63. -/
def Obligations.Saving : Prop :=
  ∀ (s : State) (k : CtxSlot) (c : Ctx), c = s.getCtx k.val →
    (∀ acc : Accessor, CloTakes s acc k.val → s.cloA1 ≤ 10000000 → c.state = .opened → c.part.state ≠ .prepared →
      (c.plan.active = false → Completes (.preempt acc) s [.ctx, .cloOp, .net] fun t =>
        t.cloOp = some (.preempt k.val) ∧ t.getCtx k.val = { c with
          state := .saving, drainFrom := s.mtN, drained := false, part := { c.part with preUntil := none, preempt := none, go := false } }
        ∧ Kept {} [k.val] s.ctx t.ctx ∧ t.net = { s.net with routes := t.net.routes }
        ∧ (Rising s.net.routes → ∀ i, KMap.get 0 t.net.routes i = if i % 8192 / 256 = k.val then 0 else KMap.get 0 s.net.routes i))
      ∧ (c.plan.active = true → c.part.multi = false → Completes (.preempt acc) s [.ctx, .cloOp] fun t =>
        t.cloOp = some (.preempt k.val)
        ∧ t.getCtx k.val = { c with preemptP := c.plan.pcy + 1, plan := { c.plan with stopP := some (c.plan.pcy + 1).toNat } }
        ∧ Kept {} [k.val] s.ctx t.ctx))
    ∧ (c.state = .saving → c.drained = false →
      (s.drainDone k.val = true → Completes (.saveDrainEnd k) s [.ctx] fun t => t.getCtx k.val = { c with drained := true } ∧ Kept {} [k.val] s.ctx t.ctx)
      ∧ (s.drainDone k.val = false → exec (.saveDrainEnd k) s = .next s)
      ∧ (s.mtN < c.drainFrom + min 0x393870 (s.fld .cloDrainLimit [] 0 32) → exec (.preemptTimeout k) s = .next s)
      ∧ (c.drainFrom + min 0x393870 (s.fld .cloDrainLimit [] 0 32) ≤ s.mtN → s.cloOp = some (.preempt k.val) →
          ∃ t0, OnlyChanges [.csr, .cloOp] s t0 ∧ t0.cloOp = none ∧ CloEnds s t0 7
            ∧ exec (.preemptTimeout k) s = .next ((against t0 .preemptTimeout srcClo k.val).modCtx k.val fun x => { x with state := .opened })))
    ∧ (c.state = .saving → c.drained = true → s.cloOp = some (.preempt k.val) →
        ∃ t, exec (.saveComplete k) s = .next t ∧ OnlyChanges [.csr, .ctx, .tile, .vault, .link, .net, .cloOp, .out, .hbm, .cxl, .freeCtr] s t
          ∧ t.cloOp = none ∧ Status8 t .cloCmdStatus [] 0
          ∧ (t.getCtx k.val).state = .saved ∧ (t.getCtx k.val).save = some (s.saveArea k.val)
          ∧ (s.saveArea k.val).tiles = c.tiles.map (fun x => { s.getTile x with bank := .suspended }) ∧ (t.getCtx k.val).tiles = [] ∧ (t.getCtx k.val).links = []
          ∧ (t.getCtx k.val).hbm = c.hbm ∧ (t.getCtx k.val).cxl = c.cxl ∧ (t.getCtx k.val).plan.pcy = c.plan.pcy
          ∧ (t.getCtx k.val).plan.state = c.plan.state ∧ (t.getCtx k.val).owners = c.owners ∧ (t.getCtx k.val).image = c.image
          ∧ (c.part.state = .committed ∨ c.part.state = .joined → (t.getCtx k.val).part.state = .suspended)
          ∧ (∀ x ∈ c.tiles, (s.getTile x).state = .granted → t.getTile x = { s.getTile x with
              state := .free, ctx := none, unclear := true, power := .off, bank := .unbound, waking := false, wakeAt := none })
          ∧ Kept {} c.tiles s.tile t.tile ∧ (∀ v, v < 4 → t.groupsOf k.val v = []) ∧ t.net.routes = s.net.routes
          ∧ (Canonical s → c.saveFr.Nodup → (∀ f ∈ c.saveFr, f.cxl = false ∧ f ∉ c.header) → ∀ (i x : Nat) (f : FrameId), c.tiles[i]? = some x →
              c.saveFr[i]? = some f → (∀ off, off < 0x180000 → t.frameRead f off 1 = (s.getTile x).sram.read off 1)
                ∧ ∀ off, off < 0x8000 → t.frameRead f (0x180000 + off) 1 = (s.getTile x).desc.read off 1))

/-- Restoring and rebinding (R278, R283 to R285, R401): RESUME is REJECTED where the save is lost or a tile of it is BAD, and else grants again what the save
names, all of it or BUSY; when the tiles have their records back, the context is open, its plan held where it had not ended, and the command ends OK; REBIND gives
the selected tickets of a context that then ends to a new one of its issuer, or saves the source first.
Where the manual is open this follows the model's choices in log entries 63 and 64. -/
def Obligations.Restoring : Prop :=
  ∀ (s : State) (k : Nat) (c : Ctx), c = s.getCtx k →
    (∀ acc a, CloTakes s acc k → s.flt.fatal = false → c.state = .saved → c.save = some a →
      ((c.saveDead = true ∨ c.badTiles ≠ []) → Completes (.resume acc) s [.csr] fun t => CloEnds s t 6)
      ∧ (c.saveDead = false → c.badTiles = [] →
        (regrant s k a = none → Completes (.resume acc) s [.csr] fun t => CloEnds s t 1)
        ∧ ∀ s1, regrant s k a = some s1 → Completes (.resume acc) s [.csr, .ctx, .tile, .vault, .net, .link, .clk, .cloOp] fun t =>
            t.cloOp = some (.resume k) ∧ t.getCtx k = { s1.getCtx k with state := .restoring } ∧ (t.getCtx k).tiles.length = 32 * a.rows
            ∧ (∀ x ∈ (t.getCtx k).tiles, (s.tileFree x = true) ∧ (t.getTile x).state = .granted ∧ (t.getTile x).ctx = some (s.idOf k))
            ∧ (∀ l ∈ a.links, l ∈ (t.getCtx k).links) ∧ RegsKept (tileRegs (t.getCtx k).tiles) s t ∧ Kept {} [k] s.ctx t.ctx))
    ∧ (∀ (q : CtxSlot) a, q.val = k → c.state = .restoring → c.save = some a → KMap.get 0 s.net.unlockAt k ≤ s.mtN → s.cloOp = some (.resume k) →
        c.tiles.Nodup → a.links.Nodup →
        ∃ t, exec (.restoreComplete q) s = .next t ∧ OnlyChanges [.csr, .ctx, .tile, .link, .net, .cloOp] s t ∧ t.cloOp = none
          ∧ Status8 t .cloCmdStatus [] 0
          ∧ (t.getCtx k).state = .opened ∧ (t.getCtx k).save = none ∧ (t.getCtx k).plan = { c.plan with held := c.plan.active }
          ∧ (c.part.state = .suspended → (t.getCtx k).part.state = .joined)
          ∧ (∀ e ∈ c.tiles.zip a.tiles, (t.getTile e.1).sram = e.2.sram ∧ (t.getTile e.1).desc = e.2.desc ∧ (t.getTile e.1).sync = e.2.sync
              ∧ (t.getTile e.1).issueQ = e.2.issueQ ∧ (t.getTile e.1).acc = e.2.acc ∧ (t.getTile e.1).masks = e.2.masks ∧ (t.getTile e.1).pc = e.2.pc
              ∧ (t.getTile e.1).inbox = e.2.inbox ∧ (t.getTile e.1).outbox = e.2.outbox ∧ (t.getTile e.1).bank = .active
              ∧ (t.getTile e.1).ctx = (s.getTile e.1).ctx)
          ∧ (∀ e ∈ a.links.zip a.bufs, (t.getLink e.1).buf = e.2.1) ∧ Kept {} c.tiles s.tile t.tile)
    ∧ (∀ (q : CtxSlot), q.val = k → c.state = .restoring → s.mtN < KMap.get 0 s.net.unlockAt k → exec (.restoreComplete q) s = .next s)
    ∧ (∀ acc types, CloTakes s acc k → s.flt.fatal = false → acc ≠ .vc3 → types = s.cloA1 → types ≤ 255 → types % 2 = 0 → c.part.state ≠ .prepared →
        s.freeSlot.isSome = true → (s.takeFrames 8).isSome = true → c.state = .opened → c.plan.active = false → s.cloType = 1 →
        hasType types 2 = false → hasType types 3 = false → hasType types 5 = false → hasType types 6 = false →
        Completes (.rebind acc) s [.ctx, .cloOp, .net] fun t => (∃ j, s.freeSlot = some j ∧ t.cloOp = some (.rebind k j types (accBit acc)))
          ∧ (t.getCtx k).state = .saving ∧ (t.getCtx k).drained = false ∧ (t.getCtx k).drainFrom = s.mtN ∧ Kept {} [k] s.ctx t.ctx)
    ∧ ∀ acc j types fs s1, CloTakes s acc k → s.flt.fatal = false → acc ≠ .vc3 → s.cloType = 0 → types = s.cloA1 → types ≤ 255 → types % 2 = 0 →
        (c.state = .opened ∨ c.state = .saved) → (c.part.multi = false ∨ c.plan.active = false) → c.part.state ≠ .prepared → s.freeSlot = some j →
        s.takeFrames 8 = some (fs, s1) → ∃ t, exec (.rebind acc) s = .next t ∧ Status8 t .cloCmdStatus [] 0 ∧ t.pending = s.pending
          ∧ (t.getCtx j).state = .opened ∧ (t.getCtx j).owners = BitVec.ofNat 10 (2 ^ accBit acc) ∧ (t.getCtx j).header = fs.map Prod.fst
          ∧ (t.getCtx j).tiles = (if hasType types 1 then c.tiles else [])
          ∧ (t.getCtx j).hbm = (if hasType types 2 then c.hbm else []) ∧ (t.getCtx j).cxl = (if hasType types 3 then c.cxl else [])
          ∧ (t.getCtx j).dirty = (t.getCtx j).hbm ++ (t.getCtx j).cxl ∧ (t.getCtx j).quota = (if hasType types 6 then c.quota else 0)
          ∧ (t.getCtx j).quotaFr = (if hasType types 6 then c.quotaFr else [])
          ∧ (t.getCtx j).links = (if hasType types 7 then c.links else [])
          ∧ (hasType types 4 = true → ∀ v, v < 4 → ∀ g ∈ s.groupsOf k v, g ∈ t.groupsOf j v)
          ∧ t.rg .cloCmdResult [] = Word.ofNat (t.idOf j).toNat
          ∧ (t.getCtx k).state = .quarantine ∧ (t.getCtx k).quarUntil = s.time.mt + 1250000 ∧ ∀ v, v < 4 → Quiet s k v → ∀ g, g < 8 → KMap.get none (t.getVault v).groups g ≠ some (s.idOf k)

/-! ### Loading a plan image (07_plan_images.md) -/

/-- LDR_CMD (R12, R166, R175): refused, with the reason in LDR_REFUSE and no change to LDR_STATUS, for a stale identifier, an accessor that is no owner, an unaligned LDR_SRC or a range outside
management memory, and a context whose load cannot begin; else a load begins, which takes the image's bytes and the mapping of the moment, and clears what an earlier
plan of the context left, but for what the next step message has to carry (R215). The load's end rejects an image whose first pass fails and leaves its reason and place, changing nothing else; where the passes
accept, the context holds the image with its plan IDLE, each mapped tile holds its initial state, and LDR_CHIP names the chip's entry.
Where the manual is open this follows the model's choices in log entries 57, 60, 61, 117, 118, 119 and 121. -/
def Obligations.ImageLoads : Prop :=
  ∀ (s : State),
    (∀ (acc : Accessor) (v : Word) (id : CtxId) (c : Ctx) (src len : Nat), s.absent srcClo = false → id = CtxId.ofNat v.toNat → c = s.getCtx id.slot →
      src = (s.rg .ldrSrc []).toNat → len = (s.rg .ldrLen []).toNat →
      (∀ st, (s.live id = false ∧ st = 4) ∨ (s.live id = true ∧ s.owns acc id.slot = false ∧ st = 3)
          ∨ (s.live id = true ∧ s.owns acc id.slot = true ∧ (src % 64 ≠ 0 ∨ mgtRange src len false = false) ∧ st = 6)
          ∨ (s.live id = true ∧ s.owns acc id.slot = true ∧ src % 64 = 0 ∧ mgtRange src len false = true ∧ s.canLoad id.slot = false ∧ st = 1) →
          Completes (.imageLoad acc v) s [.csr] fun t => t.fld .ldrRefuse [] 0 8 = st ∧ t.fld .ldrRefuse [] 8 5 = id.slot ∧ t.bit .ldrRefuse [] 13 = true
            ∧ RegsKept [RegName.ldrRefuse.addr []] s t)
      ∧ (s.live id = true → s.owns acc id.slot = true → src % 64 = 0 → mgtRange src len false = true → s.canLoad id.slot = true →
          Completes (.imageLoad acc v) s [.csr, .ctx, .net, .vault, .loader, .cloOp] fun t =>
            t.loader = some { ctx := id, bytes := s.mgt.read src len, tiles := c.tiles }
            ∧ t.getCtx id.slot = { c with
                image := none, pt := [], varIdx := [], lostMark := false, plan := {},
                serve := { tailors := c.serve.tailors, newReq := c.serve.newReq, release := c.serve.release },
                part := { c.part with preempt := none, preUntil := none, go := false } }
            ∧ Kept {} [id.slot] s.ctx t.ctx ∧ t.bit .ldrStatus [] 0 = true ∧ t.bit .ldrStatus [] 1 = false ∧ t.fld .ldrStatus [] 24 5 = id.slot
            ∧ (∀ v, v < 4 → KMap.get [] (t.getVault v).queue id.slot = [] ∧ (t.getVault v).mem = (s.getVault v).mem
                ∧ (t.getVault v).regions = (s.getVault v).regions ∧ (t.getVault v).groups = (s.getVault v).groups)
            ∧ (s.cloOp = none → t.cloOp = none ∧ t.rg .cloCmdStatus [] = s.rg .cloCmdStatus [])
            ∧ RegsKept (RegName.ldrStatus.addr [] :: RegName.cloCmdStatus.addr [] :: ((List.range 6).map fun j => RegName.ldrCtxImage.addr [id.slot, j])
                ++ (List.range 64).map fun a => RegName.mgtAper.addr [a]) s t))
    ∧ ∀ (ue : Bool) (l : Loader) (im : Img), s.loader = some l → l.repairs = [] → im = Img.parse l.bytes →
      (∀ r, im.pass1 ue = some r → Completes (.imageLoadDone ue) s [.csr, .loader] fun t => t.loader = none
          ∧ t.bit .ldrStatus [] 0 = false ∧ t.bit .ldrStatus [] 1 = true ∧ t.fld .ldrStatus [] 8 8 = 6 ∧ t.fld .ldrStatus [] 16 8 = r.code % 256
          ∧ t.fld .ldrWhere [] 0 32 = r.index % 2 ^ 32 ∧ t.fld .ldrWhere [] 32 16 = r.sec % 65536
          ∧ RegsKept [RegName.ldrStatus.addr [], RegName.ldrWhere.addr []] s t)
      ∧ (ue = true → im.pass1 ue = some { code := 0x01 })
      ∧ (ue = false → (l.bytes.length < 256 ∨ leAt l.bytes 0 4 ≠ 0x4C505753 ∨ leAt l.bytes 5 1 ≠ 1
          ∨ sha384 (l.bytes.take (l.bytes.length - 48)) ≠ l.bytes.drop (l.bytes.length - 48)) → im.pass1 ue = some { code := 0x02 })
      ∧ ∀ c s1, im.pass1 ue = none → s.pass2 l.ctx.slot im = none → s.member l.ctx.slot im = some c → s1 = s.setRg .ldrChip [] (Word.ofNat c) →
          s1.laterPasses l.ctx.slot im c l.tiles = none → s1.bankWaits l.ctx.slot im c = false → l.tiles.Nodup → 32 * im.h.vrows ≤ l.tiles.length →
          ∃ t, exec (.imageLoadDone ue) s = .next t ∧ OnlyChanges [.csr, .ctx, .tile, .hbm, .cxl, .net, .loader, .out, .vault] s t ∧ t.loader = none
            ∧ t.bit .ldrStatus [] 0 = false ∧ t.bit .ldrStatus [] 1 = true ∧ t.fld .ldrStatus [] 8 8 = 0 ∧ t.fld .ldrStatus [] 16 8 = 0
            ∧ t.rg .ldrChip [] = Word.ofNat c
            ∧ (t.getCtx l.ctx.slot).image = some (im.keep c) ∧ (t.getCtx l.ctx.slot).plan = {} ∧ (t.getCtx l.ctx.slot).dirty = []
            ∧ (t.getCtx l.ctx.slot).tiles = (s.getCtx l.ctx.slot).tiles ∧ (t.getCtx l.ctx.slot).hbm = (s.getCtx l.ctx.slot).hbm
            ∧ Kept {} [l.ctx.slot] s.ctx t.ctx
            ∧ (∀ vt, vt < 32 * im.h.vrows → t.getTile (l.tiles.getD vt 576)
                = loadTile im c vt (s.vaultBases l.ctx.slot im c) (s.getTile (l.tiles.getD vt 576)))
            ∧ Kept {} l.tiles s.tile t.tile

/-! ### Partitions (14_partitions.md) -/

/-- A partition command by a management core that owns the context in slot `k` which its operands name. -/
abbrev PartTakes (s : State) (acc : Accessor) (k : Nat) : Prop :=
  s.absent srcNet = false ∧ isCore acc = true ∧ s.live s.partArg = true ∧ s.owns acc k = true ∧ k = s.partArg.slot

/-- A partition command has ended with a status, and no other register has changed. -/
abbrev PartEnds (s t : State) (code : Nat) : Prop := Status8 t .netPartCmdStatus [] code ∧ RegsKept [RegName.netPartCmdStatus.addr []] s t

/-- No packet header is sampled (R313). -/
abbrev SampleOff (s : State) : Prop := s.fld .netSampleCtl [] 0 5 = 0

/-- A machine packet waits on a virtual channel of a link, behind what waited there. -/
abbrev Queued (s t : State) (l vc kind src : Nat) (body : List Byte) : Prop :=
  ∃ seq, t.getLink l = { s.getLink l with
    vcq := KMap.upd [] (s.getLink l).vcq vc fun q => q ++ flitsOf false (packet { kind := kind, age := s.ageNow, src := src, dest := s.farOf l, seq := seq } body) none }

/-- The joined links to a chip's children in the tree rooted at a coordinate. -/
def joinedKids (s : State) (k root : Nat) : List Nat :=
  (s.childLinks k root).filter (s.isJoined k)

/-- A released partition number is in quarantine for 2,500,000 ticks of MT. -/
abbrev NumberHeld (s t : State) (part : Nat) : Prop :=
  ∃ i, i < 64 ∧ t.bit .netPartQuar [i] 16 = true ∧ t.fld .netPartQuar [i] 0 16 = part % 65536 ∧ KMap.get 0 t.partQuar i = s.time.mt + 2500000
    ∧ RegsKept [RegName.netPartQuar.addr [i]] s t ∧ Kept 0 [i] s.partQuar t.partQuar

/-- JOIN, LEAVE and what follows a LEAVE (R270, R352, R353, R356, R357): JOIN binds the box's internal links to the context and makes its entry JOINED; it is ABSENT where one of them is (R41), a PART or GEN of 0
is REJECTED and an entry that is not FREE makes it BUSY; LEAVE puts a JOINED entry in RELEASING, frees a SUSPENDED one, is REJECTED
without one and BUSY else; at the end of RELEASING the LINK tickets go back, the entry is FREE and its number in quarantine, until its time is over. The service
processor is DENIED. -/
def Claims.Membership : Prop :=
  ∀ (s : State),
    (∀ acc k c part gen origin extent ls, PartTakes s acc k → c = s.getCtx k → part = s.fld .netPartArg0 [] 16 16 → gen = s.fld .netPartArg0 [] 32 8 →
      origin = s.fld .netPartArg1 [] 0 15 → extent = s.fld .netPartArg1 [] 15 15 → ls = s.internalLinks origin extent →
      ((∃ l ∈ ls, s.absent (srcLnk l) = true) → Completes (.join acc) s [.csr] fun t => PartEnds s t 2)
      ∧ ((∀ l ∈ ls, s.absent (srcLnk l) = false) → part = 0 ∨ gen = 0 → Completes (.join acc) s [.csr] fun t => PartEnds s t 6)
      ∧ ((∀ l ∈ ls, s.absent (srcLnk l) = false) → part ≠ 0 → gen ≠ 0 → (∀ i, i < 3 → axis extent i < s.size i ∧ axis origin i < s.size i) → s.inBox s.self origin extent = true →
          (∀ l ∈ c.links, l ∈ ls) →
          ((c.part.state ≠ .free ∨ c.state ≠ .opened) → Completes (.join acc) s [.csr] fun t => PartEnds s t 1)
          ∧ (c.part.state = .free → c.state = .opened → (∀ l ∈ ls, l ∉ c.links → s.linkFree l = true) → Completes (.join acc) s [.csr, .ctx] fun t =>
              (t.getCtx k).part = { state := .joined, part := part, gen := gen, ctxGen := c.gen, origin := origin, extent := extent,
                                    staging := (s.rg .netPartArg2 []).toNat, stageLen := (s.rg .netPartArg3 []).toNat }
              ∧ (∀ l, l ∈ (t.getCtx k).links ↔ l ∈ ls ∨ l ∈ c.links) ∧ t.getCtx k = { c with links := (t.getCtx k).links, part := (t.getCtx k).part }
              ∧ Kept {} [k] s.ctx t.ctx ∧ PartEnds s t 0)))
    ∧ (∀ acc k c, PartTakes s acc k → c = s.getCtx k →
      (c.part.state = .free → Completes (.leave acc) s [.csr] fun t => PartEnds s t 6)
      ∧ ((c.part.state = .prepared ∨ c.part.state = .committed ∨ c.part.state = .releasing) → Completes (.leave acc) s [.csr] fun t => PartEnds s t 1)
      ∧ (c.part.state = .joined → Completes (.leave acc) s [.csr, .ctx] fun t =>
          t.getCtx k = { c with part := { c.part with
            state := .releasing, launch := none, preempt := none, preUntil := none, go := false, coordinator := false, relays := [],
            relFrom := s.time.mt, img := if c.part.img.state = .loadWait then { c.part.img with state := .discarded } else c.part.img } }
          ∧ Kept {} [k] s.ctx t.ctx ∧ PartEnds s t 0)
      ∧ (c.part.state = .suspended → Completes (.leave acc) s [.csr, .ctx, .partQuar] fun t =>
          t.getCtx k = { c with part := {} } ∧ Kept {} [k] s.ctx t.ctx ∧ t.partQuarantined (c.part.part % 65536) = true ∧ Status8 t .netPartCmdStatus [] 0))
    ∧ (∀ (k : CtxSlot) c, c = s.getCtx k.val →
      (c.part.state = .releasing → s.releaseDone k.val = true → Completes (.releasingEnd k) s [.csr, .ctx, .partQuar] fun t =>
          t.getCtx k.val = { c with links := [], part := {} } ∧ Kept {} [k.val] s.ctx t.ctx ∧ NumberHeld s t c.part.part)
      ∧ ((c.part.state ≠ .releasing ∨ s.releaseDone k.val = false) → exec (.releasingEnd k) s = .next s))
    ∧ (∀ i : Fin 64, s.bit .netPartQuar [i.val] 16 = true →
      ((KMap.get 0 s.partQuar i.val).toNat ≤ s.mtN → Completes (.partQuarantineEnd i) s [.csr] fun t =>
          t.bit .netPartQuar [i.val] 16 = false ∧ RegsKept [RegName.netPartQuar.addr [i.val]] s t)
      ∧ (s.mtN < (KMap.get 0 s.partQuar i.val).toNat → exec (.partQuarantineEnd i) s = .next s))
    ∧ ∀ c, s.absent srcNet = false → (c = Instr.join .sp ∨ c = .leave .sp ∨ c = .distribute .sp ∨ c = .launch .sp ∨ c = .abort .sp) →
        s.live s.partArg = true → Completes c s [.csr] fun t => PartEnds s t 3

/-- Distributing an image (R361, log entry 15): DISTRIBUTE sends an image of at most 4,096 bytes in one IMAGE packet to each joined child of this chip, and to no other
link; an IMAGE packet is passed on in the same way by any chip whose entry is live and not SUSPENDED, in packets of its own, and its bytes go to the staging
buffer; one of another LENGTH, or with OFFSET 0 once that has come, begins a new image; one that would not fit ends the reception in OVERFLOW, and an image
that is whole with a wrong digest in MISMATCH, or else starts its load, waits for the loader where the load cannot begin, or is DISCARDED on a chip that is not JOINED; an image that stays incomplete for 12,500,000
ticks ends in TIMEOUT; the wait for the loader tries again each 125,000 ticks.
Where the manual is open this follows the model's choices in log entry 15. -/
def Obligations.ImageDistribution : Prop :=
  ∀ (s : State), SampleOff s →
    (∀ acc k len, PartTakes s acc k → len = (s.rg .netPartArg3 []).toNat →
      (((s.getCtx k).part.state = .free ∨ len = 0) → Completes (.distribute acc) s [.csr] fun t => PartEnds s t 6)
      ∧ (((s.getCtx k).part.state = .suspended ∨ (s.getCtx k).part.state = .releasing) → len ≠ 0 → Completes (.distribute acc) s [.csr] fun t => PartEnds s t 1)
      ∧ (((s.getCtx k).part.state = .joined ∨ (s.getCtx k).part.state = .prepared ∨ (s.getCtx k).part.state = .committed) → len ≠ 0 → len ≤ 4096 →
          Completes (.distribute acc) s [.csr, .net, .link] fun t =>
            (∀ l ∈ joinedKids s k s.self, Queued s t l 1 1 s.self (imageBody 0 len (s.mgt.read (s.rg .netPartArg2 []).toNat len)))
            ∧ Kept {} (joinedKids s k s.self) s.link t.link ∧ PartEnds s t 0))
    ∧ (∀ (part : BitVec 16) (gen : BitVec 8) (src : Coord) (offset length : Nat) (data : List Byte) k e img, s.msgSlot part.toNat gen.toNat = some k →
      e = (s.getCtx k).part → (e.state = .suspended → exec (.imagePacket part gen src offset length data) s = .next s) ∧ (e.state ≠ .suspended →
      img = (if e.img.state ≠ .receiving ∨ e.img.length ≠ length ∨ (offset = 0 ∧ ∃ r ∈ e.img.got, r.1 = 0)
        then { state := .receiving, length := length } else e.img) →
      ∃ t, exec (.imagePacket part gen src offset length data) s = .next t
        ∧ (∀ l ∈ joinedKids s k src.toNat, Queued s t l 1 1 s.self (imageBody offset length data)) ∧ Kept {} (joinedKids s k src.toNat) s.link t.link
        ∧ ((e.stageLen < length ∨ e.stageLen < offset + data.length) → OnlyChanges [.ctx, .net, .link] s t
            ∧ t.getCtx k = { s.getCtx k with part := { e with img := { img with state := .overflow, mt := s.mtN } } } ∧ Kept {} [k] s.ctx t.ctx)
        ∧ (length ≤ e.stageLen → offset + data.length ≤ e.stageLen →
            t.mgt = s.mgt.write (e.staging + offset) data
            ∧ (coversTo length (addRange (offset, data.length) img.got) = false → OnlyChanges [.ctx, .net, .link, .mgt] s t
              ∧ t.getCtx k = { s.getCtx k with part := { e with
                  img := { img with got := addRange (offset, data.length) img.got, mt := s.mtN } } } ∧ Kept {} [k] s.ctx t.ctx)
            ∧ (coversTo length (addRange (offset, data.length) img.got) = true →
              (length < 48 ∨ sha384 ((t.mgt.read e.staging length).take (length - 48)) ≠ (t.mgt.read e.staging length).drop (length - 48) →
                OnlyChanges [.ctx, .net, .link, .mgt] s t ∧ (t.getCtx k).part.img.state = .mismatch)
              ∧ (48 ≤ length → sha384 ((t.mgt.read e.staging length).take (length - 48)) = (t.mgt.read e.staging length).drop (length - 48) →
                (e.state ≠ .joined ∨ (s.getCtx k).gen ≠ e.ctxGen → (t.getCtx k).part.img.state = .discarded ∧ t.loader = s.loader)
                ∧ (e.state = .joined → (s.getCtx k).gen = e.ctxGen → (s.canLoad k = true → (t.getCtx k).part.img.state = .complete ∧ t.bit .ldrStatus [] 0 = true
                  ∧ t.loader = some { ctx := s.idOf k, bytes := t.mgt.read e.staging length, tiles := (s.getCtx k).tiles })
                ∧ (s.canLoad k = false → (t.getCtx k).part.img.state = .loadWait ∧ t.loader = s.loader)))))))
    ∧ ∀ (k : CtxSlot) (c : Ctx), c = s.getCtx k.val →
      (c.part.img.state = .receiving →
        (c.part.img.mt + 12500000 ≤ s.mtN → Completes (.imageTimeout k) s [.ctx] fun t =>
          t.getCtx k.val = { c with part := { c.part with img := { c.part.img with state := .timeout } } } ∧ Kept {} [k.val] s.ctx t.ctx)
        ∧ (s.mtN < c.part.img.mt + 12500000 → exec (.imageTimeout k) s = .next s))
      ∧ (c.part.img.state = .loadWait → s.mtN < c.part.img.mt + 125000 → exec (.loadWaitRetry k) s = .next s)
      ∧ (c.part.img.state = .loadWait → c.part.img.mt + 125000 ≤ s.mtN → c.part.state = .joined → c.gen = c.part.ctxGen →
          (s.canLoad k.val = true → Completes (.loadWaitRetry k) s [.csr, .ctx, .net, .vault, .loader, .cloOp] fun t =>
            t.loader = some { ctx := s.idOf k.val, bytes := s.mgt.read c.part.staging c.part.img.length, tiles := c.tiles }
            ∧ (t.getCtx k.val).part = { c.part with
                img := { c.part.img with state := .complete, mt := s.mtN }, preempt := none, preUntil := none, go := false } ∧ Kept {} [k.val] s.ctx t.ctx)
          ∧ (s.canLoad k.val = false → Completes (.loadWaitRetry k) s [.ctx] fun t =>
            t.getCtx k.val = { c with part := { c.part with img := { c.part.img with mt := s.mtN } } } ∧ Kept {} [k.val] s.ctx t.ctx))

/-- A message of the launch protocol names the live entry of a context slot by PART and GEN. -/
abbrev MsgTo (s : State) (m : LaunchMsg) (k : Nat) (e : PartEntry) : Prop :=
  s.partSlot m.part.toNat = some k ∧ e = (s.getCtx k).part ∧ e.gen = m.gen.toNat

/-- A chip has committed (R308, R367): its entry is COMMITTED, its plan ARMED for T_L, its tiles wake, the other route bank is current and the old one locked. -/
abbrev Committed (s t : State) (k : Nat) (tl : Word) : Prop :=
  (t.getCtx k).part.state = .committed ∧ (t.getCtx k).part.tl = tl ∧ (t.getCtx k).part.launch = none
  ∧ (t.getCtx k).plan.state = .armed ∧ (t.getCtx k).plan.tl = tl ∧ (t.getCtx k).plan.held = false
  ∧ (t.getCtx k).plan.stopP = (s.getCtx k).plan.stopP
  ∧ (t.getCtx k).plan.pcy = (s.getCtx k).plan.pcy
  ∧ (∀ x ∈ (s.getCtx k).tiles, t.getTile x = if (s.getTile x).power = .run then s.getTile x else { s.getTile x with waking := true })
  ∧ Kept {} (s.getCtx k).tiles s.tile t.tile ∧ Kept {} [k] s.ctx t.ctx
  ∧ t.epochOf k = 1 - s.epochOf k ∧ KMap.get 0 t.net.unlockAt k = s.mtN + 1250000

/-- The launch (R362 to R370): LAUNCH makes a JOINED chip the coordinator, which prepares itself and its children, and on one chip that is READY it commits at T_L = MT + NET_LAUNCH_LEAD; it is BUSY
else; a member that gets PREPARE sends it on, keeps the launch and is PREPARED where its own answer is READY, and else keeps no more than the answers it still waits for; one that is
PREPARED for another coordinator, or coordinates a launch itself, answers REJECTED with SHAPE and keeps its state; the answer of a child that is waited for is taken, and one of another attempt has no effect;
COMMIT commits a PREPARED chip and has no effect on another; ABORT, or DEADLINE at a PREPARED chip, takes it back to JOINED, and the command ABORT is REJECTED off the coordinator; after a BUSY reduction the coordinator prepares
again while the deadline allows, and aborts else; ABORT ends a COMMITTED plan with L1 PARTITION_ABORT.
Where the manual is open this follows the model's choices in log entries 16 and 99. -/
def Obligations.Launches : Prop :=
  ∀ (s : State), SampleOff s →
    (∀ acc k e lead off r, PartTakes s acc k → e = (s.getCtx k).part → lead = s.fld .netLaunchLead [] 0 32 →
      off = (if s.rg .netPartArg2 [] = 0 then 12500000 else s.rg .netPartArg2 []) →
      r = ownAnswer s k { opc := 1, part := e.part, gen := e.gen, origin := e.origin, extent := e.extent, coord := s.self, resume := s.bit .netPartArg1 [] 30,
                          deadline := s.time.mt + off, tlOrP := if s.bit .netPartArg1 [] 30 then (s.getCtx k).preemptP else 0,
                          imageId := match (s.getCtx k).image with
                            | some im => im.id
                            | none => List.replicate 48 0 } →
      (e.state ≠ .joined → Completes (.launch acc) s [.csr] fun t => PartEnds s t 1)
      ∧ (e.state = .joined → (s.splitChildren k s.self).2 ≠ [] → ∃ t, exec (.launch acc) s = .next t
          ∧ OnlyChanges [.csr, .ctx, .net, .link, .freeCtr] s t ∧ Status8 t .netPartCmdStatus [] 0
          ∧ t.fld .netLaunchStatus [] 0 3 = 1 ∧ t.fld .netLaunchStatus [] 40 16 = 1 ∧ (t.getCtx k).part.coordinator = true
          ∧ (t.getCtx k).part.state = (if r.1.1 = 0 then .prepared else .joined)
          ∧ (∃ x, (t.getCtx k).part.launch = some x ∧ x.coord = s.self ∧ x.attempt = 0 ∧ x.tries = 0 ∧ x.deadline = s.time.mt + off
              ∧ x.waiting = (s.splitChildren k s.self).2.map s.farOf ∧ x.sent = false)
          ∧ Kept {} [k] s.ctx t.ctx ∧ Kept {} (s.splitChildren k s.self).2 s.link t.link)
      ∧ (e.state = .joined → s.splitChildren k s.self = ([], []) → r.1 = (0, 0) → s.bit .netPartArg1 [] 30 = false → s.jrnMode k = 0 →
          (s.getCtx k).image.isSome = true → (s.time.mt + Word.ofNat lead).toNat ≤ (s.time.mt + off).toNat → (s.getCtx k).tiles.Nodup →
          ∃ t, exec (.launch acc) s = .next t ∧ OnlyChanges [.csr, .ctx, .net, .link, .tile] s t ∧ Status8 t .netPartCmdStatus [] 0
            ∧ t.fld .netLaunchStatus [] 0 3 = 2 ∧ Committed s t k (s.time.mt + Word.ofNat lead)))
    ∧ (∀ acc k e, PartTakes s acc k → e = (s.getCtx k).part →
      (e.coordinator = false → Completes (.abort acc) s [.csr] fun t => PartEnds s t 6)
      ∧ (e.coordinator = true → (e.state = .prepared ∨ (e.state = .joined ∧ e.launch.isSome = true)) → Completes (.abort acc) s [.csr, .ctx, .net, .link] fun t =>
          (t.getCtx k).part = { e with state := .joined, launch := none, preempt := none, preUntil := none, go := false, coordinator := false }
          ∧ Kept {} [k] s.ctx t.ctx ∧ t.fld .netLaunchStatus [] 0 3 = 3 ∧ t.fld .netLaunchStatus [] 8 8 = 4 ∧ Status8 t .netPartCmdStatus [] 0
          ∧ RegsKept [RegName.netLaunchStatus.addr [], RegName.netPartCmdStatus.addr []] s t))
    ∧ (∀ (msg : LaunchMsg) k e b st reason kids y, s.partSlot msg.part.toNat = some k → e = (s.getCtx k).part → b = LaunchMsg.toBody msg 1 →
      msg.coord.toNat ≠ s.self → (st, reason) = (if e.conflicts s.self msg.coord.toNat then (6, 2) else (ownAnswer s k b).1) →
      kids = s.splitChildren k msg.coord.toNat →
      y = { coord := msg.coord.toNat, gen := msg.gen.toNat, attempt := msg.attempt.toNat, deadline := msg.deadline, resume := msg.resume, tlOrP := msg.tlOrP,
            imageId := msg.imageId, waiting := kids.2.map s.farOf,
            answers := { child := s.self, status := st, reason := reason, fail := if st = 0 then none else some s.self, tie := s.self } :: kids.1 } →
      Completes (.prepare msg) s [.csr, .ctx, .net, .link, .freeCtr] fun t =>
        RegsKept [RegName.netDrop2.addr []] s t ∧ Kept {} [k] s.ctx t.ctx
        ∧ (kids.2 ≠ [] → e.relays = [] → ∀ l ∈ kids.2, Queued s t l 2 4 s.self b.bytes)
        ∧ (st = 0 → (t.getCtx k).part = { e.leave .prepared with
            deadline := msg.deadline, launch := some { y with sent := kids.2.isEmpty }, relays := e.relays.filter (·.coord != msg.coord.toNat) })
        ∧ (st ≠ 0 → ((t.getCtx k).part.launch = if e.conflicts s.self msg.coord.toNat then e.launch else none)
            ∧ ((t.getCtx k).part.state = if e.state = .prepared ∧ e.conflicts s.self msg.coord.toNat = false then .joined else e.state)
            ∧ (kids.2 ≠ [] → y ∈ (t.getCtx k).part.relays)
            ∧ (kids.2 = [] → ∀ z ∈ (t.getCtx k).part.relays, z.coord ≠ msg.coord.toNat)))
    ∧ (∀ (msg : LaunchMsg) k e, MsgTo s msg k e →
      ((∀ z ∈ e.launch.toList ++ e.relays, z.attempt ≠ msg.attempt.toNat ∨ msg.src.toNat ∉ z.waiting) → exec (.answer msg) s = .next s)
      ∧ (∀ x y, e.launch = some x → x.attempt = msg.attempt.toNat → msg.src.toNat ∈ x.waiting → y = x.take msg.src.toNat (LaunchMsg.toBody msg 2) →
        x.sent = false →
        y.answers.length = x.answers.length + 1 ∧ msg.src.toNat ∉ y.waiting
        ∧ (y.waiting ≠ [] → Completes (.answer msg) s [.ctx] fun t =>
            t.getCtx k = { s.getCtx k with part := { e with launch := some y } } ∧ Kept {} [k] s.ctx t.ctx)
        ∧ (y.waiting = [] → x.coord ≠ s.self → Completes (.answer msg) s [.csr, .ctx, .net, .link] fun t =>
            t.getCtx k = { s.getCtx k with part := { e with launch := some { y with sent := true } } } ∧ Kept {} [k] s.ctx t.ctx
            ∧ RegsKept [RegName.netDrop2.addr []] s t)
        ∧ (y.waiting = [] → x.coord = s.self → (worst y.answers).status = 6 → e.coordinator = true → (e.state = .joined ∨ e.state = .prepared) →
            Completes (.answer msg) s [.csr, .ctx, .net, .link] fun t =>
              (t.getCtx k).part.state = .joined ∧ (t.getCtx k).part.launch = none ∧ t.fld .netLaunchStatus [] 0 3 = 3 ∧ t.fld .netLaunchStatus [] 8 8 = 2
              ∧ Kept {} [k] s.ctx t.ctx ∧ RegsKept [RegName.netLaunchStatus.addr []] s t))
      ∧ ∀ q y, (∀ x ∈ e.launch, x.attempt ≠ msg.attempt.toNat ∨ msg.src.toNat ∉ x.waiting) → e.relays = [q] → q.attempt = msg.attempt.toNat →
        msg.src.toNat ∈ q.waiting → y = q.take msg.src.toNat (LaunchMsg.toBody msg 2) →
        (y.waiting ≠ [] → Completes (.answer msg) s [.ctx] fun t =>
            t.getCtx k = { s.getCtx k with part := { e with relays := [y] } } ∧ Kept {} [k] s.ctx t.ctx)
        ∧ (y.waiting = [] → Completes (.answer msg) s [.csr, .ctx, .net, .link] fun t =>
            t.getCtx k = { s.getCtx k with part := { e with relays := [] } } ∧ Kept {} [k] s.ctx t.ctx ∧ RegsKept [RegName.netDrop2.addr []] s t))
    ∧ (∀ (k : CtxSlot) e x at_, e = (s.getCtx k.val).part → e.launch = some x → x.retryAt = some at_ →
      ((x.coord ≠ s.self ∨ s.mtN < at_.toNat) → exec (.prepareRetry k) s = .next s)
      ∧ (x.coord = s.self → at_.toNat ≤ s.mtN → e.coordinator = true →
        (x.deadline.toNat < s.mtN + s.fld .netLaunchLead [] 0 32 → (e.state = .joined ∨ e.state = .prepared) →
          Completes (.prepareRetry k) s [.csr, .ctx, .net, .link] fun t =>
            (t.getCtx k.val).part.state = .joined ∧ (t.getCtx k.val).part.launch = none ∧ t.fld .netLaunchStatus [] 0 3 = 3
            ∧ t.fld .netLaunchStatus [] 8 8 = 1 ∧ Kept {} [k.val] s.ctx t.ctx ∧ RegsKept [RegName.netLaunchStatus.addr []] s t)
        ∧ (s.mtN + s.fld .netLaunchLead [] 0 32 ≤ x.deadline.toNat → (s.splitChildren k.val s.self).2 ≠ [] → ∃ t,
          exec (.prepareRetry k) s = .next t ∧ OnlyChanges [.csr, .ctx, .net, .link, .freeCtr] s t
          ∧ t.fld .netLaunchStatus [] 0 3 = 1 ∧ t.fld .netLaunchStatus [] 40 16 = (x.tries + 2) % 65536
          ∧ (∃ y, (t.getCtx k.val).part.launch = some y ∧ y.tries = x.tries + 1 ∧ y.attempt = (x.tries + 1) % 256 ∧ y.deadline = x.deadline ∧ y.coord = s.self
              ∧ y.waiting = (s.splitChildren k.val s.self).2.map s.farOf) ∧ Kept {} [k.val] s.ctx t.ctx)))
    ∧ (∀ (msg : LaunchMsg) k e, MsgTo s msg k e → e.state ≠ .prepared → exec (.commit msg) s = .next s)
    ∧ (∀ (msg : LaunchMsg) k e x, MsgTo s msg k e → e.launch = some x → e.state = .prepared → s.jrnMode k = 0 →
      ((s.getCtx k).plan.state ≠ .ended ∨ (s.getCtx k).plan.held = true) → (s.getCtx k).tiles.Nodup →
      ∃ t, exec (.commit msg) s = .next t ∧ OnlyChanges [.csr, .ctx, .net, .link, .tile] s t ∧ Committed s t k msg.tlOrP)
    ∧ (∀ (msg : LaunchMsg) k e, MsgTo s msg k e → e.coordinator = false →
      (e.state = .prepared → Completes (.abortFlood msg) s [.ctx] fun t =>
          t.getCtx k = { s.getCtx k with part := { e with state := .joined, launch := none, preempt := none, preUntil := none, go := false } }
          ∧ Kept {} [k] s.ctx t.ctx)
      ∧ (e.state = .committed → exec (.abortFlood msg) s
          = .next ((raise (s.abandon k) { cause := .partitionAbort, source := srcNet, ctx := some k } .aborted).modPart k PartEntry.rejoin))
      ∧ (e.state ≠ .prepared → e.state ≠ .committed → exec (.abortFlood msg) s = .next s))
    ∧ ∀ (k : CtxSlot) e, e = (s.getCtx k.val).part →
      (e.state = .prepared → e.deadline.toNat ≤ s.mtN → Completes (.launchDeadline k) s [.csr, .ctx, .net, .link] fun t =>
          (t.getCtx k.val).part = { e with state := .joined, launch := none, preempt := none, preUntil := none, go := false, coordinator := false }
          ∧ Kept {} [k.val] s.ctx t.ctx ∧ (e.coordinator = true → t.fld .netLaunchStatus [] 0 3 = 3 ∧ t.fld .netLaunchStatus [] 8 8 = 1)
          ∧ RegsKept [RegName.netLaunchStatus.addr []] s t)
      ∧ ((e.state ≠ .prepared ∨ s.mtN < e.deadline.toNat) → exec (.launchDeadline k) s = .next s)

/-- Losing a context and pre-empting one on several chips (R152, R280): CONTEXT_LOST abandons the objects of a COMMITTED context, marks a running plan and ends one that is
frosted, stopped or held in a WAIT; PREEMPT_PREPARE stands the stop at P where P is still to come, on a member whose plan runs or has completed; the answers are taken one by one; GO saves a context that stands at
P or has ended, and else lets it go on to P; CANCEL clears the stop and a context that stands at P runs on; a member without GO or CANCEL at the deadline ends with L1
PREEMPT_TIMEOUT, but for one whose plan has completed, which only stops waiting.
Where the manual is open this follows the model's choices in log entry 99. -/
def Obligations.LossAndPreemption : Prop :=
  ∀ (s : State), SampleOff s →
    (∀ (msg : LaunchMsg) k e, s.partSlot msg.part.toNat = some k → e = (s.getCtx k).part → e.gen = msg.gen.toNat → e.coordinator = false →
      (e.state = .committed → (s.getCtx k).plan.state ≠ .ended →
        ((s.getCtx k).plan.state = .frosted ∨ (s.getCtx k).plan.state = .stopped ∨ (∃ x ∈ (s.getCtx k).tiles, (s.getTile x).heldWait.isSome = true) →
          exec (.contextLost msg.part msg.gen) s = .next (against (s.abandon k) .waitAbandoned srcTim k))
        ∧ ((s.getCtx k).plan.state ≠ .frosted → (s.getCtx k).plan.state ≠ .stopped → (∀ x ∈ (s.getCtx k).tiles, (s.getTile x).heldWait = none) →
          Completes (.contextLost msg.part msg.gen) s [.csr, .ctx, .tile, .out] fun t =>
            t.getCtx k = { s.getCtx k with lostMark := true } ∧ Kept {} [k] s.ctx t.ctx
            ∧ (∀ x ∈ (s.getCtx k).tiles, t.getTile x = { s.getTile x with bank := .abandoned }) ∧ Kept {} (s.getCtx k).tiles s.tile t.tile))
      ∧ ((e.state ≠ .committed ∨ (s.getCtx k).plan.state = .ended) → exec (.contextLost msg.part msg.gen) s = .next s))
    ∧ (∀ (msg : LaunchMsg) k e, MsgTo s msg k e →
      ((e.state ≠ .committed ∧ (e.state ≠ .joined ∨ (s.getCtx k).plan.state ≠ .ended)) → exec (.preemptPrepare msg) s = .next s)
      ∧ (e.state = .committed ∨ (e.state = .joined ∧ (s.getCtx k).plan.state = .ended) → msg.coord.toNat ≠ s.self →
        Completes (.preemptPrepare msg) s [.csr, .ctx, .net, .link] fun t =>
          RegsKept [RegName.netDrop2.addr []] s t ∧ (t.getCtx k).preemptP = msg.tlOrP ∧ (t.getCtx k).part.preUntil = some msg.deadline ∧ Kept {} [k] s.ctx t.ctx
          ∧ (t.getCtx k).plan = (if msg.tlOrP.toNat ≤ (s.getCtx k).plan.pcy.toNat then (s.getCtx k).plan
              else { (s.getCtx k).plan with stopP := some msg.tlOrP.toNat })
          ∧ ∃ x, (t.getCtx k).part.preempt = some x ∧ x.coord = msg.coord.toNat ∧ x.waiting = (s.splitChildren k msg.coord.toNat).2.map s.farOf
              ∧ x.sent = (s.splitChildren k msg.coord.toNat).2.isEmpty
              ∧ ∃ a as, x.answers = a :: as ∧ a.child = s.self ∧ a.status = if msg.tlOrP.toNat ≤ (s.getCtx k).plan.pcy.toNat then 1 else 0))
    ∧ (∀ (msg : LaunchMsg) k e x y, MsgTo s msg k e → e.preempt = some x → msg.src.toNat ∈ x.waiting → x.sent = false →
      y = x.take msg.src.toNat (LaunchMsg.toBody msg 7) →
      (y.waiting ≠ [] → Completes (.preemptAnswer msg) s [.ctx] fun t =>
          t.getCtx k = { s.getCtx k with part := { e with preempt := some y } } ∧ Kept {} [k] s.ctx t.ctx)
      ∧ (y.waiting = [] → x.coord ≠ s.self → Completes (.preemptAnswer msg) s [.csr, .ctx, .net, .link] fun t =>
          RegsKept [RegName.netDrop2.addr []] s t ∧ t.getCtx k = { s.getCtx k with part := { e with preempt := some { y with sent := true } } } ∧ Kept {} [k] s.ctx t.ctx)
      ∧ (y.waiting = [] → x.coord = s.self → (∀ a ∈ y.answers, a.status = 0) → s.atP k = true → Completes (.preemptAnswer msg) s [.ctx, .net, .link] fun t =>
          (t.getCtx k).state = .saving ∧ (t.getCtx k).drainFrom = s.mtN ∧ (t.getCtx k).plan = (s.getCtx k).plan ∧ Kept {} [k] s.ctx t.ctx)
      ∧ (y.waiting = [] → x.coord = s.self → (∃ a ∈ y.answers, a.status ≠ 0) → s.cloOp = some (.preempt k) → Completes (.preemptAnswer msg) s [.csr, .ctx, .net, .link, .cloOp] fun t =>
          (t.getCtx k).plan.stopP = none ∧ (t.getCtx k).part.preempt = none ∧ t.cloOp = none ∧ CloEnds s t 7 ∧ Kept {} [k] s.ctx t.ctx))
    ∧ (∀ (msg : LaunchMsg) k e x, MsgTo s msg k e → e.preempt = some x → e.preUntil.isSome = true →
      ((s.atP k = true ∨ (s.getCtx k).plan.state = .ended) → Completes (.preemptGo msg) s [.ctx, .net, .link] fun t =>
          t.getCtx k = { s.getCtx k with
            state := .saving, drainFrom := s.mtN, drained := false, part := { e with preUntil := none, preempt := none, go := false } }
          ∧ Kept {} [k] s.ctx t.ctx)
      ∧ (s.atP k = false → (s.getCtx k).plan.state ≠ .ended → Completes (.preemptGo msg) s [.ctx, .net, .link] fun t =>
          t.getCtx k = { s.getCtx k with part := { e with preUntil := none, go := true } } ∧ Kept {} [k] s.ctx t.ctx)
      ∧ Completes (.preemptCancel msg) s [.ctx, .net, .link] fun t =>
          t.getCtx k = { s.getCtx k with
            plan := { (s.getCtx k).plan with
              stopP := none, state := if s.atP k then .running else (s.getCtx k).plan.state },
            part := { e with preUntil := none, preempt := none, go := false } }
          ∧ Kept {} [k] s.ctx t.ctx)
    ∧ ∀ (k : CtxSlot) d, (s.getCtx k.val).part.preUntil = some d →
      (d.toNat ≤ s.mtN → (s.getCtx k.val).plan.state ≠ .ended → exec (.preemptDeadline k) s = .next (against s .preemptTimeout srcClo k.val))
      ∧ (d.toNat ≤ s.mtN → (s.getCtx k.val).plan.state = .ended → Completes (.preemptDeadline k) s [.csr, .ctx, .cloOp] fun t =>
          t.getCtx k.val = { s.getCtx k.val with
            plan := { (s.getCtx k.val).plan with stopP := none },
            part := { (s.getCtx k.val).part with preUntil := none, preempt := none, go := false } }
          ∧ Kept {} [k.val] s.ctx t.ctx ∧ RegsKept [RegName.cloCmdStatus.addr []] s t)
      ∧ (s.mtN < d.toNat → exec (.preemptDeadline k) s = .next s)

/-- The ledger's ranking (R372): a read of NET_LEDGER_RANK answers the links from the most late on, by LAST, then HOLD, both descending, then by instance, three
bits each, to a management core and the service processor, and 0 to any other accessor. -/
def Claims.LedgerRanking : Prop :=
  ∀ (acc : Accessor) (s : State), ∃ p : List Nat, p.Perm (List.range 6)
    ∧ p.Pairwise (fun a b => s.fld .netLedgerBar [b] 32 32 < s.fld .netLedgerBar [a] 32 32 ∨ (s.fld .netLedgerBar [a] 32 32 = s.fld .netLedgerBar [b] 32 32
        ∧ (s.fld .netLedgerHold [b] 0 48 < s.fld .netLedgerHold [a] 0 48 ∨ (s.fld .netLedgerHold [a] 0 48 = s.fld .netLedgerHold [b] 0 48 ∧ a < b))))
    ∧ Completes (.ledgerRankRead acc) s [.csr, .resp] fun t =>
        (∀ r, r < 6 → t.fld .netLedgerRank [] (3 * r) 3 = p.getD r 0)
        ∧ t.resp = some (if isLocal acc then t.rg .netLedgerRank [] else 0) ∧ RegsKept [RegName.netLedgerRank.addr []] s t

/-- Joining and leaving a partition, and the ranking of its ledger.
Where the manual is open this follows the model's choices in log entries 16 and 76. -/
def Obligations.PartitionMembership : Prop :=
  Claims.Membership ∧ Claims.LedgerRanking

/-! ### Clocks and power (15_clocks_and_power.md) -/

/-- One region's clock is replaced; the others and the rest of the clocks stay. -/
abbrev RegionSet (s t : State) (r : Nat) (x : Region) : Prop :=
  t.getRegionClk r = x ∧ Kept {} [r] s.clk.regions t.clk.regions ∧ t.clk = { s.clk with regions := t.clk.regions }

/-- A region asks its multiplexer for a source. -/
def asks (x : Region) (src : ClkSrc) (step cause : Nat) : Region :=
  { x with mux := .switching, want := some { src := src, step := step, cause := cause } }

/-- What a region below CAP or above it does at once (R386): a locked standby one index slower is asked for. -/
def toCap (x : Region) (cap : Nat) : Region :=
  if x.pllOn = true ∧ x.step < cap ∧ x.mux = .stable ∧ x.locked = true ∧ x.step < 7 then asks x x.other x.standby 4 else x

/-- Steps of a region (R379, R380, R383, R386, R388, R397): one that held RECOVER for HOLD relocks its standby one step faster; a standby that locks makes a climbing region switch and a region
above CAP step down; CLK_CAP keeps CAP, abandons relocks past it and steps faster regions down, for a management core or the service processor only; the completed switch exchanges the
synthesizers and counts; a standby that loses lock is unlocked, and the current synthesizer's loss drops the region to HALF with CLK_PLL_UNLOCK; slack below CRIT drops a region to HALF, and in
the mesh raises MESH_MARGIN; a region at TRIP raises THERMAL_TRIP. -/
def Claims.RegionSteps : Prop :=
  ∀ (r : RegionIx) (x : Region) (cap : Nat) (s : State), x = s.getRegionClk r.val → cap = s.fld .clkCap [] 0 3 →
    (x.pllOn = true → x.mux = .stable → x.climbing = false → cap < x.step → s.held x.goodFrom = true → Completes (.stepUp r) s [.clk] fun t =>
        RegionSet s t r.val { x with standby := x.step - 1, locked := false, climbing := true })
    ∧ ((x.pllOn = false ∨ x.mux ≠ .stable ∨ x.climbing = true ∨ x.step ≤ cap ∨ s.held x.goodFrom = false) → exec (.stepUp r) s = .next s)
    ∧ (x.pllOn = true → x.locked = false → Completes (.synthLock r) s [.clk] fun t => RegionSet s t r.val
        (if x.climbing = true ∧ x.mux = .stable then asks { x with locked := true } x.other x.standby 5 else toCap { x with locked := true } cap))
    ∧ ((x.pllOn = false ∨ x.locked = true) → exec (.synthLock r) s = .next s)
    ∧ (∀ (acc : Accessor) (v : Word), s.absent srcClk = false →
        (isLocal acc = false → exec (.capWrite acc v) s = .next s)
        ∧ (isLocal acc = true → Completes (.capWrite acc v) s [.csr, .clk] fun t => t.fld .clkCap [] 0 3 = v.toNat % 8
            ∧ RegsKept [RegName.clkCap.addr []] s t ∧ t.clk = { s.clk with regions := t.clk.regions }
            ∧ t.getRegionClk r.val = toCap (if x.climbing = true ∧ x.standby < v.toNat % 8 then
                { x with climbing := false, standby := standbyFor x.step, locked := false } else x) (v.toNat % 8)))
    ∧ (∀ w, x.mux ≠ .stable → x.want = some w → x.after = none → (∀ k, k < 32 → (s.getCtx k).plan.state = .idle) →
        Completes (.muxSwitch (.region r)) s [.csr, .clk] fun t => RegionSet s t r.val { x with
            mux := .stable, want := none, climbing := false, src := w.src, step := w.step, goodFrom := none,
            current := if w.src = .half then x.current else w.src, standby := standbyFor w.step,
            locked := w.src == .half && x.locked && x.standby == 7 }
          ∧ (w.src ≠ .half → t.fld .clkRegionSteps [r.val] 0 32 = (if x.step < w.step then satN 32 (s.fld .clkRegionSteps [r.val] 0 32 + 1)
                else s.fld .clkRegionSteps [r.val] 0 32)
              ∧ t.fld .clkRegionSteps [r.val] 32 32 = (if x.step < w.step then s.fld .clkRegionSteps [r.val] 32 32
                else satN 32 (s.fld .clkRegionSteps [r.val] 32 32 + 1)))
          ∧ RegsKept [RegName.clkRegionSteps.addr [r.val]] s t)
    ∧ (∀ w k, x.mux ≠ .stable → x.want = some w → x.after = none → SampleOff s → k < 32 → (s.getCtx k).plan.state ≠ .idle →
        (∃ y ∈ (s.getCtx k).tiles, regionOf y = r.val) → (s.getCtx k).links.Nodup →
        (∀ j, j < 32 → j ≠ k → (s.getCtx j).plan.state = .idle) → ∃ t, exec (.muxSwitch (.region r)) s = .next t ∧ OnlyChanges [.csr, .clk, .net, .link] s t
          ∧ (t.getRegionClk r.val).step = w.step ∧ (t.getRegionClk r.val).mux = .stable
          ∧ ∀ l ∈ (s.getCtx k).links, (s.getLink l).isUp = true → s.miswired l = false → Queued s t l 2 5 s.self
              (leBytes 1 r.val ++ leBytes 1 x.step ++ leBytes 1 w.step ++ leBytes 1 w.cause ++ leBytes 8 s.mtN))
    ∧ (x.pllOn = true → Completes (.clkPllUnlock r false) s [.clk] fun t => RegionSet s t r.val { x with locked := false })
    ∧ (x.pllOn = false → ∀ b, exec (.clkPllUnlock r b) s = .next s)
    ∧ (x.pllOn = true → (x.src = .main ∨ x.src = .alt) → x.mux = .stable → Completes (.clkPllUnlock r true) s [.csr, .clk, .flt] fun t =>
        RegionSet s t r.val { asks x .half 7 6 with climbing := false, current := x.other, standby := 7, locked := false }
        ∧ t.flt = (notice s .clkPllUnlock srcClk).flt ∧ t.fld .clkRegionEvents [r.val] 0 32 = satN 32 (s.fld .clkRegionEvents [r.val] 0 32 + 1)
        ∧ RegsKept [RegName.clkRegionEvents.addr [r.val]] s t)
    ∧ (∀ q : Fin 17, q.val = r.val →
        (x.pllOn = true → x.src ≠ .half → Completes (.critMargin q) s [.csr, .clk] fun t =>
          RegionSet s t r.val (if x.mux = .stable then { asks x .half 7 2 with climbing := false } else { x with after := some 2, climbing := false })
          ∧ t.fld .clkRegionEvents [r.val] 0 32 = satN 32 (s.fld .clkRegionEvents [r.val] 0 32 + 1)
          ∧ RegsKept [RegName.clkRegionEvents.addr [r.val]] s t)
        ∧ ((x.pllOn = false ∨ x.src = .half) → exec (.critMargin q) s = .next s))
    ∧ exec (.critMargin 16) s = .next (notice s .meshMargin srcClk)
    ∧ (min 115 (s.fld .clkTherm [] 8 8) ≤ x.temp → exec (.thermalTrip r) s = .next (notice s .thermalTrip srcClk))
    ∧ (x.temp < min 115 (s.fld .clkTherm [] 8 8) → exec (.thermalTrip r) s = .next s)

/-- Margin and voltage (R384 to R388): a sample keeps each region's margin and temperature, and the lowest margin seen; where one is below WARN and VOUT below VMAX, once the last request has
settled, VOUT rises by 5 mV, at most to VMAX; a region that is hot and not below WARN steps down; with every running region and the mesh good for HOLD, at CAP and not lowered for HOLD, VOUT falls by 5 mV,
at least to VNOM; a regulator that does not acknowledge raises AVS_FAIL, and VOUT counts as VMAX; a neighbour's FREQ_ADVISORY is kept and counted. -/
def Claims.MarginAndVoltage : Prop :=
  ∀ (margins : List (BitVec 6)) (temps : List Byte) (m tc : Nat → Nat) (s : State),
    m = (fun r => (margins.map BitVec.toNat).getD r 63) → tc = (fun r => (temps.map BitVec.toNat).getD r 0) →
    (∃ t, exec (.marginSample margins temps) s = .next t ∧ OnlyChanges [.csr, .clk] s t
      ∧ (∀ r, r < 16 → (t.getRegionClk r).margin = m r ∧ (t.getRegionClk r).temp = tc r
          ∧ t.fld .clkRegionMinm [r] 0 6 = min (m r) (s.fld .clkRegionMinm [r] 0 6))
      ∧ t.clk.meshMargin = m 16 ∧ RegsKept ((List.range 16).map fun r => RegName.clkRegionMinm.addr [r]) s t
      ∧ (∀ r, (r = 16 ∨ (r < 16 ∧ (s.getRegionClk r).pllOn = true)) → m r < s.warn r → s.vout < s.fuses.vmax → s.settled_ = true →
          t.clk.vout = min (s.vout + 5) s.fuses.vmax ∧ t.clk.lastVreq = some s.time.refTicks)
      ∧ (∀ r, r < 16 → (s.getRegionClk r).pllOn = true → s.warn r ≤ m r → s.fld .clkTherm [] 0 8 ≤ tc r → (s.getRegionClk r).mux = .stable →
          (s.getRegionClk r).locked = true → (s.getRegionClk r).step < 7 → (t.getRegionClk r).mux = .switching
          ∧ (t.getRegionClk r).want = some { src := (s.getRegionClk r).other, step := (s.getRegionClk r).standby, cause := 3 })
      ∧ ((∀ r, r < 16 → (s.getRegionClk r).pllOn = true → (s.getRegionClk r).step = s.fld .clkCap [] 0 3 ∧ s.recover r ≤ m r
            ∧ tc r < s.fld .clkTherm [] 0 8 ∧ s.held (s.getRegionClk r).goodFrom = true) →
          s.recover 16 ≤ m 16 → s.held s.clk.meshGood = true → s.clk.lowered + s.hold ≤ s.time.refTicks → s.fuses.vnom < s.vout →
          t.clk.vout = max (s.vout - 5) s.fuses.vnom ∧ t.clk.lowered = s.time.refTicks))
    ∧ (∃ t0, OnlyChanges [.csr, .clk] s t0 ∧ t0.bit .clkVolt [] 48 = true ∧ RegsKept [RegName.clkVolt.addr []] s t0 ∧ t0.clk = { s.clk with avsMax := true }
        ∧ t0.vout = s.fuses.vmax ∧ exec .avsFail s = .next (notice t0 .avsFail srcClk))
    ∧ ∀ (l : LinkIx) (region : BitVec 4) (old new cause : BitVec 3), Completes (.freqAdvisory l region old new cause) s [.csr] fun t =>
        t.fld .clkAdv [] 0 3 = l.val ∧ t.fld .clkAdv [] 3 4 = region.toNat ∧ t.fld .clkAdv [] 7 3 = new.toNat ∧ t.fld .clkAdv [] 10 3 = cause.toNat
        ∧ t.fld .clkAdv [] 32 32 = satN 32 (s.fld .clkAdv [] 32 32 + 1) ∧ RegsKept [RegName.clkAdv.addr []] s t

/-- Region steps, margin and voltage.
Where the manual is open this follows the model's choices in log entry 81. -/
def Obligations.RegionClocks : Prop :=
  Claims.RegionSteps ∧ Claims.MarginAndVoltage

/-- The other multiplexers, hung switches, the reference and frequency measurement (R380, R381, R394, R395, R399): a new SRC asks for a switch; the switch settles; one that hangs raises CLK_MUX_HUNG, and the
service processor's goes to the oscillator; FORCE ends the management one's hang; a forced switch of a region without edges goes to HALF, with L1 CLK_SOURCE_DEAD against the contexts with tiles
there; a window of 15,622 to 15,628 edges is good, and the first bad one raises REF_LOSS; a measurement leaves its count.
Where the manual is open this follows the model's choices in log entry 81. -/
def Obligations.SourcesAndMeasurement : Prop :=
  ∀ (s : State),
    (∀ (acc : Accessor) (v : Word), s.absent srcClk = false →
      (isLocal acc = false → exec (.mgtMuxSwitch acc v) s = .next s ∧ exec (.mgtMuxForce acc) s = .next s ∧ exec (.spMuxSwitch acc v) s = .next s
          ∧ exec (.fmeasStart acc v) s = .next s)
      ∧ (isLocal acc = true →
        (Completes (.mgtMuxSwitch acc v) s [.csr, .clk] fun t =>
            t.bit .clkMgtMux [] 0 = v.getLsbD 0 ∧ RegsKept [RegName.clkMgtMux.addr []] s t
            ∧ t.clk = { s.clk with
                mgtMux := if s.clk.mgtMux = .hung then (if v.getLsbD 3 then .stable else .hung)
                  else if s.bit .clkMgtMux [] 0 = v.getLsbD 0 then s.clk.mgtMux else .switching })
        ∧ (s.clk.mgtMux = .hung → Completes (.mgtMuxForce acc) s [.csr, .clk] fun t => t.clk = { s.clk with mgtMux := .stable }
            ∧ t.bit .clkMgtMux [] 0 = s.bit .clkMgtMux [] 0)
        ∧ Completes (.spMuxSwitch acc v) s [.csr, .clk] (fun t => t.bit .clkSpMux [] 0 = v.getLsbD 0 ∧ RegsKept [RegName.clkSpMux.addr []] s t
            ∧ t.clk = { s.clk with spMux := if s.bit .clkSpMux [] 0 = v.getLsbD 0 then s.clk.spMux else .switching })
        ∧ Completes (.fmeasStart acc v) s [.csr, .clk] fun t => t.fld .clkFmeasCtl [] 0 5 = v.toNat % 32 ∧ t.fld .clkFmeasCtl [] 6 20 = v.toNat / 64 % 2 ^ 20
            ∧ RegsKept [RegName.clkFmeasCtl.addr []] s t ∧ t.clk = { s.clk with measuring := s.clk.measuring || v.getLsbD 5 }))
    ∧ (s.clk.mgtMux = .switching → (Completes (.muxSwitch .mgt) s [.clk] fun t => t.clk = { s.clk with mgtMux := .stable })
        ∧ ∃ t0, OnlyChanges [.clk] s t0 ∧ t0.clk = { s.clk with mgtMux := .hung } ∧ exec (.clkMuxHung .mgt) s = .next (notice t0 .clkMuxHung srcClk))
    ∧ (s.clk.spMux = .switching →
        (Completes (.muxSwitch .sp) s [.csr, .clk] fun t => t.clk = { s.clk with spMux := .stable } ∧ t.bit .clkStatus [] 5 = s.bit .clkSpMux [] 0
          ∧ RegsKept [RegName.clkStatus.addr []] s t)
        ∧ ∃ t0, OnlyChanges [.csr, .clk] s t0 ∧ t0.clk = { s.clk with spMux := .stable } ∧ t0.bit .clkSpMux [] 0 = false ∧ t0.bit .clkStatus [] 5 = false
            ∧ exec (.clkMuxHung .sp) s = .next (notice t0 .clkMuxHung srcClk))
    ∧ (∀ (r : RegionIx) (x : Region), x = s.getRegionClk r.val →
      (x.mux = .switching → ∃ t, exec (.clkMuxHung (.region r)) s = .next t ∧ OnlyChanges [.csr, .clk, .flt] s t ∧ RegionSet s t r.val { x with mux := .hung }
          ∧ t.fld .clkRegionEvents [r.val] 32 32 = satN 32 (s.fld .clkRegionEvents [r.val] 32 32 + 1) ∧ RegsKept [RegName.clkRegionEvents.addr [r.val]] s t)
      ∧ (x.mux ≠ .hung → exec (.clkSourceDead r) s = .next s)
      ∧ (x.mux = .hung → x.after = none → (∀ k, k < 32 → ∀ y ∈ (s.getCtx k).tiles, regionOf y ≠ r.val) → Completes (.clkSourceDead r) s [.clk] fun t =>
          RegionSet s t r.val { x with mux := .stable, want := none, climbing := false, src := .half, step := 7, goodFrom := none,
                                       standby := standbyFor 7, locked := x.locked && x.standby == 7 })
      ∧ ∀ k, x.mux = .hung → x.after = none → k < 32 → (∃ y ∈ (s.getCtx k).tiles, regionOf y = r.val) → (s.getCtx k).plan.state = .idle →
          (∀ j, j < 32 → j ≠ k → ∀ y ∈ (s.getCtx j).tiles, regionOf y ≠ r.val) →
          ∃ t0, OnlyChanges [.clk] s t0 ∧ (t0.getRegionClk r.val).src = .half ∧ (t0.getRegionClk r.val).step = 7
            ∧ exec (.clkSourceDead r) s = .next (against t0 .clkSourceDead srcClk k))
    ∧ (∀ n, 15622 ≤ n → n ≤ 15628 → Completes (.refCheck (some n)) s [.csr] fun t => t.bit .clkStatus [] 0 = true ∧ RegsKept [RegName.clkStatus.addr []] s t)
    ∧ (∀ edges : Option Nat, (∀ n, edges = some n → n < 15622 ∨ 15628 < n) →
        (s.bit .clkStatus [] 0 = false → exec (.refCheck edges) s = .next s)
        ∧ (s.bit .clkStatus [] 0 = true → ∃ t, exec (.refCheck edges) s = .next t ∧ t.bit .clkStatus [] 0 = false ∧ ∀ l, l < 6 → (t.getLink l).state = .down)
        ∧ (s.bit .clkStatus [] 0 = true → (∀ l, l < 6 → (s.getLink l).state = .down) → ∃ t0, OnlyChanges [.csr] s t0 ∧ t0.bit .clkStatus [] 0 = false
            ∧ RegsKept [RegName.clkStatus.addr []] s t0 ∧ exec (.refCheck edges) s = .next (notice t0 .refLoss srcClk)))
    ∧ ∀ count : BitVec 40,
        (s.clk.measuring = true → Completes (.fmeasDone count) s [.csr, .clk] fun t => t.clk = { s.clk with measuring := false }
          ∧ t.fld .clkFmeasRes [] 0 40 = (if 23 ≤ s.fld .clkFmeasCtl [] 0 5 then 0 else count.toNat) ∧ t.bit .clkFmeasRes [] 40 = true
          ∧ RegsKept [RegName.clkFmeasRes.addr []] s t)
        ∧ (s.clk.measuring = false → exec (.fmeasDone count) s = .next s)

/-- A gate command has answered, and no other register has changed. -/
abbrev Gated (s t : State) (code blocker : Nat) : Prop :=
  Status8 t .clkGateStatus [] code ∧ t.fld .clkGateStatus [] 10 10 = blocker ∧ RegsKept [RegName.clkGateStatus.addr []] s t

/-- A node of CLK_GATE_CMD whose block is absent: a tile or a vault engine. -/
abbrev NodeGone (s : State) (n : Nat) : Prop := (n < 576 ∧ s.absent (srcTile n) = true) ∨ ∃ v, v < 4 ∧ n = 592 + v ∧ s.absent (srcVlt v) = true

/-- Gating (R389 to R392): CLK_GATE_CMD is ABSENT for a node that is (R41), else DENIED to other accessors than a management core and the service processor; on a tile it sets the power state, DEEP losing the accumulators and masks and
OFF everything, and is BUSY, with the node as BLOCKER, while the tile works or, for OFF, is granted; SLEEP and DEEP on any other node, and a node that does not exist, are REJECTED; a region's PLL starts, and stops where its
tiles are OFF; vault engines and the mesh go off where nothing uses them; FABRIC_OFF, with no tile granted, takes power from the regions and the vault engines, FABRIC_ON gives it back; a region's PLL
stops after its last tile.
Where the manual is open this follows the model's choices in log entry 82. -/
def Obligations.Gating : Prop :=
  ∀ (acc : Accessor) (s : State), s.absent srcClk = false →
    (∀ (node : BitVec 10) c, (c = Instr.gateRun acc node ∨ c = .gateSleep acc node ∨ c = .gateDeep acc node ∨ c = .gateOff acc node) → NodeGone s node.toNat →
        Completes c s [.csr] fun t => Gated s t 2 0)
    ∧ (∀ (node : BitVec 10) c, ¬ NodeGone s node.toNat → (c = Instr.gateRun acc node ∨ c = .gateSleep acc node ∨ c = .gateDeep acc node ∨ c = .gateOff acc node ∨ c = .fabricOff acc ∨ c = .fabricOn acc) →
        isLocal acc = false → Completes c s [.csr] fun t => Gated s t 3 0)
    ∧ (isLocal acc = true → ∀ (node : BitVec 10) (n : Nat) (x : Tile), n = node.toNat → x = s.getTile n →
      (n < 576 → s.absent (srcTile n) = false → ∀ c p, ((c = Instr.gateRun acc node ∧ p = Power.run) ∨ (c = .gateSleep acc node ∧ p = .sleep) ∨ (c = .gateDeep acc node ∧ p = .deep)) →
        (s.tileControlled n = true → Completes c s [.csr] fun t => Gated s t 1 n)
        ∧ (s.tileControlled n = false → x.power ≠ .off → Completes c s [.csr, .tile, .clk] fun t => Kept {} [n] s.tile t.tile ∧ Gated s t 0 0
            ∧ (p ≠ .deep → t.getTile n = { x with power := p, waking := false, wakeAt := none })
            ∧ (p = .deep → t.getTile n = { x with power := .deep, waking := false, wakeAt := none, acc := [], accHeld := false, stationary := [], masks := [] })
            ∧ (t.getRegionClk (regionOf n)).pllOn = true)
        ∧ (s.tileControlled n = false → x.power = .off → Completes c s [.csr, .tile, .clk, .vault] fun t => Kept {} [n] s.tile t.tile
            ∧ Status8 t .clkGateStatus [] 0 ∧ t.getTile n = { state := x.state, ctx := x.ctx, bistQueued := x.bistQueued, bistFrom := x.bistFrom,
                                                              ueReports := x.ueReports, bank := x.bank, unclear := x.unclear, power := p }
            ∧ (t.getRegionClk (regionOf n)).pllOn = true))
      ∧ (n < 576 → s.absent (srcTile n) = false →
        ((s.tileControlled n = true ∨ x.state = .granted) → Completes (.gateOff acc node) s [.csr] fun t => Gated s t 1 n)
        ∧ (s.tileControlled n = false → x.state ≠ .granted → Completes (.gateOff acc node) s [.csr, .tile, .vault] fun t => Kept {} [n] s.tile t.tile
            ∧ Status8 t .clkGateStatus [] 0 ∧ t.getTile n = { state := x.state, ctx := x.ctx, bistQueued := x.bistQueued, bistFrom := x.bistFrom,
                                                              ueReports := x.ueReports, bank := x.bank, unclear := x.unclear }))
      ∧ (576 ≤ n → ¬ NodeGone s n → Completes (.gateSleep acc node) s [.csr] (fun t => Gated s t 6 0) ∧ Completes (.gateDeep acc node) s [.csr] fun t => Gated s t 6 0)
      ∧ ((596 ≤ n ∧ n ≠ 607) → Completes (.gateRun acc node) s [.csr] (fun t => Gated s t 6 0) ∧ Completes (.gateOff acc node) s [.csr] fun t => Gated s t 6 0)
      ∧ (∀ r, r < 16 → n = 576 + r →
        (Completes (.gateRun acc node) s [.csr, .clk] fun t => (t.getRegionClk r).pllOn = true ∧ ((s.getRegionClk r).pllOn = true → t.clk = s.clk) ∧ Gated s t 0 0)
        ∧ (s.tileOn r = none → Completes (.gateOff acc node) s [.csr, .clk] fun t =>
            RegionSet s t r { margin := (s.getRegionClk r).margin, temp := (s.getRegionClk r).temp } ∧ Gated s t 0 0)
        ∧ ∀ b, s.tileOn r = some b → Completes (.gateOff acc node) s [.csr] fun t => Gated s t 1 b)
      ∧ (∀ v, v < 4 → n = 592 + v → s.absent (srcVlt v) = false →
        (Completes (.gateRun acc node) s [.csr, .clk] fun t => v ∉ t.clk.vengOff ∧ t.clk = { s.clk with vengOff := t.clk.vengOff } ∧ Gated s t 0 0)
        ∧ ((∀ e ∈ (s.getVault v).groups, e.2 = none) → (s.getVault v).mode = .service → Completes (.gateOff acc node) s [.csr, .clk] fun t =>
            v ∈ t.clk.vengOff ∧ t.clk = { s.clk with vengOff := t.clk.vengOff } ∧ Gated s t 0 0)
        ∧ ((∃ e ∈ (s.getVault v).groups, e.2 ≠ none) ∨ (s.getVault v).mode ≠ .service → Completes (.gateOff acc node) s [.csr] fun t => Gated s t 1 n))
      ∧ (n = 607 →
        (Completes (.gateRun acc node) s [.csr, .clk] fun t => t.clk = { s.clk with meshOff := false } ∧ t.bit .clkStatus [] 1 = true ∧ Status8 t .clkGateStatus [] 0)
        ∧ ((∀ r, r < 16 → (s.getRegionClk r).pllOn = false) → (∀ l, l < 6 → (s.getLink l).state = .down) →
            Completes (.gateOff acc node) s [.csr, .clk] fun t => t.clk = { s.clk with meshOff := true } ∧ t.bit .clkStatus [] 1 = false
              ∧ Status8 t .clkGateStatus [] 0)
        ∧ ((∀ r, r < 16 → (s.getRegionClk r).pllOn = false) → (∃ l, l < 6 ∧ (s.getLink l).state ≠ .down) →
            Completes (.gateOff acc node) s [.csr] fun t => Gated s t 1 607)
        ∧ (∀ r, r < 16 → (s.getRegionClk r).pllOn = true → ∃ b, b ≤ r ∧ (s.getRegionClk b).pllOn = true ∧ Completes (.gateOff acc node) s [.csr] fun t => Gated s t 1 (576 + b))))
    ∧ (isLocal acc = true →
      (∀ t1, t1 < 576 → (s.getTile t1).state = .granted → ∃ b, b ≤ t1 ∧ (s.getTile b).state = .granted ∧ Completes (.fabricOff acc) s [.csr] fun t => Gated s t 1 b)
      ∧ ((∀ x, x < 576 → (s.getTile x).state ≠ .granted) → Completes (.fabricOff acc) s [.csr, .tile, .clk, .vault] fun t =>
          t.clk.pstate = 1 ∧ (∀ r, r < 16 → (t.getRegionClk r).pllOn = false) ∧ (∀ v, v < 4 → v ∈ t.clk.vengOff)
          ∧ (∀ x, x < 576 → (t.getTile x).power = .off ∧ (t.getTile x).state = (s.getTile x).state) ∧ Status8 t .clkGateStatus [] 0)
      ∧ (s.clk.pstate = 1 → Completes (.fabricOn acc) s [.csr, .clk] fun t => t.clk = { s.clk with pstate := 2, vengOff := [] } ∧ Gated s t 0 0)
      ∧ (s.clk.pstate ≠ 1 → Completes (.fabricOn acc) s [.csr] fun t => Gated s t 0 0))
    ∧ ∀ r : RegionIx,
        (s.tileOn r.val = none → Completes (.regionPllStop r) s [.clk] fun t =>
          RegionSet s t r.val { margin := (s.getRegionClk r.val).margin, temp := (s.getRegionClk r.val).temp })
        ∧ (s.tileOn r.val ≠ none → exec (.regionPllStop r) s = .next s)

/-! ### Management (17_management.md) -/

/-- Frames at the management port (R420 to R422): a received frame that is damaged, too short or too long, of an unknown VLAN, unprotected and of no class that may be, or from no peer is dropped under its count; a frame of a class that may
travel in clear, from a peer with tokens, goes to the cores, a PTP event message with its stamp; a frame that a core sends leaves in clear where its class does, else sealed by the lowest valid transmit SA, whose next PN rises, or
is dropped without one. In ROM recovery the port takes and sends nothing.
Where the manual is open this follows the model's choices in log entries 88 and 89. -/
def Obligations.PortFrames : Prop :=
  ∀ (f : List Byte) (fr : MgtFrame) (s : State), f = fr.bytes →
    (s.sec.recovery = true → exec (.mgtFrameReceive fr) s = .next s ∧ exec (.mgtFrameTransmit f) s = .next s)
    ∧ (s.sec.recovery = false →
      ((fr.fcsOk = false ∨ fr.fecOk = false) → Completes (.mgtFrameReceive fr) s [.csr] fun t =>
          t.fld .mgtPortCnt [0] 0 32 = satN 32 (s.fld .mgtPortCnt [0] 0 32 + 1) ∧ RegsKept [RegName.mgtPortCnt.addr [0]] s t)
      ∧ (fr.fcsOk = true → fr.fecOk = true → (f.length + 4 < 64 ∨ 9216 < f.length + 4) → Completes (.mgtFrameReceive fr) s [.csr] fun t =>
          t.fld .mgtPortCnt [0] 32 32 = satN 32 (s.fld .mgtPortCnt [0] 32 32 + 1) ∧ RegsKept [RegName.mgtPortCnt.addr [0]] s t)
      ∧ (fr.fcsOk = true → fr.fecOk = true → 60 ≤ f.length → f.length + 4 ≤ 9216 →
        (∀ vid, beAt f 12 2 = 0x8100 → 0x0600 ≤ beAt f 16 2 → beAt f 16 2 ≠ 0x8100 → vid = beAt f 14 2 % 4096 →
            (∀ i, i < 16 → s.bit .mgtVlan [i] 12 = true → s.fld .mgtVlan [i] 0 12 ≠ vid) → Completes (.mgtFrameReceive fr) s [.csr] fun t =>
              t.fld .mgtPortCnt [1] 0 32 = satN 32 (s.fld .mgtPortCnt [1] 0 32 + 1) ∧ RegsKept [RegName.mgtPortCnt.addr [1]] s t)
        ∧ (s.frameFault fr = none → etherType f ≠ 0x88E5 → (∀ b ∈ plainBit (etherType f), s.bit .mgtPortCtl [] b = false) →
            Completes (.mgtFrameReceive fr) s [.csr] fun t =>
              t.fld .mgtPortCnt [2] 0 32 = satN 32 (s.fld .mgtPortCnt [2] 0 32 + 1) ∧ RegsKept [RegName.mgtPortCnt.addr [2]] s t)
        ∧ (∀ b, s.frameFault fr = none → plainBit (etherType f) = some b → s.bit .mgtPortCtl [] b = true → etherType f ≠ 0x0806 →
            (s.peerOf f = none → Completes (.mgtFrameReceive fr) s [.csr] fun t =>
              t.fld .mgtPortCnt [2] 32 32 = satN 32 (s.fld .mgtPortCnt [2] 32 32 + 1) ∧ RegsKept [RegName.mgtPortCnt.addr [2]] s t)
            ∧ (∀ i, s.peerOf f = some i →
                (takeTokens s i false = none → Completes (.mgtFrameReceive fr) s [.csr] fun t =>
                  t.fld .mgtPortCnt [3] 0 32 = satN 32 (s.fld .mgtPortCnt [3] 0 32 + 1) ∧ RegsKept [RegName.mgtPortCnt.addr [3]] s t)
                ∧ ∀ s1, takeTokens s i false = some s1 → Completes (.mgtFrameReceive fr) s [.csr, .port, .out] fun t =>
                    t.out = s.out ++ [.mgtDeliver f] ∧ t.port = s1.port ∧ t.port.sas = s.port.sas
                    ∧ (etherType f = 0x88F7 → beAt f (etherBody f) 1 % 16 < 4 → t.rg .mgtPtpRx [] = s.time.mt ∧ RegsKept [RegName.mgtPtpRx.addr []] s t)
                    ∧ (etherType f ≠ 0x88F7 → t.csr = s.csr)))
        ∧ (∀ p, s.frameFault fr = none → etherType f = 0x0806 → s.bit .mgtPortCtl [] 2 = true → s.arpCollides f = true → s.peerOf f = none →
            s.port.defended = none → p = etherBody f + 8 → ∃ t, exec (.mgtFrameReceive fr) s = .next t
              ∧ t.fld .mgtNetConflict [] 0 48 = beAt f p 6 ∧ t.bit .mgtNetConflict [] 48 = true ∧ t.flt = (notice s .mgtIpConflict srcMgt).flt
              ∧ (s.bit .mgtPortCtl [] 5 = true → OnlyChanges [.csr, .flt, .port, .out] s t ∧ t.out = s.out ++ [.mgtSend s.announcement]
                  ∧ t.port = { s.port with defended := some s.time.refTicks })
              ∧ (s.bit .mgtPortCtl [] 5 = false → OnlyChanges [.csr, .flt] s t)
              ∧ RegsKept [RegName.mgtNetConflict.addr [], RegName.mgtPortCnt.addr [2]] s t)
        ∧ (∀ an x, s.frameFault fr = none → etherType f = 0x88E5 → an = beAt f (etherBody f) 1 % 4 → x = s.sa 0 an →
            ((x.valid = false ∨ Config.macsecOpen x.keyBytes x.sci (field x.ctl 0 32) f = none) → Completes (.mgtFrameReceive fr) s [.csr] fun t =>
              t.fld .mgtPortCnt [1] 32 32 = satN 32 (s.fld .mgtPortCnt [1] 32 32 + 1) ∧ RegsKept [RegName.mgtPortCnt.addr [1]] s t)
            ∧ ∀ clear pn i, x.valid = true → Config.macsecOpen x.keyBytes x.sci (field x.ctl 0 32) f = some (clear, pn) → etherType clear ≠ 0x0806 →
                s.peerOf clear = some i → (takeTokens s i true).isSome = true → Completes (.mgtFrameReceive fr) s [.csr, .port, .out] fun t =>
                  t.out = s.out ++ [.mgtDeliver clear] ∧ (t.sa 0 an).key = x.key
                  ∧ field (t.sa 0 an).ctl 0 32 = max (field x.ctl 0 32) (pn + 1 - s.fld .mgtSecyCtl [] 0 32) % 2 ^ 32
                  ∧ RegsKept [RegName.mgtPtpRx.addr []] s t))
      ∧ ((plainBit (etherType f)).isSome = true → Completes (.mgtFrameTransmit f) s [.csr, .out] fun t => t.out = s.out ++ [.mgtSend f]
          ∧ (etherType f = 0x88F7 → beAt f (etherBody f) 1 % 16 < 4 → t.rg .mgtPtpTx [] = s.time.mt) ∧ RegsKept [RegName.mgtPtpTx.addr []] s t)
      ∧ (plainBit (etherType f) = none →
        ((∀ an, an < 4 → (s.sa 1 an).valid = false) → Completes (.mgtFrameTransmit f) s [.csr] fun t =>
            t.fld .mgtPortCnt [3] 32 32 = satN 32 (s.fld .mgtPortCnt [3] 32 32 + 1) ∧ RegsKept [RegName.mgtPortCnt.addr [3]] s t)
        ∧ ∀ an x, an < 4 → x = s.sa 1 an → x.valid = true → (∀ j, j < an → (s.sa 1 j).valid = false) → Completes (.mgtFrameTransmit f) s [.port, .out] fun t =>
            t.out = s.out ++ [.mgtSend (Config.macsecSeal x.keyBytes x.sci (field x.ctl 0 32) f)] ∧ (t.sa 1 an).key = x.key ∧ (t.sa 1 an).sci = x.sci
            ∧ field (t.sa 1 an).ctl 0 32 = (field x.ctl 0 32 + 1) % 2 ^ 32 ∧ (∀ d j, d < 2 → j < 4 → (d, j) ≠ (1, an) → t.sa d j = s.sa d j)
            ∧ t.port.peers = s.port.peers))

/-- Apertures and flag watches (R423 to R427): VALID is set where the identifier is live, its owner asks for memory that is not dirty (R276), and the range lies in a segment marked for windows, with OK in MGT_APER_STATUS, and is refused
with the status else; an access through a valid aperture in its range, by an owner's core, reads the context's memory or, with WRITE, writes it, a read that meets an uncorrectable word ends in a bus error (R246), and any other access is a bus error with APER_FAULT; a watch that is armed is PENDING, or ends
OK at once where the flag's OWNER is EXPECT already; one that is PENDING keeps its fields; at its deadline it ends with TIMEOUT.
Where the manual is open this follows the model's choices in log entry 90. -/
def Obligations.AperturesAndWatches : Prop :=
  ∀ (s : State),
    (∀ (acc : Accessor) (a : Fin 64) (v : Word), s.absent srcMgt = false →
      (isLocal acc = false → exec (.aperValidWrite acc a v) s = .next s)
      ∧ (isLocal acc = true → s.aperWatched a.val = false →
        (v.getLsbD 32 = false → Completes (.aperValidWrite acc a v) s [.csr] fun t => t.rg .mgtAper [a.val] = v &&& 0xFFFFFFFF
            ∧ RegsKept [RegName.mgtAper.addr [a.val]] s t)
        ∧ (v.getLsbD 32 = true → ∀ (id : CtxId) (c : Ctx) (first n : Nat), id = CtxId.ofNat (v.toNat % 65536) → c = s.getCtx id.slot →
            first = s.fld .mgtAperRange [a.val] 0 21 → n = s.fld .mgtAperRange [a.val] 32 12 →
            (∀ im g, s.live id = true → s.owns acc id.slot = true → (c.state = .opened ∨ c.state = .saved) → (c.dirty = [] ∨ c.pt ≠ []) → c.image = some im →
                im.segs[v.toNat / 65536 % 32768]? = some g → g.window = true → 1 ≤ n → n ≤ 2048 → (first + n) * pageBytes ≤ g.size →
                Completes (.aperValidWrite acc a v) s [.csr] fun t => t.rg .mgtAper [a.val] = v &&& 0x1FFFFFFFF
                  ∧ t.fld .mgtAperStatus [] 0 8 = 0 ∧ t.fld .mgtAperStatus [] 8 6 = a.val
                  ∧ RegsKept [RegName.mgtAper.addr [a.val], RegName.mgtAperStatus.addr []] s t)
            ∧ ∀ st, (s.live id = false ∧ st = 4) ∨ (s.live id = true ∧ (s.owns acc id.slot = false ∨ (c.dirty ≠ [] ∧ c.pt = [])) ∧ st = 3)
                ∨ (s.live id = true ∧ s.owns acc id.slot = true ∧ (c.dirty = [] ∨ c.pt ≠ []) ∧ (c.image = none ∨ n = 0 ∨ 2048 < n ∨ c.state = .saving ∨ c.state = .restoring) ∧ st = 6) →
                Completes (.aperValidWrite acc a v) s [.csr] fun t => t.rg .mgtAper [a.val] = v &&& 0xFFFFFFFF
                  ∧ t.fld .mgtAperStatus [] 0 8 = st ∧ t.fld .mgtAperStatus [] 8 6 = a.val
                  ∧ RegsKept [RegName.mgtAper.addr [a.val], RegName.mgtAperStatus.addr []] s t)))
    ∧ (∀ (core : Fin 8) (a : Fin 64) (off : BitVec 32) (n : Nat) (data : Option (List Byte)) (found : Findings) (size : Nat), size = s.fld .mgtAperRange [a.val] 32 12 * pageBytes →
      ((s.aperVa a.val off.toNat = none ∨ size < off.toNat + n) →
        exec (.apertureAccess core a off n data found) s = .next ((notice s .aperFault srcMgt).emit (.coreFault core.val)))
      ∧ ∀ k va, s.aperVa a.val off.toNat = some (k, va) → off.toNat + n ≤ size →
        (s.owns (.mgt core) k = true → data = none →
            (found = {} → Completes (.apertureAccess core a off n data found) s [.out] fun t => t.out = s.out ++ [.coreRead core.val (s.ctxRead k va n)])
            ∧ ∀ lost s1, readPages s k found .core (pieces va n) = (lost, s1) → exec (.apertureAccess core a off n data found) s
                = .next (s1.emit (if lost then .coreFault core.val else .coreRead core.val (s1.ctxRead k va n))))
        ∧ (s.owns (.mgt core) k = true → ∀ bs, data = some bs → s.bit .mgtAper [a.val] 31 = true →
            exec (.apertureAccess core a off n data found) s = .next (s.ctxWrite k va bs))
        ∧ ((s.owns (.mgt core) k = false ∨ (data.isSome = true ∧ s.bit .mgtAper [a.val] 31 = false)) →
            exec (.apertureAccess core a off n data found) s = .next ((notice s .aperFault srcMgt).emit (.coreFault core.val))))
    ∧ (∀ (acc : Accessor) (w : Fin 16) (v : Word), s.absent srcMgt = false →
      (isLocal acc = false → exec (.flagWatchArm acc w v) s = .next s)
      ∧ (isLocal acc = true →
        (s.bit .mgtFlagWatch [w.val] 40 = true → Completes (.flagWatchArm acc w v) s [.csr] fun t =>
            t.rg .mgtFlagWatch [w.val] = (if v.getLsbD 41 then withField (s.rg .mgtFlagWatch [w.val]) 41 1 0 else s.rg .mgtFlagWatch [w.val])
            ∧ RegsKept [RegName.mgtFlagWatch.addr [w.val]] s t)
        ∧ (s.bit .mgtFlagWatch [w.val] 40 = false → v.getLsbD 39 = false → Completes (.flagWatchArm acc w v) s [.csr] fun t =>
            t.fld .mgtFlagWatch [w.val] 0 39 = v.toNat % 2 ^ 39 ∧ t.bit .mgtFlagWatch [w.val] 40 = false ∧ RegsKept [RegName.mgtFlagWatch.addr [w.val]] s t)
        ∧ (s.bit .mgtFlagWatch [w.val] 40 = false → v.getLsbD 39 = true → ∀ q,
            q = (match s.aperVa (v.toNat % 64) (8 * (v.toNat / 64 % 2 ^ 29)) with
              | some (k, va) => flagOwner (s.ctxNat k va 8) == v.toNat / 2 ^ 35 % 16
              | none => false) →
            (q = false → Completes (.flagWatchArm acc w v) s [.csr] fun t =>
              t.fld .mgtFlagWatch [w.val] 0 39 = v.toNat % 2 ^ 39 ∧ t.bit .mgtFlagWatch [w.val] 40 = true ∧ t.bit .mgtFlagWatch [w.val] 41 = false
              ∧ RegsKept [RegName.mgtFlagWatch.addr [w.val]] s t)
            ∧ (q = true → Completes (.flagWatchArm acc w v) s [.csr, .out] fun t =>
              t.fld .mgtFlagWatch [w.val] 0 39 = v.toNat % 2 ^ 39 ∧ t.bit .mgtFlagWatch [w.val] 40 = false ∧ t.bit .mgtFlagWatch [w.val] 41 = true
              ∧ t.fld .mgtFlagWatch [w.val] 43 8 = 0 ∧ t.out = s.out ++ [.watchIrq w.val] ∧ RegsKept [RegName.mgtFlagWatch.addr [w.val]] s t))))
    ∧ ∀ (w : Fin 16), s.bit .mgtFlagWatch [w.val] 40 = true →
        (s.rg .mgtFlagWatchDl [w.val] ≠ 0 → (s.rg .mgtFlagWatchDl [w.val]).toNat ≤ s.mtN → Completes (.flagWatchTimeout w) s [.csr, .out] fun t =>
          t.bit .mgtFlagWatch [w.val] 40 = false ∧ t.bit .mgtFlagWatch [w.val] 41 = true ∧ t.fld .mgtFlagWatch [w.val] 43 8 = 7
          ∧ t.out = s.out ++ [.watchIrq w.val] ∧ RegsKept [RegName.mgtFlagWatch.addr [w.val]] s t)
        ∧ ((s.rg .mgtFlagWatchDl [w.val] = 0 ∨ s.mtN < (s.rg .mgtFlagWatchDl [w.val]).toNat) → exec (.flagWatchTimeout w) s = .next s)
end

