-- ==== Sys2Proof/Laws/Bits.lean ====
section
/-! SUPPORT. The laws of fields of words: a field read after it is replaced, and the fields beside it. -/

namespace Sys2Proof.Machine

/-- Bits of a field of a number. -/
theorem fieldN_testBit (x lo n i : Nat) : (fieldN x lo n).testBit i = (decide (i < n) && x.testBit (lo + i)) := by
  simp [fieldN, Nat.testBit_mod_two_pow, Nat.testBit_div_two_pow, Nat.add_comm]

theorem fieldN_lt (x lo n : Nat) : fieldN x lo n < 2 ^ n := Nat.mod_lt _ (Nat.two_pow_pos n)

/-- A number split at a field. -/
theorem split_field (x lo n : Nat) :
    x = 2 ^ lo * (2 ^ n * (x / 2 ^ lo / 2 ^ n) + fieldN x lo n) + x % 2 ^ lo := by
  have h1 := Nat.div_add_mod x (2 ^ lo)
  have h2 := Nat.div_add_mod (x / 2 ^ lo) (2 ^ n)
  rw [fieldN, h2, h1]

/-- The number with a field replaced, split at the field. -/
theorem replace_field (x lo n v : Nat) :
    x - fieldN x lo n * 2 ^ lo + v % 2 ^ n * 2 ^ lo
      = 2 ^ lo * (2 ^ n * (x / 2 ^ lo / 2 ^ n) + v % 2 ^ n) + x % 2 ^ lo := by
  have h := split_field x lo n
  generalize fieldN x lo n = f at h ⊢
  generalize x / 2 ^ lo / 2 ^ n = q at h ⊢
  generalize x % 2 ^ lo = r at h ⊢
  generalize v % 2 ^ n = u
  rw [Nat.mul_add] at h ⊢
  have hc : f * 2 ^ lo = 2 ^ lo * f := Nat.mul_comm ..
  have hu : u * 2 ^ lo = 2 ^ lo * u := Nat.mul_comm ..
  omega

theorem replace_field_lt (x lo n v : Nat) (hx : x < 2 ^ 64) (hl : lo + n ≤ 64) :
    2 ^ lo * (2 ^ n * (x / 2 ^ lo / 2 ^ n) + v % 2 ^ n) + x % 2 ^ lo < 2 ^ 64 := by
  obtain ⟨c, hc⟩ : ∃ c, 64 = lo + n + c := ⟨64 - (lo + n), by omega⟩
  have hq : x / 2 ^ lo / 2 ^ n < 2 ^ c := by
    rw [Nat.div_div_eq_div_mul, ← Nat.pow_add]
    apply Nat.div_lt_of_lt_mul
    rw [← Nat.pow_add, ← hc]; exact hx
  have hv : v % 2 ^ n < 2 ^ n := Nat.mod_lt _ (Nat.two_pow_pos n)
  have hr : x % 2 ^ lo < 2 ^ lo := Nat.mod_lt _ (Nat.two_pow_pos lo)
  have h1 : 2 ^ n * (x / 2 ^ lo / 2 ^ n) + v % 2 ^ n < 2 ^ n * 2 ^ c := by
    calc 2 ^ n * (x / 2 ^ lo / 2 ^ n) + v % 2 ^ n < 2 ^ n * (x / 2 ^ lo / 2 ^ n) + 2 ^ n := by omega
      _ = 2 ^ n * (x / 2 ^ lo / 2 ^ n + 1) := by rw [Nat.mul_add, Nat.mul_one]
      _ ≤ 2 ^ n * 2 ^ c := Nat.mul_le_mul_left _ hq
  have h2 : 2 ^ 64 = 2 ^ lo * (2 ^ n * 2 ^ c) := by rw [hc, Nat.pow_add, Nat.pow_add, Nat.mul_assoc]
  rw [h2]
  calc _ < 2 ^ lo * (2 ^ n * (x / 2 ^ lo / 2 ^ n) + v % 2 ^ n) + 2 ^ lo := by omega
    _ = 2 ^ lo * (2 ^ n * (x / 2 ^ lo / 2 ^ n) + v % 2 ^ n + 1) := (Nat.mul_succ ..).symm
    _ ≤ 2 ^ lo * (2 ^ n * 2 ^ c) := Nat.mul_le_mul_left _ h1

theorem withField_toNat (w : Word) (lo n v : Nat) (hl : lo + n ≤ 64) :
    (withField w lo n v).toNat
      = 2 ^ lo * (2 ^ n * (w.toNat / 2 ^ lo / 2 ^ n) + v % 2 ^ n) + w.toNat % 2 ^ lo := by
  have h := replace_field_lt w.toNat lo n v w.isLt hl
  rw [withField, Word.ofNat, BitVec.toNat_ofNat, field, replace_field, Nat.mod_eq_of_lt h]

/-- A field read after it is replaced holds the new value, cut to the field's width. -/
theorem field_withField (w : Word) (lo n v : Nat) (hl : lo + n ≤ 64) :
    field (withField w lo n v) lo n = v % 2 ^ n := by
  rw [field, withField_toNat w lo n v hl, fieldN]
  have hr : w.toNat % 2 ^ lo < 2 ^ lo := Nat.mod_lt _ (Nat.two_pow_pos lo)
  rw [Nat.mul_add_div (Nat.two_pow_pos lo), Nat.div_eq_of_lt hr, Nat.add_zero, Nat.mul_add_mod, Nat.mod_mod]

/-- The bits of a word outside a field that is replaced stay. -/
theorem withField_testBit (w : Word) (lo n v i : Nat) (hl : lo + n ≤ 64) (hi : i < lo ∨ lo + n ≤ i) :
    (withField w lo n v).toNat.testBit i = w.toNat.testBit i := by
  have hr : w.toNat % 2 ^ lo < 2 ^ lo := Nat.mod_lt _ (Nat.two_pow_pos lo)
  have hv : v % 2 ^ n < 2 ^ n := Nat.mod_lt _ (Nat.two_pow_pos n)
  rw [withField_toNat w lo n v hl]
  rcases hi with hi | hi
  · rw [Nat.testBit_two_pow_mul_add _ hr, if_pos hi, Nat.testBit_mod_two_pow]
    simp [hi]
  · rw [Nat.testBit_two_pow_mul_add _ hr, if_neg (by omega), Nat.testBit_two_pow_mul_add _ hv, if_neg (by omega),
      Nat.testBit_div_two_pow, Nat.testBit_div_two_pow]
    congr 1
    omega

/-- A field beside a field that is replaced stays. -/
theorem field_withField_ne (w : Word) (lo n v lo' n' : Nat) (hl : lo + n ≤ 64) (h : lo' + n' ≤ lo ∨ lo + n ≤ lo') :
    field (withField w lo n v) lo' n' = field w lo' n' := by
  apply Nat.eq_of_testBit_eq
  intro i
  rw [field, field, fieldN_testBit, fieldN_testBit]
  by_cases hi : i < n'
  · rw [withField_testBit w lo n v (lo' + i) hl (by omega)]
  · simp [hi]

theorem field_lt (w : Word) (lo n : Nat) : field w lo n < 2 ^ n := fieldN_lt _ _ _

@[simp] theorem b2n_true : b2n true = 1 := rfl
@[simp] theorem b2n_false : b2n false = 0 := rfl

/-- One bit as a field. -/
theorem bitOf_eq_field (w : Word) (i : Nat) : bitOf w i = decide (field w i 1 = 1) := by
  rw [bitOf, BitVec.getLsbD, Nat.testBit, field, fieldN, Nat.shiftRight_eq_div_pow]
  rcases Nat.mod_two_eq_zero_or_one (w.toNat / 2 ^ i) with h | h <;> simp [h]

/-! ### Bytes -/

@[simp] theorem length_leBytes (n x : Nat) : (leBytes n x).length = n := by
  induction n generalizing x with
  | zero => rfl
  | succ n ih => simp [leBytes, ih]

/-- A number read back from its little-endian bytes. -/
theorem leNat_leBytes (n x : Nat) : leNat (leBytes n x) = x % 256 ^ n := by
  induction n generalizing x with
  | zero => simp [leBytes, leNat, Nat.mod_one]
  | succ n ih =>
    simp only [leBytes, leNat, ih, BitVec.toNat_ofNat]
    have h : 256 ^ (n + 1) = 256 * 256 ^ n := by rw [Nat.pow_succ, Nat.mul_comm]
    rw [h, Nat.mod_mul]

/-- The bytes of the number that a list of bytes spells are the list. -/
theorem leBytes_leNat (bs : List Byte) : leBytes bs.length (leNat bs) = bs := by
  induction bs with
  | nil => rfl
  | cons b bs ih =>
    simp only [List.length_cons, leBytes, leNat]
    have hb := b.isLt
    congr 1
    · apply BitVec.eq_of_toNat_eq
      simp only [BitVec.toNat_ofNat]
      omega
    · have : (b.toNat + 256 * leNat bs) / 256 = leNat bs := by omega
      rw [this, ih]

/-- A saturating counter stays within its bits. -/
theorem satN_lt (n x : Nat) : satN n x < 2 ^ n := by
  unfold satN
  split
  · assumption
  · have := Nat.two_pow_pos n; omega

/-- A clamped value lies in its range. -/
theorem clampI_mem (lo hi x : Int) (h : lo ≤ hi) : lo ≤ clampI lo hi x ∧ clampI lo hi x ≤ hi := by
  unfold clampI
  split
  · exact ⟨Int.le_refl _, h⟩
  · split
    · exact ⟨h, Int.le_refl _⟩
    · omega

end Sys2Proof.Machine
end

