-- ==== Sys2Proof/Laws/Sparse.lean ====
section
/-! SUPPORT. The laws of sparse families and of byte memories: a read after a write, other keys, and the canonical form that every
operation keeps. -/

namespace Sys2Proof.Machine

variable {α : Type}

/-- Every key of the family is above a bound. -/
def KMap.AllAbove (b : Nat) (m : KMap α) : Prop := ∀ e ∈ m, b < e.1

theorem KMap.get_above (d : α) (m : KMap α) {a b : Nat} (h : a < b) :
    KMap.get d (KMap.above a m) b = KMap.get d m b := by
  induction m with
  | nil => rfl
  | cons e r ih =>
    obtain ⟨k, v⟩ := e
    simp only [KMap.above]
    split
    · rename_i hk
      rw [ih]
      simp only [KMap.get]
      rw [if_neg (by omega), if_neg (by omega)]
    · rfl

theorem KMap.get_above_low (d : α) (m : KMap α) {a b : Nat} (h : b ≤ a) :
    KMap.get d (KMap.above a m) b = d := by
  induction m with
  | nil => rfl
  | cons e r ih =>
    obtain ⟨k, v⟩ := e
    simp only [KMap.above]
    split
    · exact ih
    · simp only [KMap.get]
      rw [if_neg (by omega), if_pos (by omega)]

/-- A read after a write to the same key gives the value written. -/
@[simp] theorem KMap.get_set_self [DecidableEq α] (d : α) (m : KMap α) (a : Nat) (v : α) :
    KMap.get d (KMap.set d m a v) a = v := by
  induction m with
  | nil => simp only [KMap.set]; split <;> simp_all [KMap.get]
  | cons e r ih =>
    obtain ⟨k, w⟩ := e
    simp only [KMap.set]
    split
    · rename_i h
      split
      · rename_i hv
        simp only [KMap.get]
        rw [if_neg (by omega), if_pos h, hv]
      · simp [KMap.get]
    · split
      · rename_i h1 h2
        split
        · rename_i hv
          rw [KMap.get_above_low d r (Nat.le_refl a), hv]
        · simp [KMap.get]
      · rename_i h1 h2
        simp only [KMap.get]
        rw [if_neg h2, if_neg h1, ih]

/-- A write leaves every other key alone; the families' defaults may differ. -/
theorem KMap.get_set_ne [DecidableEq α] (d' d : α) (m : KMap α) {a b : Nat} (v : α) (h : b ≠ a) :
    KMap.get d' (KMap.set d m a v) b = KMap.get d' m b := by
  induction m with
  | nil =>
    simp only [KMap.set]
    split
    · rfl
    · simp only [KMap.get]
      rw [if_neg h]
      split <;> rfl
  | cons e r ih =>
    obtain ⟨k, w⟩ := e
    simp only [KMap.set]
    split
    · rename_i hk
      split
      · rfl
      · simp only [KMap.get]
        rw [if_neg h]
        by_cases hb : b < a
        · rw [if_pos hb, if_neg (by omega), if_pos (by omega)]
        · rw [if_neg hb]
    · split
      · rename_i h1 h2
        subst h2
        split
        · by_cases hb : b < a
          · rw [KMap.get_above_low d' r (by omega)]
            simp only [KMap.get]
            rw [if_neg h, if_pos hb]
          · rw [KMap.get_above d' r (by omega)]
            simp only [KMap.get]
            rw [if_neg h, if_neg hb]
        · simp only [KMap.get]
          rw [if_neg h, if_neg h]
      · rename_i h1 h2
        simp only [KMap.get]
        rw [ih]

/-- Reading any key of a family after a write. -/
theorem KMap.get_set [DecidableEq α] (d : α) (m : KMap α) (a b : Nat) (v : α) :
    KMap.get d (KMap.set d m a v) b = if b = a then v else KMap.get d m b := by
  by_cases h : b = a
  · subst h; simp
  · rw [if_neg h, KMap.get_set_ne d d m v h]

/-! ### The canonical form -/

theorem KMap.wf_cons [DecidableEq α] (d : α) (k : Nat) (v : α) (r : KMap α) :
    KMap.wf d ((k, v) :: r) = true ↔ v ≠ d ∧ KMap.AllAbove k r ∧ KMap.wf d r = true := by
  induction r generalizing k v with
  | nil => simp [KMap.wf, KMap.AllAbove]
  | cons e r ih =>
    obtain ⟨k', v'⟩ := e
    simp only [KMap.wf, Bool.and_eq_true, decide_eq_true_eq, Bool.not_eq_true', decide_eq_false_iff_not]
    rw [ih]
    constructor
    · rintro ⟨⟨h1, h2⟩, h3, h4, h5⟩
      refine ⟨h2, ?_, h3, h4, h5⟩
      intro e he
      rcases List.mem_cons.1 he with rfl | he
      · exact h1
      · exact Nat.lt_trans h1 (h4 e he)
    · rintro ⟨h1, h2, h3, h4, h5⟩
      exact ⟨⟨h2 _ (List.mem_cons_self ..), h1⟩, h3, h4, h5⟩

theorem KMap.AllAbove.above {m : KMap α} {b : Nat} (h : KMap.AllAbove b m) (a : Nat) :
    KMap.AllAbove b (KMap.above a m) := by
  induction m with
  | nil => exact h
  | cons e r ih =>
    obtain ⟨k, v⟩ := e
    simp only [KMap.above]
    split
    · exact ih fun e he => h e (List.mem_cons_of_mem _ he)
    · exact h

theorem KMap.above_wf [DecidableEq α] (d : α) (m : KMap α) (a : Nat) (h : KMap.wf d m = true) :
    KMap.wf d (KMap.above a m) = true := by
  induction m with
  | nil => rfl
  | cons e r ih =>
    obtain ⟨k, v⟩ := e
    simp only [KMap.above]
    split
    · exact ih ((KMap.wf_cons d k v r).1 h).2.2
    · exact h

theorem KMap.above_allAbove [DecidableEq α] (d : α) (m : KMap α) (a : Nat) (h : KMap.wf d m = true) :
    KMap.AllAbove a (KMap.above a m) := by
  induction m with
  | nil => intro e he; cases he
  | cons e r ih =>
    obtain ⟨k, v⟩ := e
    have hh := (KMap.wf_cons d k v r).1 h
    simp only [KMap.above]
    split
    · exact ih hh.2.2
    · intro e he
      rcases List.mem_cons.1 he with rfl | he
      · simp only; omega
      · have := hh.2.1 e he; omega

theorem KMap.AllAbove.set [DecidableEq α] (d : α) {m : KMap α} {b a : Nat} (v : α) (h : KMap.AllAbove b m) (hb : b < a) :
    KMap.AllAbove b (KMap.set d m a v) := by
  induction m with
  | nil =>
    simp only [KMap.set]
    split
    · exact h
    · intro e he
      rcases List.mem_cons.1 he with rfl | he
      · exact hb
      · cases he
  | cons e r ih =>
    obtain ⟨k, w⟩ := e
    have hk : b < k := h _ (List.mem_cons_self ..)
    have hr : KMap.AllAbove b r := fun e he => h e (List.mem_cons_of_mem _ he)
    simp only [KMap.set]
    split
    · split
      · exact h
      · intro e he
        rcases List.mem_cons.1 he with rfl | he
        · exact hb
        · exact h e he
    · split
      · split
        · exact hr.above a
        · intro e he
          rcases List.mem_cons.1 he with rfl | he
          · exact hb
          · exact hr e he
      · intro e he
        rcases List.mem_cons.1 he with rfl | he
        · exact hk
        · exact ih hr e he

/-- A write keeps the canonical form. -/
theorem KMap.set_wf [DecidableEq α] (d : α) (m : KMap α) (a : Nat) (v : α) (h : KMap.wf d m = true) :
    KMap.wf d (KMap.set d m a v) = true := by
  induction m with
  | nil =>
    simp only [KMap.set]
    split
    · rfl
    · simp_all [KMap.wf]
  | cons e r ih =>
    obtain ⟨k, w⟩ := e
    obtain ⟨h1, h2, h3⟩ := (KMap.wf_cons d k w r).1 h
    simp only [KMap.set]
    split
    · rename_i hk
      split
      · exact h
      · rename_i hv
        refine (KMap.wf_cons d a v _).2 ⟨hv, ?_, h⟩
        intro e he
        rcases List.mem_cons.1 he with rfl | he
        · exact hk
        · have := h2 e he; omega
    · split
      · rename_i hka hk
        subst hk
        split
        · exact KMap.above_wf d r a h3
        · rename_i hv
          exact (KMap.wf_cons d a v r).2 ⟨hv, h2, h3⟩
      · rename_i hka hk
        exact (KMap.wf_cons d k w _).2 ⟨h1, h2.set d v (by omega), ih h3⟩

/-- A change of one value keeps the canonical form. -/
theorem KMap.upd_wf [DecidableEq α] (d : α) (m : KMap α) (a : Nat) (f : α → α) (h : KMap.wf d m = true) :
    KMap.wf d (KMap.upd d m a f) = true := KMap.set_wf d m a _ h

theorem KMap.filter_wf [DecidableEq α] (d : α) (m : KMap α) (p : Nat × α → Bool) (h : KMap.wf d m = true) :
    KMap.wf d (m.filter p) = true := by
  induction m with
  | nil => rfl
  | cons e r ih =>
    obtain ⟨k, v⟩ := e
    obtain ⟨h1, h2, h3⟩ := (KMap.wf_cons d k v r).1 h
    rw [List.filter_cons]
    split
    · exact (KMap.wf_cons d k v _).2 ⟨h1, fun e he => h2 e (List.mem_filter.1 he).1, ih h3⟩
    · exact ih h3

/-- Taking keys away keeps the canonical form. -/
theorem KMap.drop_wf [DecidableEq α] (d : α) (m : KMap α) (p : Nat → Bool) (h : KMap.wf d m = true) :
    KMap.wf d (KMap.drop m p) = true := KMap.filter_wf d m _ h

theorem KMap.map_wf [DecidableEq α] (d : α) (m : KMap α) (f : α → α) (h : KMap.wf d m = true) :
    KMap.wf d (KMap.mapV d m f) = true := by
  induction m with
  | nil => rfl
  | cons e r ih =>
    obtain ⟨k, v⟩ := e
    obtain ⟨h1, h2, h3⟩ := (KMap.wf_cons d k v r).1 h
    have ih := ih h3
    simp only [KMap.mapV, List.map_cons, List.filter_cons] at ih ⊢
    split
    · rename_i hf
      refine (KMap.wf_cons d k (f v) _).2 ⟨by simpa using hf, ?_, ih⟩
      intro e he
      obtain ⟨e', he', rfl⟩ := List.mem_map.1 (List.mem_filter.1 he).1
      exact h2 e' he'
    · exact ih

/-- A value of a family whose values were changed, where the default stays the default. -/
theorem KMap.get_mapV [DecidableEq α] (d : α) (m : KMap α) (f : α → α) (hd : f d = d) (h : KMap.wf d m = true) (a : Nat) :
    KMap.get d (KMap.mapV d m f) a = f (KMap.get d m a) := by
  have low : ∀ (r : KMap α) (k : Nat), KMap.AllAbove k r → ∀ a ≤ k, KMap.get d r a = d := by
    intro r k hr a ha
    cases r with
    | nil => rfl
    | cons e r =>
      have := hr e (List.mem_cons_self ..)
      simp only [KMap.get]
      rw [if_neg (by omega), if_pos (by omega)]
  induction m with
  | nil => exact hd.symm
  | cons e r ih =>
    obtain ⟨k, v⟩ := e
    obtain ⟨h1, h2, h3⟩ := (KMap.wf_cons d k v r).1 h
    have ih := ih h3
    have hab : KMap.AllAbove k (KMap.mapV d r f) := by
      intro e he
      obtain ⟨e', he', rfl⟩ := List.mem_map.1 (List.mem_filter.1 he).1
      exact h2 e' he'
    have hm : KMap.mapV d ((k, v) :: r) f = if f v = d then KMap.mapV d r f else (k, f v) :: KMap.mapV d r f := by
      simp only [KMap.mapV, List.map_cons, List.filter_cons]
      by_cases hv : f v = d <;> simp [hv]
    rw [hm]
    by_cases hv : f v = d
    · rw [if_pos hv]
      simp only [KMap.get]
      split
      · rename_i hak
        rw [low _ k hab a (by omega), hv]
      · split
        · rw [low _ k hab a (by omega), hd]
        · exact ih
    · rw [if_neg hv]
      simp only [KMap.get]
      split
      · rfl
      · split
        · exact hd.symm
        · exact ih

/-- Families in canonical form that read alike at every key are equal data. -/
theorem KMap.ext_wf [DecidableEq α] (d : α) (m n : KMap α) (hm : KMap.wf d m = true) (hn : KMap.wf d n = true)
    (h : ∀ a, KMap.get d m a = KMap.get d n a) : m = n := by
  have low : ∀ (r : KMap α) (k : Nat), KMap.AllAbove k r → KMap.get d r k = d := by
    intro r k hr
    cases r with
    | nil => rfl
    | cons e r =>
      have := hr e (List.mem_cons_self ..)
      simp only [KMap.get]
      rw [if_neg (by omega), if_pos this]
  induction m generalizing n with
  | nil =>
    cases n with
    | nil => rfl
    | cons e r =>
      obtain ⟨k, v⟩ := e
      have hh := (KMap.wf_cons d k v r).1 hn
      have := h k
      simp [KMap.get] at this
      exact absurd this.symm hh.1
  | cons e r ih =>
    obtain ⟨k, v⟩ := e
    have hh := (KMap.wf_cons d k v r).1 hm
    cases n with
    | nil =>
      have := h k
      simp [KMap.get] at this
      exact absurd this hh.1
    | cons e' r' =>
      obtain ⟨k', v'⟩ := e'
      have hh' := (KMap.wf_cons d k' v' r').1 hn
      have hkk : k = k' := by
        rcases Nat.lt_trichotomy k k' with hlt | heq | hgt
        · have := h k
          simp only [KMap.get] at this
          rw [if_pos trivial, if_neg (by omega), if_pos hlt] at this
          exact absurd this hh.1
        · exact heq
        · have := h k'
          simp only [KMap.get] at this
          rw [if_neg (by omega), if_pos hgt, if_pos trivial] at this
          exact absurd this.symm hh'.1
      subst hkk
      have hv : v = v' := by
        have := h k
        simpa [KMap.get] using this
      subst hv
      congr 1
      refine ih r' hh.2.2 hh'.2.2 fun a => ?_
      by_cases ha : a = k
      · subst ha
        rw [low r a hh.2.1, low r' a hh'.2.1]
      · by_cases hlt : a < k
        · rw [low r a fun e he => Nat.lt_trans hlt (hh.2.1 e he),
            low r' a fun e he => Nat.lt_trans hlt (hh'.2.1 e he)]
        · have := h a
          simp only [KMap.get] at this
          rwa [if_neg ha, if_neg hlt, if_neg ha, if_neg hlt] at this

/-! ### Byte memories -/

/-- A byte write keeps the canonical form of a memory. -/
theorem Memory.set_wf (m : Memory) (a : Nat) (b : Byte) (h : m.wf = true) : (m.set a b).wf = true := KMap.set_wf 0 m a b h

/-- A write of several bytes keeps the canonical form of a memory. -/
theorem Memory.write_wf (bs : List Byte) (m : Memory) (a : Nat) (h : m.wf = true) : (Memory.write m a bs).wf = true := by
  induction bs generalizing m a with
  | nil => exact h
  | cons b bs ih => exact ih _ _ (Memory.set_wf m a b h)

/-- Setting a run back to what nothing has written keeps the canonical form of a memory. -/
theorem Memory.clear_wf (m : Memory) (a n : Nat) (h : m.wf = true) : (m.clear a n).wf = true := KMap.drop_wf 0 m _ h

theorem Memory.fold_set_wf (l : List (Nat × Byte)) (f : Nat → Nat) (m : Memory) (h : m.wf = true) :
    (l.foldl (fun (m : Memory) e => m.set (f e.1) e.2) m).wf = true := by
  induction l generalizing m with
  | nil => exact h
  | cons e r ih => exact ih _ (Memory.set_wf m _ _ h)

/-- A copy keeps the canonical form of the memory that it writes. -/
theorem Memory.copy_wf (src : Memory) (a : Nat) (dst : Memory) (b n : Nat) (h : dst.wf = true) :
    (Memory.copy src a dst b n).wf = true :=
  Memory.fold_set_wf _ (fun x => b + (x - a)) _ (Memory.clear_wf dst b n h)

@[simp] theorem Memory.get_set_self (m : Memory) (a : Nat) (b : Byte) : (m.set a b).get a = b := KMap.get_set_self 0 m a b

theorem Memory.get_set_ne (m : Memory) {a a' : Nat} (b : Byte) (h : a' ≠ a) : (m.set a b).get a' = m.get a' :=
  KMap.get_set_ne 0 0 m b h

/-- A write leaves every byte outside its run alone. -/
theorem Memory.get_write_out (bs : List Byte) (m : Memory) (a x : Nat) (h : x < a ∨ a + bs.length ≤ x) :
    (Memory.write m a bs).get x = m.get x := by
  induction bs generalizing m a with
  | nil => rfl
  | cons b bs ih =>
    simp only [Memory.write, List.length_cons] at h ⊢
    rw [ih _ _ (by omega), Memory.get_set_ne m b (by omega)]

/-- A byte inside a run that was written. -/
theorem Memory.get_write_in (bs : List Byte) (m : Memory) (a i : Nat) (h : i < bs.length) :
    (Memory.write m a bs).get (a + i) = bs[i] := by
  induction bs generalizing m a i with
  | nil => simp at h
  | cons b bs ih =>
    simp only [Memory.write]
    cases i with
    | zero =>
      rw [Memory.get_write_out bs _ _ _ (by omega)]
      simp
    | succ i =>
      have : a + (i + 1) = a + 1 + i := by omega
      rw [this, ih _ _ i (by simpa using h)]
      simp

@[simp] theorem Memory.length_read (m : Memory) (a n : Nat) : (Memory.read m a n).length = n := by
  induction n generalizing a with
  | zero => rfl
  | succ n ih => simp [Memory.read, ih]

/-- What is written is read back. -/
theorem Memory.read_write (bs : List Byte) (m : Memory) (a : Nat) :
    Memory.read (Memory.write m a bs) a bs.length = bs := by
  induction bs generalizing m a with
  | nil => rfl
  | cons b bs ih =>
    simp only [Memory.read, Memory.write, List.length_cons]
    rw [ih, Memory.get_write_out bs _ _ _ (by omega)]
    simp

/-- A memory with nothing listed is in canonical form. -/
theorem Memory.wf_nil : Memory.wf [] = true := rfl

end Sys2Proof.Machine
end

