-- ==== Sys2Proof/Laws/Memories.lean ====
section
/-! SUPPORT. The writes of tensors, lines and ranges keep the canonical form of the memory that they write. -/

namespace Sys2Proof.Machine

theorem writeRanges_wf (rs : List (Nat × Nat)) (m : Memory) (bs : List Byte) (h : m.wf = true) : (writeRanges m rs bs).wf = true := by
  induction rs generalizing m bs with
  | nil => exact h
  | cons r rs ih => exact ih _ _ (Memory.write_wf _ _ _ h)

/-- A fold of operations that each keep the canonical form of a memory. -/
theorem fold_wf {α : Type} (f : Memory → α → Memory) (hf : ∀ m a, m.wf = true → (f m a).wf = true) (l : List α) (m : Memory)
    (h : m.wf = true) : (l.foldl f m).wf = true := by
  induction l generalizing m with
  | nil => exact h
  | cons a l ih => exact ih _ (hf _ _ h)

theorem writeLine_wf (m : Memory) (d : Desc) (data i : Nat) (bs : List Block) (h : m.wf = true) : (writeLine m d data i bs).wf = true :=
  Memory.write_wf _ _ _ (Memory.write_wf _ _ _ h)

theorem writeTensor_wf (m : Memory) (d : Desc) (data : Nat) (ls : List (List Block)) (h : m.wf = true) :
    (writeTensor m d data ls).wf = true :=
  fold_wf _ (fun _ _ hm => writeLine_wf _ _ _ _ _ hm) _ _ h

end Sys2Proof.Machine
end

