-- ==== Sys2Proof/Laws/State.lean ====
section
/-! SUPPORT. The state's fields under each named update, and reads after updates of registers and of the indexed families. -/

namespace Sys2Proof.Machine

variable (s : State)

/-! ### Fields under `State.setRg` -/

@[simp] theorem State.setRg_pending (n : RegName) (ix : List Nat) (w : Word) : (s.setRg n ix w).pending = s.pending := rfl
@[simp] theorem State.setRg_out (n : RegName) (ix : List Nat) (w : Word) : (s.setRg n ix w).out = s.out := rfl
@[simp] theorem State.setRg_resp (n : RegName) (ix : List Nat) (w : Word) : (s.setRg n ix w).resp = s.resp := rfl
@[simp] theorem State.setRg_freeCtr (n : RegName) (ix : List Nat) (w : Word) : (s.setRg n ix w).freeCtr = s.freeCtr := rfl
@[simp] theorem State.setRg_fuses (n : RegName) (ix : List Nat) (w : Word) : (s.setRg n ix w).fuses = s.fuses := rfl
@[simp] theorem State.setRg_failedT (n : RegName) (ix : List Nat) (w : Word) : (s.setRg n ix w).failedT = s.failedT := rfl
@[simp] theorem State.setRg_failedB (n : RegName) (ix : List Nat) (w : Word) : (s.setRg n ix w).failedB = s.failedB := rfl
@[simp] theorem State.setRg_tested (n : RegName) (ix : List Nat) (w : Word) : (s.setRg n ix w).tested = s.tested := rfl
@[simp] theorem State.setRg_shortT (n : RegName) (ix : List Nat) (w : Word) : (s.setRg n ix w).shortT = s.shortT := rfl
@[simp] theorem State.setRg_flt (n : RegName) (ix : List Nat) (w : Word) : (s.setRg n ix w).flt = s.flt := rfl
@[simp] theorem State.setRg_snap (n : RegName) (ix : List Nat) (w : Word) : (s.setRg n ix w).snap = s.snap := rfl
@[simp] theorem State.setRg_time (n : RegName) (ix : List Nat) (w : Word) : (s.setRg n ix w).time = s.time := rfl
@[simp] theorem State.setRg_clk (n : RegName) (ix : List Nat) (w : Word) : (s.setRg n ix w).clk = s.clk := rfl
@[simp] theorem State.setRg_ctx (n : RegName) (ix : List Nat) (w : Word) : (s.setRg n ix w).ctx = s.ctx := rfl
@[simp] theorem State.setRg_tile (n : RegName) (ix : List Nat) (w : Word) : (s.setRg n ix w).tile = s.tile := rfl
@[simp] theorem State.setRg_hbm (n : RegName) (ix : List Nat) (w : Word) : (s.setRg n ix w).hbm = s.hbm := rfl
@[simp] theorem State.setRg_hbmPtr (n : RegName) (ix : List Nat) (w : Word) : (s.setRg n ix w).hbmPtr = s.hbmPtr := rfl
@[simp] theorem State.setRg_cxl (n : RegName) (ix : List Nat) (w : Word) : (s.setRg n ix w).cxl = s.cxl := rfl
@[simp] theorem State.setRg_mgt (n : RegName) (ix : List Nat) (w : Word) : (s.setRg n ix w).mgt = s.mgt := rfl
@[simp] theorem State.setRg_mor (n : RegName) (ix : List Nat) (w : Word) : (s.setRg n ix w).mor = s.mor := rfl
@[simp] theorem State.setRg_link (n : RegName) (ix : List Nat) (w : Word) : (s.setRg n ix w).link = s.link := rfl
@[simp] theorem State.setRg_net (n : RegName) (ix : List Nat) (w : Word) : (s.setRg n ix w).net = s.net := rfl
@[simp] theorem State.setRg_self (n : RegName) (ix : List Nat) (w : Word) : (s.setRg n ix w).self = s.self := rfl
@[simp] theorem State.setRg_req (n : RegName) (ix : List Nat) (w : Word) : (s.setRg n ix w).req = s.req := rfl
@[simp] theorem State.setRg_admSeq (n : RegName) (ix : List Nat) (w : Word) : (s.setRg n ix w).admSeq = s.admSeq := rfl
@[simp] theorem State.setRg_cloOp (n : RegName) (ix : List Nat) (w : Word) : (s.setRg n ix w).cloOp = s.cloOp := rfl
@[simp] theorem State.setRg_partQuar (n : RegName) (ix : List Nat) (w : Word) : (s.setRg n ix w).partQuar = s.partQuar := rfl
@[simp] theorem State.setRg_vault (n : RegName) (ix : List Nat) (w : Word) : (s.setRg n ix w).vault = s.vault := rfl
@[simp] theorem State.setRg_ins (n : RegName) (ix : List Nat) (w : Word) : (s.setRg n ix w).ins = s.ins := rfl
@[simp] theorem State.setRg_srvWait (n : RegName) (ix : List Nat) (w : Word) : (s.setRg n ix w).srvWait = s.srvWait := rfl
@[simp] theorem State.setRg_loader (n : RegName) (ix : List Nat) (w : Word) : (s.setRg n ix w).loader = s.loader := rfl
@[simp] theorem State.setRg_port (n : RegName) (ix : List Nat) (w : Word) : (s.setRg n ix w).port = s.port := rfl
@[simp] theorem State.setRg_sec (n : RegName) (ix : List Nat) (w : Word) : (s.setRg n ix w).sec = s.sec := rfl
@[simp] theorem State.setRg_pins (n : RegName) (ix : List Nat) (w : Word) : (s.setRg n ix w).pins = s.pins := rfl

/-! ### Fields under `State.setFld` -/

@[simp] theorem State.setFld_pending (n : RegName) (ix : List Nat) (lo k v : Nat) : (s.setFld n ix lo k v).pending = s.pending := rfl
@[simp] theorem State.setFld_out (n : RegName) (ix : List Nat) (lo k v : Nat) : (s.setFld n ix lo k v).out = s.out := rfl
@[simp] theorem State.setFld_resp (n : RegName) (ix : List Nat) (lo k v : Nat) : (s.setFld n ix lo k v).resp = s.resp := rfl
@[simp] theorem State.setFld_freeCtr (n : RegName) (ix : List Nat) (lo k v : Nat) : (s.setFld n ix lo k v).freeCtr = s.freeCtr := rfl
@[simp] theorem State.setFld_fuses (n : RegName) (ix : List Nat) (lo k v : Nat) : (s.setFld n ix lo k v).fuses = s.fuses := rfl
@[simp] theorem State.setFld_failedT (n : RegName) (ix : List Nat) (lo k v : Nat) : (s.setFld n ix lo k v).failedT = s.failedT := rfl
@[simp] theorem State.setFld_failedB (n : RegName) (ix : List Nat) (lo k v : Nat) : (s.setFld n ix lo k v).failedB = s.failedB := rfl
@[simp] theorem State.setFld_tested (n : RegName) (ix : List Nat) (lo k v : Nat) : (s.setFld n ix lo k v).tested = s.tested := rfl
@[simp] theorem State.setFld_shortT (n : RegName) (ix : List Nat) (lo k v : Nat) : (s.setFld n ix lo k v).shortT = s.shortT := rfl
@[simp] theorem State.setFld_flt (n : RegName) (ix : List Nat) (lo k v : Nat) : (s.setFld n ix lo k v).flt = s.flt := rfl
@[simp] theorem State.setFld_snap (n : RegName) (ix : List Nat) (lo k v : Nat) : (s.setFld n ix lo k v).snap = s.snap := rfl
@[simp] theorem State.setFld_time (n : RegName) (ix : List Nat) (lo k v : Nat) : (s.setFld n ix lo k v).time = s.time := rfl
@[simp] theorem State.setFld_clk (n : RegName) (ix : List Nat) (lo k v : Nat) : (s.setFld n ix lo k v).clk = s.clk := rfl
@[simp] theorem State.setFld_ctx (n : RegName) (ix : List Nat) (lo k v : Nat) : (s.setFld n ix lo k v).ctx = s.ctx := rfl
@[simp] theorem State.setFld_tile (n : RegName) (ix : List Nat) (lo k v : Nat) : (s.setFld n ix lo k v).tile = s.tile := rfl
@[simp] theorem State.setFld_hbm (n : RegName) (ix : List Nat) (lo k v : Nat) : (s.setFld n ix lo k v).hbm = s.hbm := rfl
@[simp] theorem State.setFld_hbmPtr (n : RegName) (ix : List Nat) (lo k v : Nat) : (s.setFld n ix lo k v).hbmPtr = s.hbmPtr := rfl
@[simp] theorem State.setFld_cxl (n : RegName) (ix : List Nat) (lo k v : Nat) : (s.setFld n ix lo k v).cxl = s.cxl := rfl
@[simp] theorem State.setFld_mgt (n : RegName) (ix : List Nat) (lo k v : Nat) : (s.setFld n ix lo k v).mgt = s.mgt := rfl
@[simp] theorem State.setFld_mor (n : RegName) (ix : List Nat) (lo k v : Nat) : (s.setFld n ix lo k v).mor = s.mor := rfl
@[simp] theorem State.setFld_link (n : RegName) (ix : List Nat) (lo k v : Nat) : (s.setFld n ix lo k v).link = s.link := rfl
@[simp] theorem State.setFld_net (n : RegName) (ix : List Nat) (lo k v : Nat) : (s.setFld n ix lo k v).net = s.net := rfl
@[simp] theorem State.setFld_self (n : RegName) (ix : List Nat) (lo k v : Nat) : (s.setFld n ix lo k v).self = s.self := rfl
@[simp] theorem State.setFld_req (n : RegName) (ix : List Nat) (lo k v : Nat) : (s.setFld n ix lo k v).req = s.req := rfl
@[simp] theorem State.setFld_admSeq (n : RegName) (ix : List Nat) (lo k v : Nat) : (s.setFld n ix lo k v).admSeq = s.admSeq := rfl
@[simp] theorem State.setFld_cloOp (n : RegName) (ix : List Nat) (lo k v : Nat) : (s.setFld n ix lo k v).cloOp = s.cloOp := rfl
@[simp] theorem State.setFld_partQuar (n : RegName) (ix : List Nat) (lo k v : Nat) : (s.setFld n ix lo k v).partQuar = s.partQuar := rfl
@[simp] theorem State.setFld_vault (n : RegName) (ix : List Nat) (lo k v : Nat) : (s.setFld n ix lo k v).vault = s.vault := rfl
@[simp] theorem State.setFld_ins (n : RegName) (ix : List Nat) (lo k v : Nat) : (s.setFld n ix lo k v).ins = s.ins := rfl
@[simp] theorem State.setFld_srvWait (n : RegName) (ix : List Nat) (lo k v : Nat) : (s.setFld n ix lo k v).srvWait = s.srvWait := rfl
@[simp] theorem State.setFld_loader (n : RegName) (ix : List Nat) (lo k v : Nat) : (s.setFld n ix lo k v).loader = s.loader := rfl
@[simp] theorem State.setFld_port (n : RegName) (ix : List Nat) (lo k v : Nat) : (s.setFld n ix lo k v).port = s.port := rfl
@[simp] theorem State.setFld_sec (n : RegName) (ix : List Nat) (lo k v : Nat) : (s.setFld n ix lo k v).sec = s.sec := rfl
@[simp] theorem State.setFld_pins (n : RegName) (ix : List Nat) (lo k v : Nat) : (s.setFld n ix lo k v).pins = s.pins := rfl

/-! ### Fields under `State.addFld` -/

@[simp] theorem State.addFld_pending (n : RegName) (ix : List Nat) (lo k v : Nat) : (s.addFld n ix lo k v).pending = s.pending := rfl
@[simp] theorem State.addFld_out (n : RegName) (ix : List Nat) (lo k v : Nat) : (s.addFld n ix lo k v).out = s.out := rfl
@[simp] theorem State.addFld_resp (n : RegName) (ix : List Nat) (lo k v : Nat) : (s.addFld n ix lo k v).resp = s.resp := rfl
@[simp] theorem State.addFld_freeCtr (n : RegName) (ix : List Nat) (lo k v : Nat) : (s.addFld n ix lo k v).freeCtr = s.freeCtr := rfl
@[simp] theorem State.addFld_fuses (n : RegName) (ix : List Nat) (lo k v : Nat) : (s.addFld n ix lo k v).fuses = s.fuses := rfl
@[simp] theorem State.addFld_failedT (n : RegName) (ix : List Nat) (lo k v : Nat) : (s.addFld n ix lo k v).failedT = s.failedT := rfl
@[simp] theorem State.addFld_failedB (n : RegName) (ix : List Nat) (lo k v : Nat) : (s.addFld n ix lo k v).failedB = s.failedB := rfl
@[simp] theorem State.addFld_tested (n : RegName) (ix : List Nat) (lo k v : Nat) : (s.addFld n ix lo k v).tested = s.tested := rfl
@[simp] theorem State.addFld_shortT (n : RegName) (ix : List Nat) (lo k v : Nat) : (s.addFld n ix lo k v).shortT = s.shortT := rfl
@[simp] theorem State.addFld_flt (n : RegName) (ix : List Nat) (lo k v : Nat) : (s.addFld n ix lo k v).flt = s.flt := rfl
@[simp] theorem State.addFld_snap (n : RegName) (ix : List Nat) (lo k v : Nat) : (s.addFld n ix lo k v).snap = s.snap := rfl
@[simp] theorem State.addFld_time (n : RegName) (ix : List Nat) (lo k v : Nat) : (s.addFld n ix lo k v).time = s.time := rfl
@[simp] theorem State.addFld_clk (n : RegName) (ix : List Nat) (lo k v : Nat) : (s.addFld n ix lo k v).clk = s.clk := rfl
@[simp] theorem State.addFld_ctx (n : RegName) (ix : List Nat) (lo k v : Nat) : (s.addFld n ix lo k v).ctx = s.ctx := rfl
@[simp] theorem State.addFld_tile (n : RegName) (ix : List Nat) (lo k v : Nat) : (s.addFld n ix lo k v).tile = s.tile := rfl
@[simp] theorem State.addFld_hbm (n : RegName) (ix : List Nat) (lo k v : Nat) : (s.addFld n ix lo k v).hbm = s.hbm := rfl
@[simp] theorem State.addFld_hbmPtr (n : RegName) (ix : List Nat) (lo k v : Nat) : (s.addFld n ix lo k v).hbmPtr = s.hbmPtr := rfl
@[simp] theorem State.addFld_cxl (n : RegName) (ix : List Nat) (lo k v : Nat) : (s.addFld n ix lo k v).cxl = s.cxl := rfl
@[simp] theorem State.addFld_mgt (n : RegName) (ix : List Nat) (lo k v : Nat) : (s.addFld n ix lo k v).mgt = s.mgt := rfl
@[simp] theorem State.addFld_mor (n : RegName) (ix : List Nat) (lo k v : Nat) : (s.addFld n ix lo k v).mor = s.mor := rfl
@[simp] theorem State.addFld_link (n : RegName) (ix : List Nat) (lo k v : Nat) : (s.addFld n ix lo k v).link = s.link := rfl
@[simp] theorem State.addFld_net (n : RegName) (ix : List Nat) (lo k v : Nat) : (s.addFld n ix lo k v).net = s.net := rfl
@[simp] theorem State.addFld_self (n : RegName) (ix : List Nat) (lo k v : Nat) : (s.addFld n ix lo k v).self = s.self := rfl
@[simp] theorem State.addFld_req (n : RegName) (ix : List Nat) (lo k v : Nat) : (s.addFld n ix lo k v).req = s.req := rfl
@[simp] theorem State.addFld_admSeq (n : RegName) (ix : List Nat) (lo k v : Nat) : (s.addFld n ix lo k v).admSeq = s.admSeq := rfl
@[simp] theorem State.addFld_cloOp (n : RegName) (ix : List Nat) (lo k v : Nat) : (s.addFld n ix lo k v).cloOp = s.cloOp := rfl
@[simp] theorem State.addFld_partQuar (n : RegName) (ix : List Nat) (lo k v : Nat) : (s.addFld n ix lo k v).partQuar = s.partQuar := rfl
@[simp] theorem State.addFld_vault (n : RegName) (ix : List Nat) (lo k v : Nat) : (s.addFld n ix lo k v).vault = s.vault := rfl
@[simp] theorem State.addFld_ins (n : RegName) (ix : List Nat) (lo k v : Nat) : (s.addFld n ix lo k v).ins = s.ins := rfl
@[simp] theorem State.addFld_srvWait (n : RegName) (ix : List Nat) (lo k v : Nat) : (s.addFld n ix lo k v).srvWait = s.srvWait := rfl
@[simp] theorem State.addFld_loader (n : RegName) (ix : List Nat) (lo k v : Nat) : (s.addFld n ix lo k v).loader = s.loader := rfl
@[simp] theorem State.addFld_port (n : RegName) (ix : List Nat) (lo k v : Nat) : (s.addFld n ix lo k v).port = s.port := rfl
@[simp] theorem State.addFld_sec (n : RegName) (ix : List Nat) (lo k v : Nat) : (s.addFld n ix lo k v).sec = s.sec := rfl
@[simp] theorem State.addFld_pins (n : RegName) (ix : List Nat) (lo k v : Nat) : (s.addFld n ix lo k v).pins = s.pins := rfl

/-! ### Fields under `State.setBit` -/

@[simp] theorem State.setBit_pending (n : RegName) (ix : List Nat) (i : Nat) (b : Bool) : (s.setBit n ix i b).pending = s.pending := rfl
@[simp] theorem State.setBit_out (n : RegName) (ix : List Nat) (i : Nat) (b : Bool) : (s.setBit n ix i b).out = s.out := rfl
@[simp] theorem State.setBit_resp (n : RegName) (ix : List Nat) (i : Nat) (b : Bool) : (s.setBit n ix i b).resp = s.resp := rfl
@[simp] theorem State.setBit_freeCtr (n : RegName) (ix : List Nat) (i : Nat) (b : Bool) : (s.setBit n ix i b).freeCtr = s.freeCtr := rfl
@[simp] theorem State.setBit_fuses (n : RegName) (ix : List Nat) (i : Nat) (b : Bool) : (s.setBit n ix i b).fuses = s.fuses := rfl
@[simp] theorem State.setBit_failedT (n : RegName) (ix : List Nat) (i : Nat) (b : Bool) : (s.setBit n ix i b).failedT = s.failedT := rfl
@[simp] theorem State.setBit_failedB (n : RegName) (ix : List Nat) (i : Nat) (b : Bool) : (s.setBit n ix i b).failedB = s.failedB := rfl
@[simp] theorem State.setBit_tested (n : RegName) (ix : List Nat) (i : Nat) (b : Bool) : (s.setBit n ix i b).tested = s.tested := rfl
@[simp] theorem State.setBit_shortT (n : RegName) (ix : List Nat) (i : Nat) (b : Bool) : (s.setBit n ix i b).shortT = s.shortT := rfl
@[simp] theorem State.setBit_flt (n : RegName) (ix : List Nat) (i : Nat) (b : Bool) : (s.setBit n ix i b).flt = s.flt := rfl
@[simp] theorem State.setBit_snap (n : RegName) (ix : List Nat) (i : Nat) (b : Bool) : (s.setBit n ix i b).snap = s.snap := rfl
@[simp] theorem State.setBit_time (n : RegName) (ix : List Nat) (i : Nat) (b : Bool) : (s.setBit n ix i b).time = s.time := rfl
@[simp] theorem State.setBit_clk (n : RegName) (ix : List Nat) (i : Nat) (b : Bool) : (s.setBit n ix i b).clk = s.clk := rfl
@[simp] theorem State.setBit_ctx (n : RegName) (ix : List Nat) (i : Nat) (b : Bool) : (s.setBit n ix i b).ctx = s.ctx := rfl
@[simp] theorem State.setBit_tile (n : RegName) (ix : List Nat) (i : Nat) (b : Bool) : (s.setBit n ix i b).tile = s.tile := rfl
@[simp] theorem State.setBit_hbm (n : RegName) (ix : List Nat) (i : Nat) (b : Bool) : (s.setBit n ix i b).hbm = s.hbm := rfl
@[simp] theorem State.setBit_hbmPtr (n : RegName) (ix : List Nat) (i : Nat) (b : Bool) : (s.setBit n ix i b).hbmPtr = s.hbmPtr := rfl
@[simp] theorem State.setBit_cxl (n : RegName) (ix : List Nat) (i : Nat) (b : Bool) : (s.setBit n ix i b).cxl = s.cxl := rfl
@[simp] theorem State.setBit_mgt (n : RegName) (ix : List Nat) (i : Nat) (b : Bool) : (s.setBit n ix i b).mgt = s.mgt := rfl
@[simp] theorem State.setBit_mor (n : RegName) (ix : List Nat) (i : Nat) (b : Bool) : (s.setBit n ix i b).mor = s.mor := rfl
@[simp] theorem State.setBit_link (n : RegName) (ix : List Nat) (i : Nat) (b : Bool) : (s.setBit n ix i b).link = s.link := rfl
@[simp] theorem State.setBit_net (n : RegName) (ix : List Nat) (i : Nat) (b : Bool) : (s.setBit n ix i b).net = s.net := rfl
@[simp] theorem State.setBit_self (n : RegName) (ix : List Nat) (i : Nat) (b : Bool) : (s.setBit n ix i b).self = s.self := rfl
@[simp] theorem State.setBit_req (n : RegName) (ix : List Nat) (i : Nat) (b : Bool) : (s.setBit n ix i b).req = s.req := rfl
@[simp] theorem State.setBit_admSeq (n : RegName) (ix : List Nat) (i : Nat) (b : Bool) : (s.setBit n ix i b).admSeq = s.admSeq := rfl
@[simp] theorem State.setBit_cloOp (n : RegName) (ix : List Nat) (i : Nat) (b : Bool) : (s.setBit n ix i b).cloOp = s.cloOp := rfl
@[simp] theorem State.setBit_partQuar (n : RegName) (ix : List Nat) (i : Nat) (b : Bool) : (s.setBit n ix i b).partQuar = s.partQuar := rfl
@[simp] theorem State.setBit_vault (n : RegName) (ix : List Nat) (i : Nat) (b : Bool) : (s.setBit n ix i b).vault = s.vault := rfl
@[simp] theorem State.setBit_ins (n : RegName) (ix : List Nat) (i : Nat) (b : Bool) : (s.setBit n ix i b).ins = s.ins := rfl
@[simp] theorem State.setBit_srvWait (n : RegName) (ix : List Nat) (i : Nat) (b : Bool) : (s.setBit n ix i b).srvWait = s.srvWait := rfl
@[simp] theorem State.setBit_loader (n : RegName) (ix : List Nat) (i : Nat) (b : Bool) : (s.setBit n ix i b).loader = s.loader := rfl
@[simp] theorem State.setBit_port (n : RegName) (ix : List Nat) (i : Nat) (b : Bool) : (s.setBit n ix i b).port = s.port := rfl
@[simp] theorem State.setBit_sec (n : RegName) (ix : List Nat) (i : Nat) (b : Bool) : (s.setBit n ix i b).sec = s.sec := rfl
@[simp] theorem State.setBit_pins (n : RegName) (ix : List Nat) (i : Nat) (b : Bool) : (s.setBit n ix i b).pins = s.pins := rfl

/-! ### Fields under `State.clrRg` -/

@[simp] theorem State.clrRg_pending (n : RegName) (ix : List Nat) : (s.clrRg n ix).pending = s.pending := rfl
@[simp] theorem State.clrRg_out (n : RegName) (ix : List Nat) : (s.clrRg n ix).out = s.out := rfl
@[simp] theorem State.clrRg_resp (n : RegName) (ix : List Nat) : (s.clrRg n ix).resp = s.resp := rfl
@[simp] theorem State.clrRg_freeCtr (n : RegName) (ix : List Nat) : (s.clrRg n ix).freeCtr = s.freeCtr := rfl
@[simp] theorem State.clrRg_fuses (n : RegName) (ix : List Nat) : (s.clrRg n ix).fuses = s.fuses := rfl
@[simp] theorem State.clrRg_failedT (n : RegName) (ix : List Nat) : (s.clrRg n ix).failedT = s.failedT := rfl
@[simp] theorem State.clrRg_failedB (n : RegName) (ix : List Nat) : (s.clrRg n ix).failedB = s.failedB := rfl
@[simp] theorem State.clrRg_tested (n : RegName) (ix : List Nat) : (s.clrRg n ix).tested = s.tested := rfl
@[simp] theorem State.clrRg_shortT (n : RegName) (ix : List Nat) : (s.clrRg n ix).shortT = s.shortT := rfl
@[simp] theorem State.clrRg_flt (n : RegName) (ix : List Nat) : (s.clrRg n ix).flt = s.flt := rfl
@[simp] theorem State.clrRg_snap (n : RegName) (ix : List Nat) : (s.clrRg n ix).snap = s.snap := rfl
@[simp] theorem State.clrRg_time (n : RegName) (ix : List Nat) : (s.clrRg n ix).time = s.time := rfl
@[simp] theorem State.clrRg_clk (n : RegName) (ix : List Nat) : (s.clrRg n ix).clk = s.clk := rfl
@[simp] theorem State.clrRg_ctx (n : RegName) (ix : List Nat) : (s.clrRg n ix).ctx = s.ctx := rfl
@[simp] theorem State.clrRg_tile (n : RegName) (ix : List Nat) : (s.clrRg n ix).tile = s.tile := rfl
@[simp] theorem State.clrRg_hbm (n : RegName) (ix : List Nat) : (s.clrRg n ix).hbm = s.hbm := rfl
@[simp] theorem State.clrRg_hbmPtr (n : RegName) (ix : List Nat) : (s.clrRg n ix).hbmPtr = s.hbmPtr := rfl
@[simp] theorem State.clrRg_cxl (n : RegName) (ix : List Nat) : (s.clrRg n ix).cxl = s.cxl := rfl
@[simp] theorem State.clrRg_mgt (n : RegName) (ix : List Nat) : (s.clrRg n ix).mgt = s.mgt := rfl
@[simp] theorem State.clrRg_mor (n : RegName) (ix : List Nat) : (s.clrRg n ix).mor = s.mor := rfl
@[simp] theorem State.clrRg_link (n : RegName) (ix : List Nat) : (s.clrRg n ix).link = s.link := rfl
@[simp] theorem State.clrRg_net (n : RegName) (ix : List Nat) : (s.clrRg n ix).net = s.net := rfl
@[simp] theorem State.clrRg_self (n : RegName) (ix : List Nat) : (s.clrRg n ix).self = s.self := rfl
@[simp] theorem State.clrRg_req (n : RegName) (ix : List Nat) : (s.clrRg n ix).req = s.req := rfl
@[simp] theorem State.clrRg_admSeq (n : RegName) (ix : List Nat) : (s.clrRg n ix).admSeq = s.admSeq := rfl
@[simp] theorem State.clrRg_cloOp (n : RegName) (ix : List Nat) : (s.clrRg n ix).cloOp = s.cloOp := rfl
@[simp] theorem State.clrRg_partQuar (n : RegName) (ix : List Nat) : (s.clrRg n ix).partQuar = s.partQuar := rfl
@[simp] theorem State.clrRg_vault (n : RegName) (ix : List Nat) : (s.clrRg n ix).vault = s.vault := rfl
@[simp] theorem State.clrRg_ins (n : RegName) (ix : List Nat) : (s.clrRg n ix).ins = s.ins := rfl
@[simp] theorem State.clrRg_srvWait (n : RegName) (ix : List Nat) : (s.clrRg n ix).srvWait = s.srvWait := rfl
@[simp] theorem State.clrRg_loader (n : RegName) (ix : List Nat) : (s.clrRg n ix).loader = s.loader := rfl
@[simp] theorem State.clrRg_port (n : RegName) (ix : List Nat) : (s.clrRg n ix).port = s.port := rfl
@[simp] theorem State.clrRg_sec (n : RegName) (ix : List Nat) : (s.clrRg n ix).sec = s.sec := rfl
@[simp] theorem State.clrRg_pins (n : RegName) (ix : List Nat) : (s.clrRg n ix).pins = s.pins := rfl

/-! ### Fields under `State.finish` -/

@[simp] theorem State.finish_pending (n : RegName) (ix : List Nat) (st : Status) : (s.finish n ix st).pending = s.pending := rfl
@[simp] theorem State.finish_out (n : RegName) (ix : List Nat) (st : Status) : (s.finish n ix st).out = s.out := rfl
@[simp] theorem State.finish_resp (n : RegName) (ix : List Nat) (st : Status) : (s.finish n ix st).resp = s.resp := rfl
@[simp] theorem State.finish_freeCtr (n : RegName) (ix : List Nat) (st : Status) : (s.finish n ix st).freeCtr = s.freeCtr := rfl
@[simp] theorem State.finish_fuses (n : RegName) (ix : List Nat) (st : Status) : (s.finish n ix st).fuses = s.fuses := rfl
@[simp] theorem State.finish_failedT (n : RegName) (ix : List Nat) (st : Status) : (s.finish n ix st).failedT = s.failedT := rfl
@[simp] theorem State.finish_failedB (n : RegName) (ix : List Nat) (st : Status) : (s.finish n ix st).failedB = s.failedB := rfl
@[simp] theorem State.finish_tested (n : RegName) (ix : List Nat) (st : Status) : (s.finish n ix st).tested = s.tested := rfl
@[simp] theorem State.finish_shortT (n : RegName) (ix : List Nat) (st : Status) : (s.finish n ix st).shortT = s.shortT := rfl
@[simp] theorem State.finish_flt (n : RegName) (ix : List Nat) (st : Status) : (s.finish n ix st).flt = s.flt := rfl
@[simp] theorem State.finish_snap (n : RegName) (ix : List Nat) (st : Status) : (s.finish n ix st).snap = s.snap := rfl
@[simp] theorem State.finish_time (n : RegName) (ix : List Nat) (st : Status) : (s.finish n ix st).time = s.time := rfl
@[simp] theorem State.finish_clk (n : RegName) (ix : List Nat) (st : Status) : (s.finish n ix st).clk = s.clk := rfl
@[simp] theorem State.finish_ctx (n : RegName) (ix : List Nat) (st : Status) : (s.finish n ix st).ctx = s.ctx := rfl
@[simp] theorem State.finish_tile (n : RegName) (ix : List Nat) (st : Status) : (s.finish n ix st).tile = s.tile := rfl
@[simp] theorem State.finish_hbm (n : RegName) (ix : List Nat) (st : Status) : (s.finish n ix st).hbm = s.hbm := rfl
@[simp] theorem State.finish_hbmPtr (n : RegName) (ix : List Nat) (st : Status) : (s.finish n ix st).hbmPtr = s.hbmPtr := rfl
@[simp] theorem State.finish_cxl (n : RegName) (ix : List Nat) (st : Status) : (s.finish n ix st).cxl = s.cxl := rfl
@[simp] theorem State.finish_mgt (n : RegName) (ix : List Nat) (st : Status) : (s.finish n ix st).mgt = s.mgt := rfl
@[simp] theorem State.finish_mor (n : RegName) (ix : List Nat) (st : Status) : (s.finish n ix st).mor = s.mor := rfl
@[simp] theorem State.finish_link (n : RegName) (ix : List Nat) (st : Status) : (s.finish n ix st).link = s.link := rfl
@[simp] theorem State.finish_net (n : RegName) (ix : List Nat) (st : Status) : (s.finish n ix st).net = s.net := rfl
@[simp] theorem State.finish_self (n : RegName) (ix : List Nat) (st : Status) : (s.finish n ix st).self = s.self := rfl
@[simp] theorem State.finish_req (n : RegName) (ix : List Nat) (st : Status) : (s.finish n ix st).req = s.req := rfl
@[simp] theorem State.finish_admSeq (n : RegName) (ix : List Nat) (st : Status) : (s.finish n ix st).admSeq = s.admSeq := rfl
@[simp] theorem State.finish_cloOp (n : RegName) (ix : List Nat) (st : Status) : (s.finish n ix st).cloOp = s.cloOp := rfl
@[simp] theorem State.finish_partQuar (n : RegName) (ix : List Nat) (st : Status) : (s.finish n ix st).partQuar = s.partQuar := rfl
@[simp] theorem State.finish_vault (n : RegName) (ix : List Nat) (st : Status) : (s.finish n ix st).vault = s.vault := rfl
@[simp] theorem State.finish_ins (n : RegName) (ix : List Nat) (st : Status) : (s.finish n ix st).ins = s.ins := rfl
@[simp] theorem State.finish_srvWait (n : RegName) (ix : List Nat) (st : Status) : (s.finish n ix st).srvWait = s.srvWait := rfl
@[simp] theorem State.finish_loader (n : RegName) (ix : List Nat) (st : Status) : (s.finish n ix st).loader = s.loader := rfl
@[simp] theorem State.finish_port (n : RegName) (ix : List Nat) (st : Status) : (s.finish n ix st).port = s.port := rfl
@[simp] theorem State.finish_sec (n : RegName) (ix : List Nat) (st : Status) : (s.finish n ix st).sec = s.sec := rfl
@[simp] theorem State.finish_pins (n : RegName) (ix : List Nat) (st : Status) : (s.finish n ix st).pins = s.pins := rfl

/-! ### Fields under `State.setCtx` -/

@[simp] theorem State.setCtx_pending (k : Nat) (c : Ctx) : (s.setCtx k c).pending = s.pending := rfl
@[simp] theorem State.setCtx_out (k : Nat) (c : Ctx) : (s.setCtx k c).out = s.out := rfl
@[simp] theorem State.setCtx_resp (k : Nat) (c : Ctx) : (s.setCtx k c).resp = s.resp := rfl
@[simp] theorem State.setCtx_freeCtr (k : Nat) (c : Ctx) : (s.setCtx k c).freeCtr = s.freeCtr := rfl
@[simp] theorem State.setCtx_csr (k : Nat) (c : Ctx) : (s.setCtx k c).csr = s.csr := rfl
@[simp] theorem State.setCtx_fuses (k : Nat) (c : Ctx) : (s.setCtx k c).fuses = s.fuses := rfl
@[simp] theorem State.setCtx_failedT (k : Nat) (c : Ctx) : (s.setCtx k c).failedT = s.failedT := rfl
@[simp] theorem State.setCtx_failedB (k : Nat) (c : Ctx) : (s.setCtx k c).failedB = s.failedB := rfl
@[simp] theorem State.setCtx_tested (k : Nat) (c : Ctx) : (s.setCtx k c).tested = s.tested := rfl
@[simp] theorem State.setCtx_shortT (k : Nat) (c : Ctx) : (s.setCtx k c).shortT = s.shortT := rfl
@[simp] theorem State.setCtx_flt (k : Nat) (c : Ctx) : (s.setCtx k c).flt = s.flt := rfl
@[simp] theorem State.setCtx_snap (k : Nat) (c : Ctx) : (s.setCtx k c).snap = s.snap := rfl
@[simp] theorem State.setCtx_time (k : Nat) (c : Ctx) : (s.setCtx k c).time = s.time := rfl
@[simp] theorem State.setCtx_clk (k : Nat) (c : Ctx) : (s.setCtx k c).clk = s.clk := rfl
@[simp] theorem State.setCtx_tile (k : Nat) (c : Ctx) : (s.setCtx k c).tile = s.tile := rfl
@[simp] theorem State.setCtx_hbm (k : Nat) (c : Ctx) : (s.setCtx k c).hbm = s.hbm := rfl
@[simp] theorem State.setCtx_hbmPtr (k : Nat) (c : Ctx) : (s.setCtx k c).hbmPtr = s.hbmPtr := rfl
@[simp] theorem State.setCtx_cxl (k : Nat) (c : Ctx) : (s.setCtx k c).cxl = s.cxl := rfl
@[simp] theorem State.setCtx_mgt (k : Nat) (c : Ctx) : (s.setCtx k c).mgt = s.mgt := rfl
@[simp] theorem State.setCtx_mor (k : Nat) (c : Ctx) : (s.setCtx k c).mor = s.mor := rfl
@[simp] theorem State.setCtx_link (k : Nat) (c : Ctx) : (s.setCtx k c).link = s.link := rfl
@[simp] theorem State.setCtx_net (k : Nat) (c : Ctx) : (s.setCtx k c).net = s.net := rfl
@[simp] theorem State.setCtx_self (k : Nat) (c : Ctx) : (s.setCtx k c).self = s.self := rfl
@[simp] theorem State.setCtx_req (k : Nat) (c : Ctx) : (s.setCtx k c).req = s.req := rfl
@[simp] theorem State.setCtx_admSeq (k : Nat) (c : Ctx) : (s.setCtx k c).admSeq = s.admSeq := rfl
@[simp] theorem State.setCtx_cloOp (k : Nat) (c : Ctx) : (s.setCtx k c).cloOp = s.cloOp := rfl
@[simp] theorem State.setCtx_partQuar (k : Nat) (c : Ctx) : (s.setCtx k c).partQuar = s.partQuar := rfl
@[simp] theorem State.setCtx_vault (k : Nat) (c : Ctx) : (s.setCtx k c).vault = s.vault := rfl
@[simp] theorem State.setCtx_ins (k : Nat) (c : Ctx) : (s.setCtx k c).ins = s.ins := rfl
@[simp] theorem State.setCtx_srvWait (k : Nat) (c : Ctx) : (s.setCtx k c).srvWait = s.srvWait := rfl
@[simp] theorem State.setCtx_loader (k : Nat) (c : Ctx) : (s.setCtx k c).loader = s.loader := rfl
@[simp] theorem State.setCtx_port (k : Nat) (c : Ctx) : (s.setCtx k c).port = s.port := rfl
@[simp] theorem State.setCtx_sec (k : Nat) (c : Ctx) : (s.setCtx k c).sec = s.sec := rfl
@[simp] theorem State.setCtx_pins (k : Nat) (c : Ctx) : (s.setCtx k c).pins = s.pins := rfl

/-! ### Fields under `State.modCtx` -/

@[simp] theorem State.modCtx_pending (k : Nat) (f : Ctx → Ctx) : (s.modCtx k f).pending = s.pending := rfl
@[simp] theorem State.modCtx_out (k : Nat) (f : Ctx → Ctx) : (s.modCtx k f).out = s.out := rfl
@[simp] theorem State.modCtx_resp (k : Nat) (f : Ctx → Ctx) : (s.modCtx k f).resp = s.resp := rfl
@[simp] theorem State.modCtx_freeCtr (k : Nat) (f : Ctx → Ctx) : (s.modCtx k f).freeCtr = s.freeCtr := rfl
@[simp] theorem State.modCtx_csr (k : Nat) (f : Ctx → Ctx) : (s.modCtx k f).csr = s.csr := rfl
@[simp] theorem State.modCtx_fuses (k : Nat) (f : Ctx → Ctx) : (s.modCtx k f).fuses = s.fuses := rfl
@[simp] theorem State.modCtx_failedT (k : Nat) (f : Ctx → Ctx) : (s.modCtx k f).failedT = s.failedT := rfl
@[simp] theorem State.modCtx_failedB (k : Nat) (f : Ctx → Ctx) : (s.modCtx k f).failedB = s.failedB := rfl
@[simp] theorem State.modCtx_tested (k : Nat) (f : Ctx → Ctx) : (s.modCtx k f).tested = s.tested := rfl
@[simp] theorem State.modCtx_shortT (k : Nat) (f : Ctx → Ctx) : (s.modCtx k f).shortT = s.shortT := rfl
@[simp] theorem State.modCtx_flt (k : Nat) (f : Ctx → Ctx) : (s.modCtx k f).flt = s.flt := rfl
@[simp] theorem State.modCtx_snap (k : Nat) (f : Ctx → Ctx) : (s.modCtx k f).snap = s.snap := rfl
@[simp] theorem State.modCtx_time (k : Nat) (f : Ctx → Ctx) : (s.modCtx k f).time = s.time := rfl
@[simp] theorem State.modCtx_clk (k : Nat) (f : Ctx → Ctx) : (s.modCtx k f).clk = s.clk := rfl
@[simp] theorem State.modCtx_tile (k : Nat) (f : Ctx → Ctx) : (s.modCtx k f).tile = s.tile := rfl
@[simp] theorem State.modCtx_hbm (k : Nat) (f : Ctx → Ctx) : (s.modCtx k f).hbm = s.hbm := rfl
@[simp] theorem State.modCtx_hbmPtr (k : Nat) (f : Ctx → Ctx) : (s.modCtx k f).hbmPtr = s.hbmPtr := rfl
@[simp] theorem State.modCtx_cxl (k : Nat) (f : Ctx → Ctx) : (s.modCtx k f).cxl = s.cxl := rfl
@[simp] theorem State.modCtx_mgt (k : Nat) (f : Ctx → Ctx) : (s.modCtx k f).mgt = s.mgt := rfl
@[simp] theorem State.modCtx_mor (k : Nat) (f : Ctx → Ctx) : (s.modCtx k f).mor = s.mor := rfl
@[simp] theorem State.modCtx_link (k : Nat) (f : Ctx → Ctx) : (s.modCtx k f).link = s.link := rfl
@[simp] theorem State.modCtx_net (k : Nat) (f : Ctx → Ctx) : (s.modCtx k f).net = s.net := rfl
@[simp] theorem State.modCtx_self (k : Nat) (f : Ctx → Ctx) : (s.modCtx k f).self = s.self := rfl
@[simp] theorem State.modCtx_req (k : Nat) (f : Ctx → Ctx) : (s.modCtx k f).req = s.req := rfl
@[simp] theorem State.modCtx_admSeq (k : Nat) (f : Ctx → Ctx) : (s.modCtx k f).admSeq = s.admSeq := rfl
@[simp] theorem State.modCtx_cloOp (k : Nat) (f : Ctx → Ctx) : (s.modCtx k f).cloOp = s.cloOp := rfl
@[simp] theorem State.modCtx_partQuar (k : Nat) (f : Ctx → Ctx) : (s.modCtx k f).partQuar = s.partQuar := rfl
@[simp] theorem State.modCtx_vault (k : Nat) (f : Ctx → Ctx) : (s.modCtx k f).vault = s.vault := rfl
@[simp] theorem State.modCtx_ins (k : Nat) (f : Ctx → Ctx) : (s.modCtx k f).ins = s.ins := rfl
@[simp] theorem State.modCtx_srvWait (k : Nat) (f : Ctx → Ctx) : (s.modCtx k f).srvWait = s.srvWait := rfl
@[simp] theorem State.modCtx_loader (k : Nat) (f : Ctx → Ctx) : (s.modCtx k f).loader = s.loader := rfl
@[simp] theorem State.modCtx_port (k : Nat) (f : Ctx → Ctx) : (s.modCtx k f).port = s.port := rfl
@[simp] theorem State.modCtx_sec (k : Nat) (f : Ctx → Ctx) : (s.modCtx k f).sec = s.sec := rfl
@[simp] theorem State.modCtx_pins (k : Nat) (f : Ctx → Ctx) : (s.modCtx k f).pins = s.pins := rfl

/-! ### Fields under `State.modPlan` -/

@[simp] theorem State.modPlan_pending (k : Nat) (f : Plan → Plan) : (s.modPlan k f).pending = s.pending := rfl
@[simp] theorem State.modPlan_out (k : Nat) (f : Plan → Plan) : (s.modPlan k f).out = s.out := rfl
@[simp] theorem State.modPlan_resp (k : Nat) (f : Plan → Plan) : (s.modPlan k f).resp = s.resp := rfl
@[simp] theorem State.modPlan_freeCtr (k : Nat) (f : Plan → Plan) : (s.modPlan k f).freeCtr = s.freeCtr := rfl
@[simp] theorem State.modPlan_csr (k : Nat) (f : Plan → Plan) : (s.modPlan k f).csr = s.csr := rfl
@[simp] theorem State.modPlan_fuses (k : Nat) (f : Plan → Plan) : (s.modPlan k f).fuses = s.fuses := rfl
@[simp] theorem State.modPlan_failedT (k : Nat) (f : Plan → Plan) : (s.modPlan k f).failedT = s.failedT := rfl
@[simp] theorem State.modPlan_failedB (k : Nat) (f : Plan → Plan) : (s.modPlan k f).failedB = s.failedB := rfl
@[simp] theorem State.modPlan_tested (k : Nat) (f : Plan → Plan) : (s.modPlan k f).tested = s.tested := rfl
@[simp] theorem State.modPlan_shortT (k : Nat) (f : Plan → Plan) : (s.modPlan k f).shortT = s.shortT := rfl
@[simp] theorem State.modPlan_flt (k : Nat) (f : Plan → Plan) : (s.modPlan k f).flt = s.flt := rfl
@[simp] theorem State.modPlan_snap (k : Nat) (f : Plan → Plan) : (s.modPlan k f).snap = s.snap := rfl
@[simp] theorem State.modPlan_time (k : Nat) (f : Plan → Plan) : (s.modPlan k f).time = s.time := rfl
@[simp] theorem State.modPlan_clk (k : Nat) (f : Plan → Plan) : (s.modPlan k f).clk = s.clk := rfl
@[simp] theorem State.modPlan_tile (k : Nat) (f : Plan → Plan) : (s.modPlan k f).tile = s.tile := rfl
@[simp] theorem State.modPlan_hbm (k : Nat) (f : Plan → Plan) : (s.modPlan k f).hbm = s.hbm := rfl
@[simp] theorem State.modPlan_hbmPtr (k : Nat) (f : Plan → Plan) : (s.modPlan k f).hbmPtr = s.hbmPtr := rfl
@[simp] theorem State.modPlan_cxl (k : Nat) (f : Plan → Plan) : (s.modPlan k f).cxl = s.cxl := rfl
@[simp] theorem State.modPlan_mgt (k : Nat) (f : Plan → Plan) : (s.modPlan k f).mgt = s.mgt := rfl
@[simp] theorem State.modPlan_mor (k : Nat) (f : Plan → Plan) : (s.modPlan k f).mor = s.mor := rfl
@[simp] theorem State.modPlan_link (k : Nat) (f : Plan → Plan) : (s.modPlan k f).link = s.link := rfl
@[simp] theorem State.modPlan_net (k : Nat) (f : Plan → Plan) : (s.modPlan k f).net = s.net := rfl
@[simp] theorem State.modPlan_self (k : Nat) (f : Plan → Plan) : (s.modPlan k f).self = s.self := rfl
@[simp] theorem State.modPlan_req (k : Nat) (f : Plan → Plan) : (s.modPlan k f).req = s.req := rfl
@[simp] theorem State.modPlan_admSeq (k : Nat) (f : Plan → Plan) : (s.modPlan k f).admSeq = s.admSeq := rfl
@[simp] theorem State.modPlan_cloOp (k : Nat) (f : Plan → Plan) : (s.modPlan k f).cloOp = s.cloOp := rfl
@[simp] theorem State.modPlan_partQuar (k : Nat) (f : Plan → Plan) : (s.modPlan k f).partQuar = s.partQuar := rfl
@[simp] theorem State.modPlan_vault (k : Nat) (f : Plan → Plan) : (s.modPlan k f).vault = s.vault := rfl
@[simp] theorem State.modPlan_ins (k : Nat) (f : Plan → Plan) : (s.modPlan k f).ins = s.ins := rfl
@[simp] theorem State.modPlan_srvWait (k : Nat) (f : Plan → Plan) : (s.modPlan k f).srvWait = s.srvWait := rfl
@[simp] theorem State.modPlan_loader (k : Nat) (f : Plan → Plan) : (s.modPlan k f).loader = s.loader := rfl
@[simp] theorem State.modPlan_port (k : Nat) (f : Plan → Plan) : (s.modPlan k f).port = s.port := rfl
@[simp] theorem State.modPlan_sec (k : Nat) (f : Plan → Plan) : (s.modPlan k f).sec = s.sec := rfl
@[simp] theorem State.modPlan_pins (k : Nat) (f : Plan → Plan) : (s.modPlan k f).pins = s.pins := rfl

/-! ### Fields under `State.modPart` -/

@[simp] theorem State.modPart_pending (k : Nat) (f : PartEntry → PartEntry) : (s.modPart k f).pending = s.pending := rfl
@[simp] theorem State.modPart_out (k : Nat) (f : PartEntry → PartEntry) : (s.modPart k f).out = s.out := rfl
@[simp] theorem State.modPart_resp (k : Nat) (f : PartEntry → PartEntry) : (s.modPart k f).resp = s.resp := rfl
@[simp] theorem State.modPart_freeCtr (k : Nat) (f : PartEntry → PartEntry) : (s.modPart k f).freeCtr = s.freeCtr := rfl
@[simp] theorem State.modPart_csr (k : Nat) (f : PartEntry → PartEntry) : (s.modPart k f).csr = s.csr := rfl
@[simp] theorem State.modPart_fuses (k : Nat) (f : PartEntry → PartEntry) : (s.modPart k f).fuses = s.fuses := rfl
@[simp] theorem State.modPart_failedT (k : Nat) (f : PartEntry → PartEntry) : (s.modPart k f).failedT = s.failedT := rfl
@[simp] theorem State.modPart_failedB (k : Nat) (f : PartEntry → PartEntry) : (s.modPart k f).failedB = s.failedB := rfl
@[simp] theorem State.modPart_tested (k : Nat) (f : PartEntry → PartEntry) : (s.modPart k f).tested = s.tested := rfl
@[simp] theorem State.modPart_shortT (k : Nat) (f : PartEntry → PartEntry) : (s.modPart k f).shortT = s.shortT := rfl
@[simp] theorem State.modPart_flt (k : Nat) (f : PartEntry → PartEntry) : (s.modPart k f).flt = s.flt := rfl
@[simp] theorem State.modPart_snap (k : Nat) (f : PartEntry → PartEntry) : (s.modPart k f).snap = s.snap := rfl
@[simp] theorem State.modPart_time (k : Nat) (f : PartEntry → PartEntry) : (s.modPart k f).time = s.time := rfl
@[simp] theorem State.modPart_clk (k : Nat) (f : PartEntry → PartEntry) : (s.modPart k f).clk = s.clk := rfl
@[simp] theorem State.modPart_tile (k : Nat) (f : PartEntry → PartEntry) : (s.modPart k f).tile = s.tile := rfl
@[simp] theorem State.modPart_hbm (k : Nat) (f : PartEntry → PartEntry) : (s.modPart k f).hbm = s.hbm := rfl
@[simp] theorem State.modPart_hbmPtr (k : Nat) (f : PartEntry → PartEntry) : (s.modPart k f).hbmPtr = s.hbmPtr := rfl
@[simp] theorem State.modPart_cxl (k : Nat) (f : PartEntry → PartEntry) : (s.modPart k f).cxl = s.cxl := rfl
@[simp] theorem State.modPart_mgt (k : Nat) (f : PartEntry → PartEntry) : (s.modPart k f).mgt = s.mgt := rfl
@[simp] theorem State.modPart_mor (k : Nat) (f : PartEntry → PartEntry) : (s.modPart k f).mor = s.mor := rfl
@[simp] theorem State.modPart_link (k : Nat) (f : PartEntry → PartEntry) : (s.modPart k f).link = s.link := rfl
@[simp] theorem State.modPart_net (k : Nat) (f : PartEntry → PartEntry) : (s.modPart k f).net = s.net := rfl
@[simp] theorem State.modPart_self (k : Nat) (f : PartEntry → PartEntry) : (s.modPart k f).self = s.self := rfl
@[simp] theorem State.modPart_req (k : Nat) (f : PartEntry → PartEntry) : (s.modPart k f).req = s.req := rfl
@[simp] theorem State.modPart_admSeq (k : Nat) (f : PartEntry → PartEntry) : (s.modPart k f).admSeq = s.admSeq := rfl
@[simp] theorem State.modPart_cloOp (k : Nat) (f : PartEntry → PartEntry) : (s.modPart k f).cloOp = s.cloOp := rfl
@[simp] theorem State.modPart_partQuar (k : Nat) (f : PartEntry → PartEntry) : (s.modPart k f).partQuar = s.partQuar := rfl
@[simp] theorem State.modPart_vault (k : Nat) (f : PartEntry → PartEntry) : (s.modPart k f).vault = s.vault := rfl
@[simp] theorem State.modPart_ins (k : Nat) (f : PartEntry → PartEntry) : (s.modPart k f).ins = s.ins := rfl
@[simp] theorem State.modPart_srvWait (k : Nat) (f : PartEntry → PartEntry) : (s.modPart k f).srvWait = s.srvWait := rfl
@[simp] theorem State.modPart_loader (k : Nat) (f : PartEntry → PartEntry) : (s.modPart k f).loader = s.loader := rfl
@[simp] theorem State.modPart_port (k : Nat) (f : PartEntry → PartEntry) : (s.modPart k f).port = s.port := rfl
@[simp] theorem State.modPart_sec (k : Nat) (f : PartEntry → PartEntry) : (s.modPart k f).sec = s.sec := rfl
@[simp] theorem State.modPart_pins (k : Nat) (f : PartEntry → PartEntry) : (s.modPart k f).pins = s.pins := rfl

/-! ### Fields under `State.setTile` -/

@[simp] theorem State.setTile_pending (k : Nat) (x : Tile) : (s.setTile k x).pending = s.pending := rfl
@[simp] theorem State.setTile_out (k : Nat) (x : Tile) : (s.setTile k x).out = s.out := rfl
@[simp] theorem State.setTile_resp (k : Nat) (x : Tile) : (s.setTile k x).resp = s.resp := rfl
@[simp] theorem State.setTile_freeCtr (k : Nat) (x : Tile) : (s.setTile k x).freeCtr = s.freeCtr := rfl
@[simp] theorem State.setTile_csr (k : Nat) (x : Tile) : (s.setTile k x).csr = s.csr := rfl
@[simp] theorem State.setTile_fuses (k : Nat) (x : Tile) : (s.setTile k x).fuses = s.fuses := rfl
@[simp] theorem State.setTile_failedT (k : Nat) (x : Tile) : (s.setTile k x).failedT = s.failedT := rfl
@[simp] theorem State.setTile_failedB (k : Nat) (x : Tile) : (s.setTile k x).failedB = s.failedB := rfl
@[simp] theorem State.setTile_tested (k : Nat) (x : Tile) : (s.setTile k x).tested = s.tested := rfl
@[simp] theorem State.setTile_shortT (k : Nat) (x : Tile) : (s.setTile k x).shortT = s.shortT := rfl
@[simp] theorem State.setTile_flt (k : Nat) (x : Tile) : (s.setTile k x).flt = s.flt := rfl
@[simp] theorem State.setTile_snap (k : Nat) (x : Tile) : (s.setTile k x).snap = s.snap := rfl
@[simp] theorem State.setTile_time (k : Nat) (x : Tile) : (s.setTile k x).time = s.time := rfl
@[simp] theorem State.setTile_clk (k : Nat) (x : Tile) : (s.setTile k x).clk = s.clk := rfl
@[simp] theorem State.setTile_ctx (k : Nat) (x : Tile) : (s.setTile k x).ctx = s.ctx := rfl
@[simp] theorem State.setTile_hbm (k : Nat) (x : Tile) : (s.setTile k x).hbm = s.hbm := rfl
@[simp] theorem State.setTile_hbmPtr (k : Nat) (x : Tile) : (s.setTile k x).hbmPtr = s.hbmPtr := rfl
@[simp] theorem State.setTile_cxl (k : Nat) (x : Tile) : (s.setTile k x).cxl = s.cxl := rfl
@[simp] theorem State.setTile_mgt (k : Nat) (x : Tile) : (s.setTile k x).mgt = s.mgt := rfl
@[simp] theorem State.setTile_mor (k : Nat) (x : Tile) : (s.setTile k x).mor = s.mor := rfl
@[simp] theorem State.setTile_link (k : Nat) (x : Tile) : (s.setTile k x).link = s.link := rfl
@[simp] theorem State.setTile_net (k : Nat) (x : Tile) : (s.setTile k x).net = s.net := rfl
@[simp] theorem State.setTile_self (k : Nat) (x : Tile) : (s.setTile k x).self = s.self := rfl
@[simp] theorem State.setTile_req (k : Nat) (x : Tile) : (s.setTile k x).req = s.req := rfl
@[simp] theorem State.setTile_admSeq (k : Nat) (x : Tile) : (s.setTile k x).admSeq = s.admSeq := rfl
@[simp] theorem State.setTile_cloOp (k : Nat) (x : Tile) : (s.setTile k x).cloOp = s.cloOp := rfl
@[simp] theorem State.setTile_partQuar (k : Nat) (x : Tile) : (s.setTile k x).partQuar = s.partQuar := rfl
@[simp] theorem State.setTile_vault (k : Nat) (x : Tile) : (s.setTile k x).vault = s.vault := rfl
@[simp] theorem State.setTile_ins (k : Nat) (x : Tile) : (s.setTile k x).ins = s.ins := rfl
@[simp] theorem State.setTile_srvWait (k : Nat) (x : Tile) : (s.setTile k x).srvWait = s.srvWait := rfl
@[simp] theorem State.setTile_loader (k : Nat) (x : Tile) : (s.setTile k x).loader = s.loader := rfl
@[simp] theorem State.setTile_port (k : Nat) (x : Tile) : (s.setTile k x).port = s.port := rfl
@[simp] theorem State.setTile_sec (k : Nat) (x : Tile) : (s.setTile k x).sec = s.sec := rfl
@[simp] theorem State.setTile_pins (k : Nat) (x : Tile) : (s.setTile k x).pins = s.pins := rfl

/-! ### Fields under `State.modTile` -/

@[simp] theorem State.modTile_pending (k : Nat) (f : Tile → Tile) : (s.modTile k f).pending = s.pending := rfl
@[simp] theorem State.modTile_out (k : Nat) (f : Tile → Tile) : (s.modTile k f).out = s.out := rfl
@[simp] theorem State.modTile_resp (k : Nat) (f : Tile → Tile) : (s.modTile k f).resp = s.resp := rfl
@[simp] theorem State.modTile_freeCtr (k : Nat) (f : Tile → Tile) : (s.modTile k f).freeCtr = s.freeCtr := rfl
@[simp] theorem State.modTile_csr (k : Nat) (f : Tile → Tile) : (s.modTile k f).csr = s.csr := rfl
@[simp] theorem State.modTile_fuses (k : Nat) (f : Tile → Tile) : (s.modTile k f).fuses = s.fuses := rfl
@[simp] theorem State.modTile_failedT (k : Nat) (f : Tile → Tile) : (s.modTile k f).failedT = s.failedT := rfl
@[simp] theorem State.modTile_failedB (k : Nat) (f : Tile → Tile) : (s.modTile k f).failedB = s.failedB := rfl
@[simp] theorem State.modTile_tested (k : Nat) (f : Tile → Tile) : (s.modTile k f).tested = s.tested := rfl
@[simp] theorem State.modTile_shortT (k : Nat) (f : Tile → Tile) : (s.modTile k f).shortT = s.shortT := rfl
@[simp] theorem State.modTile_flt (k : Nat) (f : Tile → Tile) : (s.modTile k f).flt = s.flt := rfl
@[simp] theorem State.modTile_snap (k : Nat) (f : Tile → Tile) : (s.modTile k f).snap = s.snap := rfl
@[simp] theorem State.modTile_time (k : Nat) (f : Tile → Tile) : (s.modTile k f).time = s.time := rfl
@[simp] theorem State.modTile_clk (k : Nat) (f : Tile → Tile) : (s.modTile k f).clk = s.clk := rfl
@[simp] theorem State.modTile_ctx (k : Nat) (f : Tile → Tile) : (s.modTile k f).ctx = s.ctx := rfl
@[simp] theorem State.modTile_hbm (k : Nat) (f : Tile → Tile) : (s.modTile k f).hbm = s.hbm := rfl
@[simp] theorem State.modTile_hbmPtr (k : Nat) (f : Tile → Tile) : (s.modTile k f).hbmPtr = s.hbmPtr := rfl
@[simp] theorem State.modTile_cxl (k : Nat) (f : Tile → Tile) : (s.modTile k f).cxl = s.cxl := rfl
@[simp] theorem State.modTile_mgt (k : Nat) (f : Tile → Tile) : (s.modTile k f).mgt = s.mgt := rfl
@[simp] theorem State.modTile_mor (k : Nat) (f : Tile → Tile) : (s.modTile k f).mor = s.mor := rfl
@[simp] theorem State.modTile_link (k : Nat) (f : Tile → Tile) : (s.modTile k f).link = s.link := rfl
@[simp] theorem State.modTile_net (k : Nat) (f : Tile → Tile) : (s.modTile k f).net = s.net := rfl
@[simp] theorem State.modTile_self (k : Nat) (f : Tile → Tile) : (s.modTile k f).self = s.self := rfl
@[simp] theorem State.modTile_req (k : Nat) (f : Tile → Tile) : (s.modTile k f).req = s.req := rfl
@[simp] theorem State.modTile_admSeq (k : Nat) (f : Tile → Tile) : (s.modTile k f).admSeq = s.admSeq := rfl
@[simp] theorem State.modTile_cloOp (k : Nat) (f : Tile → Tile) : (s.modTile k f).cloOp = s.cloOp := rfl
@[simp] theorem State.modTile_partQuar (k : Nat) (f : Tile → Tile) : (s.modTile k f).partQuar = s.partQuar := rfl
@[simp] theorem State.modTile_vault (k : Nat) (f : Tile → Tile) : (s.modTile k f).vault = s.vault := rfl
@[simp] theorem State.modTile_ins (k : Nat) (f : Tile → Tile) : (s.modTile k f).ins = s.ins := rfl
@[simp] theorem State.modTile_srvWait (k : Nat) (f : Tile → Tile) : (s.modTile k f).srvWait = s.srvWait := rfl
@[simp] theorem State.modTile_loader (k : Nat) (f : Tile → Tile) : (s.modTile k f).loader = s.loader := rfl
@[simp] theorem State.modTile_port (k : Nat) (f : Tile → Tile) : (s.modTile k f).port = s.port := rfl
@[simp] theorem State.modTile_sec (k : Nat) (f : Tile → Tile) : (s.modTile k f).sec = s.sec := rfl
@[simp] theorem State.modTile_pins (k : Nat) (f : Tile → Tile) : (s.modTile k f).pins = s.pins := rfl

/-! ### Fields under `State.modHbm` -/

@[simp] theorem State.modHbm_pending (k : Nat) (f : Hbm → Hbm) : (s.modHbm k f).pending = s.pending := rfl
@[simp] theorem State.modHbm_out (k : Nat) (f : Hbm → Hbm) : (s.modHbm k f).out = s.out := rfl
@[simp] theorem State.modHbm_resp (k : Nat) (f : Hbm → Hbm) : (s.modHbm k f).resp = s.resp := rfl
@[simp] theorem State.modHbm_freeCtr (k : Nat) (f : Hbm → Hbm) : (s.modHbm k f).freeCtr = s.freeCtr := rfl
@[simp] theorem State.modHbm_csr (k : Nat) (f : Hbm → Hbm) : (s.modHbm k f).csr = s.csr := rfl
@[simp] theorem State.modHbm_fuses (k : Nat) (f : Hbm → Hbm) : (s.modHbm k f).fuses = s.fuses := rfl
@[simp] theorem State.modHbm_failedT (k : Nat) (f : Hbm → Hbm) : (s.modHbm k f).failedT = s.failedT := rfl
@[simp] theorem State.modHbm_failedB (k : Nat) (f : Hbm → Hbm) : (s.modHbm k f).failedB = s.failedB := rfl
@[simp] theorem State.modHbm_tested (k : Nat) (f : Hbm → Hbm) : (s.modHbm k f).tested = s.tested := rfl
@[simp] theorem State.modHbm_shortT (k : Nat) (f : Hbm → Hbm) : (s.modHbm k f).shortT = s.shortT := rfl
@[simp] theorem State.modHbm_flt (k : Nat) (f : Hbm → Hbm) : (s.modHbm k f).flt = s.flt := rfl
@[simp] theorem State.modHbm_snap (k : Nat) (f : Hbm → Hbm) : (s.modHbm k f).snap = s.snap := rfl
@[simp] theorem State.modHbm_time (k : Nat) (f : Hbm → Hbm) : (s.modHbm k f).time = s.time := rfl
@[simp] theorem State.modHbm_clk (k : Nat) (f : Hbm → Hbm) : (s.modHbm k f).clk = s.clk := rfl
@[simp] theorem State.modHbm_ctx (k : Nat) (f : Hbm → Hbm) : (s.modHbm k f).ctx = s.ctx := rfl
@[simp] theorem State.modHbm_tile (k : Nat) (f : Hbm → Hbm) : (s.modHbm k f).tile = s.tile := rfl
@[simp] theorem State.modHbm_hbmPtr (k : Nat) (f : Hbm → Hbm) : (s.modHbm k f).hbmPtr = s.hbmPtr := rfl
@[simp] theorem State.modHbm_cxl (k : Nat) (f : Hbm → Hbm) : (s.modHbm k f).cxl = s.cxl := rfl
@[simp] theorem State.modHbm_mgt (k : Nat) (f : Hbm → Hbm) : (s.modHbm k f).mgt = s.mgt := rfl
@[simp] theorem State.modHbm_mor (k : Nat) (f : Hbm → Hbm) : (s.modHbm k f).mor = s.mor := rfl
@[simp] theorem State.modHbm_link (k : Nat) (f : Hbm → Hbm) : (s.modHbm k f).link = s.link := rfl
@[simp] theorem State.modHbm_net (k : Nat) (f : Hbm → Hbm) : (s.modHbm k f).net = s.net := rfl
@[simp] theorem State.modHbm_self (k : Nat) (f : Hbm → Hbm) : (s.modHbm k f).self = s.self := rfl
@[simp] theorem State.modHbm_req (k : Nat) (f : Hbm → Hbm) : (s.modHbm k f).req = s.req := rfl
@[simp] theorem State.modHbm_admSeq (k : Nat) (f : Hbm → Hbm) : (s.modHbm k f).admSeq = s.admSeq := rfl
@[simp] theorem State.modHbm_cloOp (k : Nat) (f : Hbm → Hbm) : (s.modHbm k f).cloOp = s.cloOp := rfl
@[simp] theorem State.modHbm_partQuar (k : Nat) (f : Hbm → Hbm) : (s.modHbm k f).partQuar = s.partQuar := rfl
@[simp] theorem State.modHbm_vault (k : Nat) (f : Hbm → Hbm) : (s.modHbm k f).vault = s.vault := rfl
@[simp] theorem State.modHbm_ins (k : Nat) (f : Hbm → Hbm) : (s.modHbm k f).ins = s.ins := rfl
@[simp] theorem State.modHbm_srvWait (k : Nat) (f : Hbm → Hbm) : (s.modHbm k f).srvWait = s.srvWait := rfl
@[simp] theorem State.modHbm_loader (k : Nat) (f : Hbm → Hbm) : (s.modHbm k f).loader = s.loader := rfl
@[simp] theorem State.modHbm_port (k : Nat) (f : Hbm → Hbm) : (s.modHbm k f).port = s.port := rfl
@[simp] theorem State.modHbm_sec (k : Nat) (f : Hbm → Hbm) : (s.modHbm k f).sec = s.sec := rfl
@[simp] theorem State.modHbm_pins (k : Nat) (f : Hbm → Hbm) : (s.modHbm k f).pins = s.pins := rfl

/-! ### Fields under `State.modCxl` -/

@[simp] theorem State.modCxl_pending (k : Nat) (f : Cxl → Cxl) : (s.modCxl k f).pending = s.pending := rfl
@[simp] theorem State.modCxl_out (k : Nat) (f : Cxl → Cxl) : (s.modCxl k f).out = s.out := rfl
@[simp] theorem State.modCxl_resp (k : Nat) (f : Cxl → Cxl) : (s.modCxl k f).resp = s.resp := rfl
@[simp] theorem State.modCxl_freeCtr (k : Nat) (f : Cxl → Cxl) : (s.modCxl k f).freeCtr = s.freeCtr := rfl
@[simp] theorem State.modCxl_csr (k : Nat) (f : Cxl → Cxl) : (s.modCxl k f).csr = s.csr := rfl
@[simp] theorem State.modCxl_fuses (k : Nat) (f : Cxl → Cxl) : (s.modCxl k f).fuses = s.fuses := rfl
@[simp] theorem State.modCxl_failedT (k : Nat) (f : Cxl → Cxl) : (s.modCxl k f).failedT = s.failedT := rfl
@[simp] theorem State.modCxl_failedB (k : Nat) (f : Cxl → Cxl) : (s.modCxl k f).failedB = s.failedB := rfl
@[simp] theorem State.modCxl_tested (k : Nat) (f : Cxl → Cxl) : (s.modCxl k f).tested = s.tested := rfl
@[simp] theorem State.modCxl_shortT (k : Nat) (f : Cxl → Cxl) : (s.modCxl k f).shortT = s.shortT := rfl
@[simp] theorem State.modCxl_flt (k : Nat) (f : Cxl → Cxl) : (s.modCxl k f).flt = s.flt := rfl
@[simp] theorem State.modCxl_snap (k : Nat) (f : Cxl → Cxl) : (s.modCxl k f).snap = s.snap := rfl
@[simp] theorem State.modCxl_time (k : Nat) (f : Cxl → Cxl) : (s.modCxl k f).time = s.time := rfl
@[simp] theorem State.modCxl_clk (k : Nat) (f : Cxl → Cxl) : (s.modCxl k f).clk = s.clk := rfl
@[simp] theorem State.modCxl_ctx (k : Nat) (f : Cxl → Cxl) : (s.modCxl k f).ctx = s.ctx := rfl
@[simp] theorem State.modCxl_tile (k : Nat) (f : Cxl → Cxl) : (s.modCxl k f).tile = s.tile := rfl
@[simp] theorem State.modCxl_hbm (k : Nat) (f : Cxl → Cxl) : (s.modCxl k f).hbm = s.hbm := rfl
@[simp] theorem State.modCxl_hbmPtr (k : Nat) (f : Cxl → Cxl) : (s.modCxl k f).hbmPtr = s.hbmPtr := rfl
@[simp] theorem State.modCxl_mgt (k : Nat) (f : Cxl → Cxl) : (s.modCxl k f).mgt = s.mgt := rfl
@[simp] theorem State.modCxl_mor (k : Nat) (f : Cxl → Cxl) : (s.modCxl k f).mor = s.mor := rfl
@[simp] theorem State.modCxl_link (k : Nat) (f : Cxl → Cxl) : (s.modCxl k f).link = s.link := rfl
@[simp] theorem State.modCxl_net (k : Nat) (f : Cxl → Cxl) : (s.modCxl k f).net = s.net := rfl
@[simp] theorem State.modCxl_self (k : Nat) (f : Cxl → Cxl) : (s.modCxl k f).self = s.self := rfl
@[simp] theorem State.modCxl_req (k : Nat) (f : Cxl → Cxl) : (s.modCxl k f).req = s.req := rfl
@[simp] theorem State.modCxl_admSeq (k : Nat) (f : Cxl → Cxl) : (s.modCxl k f).admSeq = s.admSeq := rfl
@[simp] theorem State.modCxl_cloOp (k : Nat) (f : Cxl → Cxl) : (s.modCxl k f).cloOp = s.cloOp := rfl
@[simp] theorem State.modCxl_partQuar (k : Nat) (f : Cxl → Cxl) : (s.modCxl k f).partQuar = s.partQuar := rfl
@[simp] theorem State.modCxl_vault (k : Nat) (f : Cxl → Cxl) : (s.modCxl k f).vault = s.vault := rfl
@[simp] theorem State.modCxl_ins (k : Nat) (f : Cxl → Cxl) : (s.modCxl k f).ins = s.ins := rfl
@[simp] theorem State.modCxl_srvWait (k : Nat) (f : Cxl → Cxl) : (s.modCxl k f).srvWait = s.srvWait := rfl
@[simp] theorem State.modCxl_loader (k : Nat) (f : Cxl → Cxl) : (s.modCxl k f).loader = s.loader := rfl
@[simp] theorem State.modCxl_port (k : Nat) (f : Cxl → Cxl) : (s.modCxl k f).port = s.port := rfl
@[simp] theorem State.modCxl_sec (k : Nat) (f : Cxl → Cxl) : (s.modCxl k f).sec = s.sec := rfl
@[simp] theorem State.modCxl_pins (k : Nat) (f : Cxl → Cxl) : (s.modCxl k f).pins = s.pins := rfl

/-! ### Fields under `State.modVault` -/

@[simp] theorem State.modVault_pending (k : Nat) (f : Vault → Vault) : (s.modVault k f).pending = s.pending := rfl
@[simp] theorem State.modVault_out (k : Nat) (f : Vault → Vault) : (s.modVault k f).out = s.out := rfl
@[simp] theorem State.modVault_resp (k : Nat) (f : Vault → Vault) : (s.modVault k f).resp = s.resp := rfl
@[simp] theorem State.modVault_freeCtr (k : Nat) (f : Vault → Vault) : (s.modVault k f).freeCtr = s.freeCtr := rfl
@[simp] theorem State.modVault_csr (k : Nat) (f : Vault → Vault) : (s.modVault k f).csr = s.csr := rfl
@[simp] theorem State.modVault_fuses (k : Nat) (f : Vault → Vault) : (s.modVault k f).fuses = s.fuses := rfl
@[simp] theorem State.modVault_failedT (k : Nat) (f : Vault → Vault) : (s.modVault k f).failedT = s.failedT := rfl
@[simp] theorem State.modVault_failedB (k : Nat) (f : Vault → Vault) : (s.modVault k f).failedB = s.failedB := rfl
@[simp] theorem State.modVault_tested (k : Nat) (f : Vault → Vault) : (s.modVault k f).tested = s.tested := rfl
@[simp] theorem State.modVault_shortT (k : Nat) (f : Vault → Vault) : (s.modVault k f).shortT = s.shortT := rfl
@[simp] theorem State.modVault_flt (k : Nat) (f : Vault → Vault) : (s.modVault k f).flt = s.flt := rfl
@[simp] theorem State.modVault_snap (k : Nat) (f : Vault → Vault) : (s.modVault k f).snap = s.snap := rfl
@[simp] theorem State.modVault_time (k : Nat) (f : Vault → Vault) : (s.modVault k f).time = s.time := rfl
@[simp] theorem State.modVault_clk (k : Nat) (f : Vault → Vault) : (s.modVault k f).clk = s.clk := rfl
@[simp] theorem State.modVault_ctx (k : Nat) (f : Vault → Vault) : (s.modVault k f).ctx = s.ctx := rfl
@[simp] theorem State.modVault_tile (k : Nat) (f : Vault → Vault) : (s.modVault k f).tile = s.tile := rfl
@[simp] theorem State.modVault_hbm (k : Nat) (f : Vault → Vault) : (s.modVault k f).hbm = s.hbm := rfl
@[simp] theorem State.modVault_hbmPtr (k : Nat) (f : Vault → Vault) : (s.modVault k f).hbmPtr = s.hbmPtr := rfl
@[simp] theorem State.modVault_cxl (k : Nat) (f : Vault → Vault) : (s.modVault k f).cxl = s.cxl := rfl
@[simp] theorem State.modVault_mgt (k : Nat) (f : Vault → Vault) : (s.modVault k f).mgt = s.mgt := rfl
@[simp] theorem State.modVault_mor (k : Nat) (f : Vault → Vault) : (s.modVault k f).mor = s.mor := rfl
@[simp] theorem State.modVault_link (k : Nat) (f : Vault → Vault) : (s.modVault k f).link = s.link := rfl
@[simp] theorem State.modVault_net (k : Nat) (f : Vault → Vault) : (s.modVault k f).net = s.net := rfl
@[simp] theorem State.modVault_self (k : Nat) (f : Vault → Vault) : (s.modVault k f).self = s.self := rfl
@[simp] theorem State.modVault_req (k : Nat) (f : Vault → Vault) : (s.modVault k f).req = s.req := rfl
@[simp] theorem State.modVault_admSeq (k : Nat) (f : Vault → Vault) : (s.modVault k f).admSeq = s.admSeq := rfl
@[simp] theorem State.modVault_cloOp (k : Nat) (f : Vault → Vault) : (s.modVault k f).cloOp = s.cloOp := rfl
@[simp] theorem State.modVault_partQuar (k : Nat) (f : Vault → Vault) : (s.modVault k f).partQuar = s.partQuar := rfl
@[simp] theorem State.modVault_ins (k : Nat) (f : Vault → Vault) : (s.modVault k f).ins = s.ins := rfl
@[simp] theorem State.modVault_srvWait (k : Nat) (f : Vault → Vault) : (s.modVault k f).srvWait = s.srvWait := rfl
@[simp] theorem State.modVault_loader (k : Nat) (f : Vault → Vault) : (s.modVault k f).loader = s.loader := rfl
@[simp] theorem State.modVault_port (k : Nat) (f : Vault → Vault) : (s.modVault k f).port = s.port := rfl
@[simp] theorem State.modVault_sec (k : Nat) (f : Vault → Vault) : (s.modVault k f).sec = s.sec := rfl
@[simp] theorem State.modVault_pins (k : Nat) (f : Vault → Vault) : (s.modVault k f).pins = s.pins := rfl

/-! ### Fields under `State.modRegion` -/

@[simp] theorem State.modRegion_pending (v r : Nat) (f : VRegion → VRegion) : (s.modRegion v r f).pending = s.pending := rfl
@[simp] theorem State.modRegion_out (v r : Nat) (f : VRegion → VRegion) : (s.modRegion v r f).out = s.out := rfl
@[simp] theorem State.modRegion_resp (v r : Nat) (f : VRegion → VRegion) : (s.modRegion v r f).resp = s.resp := rfl
@[simp] theorem State.modRegion_freeCtr (v r : Nat) (f : VRegion → VRegion) : (s.modRegion v r f).freeCtr = s.freeCtr := rfl
@[simp] theorem State.modRegion_csr (v r : Nat) (f : VRegion → VRegion) : (s.modRegion v r f).csr = s.csr := rfl
@[simp] theorem State.modRegion_fuses (v r : Nat) (f : VRegion → VRegion) : (s.modRegion v r f).fuses = s.fuses := rfl
@[simp] theorem State.modRegion_failedT (v r : Nat) (f : VRegion → VRegion) : (s.modRegion v r f).failedT = s.failedT := rfl
@[simp] theorem State.modRegion_failedB (v r : Nat) (f : VRegion → VRegion) : (s.modRegion v r f).failedB = s.failedB := rfl
@[simp] theorem State.modRegion_tested (v r : Nat) (f : VRegion → VRegion) : (s.modRegion v r f).tested = s.tested := rfl
@[simp] theorem State.modRegion_shortT (v r : Nat) (f : VRegion → VRegion) : (s.modRegion v r f).shortT = s.shortT := rfl
@[simp] theorem State.modRegion_flt (v r : Nat) (f : VRegion → VRegion) : (s.modRegion v r f).flt = s.flt := rfl
@[simp] theorem State.modRegion_snap (v r : Nat) (f : VRegion → VRegion) : (s.modRegion v r f).snap = s.snap := rfl
@[simp] theorem State.modRegion_time (v r : Nat) (f : VRegion → VRegion) : (s.modRegion v r f).time = s.time := rfl
@[simp] theorem State.modRegion_clk (v r : Nat) (f : VRegion → VRegion) : (s.modRegion v r f).clk = s.clk := rfl
@[simp] theorem State.modRegion_ctx (v r : Nat) (f : VRegion → VRegion) : (s.modRegion v r f).ctx = s.ctx := rfl
@[simp] theorem State.modRegion_tile (v r : Nat) (f : VRegion → VRegion) : (s.modRegion v r f).tile = s.tile := rfl
@[simp] theorem State.modRegion_hbm (v r : Nat) (f : VRegion → VRegion) : (s.modRegion v r f).hbm = s.hbm := rfl
@[simp] theorem State.modRegion_hbmPtr (v r : Nat) (f : VRegion → VRegion) : (s.modRegion v r f).hbmPtr = s.hbmPtr := rfl
@[simp] theorem State.modRegion_cxl (v r : Nat) (f : VRegion → VRegion) : (s.modRegion v r f).cxl = s.cxl := rfl
@[simp] theorem State.modRegion_mgt (v r : Nat) (f : VRegion → VRegion) : (s.modRegion v r f).mgt = s.mgt := rfl
@[simp] theorem State.modRegion_mor (v r : Nat) (f : VRegion → VRegion) : (s.modRegion v r f).mor = s.mor := rfl
@[simp] theorem State.modRegion_link (v r : Nat) (f : VRegion → VRegion) : (s.modRegion v r f).link = s.link := rfl
@[simp] theorem State.modRegion_net (v r : Nat) (f : VRegion → VRegion) : (s.modRegion v r f).net = s.net := rfl
@[simp] theorem State.modRegion_self (v r : Nat) (f : VRegion → VRegion) : (s.modRegion v r f).self = s.self := rfl
@[simp] theorem State.modRegion_req (v r : Nat) (f : VRegion → VRegion) : (s.modRegion v r f).req = s.req := rfl
@[simp] theorem State.modRegion_admSeq (v r : Nat) (f : VRegion → VRegion) : (s.modRegion v r f).admSeq = s.admSeq := rfl
@[simp] theorem State.modRegion_cloOp (v r : Nat) (f : VRegion → VRegion) : (s.modRegion v r f).cloOp = s.cloOp := rfl
@[simp] theorem State.modRegion_partQuar (v r : Nat) (f : VRegion → VRegion) : (s.modRegion v r f).partQuar = s.partQuar := rfl
@[simp] theorem State.modRegion_ins (v r : Nat) (f : VRegion → VRegion) : (s.modRegion v r f).ins = s.ins := rfl
@[simp] theorem State.modRegion_srvWait (v r : Nat) (f : VRegion → VRegion) : (s.modRegion v r f).srvWait = s.srvWait := rfl
@[simp] theorem State.modRegion_loader (v r : Nat) (f : VRegion → VRegion) : (s.modRegion v r f).loader = s.loader := rfl
@[simp] theorem State.modRegion_port (v r : Nat) (f : VRegion → VRegion) : (s.modRegion v r f).port = s.port := rfl
@[simp] theorem State.modRegion_sec (v r : Nat) (f : VRegion → VRegion) : (s.modRegion v r f).sec = s.sec := rfl
@[simp] theorem State.modRegion_pins (v r : Nat) (f : VRegion → VRegion) : (s.modRegion v r f).pins = s.pins := rfl

/-! ### Fields under `State.modLink` -/

@[simp] theorem State.modLink_pending (k : Nat) (f : Link → Link) : (s.modLink k f).pending = s.pending := rfl
@[simp] theorem State.modLink_out (k : Nat) (f : Link → Link) : (s.modLink k f).out = s.out := rfl
@[simp] theorem State.modLink_resp (k : Nat) (f : Link → Link) : (s.modLink k f).resp = s.resp := rfl
@[simp] theorem State.modLink_freeCtr (k : Nat) (f : Link → Link) : (s.modLink k f).freeCtr = s.freeCtr := rfl
@[simp] theorem State.modLink_csr (k : Nat) (f : Link → Link) : (s.modLink k f).csr = s.csr := rfl
@[simp] theorem State.modLink_fuses (k : Nat) (f : Link → Link) : (s.modLink k f).fuses = s.fuses := rfl
@[simp] theorem State.modLink_failedT (k : Nat) (f : Link → Link) : (s.modLink k f).failedT = s.failedT := rfl
@[simp] theorem State.modLink_failedB (k : Nat) (f : Link → Link) : (s.modLink k f).failedB = s.failedB := rfl
@[simp] theorem State.modLink_tested (k : Nat) (f : Link → Link) : (s.modLink k f).tested = s.tested := rfl
@[simp] theorem State.modLink_shortT (k : Nat) (f : Link → Link) : (s.modLink k f).shortT = s.shortT := rfl
@[simp] theorem State.modLink_flt (k : Nat) (f : Link → Link) : (s.modLink k f).flt = s.flt := rfl
@[simp] theorem State.modLink_snap (k : Nat) (f : Link → Link) : (s.modLink k f).snap = s.snap := rfl
@[simp] theorem State.modLink_time (k : Nat) (f : Link → Link) : (s.modLink k f).time = s.time := rfl
@[simp] theorem State.modLink_clk (k : Nat) (f : Link → Link) : (s.modLink k f).clk = s.clk := rfl
@[simp] theorem State.modLink_ctx (k : Nat) (f : Link → Link) : (s.modLink k f).ctx = s.ctx := rfl
@[simp] theorem State.modLink_tile (k : Nat) (f : Link → Link) : (s.modLink k f).tile = s.tile := rfl
@[simp] theorem State.modLink_hbm (k : Nat) (f : Link → Link) : (s.modLink k f).hbm = s.hbm := rfl
@[simp] theorem State.modLink_hbmPtr (k : Nat) (f : Link → Link) : (s.modLink k f).hbmPtr = s.hbmPtr := rfl
@[simp] theorem State.modLink_cxl (k : Nat) (f : Link → Link) : (s.modLink k f).cxl = s.cxl := rfl
@[simp] theorem State.modLink_mgt (k : Nat) (f : Link → Link) : (s.modLink k f).mgt = s.mgt := rfl
@[simp] theorem State.modLink_mor (k : Nat) (f : Link → Link) : (s.modLink k f).mor = s.mor := rfl
@[simp] theorem State.modLink_net (k : Nat) (f : Link → Link) : (s.modLink k f).net = s.net := rfl
@[simp] theorem State.modLink_self (k : Nat) (f : Link → Link) : (s.modLink k f).self = s.self := rfl
@[simp] theorem State.modLink_req (k : Nat) (f : Link → Link) : (s.modLink k f).req = s.req := rfl
@[simp] theorem State.modLink_admSeq (k : Nat) (f : Link → Link) : (s.modLink k f).admSeq = s.admSeq := rfl
@[simp] theorem State.modLink_cloOp (k : Nat) (f : Link → Link) : (s.modLink k f).cloOp = s.cloOp := rfl
@[simp] theorem State.modLink_partQuar (k : Nat) (f : Link → Link) : (s.modLink k f).partQuar = s.partQuar := rfl
@[simp] theorem State.modLink_vault (k : Nat) (f : Link → Link) : (s.modLink k f).vault = s.vault := rfl
@[simp] theorem State.modLink_ins (k : Nat) (f : Link → Link) : (s.modLink k f).ins = s.ins := rfl
@[simp] theorem State.modLink_srvWait (k : Nat) (f : Link → Link) : (s.modLink k f).srvWait = s.srvWait := rfl
@[simp] theorem State.modLink_loader (k : Nat) (f : Link → Link) : (s.modLink k f).loader = s.loader := rfl
@[simp] theorem State.modLink_port (k : Nat) (f : Link → Link) : (s.modLink k f).port = s.port := rfl
@[simp] theorem State.modLink_sec (k : Nat) (f : Link → Link) : (s.modLink k f).sec = s.sec := rfl
@[simp] theorem State.modLink_pins (k : Nat) (f : Link → Link) : (s.modLink k f).pins = s.pins := rfl

/-! ### Fields under `State.emit` -/

@[simp] theorem State.emit_pending (o : Out) : (s.emit o).pending = s.pending := rfl
@[simp] theorem State.emit_resp (o : Out) : (s.emit o).resp = s.resp := rfl
@[simp] theorem State.emit_freeCtr (o : Out) : (s.emit o).freeCtr = s.freeCtr := rfl
@[simp] theorem State.emit_csr (o : Out) : (s.emit o).csr = s.csr := rfl
@[simp] theorem State.emit_fuses (o : Out) : (s.emit o).fuses = s.fuses := rfl
@[simp] theorem State.emit_failedT (o : Out) : (s.emit o).failedT = s.failedT := rfl
@[simp] theorem State.emit_failedB (o : Out) : (s.emit o).failedB = s.failedB := rfl
@[simp] theorem State.emit_tested (o : Out) : (s.emit o).tested = s.tested := rfl
@[simp] theorem State.emit_shortT (o : Out) : (s.emit o).shortT = s.shortT := rfl
@[simp] theorem State.emit_flt (o : Out) : (s.emit o).flt = s.flt := rfl
@[simp] theorem State.emit_snap (o : Out) : (s.emit o).snap = s.snap := rfl
@[simp] theorem State.emit_time (o : Out) : (s.emit o).time = s.time := rfl
@[simp] theorem State.emit_clk (o : Out) : (s.emit o).clk = s.clk := rfl
@[simp] theorem State.emit_ctx (o : Out) : (s.emit o).ctx = s.ctx := rfl
@[simp] theorem State.emit_tile (o : Out) : (s.emit o).tile = s.tile := rfl
@[simp] theorem State.emit_hbm (o : Out) : (s.emit o).hbm = s.hbm := rfl
@[simp] theorem State.emit_hbmPtr (o : Out) : (s.emit o).hbmPtr = s.hbmPtr := rfl
@[simp] theorem State.emit_cxl (o : Out) : (s.emit o).cxl = s.cxl := rfl
@[simp] theorem State.emit_mgt (o : Out) : (s.emit o).mgt = s.mgt := rfl
@[simp] theorem State.emit_mor (o : Out) : (s.emit o).mor = s.mor := rfl
@[simp] theorem State.emit_link (o : Out) : (s.emit o).link = s.link := rfl
@[simp] theorem State.emit_net (o : Out) : (s.emit o).net = s.net := rfl
@[simp] theorem State.emit_self (o : Out) : (s.emit o).self = s.self := rfl
@[simp] theorem State.emit_req (o : Out) : (s.emit o).req = s.req := rfl
@[simp] theorem State.emit_admSeq (o : Out) : (s.emit o).admSeq = s.admSeq := rfl
@[simp] theorem State.emit_cloOp (o : Out) : (s.emit o).cloOp = s.cloOp := rfl
@[simp] theorem State.emit_partQuar (o : Out) : (s.emit o).partQuar = s.partQuar := rfl
@[simp] theorem State.emit_vault (o : Out) : (s.emit o).vault = s.vault := rfl
@[simp] theorem State.emit_ins (o : Out) : (s.emit o).ins = s.ins := rfl
@[simp] theorem State.emit_srvWait (o : Out) : (s.emit o).srvWait = s.srvWait := rfl
@[simp] theorem State.emit_loader (o : Out) : (s.emit o).loader = s.loader := rfl
@[simp] theorem State.emit_port (o : Out) : (s.emit o).port = s.port := rfl
@[simp] theorem State.emit_sec (o : Out) : (s.emit o).sec = s.sec := rfl
@[simp] theorem State.emit_pins (o : Out) : (s.emit o).pins = s.pins := rfl

/-! ### Fields under `idleTick` and `State.draw` -/

@[simp] theorem idleTick_pending : (idleTick s).pending = s.pending := rfl
@[simp] theorem idleTick_out : (idleTick s).out = s.out := rfl
@[simp] theorem idleTick_resp : (idleTick s).resp = s.resp := rfl
@[simp] theorem idleTick_freeCtr : (idleTick s).freeCtr = s.freeCtr := rfl
@[simp] theorem idleTick_csr : (idleTick s).csr = s.csr := rfl
@[simp] theorem idleTick_fuses : (idleTick s).fuses = s.fuses := rfl
@[simp] theorem idleTick_failedT : (idleTick s).failedT = s.failedT := rfl
@[simp] theorem idleTick_failedB : (idleTick s).failedB = s.failedB := rfl
@[simp] theorem idleTick_tested : (idleTick s).tested = s.tested := rfl
@[simp] theorem idleTick_shortT : (idleTick s).shortT = s.shortT := rfl
@[simp] theorem idleTick_flt : (idleTick s).flt = s.flt := rfl
@[simp] theorem idleTick_snap : (idleTick s).snap = s.snap := rfl
@[simp] theorem idleTick_clk : (idleTick s).clk = s.clk := rfl
@[simp] theorem idleTick_ctx : (idleTick s).ctx = s.ctx := rfl
@[simp] theorem idleTick_tile : (idleTick s).tile = s.tile := rfl
@[simp] theorem idleTick_hbm : (idleTick s).hbm = s.hbm := rfl
@[simp] theorem idleTick_hbmPtr : (idleTick s).hbmPtr = s.hbmPtr := rfl
@[simp] theorem idleTick_cxl : (idleTick s).cxl = s.cxl := rfl
@[simp] theorem idleTick_mgt : (idleTick s).mgt = s.mgt := rfl
@[simp] theorem idleTick_mor : (idleTick s).mor = s.mor := rfl
@[simp] theorem idleTick_link : (idleTick s).link = s.link := rfl
@[simp] theorem idleTick_net : (idleTick s).net = s.net := rfl
@[simp] theorem idleTick_self : (idleTick s).self = s.self := rfl
@[simp] theorem idleTick_req : (idleTick s).req = s.req := rfl
@[simp] theorem idleTick_admSeq : (idleTick s).admSeq = s.admSeq := rfl
@[simp] theorem idleTick_cloOp : (idleTick s).cloOp = s.cloOp := rfl
@[simp] theorem idleTick_partQuar : (idleTick s).partQuar = s.partQuar := rfl
@[simp] theorem idleTick_vault : (idleTick s).vault = s.vault := rfl
@[simp] theorem idleTick_ins : (idleTick s).ins = s.ins := rfl
@[simp] theorem idleTick_srvWait : (idleTick s).srvWait = s.srvWait := rfl
@[simp] theorem idleTick_loader : (idleTick s).loader = s.loader := rfl
@[simp] theorem idleTick_port : (idleTick s).port = s.port := rfl
@[simp] theorem idleTick_sec : (idleTick s).sec = s.sec := rfl
@[simp] theorem idleTick_pins : (idleTick s).pins = s.pins := rfl

@[simp] theorem State.draw_pending : s.draw.2.pending = s.pending := rfl
@[simp] theorem State.draw_out : s.draw.2.out = s.out := rfl
@[simp] theorem State.draw_resp : s.draw.2.resp = s.resp := rfl
@[simp] theorem State.draw_csr : s.draw.2.csr = s.csr := rfl
@[simp] theorem State.draw_fuses : s.draw.2.fuses = s.fuses := rfl
@[simp] theorem State.draw_failedT : s.draw.2.failedT = s.failedT := rfl
@[simp] theorem State.draw_failedB : s.draw.2.failedB = s.failedB := rfl
@[simp] theorem State.draw_tested : s.draw.2.tested = s.tested := rfl
@[simp] theorem State.draw_shortT : s.draw.2.shortT = s.shortT := rfl
@[simp] theorem State.draw_flt : s.draw.2.flt = s.flt := rfl
@[simp] theorem State.draw_snap : s.draw.2.snap = s.snap := rfl
@[simp] theorem State.draw_time : s.draw.2.time = s.time := rfl
@[simp] theorem State.draw_clk : s.draw.2.clk = s.clk := rfl
@[simp] theorem State.draw_ctx : s.draw.2.ctx = s.ctx := rfl
@[simp] theorem State.draw_tile : s.draw.2.tile = s.tile := rfl
@[simp] theorem State.draw_hbm : s.draw.2.hbm = s.hbm := rfl
@[simp] theorem State.draw_hbmPtr : s.draw.2.hbmPtr = s.hbmPtr := rfl
@[simp] theorem State.draw_cxl : s.draw.2.cxl = s.cxl := rfl
@[simp] theorem State.draw_mgt : s.draw.2.mgt = s.mgt := rfl
@[simp] theorem State.draw_mor : s.draw.2.mor = s.mor := rfl
@[simp] theorem State.draw_link : s.draw.2.link = s.link := rfl
@[simp] theorem State.draw_net : s.draw.2.net = s.net := rfl
@[simp] theorem State.draw_self : s.draw.2.self = s.self := rfl
@[simp] theorem State.draw_req : s.draw.2.req = s.req := rfl
@[simp] theorem State.draw_admSeq : s.draw.2.admSeq = s.admSeq := rfl
@[simp] theorem State.draw_cloOp : s.draw.2.cloOp = s.cloOp := rfl
@[simp] theorem State.draw_partQuar : s.draw.2.partQuar = s.partQuar := rfl
@[simp] theorem State.draw_vault : s.draw.2.vault = s.vault := rfl
@[simp] theorem State.draw_ins : s.draw.2.ins = s.ins := rfl
@[simp] theorem State.draw_srvWait : s.draw.2.srvWait = s.srvWait := rfl
@[simp] theorem State.draw_loader : s.draw.2.loader = s.loader := rfl
@[simp] theorem State.draw_port : s.draw.2.port = s.port := rfl
@[simp] theorem State.draw_sec : s.draw.2.sec = s.sec := rfl
@[simp] theorem State.draw_pins : s.draw.2.pins = s.pins := rfl

@[simp] theorem idleTick_mt : (idleTick s).time.mt = s.time.mt + 1 := rfl
@[simp] theorem State.draw_freeCtr : s.draw.2.freeCtr = s.freeCtr + 1 := rfl
@[simp] theorem State.emit_out (o : Out) : (s.emit o).out = s.out ++ [o] := rfl

/-! ### Registers -/

theorem State.rg_congr {s t : State} (h : t.csr = s.csr) (n : RegName) (ix : List Nat) : t.rg n ix = s.rg n ix := by
  rw [State.rg, h, State.rg]

theorem State.fld_congr {s t : State} (h : t.csr = s.csr) (n : RegName) (ix : List Nat) (lo k : Nat) :
    t.fld n ix lo k = s.fld n ix lo k := by
  rw [State.fld, State.rg_congr h, State.fld]

/-- A register read after a write. -/
@[simp] theorem State.rg_setRg_self (n : RegName) (ix : List Nat) (w : Word) : (s.setRg n ix w).rg n ix = w := by
  simp [State.rg, State.setRg]

/-- A write leaves a register at another address alone. -/
theorem State.rg_setRg_ne (n m : RegName) (ix jx : List Nat) (w : Word) (h : m.addr jx ≠ n.addr ix) :
    (s.setRg n ix w).rg m jx = s.rg m jx := by
  simp only [State.rg, State.setRg]
  exact KMap.get_set_ne _ _ _ _ h

/-- A field read after it is written. -/
theorem State.fld_setFld_self (n : RegName) (ix : List Nat) (lo k v : Nat) (h : lo + k ≤ 64) :
    (s.setFld n ix lo k v).fld n ix lo k = v % 2 ^ k := by
  simp [State.fld, State.setFld, field_withField _ _ _ _ h]

/-- A field beside the one that is written. -/
theorem State.fld_setFld_beside (n : RegName) (ix : List Nat) (lo k v lo' k' : Nat) (hl : lo + k ≤ 64)
    (h : lo' + k' ≤ lo ∨ lo + k ≤ lo') : (s.setFld n ix lo k v).fld n ix lo' k' = s.fld n ix lo' k' := by
  simp [State.fld, State.setFld, field_withField_ne _ _ _ _ _ _ hl h]

/-- A field of a register at another address than the one that is written. -/
theorem State.fld_setFld_ne (n m : RegName) (ix jx : List Nat) (lo k v lo' k' : Nat) (h : m.addr jx ≠ n.addr ix) :
    (s.setFld n ix lo k v).fld m jx lo' k' = s.fld m jx lo' k' := by
  simp only [State.fld, State.setFld]
  rw [State.rg_setRg_ne s n m ix jx _ h]

theorem State.rg_setFld_ne (n m : RegName) (ix jx : List Nat) (lo k v : Nat) (h : m.addr jx ≠ n.addr ix) :
    (s.setFld n ix lo k v).rg m jx = s.rg m jx := by
  simp only [State.setFld]
  exact State.rg_setRg_ne s n m ix jx _ h

/-- A counter never exceeds its field. -/
theorem State.fld_addFld_self (n : RegName) (ix : List Nat) (lo k d : Nat) (h : lo + k ≤ 64) :
    (s.addFld n ix lo k d).fld n ix lo k = satN k (s.fld n ix lo k + d) := by
  rw [State.addFld, State.fld_setFld_self s n ix lo k _ h, Nat.mod_eq_of_lt (satN_lt k _)]

/-- A command status that has been reported: its code, and DONE. -/
theorem State.finish_status (n : RegName) (ix : List Nat) (st : Status) :
    (s.finish n ix st).fld n ix 0 8 = st.code ∧ (s.finish n ix st).fld n ix 8 1 = 1 := by
  constructor
  · rw [State.finish, State.fld_setFld_beside _ n ix 8 1 1 0 8 (by omega) (by omega), State.fld_setFld_self _ n ix 0 8 _ (by omega)]
    cases st <;> rfl
  · rw [State.finish, State.fld_setFld_self _ n ix 8 1 _ (by omega)]
    first | done | rfl

/-- Reporting a command's end leaves every register at another address alone. -/
theorem State.rg_finish_ne (n m : RegName) (ix jx : List Nat) (st : Status) (h : m.addr jx ≠ n.addr ix) :
    (s.finish n ix st).rg m jx = s.rg m jx := by
  rw [State.finish, State.rg_setFld_ne _ n m ix jx _ _ _ h, State.rg_setFld_ne _ n m ix jx _ _ _ h]

/-- A register put back holds its reset value. -/
@[simp] theorem State.rg_clrRg_self (n : RegName) (ix : List Nat) : (s.clrRg n ix).rg n ix = Word.ofNat n.row.reset := by
  simp [State.clrRg]

/-! ### The indexed families -/

@[simp] theorem State.getCtx_setCtx_self (k : Nat) (c : Ctx) : (s.setCtx k c).getCtx k = c := by
  simp [State.getCtx, State.setCtx]

theorem State.getCtx_setCtx_ne (k j : Nat) (c : Ctx) (h : j ≠ k) : (s.setCtx k c).getCtx j = s.getCtx j := by
  simp only [State.getCtx, State.setCtx]
  exact KMap.get_set_ne _ _ _ _ h

@[simp] theorem State.getCtx_modCtx_self (k : Nat) (f : Ctx → Ctx) : (s.modCtx k f).getCtx k = f (s.getCtx k) := by
  simp [State.modCtx]

theorem State.getCtx_modCtx_ne (k j : Nat) (f : Ctx → Ctx) (h : j ≠ k) : (s.modCtx k f).getCtx j = s.getCtx j :=
  State.getCtx_setCtx_ne s k j _ h

@[simp] theorem State.getCtx_modPlan_self (k : Nat) (f : Plan → Plan) :
    (s.modPlan k f).getCtx k = { s.getCtx k with plan := f (s.getCtx k).plan } := by
  simp [State.modPlan]

theorem State.getCtx_modPlan_ne (k j : Nat) (f : Plan → Plan) (h : j ≠ k) : (s.modPlan k f).getCtx j = s.getCtx j :=
  State.getCtx_modCtx_ne s k j _ h

@[simp] theorem State.getCtx_modPart_self (k : Nat) (f : PartEntry → PartEntry) :
    (s.modPart k f).getCtx k = { s.getCtx k with part := f (s.getCtx k).part } := by
  simp [State.modPart]

@[simp] theorem State.getTile_setTile_self (k : Nat) (x : Tile) : (s.setTile k x).getTile k = x := by
  simp [State.getTile, State.setTile]

theorem State.getTile_setTile_ne (k j : Nat) (x : Tile) (h : j ≠ k) : (s.setTile k x).getTile j = s.getTile j := by
  simp only [State.getTile, State.setTile]
  exact KMap.get_set_ne _ _ _ _ h

@[simp] theorem State.getTile_modTile_self (k : Nat) (f : Tile → Tile) : (s.modTile k f).getTile k = f (s.getTile k) := by
  simp [State.modTile]

theorem State.getTile_modTile_ne (k j : Nat) (f : Tile → Tile) (h : j ≠ k) : (s.modTile k f).getTile j = s.getTile j :=
  State.getTile_setTile_ne s k j _ h

@[simp] theorem State.getHbm_modHbm_self (k : Nat) (f : Hbm → Hbm) : (s.modHbm k f).getHbm k = f (s.getHbm k) := by
  simp [State.getHbm, State.modHbm]

theorem State.getHbm_modHbm_ne (k j : Nat) (f : Hbm → Hbm) (h : j ≠ k) : (s.modHbm k f).getHbm j = s.getHbm j := by
  simp only [State.getHbm, State.modHbm]
  exact KMap.get_set_ne _ _ _ _ h

@[simp] theorem State.getCxl_modCxl_self (k : Nat) (f : Cxl → Cxl) : (s.modCxl k f).getCxl k = f (s.getCxl k) := by
  simp [State.getCxl, State.modCxl]

theorem State.getCxl_modCxl_ne (k j : Nat) (f : Cxl → Cxl) (h : j ≠ k) : (s.modCxl k f).getCxl j = s.getCxl j := by
  simp only [State.getCxl, State.modCxl]
  exact KMap.get_set_ne _ _ _ _ h

@[simp] theorem State.getVault_modVault_self (k : Nat) (f : Vault → Vault) : (s.modVault k f).getVault k = f (s.getVault k) := by
  simp [State.getVault, State.modVault]

theorem State.getVault_modVault_ne (k j : Nat) (f : Vault → Vault) (h : j ≠ k) : (s.modVault k f).getVault j = s.getVault j := by
  simp only [State.getVault, State.modVault]
  exact KMap.get_set_ne _ _ _ _ h

@[simp] theorem State.getRegion_modRegion_self (v r : Nat) (f : VRegion → VRegion) :
    (s.modRegion v r f).getRegion v r = f (s.getRegion v r) := by
  simp [State.getRegion, State.modRegion, KMap.upd]

@[simp] theorem State.getLink_modLink_self (k : Nat) (f : Link → Link) : (s.modLink k f).getLink k = f (s.getLink k) := by
  simp [State.getLink, State.modLink]

theorem State.getLink_modLink_ne (k j : Nat) (f : Link → Link) (h : j ≠ k) : (s.modLink k f).getLink j = s.getLink j := by
  simp only [State.getLink, State.modLink]
  exact KMap.get_set_ne _ _ _ _ h

/-! ### Reads of other parts under each update -/

@[simp] theorem State.getCtx_setRg (n : RegName) (ix : List Nat) (w : Word) (j : Nat) : (s.setRg n ix w).getCtx j = s.getCtx j := rfl
@[simp] theorem State.getTile_setRg (n : RegName) (ix : List Nat) (w : Word) (j : Nat) : (s.setRg n ix w).getTile j = s.getTile j := rfl
@[simp] theorem State.getHbm_setRg (n : RegName) (ix : List Nat) (w : Word) (j : Nat) : (s.setRg n ix w).getHbm j = s.getHbm j := rfl
@[simp] theorem State.getCxl_setRg (n : RegName) (ix : List Nat) (w : Word) (j : Nat) : (s.setRg n ix w).getCxl j = s.getCxl j := rfl
@[simp] theorem State.getVault_setRg (n : RegName) (ix : List Nat) (w : Word) (j : Nat) : (s.setRg n ix w).getVault j = s.getVault j := rfl
@[simp] theorem State.getLink_setRg (n : RegName) (ix : List Nat) (w : Word) (j : Nat) : (s.setRg n ix w).getLink j = s.getLink j := rfl
@[simp] theorem State.getCtx_setFld (n : RegName) (ix : List Nat) (lo k v : Nat) (j : Nat) : (s.setFld n ix lo k v).getCtx j = s.getCtx j := rfl
@[simp] theorem State.getTile_setFld (n : RegName) (ix : List Nat) (lo k v : Nat) (j : Nat) : (s.setFld n ix lo k v).getTile j = s.getTile j := rfl
@[simp] theorem State.getHbm_setFld (n : RegName) (ix : List Nat) (lo k v : Nat) (j : Nat) : (s.setFld n ix lo k v).getHbm j = s.getHbm j := rfl
@[simp] theorem State.getCxl_setFld (n : RegName) (ix : List Nat) (lo k v : Nat) (j : Nat) : (s.setFld n ix lo k v).getCxl j = s.getCxl j := rfl
@[simp] theorem State.getVault_setFld (n : RegName) (ix : List Nat) (lo k v : Nat) (j : Nat) : (s.setFld n ix lo k v).getVault j = s.getVault j := rfl
@[simp] theorem State.getLink_setFld (n : RegName) (ix : List Nat) (lo k v : Nat) (j : Nat) : (s.setFld n ix lo k v).getLink j = s.getLink j := rfl
@[simp] theorem State.getCtx_addFld (n : RegName) (ix : List Nat) (lo k v : Nat) (j : Nat) : (s.addFld n ix lo k v).getCtx j = s.getCtx j := rfl
@[simp] theorem State.getTile_addFld (n : RegName) (ix : List Nat) (lo k v : Nat) (j : Nat) : (s.addFld n ix lo k v).getTile j = s.getTile j := rfl
@[simp] theorem State.getHbm_addFld (n : RegName) (ix : List Nat) (lo k v : Nat) (j : Nat) : (s.addFld n ix lo k v).getHbm j = s.getHbm j := rfl
@[simp] theorem State.getCxl_addFld (n : RegName) (ix : List Nat) (lo k v : Nat) (j : Nat) : (s.addFld n ix lo k v).getCxl j = s.getCxl j := rfl
@[simp] theorem State.getVault_addFld (n : RegName) (ix : List Nat) (lo k v : Nat) (j : Nat) : (s.addFld n ix lo k v).getVault j = s.getVault j := rfl
@[simp] theorem State.getLink_addFld (n : RegName) (ix : List Nat) (lo k v : Nat) (j : Nat) : (s.addFld n ix lo k v).getLink j = s.getLink j := rfl
@[simp] theorem State.getCtx_setBit (n : RegName) (ix : List Nat) (i : Nat) (b : Bool) (j : Nat) : (s.setBit n ix i b).getCtx j = s.getCtx j := rfl
@[simp] theorem State.getTile_setBit (n : RegName) (ix : List Nat) (i : Nat) (b : Bool) (j : Nat) : (s.setBit n ix i b).getTile j = s.getTile j := rfl
@[simp] theorem State.getHbm_setBit (n : RegName) (ix : List Nat) (i : Nat) (b : Bool) (j : Nat) : (s.setBit n ix i b).getHbm j = s.getHbm j := rfl
@[simp] theorem State.getCxl_setBit (n : RegName) (ix : List Nat) (i : Nat) (b : Bool) (j : Nat) : (s.setBit n ix i b).getCxl j = s.getCxl j := rfl
@[simp] theorem State.getVault_setBit (n : RegName) (ix : List Nat) (i : Nat) (b : Bool) (j : Nat) : (s.setBit n ix i b).getVault j = s.getVault j := rfl
@[simp] theorem State.getLink_setBit (n : RegName) (ix : List Nat) (i : Nat) (b : Bool) (j : Nat) : (s.setBit n ix i b).getLink j = s.getLink j := rfl
@[simp] theorem State.getCtx_clrRg (n : RegName) (ix : List Nat) (j : Nat) : (s.clrRg n ix).getCtx j = s.getCtx j := rfl
@[simp] theorem State.getTile_clrRg (n : RegName) (ix : List Nat) (j : Nat) : (s.clrRg n ix).getTile j = s.getTile j := rfl
@[simp] theorem State.getHbm_clrRg (n : RegName) (ix : List Nat) (j : Nat) : (s.clrRg n ix).getHbm j = s.getHbm j := rfl
@[simp] theorem State.getCxl_clrRg (n : RegName) (ix : List Nat) (j : Nat) : (s.clrRg n ix).getCxl j = s.getCxl j := rfl
@[simp] theorem State.getVault_clrRg (n : RegName) (ix : List Nat) (j : Nat) : (s.clrRg n ix).getVault j = s.getVault j := rfl
@[simp] theorem State.getLink_clrRg (n : RegName) (ix : List Nat) (j : Nat) : (s.clrRg n ix).getLink j = s.getLink j := rfl
@[simp] theorem State.getCtx_finish (n : RegName) (ix : List Nat) (st : Status) (j : Nat) : (s.finish n ix st).getCtx j = s.getCtx j := rfl
@[simp] theorem State.getTile_finish (n : RegName) (ix : List Nat) (st : Status) (j : Nat) : (s.finish n ix st).getTile j = s.getTile j := rfl
@[simp] theorem State.getHbm_finish (n : RegName) (ix : List Nat) (st : Status) (j : Nat) : (s.finish n ix st).getHbm j = s.getHbm j := rfl
@[simp] theorem State.getCxl_finish (n : RegName) (ix : List Nat) (st : Status) (j : Nat) : (s.finish n ix st).getCxl j = s.getCxl j := rfl
@[simp] theorem State.getVault_finish (n : RegName) (ix : List Nat) (st : Status) (j : Nat) : (s.finish n ix st).getVault j = s.getVault j := rfl
@[simp] theorem State.getLink_finish (n : RegName) (ix : List Nat) (st : Status) (j : Nat) : (s.finish n ix st).getLink j = s.getLink j := rfl
@[simp] theorem State.rg_setCtx (k : Nat) (c : Ctx) (m : RegName) (jx : List Nat) : (s.setCtx k c).rg m jx = s.rg m jx := rfl
@[simp] theorem State.fld_setCtx (k : Nat) (c : Ctx) (m : RegName) (jx : List Nat) (lo' k' : Nat) : (s.setCtx k c).fld m jx lo' k' = s.fld m jx lo' k' := rfl
@[simp] theorem State.bit_setCtx (k : Nat) (c : Ctx) (m : RegName) (jx : List Nat) (i' : Nat) : (s.setCtx k c).bit m jx i' = s.bit m jx i' := rfl
@[simp] theorem State.getTile_setCtx (k : Nat) (c : Ctx) (j : Nat) : (s.setCtx k c).getTile j = s.getTile j := rfl
@[simp] theorem State.getHbm_setCtx (k : Nat) (c : Ctx) (j : Nat) : (s.setCtx k c).getHbm j = s.getHbm j := rfl
@[simp] theorem State.getCxl_setCtx (k : Nat) (c : Ctx) (j : Nat) : (s.setCtx k c).getCxl j = s.getCxl j := rfl
@[simp] theorem State.getVault_setCtx (k : Nat) (c : Ctx) (j : Nat) : (s.setCtx k c).getVault j = s.getVault j := rfl
@[simp] theorem State.getLink_setCtx (k : Nat) (c : Ctx) (j : Nat) : (s.setCtx k c).getLink j = s.getLink j := rfl
@[simp] theorem State.rg_modCtx (k : Nat) (f : Ctx → Ctx) (m : RegName) (jx : List Nat) : (s.modCtx k f).rg m jx = s.rg m jx := rfl
@[simp] theorem State.fld_modCtx (k : Nat) (f : Ctx → Ctx) (m : RegName) (jx : List Nat) (lo' k' : Nat) : (s.modCtx k f).fld m jx lo' k' = s.fld m jx lo' k' := rfl
@[simp] theorem State.bit_modCtx (k : Nat) (f : Ctx → Ctx) (m : RegName) (jx : List Nat) (i' : Nat) : (s.modCtx k f).bit m jx i' = s.bit m jx i' := rfl
@[simp] theorem State.getTile_modCtx (k : Nat) (f : Ctx → Ctx) (j : Nat) : (s.modCtx k f).getTile j = s.getTile j := rfl
@[simp] theorem State.getHbm_modCtx (k : Nat) (f : Ctx → Ctx) (j : Nat) : (s.modCtx k f).getHbm j = s.getHbm j := rfl
@[simp] theorem State.getCxl_modCtx (k : Nat) (f : Ctx → Ctx) (j : Nat) : (s.modCtx k f).getCxl j = s.getCxl j := rfl
@[simp] theorem State.getVault_modCtx (k : Nat) (f : Ctx → Ctx) (j : Nat) : (s.modCtx k f).getVault j = s.getVault j := rfl
@[simp] theorem State.getLink_modCtx (k : Nat) (f : Ctx → Ctx) (j : Nat) : (s.modCtx k f).getLink j = s.getLink j := rfl
@[simp] theorem State.rg_modPlan (k : Nat) (f : Plan → Plan) (m : RegName) (jx : List Nat) : (s.modPlan k f).rg m jx = s.rg m jx := rfl
@[simp] theorem State.fld_modPlan (k : Nat) (f : Plan → Plan) (m : RegName) (jx : List Nat) (lo' k' : Nat) : (s.modPlan k f).fld m jx lo' k' = s.fld m jx lo' k' := rfl
@[simp] theorem State.bit_modPlan (k : Nat) (f : Plan → Plan) (m : RegName) (jx : List Nat) (i' : Nat) : (s.modPlan k f).bit m jx i' = s.bit m jx i' := rfl
@[simp] theorem State.getTile_modPlan (k : Nat) (f : Plan → Plan) (j : Nat) : (s.modPlan k f).getTile j = s.getTile j := rfl
@[simp] theorem State.getHbm_modPlan (k : Nat) (f : Plan → Plan) (j : Nat) : (s.modPlan k f).getHbm j = s.getHbm j := rfl
@[simp] theorem State.getCxl_modPlan (k : Nat) (f : Plan → Plan) (j : Nat) : (s.modPlan k f).getCxl j = s.getCxl j := rfl
@[simp] theorem State.getVault_modPlan (k : Nat) (f : Plan → Plan) (j : Nat) : (s.modPlan k f).getVault j = s.getVault j := rfl
@[simp] theorem State.getLink_modPlan (k : Nat) (f : Plan → Plan) (j : Nat) : (s.modPlan k f).getLink j = s.getLink j := rfl
@[simp] theorem State.rg_modPart (k : Nat) (f : PartEntry → PartEntry) (m : RegName) (jx : List Nat) : (s.modPart k f).rg m jx = s.rg m jx := rfl
@[simp] theorem State.fld_modPart (k : Nat) (f : PartEntry → PartEntry) (m : RegName) (jx : List Nat) (lo' k' : Nat) : (s.modPart k f).fld m jx lo' k' = s.fld m jx lo' k' := rfl
@[simp] theorem State.bit_modPart (k : Nat) (f : PartEntry → PartEntry) (m : RegName) (jx : List Nat) (i' : Nat) : (s.modPart k f).bit m jx i' = s.bit m jx i' := rfl
@[simp] theorem State.getTile_modPart (k : Nat) (f : PartEntry → PartEntry) (j : Nat) : (s.modPart k f).getTile j = s.getTile j := rfl
@[simp] theorem State.getHbm_modPart (k : Nat) (f : PartEntry → PartEntry) (j : Nat) : (s.modPart k f).getHbm j = s.getHbm j := rfl
@[simp] theorem State.getCxl_modPart (k : Nat) (f : PartEntry → PartEntry) (j : Nat) : (s.modPart k f).getCxl j = s.getCxl j := rfl
@[simp] theorem State.getVault_modPart (k : Nat) (f : PartEntry → PartEntry) (j : Nat) : (s.modPart k f).getVault j = s.getVault j := rfl
@[simp] theorem State.getLink_modPart (k : Nat) (f : PartEntry → PartEntry) (j : Nat) : (s.modPart k f).getLink j = s.getLink j := rfl
@[simp] theorem State.rg_setTile (k : Nat) (x : Tile) (m : RegName) (jx : List Nat) : (s.setTile k x).rg m jx = s.rg m jx := rfl
@[simp] theorem State.fld_setTile (k : Nat) (x : Tile) (m : RegName) (jx : List Nat) (lo' k' : Nat) : (s.setTile k x).fld m jx lo' k' = s.fld m jx lo' k' := rfl
@[simp] theorem State.bit_setTile (k : Nat) (x : Tile) (m : RegName) (jx : List Nat) (i' : Nat) : (s.setTile k x).bit m jx i' = s.bit m jx i' := rfl
@[simp] theorem State.getCtx_setTile (k : Nat) (x : Tile) (j : Nat) : (s.setTile k x).getCtx j = s.getCtx j := rfl
@[simp] theorem State.getHbm_setTile (k : Nat) (x : Tile) (j : Nat) : (s.setTile k x).getHbm j = s.getHbm j := rfl
@[simp] theorem State.getCxl_setTile (k : Nat) (x : Tile) (j : Nat) : (s.setTile k x).getCxl j = s.getCxl j := rfl
@[simp] theorem State.getVault_setTile (k : Nat) (x : Tile) (j : Nat) : (s.setTile k x).getVault j = s.getVault j := rfl
@[simp] theorem State.getLink_setTile (k : Nat) (x : Tile) (j : Nat) : (s.setTile k x).getLink j = s.getLink j := rfl
@[simp] theorem State.rg_modTile (k : Nat) (f : Tile → Tile) (m : RegName) (jx : List Nat) : (s.modTile k f).rg m jx = s.rg m jx := rfl
@[simp] theorem State.fld_modTile (k : Nat) (f : Tile → Tile) (m : RegName) (jx : List Nat) (lo' k' : Nat) : (s.modTile k f).fld m jx lo' k' = s.fld m jx lo' k' := rfl
@[simp] theorem State.bit_modTile (k : Nat) (f : Tile → Tile) (m : RegName) (jx : List Nat) (i' : Nat) : (s.modTile k f).bit m jx i' = s.bit m jx i' := rfl
@[simp] theorem State.getCtx_modTile (k : Nat) (f : Tile → Tile) (j : Nat) : (s.modTile k f).getCtx j = s.getCtx j := rfl
@[simp] theorem State.getHbm_modTile (k : Nat) (f : Tile → Tile) (j : Nat) : (s.modTile k f).getHbm j = s.getHbm j := rfl
@[simp] theorem State.getCxl_modTile (k : Nat) (f : Tile → Tile) (j : Nat) : (s.modTile k f).getCxl j = s.getCxl j := rfl
@[simp] theorem State.getVault_modTile (k : Nat) (f : Tile → Tile) (j : Nat) : (s.modTile k f).getVault j = s.getVault j := rfl
@[simp] theorem State.getLink_modTile (k : Nat) (f : Tile → Tile) (j : Nat) : (s.modTile k f).getLink j = s.getLink j := rfl
@[simp] theorem State.rg_modHbm (k : Nat) (f : Hbm → Hbm) (m : RegName) (jx : List Nat) : (s.modHbm k f).rg m jx = s.rg m jx := rfl
@[simp] theorem State.fld_modHbm (k : Nat) (f : Hbm → Hbm) (m : RegName) (jx : List Nat) (lo' k' : Nat) : (s.modHbm k f).fld m jx lo' k' = s.fld m jx lo' k' := rfl
@[simp] theorem State.bit_modHbm (k : Nat) (f : Hbm → Hbm) (m : RegName) (jx : List Nat) (i' : Nat) : (s.modHbm k f).bit m jx i' = s.bit m jx i' := rfl
@[simp] theorem State.getCtx_modHbm (k : Nat) (f : Hbm → Hbm) (j : Nat) : (s.modHbm k f).getCtx j = s.getCtx j := rfl
@[simp] theorem State.getTile_modHbm (k : Nat) (f : Hbm → Hbm) (j : Nat) : (s.modHbm k f).getTile j = s.getTile j := rfl
@[simp] theorem State.getCxl_modHbm (k : Nat) (f : Hbm → Hbm) (j : Nat) : (s.modHbm k f).getCxl j = s.getCxl j := rfl
@[simp] theorem State.getVault_modHbm (k : Nat) (f : Hbm → Hbm) (j : Nat) : (s.modHbm k f).getVault j = s.getVault j := rfl
@[simp] theorem State.getLink_modHbm (k : Nat) (f : Hbm → Hbm) (j : Nat) : (s.modHbm k f).getLink j = s.getLink j := rfl
@[simp] theorem State.rg_modCxl (k : Nat) (f : Cxl → Cxl) (m : RegName) (jx : List Nat) : (s.modCxl k f).rg m jx = s.rg m jx := rfl
@[simp] theorem State.fld_modCxl (k : Nat) (f : Cxl → Cxl) (m : RegName) (jx : List Nat) (lo' k' : Nat) : (s.modCxl k f).fld m jx lo' k' = s.fld m jx lo' k' := rfl
@[simp] theorem State.bit_modCxl (k : Nat) (f : Cxl → Cxl) (m : RegName) (jx : List Nat) (i' : Nat) : (s.modCxl k f).bit m jx i' = s.bit m jx i' := rfl
@[simp] theorem State.getCtx_modCxl (k : Nat) (f : Cxl → Cxl) (j : Nat) : (s.modCxl k f).getCtx j = s.getCtx j := rfl
@[simp] theorem State.getTile_modCxl (k : Nat) (f : Cxl → Cxl) (j : Nat) : (s.modCxl k f).getTile j = s.getTile j := rfl
@[simp] theorem State.getHbm_modCxl (k : Nat) (f : Cxl → Cxl) (j : Nat) : (s.modCxl k f).getHbm j = s.getHbm j := rfl
@[simp] theorem State.getVault_modCxl (k : Nat) (f : Cxl → Cxl) (j : Nat) : (s.modCxl k f).getVault j = s.getVault j := rfl
@[simp] theorem State.getLink_modCxl (k : Nat) (f : Cxl → Cxl) (j : Nat) : (s.modCxl k f).getLink j = s.getLink j := rfl
@[simp] theorem State.rg_modVault (k : Nat) (f : Vault → Vault) (m : RegName) (jx : List Nat) : (s.modVault k f).rg m jx = s.rg m jx := rfl
@[simp] theorem State.fld_modVault (k : Nat) (f : Vault → Vault) (m : RegName) (jx : List Nat) (lo' k' : Nat) : (s.modVault k f).fld m jx lo' k' = s.fld m jx lo' k' := rfl
@[simp] theorem State.bit_modVault (k : Nat) (f : Vault → Vault) (m : RegName) (jx : List Nat) (i' : Nat) : (s.modVault k f).bit m jx i' = s.bit m jx i' := rfl
@[simp] theorem State.getCtx_modVault (k : Nat) (f : Vault → Vault) (j : Nat) : (s.modVault k f).getCtx j = s.getCtx j := rfl
@[simp] theorem State.getTile_modVault (k : Nat) (f : Vault → Vault) (j : Nat) : (s.modVault k f).getTile j = s.getTile j := rfl
@[simp] theorem State.getHbm_modVault (k : Nat) (f : Vault → Vault) (j : Nat) : (s.modVault k f).getHbm j = s.getHbm j := rfl
@[simp] theorem State.getCxl_modVault (k : Nat) (f : Vault → Vault) (j : Nat) : (s.modVault k f).getCxl j = s.getCxl j := rfl
@[simp] theorem State.getLink_modVault (k : Nat) (f : Vault → Vault) (j : Nat) : (s.modVault k f).getLink j = s.getLink j := rfl
@[simp] theorem State.rg_modRegion (v r : Nat) (f : VRegion → VRegion) (m : RegName) (jx : List Nat) : (s.modRegion v r f).rg m jx = s.rg m jx := rfl
@[simp] theorem State.fld_modRegion (v r : Nat) (f : VRegion → VRegion) (m : RegName) (jx : List Nat) (lo' k' : Nat) : (s.modRegion v r f).fld m jx lo' k' = s.fld m jx lo' k' := rfl
@[simp] theorem State.bit_modRegion (v r : Nat) (f : VRegion → VRegion) (m : RegName) (jx : List Nat) (i' : Nat) : (s.modRegion v r f).bit m jx i' = s.bit m jx i' := rfl
@[simp] theorem State.getCtx_modRegion (v r : Nat) (f : VRegion → VRegion) (j : Nat) : (s.modRegion v r f).getCtx j = s.getCtx j := rfl
@[simp] theorem State.getTile_modRegion (v r : Nat) (f : VRegion → VRegion) (j : Nat) : (s.modRegion v r f).getTile j = s.getTile j := rfl
@[simp] theorem State.getHbm_modRegion (v r : Nat) (f : VRegion → VRegion) (j : Nat) : (s.modRegion v r f).getHbm j = s.getHbm j := rfl
@[simp] theorem State.getCxl_modRegion (v r : Nat) (f : VRegion → VRegion) (j : Nat) : (s.modRegion v r f).getCxl j = s.getCxl j := rfl
@[simp] theorem State.getLink_modRegion (v r : Nat) (f : VRegion → VRegion) (j : Nat) : (s.modRegion v r f).getLink j = s.getLink j := rfl
@[simp] theorem State.rg_modLink (k : Nat) (f : Link → Link) (m : RegName) (jx : List Nat) : (s.modLink k f).rg m jx = s.rg m jx := rfl
@[simp] theorem State.fld_modLink (k : Nat) (f : Link → Link) (m : RegName) (jx : List Nat) (lo' k' : Nat) : (s.modLink k f).fld m jx lo' k' = s.fld m jx lo' k' := rfl
@[simp] theorem State.bit_modLink (k : Nat) (f : Link → Link) (m : RegName) (jx : List Nat) (i' : Nat) : (s.modLink k f).bit m jx i' = s.bit m jx i' := rfl
@[simp] theorem State.getCtx_modLink (k : Nat) (f : Link → Link) (j : Nat) : (s.modLink k f).getCtx j = s.getCtx j := rfl
@[simp] theorem State.getTile_modLink (k : Nat) (f : Link → Link) (j : Nat) : (s.modLink k f).getTile j = s.getTile j := rfl
@[simp] theorem State.getHbm_modLink (k : Nat) (f : Link → Link) (j : Nat) : (s.modLink k f).getHbm j = s.getHbm j := rfl
@[simp] theorem State.getCxl_modLink (k : Nat) (f : Link → Link) (j : Nat) : (s.modLink k f).getCxl j = s.getCxl j := rfl
@[simp] theorem State.getVault_modLink (k : Nat) (f : Link → Link) (j : Nat) : (s.modLink k f).getVault j = s.getVault j := rfl
@[simp] theorem State.rg_emit (o : Out) (m : RegName) (jx : List Nat) : (s.emit o).rg m jx = s.rg m jx := rfl
@[simp] theorem State.fld_emit (o : Out) (m : RegName) (jx : List Nat) (lo' k' : Nat) : (s.emit o).fld m jx lo' k' = s.fld m jx lo' k' := rfl
@[simp] theorem State.bit_emit (o : Out) (m : RegName) (jx : List Nat) (i' : Nat) : (s.emit o).bit m jx i' = s.bit m jx i' := rfl
@[simp] theorem State.getCtx_emit (o : Out) (j : Nat) : (s.emit o).getCtx j = s.getCtx j := rfl
@[simp] theorem State.getTile_emit (o : Out) (j : Nat) : (s.emit o).getTile j = s.getTile j := rfl
@[simp] theorem State.getHbm_emit (o : Out) (j : Nat) : (s.emit o).getHbm j = s.getHbm j := rfl
@[simp] theorem State.getCxl_emit (o : Out) (j : Nat) : (s.emit o).getCxl j = s.getCxl j := rfl
@[simp] theorem State.getVault_emit (o : Out) (j : Nat) : (s.emit o).getVault j = s.getVault j := rfl
@[simp] theorem State.getLink_emit (o : Out) (j : Nat) : (s.emit o).getLink j = s.getLink j := rfl

@[simp] theorem State.rg_idleTick (m : RegName) (jx : List Nat) : (idleTick s).rg m jx = s.rg m jx := rfl
@[simp] theorem State.fld_idleTick (m : RegName) (jx : List Nat) (lo' k' : Nat) : (idleTick s).fld m jx lo' k' = s.fld m jx lo' k' := rfl
@[simp] theorem State.bit_idleTick (m : RegName) (jx : List Nat) (i' : Nat) : (idleTick s).bit m jx i' = s.bit m jx i' := rfl
@[simp] theorem State.getCtx_idleTick (j : Nat) : (idleTick s).getCtx j = s.getCtx j := rfl
@[simp] theorem State.getTile_idleTick (j : Nat) : (idleTick s).getTile j = s.getTile j := rfl
@[simp] theorem State.getHbm_idleTick (j : Nat) : (idleTick s).getHbm j = s.getHbm j := rfl
@[simp] theorem State.getCxl_idleTick (j : Nat) : (idleTick s).getCxl j = s.getCxl j := rfl
@[simp] theorem State.getVault_idleTick (j : Nat) : (idleTick s).getVault j = s.getVault j := rfl
@[simp] theorem State.getLink_idleTick (j : Nat) : (idleTick s).getLink j = s.getLink j := rfl

end Sys2Proof.Machine
end

