-- ==== Sys2Proof/Laws/Keeps.lean ====
section
/-! SUPPORT. What every operation keeps, said once for the updates that all operations are made of: the queue, the fuses but for the
minimum SVN, and the canonical form of every family and memory. -/

namespace Sys2Proof.Machine

open Sys2Proof.Safety

/-- A state that a command reaches from `s0`: the queue is the same, the fuses are kept, and the canonical form is kept. -/
structure Keeps (s0 s : State) : Prop where
  pending : s.pending = s0.pending
  fuses   : FusesKept s0 s
  canon   : Canonical s0 → Canonical s

/-- An operation that may answer no state. -/
def KeepsO (s0 : State) (o : Option State) : Prop := ∀ s, o = some s → Keeps s0 s

/-- A step's outcome, where it is a next state. -/
def KeepsN (s0 : State) (o : Host.Outcome State Fault Refusal) : Prop := ∀ s, o = .next s → Keeps s0 s

theorem Keeps.refl {s : State} : Keeps s s := ⟨Eq.refl _, ⟨Nat.le_refl _, by cases s; simp⟩, id⟩

theorem Keeps.trans {a b c : State} (h : Keeps a b) (k : Keeps b c) : Keeps a c := by
  refine ⟨k.pending.trans h.pending, ⟨Nat.le_trans h.fuses.1 k.fuses.1, ?_⟩, fun x => k.canon (h.canon x)⟩
  rw [k.fuses.2, h.fuses.2]

theorem KeepsN.next {s0 s : State} (h : Keeps s0 s) : KeepsN s0 (.next s) := by
  intro t ht; cases ht; exact h

theorem KeepsN.fault {s0 : State} {r : Fault} : KeepsN s0 (.fault r) := by
  intro t ht; cases ht

theorem KeepsO.some {s0 s : State} (h : Keeps s0 s) : KeepsO s0 (some s) := by
  intro t ht; cases ht; exact h

theorem KeepsO.none {s0 : State} : KeepsO s0 none := by
  intro t ht; cases ht

theorem KeepsO.map {s0 : State} {α : Type} {o : Option α} {f : α → State} (hf : ∀ a, o = .some a → Keeps s0 (f a)) : KeepsO s0 (o.map f) := by
  intro t ht
  obtain ⟨a, ha, rfl⟩ := Option.map_eq_some_iff.1 ht
  exact hf a ha

variable {s0 s : State}

/-- A state whose parts with a canonical form are those of a kept one, but for the management memory and the flash, which keep theirs; the other parts
may differ. -/
theorem Keeps.same (h : Keeps s0 s) {t : State} (hp : t.pending = s.pending) (hf : t.fuses = s.fuses) (h1 : t.csr = s.csr) (h2 : t.ctx = s.ctx)
    (h3 : t.tile = s.tile) (h4 : t.hbm = s.hbm) (h5 : t.cxl = s.cxl) (h6 : t.link = s.link) (h7 : t.req = s.req) (h8 : t.vault = s.vault)
    (h9 : t.partQuar = s.partQuar) (h10 : s.mgt.wf = true → t.mgt.wf = true)
    (h11 : s.sec.flash.wf = true → t.sec.flash.wf = true) : Keeps s0 t := by
  refine ⟨hp.trans h.pending, ⟨hf ▸ h.fuses.1, hf ▸ h.fuses.2⟩, fun c => ?_⟩
  have d := h.canon c
  constructor
  · rw [h1]; exact d.csr
  · rw [h2]; exact d.ctx
  · rw [h3]; exact d.tile
  · rw [h4]; exact d.hbm
  · rw [h5]; exact d.cxl
  · rw [h6]; exact d.link
  · rw [h7]; exact d.req
  · rw [h8]; exact d.vault
  · rw [h9]; exact d.partQuar
  · exact h10 d.mgt
  · exact h11 d.flash
  · intro k; rw [State.getCtx, h2]; exact d.ctxs k
  · intro k; rw [State.getTile, h3]; exact d.tiles k
  · intro k; rw [State.getHbm, h4]; exact d.hbms k
  · intro k; rw [State.getCxl, h5]; exact d.cxls k
  · intro k; rw [State.getVault, h8]; exact d.vaults k

/-- The same of a state written out by its fields. -/
theorem Keeps.put (h : Keeps s0 s) {out : List Out} {resp : Option Word} {freeCtr : Nat} {failedT : List Nat} {failedB : List Nat} {tested : Bool} {shortT : Bool} {flt : Faults} {snap : Option Snap} {time : Time} {clk : Clocks} {hbmPtr : Nat} {mgt : Memory} {mor : Moraine} {net : Fabric} {self : Nat} {admSeq : Nat} {cloOp : Option CloOp} {ins : Install} {srvWait : Option SrvWait} {loader : Option Loader} {port : Port} {sec : Security} {pins : Pins}
    (hm : s.mgt.wf = true → mgt.wf = true) (hs : s.sec.flash.wf = true → sec.flash.wf = true) :
    Keeps s0 { pending := s.pending, out := out, resp := resp, freeCtr := freeCtr, csr := s.csr, fuses := s.fuses, failedT := failedT, failedB := failedB, tested := tested, shortT := shortT, flt := flt, snap := snap, time := time, clk := clk, ctx := s.ctx, tile := s.tile, hbm := s.hbm, hbmPtr := hbmPtr, cxl := s.cxl, mgt := mgt, mor := mor, link := s.link, net := net, self := self, req := s.req, admSeq := admSeq, cloOp := cloOp, partQuar := s.partQuar, vault := s.vault, ins := ins, srvWait := srvWait, loader := loader, port := port, sec := sec, pins := pins } :=
  h.same rfl rfl rfl rfl rfl rfl rfl rfl rfl rfl rfl hm hs

theorem AllAbove.of_rising {α : Type} {k : Nat} {v : α} {r : KMap α} (h : Rising ((k, v) :: r)) : KMap.AllAbove k r :=
  fun e he => (List.pairwise_cons.1 h).1 e he

theorem Rising.above {α : Type} {m : KMap α} (h : Rising m) (a : Nat) : Rising (KMap.above a m) := by
  induction m with
  | nil => exact h
  | cons e r ih =>
    obtain ⟨k, v⟩ := e
    simp only [KMap.above]
    split
    · exact ih (List.pairwise_cons.1 h).2
    · exact h

theorem above_allAbove_of_rising {α : Type} {m : KMap α} (h : Rising m) (a : Nat) : KMap.AllAbove a (KMap.above a m) := by
  induction m with
  | nil => intro e he; cases he
  | cons e r ih =>
    obtain ⟨k, v⟩ := e
    simp only [KMap.above]
    split
    · exact ih (List.pairwise_cons.1 h).2
    · intro e he
      rcases List.mem_cons.1 he with rfl | he
      · simp only; omega
      · have := (AllAbove.of_rising h) e he; omega

/-- A write keeps keys rising. -/
theorem Rising.set {α : Type} [DecidableEq α] (d : α) {m : KMap α} (h : Rising m) (a : Nat) (v : α) : Rising (KMap.set d m a v) := by
  induction m with
  | nil =>
    simp only [KMap.set]
    split
    · exact List.Pairwise.nil
    · exact List.pairwise_singleton ..
  | cons e r ih =>
    obtain ⟨k, w⟩ := e
    have hr := (List.pairwise_cons.1 h).2
    have hk := AllAbove.of_rising h
    simp only [KMap.set]
    split
    · rename_i hlt
      split
      · exact h
      · refine List.pairwise_cons.2 ⟨fun e he => ?_, h⟩
        rcases List.mem_cons.1 he with rfl | he
        · exact hlt
        · exact Nat.lt_trans hlt (hk e he)
    · split
      · rename_i h1 h2
        subst h2
        split
        · exact Rising.above hr a
        · exact List.pairwise_cons.2 ⟨fun e he => hk e he, hr⟩
      · refine List.pairwise_cons.2 ⟨fun e he => ?_, ih hr⟩
        exact hk.set d v (by omega) e he

/-! ### The updates -/

/-- A change of the stored registers that keeps their addresses rising. -/
theorem Keeps.csr (h : Keeps s0 s) {t : State} {m : KMap Word} (hm : Rising s.csr → Rising m) (ht : t = { s with csr := m }) : Keeps s0 t := by
  subst ht
  refine ⟨h.pending, h.fuses, fun c => ?_⟩
  have d := h.canon c
  exact { d with csr := hm d.csr }

theorem State.setRg_keeps (h : Keeps s0 s) {n : RegName} {ix : List Nat} {w : Word} : Keeps s0 (s.setRg n ix w) :=
  h.csr (fun x => Rising.set _ x _ _) rfl

theorem State.setFld_keeps (h : Keeps s0 s) {n : RegName} {ix : List Nat} {lo k v : Nat} : Keeps s0 (s.setFld n ix lo k v) := State.setRg_keeps h

theorem State.addFld_keeps (h : Keeps s0 s) {n : RegName} {ix : List Nat} {lo k v : Nat} : Keeps s0 (s.addFld n ix lo k v) := State.setRg_keeps h

theorem State.setBit_keeps (h : Keeps s0 s) {n : RegName} {ix : List Nat} {i : Nat} {b : Bool} : Keeps s0 (s.setBit n ix i b) := State.setRg_keeps h

theorem State.clrRg_keeps (h : Keeps s0 s) {n : RegName} {ix : List Nat} : Keeps s0 (s.clrRg n ix) := State.setRg_keeps h

theorem State.finish_keeps (h : Keeps s0 s) {n : RegName} {ix : List Nat} {st : Status} : Keeps s0 (s.finish n ix st) :=
  State.setFld_keeps (State.setFld_keeps h)

theorem CtxOk.fresh : CtxOk {} := by
  intro a ha; cases ha

theorem CtxOk.noSave {c : Ctx} (h : c.save = none) : CtxOk c := by
  intro a ha; rw [h] at ha; cases ha

theorem TileOk.fresh : TileOk {} := ⟨rfl, rfl⟩

theorem State.setCtx_keeps (h : Keeps s0 s) {k : Nat} {c : Ctx} (hc : Canonical s0 → CtxOk (s.getCtx k) → CtxOk c) : Keeps s0 (s.setCtx k c) := by
  refine ⟨h.pending, h.fuses, fun x => ?_⟩
  have d := h.canon x
  refine { d with ctx := KMap.set_wf _ _ _ _ d.ctx, ctxs := fun j => ?_ }
  by_cases hj : j = k
  · subst hj; rw [State.getCtx_setCtx_self]; exact hc x (d.ctxs j)
  · rw [State.getCtx_setCtx_ne _ _ _ _ hj]; exact d.ctxs j

theorem State.modCtx_keeps (h : Keeps s0 s) {k : Nat} {f : Ctx → Ctx} (hf : ∀ c, CtxOk c → CtxOk (f c)) : Keeps s0 (s.modCtx k f) :=
  State.setCtx_keeps h fun _ hc => hf _ hc

theorem State.modPlan_keeps (h : Keeps s0 s) {k : Nat} {f : Plan → Plan} : Keeps s0 (s.modPlan k f) :=
  State.modCtx_keeps h fun _ hc => hc

theorem State.modPart_keeps (h : Keeps s0 s) {k : Nat} {f : PartEntry → PartEntry} : Keeps s0 (s.modPart k f) :=
  State.modCtx_keeps h fun _ hc => hc

theorem State.setTile_keeps (h : Keeps s0 s) {k : Nat} {x : Tile} (hx : Canonical s0 → TileOk (s.getTile k) → TileOk x) : Keeps s0 (s.setTile k x) := by
  refine ⟨h.pending, h.fuses, fun c => ?_⟩
  have d := h.canon c
  refine { d with tile := KMap.set_wf _ _ _ _ d.tile, tiles := fun j => ?_ }
  by_cases hj : j = k
  · subst hj; rw [State.getTile_setTile_self]; exact hx c (d.tiles j)
  · rw [State.getTile_setTile_ne _ _ _ _ hj]; exact d.tiles j

theorem State.modTile_keeps (h : Keeps s0 s) {k : Nat} {f : Tile → Tile} (hf : ∀ x, TileOk x → TileOk (f x)) : Keeps s0 (s.modTile k f) :=
  State.setTile_keeps h fun _ hx => hf _ hx

theorem State.modHbm_keeps (h : Keeps s0 s) {k : Nat} {f : Hbm → Hbm} (hf : ∀ x : Hbm, x.mem.wf = true → (f x).mem.wf = true) :
    Keeps s0 (s.modHbm k f) := by
  refine ⟨h.pending, h.fuses, fun c => ?_⟩
  have d := h.canon c
  refine { d with hbm := KMap.set_wf _ _ _ _ d.hbm, hbms := fun j => ?_ }
  by_cases hj : j = k
  · subst hj; rw [State.getHbm_modHbm_self]; exact hf _ (d.hbms j)
  · rw [State.getHbm_modHbm_ne _ _ _ _ hj]; exact d.hbms j

theorem State.modCxl_keeps (h : Keeps s0 s) {k : Nat} {f : Cxl → Cxl} (hf : ∀ x : Cxl, x.mem.wf = true → (f x).mem.wf = true) :
    Keeps s0 (s.modCxl k f) := by
  refine ⟨h.pending, h.fuses, fun c => ?_⟩
  have d := h.canon c
  refine { d with cxl := KMap.set_wf _ _ _ _ d.cxl, cxls := fun j => ?_ }
  by_cases hj : j = k
  · subst hj; rw [State.getCxl_modCxl_self]; exact hf _ (d.cxls j)
  · rw [State.getCxl_modCxl_ne _ _ _ _ hj]; exact d.cxls j

theorem State.modVault_keeps (h : Keeps s0 s) {k : Nat} {f : Vault → Vault} (hf : ∀ x : Vault, x.mem.wf = true → (f x).mem.wf = true) :
    Keeps s0 (s.modVault k f) := by
  refine ⟨h.pending, h.fuses, fun c => ?_⟩
  have d := h.canon c
  refine { d with vault := KMap.set_wf _ _ _ _ d.vault, vaults := fun j => ?_ }
  by_cases hj : j = k
  · subst hj; rw [State.getVault_modVault_self]; exact hf _ (d.vaults j)
  · rw [State.getVault_modVault_ne _ _ _ _ hj]; exact d.vaults j

theorem State.modRegion_keeps (h : Keeps s0 s) {v r : Nat} {f : VRegion → VRegion} : Keeps s0 (s.modRegion v r f) :=
  State.modVault_keeps h fun _ hx => hx

theorem State.modLink_keeps (h : Keeps s0 s) {k : Nat} {f : Link → Link} : Keeps s0 (s.modLink k f) := by
  refine ⟨h.pending, h.fuses, fun c => ?_⟩
  have d := h.canon c
  exact { d with link := KMap.set_wf _ _ _ _ d.link }

theorem Keeps.noLinks (h : Keeps s0 s) : Keeps s0 { s with link := [] } := by
  refine ⟨h.pending, h.fuses, fun c => ?_⟩
  have d := h.canon c
  exact { d with link := rfl }

theorem Keeps.reqs (h : Keeps s0 s) {i : Nat} {r : Req} : Keeps s0 { s with req := KMap.set {} s.req i r } := by
  refine ⟨h.pending, h.fuses, fun c => ?_⟩
  have d := h.canon c
  exact { d with req := KMap.set_wf _ _ _ _ d.req }

theorem State.setPartQuar_keeps (h : Keeps s0 s) {i : Nat} {w : Word} : Keeps s0 (s.setPartQuar i w) := by
  refine ⟨h.pending, h.fuses, fun c => ?_⟩
  have d := h.canon c
  exact { d with partQuar := KMap.set_wf _ _ _ _ d.partQuar }

theorem Keeps.mgtMem (h : Keeps s0 s) {m : Memory} (hm : s.mgt.wf = true → m.wf = true) : Keeps s0 { s with mgt := m } := by
  refine ⟨h.pending, h.fuses, fun c => ?_⟩
  have d := h.canon c
  exact { d with mgt := hm d.mgt }

theorem State.mgtWrite_keeps (h : Keeps s0 s) {a : Nat} {bs : List Byte} : Keeps s0 (s.mgtWrite a bs) :=
  h.mgtMem fun x => Memory.write_wf _ _ _ x

theorem Keeps.secure (h : Keeps s0 s) {x : Security} (hx : s.sec.flash.wf = true → x.flash.wf = true) : Keeps s0 { s with sec := x } := by
  refine ⟨h.pending, h.fuses, fun c => ?_⟩
  have d := h.canon c
  exact { d with flash := hx d.flash }

theorem Keeps.raiseSvn (h : Keeps s0 s) {n : Nat} : Keeps s0 { s with fuses := { s.fuses with svn := max s.fuses.svn n } } := by
  refine ⟨h.pending, ⟨Nat.le_trans h.fuses.1 (Nat.le_max_left ..), ?_⟩, fun c => ?_⟩
  · have := h.fuses.2
    simp only
    rw [this]
  · have d := h.canon c
    exact { d with }

theorem State.emit_keeps (h : Keeps s0 s) {o : Out} : Keeps s0 (s.emit o) := h.same rfl rfl rfl rfl rfl rfl rfl rfl rfl rfl rfl id id

theorem idleTick_keeps (h : Keeps s0 s) : Keeps s0 (idleTick s) := h.same rfl rfl rfl rfl rfl rfl rfl rfl rfl rfl rfl id id

theorem State.draw_keeps (h : Keeps s0 s) : Keeps s0 s.draw.2 := h.same rfl rfl rfl rfl rfl rfl rfl rfl rfl rfl rfl id id

/-- A fold of operations that each keep. -/
theorem foldl_keeps {α : Type} {f : State → α → State} (hf : ∀ s a, Keeps s0 s → Keeps s0 (f s a)) (l : List α) (h : Keeps s0 s) :
    Keeps s0 (l.foldl f s) := by
  induction l generalizing s with
  | nil => exact h
  | cons a l ih => exact ih (hf s a h)

theorem State.each_keeps {α : Type} {f : State → α → State} {l : List α} (h : Keeps s0 s) (hf : ∀ s a, Keeps s0 s → Keeps s0 (f s a)) :
    Keeps s0 (s.each l f) := foldl_keeps hf l h

/-- The same for a fold whose operations may use that they work on entries of the list. -/
theorem each_keeps_mem {α : Type} {f : State → α → State} {l : List α} (h : Keeps s0 s) (hf : ∀ s, ∀ a ∈ l, Keeps s0 s → Keeps s0 (f s a)) :
    Keeps s0 (s.each l f) := by
  unfold State.each
  induction l generalizing s with
  | nil => exact h
  | cons a l ih => exact ih (hf s a (List.mem_cons_self ..) h) fun s b hb => hf s b (List.mem_cons_of_mem _ hb)

/-- A fold that carries a value beside the state. -/
theorem fold_pair_keeps {α β : Type} {f : β × State → α → β × State} (hf : ∀ p a, Keeps s0 p.2 → Keeps s0 (f p a).2) (l : List α) {p : β × State}
    (h : Keeps s0 p.2) : Keeps s0 (l.foldl f p).2 := by
  induction l generalizing p with
  | nil => exact h
  | cons a l ih => exact ih (hf p a h)

theorem State.drawBytes_keeps (n : Nat) (h : Keeps s0 s) : Keeps s0 (s.drawBytes n).2 := by
  induction n generalizing s with
  | zero => exact h
  | succ n ih => exact ih (State.draw_keeps h)

end Sys2Proof.Machine
end

