-- ==== Sys2Proof/Laws/KeepsJournal.lean ====
section
/-! SUPPORT. What each operation of Machine/Journal.lean keeps. -/

namespace Sys2Proof.Machine

open Sys2Proof.Safety

set_option linter.all false
set_option Elab.async false

theorem State.jrnPut_keeps {s0 : State} {s : State} {k : Nat} {r : List Byte} (kp : Keeps s0 s) :
    Keeps s0 (State.jrnPut s k r) := by
  unfold State.jrnPut
  repeat' first
    | with_reducible assumption | with_reducible apply State.mgtWrite_keeps | with_reducible apply State.setBit_keeps
    | with_reducible apply State.setFld_keeps | split

theorem State.jrnFlush.go_keeps {s0 : State} {k : Nat} {s : State} {x2 : List (List Byte)} (kp : Keeps s0 s) :
    Keeps s0 (State.jrnFlush.go k s x2) := by
  revert kp
  fun_induction State.jrnFlush.go k s x2 <;> intro kp
  all_goals
    repeat' first
      | with_reducible apply State.jrnPut_keeps | with_reducible apply State.modCtx_keeps | with_reducible apply_assumption -exfalso -symm
      | exact fun _ (hx : CtxOk _) => hx

theorem State.jrnFlush_keeps {s0 : State} {s : State} {k : Nat} (kp : Keeps s0 s) :
    Keeps s0 (State.jrnFlush s k) := by
  unfold State.jrnFlush
  repeat' first | with_reducible assumption | with_reducible apply State.jrnFlush.go_keeps

theorem State.jrnSay_keeps {s0 : State} {s : State} {k : Nat} {type : Nat} {flags : Nat} {step : Nat} {body : List Byte} (kp : Keeps s0 s) :
    Keeps s0 (State.jrnSay s k type flags step body) := by
  unfold State.jrnSay
  repeat' first
    | with_reducible assumption | with_reducible apply State.jrnFlush_keeps | with_reducible apply State.modCtx_keeps | split
    | exact fun _ (hx : CtxOk _) => hx

theorem State.jrnAdvance_keeps {s0 : State} {s : State} {k : Nat} {len : Nat} (kp : Keeps s0 s) :
    Keeps s0 (State.jrnAdvance s k len) := by
  unfold State.jrnAdvance
  repeat' first | with_reducible assumption | with_reducible apply State.setFld_keeps

theorem State.jrnSkipPad_keeps {s0 : State} {s : State} {k : Nat} (kp : Keeps s0 s) :
    Keeps s0 (State.jrnSkipPad s k) := by
  unfold State.jrnSkipPad
  repeat' first | with_reducible assumption | with_reducible apply State.jrnAdvance_keeps | split

end Sys2Proof.Machine
end

