-- ==== Sys2Proof/Laws/KeepsNetSend.lean ====
section
/-! SUPPORT. What each operation of Machine/NetSend.lean keeps. -/

namespace Sys2Proof.Machine

open Sys2Proof.Safety

set_option linter.all false
set_option Elab.async false

theorem State.sample_keeps {s0 : State} {s : State} {p : List Byte} {inp : Nat} {out : Nat} {vc : Nat} {epoch : Bool} {drop : Nat} (kp : Keeps s0 s) :
    Keeps s0 (State.sample s p inp out vc epoch drop) := by
  unfold State.sample
  try dsimp only
  repeat' first
    | with_reducible assumption | with_reducible apply State.setFld_keeps | with_reducible apply State.setRg_keeps | split
    | (intro _ hx; (first | show CtxOk _ | show TileOk _ | show Memory.wf _ = true); (repeat' first | exact hx | exact CtxOk.noSave rfl | split | dsimp only); done)
    | intro _ _ _ | intro _ _ | intro _ | dsimp only | (rw [id_eq]) | with_reducible refine Keeps.put ?_ (fun x => x) (fun x => x)

theorem State.freeFlits_keeps {s0 : State} {s : State} {vc : Nat} {fs : List TxFlit} (kp : Keeps s0 s) :
    Keeps s0 (State.freeFlits s vc fs) := by
  unfold State.freeFlits
  try dsimp only
  repeat' first
    | with_reducible assumption | with_reducible apply State.each_keeps | with_reducible apply State.modLink_keeps | split
    | (intro _ hx; (first | show CtxOk _ | show TileOk _ | show Memory.wf _ = true); (repeat' first | exact hx | exact CtxOk.noSave rfl | split | dsimp only); done)
    | intro _ _ _ | intro _ _ | intro _ | dsimp only | (rw [id_eq]) | with_reducible refine Keeps.put ?_ (fun x => x) (fun x => x)

theorem State.queueOn_keeps {s0 : State} {s : State} {l : Nat} {vc : Nat} {epoch : Bool} {p : List Byte} {from_ : optParam (Option Nat) none} (kp : Keeps s0 s) :
    Keeps s0 (State.queueOn s l vc epoch p from_) := by
  unfold State.queueOn
  try dsimp only
  repeat' first
    | with_reducible assumption | with_reducible apply State.freeFlits_keeps | with_reducible apply State.modLink_keeps | split
    | (intro _ hx; (first | show CtxOk _ | show TileOk _ | show Memory.wf _ = true); (repeat' first | exact hx | exact CtxOk.noSave rfl | split | dsimp only); done)
    | intro _ _ _ | intro _ _ | intro _ | dsimp only | (rw [id_eq]) | with_reducible refine Keeps.put ?_ (fun x => x) (fun x => x)

theorem State.takeSeq_keeps {s0 : State} {s : State} {vc : Nat} (kp : Keeps s0 s) :
    Keeps s0 (State.takeSeq s vc).2 := by
  unfold State.takeSeq
  try dsimp only
  repeat' first
    | with_reducible assumption | split
    | (intro _ hx; (first | show CtxOk _ | show TileOk _ | show Memory.wf _ = true); (repeat' first | exact hx | exact CtxOk.noSave rfl | split | dsimp only); done)
    | intro _ _ _ | intro _ _ | intro _ | dsimp only | (rw [id_eq]) | with_reducible refine Keeps.put ?_ (fun x => x) (fun x => x)

theorem State.takeSeq_keeps' {s0 : State} {s : State} {vc : Nat} {out : _} (eq : State.takeSeq s vc = out) (kp : Keeps s0 s) :
    Keeps s0 out.2 := eq ▸ State.takeSeq_keeps kp

theorem State.keep_keeps {s0 : State} {s : State} {x : SentPacket} (kp : Keeps s0 s) :
    Keeps s0 (State.keep s x) := by
  unfold State.keep
  try dsimp only
  repeat' first
    | with_reducible assumption | split
    | (intro _ hx; (first | show CtxOk _ | show TileOk _ | show Memory.wf _ = true); (repeat' first | exact hx | exact CtxOk.noSave rfl | split | dsimp only); done)
    | intro _ _ _ | intro _ _ | intro _ | dsimp only | (rw [id_eq]) | with_reducible refine Keeps.put ?_ (fun x => x) (fun x => x)

theorem sendFlood_keeps {s0 : State} {s : State} {k : Nat} {kind : Nat} {vc : Nat} {body : List Byte} (kp : Keeps s0 s) :
    Keeps s0 (sendFlood s k kind vc body) := by
  unfold sendFlood
  try dsimp only
  repeat' first
    | with_reducible assumption | with_reducible apply State.each_keeps | with_reducible apply State.keep_keeps
    | with_reducible apply State.queueOn_keeps | with_reducible apply State.sample_keeps | with_reducible apply State.takeSeq_keeps
    | refine State.takeSeq_keeps' (out := (_, _)) (by with_reducible assumption) ?_ | split
    | (intro _ hx; (first | show CtxOk _ | show TileOk _ | show Memory.wf _ = true); (repeat' first | exact hx | exact CtxOk.noSave rfl | split | dsimp only); done)
    | intro _ _ _ | intro _ _ | intro _ | dsimp only | (rw [id_eq]) | with_reducible refine Keeps.put ?_ (fun x => x) (fun x => x)

theorem sendOn_keeps {s0 : State} {s : State} {l : Nat} {dest : Nat} {kind : Nat} {vc : Nat} {body : List Byte} (kp : Keeps s0 s) :
    Keeps s0 (sendOn s l dest kind vc body) := by
  unfold sendOn
  try dsimp only
  repeat' first
    | with_reducible assumption | with_reducible apply State.addFld_keeps | with_reducible apply State.keep_keeps
    | with_reducible apply State.queueOn_keeps | with_reducible apply State.sample_keeps | with_reducible apply State.takeSeq_keeps
    | refine State.takeSeq_keeps' (out := (_, _)) (by with_reducible assumption) ?_ | split
    | (intro _ hx; (first | show CtxOk _ | show TileOk _ | show Memory.wf _ = true); (repeat' first | exact hx | exact CtxOk.noSave rfl | split | dsimp only); done)
    | intro _ _ _ | intro _ _ | intro _ | dsimp only | (rw [id_eq]) | with_reducible refine Keeps.put ?_ (fun x => x) (fun x => x)

theorem sendMachineOn_keeps {s0 : State} {s : State} {l : Nat} {kind : Nat} {vc : Nat} {body : List Byte} (kp : Keeps s0 s) :
    Keeps s0 (sendMachineOn s l kind vc body) := by
  unfold sendMachineOn
  try dsimp only
  repeat' first
    | with_reducible assumption | with_reducible apply sendOn_keeps | split
    | (intro _ hx; (first | show CtxOk _ | show TileOk _ | show Memory.wf _ = true); (repeat' first | exact hx | exact CtxOk.noSave rfl | split | dsimp only); done)
    | intro _ _ _ | intro _ _ | intro _ | dsimp only | (rw [id_eq]) | with_reducible refine Keeps.put ?_ (fun x => x) (fun x => x)

theorem sendMachine_keeps {s0 : State} {s : State} {dest : Nat} {kind : Nat} {vc : Nat} {body : List Byte} (kp : Keeps s0 s) :
    Keeps s0 (sendMachine s dest kind vc body) := by
  unfold sendMachine
  try dsimp only
  repeat' first
    | with_reducible assumption | with_reducible apply sendOn_keeps | split
    | (intro _ hx; (first | show CtxOk _ | show TileOk _ | show Memory.wf _ = true); (repeat' first | exact hx | exact CtxOk.noSave rfl | split | dsimp only); done)
    | intro _ _ _ | intro _ _ | intro _ | dsimp only | (rw [id_eq]) | with_reducible refine Keeps.put ?_ (fun x => x) (fun x => x)

end Sys2Proof.Machine
end

