-- ==== Sys2Proof/Laws/KeepsMem.lean ====
section
/-! SUPPORT. What each operation of Machine/Mem.lean keeps. -/

namespace Sys2Proof.Machine

open Sys2Proof.Safety

set_option linter.all false
set_option Elab.async false

theorem State.frameWrite_keeps {s0 : State} {s : State} {f : FrameId} {off : Nat} {bs : List Byte} (kp : Keeps s0 s) :
    Keeps s0 (State.frameWrite s f off bs) := by
  unfold State.frameWrite
  try dsimp only
  repeat' first
    | with_reducible assumption | with_reducible apply State.modCxl_keeps | with_reducible apply State.modHbm_keeps | split
    | exact fun _ hx => (show Memory.wf _ = true from hx) | exact fun _ hx => Memory.write_wf _ _ _ hx | exact fun _ hx => Memory.clear_wf _ _ _ hx
    | exact fun _ hx => Memory.copy_wf _ _ _ _ _ hx
    | (intro _ hx; (first | show CtxOk _ | show TileOk _ | show Memory.wf _ = true); (repeat' first | exact hx | exact CtxOk.noSave rfl | exact Memory.write_wf _ _ _ hx | exact Memory.clear_wf _ _ _ hx | exact Memory.copy_wf _ _ _ _ _ hx | exact ⟨Memory.write_wf _ _ _ hx.1, hx.2⟩ | split | dsimp only); done)
    | intro _ _ _ | intro _ _ | intro _ | dsimp only | (rw [id_eq]) | with_reducible refine Keeps.put ?_ (fun x => x) (fun x => x)

theorem State.frameClear_keeps {s0 : State} {s : State} {f : FrameId} (kp : Keeps s0 s) :
    Keeps s0 (State.frameClear s f) := by
  unfold State.frameClear
  try dsimp only
  repeat' first
    | with_reducible assumption | with_reducible apply State.modCxl_keeps | with_reducible apply State.modHbm_keeps | split
    | exact fun _ hx => (show Memory.wf _ = true from hx) | exact fun _ hx => Memory.write_wf _ _ _ hx | exact fun _ hx => Memory.clear_wf _ _ _ hx
    | exact fun _ hx => Memory.copy_wf _ _ _ _ _ hx
    | (intro _ hx; (first | show CtxOk _ | show TileOk _ | show Memory.wf _ = true); (repeat' first | exact hx | exact CtxOk.noSave rfl | exact Memory.write_wf _ _ _ hx | exact Memory.clear_wf _ _ _ hx | exact Memory.copy_wf _ _ _ _ _ hx | exact ⟨Memory.write_wf _ _ _ hx.1, hx.2⟩ | split | dsimp only); done)
    | intro _ _ _ | intro _ _ | intro _ | dsimp only | (rw [id_eq]) | with_reducible refine Keeps.put ?_ (fun x => x) (fun x => x)

theorem State.frameCopy_keeps {s0 : State} {s : State} {a : FrameId} {b : FrameId} (kp : Keeps s0 s) :
    Keeps s0 (State.frameCopy s a b) := by
  unfold State.frameCopy
  try dsimp only
  repeat' first
    | with_reducible assumption | with_reducible apply State.modCxl_keeps | with_reducible apply State.modHbm_keeps | split
    | exact fun _ hx => (show Memory.wf _ = true from hx) | exact fun _ hx => Memory.write_wf _ _ _ hx | exact fun _ hx => Memory.clear_wf _ _ _ hx
    | exact fun _ hx => Memory.copy_wf _ _ _ _ _ hx
    | (intro _ hx; (first | show CtxOk _ | show TileOk _ | show Memory.wf _ = true); (repeat' first | exact hx | exact CtxOk.noSave rfl | exact Memory.write_wf _ _ _ hx | exact Memory.clear_wf _ _ _ hx | exact Memory.copy_wf _ _ _ _ _ hx | exact ⟨Memory.write_wf _ _ _ hx.1, hx.2⟩ | split | dsimp only); done)
    | intro _ _ _ | intro _ _ | intro _ | dsimp only | (rw [id_eq]) | with_reducible refine Keeps.put ?_ (fun x => x) (fun x => x)

theorem State.modPte_keeps {s0 : State} {s : State} {k : Nat} {page : Nat} {f : Pte → Pte} (kp : Keeps s0 s) :
    Keeps s0 (State.modPte s k page f) := by
  unfold State.modPte
  try dsimp only
  repeat' first
    | with_reducible assumption | with_reducible apply State.modCtx_keeps | with_reducible apply hf | split | exact fun _ (hx : CtxOk _) => hx
    | (intro _ hx; (first | show CtxOk _ | show TileOk _ | show Memory.wf _ = true); (repeat' first | exact hx | exact CtxOk.noSave rfl | split | dsimp only); done)
    | intro _ _ _ | intro _ _ | intro _ | dsimp only | (rw [id_eq]) | with_reducible refine Keeps.put ?_ (fun x => x) (fun x => x)

theorem dropApers_keeps {s0 : State} {s : State} {k : Nat} (kp : Keeps s0 s) :
    Keeps s0 (dropApers s k) := by
  unfold dropApers
  try dsimp only
  repeat' first
    | with_reducible assumption | with_reducible apply State.each_keeps | with_reducible apply State.setBit_keeps | split
    | (intro _ hx; (first | show CtxOk _ | show TileOk _ | show Memory.wf _ = true); (repeat' first | exact hx | exact CtxOk.noSave rfl | split | dsimp only); done)
    | intro _ _ _ | intro _ _ | intro _ | dsimp only | (rw [id_eq]) | with_reducible refine Keeps.put ?_ (fun x => x) (fun x => x)

theorem State.endFlagWatch_keeps {s0 : State} {s : State} {w : Nat} {st : Status} {suspended : Bool} (kp : Keeps s0 s) :
    Keeps s0 (State.endFlagWatch s w st suspended) := by
  unfold State.endFlagWatch
  try dsimp only
  repeat' first
    | with_reducible assumption | with_reducible apply State.emit_keeps | with_reducible apply State.setBit_keeps
    | with_reducible apply State.setFld_keeps | split
    | (intro _ hx; (first | show CtxOk _ | show TileOk _ | show Memory.wf _ = true); (repeat' first | exact hx | exact CtxOk.noSave rfl | split | dsimp only); done)
    | intro _ _ _ | intro _ _ | intro _ | dsimp only | (rw [id_eq]) | with_reducible refine Keeps.put ?_ (fun x => x) (fun x => x)

theorem State.flagWrites_keeps {s0 : State} {s : State} {k : Nat} {va : Nat} {n : Nat} (kp : Keeps s0 s) :
    Keeps s0 (State.flagWrites s k va n) := by
  unfold State.flagWrites
  try dsimp only
  repeat' first
    | with_reducible assumption | with_reducible apply State.each_keeps | with_reducible apply State.endFlagWatch_keeps | split
    | (intro _ hx; (first | show CtxOk _ | show TileOk _ | show Memory.wf _ = true); (repeat' first | exact hx | exact CtxOk.noSave rfl | split | dsimp only); done)
    | intro _ _ _ | intro _ _ | intro _ | dsimp only | (rw [id_eq]) | with_reducible refine Keeps.put ?_ (fun x => x) (fun x => x)

theorem State.ctxWrite_keeps {s0 : State} {s : State} {k : Nat} {va : Nat} {bs : List Byte} {tile : optParam Nat 576} {mop : optParam Nat 0} (kp : Keeps s0 s) :
    Keeps s0 (State.ctxWrite s k va bs tile mop) := by
  unfold State.ctxWrite
  try dsimp only
  repeat' first
    | with_reducible assumption | with_reducible apply State.each_keeps | with_reducible apply State.flagWrites_keeps
    | with_reducible apply State.frameWrite_keeps | split
    | (intro _ hx; (first | show CtxOk _ | show TileOk _ | show Memory.wf _ = true); (repeat' first | exact hx | exact CtxOk.noSave rfl | split | dsimp only); done)
    | intro _ _ _ | intro _ _ | intro _ | dsimp only | (rw [id_eq]) | with_reducible refine Keeps.put ?_ (fun x => x) (fun x => x)

theorem State.handFlag_keeps {s0 : State} {s : State} {k : Nat} {va : Nat} {owner : Nat} (kp : Keeps s0 s) :
    Keeps s0 (State.handFlag s k va owner) := by
  unfold State.handFlag
  try dsimp only
  repeat' first
    | with_reducible assumption | with_reducible apply State.ctxWrite_keeps | split
    | (intro _ hx; (first | show CtxOk _ | show TileOk _ | show Memory.wf _ = true); (repeat' first | exact hx | exact CtxOk.noSave rfl | split | dsimp only); done)
    | intro _ _ _ | intro _ _ | intro _ | dsimp only | (rw [id_eq]) | with_reducible refine Keeps.put ?_ (fun x => x) (fun x => x)

end Sys2Proof.Machine
end

