-- ==== Sys2Proof/Laws/KeepsTurns.lean ====
section
/-! SUPPORT. What each operation of Machine/Turns.lean keeps. -/

namespace Sys2Proof.Machine

open Sys2Proof.Safety

set_option linter.all false
set_option Elab.async false

theorem State.modReq_keeps {s0 s : State} {i : Nat} {f : Req → Req} (h : Keeps s0 s) : Keeps s0 (s.modReq i f) := h.reqs

theorem State.freeReq_keeps {s0 : State} {s : State} {i : Nat} (kp : Keeps s0 s) :
    Keeps s0 (State.freeReq s i) := by
  unfold State.freeReq
  try dsimp only
  repeat' first
    | with_reducible assumption | with_reducible apply State.modReq_keeps | split
    | (intro _ hx; (first | show CtxOk _ | show TileOk _ | show Memory.wf _ = true); (repeat' first | exact hx | exact CtxOk.noSave rfl | split | dsimp only); done)
    | intro _ _ _ | intro _ _ | intro _ | dsimp only | (rw [id_eq]) | with_reducible refine Keeps.put ?_ (fun x => x) (fun x => x)

theorem State.modServe_keeps {s0 : State} {s : State} {k : Nat} {f : Serve → Serve} (kp : Keeps s0 s) :
    Keeps s0 (State.modServe s k f) := by
  unfold State.modServe
  try dsimp only
  repeat' first
    | with_reducible assumption | with_reducible apply State.modCtx_keeps | with_reducible apply hf | split | exact fun _ (hx : CtxOk _) => hx
    | (intro _ hx; (first | show CtxOk _ | show TileOk _ | show Memory.wf _ = true); (repeat' first | exact hx | exact CtxOk.noSave rfl | split | dsimp only); done)
    | intro _ _ _ | intro _ _ | intro _ | dsimp only | (rw [id_eq]) | with_reducible refine Keeps.put ?_ (fun x => x) (fun x => x)

theorem State.measure_keeps {s0 : State} {s : State} {i : Nat} {d : Delivery} (kp : Keeps s0 s) :
    Keeps s0 (State.measure s i d) := by
  unfold State.measure
  try dsimp only
  repeat' first
    | with_reducible assumption | with_reducible apply State.addFld_keeps | with_reducible apply State.modReq_keeps | split
    | (intro _ hx; (first | show CtxOk _ | show TileOk _ | show Memory.wf _ = true); (repeat' first | exact hx | exact CtxOk.noSave rfl | split | dsimp only); done)
    | intro _ _ _ | intro _ _ | intro _ | dsimp only | (rw [id_eq]) | with_reducible refine Keeps.put ?_ (fun x => x) (fun x => x)

theorem State.writeDelivery_keeps {s0 : State} {s : State} {i : Nat} {d : Delivery} (kp : Keeps s0 s) :
    Keeps s0 (State.writeDelivery s i d) := by
  unfold State.writeDelivery
  try dsimp only
  repeat' first
    | with_reducible assumption | with_reducible apply State.ctxWrite_keeps | with_reducible apply State.measure_keeps
    | with_reducible apply State.modReq_keeps | split
    | (intro _ hx; (first | show CtxOk _ | show TileOk _ | show Memory.wf _ = true); (repeat' first | exact hx | exact CtxOk.noSave rfl | split | dsimp only); done)
    | intro _ _ _ | intro _ _ | intro _ | dsimp only | (rw [id_eq]) | with_reducible refine Keeps.put ?_ (fun x => x) (fun x => x)

theorem State.deliver_keeps {s0 : State} {s : State} {i : Nat} {d : Delivery} (kp : Keeps s0 s) :
    Keeps s0 (State.deliver s i d) := by
  unfold State.deliver
  try dsimp only
  repeat' first
    | with_reducible assumption | with_reducible apply State.modReq_keeps | with_reducible apply State.writeDelivery_keeps | split
    | (intro _ hx; (first | show CtxOk _ | show TileOk _ | show Memory.wf _ = true); (repeat' first | exact hx | exact CtxOk.noSave rfl | split | dsimp only); done)
    | intro _ _ _ | intro _ _ | intro _ | dsimp only | (rw [id_eq]) | with_reducible refine Keeps.put ?_ (fun x => x) (fun x => x)

theorem State.drainHeld.go_keeps {s0 : State} {i : Nat} {s : State} {x2 : List Delivery} (kp : Keeps s0 s) :
    Keeps s0 (State.drainHeld.go i s x2) := by
  revert kp
  fun_induction State.drainHeld.go i s x2 <;> intro kp
  all_goals
    repeat' first
      | with_reducible assumption | with_reducible apply State.modReq_keeps | with_reducible apply State.writeDelivery_keeps
      | with_reducible apply_assumption -exfalso -symm | split
      | (intro _ hx; (first | show CtxOk _ | show TileOk _ | show Memory.wf _ = true); (repeat' first | exact hx | exact CtxOk.noSave rfl | split | dsimp only); done)
      | intro _ _ _ | intro _ _ | intro _ | dsimp only | (rw [id_eq]) | with_reducible refine Keeps.put ?_ (fun x => x) (fun x => x)

theorem State.drainHeld_keeps {s0 : State} {s : State} {i : Nat} (kp : Keeps s0 s) :
    Keeps s0 (State.drainHeld s i) := by
  unfold State.drainHeld
  try dsimp only
  repeat' first
    | with_reducible assumption | with_reducible apply State.drainHeld.go_keeps | split
    | (intro _ hx; (first | show CtxOk _ | show TileOk _ | show Memory.wf _ = true); (repeat' first | exact hx | exact CtxOk.noSave rfl | split | dsimp only); done)
    | intro _ _ _ | intro _ _ | intro _ | dsimp only | (rw [id_eq]) | with_reducible refine Keeps.put ?_ (fun x => x) (fun x => x)

theorem State.idleReq_keeps {s0 : State} {s : State} {i : Nat} {reason : Nat} (kp : Keeps s0 s) :
    Keeps s0 (State.idleReq s i reason) := by
  unfold State.idleReq
  try dsimp only
  repeat' first
    | with_reducible assumption | with_reducible apply State.modReq_keeps | split
    | (intro _ hx; (first | show CtxOk _ | show TileOk _ | show Memory.wf _ = true); (repeat' first | exact hx | exact CtxOk.noSave rfl | split | dsimp only); done)
    | intro _ _ _ | intro _ _ | intro _ | dsimp only | (rw [id_eq]) | with_reducible refine Keeps.put ?_ (fun x => x) (fun x => x)

theorem State.formDelivery_keeps {s0 : State} {s : State} {i : Nat} {tokidx : Nat} {tokens : List Nat} {reason : Nat} {afterEnd : Bool} {miss : Bool} {step : Nat} (kp : Keeps s0 s) :
    Keeps s0 (State.formDelivery s i tokidx tokens reason afterEnd miss step) := by
  unfold State.formDelivery
  try dsimp only
  repeat' first
    | with_reducible assumption | with_reducible apply State.deliver_keeps | with_reducible apply State.modReq_keeps | split
    | (intro _ hx; (first | show CtxOk _ | show TileOk _ | show Memory.wf _ = true); (repeat' first | exact hx | exact CtxOk.noSave rfl | split | dsimp only); done)
    | intro _ _ _ | intro _ _ | intro _ | dsimp only | (rw [id_eq]) | with_reducible refine Keeps.put ?_ (fun x => x) (fun x => x)

theorem State.endTurn_keeps {s0 : State} {s : State} {i : Nat} {reason : Nat} {step : Nat} (kp : Keeps s0 s) :
    Keeps s0 (State.endTurn s i reason step) := by
  unfold State.endTurn
  try dsimp only
  repeat' first
    | with_reducible assumption | with_reducible apply State.formDelivery_keeps | with_reducible apply State.idleReq_keeps
    | with_reducible apply State.modReq_keeps | split
    | (intro _ hx; (first | show CtxOk _ | show TileOk _ | show Memory.wf _ = true); (repeat' first | exact hx | exact CtxOk.noSave rfl | split | dsimp only); done)
    | intro _ _ _ | intro _ _ | intro _ | dsimp only | (rw [id_eq]) | with_reducible refine Keeps.put ?_ (fun x => x) (fun x => x)

theorem State.stopTurns_keeps {s0 : State} {s : State} {k : Nat} (kp : Keeps s0 s) :
    Keeps s0 (State.stopTurns s k) := by
  unfold State.stopTurns
  try dsimp only
  repeat' first
    | with_reducible assumption | with_reducible apply State.each_keeps | with_reducible apply State.endTurn_keeps
    | with_reducible apply State.modReq_keeps | split
    | (intro _ hx; (first | show CtxOk _ | show TileOk _ | show Memory.wf _ = true); (repeat' first | exact hx | exact CtxOk.noSave rfl | split | dsimp only); done)
    | intro _ _ _ | intro _ _ | intro _ | dsimp only | (rw [id_eq]) | with_reducible refine Keeps.put ?_ (fun x => x) (fun x => x)

end Sys2Proof.Machine
end

