-- ==== Sys2Proof/Laws/KeepsPlan.lean ====
section
/-! SUPPORT. What each operation of Machine/Plan.lean keeps. -/

namespace Sys2Proof.Machine

open Sys2Proof.Safety

set_option linter.all false
set_option Elab.async false

theorem openFrost_keeps {s0 : State} {s : State} {k : Nat} {cause : Nat} {detail : Nat} (kp : Keeps s0 s) :
    Keeps s0 (openFrost s k cause detail) := by
  unfold openFrost
  try dsimp only
  repeat' first
    | with_reducible assumption | with_reducible apply State.addFld_keeps | with_reducible apply State.modPlan_keeps
    | with_reducible apply State.setFld_keeps | with_reducible apply State.setRg_keeps | split
    | (intro _ hx; (first | show CtxOk _ | show TileOk _ | show Memory.wf _ = true); (repeat' first | exact hx | exact CtxOk.noSave rfl | split | dsimp only); done)
    | intro _ _ _ | intro _ _ | intro _ | dsimp only | (rw [id_eq]) | with_reducible refine Keeps.put ?_ (fun x => x) (fun x => x)

theorem closeFrost_keeps {s0 : State} {s : State} {k : Nat} {ended : Bool} (kp : Keeps s0 s) :
    Keeps s0 (closeFrost s k ended) := by
  unfold closeFrost
  try dsimp only
  repeat' first
    | with_reducible assumption | with_reducible apply State.addFld_keeps | with_reducible apply State.modPlan_keeps
    | with_reducible apply State.setBit_keeps | with_reducible apply State.setFld_keeps | with_reducible apply State.setRg_keeps | split
    | (intro _ hx; (first | show CtxOk _ | show TileOk _ | show Memory.wf _ = true); (repeat' first | exact hx | exact CtxOk.noSave rfl | split | dsimp only); done)
    | intro _ _ _ | intro _ _ | intro _ | dsimp only | (rw [id_eq]) | with_reducible refine Keeps.put ?_ (fun x => x) (fun x => x)

theorem State.endSyncWatch_keeps {s0 : State} {s : State} {t : Nat} {w : Nat} {st : Status} {suspended : Bool} (kp : Keeps s0 s) :
    Keeps s0 (State.endSyncWatch s t w st suspended) := by
  unfold State.endSyncWatch
  try dsimp only
  repeat' first
    | with_reducible assumption | with_reducible apply State.setBit_keeps | with_reducible apply State.setFld_keeps | split
    | (intro _ hx; (first | show CtxOk _ | show TileOk _ | show Memory.wf _ = true); (repeat' first | exact hx | exact CtxOk.noSave rfl | split | dsimp only); done)
    | intro _ _ _ | intro _ _ | intro _ | dsimp only | (rw [id_eq]) | with_reducible refine Keeps.put ?_ (fun x => x) (fun x => x)

theorem State.endWatches_keeps {s0 : State} {s : State} {k : Nat} {st : Status} {suspended : Bool} (kp : Keeps s0 s) :
    Keeps s0 (State.endWatches s k st suspended) := by
  unfold State.endWatches
  try dsimp only
  repeat' first
    | with_reducible assumption | with_reducible apply State.each_keeps | with_reducible apply State.endFlagWatch_keeps
    | with_reducible apply State.endSyncWatch_keeps | split
    | (intro _ hx; (first | show CtxOk _ | show TileOk _ | show Memory.wf _ = true); (repeat' first | exact hx | exact CtxOk.noSave rfl | split | dsimp only); done)
    | intro _ _ _ | intro _ _ | intro _ | dsimp only | (rw [id_eq]) | with_reducible refine Keeps.put ?_ (fun x => x) (fun x => x)

theorem State.abandon_keeps {s0 : State} {s : State} {k : Nat} (kp : Keeps s0 s) :
    Keeps s0 (State.abandon s k) := by
  unfold State.abandon
  try dsimp only
  repeat' first
    | with_reducible assumption | with_reducible apply State.each_keeps | with_reducible apply State.endWatches_keeps
    | with_reducible apply State.modTile_keeps | split | exact fun _ (hx : TileOk _) => hx
    | exact fun _ (hx : TileOk _) => ⟨Memory.write_wf _ _ _ hx.1, hx.2⟩ | exact fun _ (hx : TileOk _) => ⟨writeRanges_wf _ _ _ hx.1, hx.2⟩
    | exact fun _ (hx : TileOk _) => ⟨writeTensor_wf _ _ _ _ hx.1, hx.2⟩
    | (intro _ hx; (first | show CtxOk _ | show TileOk _ | show Memory.wf _ = true); (repeat' first | exact hx | exact CtxOk.noSave rfl | split | dsimp only); done)
    | intro _ _ _ | intro _ _ | intro _ | dsimp only | (rw [id_eq]) | with_reducible refine Keeps.put ?_ (fun x => x) (fun x => x)

theorem State.dropClaims_keeps {s0 : State} {s : State} {k : Nat} (kp : Keeps s0 s) :
    Keeps s0 (State.dropClaims s k) := by
  unfold State.dropClaims
  try dsimp only
  repeat' first
    | with_reducible assumption | split
    | (intro _ hx; (first | show CtxOk _ | show TileOk _ | show Memory.wf _ = true); (repeat' first | exact hx | exact CtxOk.noSave rfl | split | dsimp only); done)
    | intro _ _ _ | intro _ _ | intro _ | dsimp only | (rw [id_eq]) | with_reducible refine Keeps.put ?_ (fun x => x) (fun x => x)

theorem State.dropRoutes_keeps {s0 : State} {s : State} {k : Nat} (kp : Keeps s0 s) :
    Keeps s0 (State.dropRoutes s k) := by
  unfold State.dropRoutes
  try dsimp only
  repeat' first
    | with_reducible assumption | split
    | (intro _ hx; (first | show CtxOk _ | show TileOk _ | show Memory.wf _ = true); (repeat' first | exact hx | exact CtxOk.noSave rfl | split | dsimp only); done)
    | intro _ _ _ | intro _ _ | intro _ | dsimp only | (rw [id_eq]) | with_reducible refine Keeps.put ?_ (fun x => x) (fun x => x)

theorem State.deepTiles_keeps {s0 : State} {s : State} {k : Nat} (kp : Keeps s0 s) :
    Keeps s0 (State.deepTiles s k) := by
  unfold State.deepTiles
  try dsimp only
  repeat' first
    | with_reducible assumption | with_reducible apply State.each_keeps | with_reducible apply State.modTile_keeps | split
    | exact fun _ (hx : TileOk _) => hx | exact fun _ (hx : TileOk _) => ⟨Memory.write_wf _ _ _ hx.1, hx.2⟩
    | exact fun _ (hx : TileOk _) => ⟨writeRanges_wf _ _ _ hx.1, hx.2⟩ | exact fun _ (hx : TileOk _) => ⟨writeTensor_wf _ _ _ _ hx.1, hx.2⟩
    | (intro _ hx; (first | show CtxOk _ | show TileOk _ | show Memory.wf _ = true); (repeat' first | exact hx | exact CtxOk.noSave rfl | split | dsimp only); done)
    | intro _ _ _ | intro _ _ | intro _ | dsimp only | (rw [id_eq]) | with_reducible refine Keeps.put ?_ (fun x => x) (fun x => x)

theorem sendLost_keeps {s0 : State} {s : State} {k : Nat} (kp : Keeps s0 s) :
    Keeps s0 (sendLost s k) := by
  unfold sendLost
  try dsimp only
  repeat' first
    | with_reducible assumption | with_reducible apply sendFlood_keeps | split
    | (intro _ hx; (first | show CtxOk _ | show TileOk _ | show Memory.wf _ = true); (repeat' first | exact hx | exact CtxOk.noSave rfl | split | dsimp only); done)
    | intro _ _ _ | intro _ _ | intro _ | dsimp only | (rw [id_eq]) | with_reducible refine Keeps.put ?_ (fun x => x) (fun x => x)

theorem State.dropCloOp_keeps {s0 : State} {s : State} {k : Nat} {st : Status} (kp : Keeps s0 s) :
    Keeps s0 (State.dropCloOp s k st) := by
  unfold State.dropCloOp
  try dsimp only
  repeat' first
    | with_reducible assumption | with_reducible apply State.finish_keeps | split
    | (intro _ hx; (first | show CtxOk _ | show TileOk _ | show Memory.wf _ = true); (repeat' first | exact hx | exact CtxOk.noSave rfl | split | dsimp only); done)
    | intro _ _ _ | intro _ _ | intro _ | dsimp only | (rw [id_eq]) | with_reducible refine Keeps.put ?_ (fun x => x) (fun x => x)

theorem State.dropSnap_keeps {s0 : State} {s : State} {k : Nat} (kp : Keeps s0 s) :
    Keeps s0 (State.dropSnap s k) := by
  unfold State.dropSnap
  try dsimp only
  repeat' first
    | with_reducible assumption | with_reducible apply State.finish_keeps | split
    | (intro _ hx; (first | show CtxOk _ | show TileOk _ | show Memory.wf _ = true); (repeat' first | exact hx | exact CtxOk.noSave rfl | split | dsimp only); done)
    | intro _ _ _ | intro _ _ | intro _ | dsimp only | (rw [id_eq]) | with_reducible refine Keeps.put ?_ (fun x => x) (fun x => x)

theorem quarPart_keeps {s0 : State} {s : State} {part : Nat} (kp : Keeps s0 s) :
    Keeps s0 (quarPart s part) := by
  unfold quarPart
  try dsimp only
  repeat' first
    | with_reducible assumption | with_reducible apply State.setPartQuar_keeps | with_reducible apply State.setRg_keeps | split
    | (intro _ hx; (first | show CtxOk _ | show TileOk _ | show Memory.wf _ = true); (repeat' first | exact hx | exact CtxOk.noSave rfl | split | dsimp only); done)
    | intro _ _ _ | intro _ _ | intro _ | dsimp only | (rw [id_eq]) | with_reducible refine Keeps.put ?_ (fun x => x) (fun x => x)

theorem State.endRequests_keeps {s0 : State} {s : State} {k : Nat} (kp : Keeps s0 s) :
    Keeps s0 (State.endRequests s k) := by
  unfold State.endRequests
  try dsimp only
  repeat' first
    | with_reducible assumption | with_reducible apply State.each_keeps | with_reducible apply State.modVault_keeps | split
    | exact fun _ hx => (show Memory.wf _ = true from hx) | exact fun _ hx => Memory.write_wf _ _ _ hx | exact fun _ hx => Memory.clear_wf _ _ _ hx
    | exact fun _ hx => Memory.copy_wf _ _ _ _ _ hx
    | (intro _ hx; (first | show CtxOk _ | show TileOk _ | show Memory.wf _ = true); (repeat' first | exact hx | exact CtxOk.noSave rfl | split | dsimp only); done)
    | intro _ _ _ | intro _ _ | intro _ | dsimp only | (rw [id_eq]) | with_reducible refine Keeps.put ?_ (fun x => x) (fun x => x)

theorem endPlan_keeps {s0 : State} {s : State} {k : Nat} {why : EndReason} (kp : Keeps s0 s) :
    Keeps s0 (endPlan s k why) := by
  unfold endPlan
  try dsimp only
  repeat' first
    | with_reducible assumption | with_reducible apply State.deepTiles_keeps | with_reducible apply State.dropClaims_keeps
    | with_reducible apply State.dropCloOp_keeps | with_reducible apply State.dropRoutes_keeps | with_reducible apply State.dropSnap_keeps
    | with_reducible apply State.endRequests_keeps | with_reducible apply State.jrnSay_keeps | with_reducible apply State.modCtx_keeps
    | with_reducible apply State.modPart_keeps | with_reducible apply State.modPlan_keeps | with_reducible apply State.stopTurns_keeps
    | with_reducible apply closeFrost_keeps | with_reducible apply sendLost_keeps | split | exact fun _ (hx : CtxOk _) => hx
    | (intro _ hx; (first | show CtxOk _ | show TileOk _ | show Memory.wf _ = true); (repeat' first | exact hx | exact CtxOk.noSave rfl | split | dsimp only); done)
    | intro _ _ _ | intro _ _ | intro _ | dsimp only | (rw [id_eq]) | with_reducible refine Keeps.put ?_ (fun x => x) (fun x => x)

end Sys2Proof.Machine
end

