-- ==== Sys2Proof/Laws/KeepsFaults.lean ====
section
/-! SUPPORT. What each operation of Machine/Faults.lean keeps. -/

namespace Sys2Proof.Machine

open Sys2Proof.Safety

set_option linter.all false
set_option Elab.async false

theorem State.modFlt_keeps {s0 : State} {s : State} {f : Faults → Faults} (kp : Keeps s0 s) :
    Keeps s0 (State.modFlt s f) := by
  unfold State.modFlt
  try dsimp only
  repeat' first
    | with_reducible assumption | with_reducible apply hf | split
    | (intro _ hx; (first | show CtxOk _ | show TileOk _ | show Memory.wf _ = true); (repeat' first | exact hx | exact CtxOk.noSave rfl | split | dsimp only); done)
    | intro _ _ _ | intro _ _ | intro _ | dsimp only | (rw [id_eq]) | with_reducible refine Keeps.put ?_ (fun x => x) (fun x => x)

theorem State.refreshHead_keeps {s0 : State} {s : State} (kp : Keeps s0 s) :
    Keeps s0 (State.refreshHead s) := by
  unfold State.refreshHead
  try dsimp only
  repeat' first
    | with_reducible assumption | with_reducible apply State.modFlt_keeps | split
    | (intro _ hx; (first | show CtxOk _ | show TileOk _ | show Memory.wf _ = true); (repeat' first | exact hx | exact CtxOk.noSave rfl | split | dsimp only); done)
    | intro _ _ _ | intro _ _ | intro _ | dsimp only | (rw [id_eq]) | with_reducible refine Keeps.put ?_ (fun x => x) (fun x => x)

theorem State.putRecord_keeps {s0 : State} {s : State} {i : Nat} {r : FltRecord} (kp : Keeps s0 s) :
    Keeps s0 (State.putRecord s i r) := by
  unfold State.putRecord
  try dsimp only
  repeat' first
    | with_reducible assumption | with_reducible apply State.modFlt_keeps | with_reducible apply State.refreshHead_keeps | split
    | (intro _ hx; (first | show CtxOk _ | show TileOk _ | show Memory.wf _ = true); (repeat' first | exact hx | exact CtxOk.noSave rfl | split | dsimp only); done)
    | intro _ _ _ | intro _ _ | intro _ | dsimp only | (rw [id_eq]) | with_reducible refine Keeps.put ?_ (fun x => x) (fun x => x)

theorem State.mergeRecord_keeps {s0 s : State} {r : FltRecord} (h : Keeps s0 s) : KeepsO s0 (s.mergeRecord r) := by
  unfold State.mergeRecord
  exact KeepsO.map fun _ _ => State.modFlt_keeps h

theorem State.place_keeps {s0 : State} {s : State} {r : FltRecord} (kp : Keeps s0 s) :
    Keeps s0 (State.place s r) := by
  unfold State.place
  try dsimp only
  repeat' first
    | with_reducible assumption | with_reducible apply State.addFld_keeps | with_reducible apply State.putRecord_keeps | split
    | (intro _ hx; (first | show CtxOk _ | show TileOk _ | show Memory.wf _ = true); (repeat' first | exact hx | exact CtxOk.noSave rfl | split | dsimp only); done)
    | intro _ _ _ | intro _ _ | intro _ | dsimp only | (rw [id_eq]) | with_reducible refine Keeps.put ?_ (fun x => x) (fun x => x)

theorem levelOne_keeps {s0 : State} {s : State} {k : Nat} {why : EndReason} (kp : Keeps s0 s) :
    Keeps s0 (levelOne s k why) := by
  unfold levelOne
  try dsimp only
  repeat' first
    | with_reducible assumption | with_reducible apply State.modCtx_keeps | with_reducible apply State.modPart_keeps
    | with_reducible apply endPlan_keeps | with_reducible apply quarPart_keeps | split | exact fun _ (hx : CtxOk _) => hx
    | (intro _ hx; (first | show CtxOk _ | show TileOk _ | show Memory.wf _ = true); (repeat' first | exact hx | exact CtxOk.noSave rfl | split | dsimp only); done)
    | intro _ _ _ | intro _ _ | intro _ | dsimp only | (rw [id_eq]) | with_reducible refine Keeps.put ?_ (fun x => x) (fun x => x)

theorem levelTwo_keeps {s0 : State} {s : State} {r : FltRecord} (kp : Keeps s0 s) :
    Keeps s0 (levelTwo s r) := by
  unfold levelTwo
  try dsimp only
  repeat' first
    | with_reducible assumption | with_reducible apply State.each_keeps | with_reducible apply State.modFlt_keeps
    | with_reducible apply endPlan_keeps | split
    | (intro _ hx; (first | show CtxOk _ | show TileOk _ | show Memory.wf _ = true); (repeat' first | exact hx | exact CtxOk.noSave rfl | split | dsimp only); done)
    | intro _ _ _ | intro _ _ | intro _ | dsimp only | (rw [id_eq]) | with_reducible refine Keeps.put ?_ (fun x => x) (fun x => x)

theorem State.countL0_keeps {s0 : State} {s : State} {code : Nat} {ctx : Option CtxId} (kp : Keeps s0 s) :
    Keeps s0 (State.countL0 s code ctx).2 := by
  unfold State.countL0
  try dsimp only
  repeat' first
    | with_reducible assumption | with_reducible apply State.modFlt_keeps | split
    | (intro _ hx; (first | show CtxOk _ | show TileOk _ | show Memory.wf _ = true); (repeat' first | exact hx | exact CtxOk.noSave rfl | split | dsimp only); done)
    | intro _ _ _ | intro _ _ | intro _ | dsimp only | (rw [id_eq]) | with_reducible refine Keeps.put ?_ (fun x => x) (fun x => x)

theorem State.countL0_keeps' {s0 : State} {s : State} {code : Nat} {ctx : Option CtxId} {out : _} (eq : State.countL0 s code ctx = out) (kp : Keeps s0 s) :
    Keeps s0 out.2 := eq ▸ State.countL0_keeps kp

theorem State.eventLevel_keeps {s0 : State} {s : State} {e : Event} (kp : Keeps s0 s) :
    Keeps s0 (State.eventLevel s e).2.2 := by
  unfold State.eventLevel
  try dsimp only
  repeat' first
    | with_reducible assumption | with_reducible apply State.countL0_keeps
    | refine State.countL0_keeps' (out := (_, _)) (by with_reducible assumption) ?_ | split
    | (intro _ hx; (first | show CtxOk _ | show TileOk _ | show Memory.wf _ = true); (repeat' first | exact hx | exact CtxOk.noSave rfl | split | dsimp only); done)
    | intro _ _ _ | intro _ _ | intro _ | dsimp only | (rw [id_eq]) | with_reducible refine Keeps.put ?_ (fun x => x) (fun x => x)

theorem State.eventLevel_keeps' {s0 : State} {s : State} {e : Event} {out : _} (eq : State.eventLevel s e = out) (kp : Keeps s0 s) :
    Keeps s0 out.2.2 := eq ▸ State.eventLevel_keeps kp

theorem raiseWith_keeps {s0 s : State} {e : Event} {esc group : Bool} {why : EndReason} (h : Keeps s0 s) :
    Keeps s0 (raiseWith s e esc group why) := by
  unfold raiseWith
  rcases he : s.eventLevel e with ⟨l, c, s1⟩
  have h1 : Keeps s0 s1 := State.eventLevel_keeps' (out := (_, _, _)) he h
  have key : ∀ r : FltRecord, Keeps s0 (if r.level = 0 then
      (match s1.mergeRecord r with
        | some s => s
        | none => s1.place r)
      else
        if (s1.placedLevel r).level = 2 then levelTwo (s1.place (s1.placedLevel r)) (s1.placedLevel r)
        else match (s1.placedLevel r).ctx with
          | some i => levelOne (s1.place (s1.placedLevel r)) i.slot why
          | none => s1.place (s1.placedLevel r)) := by
    intro r
    split
    · split
      · exact State.mergeRecord_keeps h1 _ ‹_›
      · exact State.place_keeps h1
    · split
      · exact levelTwo_keeps (State.place_keeps h1)
      · split
        · exact levelOne_keeps (State.place_keeps h1)
        · exact State.place_keeps h1
  exact key _

theorem raise_keeps {s0 : State} {s : State} {e : Event} {why : optParam EndReason EndReason.level1} (kp : Keeps s0 s) :
    Keeps s0 (raise s e why) := by
  unfold raise
  try dsimp only
  repeat' first
    | with_reducible assumption | with_reducible apply raiseWith_keeps | split
    | (intro _ hx; (first | show CtxOk _ | show TileOk _ | show Memory.wf _ = true); (repeat' first | exact hx | exact CtxOk.noSave rfl | split | dsimp only); done)
    | intro _ _ _ | intro _ _ | intro _ | dsimp only | (rw [id_eq]) | with_reducible refine Keeps.put ?_ (fun x => x) (fun x => x)

theorem raiseGroup_keeps {s0 : State} {s : State} {cause : Cause} {source : Nat} {detail : Nat} {ks : List Nat} (kp : Keeps s0 s) :
    Keeps s0 (raiseGroup s cause source detail ks) := by
  unfold raiseGroup
  try dsimp only
  repeat' first
    | with_reducible assumption | with_reducible apply State.each_keeps | with_reducible apply raiseWith_keeps | split
    | (intro _ hx; (first | show CtxOk _ | show TileOk _ | show Memory.wf _ = true); (repeat' first | exact hx | exact CtxOk.noSave rfl | split | dsimp only); done)
    | intro _ _ _ | intro _ _ | intro _ | dsimp only | (rw [id_eq]) | with_reducible refine Keeps.put ?_ (fun x => x) (fun x => x)

theorem notice_keeps {s0 : State} {s : State} {c : Cause} {src : Nat} {detail : optParam Nat 0} (kp : Keeps s0 s) :
    Keeps s0 (notice s c src detail) := by
  unfold notice
  try dsimp only
  repeat' first
    | with_reducible assumption | with_reducible apply raise_keeps | split
    | (intro _ hx; (first | show CtxOk _ | show TileOk _ | show Memory.wf _ = true); (repeat' first | exact hx | exact CtxOk.noSave rfl | split | dsimp only); done)
    | intro _ _ _ | intro _ _ | intro _ | dsimp only | (rw [id_eq]) | with_reducible refine Keeps.put ?_ (fun x => x) (fun x => x)

theorem against_keeps {s0 : State} {s : State} {c : Cause} {src : Nat} {k : Nat} {detail : optParam Nat 0} (kp : Keeps s0 s) :
    Keeps s0 (against s c src k detail) := by
  unfold against
  try dsimp only
  repeat' first
    | with_reducible assumption | with_reducible apply raise_keeps | split
    | (intro _ hx; (first | show CtxOk _ | show TileOk _ | show Memory.wf _ = true); (repeat' first | exact hx | exact CtxOk.noSave rfl | split | dsimp only); done)
    | intro _ _ _ | intro _ _ | intro _ | dsimp only | (rw [id_eq]) | with_reducible refine Keeps.put ?_ (fun x => x) (fun x => x)

theorem onBlock_keeps {s0 : State} {s : State} {src : Nat} {act : State → State} (kp : Keeps s0 s) (hact : ∀ s1, Keeps s0 s1 → Keeps s0 (act s1)) :
    Keeps s0 (onBlock s src act) := by
  unfold onBlock
  try dsimp only
  repeat' first
    | with_reducible assumption | with_reducible apply notice_keeps | with_reducible apply hact | split
    | (intro _ hx; (first | show CtxOk _ | show TileOk _ | show Memory.wf _ = true); (repeat' first | exact hx | exact CtxOk.noSave rfl | split | dsimp only); done)
    | intro _ _ _ | intro _ _ | intro _ | dsimp only | (rw [id_eq]) | with_reducible refine Keeps.put ?_ (fun x => x) (fun x => x)

end Sys2Proof.Machine
end

