-- ==== Sys2Proof/Laws/KeepsRegions.lean ====
section
/-! SUPPORT. What each operation of Machine/Regions.lean keeps. -/

namespace Sys2Proof.Machine

open Sys2Proof.Safety

set_option linter.all false
set_option Elab.async false

theorem State.modClk_keeps {s0 : State} {s : State} {f : Clocks → Clocks} (kp : Keeps s0 s) :
    Keeps s0 (State.modClk s f) := by
  unfold State.modClk
  try dsimp only
  repeat' first
    | with_reducible assumption | with_reducible apply hf | split
    | (intro _ hx; (first | show CtxOk _ | show TileOk _ | show Memory.wf _ = true); (repeat' first | exact hx | exact CtxOk.noSave rfl | split | dsimp only); done)
    | intro _ _ _ | intro _ _ | intro _ | dsimp only | (rw [id_eq]) | with_reducible refine Keeps.put ?_ (fun x => x) (fun x => x)

theorem State.modRegionClk_keeps {s0 : State} {s : State} {r : Nat} {f : Region → Region} (kp : Keeps s0 s) :
    Keeps s0 (State.modRegionClk s r f) := by
  unfold State.modRegionClk
  try dsimp only
  repeat' first
    | with_reducible assumption | with_reducible apply State.modClk_keeps | with_reducible apply hf | split
    | (intro _ hx; (first | show CtxOk _ | show TileOk _ | show Memory.wf _ = true); (repeat' first | exact hx | exact CtxOk.noSave rfl | split | dsimp only); done)
    | intro _ _ _ | intro _ _ | intro _ | dsimp only | (rw [id_eq]) | with_reducible refine Keeps.put ?_ (fun x => x) (fun x => x)

theorem State.pllStart_keeps {s0 : State} {s : State} {r : Nat} (kp : Keeps s0 s) :
    Keeps s0 (State.pllStart s r) := by
  unfold State.pllStart
  try dsimp only
  repeat' first
    | with_reducible assumption | with_reducible apply State.modRegionClk_keeps | split
    | (intro _ hx; (first | show CtxOk _ | show TileOk _ | show Memory.wf _ = true); (repeat' first | exact hx | exact CtxOk.noSave rfl | split | dsimp only); done)
    | intro _ _ _ | intro _ _ | intro _ | dsimp only | (rw [id_eq]) | with_reducible refine Keeps.put ?_ (fun x => x) (fun x => x)

theorem State.operational_keeps {s0 : State} {s : State} (kp : Keeps s0 s) :
    Keeps s0 (State.operational s) := by
  unfold State.operational
  try dsimp only
  repeat' first
    | with_reducible assumption | with_reducible apply State.modClk_keeps | split
    | (intro _ hx; (first | show CtxOk _ | show TileOk _ | show Memory.wf _ = true); (repeat' first | exact hx | exact CtxOk.noSave rfl | split | dsimp only); done)
    | intro _ _ _ | intro _ _ | intro _ | dsimp only | (rw [id_eq]) | with_reducible refine Keeps.put ?_ (fun x => x) (fun x => x)

end Sys2Proof.Machine
end

