-- ==== Sys2Proof/Laws/KeepsTickets.lean ====
section
/-! SUPPORT. What each operation of Machine/Tickets.lean keeps. -/

namespace Sys2Proof.Machine

open Sys2Proof.Safety

set_option linter.all false
set_option Elab.async false

theorem State.reclaimVault_keeps {s0 : State} {s : State} {v : Nat} {i : CtxId} (kp : Keeps s0 s) :
    Keeps s0 (State.reclaimVault s v i) := by
  unfold State.reclaimVault
  try dsimp only
  repeat' first
    | with_reducible assumption | with_reducible apply State.modVault_keeps | split | exact fun _ hx => (show Memory.wf _ = true from hx)
    | exact fun _ hx => Memory.write_wf _ _ _ hx | exact fun _ hx => Memory.clear_wf _ _ _ hx | exact fun _ hx => Memory.copy_wf _ _ _ _ _ hx
    | (intro _ hx; (first | show CtxOk _ | show TileOk _ | show Memory.wf _ = true); (repeat' first | exact hx | exact CtxOk.noSave rfl | split | dsimp only); done)
    | intro _ _ _ | intro _ _ | intro _ | dsimp only | (rw [id_eq]) | with_reducible refine Keeps.put ?_ (fun x => x) (fun x => x)

theorem State.endRunning_keeps {s0 : State} {s : State} {p : EndReq → Bool} (kp : Keeps s0 s) :
    Keeps s0 (State.endRunning s p) := by
  unfold State.endRunning
  try dsimp only
  repeat' first
    | with_reducible assumption | with_reducible apply State.each_keeps | with_reducible apply State.modVault_keeps
    | with_reducible apply State.reclaimVault_keeps | with_reducible apply hp | split | exact fun _ hx => (show Memory.wf _ = true from hx)
    | exact fun _ hx => Memory.write_wf _ _ _ hx | exact fun _ hx => Memory.clear_wf _ _ _ hx | exact fun _ hx => Memory.copy_wf _ _ _ _ _ hx
    | (intro _ hx; (first | show CtxOk _ | show TileOk _ | show Memory.wf _ = true); (repeat' first | exact hx | exact CtxOk.noSave rfl | split | dsimp only); done)
    | intro _ _ _ | intro _ _ | intro _ | dsimp only | (rw [id_eq]) | with_reducible refine Keeps.put ?_ (fun x => x) (fun x => x)

theorem State.takeTile_keeps {s0 : State} {s : State} {t : Nat} (kp : Keeps s0 s) :
    Keeps s0 (State.takeTile s t) := by
  unfold State.takeTile
  try dsimp only
  repeat' first
    | with_reducible assumption | with_reducible apply State.modTile_keeps | split | exact fun _ (hx : TileOk _) => hx
    | exact fun _ (hx : TileOk _) => ⟨Memory.write_wf _ _ _ hx.1, hx.2⟩ | exact fun _ (hx : TileOk _) => ⟨writeRanges_wf _ _ _ hx.1, hx.2⟩
    | exact fun _ (hx : TileOk _) => ⟨writeTensor_wf _ _ _ _ hx.1, hx.2⟩
    | (intro _ hx; (first | show CtxOk _ | show TileOk _ | show Memory.wf _ = true); (repeat' first | exact hx | exact CtxOk.noSave rfl | split | dsimp only); done)
    | intro _ _ _ | intro _ _ | intro _ | dsimp only | (rw [id_eq]) | with_reducible refine Keeps.put ?_ (fun x => x) (fun x => x)

theorem State.dropTile_keeps {s0 : State} {s : State} {t : Nat} (kp : Keeps s0 s) :
    Keeps s0 (State.dropTile s t) := by
  unfold State.dropTile
  try dsimp only
  repeat' first
    | with_reducible assumption | with_reducible apply State.each_keeps | with_reducible apply State.endSyncWatch_keeps
    | with_reducible apply State.takeTile_keeps | split
    | (intro _ hx; (first | show CtxOk _ | show TileOk _ | show Memory.wf _ = true); (repeat' first | exact hx | exact CtxOk.noSave rfl | split | dsimp only); done)
    | intro _ _ _ | intro _ _ | intro _ | dsimp only | (rw [id_eq]) | with_reducible refine Keeps.put ?_ (fun x => x) (fun x => x)

theorem State.clearTile_keeps {s0 s : State} {t : Nat} (h : Keeps s0 s) : Keeps s0 (s.clearTile t) := by
  unfold State.clearTile
  refine State.each_keeps (State.each_keeps ?_ fun _ _ h => State.clrRg_keeps h) fun _ _ h => State.clrRg_keeps (State.clrRg_keeps h)
  refine State.each_keeps (State.setTile_keeps (State.endRunning_keeps h) fun _ _ => ⟨rfl, rfl⟩) fun _ _ h => State.clrRg_keeps h

theorem State.dropFlits_keeps {s0 : State} {s : State} {t : Nat} (kp : Keeps s0 s) :
    Keeps s0 (State.dropFlits s t) := by
  unfold State.dropFlits
  try dsimp only
  repeat' first
    | with_reducible assumption | with_reducible apply State.each_keeps | with_reducible apply State.modLink_keeps | split
    | (intro _ hx; (first | show CtxOk _ | show TileOk _ | show Memory.wf _ = true); (repeat' first | exact hx | exact CtxOk.noSave rfl | split | dsimp only); done)
    | intro _ _ _ | intro _ _ | intro _ | dsimp only | (rw [id_eq]) | with_reducible refine Keeps.put ?_ (fun x => x) (fun x => x)

theorem State.giveTile_keeps {s0 : State} {s : State} {k : Nat} {t : Nat} (kp : Keeps s0 s) :
    Keeps s0 (State.giveTile s k t) := by
  unfold State.giveTile
  try dsimp only
  repeat' first
    | with_reducible assumption | with_reducible apply State.clearTile_keeps | with_reducible apply State.dropFlits_keeps
    | with_reducible apply State.modTile_keeps | with_reducible apply State.operational_keeps | with_reducible apply State.pllStart_keeps | split
    | exact fun _ (hx : TileOk _) => hx | exact fun _ (hx : TileOk _) => ⟨Memory.write_wf _ _ _ hx.1, hx.2⟩
    | exact fun _ (hx : TileOk _) => ⟨writeRanges_wf _ _ _ hx.1, hx.2⟩ | exact fun _ (hx : TileOk _) => ⟨writeTensor_wf _ _ _ _ hx.1, hx.2⟩
    | (intro _ hx; (first | show CtxOk _ | show TileOk _ | show Memory.wf _ = true); (repeat' first | exact hx | exact CtxOk.noSave rfl | split | dsimp only); done)
    | intro _ _ _ | intro _ _ | intro _ | dsimp only | (rw [id_eq]) | with_reducible refine Keeps.put ?_ (fun x => x) (fun x => x)

theorem State.holdFrame_keeps {s0 : State} {s : State} {m : Nat} {f : Nat} (kp : Keeps s0 s) :
    Keeps s0 (State.holdFrame s m f) := by
  unfold State.holdFrame
  try dsimp only
  repeat' first
    | with_reducible assumption | with_reducible apply State.modHbm_keeps | split | exact fun _ hx => (show Memory.wf _ = true from hx)
    | exact fun _ hx => Memory.write_wf _ _ _ hx | exact fun _ hx => Memory.clear_wf _ _ _ hx | exact fun _ hx => Memory.copy_wf _ _ _ _ _ hx
    | (intro _ hx; (first | show CtxOk _ | show TileOk _ | show Memory.wf _ = true); (repeat' first | exact hx | exact CtxOk.noSave rfl | split | dsimp only); done)
    | intro _ _ _ | intro _ _ | intro _ | dsimp only | (rw [id_eq]) | with_reducible refine Keeps.put ?_ (fun x => x) (fun x => x)

theorem State.takeFrames_keeps {s0 s : State} {n : Nat} (h : Keeps s0 s) : ∀ p, s.takeFrames n = some p → Keeps s0 p.2 := by
  induction n generalizing s with
  | zero => intro p hp; cases hp; exact h
  | succ n ih =>
    intro p hp
    unfold State.takeFrames at hp
    split at hp
    · cases hp
    · rename_i m f clean _
      generalize hq : State.takeFrames (s.holdFrame m f) n = q at hp
      cases q with
      | none => cases hp
      | some q =>
        have h1 := ih (State.holdFrame_keeps (m := m) (f := f) h) _ hq
        cases hp
        exact h1

theorem State.retireFrame_keeps {s0 : State} {s : State} {m : Nat} {f : Nat} (kp : Keeps s0 s) :
    Keeps s0 (State.retireFrame s m f) := by
  unfold State.retireFrame
  try dsimp only
  repeat' first
    | with_reducible assumption | with_reducible apply State.addFld_keeps | with_reducible apply State.modHbm_keeps
    | with_reducible apply notice_keeps | split | exact fun _ hx => (show Memory.wf _ = true from hx) | exact fun _ hx => Memory.write_wf _ _ _ hx
    | exact fun _ hx => Memory.clear_wf _ _ _ hx | exact fun _ hx => Memory.copy_wf _ _ _ _ _ hx
    | (intro _ hx; (first | show CtxOk _ | show TileOk _ | show Memory.wf _ = true); (repeat' first | exact hx | exact CtxOk.noSave rfl | split | dsimp only); done)
    | intro _ _ _ | intro _ _ | intro _ | dsimp only | (rw [id_eq]) | with_reducible refine Keeps.put ?_ (fun x => x) (fun x => x)

theorem State.freeFrame_keeps {s0 : State} {s : State} {f : FrameId} (kp : Keeps s0 s) :
    Keeps s0 (State.freeFrame s f) := by
  unfold State.freeFrame
  try dsimp only
  repeat' first
    | with_reducible assumption | with_reducible apply State.modCxl_keeps | with_reducible apply State.modHbm_keeps
    | with_reducible apply State.retireFrame_keeps | split | exact fun _ hx => (show Memory.wf _ = true from hx)
    | exact fun _ hx => Memory.write_wf _ _ _ hx | exact fun _ hx => Memory.clear_wf _ _ _ hx | exact fun _ hx => Memory.copy_wf _ _ _ _ _ hx
    | (intro _ hx; (first | show CtxOk _ | show TileOk _ | show Memory.wf _ = true); (repeat' first | exact hx | exact CtxOk.noSave rfl | split | dsimp only); done)
    | intro _ _ _ | intro _ _ | intro _ | dsimp only | (rw [id_eq]) | with_reducible refine Keeps.put ?_ (fun x => x) (fun x => x)

theorem State.holdCxl_keeps {s0 : State} {s : State} {f : FrameId} (kp : Keeps s0 s) :
    Keeps s0 (State.holdCxl s f) := by
  unfold State.holdCxl
  try dsimp only
  repeat' first
    | with_reducible assumption | with_reducible apply State.modCxl_keeps | split | exact fun _ hx => (show Memory.wf _ = true from hx)
    | exact fun _ hx => Memory.write_wf _ _ _ hx | exact fun _ hx => Memory.clear_wf _ _ _ hx | exact fun _ hx => Memory.copy_wf _ _ _ _ _ hx
    | (intro _ hx; (first | show CtxOk _ | show TileOk _ | show Memory.wf _ = true); (repeat' first | exact hx | exact CtxOk.noSave rfl | split | dsimp only); done)
    | intro _ _ _ | intro _ _ | intro _ | dsimp only | (rw [id_eq]) | with_reducible refine Keeps.put ?_ (fun x => x) (fun x => x)

theorem State.giveGroups_keeps {s0 : State} {s : State} {k : Nat} {v : Nat} {gs : List Nat} (kp : Keeps s0 s) :
    Keeps s0 (State.giveGroups s k v gs) := by
  unfold State.giveGroups
  try dsimp only
  repeat' first
    | with_reducible assumption | with_reducible apply State.each_keeps | with_reducible apply State.modVault_keeps | split
    | exact fun _ hx => (show Memory.wf _ = true from hx) | exact fun _ hx => Memory.write_wf _ _ _ hx | exact fun _ hx => Memory.clear_wf _ _ _ hx
    | exact fun _ hx => Memory.copy_wf _ _ _ _ _ hx
    | (intro _ hx; (first | show CtxOk _ | show TileOk _ | show Memory.wf _ = true); (repeat' first | exact hx | exact CtxOk.noSave rfl | split | dsimp only); done)
    | intro _ _ _ | intro _ _ | intro _ | dsimp only | (rw [id_eq]) | with_reducible refine Keeps.put ?_ (fun x => x) (fun x => x)

theorem State.dropGroups_keeps {s0 : State} {s : State} {v : Nat} {gs : List Nat} (kp : Keeps s0 s) :
    Keeps s0 (State.dropGroups s v gs) := by
  unfold State.dropGroups
  try dsimp only
  repeat' first
    | with_reducible assumption | with_reducible apply State.each_keeps | with_reducible apply State.modVault_keeps | split
    | exact fun _ hx => (show Memory.wf _ = true from hx) | exact fun _ hx => Memory.write_wf _ _ _ hx | exact fun _ hx => Memory.clear_wf _ _ _ hx
    | exact fun _ hx => Memory.copy_wf _ _ _ _ _ hx
    | (intro _ hx; (first | show CtxOk _ | show TileOk _ | show Memory.wf _ = true); (repeat' first | exact hx | exact CtxOk.noSave rfl | split | dsimp only); done)
    | intro _ _ _ | intro _ _ | intro _ | dsimp only | (rw [id_eq]) | with_reducible refine Keeps.put ?_ (fun x => x) (fun x => x)

theorem State.bindRegion_keeps {s0 : State} {s : State} {k : Nat} {v : Nat} {r : Nat} (kp : Keeps s0 s) :
    Keeps s0 (State.bindRegion s k v r) := by
  unfold State.bindRegion
  try dsimp only
  repeat' first
    | with_reducible assumption | with_reducible apply State.modRegion_keeps | split
    | (intro _ hx; (first | show CtxOk _ | show TileOk _ | show Memory.wf _ = true); (repeat' first | exact hx | exact CtxOk.noSave rfl | split | dsimp only); done)
    | intro _ _ _ | intro _ _ | intro _ | dsimp only | (rw [id_eq]) | with_reducible refine Keeps.put ?_ (fun x => x) (fun x => x)

theorem State.unbindRegion_keeps {s0 : State} {s : State} {v : Nat} {r : Nat} (kp : Keeps s0 s) :
    Keeps s0 (State.unbindRegion s v r) := by
  unfold State.unbindRegion
  try dsimp only
  repeat' first
    | with_reducible assumption | with_reducible apply State.modRegion_keeps | split
    | (intro _ hx; (first | show CtxOk _ | show TileOk _ | show Memory.wf _ = true); (repeat' first | exact hx | exact CtxOk.noSave rfl | split | dsimp only); done)
    | intro _ _ _ | intro _ _ | intro _ | dsimp only | (rw [id_eq]) | with_reducible refine Keeps.put ?_ (fun x => x) (fun x => x)

theorem State.giveLink_keeps {s0 : State} {s : State} {k : Nat} {l : Nat} (kp : Keeps s0 s) :
    Keeps s0 (State.giveLink s k l) := by
  unfold State.giveLink
  try dsimp only
  repeat' first
    | with_reducible assumption | with_reducible apply State.modCtx_keeps | split | exact fun _ (hx : CtxOk _) => hx
    | (intro _ hx; (first | show CtxOk _ | show TileOk _ | show Memory.wf _ = true); (repeat' first | exact hx | exact CtxOk.noSave rfl | split | dsimp only); done)
    | intro _ _ _ | intro _ _ | intro _ | dsimp only | (rw [id_eq]) | with_reducible refine Keeps.put ?_ (fun x => x) (fun x => x)

theorem State.dropLinks_keeps {s0 : State} {s : State} {k : Nat} {ls : List Nat} (kp : Keeps s0 s) :
    Keeps s0 (State.dropLinks s k ls) := by
  unfold State.dropLinks
  try dsimp only
  repeat' first
    | with_reducible assumption | with_reducible apply State.modCtx_keeps | split | exact fun _ (hx : CtxOk _) => hx
    | (intro _ hx; (first | show CtxOk _ | show TileOk _ | show Memory.wf _ = true); (repeat' first | exact hx | exact CtxOk.noSave rfl | split | dsimp only); done)
    | intro _ _ _ | intro _ _ | intro _ | dsimp only | (rw [id_eq]) | with_reducible refine Keeps.put ?_ (fun x => x) (fun x => x)

end Sys2Proof.Machine
end

