-- ==== Sys2Proof/Laws/KeepsTrees.lean ====
section
/-! SUPPORT. What each operation of Machine/Trees.lean keeps. -/

namespace Sys2Proof.Machine

open Sys2Proof.Safety

set_option linter.all false
set_option Elab.async false

theorem State.launchStatus_keeps {s0 : State} {s : State} {phase : Nat} {cause : Nat} {reason : Nat} {fail : Option Nat} (kp : Keeps s0 s) :
    Keeps s0 (State.launchStatus s phase cause reason fail) := by
  unfold State.launchStatus
  try dsimp only
  repeat' first
    | with_reducible assumption | with_reducible apply State.setFld_keeps | split
    | (intro _ hx; (first | show CtxOk _ | show TileOk _ | show Memory.wf _ = true); (repeat' first | exact hx | exact CtxOk.noSave rfl | split | dsimp only); done)
    | intro _ _ _ | intro _ _ | intro _ | dsimp only | (rw [id_eq]) | with_reducible refine Keeps.put ?_ (fun x => x) (fun x => x)

theorem ownAnswer_keeps {s0 : State} {s : State} {k : Nat} {m : LaunchBody} (kp : Keeps s0 s) :
    Keeps s0 (ownAnswer s k m).2 := by
  unfold ownAnswer
  try dsimp only
  repeat' first
    | with_reducible assumption | with_reducible apply State.draw_keeps
    | refine State.draw_keeps' (out := (_, _)) (by with_reducible assumption) ?_ | split
    | (intro _ hx; (first | show CtxOk _ | show TileOk _ | show Memory.wf _ = true); (repeat' first | exact hx | exact CtxOk.noSave rfl | split | dsimp only); done)
    | intro _ _ _ | intro _ _ | intro _ | dsimp only | (rw [id_eq]) | with_reducible refine Keeps.put ?_ (fun x => x) (fun x => x)

theorem ownAnswer_keeps' {s0 : State} {s : State} {k : Nat} {m : LaunchBody} {out : _} (eq : ownAnswer s k m = out) (kp : Keeps s0 s) :
    Keeps s0 out.2 := eq ▸ ownAnswer_keeps kp

theorem sendDown_keeps {s0 : State} {s : State} {k : Nat} {a : Nat} {b : LaunchBody} (kp : Keeps s0 s) :
    Keeps s0 (sendDown s k a b) := by
  unfold sendDown
  try dsimp only
  repeat' first
    | with_reducible assumption | with_reducible apply State.each_keeps | with_reducible apply sendMachineOn_keeps | split
    | (intro _ hx; (first | show CtxOk _ | show TileOk _ | show Memory.wf _ = true); (repeat' first | exact hx | exact CtxOk.noSave rfl | split | dsimp only); done)
    | intro _ _ _ | intro _ _ | intro _ | dsimp only | (rw [id_eq]) | with_reducible refine Keeps.put ?_ (fun x => x) (fun x => x)

theorem sendUp_keeps {s0 : State} {s : State} {k : Nat} {a : Nat} {b : LaunchBody} (kp : Keeps s0 s) :
    Keeps s0 (sendUp s k a b) := by
  unfold sendUp
  try dsimp only
  repeat' first
    | with_reducible assumption | with_reducible apply sendMachineOn_keeps | split
    | (intro _ hx; (first | show CtxOk _ | show TileOk _ | show Memory.wf _ = true); (repeat' first | exact hx | exact CtxOk.noSave rfl | split | dsimp only); done)
    | intro _ _ _ | intro _ _ | intro _ | dsimp only | (rw [id_eq]) | with_reducible refine Keeps.put ?_ (fun x => x) (fun x => x)

theorem enterSaving_keeps {s0 : State} {s : State} {k : Nat} (kp : Keeps s0 s) :
    Keeps s0 (enterSaving s k) := by
  unfold enterSaving
  try dsimp only
  repeat' first
    | with_reducible assumption | with_reducible apply State.dropRoutes_keeps | with_reducible apply State.modCtx_keeps
    | with_reducible apply State.modPart_keeps | split | exact fun _ (hx : CtxOk _) => hx
    | (intro _ hx; (first | show CtxOk _ | show TileOk _ | show Memory.wf _ = true); (repeat' first | exact hx | exact CtxOk.noSave rfl | split | dsimp only); done)
    | intro _ _ _ | intro _ _ | intro _ | dsimp only | (rw [id_eq]) | with_reducible refine Keeps.put ?_ (fun x => x) (fun x => x)

theorem actGo_keeps {s0 : State} {s : State} {k : Nat} (kp : Keeps s0 s) :
    Keeps s0 (actGo s k) := by
  unfold actGo
  try dsimp only
  repeat' first
    | with_reducible assumption | with_reducible apply State.modPart_keeps | with_reducible apply enterSaving_keeps | split
    | (intro _ hx; (first | show CtxOk _ | show TileOk _ | show Memory.wf _ = true); (repeat' first | exact hx | exact CtxOk.noSave rfl | split | dsimp only); done)
    | intro _ _ _ | intro _ _ | intro _ | dsimp only | (rw [id_eq]) | with_reducible refine Keeps.put ?_ (fun x => x) (fun x => x)

theorem actCancel_keeps {s0 : State} {s : State} {k : Nat} (kp : Keeps s0 s) :
    Keeps s0 (actCancel s k) := by
  unfold actCancel
  try dsimp only
  repeat' first
    | with_reducible assumption | with_reducible apply State.modPart_keeps | with_reducible apply State.modPlan_keeps | split
    | (intro _ hx; (first | show CtxOk _ | show TileOk _ | show Memory.wf _ = true); (repeat' first | exact hx | exact CtxOk.noSave rfl | split | dsimp only); done)
    | intro _ _ _ | intro _ _ | intro _ | dsimp only | (rw [id_eq]) | with_reducible refine Keeps.put ?_ (fun x => x) (fun x => x)

theorem finishPreempt_keeps {s0 : State} {s : State} {k : Nat} (kp : Keeps s0 s) :
    Keeps s0 (finishPreempt s k) := by
  unfold finishPreempt
  try dsimp only
  repeat' first
    | with_reducible assumption | with_reducible apply State.dropCloOp_keeps | with_reducible apply State.modPart_keeps
    | with_reducible apply actCancel_keeps | with_reducible apply actGo_keeps | with_reducible apply sendDown_keeps
    | with_reducible apply sendUp_keeps | split
    | (intro _ hx; (first | show CtxOk _ | show TileOk _ | show Memory.wf _ = true); (repeat' first | exact hx | exact CtxOk.noSave rfl | split | dsimp only); done)
    | intro _ _ _ | intro _ _ | intro _ | dsimp only | (rw [id_eq]) | with_reducible refine Keeps.put ?_ (fun x => x) (fun x => x)

theorem actPreemptPrepare_keeps {s0 : State} {s : State} {k : Nat} {coord : Nat} {p : Word} {deadline : Word} (kp : Keeps s0 s) :
    Keeps s0 (actPreemptPrepare s k coord p deadline) := by
  unfold actPreemptPrepare
  try dsimp only
  repeat' first
    | with_reducible assumption | with_reducible apply State.each_keeps | with_reducible apply State.modCtx_keeps
    | with_reducible apply State.modPart_keeps | with_reducible apply State.modPlan_keeps | with_reducible apply finishPreempt_keeps
    | with_reducible apply sendMachineOn_keeps | split | exact fun _ (hx : CtxOk _) => hx
    | (intro _ hx; (first | show CtxOk _ | show TileOk _ | show Memory.wf _ = true); (repeat' first | exact hx | exact CtxOk.noSave rfl | split | dsimp only); done)
    | intro _ _ _ | intro _ _ | intro _ | dsimp only | (rw [id_eq]) | with_reducible refine Keeps.put ?_ (fun x => x) (fun x => x)

theorem actAbort_keeps {s0 : State} {s : State} {k : Nat} {cause : Nat} {reason : Nat} {fail : Option Nat} (kp : Keeps s0 s) :
    Keeps s0 (actAbort s k cause reason fail) := by
  unfold actAbort
  try dsimp only
  repeat' first
    | with_reducible assumption | with_reducible apply State.abandon_keeps | with_reducible apply State.launchStatus_keeps
    | with_reducible apply State.modPart_keeps | with_reducible apply raise_keeps | split
    | (intro _ hx; (first | show CtxOk _ | show TileOk _ | show Memory.wf _ = true); (repeat' first | exact hx | exact CtxOk.noSave rfl | split | dsimp only); done)
    | intro _ _ _ | intro _ _ | intro _ | dsimp only | (rw [id_eq]) | with_reducible refine Keeps.put ?_ (fun x => x) (fun x => x)

theorem floodAbort_keeps {s0 : State} {s : State} {k : Nat} {cause : Nat} {reason : Nat} {fail : Option Nat} (kp : Keeps s0 s) :
    Keeps s0 (floodAbort s k cause reason fail) := by
  unfold floodAbort
  try dsimp only
  repeat' first
    | with_reducible assumption | with_reducible apply actAbort_keeps | with_reducible apply sendFlood_keeps | split
    | (intro _ hx; (first | show CtxOk _ | show TileOk _ | show Memory.wf _ = true); (repeat' first | exact hx | exact CtxOk.noSave rfl | split | dsimp only); done)
    | intro _ _ _ | intro _ _ | intro _ | dsimp only | (rw [id_eq]) | with_reducible refine Keeps.put ?_ (fun x => x) (fun x => x)

theorem actLost_keeps {s0 : State} {s : State} {k : Nat} (kp : Keeps s0 s) :
    Keeps s0 (actLost s k) := by
  unfold actLost
  try dsimp only
  repeat' first
    | with_reducible assumption | with_reducible apply State.abandon_keeps | with_reducible apply State.launchStatus_keeps
    | with_reducible apply State.modCtx_keeps | with_reducible apply against_keeps | split | exact fun _ (hx : CtxOk _) => hx
    | (intro _ hx; (first | show CtxOk _ | show TileOk _ | show Memory.wf _ = true); (repeat' first | exact hx | exact CtxOk.noSave rfl | split | dsimp only); done)
    | intro _ _ _ | intro _ _ | intro _ | dsimp only | (rw [id_eq]) | with_reducible refine Keeps.put ?_ (fun x => x) (fun x => x)

theorem switchEpoch_keeps {s0 : State} {s : State} {k : Nat} (kp : Keeps s0 s) :
    Keeps s0 (switchEpoch s k) := by
  unfold switchEpoch
  try dsimp only
  repeat' first
    | with_reducible assumption | split
    | (intro _ hx; (first | show CtxOk _ | show TileOk _ | show Memory.wf _ = true); (repeat' first | exact hx | exact CtxOk.noSave rfl | split | dsimp only); done)
    | intro _ _ _ | intro _ _ | intro _ | dsimp only | (rw [id_eq]) | with_reducible refine Keeps.put ?_ (fun x => x) (fun x => x)

theorem diverge_keeps {s0 : State} {s : State} {k : Nat} {why : Nat} {step : Nat} (kp : Keeps s0 s) :
    Keeps s0 (diverge s k why step) := by
  unfold diverge
  try dsimp only
  repeat' first
    | with_reducible assumption | with_reducible apply State.setBit_keeps | with_reducible apply State.setFld_keeps
    | with_reducible apply State.setRg_keeps | with_reducible apply against_keeps | split
    | (intro _ hx; (first | show CtxOk _ | show TileOk _ | show Memory.wf _ = true); (repeat' first | exact hx | exact CtxOk.noSave rfl | split | dsimp only); done)
    | intro _ _ _ | intro _ _ | intro _ | dsimp only | (rw [id_eq]) | with_reducible refine Keeps.put ?_ (fun x => x) (fun x => x)

theorem jrnStart_keeps {s0 : State} {s : State} {k : Nat} {resume : Bool} (kp : Keeps s0 s) :
    Keeps s0 (jrnStart s k resume) := by
  unfold jrnStart
  try dsimp only
  repeat' first
    | with_reducible assumption | with_reducible apply State.jrnAdvance_keeps | with_reducible apply State.jrnSay_keeps
    | with_reducible apply State.jrnSkipPad_keeps | with_reducible apply State.setFld_keeps | with_reducible apply diverge_keeps | split
    | (intro _ hx; (first | show CtxOk _ | show TileOk _ | show Memory.wf _ = true); (repeat' first | exact hx | exact CtxOk.noSave rfl | split | dsimp only); done)
    | intro _ _ _ | intro _ _ | intro _ | dsimp only | (rw [id_eq]) | with_reducible refine Keeps.put ?_ (fun x => x) (fun x => x)

theorem resetLinks_keeps {s0 : State} {s : State} {k : Nat} (kp : Keeps s0 s) :
    Keeps s0 (resetLinks s k) := by
  unfold resetLinks
  try dsimp only
  repeat' first
    | with_reducible assumption | with_reducible apply State.each_keeps | with_reducible apply State.modLink_keeps | split
    | (intro _ hx; (first | show CtxOk _ | show TileOk _ | show Memory.wf _ = true); (repeat' first | exact hx | exact CtxOk.noSave rfl | split | dsimp only); done)
    | intro _ _ _ | intro _ _ | intro _ | dsimp only | (rw [id_eq]) | with_reducible refine Keeps.put ?_ (fun x => x) (fun x => x)

theorem wakeTiles_keeps {s0 : State} {s : State} {k : Nat} (kp : Keeps s0 s) :
    Keeps s0 (wakeTiles s k) := by
  unfold wakeTiles
  try dsimp only
  repeat' first
    | with_reducible assumption | with_reducible apply State.each_keeps | with_reducible apply State.modTile_keeps | split
    | exact fun _ (hx : TileOk _) => hx | exact fun _ (hx : TileOk _) => ⟨Memory.write_wf _ _ _ hx.1, hx.2⟩
    | exact fun _ (hx : TileOk _) => ⟨writeRanges_wf _ _ _ hx.1, hx.2⟩ | exact fun _ (hx : TileOk _) => ⟨writeTensor_wf _ _ _ _ hx.1, hx.2⟩
    | (intro _ hx; (first | show CtxOk _ | show TileOk _ | show Memory.wf _ = true); (repeat' first | exact hx | exact CtxOk.noSave rfl | split | dsimp only); done)
    | intro _ _ _ | intro _ _ | intro _ | dsimp only | (rw [id_eq]) | with_reducible refine Keeps.put ?_ (fun x => x) (fun x => x)

theorem actCommit_keeps {s0 : State} {s : State} {k : Nat} {tl : Word} (kp : Keeps s0 s) :
    Keeps s0 (actCommit s k tl) := by
  unfold actCommit
  try dsimp only
  repeat' first
    | with_reducible assumption | with_reducible apply State.clrRg_keeps | with_reducible apply State.modPart_keeps
    | with_reducible apply State.modPlan_keeps | with_reducible apply jrnStart_keeps | with_reducible apply resetLinks_keeps
    | with_reducible apply switchEpoch_keeps | with_reducible apply wakeTiles_keeps | split
    | (intro _ hx; (first | show CtxOk _ | show TileOk _ | show Memory.wf _ = true); (repeat' first | exact hx | exact CtxOk.noSave rfl | split | dsimp only); done)
    | intro _ _ _ | intro _ _ | intro _ | dsimp only | (rw [id_eq]) | with_reducible refine Keeps.put ?_ (fun x => x) (fun x => x)

theorem decideLaunch_keeps {s0 : State} {s : State} {k : Nat} {r : Reduce} (kp : Keeps s0 s) :
    Keeps s0 (decideLaunch s k r) := by
  unfold decideLaunch
  try dsimp only
  repeat' first
    | with_reducible assumption | with_reducible apply State.launchStatus_keeps | with_reducible apply State.modPart_keeps
    | with_reducible apply actCommit_keeps | with_reducible apply floodAbort_keeps | with_reducible apply sendDown_keeps | split
    | (intro _ hx; (first | show CtxOk _ | show TileOk _ | show Memory.wf _ = true); (repeat' first | exact hx | exact CtxOk.noSave rfl | split | dsimp only); done)
    | intro _ _ _ | intro _ _ | intro _ | dsimp only | (rw [id_eq]) | with_reducible refine Keeps.put ?_ (fun x => x) (fun x => x)

theorem sendReduced_keeps {s0 : State} {s : State} {k : Nat} {r : Reduce} (kp : Keeps s0 s) :
    Keeps s0 (sendReduced s k r) := by
  unfold sendReduced
  try dsimp only
  repeat' first
    | with_reducible assumption | with_reducible apply sendUp_keeps | split
    | (intro _ hx; (first | show CtxOk _ | show TileOk _ | show Memory.wf _ = true); (repeat' first | exact hx | exact CtxOk.noSave rfl | split | dsimp only); done)
    | intro _ _ _ | intro _ _ | intro _ | dsimp only | (rw [id_eq]) | with_reducible refine Keeps.put ?_ (fun x => x) (fun x => x)

theorem finishLaunch_keeps {s0 : State} {s : State} {k : Nat} (kp : Keeps s0 s) :
    Keeps s0 (finishLaunch s k) := by
  unfold finishLaunch
  try dsimp only
  repeat' first
    | with_reducible assumption | with_reducible apply State.modPart_keeps | with_reducible apply decideLaunch_keeps
    | with_reducible apply sendReduced_keeps | split
    | (intro _ hx; (first | show CtxOk _ | show TileOk _ | show Memory.wf _ = true); (repeat' first | exact hx | exact CtxOk.noSave rfl | split | dsimp only); done)
    | intro _ _ _ | intro _ _ | intro _ | dsimp only | (rw [id_eq]) | with_reducible refine Keeps.put ?_ (fun x => x) (fun x => x)

theorem finishRelays_keeps {s0 : State} {s : State} {k : Nat} (kp : Keeps s0 s) :
    Keeps s0 (finishRelays s k) := by
  unfold finishRelays
  try dsimp only
  repeat' first
    | with_reducible assumption | with_reducible apply State.each_keeps | with_reducible apply State.modPart_keeps
    | with_reducible apply sendReduced_keeps | split
    | (intro _ hx; (first | show CtxOk _ | show TileOk _ | show Memory.wf _ = true); (repeat' first | exact hx | exact CtxOk.noSave rfl | split | dsimp only); done)
    | intro _ _ _ | intro _ _ | intro _ | dsimp only | (rw [id_eq]) | with_reducible refine Keeps.put ?_ (fun x => x) (fun x => x)

theorem actPrepare_keeps {s0 : State} {s : State} {k : Nat} {m : LaunchBody} {tries : optParam Nat 0} (kp : Keeps s0 s) :
    Keeps s0 (actPrepare s k m tries) := by
  unfold actPrepare
  try dsimp only
  repeat' first
    | with_reducible assumption | with_reducible apply State.each_keeps | with_reducible apply State.modPart_keeps
    | with_reducible apply finishLaunch_keeps | with_reducible apply finishRelays_keeps | with_reducible apply ownAnswer_keeps
    | refine ownAnswer_keeps' (out := (_, _)) (by with_reducible assumption) ?_ | with_reducible apply sendMachineOn_keeps | split
    | (intro _ hx; (first | show CtxOk _ | show TileOk _ | show Memory.wf _ = true); (repeat' first | exact hx | exact CtxOk.noSave rfl | split | dsimp only); done)
    | intro _ _ _ | intro _ _ | intro _ | dsimp only | (rw [id_eq]) | with_reducible refine Keeps.put ?_ (fun x => x) (fun x => x)

theorem sendPrepare_keeps {s0 : State} {s : State} {k : Nat} {attempt : Nat} {deadline : Word} {resume : Bool} (kp : Keeps s0 s) :
    Keeps s0 (sendPrepare s k attempt deadline resume) := by
  unfold sendPrepare
  try dsimp only
  repeat' first
    | with_reducible assumption | with_reducible apply State.launchStatus_keeps | with_reducible apply State.setFld_keeps
    | with_reducible apply actPrepare_keeps | split
    | (intro _ hx; (first | show CtxOk _ | show TileOk _ | show Memory.wf _ = true); (repeat' first | exact hx | exact CtxOk.noSave rfl | split | dsimp only); done)
    | intro _ _ _ | intro _ _ | intro _ | dsimp only | (rw [id_eq]) | with_reducible refine Keeps.put ?_ (fun x => x) (fun x => x)

theorem actAnswer_keeps {s0 : State} {s : State} {k : Nat} {src : Nat} {b : LaunchBody} (kp : Keeps s0 s) :
    Keeps s0 (actAnswer s k src b) := by
  unfold actAnswer
  try dsimp only
  repeat' first
    | with_reducible assumption | with_reducible apply State.modPart_keeps | with_reducible apply finishLaunch_keeps
    | with_reducible apply finishRelays_keeps | split
    | (intro _ hx; (first | show CtxOk _ | show TileOk _ | show Memory.wf _ = true); (repeat' first | exact hx | exact CtxOk.noSave rfl | split | dsimp only); done)
    | intro _ _ _ | intro _ _ | intro _ | dsimp only | (rw [id_eq]) | with_reducible refine Keeps.put ?_ (fun x => x) (fun x => x)

theorem passCommit_keeps {s0 : State} {s : State} {k : Nat} {b : LaunchBody} (kp : Keeps s0 s) :
    Keeps s0 (passCommit s k b) := by
  unfold passCommit
  try dsimp only
  repeat' first
    | with_reducible assumption | with_reducible apply actCommit_keeps | with_reducible apply sendDown_keeps | split
    | (intro _ hx; (first | show CtxOk _ | show TileOk _ | show Memory.wf _ = true); (repeat' first | exact hx | exact CtxOk.noSave rfl | split | dsimp only); done)
    | intro _ _ _ | intro _ _ | intro _ | dsimp only | (rw [id_eq]) | with_reducible refine Keeps.put ?_ (fun x => x) (fun x => x)

theorem actMessage_keeps {s0 : State} {s : State} {src : Nat} {b : LaunchBody} (kp : Keeps s0 s) :
    Keeps s0 (actMessage s src b) := by
  unfold actMessage
  try dsimp only
  repeat' first
    | with_reducible assumption | with_reducible apply State.modPart_keeps | with_reducible apply actAbort_keeps
    | with_reducible apply actAnswer_keeps | with_reducible apply actCancel_keeps | with_reducible apply actGo_keeps
    | with_reducible apply actLost_keeps | with_reducible apply actPreemptPrepare_keeps | with_reducible apply actPrepare_keeps
    | with_reducible apply finishPreempt_keeps | with_reducible apply passCommit_keeps | with_reducible apply sendDown_keeps
    | with_reducible apply sendMachine_keeps | split
    | (intro _ hx; (first | show CtxOk _ | show TileOk _ | show Memory.wf _ = true); (repeat' first | exact hx | exact CtxOk.noSave rfl | split | dsimp only); done)
    | intro _ _ _ | intro _ _ | intro _ | dsimp only | (rw [id_eq]) | with_reducible refine Keeps.put ?_ (fun x => x) (fun x => x)

end Sys2Proof.Machine
end

