-- ==== Sys2Proof/Laws/KeepsPartition.lean ====
section
/-! SUPPORT. What each operation of Machine/Partition.lean keeps. -/

namespace Sys2Proof.Machine

open Sys2Proof.Safety

set_option linter.all false
set_option Elab.async false

theorem partCmd_keeps {s0 : State} {s : State} {acc : Accessor} {conds : List (Bool × Status)} {act : State → State} (kp : Keeps s0 s) (hact : ∀ s1, Keeps s0 s1 → Keeps s0 (act s1)) :
    Keeps s0 (partCmd s acc conds act) := by
  unfold partCmd
  try dsimp only
  repeat' first
    | with_reducible assumption | with_reducible apply State.finish_keeps | with_reducible apply onBlock_keeps | with_reducible apply hact | split
    | (intro _ hx; (first | show CtxOk _ | show TileOk _ | show Memory.wf _ = true); (repeat' first | exact hx | exact CtxOk.noSave rfl | split | dsimp only); done)
    | intro _ _ _ | intro _ _ | intro _ | dsimp only | (rw [id_eq]) | with_reducible refine Keeps.put ?_ (fun x => x) (fun x => x)

theorem cmdJoin_keeps {s0 : State} {s : State} {acc : Accessor} (kp : Keeps s0 s) :
    Keeps s0 (cmdJoin s acc) := by
  unfold cmdJoin
  try dsimp only
  repeat' first
    | with_reducible assumption | with_reducible apply State.each_keeps | with_reducible apply State.giveLink_keeps
    | with_reducible apply State.modPart_keeps | with_reducible apply partCmd_keeps | split
    | (intro _ hx; (first | show CtxOk _ | show TileOk _ | show Memory.wf _ = true); (repeat' first | exact hx | exact CtxOk.noSave rfl | split | dsimp only); done)
    | intro _ _ _ | intro _ _ | intro _ | dsimp only | (rw [id_eq]) | with_reducible refine Keeps.put ?_ (fun x => x) (fun x => x)

theorem execJoin_keeps {s0 : State} {acc : Accessor} {s : State} (kp : Keeps s0 s) :
    KeepsN s0 (execJoin acc s) := by
  unfold execJoin
  try dsimp only
  repeat' first
    | with_reducible assumption | with_reducible apply cmdJoin_keeps | with_reducible apply KeepsN.next | with_reducible apply KeepsN.fault | split
    | (intro _ hx; (first | show CtxOk _ | show TileOk _ | show Memory.wf _ = true); (repeat' first | exact hx | exact CtxOk.noSave rfl | split | dsimp only); done)
    | intro _ _ _ | intro _ _ | intro _ | dsimp only | (rw [id_eq]) | with_reducible refine Keeps.put ?_ (fun x => x) (fun x => x)

theorem startReleasing_keeps {s0 : State} {s : State} {k : Nat} (kp : Keeps s0 s) :
    Keeps s0 (startReleasing s k) := by
  unfold startReleasing
  try dsimp only
  repeat' first
    | with_reducible assumption | with_reducible apply State.modPart_keeps | split
    | (intro _ hx; (first | show CtxOk _ | show TileOk _ | show Memory.wf _ = true); (repeat' first | exact hx | exact CtxOk.noSave rfl | split | dsimp only); done)
    | intro _ _ _ | intro _ _ | intro _ | dsimp only | (rw [id_eq]) | with_reducible refine Keeps.put ?_ (fun x => x) (fun x => x)

theorem freePart_keeps {s0 : State} {s : State} {k : Nat} (kp : Keeps s0 s) :
    Keeps s0 (freePart s k) := by
  unfold freePart
  try dsimp only
  repeat' first
    | with_reducible assumption | with_reducible apply State.modPart_keeps | with_reducible apply quarPart_keeps | split
    | (intro _ hx; (first | show CtxOk _ | show TileOk _ | show Memory.wf _ = true); (repeat' first | exact hx | exact CtxOk.noSave rfl | split | dsimp only); done)
    | intro _ _ _ | intro _ _ | intro _ | dsimp only | (rw [id_eq]) | with_reducible refine Keeps.put ?_ (fun x => x) (fun x => x)

theorem cmdLeave_keeps {s0 : State} {s : State} {acc : Accessor} (kp : Keeps s0 s) :
    Keeps s0 (cmdLeave s acc) := by
  unfold cmdLeave
  try dsimp only
  repeat' first
    | with_reducible assumption | with_reducible apply freePart_keeps | with_reducible apply partCmd_keeps
    | with_reducible apply startReleasing_keeps | split
    | (intro _ hx; (first | show CtxOk _ | show TileOk _ | show Memory.wf _ = true); (repeat' first | exact hx | exact CtxOk.noSave rfl | split | dsimp only); done)
    | intro _ _ _ | intro _ _ | intro _ | dsimp only | (rw [id_eq]) | with_reducible refine Keeps.put ?_ (fun x => x) (fun x => x)

theorem execLeave_keeps {s0 : State} {acc : Accessor} {s : State} (kp : Keeps s0 s) :
    KeepsN s0 (execLeave acc s) := by
  unfold execLeave
  try dsimp only
  repeat' first
    | with_reducible assumption | with_reducible apply cmdLeave_keeps | with_reducible apply KeepsN.next | with_reducible apply KeepsN.fault
    | split
    | (intro _ hx; (first | show CtxOk _ | show TileOk _ | show Memory.wf _ = true); (repeat' first | exact hx | exact CtxOk.noSave rfl | split | dsimp only); done)
    | intro _ _ _ | intro _ _ | intro _ | dsimp only | (rw [id_eq]) | with_reducible refine Keeps.put ?_ (fun x => x) (fun x => x)

theorem execReleasingEnd_keeps {s0 : State} {k : CtxSlot} {s : State} (kp : Keeps s0 s) :
    KeepsN s0 (execReleasingEnd k s) := by
  unfold execReleasingEnd
  try dsimp only
  repeat' first
    | with_reducible assumption | with_reducible apply State.dropLinks_keeps | with_reducible apply freePart_keeps
    | with_reducible apply KeepsN.next | with_reducible apply KeepsN.fault | split
    | (intro _ hx; (first | show CtxOk _ | show TileOk _ | show Memory.wf _ = true); (repeat' first | exact hx | exact CtxOk.noSave rfl | split | dsimp only); done)
    | intro _ _ _ | intro _ _ | intro _ | dsimp only | (rw [id_eq]) | with_reducible refine Keeps.put ?_ (fun x => x) (fun x => x)

theorem execPartQuarantineEnd_keeps {s0 : State} {i : Fin 64} {s : State} (kp : Keeps s0 s) :
    KeepsN s0 (execPartQuarantineEnd i s) := by
  unfold execPartQuarantineEnd
  try dsimp only
  repeat' first
    | with_reducible assumption | with_reducible apply State.clrRg_keeps | with_reducible apply KeepsN.next | with_reducible apply KeepsN.fault
    | split
    | (intro _ hx; (first | show CtxOk _ | show TileOk _ | show Memory.wf _ = true); (repeat' first | exact hx | exact CtxOk.noSave rfl | split | dsimp only); done)
    | intro _ _ _ | intro _ _ | intro _ | dsimp only | (rw [id_eq]) | with_reducible refine Keeps.put ?_ (fun x => x) (fun x => x)

theorem sendImage_keeps {s0 : State} {s : State} {k : Nat} {root : Nat} {offset : Nat} {length : Nat} {data : List Byte} (kp : Keeps s0 s) :
    Keeps s0 (sendImage s k root offset length data) := by
  unfold sendImage
  try dsimp only
  repeat' first
    | with_reducible assumption | with_reducible apply State.each_keeps | with_reducible apply sendMachineOn_keeps | split
    | (intro _ hx; (first | show CtxOk _ | show TileOk _ | show Memory.wf _ = true); (repeat' first | exact hx | exact CtxOk.noSave rfl | split | dsimp only); done)
    | intro _ _ _ | intro _ _ | intro _ | dsimp only | (rw [id_eq]) | with_reducible refine Keeps.put ?_ (fun x => x) (fun x => x)

theorem imageRoot_keeps {s0 : State} {s : State} {k : Nat} {l : Nat} (kp : Keeps s0 s) :
    Keeps s0 (imageRoot s k l).2 := by
  unfold imageRoot
  try dsimp only
  repeat' first
    | with_reducible assumption | with_reducible apply State.draw_keeps
    | refine State.draw_keeps' (out := (_, _)) (by with_reducible assumption) ?_ | split
    | (intro _ hx; (first | show CtxOk _ | show TileOk _ | show Memory.wf _ = true); (repeat' first | exact hx | exact CtxOk.noSave rfl | split | dsimp only); done)
    | intro _ _ _ | intro _ _ | intro _ | dsimp only | (rw [id_eq]) | with_reducible refine Keeps.put ?_ (fun x => x) (fun x => x)

theorem imageRoot_keeps' {s0 : State} {s : State} {k : Nat} {l : Nat} {out : _} (eq : imageRoot s k l = out) (kp : Keeps s0 s) :
    Keeps s0 out.2 := eq ▸ imageRoot_keeps kp

theorem cmdDistribute_keeps {s0 : State} {s : State} {acc : Accessor} (kp : Keeps s0 s) :
    Keeps s0 (cmdDistribute s acc) := by
  unfold cmdDistribute
  try dsimp only
  repeat' first
    | with_reducible assumption | with_reducible apply State.each_keeps | with_reducible apply partCmd_keeps | with_reducible apply sendImage_keeps
    | split
    | (intro _ hx; (first | show CtxOk _ | show TileOk _ | show Memory.wf _ = true); (repeat' first | exact hx | exact CtxOk.noSave rfl | exact Memory.write_wf _ _ _ hx | exact Memory.clear_wf _ _ _ hx | exact Memory.copy_wf _ _ _ _ _ hx | exact ⟨Memory.write_wf _ _ _ hx.1, hx.2⟩ | split | dsimp only); done)
    | intro _ _ _ | intro _ _ | intro _ | dsimp only | (rw [id_eq]) | with_reducible refine Keeps.put ?_ (fun x => x) (fun x => x)

theorem execDistribute_keeps {s0 : State} {acc : Accessor} {s : State} (kp : Keeps s0 s) :
    KeepsN s0 (execDistribute acc s) := by
  unfold execDistribute
  try dsimp only
  repeat' first
    | with_reducible assumption | with_reducible apply cmdDistribute_keeps | with_reducible apply KeepsN.next | with_reducible apply KeepsN.fault
    | split
    | (intro _ hx; (first | show CtxOk _ | show TileOk _ | show Memory.wf _ = true); (repeat' first | exact hx | exact CtxOk.noSave rfl | split | dsimp only); done)
    | intro _ _ _ | intro _ _ | intro _ | dsimp only | (rw [id_eq]) | with_reducible refine Keeps.put ?_ (fun x => x) (fun x => x)

theorem beginLoad_keeps {s0 : State} {s : State} {k : Nat} {src : Nat} {len : Nat} (kp : Keeps s0 s) :
    Keeps s0 (beginLoad s k src len) := by
  unfold beginLoad
  try dsimp only
  repeat' first
    | with_reducible assumption | with_reducible apply State.clrRg_keeps | with_reducible apply State.dropClaims_keeps
    | with_reducible apply State.dropCloOp_keeps | with_reducible apply State.dropRoutes_keeps | with_reducible apply State.each_keeps
    | with_reducible apply State.modCtx_keeps | with_reducible apply State.modPart_keeps | with_reducible apply State.modVault_keeps
    | with_reducible apply State.setRg_keeps | with_reducible apply dropApers_keeps | split | exact fun _ (hx : CtxOk _) => hx
    | exact fun _ hx => (show Memory.wf _ = true from hx) | exact fun _ hx => Memory.write_wf _ _ _ hx | exact fun _ hx => Memory.clear_wf _ _ _ hx
    | exact fun _ hx => Memory.copy_wf _ _ _ _ _ hx
    | (intro _ hx; (first | show CtxOk _ | show TileOk _ | show Memory.wf _ = true); (repeat' first | exact hx | exact CtxOk.noSave rfl | exact Memory.write_wf _ _ _ hx | exact Memory.clear_wf _ _ _ hx | exact Memory.copy_wf _ _ _ _ _ hx | exact ⟨Memory.write_wf _ _ _ hx.1, hx.2⟩ | split | dsimp only); done)
    | intro _ _ _ | intro _ _ | intro _ | dsimp only | (rw [id_eq]) | with_reducible refine Keeps.put ?_ (fun x => x) (fun x => x)

theorem tryImage_keeps {s0 : State} {s : State} {k : Nat} (kp : Keeps s0 s) :
    Keeps s0 (tryImage s k) := by
  unfold tryImage
  try dsimp only
  repeat' first
    | with_reducible assumption | with_reducible apply State.modPart_keeps | with_reducible apply beginLoad_keeps | split
    | (intro _ hx; (first | show CtxOk _ | show TileOk _ | show Memory.wf _ = true); (repeat' first | exact hx | exact CtxOk.noSave rfl | split | dsimp only); done)
    | intro _ _ _ | intro _ _ | intro _ | dsimp only | (rw [id_eq]) | with_reducible refine Keeps.put ?_ (fun x => x) (fun x => x)

theorem actImage_keeps {s0 : State} {s : State} {k : Nat} {root : Option Nat} {offset : Nat} {length : Nat} {data : List Byte} (kp : Keeps s0 s) :
    Keeps s0 (actImage s k root offset length data) := by
  unfold actImage
  try dsimp only
  repeat' first
    | with_reducible assumption | with_reducible apply State.mgtWrite_keeps | with_reducible apply State.modPart_keeps
    | with_reducible apply sendImage_keeps | with_reducible apply tryImage_keeps | split
    | (intro _ hx; (first | show CtxOk _ | show TileOk _ | show Memory.wf _ = true); (repeat' first | exact hx | exact CtxOk.noSave rfl | exact Memory.write_wf _ _ _ hx | exact Memory.clear_wf _ _ _ hx | exact Memory.copy_wf _ _ _ _ _ hx | exact ⟨Memory.write_wf _ _ _ hx.1, hx.2⟩ | split | dsimp only); done)
    | intro _ _ _ | intro _ _ | intro _ | dsimp only | (rw [id_eq]) | with_reducible refine Keeps.put ?_ (fun x => x) (fun x => x)

theorem execImagePacket_keeps {s0 : State} {part : BitVec 16} {gen : BitVec 8} {src : Coord} {offset : Nat} {length : Nat} {data : List Byte} {s : State} (kp : Keeps s0 s) :
    KeepsN s0 (execImagePacket part gen src offset length data s) := by
  unfold execImagePacket
  try dsimp only
  repeat' first
    | with_reducible assumption | with_reducible apply actImage_keeps | with_reducible apply KeepsN.next | with_reducible apply KeepsN.fault
    | split
    | (intro _ hx; (first | show CtxOk _ | show TileOk _ | show Memory.wf _ = true); (repeat' first | exact hx | exact CtxOk.noSave rfl | split | dsimp only); done)
    | intro _ _ _ | intro _ _ | intro _ | dsimp only | (rw [id_eq]) | with_reducible refine Keeps.put ?_ (fun x => x) (fun x => x)

theorem execImageTimeout_keeps {s0 : State} {k : CtxSlot} {s : State} (kp : Keeps s0 s) :
    KeepsN s0 (execImageTimeout k s) := by
  unfold execImageTimeout
  try dsimp only
  repeat' first
    | with_reducible assumption | with_reducible apply State.modPart_keeps | with_reducible apply KeepsN.next | with_reducible apply KeepsN.fault
    | split
    | (intro _ hx; (first | show CtxOk _ | show TileOk _ | show Memory.wf _ = true); (repeat' first | exact hx | exact CtxOk.noSave rfl | split | dsimp only); done)
    | intro _ _ _ | intro _ _ | intro _ | dsimp only | (rw [id_eq]) | with_reducible refine Keeps.put ?_ (fun x => x) (fun x => x)

theorem execLoadWaitRetry_keeps {s0 : State} {k : CtxSlot} {s : State} (kp : Keeps s0 s) :
    KeepsN s0 (execLoadWaitRetry k s) := by
  unfold execLoadWaitRetry
  try dsimp only
  repeat' first
    | with_reducible assumption | with_reducible apply tryImage_keeps | with_reducible apply KeepsN.next | with_reducible apply KeepsN.fault
    | split
    | (intro _ hx; (first | show CtxOk _ | show TileOk _ | show Memory.wf _ = true); (repeat' first | exact hx | exact CtxOk.noSave rfl | split | dsimp only); done)
    | intro _ _ _ | intro _ _ | intro _ | dsimp only | (rw [id_eq]) | with_reducible refine Keeps.put ?_ (fun x => x) (fun x => x)

theorem cmdLaunch_keeps {s0 : State} {s : State} {acc : Accessor} (kp : Keeps s0 s) :
    Keeps s0 (cmdLaunch s acc) := by
  unfold cmdLaunch
  try dsimp only
  repeat' first
    | with_reducible assumption | with_reducible apply State.modPart_keeps | with_reducible apply partCmd_keeps
    | with_reducible apply sendPrepare_keeps | split
    | (intro _ hx; (first | show CtxOk _ | show TileOk _ | show Memory.wf _ = true); (repeat' first | exact hx | exact CtxOk.noSave rfl | split | dsimp only); done)
    | intro _ _ _ | intro _ _ | intro _ | dsimp only | (rw [id_eq]) | with_reducible refine Keeps.put ?_ (fun x => x) (fun x => x)

theorem execLaunch_keeps {s0 : State} {acc : Accessor} {s : State} (kp : Keeps s0 s) :
    KeepsN s0 (execLaunch acc s) := by
  unfold execLaunch
  try dsimp only
  repeat' first
    | with_reducible assumption | with_reducible apply cmdLaunch_keeps | with_reducible apply KeepsN.next | with_reducible apply KeepsN.fault
    | split
    | (intro _ hx; (first | show CtxOk _ | show TileOk _ | show Memory.wf _ = true); (repeat' first | exact hx | exact CtxOk.noSave rfl | split | dsimp only); done)
    | intro _ _ _ | intro _ _ | intro _ | dsimp only | (rw [id_eq]) | with_reducible refine Keeps.put ?_ (fun x => x) (fun x => x)

theorem cmdAbort_keeps {s0 : State} {s : State} {acc : Accessor} (kp : Keeps s0 s) :
    Keeps s0 (cmdAbort s acc) := by
  unfold cmdAbort
  try dsimp only
  repeat' first
    | with_reducible assumption | with_reducible apply floodAbort_keeps | with_reducible apply partCmd_keeps | split
    | (intro _ hx; (first | show CtxOk _ | show TileOk _ | show Memory.wf _ = true); (repeat' first | exact hx | exact CtxOk.noSave rfl | split | dsimp only); done)
    | intro _ _ _ | intro _ _ | intro _ | dsimp only | (rw [id_eq]) | with_reducible refine Keeps.put ?_ (fun x => x) (fun x => x)

theorem execAbort_keeps {s0 : State} {acc : Accessor} {s : State} (kp : Keeps s0 s) :
    KeepsN s0 (execAbort acc s) := by
  unfold execAbort
  try dsimp only
  repeat' first
    | with_reducible assumption | with_reducible apply cmdAbort_keeps | with_reducible apply KeepsN.next | with_reducible apply KeepsN.fault
    | split
    | (intro _ hx; (first | show CtxOk _ | show TileOk _ | show Memory.wf _ = true); (repeat' first | exact hx | exact CtxOk.noSave rfl | split | dsimp only); done)
    | intro _ _ _ | intro _ _ | intro _ | dsimp only | (rw [id_eq]) | with_reducible refine Keeps.put ?_ (fun x => x) (fun x => x)

theorem execPrepare_keeps {s0 : State} {msg : LaunchMsg} {s : State} (kp : Keeps s0 s) :
    KeepsN s0 (execPrepare msg s) := by
  unfold execPrepare
  try dsimp only
  repeat' first
    | with_reducible assumption | with_reducible apply actMessage_keeps | with_reducible apply KeepsN.next | with_reducible apply KeepsN.fault
    | split
    | (intro _ hx; (first | show CtxOk _ | show TileOk _ | show Memory.wf _ = true); (repeat' first | exact hx | exact CtxOk.noSave rfl | split | dsimp only); done)
    | intro _ _ _ | intro _ _ | intro _ | dsimp only | (rw [id_eq]) | with_reducible refine Keeps.put ?_ (fun x => x) (fun x => x)

theorem execAnswer_keeps {s0 : State} {msg : LaunchMsg} {s : State} (kp : Keeps s0 s) :
    KeepsN s0 (execAnswer msg s) := by
  unfold execAnswer
  try dsimp only
  repeat' first
    | with_reducible assumption | with_reducible apply actMessage_keeps | with_reducible apply KeepsN.next | with_reducible apply KeepsN.fault
    | split
    | (intro _ hx; (first | show CtxOk _ | show TileOk _ | show Memory.wf _ = true); (repeat' first | exact hx | exact CtxOk.noSave rfl | split | dsimp only); done)
    | intro _ _ _ | intro _ _ | intro _ | dsimp only | (rw [id_eq]) | with_reducible refine Keeps.put ?_ (fun x => x) (fun x => x)

theorem execPrepareRetry_keeps {s0 : State} {k : CtxSlot} {s : State} (kp : Keeps s0 s) :
    KeepsN s0 (execPrepareRetry k s) := by
  unfold execPrepareRetry
  try dsimp only
  repeat' first
    | with_reducible assumption | with_reducible apply floodAbort_keeps | with_reducible apply sendPrepare_keeps | with_reducible apply KeepsN.next
    | with_reducible apply KeepsN.fault | split
    | (intro _ hx; (first | show CtxOk _ | show TileOk _ | show Memory.wf _ = true); (repeat' first | exact hx | exact CtxOk.noSave rfl | split | dsimp only); done)
    | intro _ _ _ | intro _ _ | intro _ | dsimp only | (rw [id_eq]) | with_reducible refine Keeps.put ?_ (fun x => x) (fun x => x)

theorem execCommit_keeps {s0 : State} {msg : LaunchMsg} {s : State} (kp : Keeps s0 s) :
    KeepsN s0 (execCommit msg s) := by
  unfold execCommit
  try dsimp only
  repeat' first
    | with_reducible assumption | with_reducible apply actMessage_keeps | with_reducible apply KeepsN.next | with_reducible apply KeepsN.fault
    | split
    | (intro _ hx; (first | show CtxOk _ | show TileOk _ | show Memory.wf _ = true); (repeat' first | exact hx | exact CtxOk.noSave rfl | split | dsimp only); done)
    | intro _ _ _ | intro _ _ | intro _ | dsimp only | (rw [id_eq]) | with_reducible refine Keeps.put ?_ (fun x => x) (fun x => x)

theorem execAbortFlood_keeps {s0 : State} {msg : LaunchMsg} {s : State} (kp : Keeps s0 s) :
    KeepsN s0 (execAbortFlood msg s) := by
  unfold execAbortFlood
  try dsimp only
  repeat' first
    | with_reducible assumption | with_reducible apply actMessage_keeps | with_reducible apply KeepsN.next | with_reducible apply KeepsN.fault
    | split
    | (intro _ hx; (first | show CtxOk _ | show TileOk _ | show Memory.wf _ = true); (repeat' first | exact hx | exact CtxOk.noSave rfl | split | dsimp only); done)
    | intro _ _ _ | intro _ _ | intro _ | dsimp only | (rw [id_eq]) | with_reducible refine Keeps.put ?_ (fun x => x) (fun x => x)

theorem execLaunchDeadline_keeps {s0 : State} {k : CtxSlot} {s : State} (kp : Keeps s0 s) :
    KeepsN s0 (execLaunchDeadline k s) := by
  unfold execLaunchDeadline
  try dsimp only
  repeat' first
    | with_reducible assumption | with_reducible apply floodAbort_keeps | with_reducible apply KeepsN.next | with_reducible apply KeepsN.fault
    | split
    | (intro _ hx; (first | show CtxOk _ | show TileOk _ | show Memory.wf _ = true); (repeat' first | exact hx | exact CtxOk.noSave rfl | split | dsimp only); done)
    | intro _ _ _ | intro _ _ | intro _ | dsimp only | (rw [id_eq]) | with_reducible refine Keeps.put ?_ (fun x => x) (fun x => x)

theorem execContextLost_keeps {s0 : State} {part : BitVec 16} {gen : BitVec 8} {s : State} (kp : Keeps s0 s) :
    KeepsN s0 (execContextLost part gen s) := by
  unfold execContextLost
  try dsimp only
  repeat' first
    | with_reducible assumption | with_reducible apply actMessage_keeps | with_reducible apply KeepsN.next | with_reducible apply KeepsN.fault
    | split
    | (intro _ hx; (first | show CtxOk _ | show TileOk _ | show Memory.wf _ = true); (repeat' first | exact hx | exact CtxOk.noSave rfl | split | dsimp only); done)
    | intro _ _ _ | intro _ _ | intro _ | dsimp only | (rw [id_eq]) | with_reducible refine Keeps.put ?_ (fun x => x) (fun x => x)

theorem execPreemptPrepare_keeps {s0 : State} {msg : LaunchMsg} {s : State} (kp : Keeps s0 s) :
    KeepsN s0 (execPreemptPrepare msg s) := by
  unfold execPreemptPrepare
  try dsimp only
  repeat' first
    | with_reducible assumption | with_reducible apply actMessage_keeps | with_reducible apply KeepsN.next | with_reducible apply KeepsN.fault
    | split
    | (intro _ hx; (first | show CtxOk _ | show TileOk _ | show Memory.wf _ = true); (repeat' first | exact hx | exact CtxOk.noSave rfl | split | dsimp only); done)
    | intro _ _ _ | intro _ _ | intro _ | dsimp only | (rw [id_eq]) | with_reducible refine Keeps.put ?_ (fun x => x) (fun x => x)

theorem execPreemptAnswer_keeps {s0 : State} {msg : LaunchMsg} {s : State} (kp : Keeps s0 s) :
    KeepsN s0 (execPreemptAnswer msg s) := by
  unfold execPreemptAnswer
  try dsimp only
  repeat' first
    | with_reducible assumption | with_reducible apply actMessage_keeps | with_reducible apply KeepsN.next | with_reducible apply KeepsN.fault
    | split
    | (intro _ hx; (first | show CtxOk _ | show TileOk _ | show Memory.wf _ = true); (repeat' first | exact hx | exact CtxOk.noSave rfl | split | dsimp only); done)
    | intro _ _ _ | intro _ _ | intro _ | dsimp only | (rw [id_eq]) | with_reducible refine Keeps.put ?_ (fun x => x) (fun x => x)

theorem execPreemptGo_keeps {s0 : State} {msg : LaunchMsg} {s : State} (kp : Keeps s0 s) :
    KeepsN s0 (execPreemptGo msg s) := by
  unfold execPreemptGo
  try dsimp only
  repeat' first
    | with_reducible assumption | with_reducible apply actMessage_keeps | with_reducible apply KeepsN.next | with_reducible apply KeepsN.fault
    | split
    | (intro _ hx; (first | show CtxOk _ | show TileOk _ | show Memory.wf _ = true); (repeat' first | exact hx | exact CtxOk.noSave rfl | split | dsimp only); done)
    | intro _ _ _ | intro _ _ | intro _ | dsimp only | (rw [id_eq]) | with_reducible refine Keeps.put ?_ (fun x => x) (fun x => x)

theorem execPreemptCancel_keeps {s0 : State} {msg : LaunchMsg} {s : State} (kp : Keeps s0 s) :
    KeepsN s0 (execPreemptCancel msg s) := by
  unfold execPreemptCancel
  try dsimp only
  repeat' first
    | with_reducible assumption | with_reducible apply actMessage_keeps | with_reducible apply KeepsN.next | with_reducible apply KeepsN.fault
    | split
    | (intro _ hx; (first | show CtxOk _ | show TileOk _ | show Memory.wf _ = true); (repeat' first | exact hx | exact CtxOk.noSave rfl | split | dsimp only); done)
    | intro _ _ _ | intro _ _ | intro _ | dsimp only | (rw [id_eq]) | with_reducible refine Keeps.put ?_ (fun x => x) (fun x => x)

theorem execPreemptDeadline_keeps {s0 : State} {k : CtxSlot} {s : State} (kp : Keeps s0 s) :
    KeepsN s0 (execPreemptDeadline k s) := by
  unfold execPreemptDeadline
  try dsimp only
  repeat' first
    | with_reducible assumption | with_reducible apply State.dropCloOp_keeps | with_reducible apply actCancel_keeps
    | with_reducible apply against_keeps | with_reducible apply KeepsN.next | with_reducible apply KeepsN.fault | split
    | (intro _ hx; (first | show CtxOk _ | show TileOk _ | show Memory.wf _ = true); (repeat' first | exact hx | exact CtxOk.noSave rfl | split | dsimp only); done)
    | intro _ _ _ | intro _ _ | intro _ | dsimp only | (rw [id_eq]) | with_reducible refine Keeps.put ?_ (fun x => x) (fun x => x)

theorem ledgerRank_keeps {s0 : State} {s : State} (kp : Keeps s0 s) :
    Keeps s0 (ledgerRank s) := by
  unfold ledgerRank
  try dsimp only
  repeat' first
    | with_reducible assumption | with_reducible apply State.setRg_keeps | split
    | (intro _ hx; (first | show CtxOk _ | show TileOk _ | show Memory.wf _ = true); (repeat' first | exact hx | exact CtxOk.noSave rfl | split | dsimp only); done)
    | intro _ _ _ | intro _ _ | intro _ | dsimp only | (rw [id_eq]) | with_reducible refine Keeps.put ?_ (fun x => x) (fun x => x)

theorem execLedgerRankRead_keeps {s0 : State} {acc : Accessor} {s : State} (kp : Keeps s0 s) :
    KeepsN s0 (execLedgerRankRead acc s) := by
  unfold execLedgerRankRead
  try dsimp only
  repeat' first
    | with_reducible assumption | with_reducible apply ledgerRank_keeps | with_reducible apply KeepsN.next | with_reducible apply KeepsN.fault
    | split
    | (intro _ hx; (first | show CtxOk _ | show TileOk _ | show Memory.wf _ = true); (repeat' first | exact hx | exact CtxOk.noSave rfl | split | dsimp only); done)
    | intro _ _ _ | intro _ _ | intro _ | dsimp only | (rw [id_eq]) | with_reducible refine Keeps.put ?_ (fun x => x) (fun x => x)

end Sys2Proof.Machine
end

