-- ==== Sys2Proof/Laws/KeepsCloakroom.lean ====
section
/-! SUPPORT. What each operation of Machine/Cloakroom.lean keeps. -/

namespace Sys2Proof.Machine

open Sys2Proof.Safety

set_option linter.all false
set_option Elab.async false

theorem cloCmd_keeps {s0 : State} {s : State} {conds : List (Bool × Status)} {act : State → State} (kp : Keeps s0 s) (hact : ∀ s1, Keeps s0 s1 → Keeps s0 (act s1)) :
    Keeps s0 (cloCmd s conds act) := by
  unfold cloCmd
  try dsimp only
  repeat' first
    | with_reducible assumption | with_reducible apply State.finish_keeps | with_reducible apply onBlock_keeps | with_reducible apply hact | split
    | (intro _ hx; (first | show CtxOk _ | show TileOk _ | show Memory.wf _ = true); (repeat' first | exact hx | exact CtxOk.noSave rfl | split | dsimp only); done)
    | intro _ _ _ | intro _ _ | intro _ | dsimp only | (rw [id_eq]) | with_reducible refine Keeps.put ?_ (fun x => x) (fun x => x)

theorem dropFrames_keeps {s0 : State} {s : State} {k : Nat} {fs : List FrameId} (kp : Keeps s0 s) :
    Keeps s0 (dropFrames s k fs) := by
  unfold dropFrames
  try dsimp only
  repeat' first
    | with_reducible assumption | with_reducible apply State.each_keeps | with_reducible apply State.freeFrame_keeps
    | with_reducible apply State.modCtx_keeps | split | exact fun _ (hx : CtxOk _) => hx
    | (intro _ hx; (first | show CtxOk _ | show TileOk _ | show Memory.wf _ = true); (repeat' first | exact hx | exact CtxOk.noSave rfl | split | dsimp only); done)
    | intro _ _ _ | intro _ _ | intro _ | dsimp only | (rw [id_eq]) | with_reducible refine Keeps.put ?_ (fun x => x) (fun x => x)

theorem freeRecords_keeps {s0 : State} {s : State} {k : Nat} (kp : Keeps s0 s) :
    Keeps s0 (freeRecords s k) := by
  unfold freeRecords
  try dsimp only
  repeat' first
    | with_reducible assumption | with_reducible apply State.each_keeps | with_reducible apply State.endFlagWatch_keeps
    | with_reducible apply State.freeReq_keeps | with_reducible apply State.stopTurns_keeps | split
    | (intro _ hx; (first | show CtxOk _ | show TileOk _ | show Memory.wf _ = true); (repeat' first | exact hx | exact CtxOk.noSave rfl | split | dsimp only); done)
    | intro _ _ _ | intro _ _ | intro _ | dsimp only | (rw [id_eq]) | with_reducible refine Keeps.put ?_ (fun x => x) (fun x => x)

theorem openCtx_keeps {s0 : State} {s : State} {k : Nat} {owner : Nat} {header : List FrameId} (kp : Keeps s0 s) :
    Keeps s0 (openCtx s k owner header) := by
  unfold openCtx
  try dsimp only
  repeat' first
    | with_reducible assumption | with_reducible apply State.modCtx_keeps | with_reducible apply State.setRg_keeps | split
    | exact fun _ (hx : CtxOk _) => hx
    | (intro _ hx; (first | show CtxOk _ | show TileOk _ | show Memory.wf _ = true); (repeat' first | exact hx | exact CtxOk.noSave rfl | split | dsimp only); done)
    | intro _ _ _ | intro _ _ | intro _ | dsimp only | (rw [id_eq]) | with_reducible refine Keeps.put ?_ (fun x => x) (fun x => x)

theorem cmdCreate_keeps {s0 : State} {s : State} {acc : Accessor} (kp : Keeps s0 s) :
    Keeps s0 (cmdCreate s acc) := by
  unfold cmdCreate
  try dsimp only
  repeat' first
    | with_reducible assumption | with_reducible apply State.finish_keeps | refine State.takeFrames_keeps ?_ _ (by with_reducible assumption)
    | with_reducible apply cloCmd_keeps | with_reducible apply openCtx_keeps | split
    | (intro _ hx; (first | show CtxOk _ | show TileOk _ | show Memory.wf _ = true); (repeat' first | exact hx | exact CtxOk.noSave rfl | split | dsimp only); done)
    | intro _ _ _ | intro _ _ | intro _ | dsimp only | (rw [id_eq]) | with_reducible refine Keeps.put ?_ (fun x => x) (fun x => x)

theorem execCreate_keeps {s0 : State} {acc : Accessor} {s : State} (kp : Keeps s0 s) :
    KeepsN s0 (execCreate acc s) := by
  unfold execCreate
  try dsimp only
  repeat' first
    | with_reducible assumption | with_reducible apply cmdCreate_keeps | with_reducible apply KeepsN.next | with_reducible apply KeepsN.fault
    | split
    | (intro _ hx; (first | show CtxOk _ | show TileOk _ | show Memory.wf _ = true); (repeat' first | exact hx | exact CtxOk.noSave rfl | split | dsimp only); done)
    | intro _ _ _ | intro _ _ | intro _ | dsimp only | (rw [id_eq]) | with_reducible refine Keeps.put ?_ (fun x => x) (fun x => x)

theorem cmdOwners_keeps {s0 : State} {s : State} {acc : Accessor} (kp : Keeps s0 s) :
    Keeps s0 (cmdOwners s acc) := by
  unfold cmdOwners
  try dsimp only
  repeat' first
    | with_reducible assumption | with_reducible apply State.finish_keeps | with_reducible apply State.modCtx_keeps
    | with_reducible apply cloCmd_keeps | split | exact fun _ (hx : CtxOk _) => hx
    | (intro _ hx; (first | show CtxOk _ | show TileOk _ | show Memory.wf _ = true); (repeat' first | exact hx | exact CtxOk.noSave rfl | split | dsimp only); done)
    | intro _ _ _ | intro _ _ | intro _ | dsimp only | (rw [id_eq]) | with_reducible refine Keeps.put ?_ (fun x => x) (fun x => x)

theorem execOwners_keeps {s0 : State} {acc : Accessor} {s : State} (kp : Keeps s0 s) :
    KeepsN s0 (execOwners acc s) := by
  unfold execOwners
  try dsimp only
  repeat' first
    | with_reducible assumption | with_reducible apply cmdOwners_keeps | with_reducible apply KeepsN.next | with_reducible apply KeepsN.fault
    | split
    | (intro _ hx; (first | show CtxOk _ | show TileOk _ | show Memory.wf _ = true); (repeat' first | exact hx | exact CtxOk.noSave rfl | split | dsimp only); done)
    | intro _ _ _ | intro _ _ | intro _ | dsimp only | (rw [id_eq]) | with_reducible refine Keeps.put ?_ (fun x => x) (fun x => x)

theorem grantTiles_keeps {s0 : State} {s : State} {k : Nat} {rows : Nat} (kp : Keeps s0 s) :
    KeepsO s0 (grantTiles s k rows) := by
  unfold grantTiles
  try dsimp only
  repeat' first
    | with_reducible assumption | with_reducible apply State.each_keeps | with_reducible apply State.giveTile_keeps
    | with_reducible apply State.modCtx_keeps | refine State.takeFrames_keeps ?_ _ (by with_reducible assumption)
    | with_reducible apply KeepsO.some | with_reducible exact KeepsO.none | with_reducible apply KeepsO.map | split
    | exact fun _ (hx : CtxOk _) => hx
    | (intro _ hx; (first | show CtxOk _ | show TileOk _ | show Memory.wf _ = true); (repeat' first | exact hx | exact CtxOk.noSave rfl | split | dsimp only); done)
    | intro _ _ _ | intro _ _ | intro _ | dsimp only | (rw [id_eq]) | with_reducible refine Keeps.put ?_ (fun x => x) (fun x => x)

theorem grantHbm_keeps {s0 : State} {s : State} {k : Nat} {n : Nat} (kp : Keeps s0 s) :
    KeepsO s0 (grantHbm s k n) := by
  unfold grantHbm
  try dsimp only
  repeat' first
    | with_reducible assumption | with_reducible apply State.modCtx_keeps | refine State.takeFrames_keeps ?_ _ (by with_reducible assumption)
    | with_reducible apply KeepsO.some | with_reducible exact KeepsO.none | with_reducible apply KeepsO.map | split
    | exact fun _ (hx : CtxOk _) => hx
    | (intro _ hx; (first | show CtxOk _ | show TileOk _ | show Memory.wf _ = true); (repeat' first | exact hx | exact CtxOk.noSave rfl | split | dsimp only); done)
    | intro _ _ _ | intro _ _ | intro _ | dsimp only | (rw [id_eq]) | with_reducible refine Keeps.put ?_ (fun x => x) (fun x => x)

theorem grantCxl_keeps {s0 : State} {s : State} {k : Nat} {n : Nat} {mask : Nat} (kp : Keeps s0 s) :
    KeepsO s0 (grantCxl s k n mask) := by
  unfold grantCxl
  try dsimp only
  repeat' first
    | with_reducible assumption | with_reducible apply State.each_keeps | with_reducible apply State.holdCxl_keeps
    | with_reducible apply State.modCtx_keeps | with_reducible apply KeepsO.some | with_reducible exact KeepsO.none
    | with_reducible apply KeepsO.map | split | exact fun _ (hx : CtxOk _) => hx
    | (intro _ hx; (first | show CtxOk _ | show TileOk _ | show Memory.wf _ = true); (repeat' first | exact hx | exact CtxOk.noSave rfl | split | dsimp only); done)
    | intro _ _ _ | intro _ _ | intro _ | dsimp only | (rw [id_eq]) | with_reducible refine Keeps.put ?_ (fun x => x) (fun x => x)

theorem grantGroups_keeps {s0 : State} {s : State} {k : Nat} {v : Nat} {n : Nat} (kp : Keeps s0 s) :
    KeepsO s0 (grantGroups s k v n) := by
  unfold grantGroups
  try dsimp only
  repeat' first
    | with_reducible assumption | with_reducible apply State.giveGroups_keeps | with_reducible apply KeepsO.some | with_reducible exact KeepsO.none
    | with_reducible apply KeepsO.map | split
    | (intro _ hx; (first | show CtxOk _ | show TileOk _ | show Memory.wf _ = true); (repeat' first | exact hx | exact CtxOk.noSave rfl | split | dsimp only); done)
    | intro _ _ _ | intro _ _ | intro _ | dsimp only | (rw [id_eq]) | with_reducible refine Keeps.put ?_ (fun x => x) (fun x => x)

theorem grantQuota_keeps {s0 : State} {s : State} {k : Nat} {n : Nat} (kp : Keeps s0 s) :
    KeepsO s0 (grantQuota s k n) := by
  unfold grantQuota
  try dsimp only
  repeat' first
    | with_reducible assumption | with_reducible apply State.modCtx_keeps | refine State.takeFrames_keeps ?_ _ (by with_reducible assumption)
    | with_reducible apply KeepsO.some | with_reducible exact KeepsO.none | with_reducible apply KeepsO.map | split
    | exact fun _ (hx : CtxOk _) => hx
    | (intro _ hx; (first | show CtxOk _ | show TileOk _ | show Memory.wf _ = true); (repeat' first | exact hx | exact CtxOk.noSave rfl | split | dsimp only); done)
    | intro _ _ _ | intro _ _ | intro _ | dsimp only | (rw [id_eq]) | with_reducible refine Keeps.put ?_ (fun x => x) (fun x => x)

theorem quotaBack_keeps {s0 s : State} {k n m : Nat} {fs : List FrameId} (kp : Keeps s0 s) :
    Keeps s0 ((s.modCtx k fun c => { c with quota := n, quotaFr := c.quotaFr.take m }).each (fs.drop m) State.freeFrame) :=
  State.each_keeps (State.modCtx_keeps kp fun _ hx => hx) fun _ _ h => State.freeFrame_keeps h

theorem keepQuota_keeps {s0 s : State} {k n : Nat} (kp : Keeps s0 s) : Keeps s0 (keepQuota s k n) := quotaBack_keeps kp

theorem grant_keeps {s0 : State} {s : State} {k : Nat} {type : Nat} {a1 : Nat} {a2 : Nat} (kp : Keeps s0 s) :
    KeepsO s0 (grant s k type a1 a2) := by
  unfold grant
  try dsimp only
  repeat' first
    | with_reducible assumption | with_reducible apply State.bindRegion_keeps | with_reducible apply State.giveLink_keeps
    | refine grantCxl_keeps ?_ _ (by with_reducible assumption) | with_reducible apply grantCxl_keeps
    | refine grantGroups_keeps ?_ _ (by with_reducible assumption) | with_reducible apply grantGroups_keeps
    | refine grantHbm_keeps ?_ _ (by with_reducible assumption) | with_reducible apply grantHbm_keeps
    | refine grantQuota_keeps ?_ _ (by with_reducible assumption) | with_reducible apply grantQuota_keeps
    | refine grantTiles_keeps ?_ _ (by with_reducible assumption) | with_reducible apply grantTiles_keeps | with_reducible apply KeepsO.some
    | with_reducible exact KeepsO.none | with_reducible apply KeepsO.map | split
    | (intro _ hx; (first | show CtxOk _ | show TileOk _ | show Memory.wf _ = true); (repeat' first | exact hx | exact CtxOk.noSave rfl | split | dsimp only); done)
    | intro _ _ _ | intro _ _ | intro _ | dsimp only | (rw [id_eq]) | with_reducible refine Keeps.put ?_ (fun x => x) (fun x => x)

theorem cmdGrant_keeps {s0 : State} {s : State} {acc : Accessor} (kp : Keeps s0 s) :
    Keeps s0 (cmdGrant s acc) := by
  unfold cmdGrant
  try dsimp only
  repeat' first
    | with_reducible assumption | with_reducible apply State.finish_keeps | with_reducible apply cloCmd_keeps
    | refine grant_keeps ?_ _ (by with_reducible assumption) | with_reducible apply grant_keeps | split
    | (intro _ hx; (first | show CtxOk _ | show TileOk _ | show Memory.wf _ = true); (repeat' first | exact hx | exact CtxOk.noSave rfl | split | dsimp only); done)
    | intro _ _ _ | intro _ _ | intro _ | dsimp only | (rw [id_eq]) | with_reducible refine Keeps.put ?_ (fun x => x) (fun x => x)

theorem execGrant_keeps {s0 : State} {acc : Accessor} {s : State} (kp : Keeps s0 s) :
    KeepsN s0 (execGrant acc s) := by
  unfold execGrant
  try dsimp only
  repeat' first
    | with_reducible assumption | with_reducible apply cmdGrant_keeps | with_reducible apply KeepsN.next | with_reducible apply KeepsN.fault
    | split
    | (intro _ hx; (first | show CtxOk _ | show TileOk _ | show Memory.wf _ = true); (repeat' first | exact hx | exact CtxOk.noSave rfl | split | dsimp only); done)
    | intro _ _ _ | intro _ _ | intro _ | dsimp only | (rw [id_eq]) | with_reducible refine Keeps.put ?_ (fun x => x) (fun x => x)

theorem releaseTiles_keeps {s0 : State} {s : State} {k : Nat} {rows : Nat} (kp : Keeps s0 s) :
    Keeps s0 (releaseTiles s k rows) := by
  unfold releaseTiles
  try dsimp only
  repeat' first
    | with_reducible assumption | with_reducible apply State.dropClaims_keeps | with_reducible apply State.dropTile_keeps
    | with_reducible apply State.each_keeps | with_reducible apply State.freeFrame_keeps | with_reducible apply State.modCtx_keeps | split
    | exact fun _ (hx : CtxOk _) => hx
    | (intro _ hx; (first | show CtxOk _ | show TileOk _ | show Memory.wf _ = true); (repeat' first | exact hx | exact CtxOk.noSave rfl | split | dsimp only); done)
    | intro _ _ _ | intro _ _ | intro _ | dsimp only | (rw [id_eq]) | with_reducible refine Keeps.put ?_ (fun x => x) (fun x => x)

theorem release_keeps {s0 : State} {s : State} {k : Nat} {type : Nat} {a1 : Nat} {a2 : Nat} (kp : Keeps s0 s) :
    Keeps s0 (release s k type a1 a2) := by
  unfold release
  try dsimp only
  repeat' first
    | with_reducible assumption | with_reducible apply State.dropGroups_keeps | with_reducible apply State.dropLinks_keeps
    | with_reducible apply State.unbindRegion_keeps | with_reducible apply dropFrames_keeps | with_reducible apply freeRecords_keeps
    | with_reducible apply keepQuota_keeps | with_reducible apply releaseTiles_keeps | split
    | (intro _ hx; (first | show CtxOk _ | show TileOk _ | show Memory.wf _ = true); (repeat' first | exact hx | exact CtxOk.noSave rfl | split | dsimp only); done)
    | intro _ _ _ | intro _ _ | intro _ | dsimp only | (rw [id_eq]) | with_reducible refine Keeps.put ?_ (fun x => x) (fun x => x)

theorem cmdRelease_keeps {s0 : State} {s : State} {acc : Accessor} (kp : Keeps s0 s) :
    Keeps s0 (cmdRelease s acc) := by
  unfold cmdRelease
  try dsimp only
  repeat' first
    | with_reducible assumption | with_reducible apply State.finish_keeps | with_reducible apply cloCmd_keeps | with_reducible apply release_keeps
    | split
    | (intro _ hx; (first | show CtxOk _ | show TileOk _ | show Memory.wf _ = true); (repeat' first | exact hx | exact CtxOk.noSave rfl | split | dsimp only); done)
    | intro _ _ _ | intro _ _ | intro _ | dsimp only | (rw [id_eq]) | with_reducible refine Keeps.put ?_ (fun x => x) (fun x => x)

theorem execRelease_keeps {s0 : State} {acc : Accessor} {s : State} (kp : Keeps s0 s) :
    KeepsN s0 (execRelease acc s) := by
  unfold execRelease
  try dsimp only
  repeat' first
    | with_reducible assumption | with_reducible apply cmdRelease_keeps | with_reducible apply KeepsN.next | with_reducible apply KeepsN.fault
    | split
    | (intro _ hx; (first | show CtxOk _ | show TileOk _ | show Memory.wf _ = true); (repeat' first | exact hx | exact CtxOk.noSave rfl | split | dsimp only); done)
    | intro _ _ _ | intro _ _ | intro _ | dsimp only | (rw [id_eq]) | with_reducible refine Keeps.put ?_ (fun x => x) (fun x => x)

theorem retireTile_keeps {s0 : State} {s : State} {t : Nat} (kp : Keeps s0 s) :
    Keeps s0 (retireTile s t) := by
  unfold retireTile
  try dsimp only
  repeat' first
    | with_reducible assumption | with_reducible apply State.modTile_keeps | split | exact fun _ (hx : TileOk _) => hx
    | exact fun _ (hx : TileOk _) => ⟨Memory.write_wf _ _ _ hx.1, hx.2⟩ | exact fun _ (hx : TileOk _) => ⟨writeRanges_wf _ _ _ hx.1, hx.2⟩
    | exact fun _ (hx : TileOk _) => ⟨writeTensor_wf _ _ _ _ hx.1, hx.2⟩
    | (intro _ hx; (first | show CtxOk _ | show TileOk _ | show Memory.wf _ = true); (repeat' first | exact hx | exact CtxOk.noSave rfl | split | dsimp only); done)
    | intro _ _ _ | intro _ _ | intro _ | dsimp only | (rw [id_eq]) | with_reducible refine Keeps.put ?_ (fun x => x) (fun x => x)

theorem remapTile_keeps {s0 : State} {s : State} {k : Nat} {vt : Nat} {new : Nat} (kp : Keeps s0 s) :
    Keeps s0 (remapTile s k vt new) := by
  unfold remapTile
  try dsimp only
  repeat' first
    | with_reducible assumption | with_reducible apply State.clearTile_keeps | with_reducible apply State.giveTile_keeps
    | with_reducible apply State.modCtx_keeps | with_reducible apply retireTile_keeps | split | exact fun _ (hx : CtxOk _) => hx
    | (intro _ hx; (first | show CtxOk _ | show TileOk _ | show Memory.wf _ = true); (repeat' first | exact hx | exact CtxOk.noSave rfl | split | dsimp only); done)
    | intro _ _ _ | intro _ _ | intro _ | dsimp only | (rw [id_eq]) | with_reducible refine Keeps.put ?_ (fun x => x) (fun x => x)

theorem cmdRepair_keeps {s0 : State} {s : State} {acc : Accessor} (kp : Keeps s0 s) :
    Keeps s0 (cmdRepair s acc) := by
  unfold cmdRepair
  try dsimp only
  repeat' first
    | with_reducible assumption | with_reducible apply State.finish_keeps | with_reducible apply State.modCtx_keeps
    | with_reducible apply State.modTile_keeps | with_reducible apply cloCmd_keeps | with_reducible apply remapTile_keeps
    | with_reducible apply retireTile_keeps | split | exact fun _ (hx : CtxOk _) => hx | exact fun _ (hx : TileOk _) => hx
    | exact fun _ (hx : TileOk _) => ⟨Memory.write_wf _ _ _ hx.1, hx.2⟩ | exact fun _ (hx : TileOk _) => ⟨writeRanges_wf _ _ _ hx.1, hx.2⟩
    | exact fun _ (hx : TileOk _) => ⟨writeTensor_wf _ _ _ _ hx.1, hx.2⟩
    | (intro _ hx; (first | show CtxOk _ | show TileOk _ | show Memory.wf _ = true); (repeat' first | exact hx | exact CtxOk.noSave rfl | split | dsimp only); done)
    | intro _ _ _ | intro _ _ | intro _ | dsimp only | (rw [id_eq]) | with_reducible refine Keeps.put ?_ (fun x => x) (fun x => x)

theorem execRepair_keeps {s0 : State} {acc : Accessor} {s : State} (kp : Keeps s0 s) :
    KeepsN s0 (execRepair acc s) := by
  unfold execRepair
  try dsimp only
  repeat' first
    | with_reducible assumption | with_reducible apply cmdRepair_keeps | with_reducible apply KeepsN.next | with_reducible apply KeepsN.fault
    | split
    | (intro _ hx; (first | show CtxOk _ | show TileOk _ | show Memory.wf _ = true); (repeat' first | exact hx | exact CtxOk.noSave rfl | split | dsimp only); done)
    | intro _ _ _ | intro _ _ | intro _ | dsimp only | (rw [id_eq]) | with_reducible refine Keeps.put ?_ (fun x => x) (fun x => x)

theorem startBist_keeps {s0 : State} {s : State} {t : Nat} (kp : Keeps s0 s) :
    Keeps s0 (startBist s t) := by
  unfold startBist
  try dsimp only
  repeat' first
    | with_reducible assumption | with_reducible apply State.clearTile_keeps | with_reducible apply State.modTile_keeps
    | with_reducible apply State.pllStart_keeps | split | exact fun _ (hx : TileOk _) => hx
    | exact fun _ (hx : TileOk _) => ⟨Memory.write_wf _ _ _ hx.1, hx.2⟩ | exact fun _ (hx : TileOk _) => ⟨writeRanges_wf _ _ _ hx.1, hx.2⟩
    | exact fun _ (hx : TileOk _) => ⟨writeTensor_wf _ _ _ _ hx.1, hx.2⟩
    | (intro _ hx; (first | show CtxOk _ | show TileOk _ | show Memory.wf _ = true); (repeat' first | exact hx | exact CtxOk.noSave rfl | split | dsimp only); done)
    | intro _ _ _ | intro _ _ | intro _ | dsimp only | (rw [id_eq]) | with_reducible refine Keeps.put ?_ (fun x => x) (fun x => x)

theorem cmdTileBist_keeps {s0 : State} {s : State} {acc : Accessor} {queue : Bool} (kp : Keeps s0 s) :
    Keeps s0 (cmdTileBist s acc queue) := by
  unfold cmdTileBist
  try dsimp only
  repeat' first
    | with_reducible assumption | with_reducible apply State.finish_keeps | with_reducible apply State.modTile_keeps
    | with_reducible apply State.setBit_keeps | with_reducible apply cloCmd_keeps | with_reducible apply startBist_keeps | split
    | exact fun _ (hx : TileOk _) => hx | exact fun _ (hx : TileOk _) => ⟨Memory.write_wf _ _ _ hx.1, hx.2⟩
    | exact fun _ (hx : TileOk _) => ⟨writeRanges_wf _ _ _ hx.1, hx.2⟩ | exact fun _ (hx : TileOk _) => ⟨writeTensor_wf _ _ _ _ hx.1, hx.2⟩
    | (intro _ hx; (first | show CtxOk _ | show TileOk _ | show Memory.wf _ = true); (repeat' first | exact hx | exact CtxOk.noSave rfl | split | dsimp only); done)
    | intro _ _ _ | intro _ _ | intro _ | dsimp only | (rw [id_eq]) | with_reducible refine Keeps.put ?_ (fun x => x) (fun x => x)

theorem execTileBist_keeps {s0 : State} {acc : Accessor} {queue : Bool} {s : State} (kp : Keeps s0 s) :
    KeepsN s0 (execTileBist acc queue s) := by
  unfold execTileBist
  try dsimp only
  repeat' first
    | with_reducible assumption | with_reducible apply cmdTileBist_keeps | with_reducible apply KeepsN.next | with_reducible apply KeepsN.fault
    | split
    | (intro _ hx; (first | show CtxOk _ | show TileOk _ | show Memory.wf _ = true); (repeat' first | exact hx | exact CtxOk.noSave rfl | split | dsimp only); done)
    | intro _ _ _ | intro _ _ | intro _ | dsimp only | (rw [id_eq]) | with_reducible refine Keeps.put ?_ (fun x => x) (fun x => x)

theorem refreshBistQueued_keeps {s0 : State} {s : State} (kp : Keeps s0 s) :
    Keeps s0 (refreshBistQueued s) := by
  unfold refreshBistQueued
  try dsimp only
  repeat' first
    | with_reducible assumption | with_reducible apply State.setBit_keeps | split
    | (intro _ hx; (first | show CtxOk _ | show TileOk _ | show Memory.wf _ = true); (repeat' first | exact hx | exact CtxOk.noSave rfl | split | dsimp only); done)
    | intro _ _ _ | intro _ _ | intro _ | dsimp only | (rw [id_eq]) | with_reducible refine Keeps.put ?_ (fun x => x) (fun x => x)

theorem execTileBistQueuedStart_keeps {s0 : State} {t : TileIx} {s : State} (kp : Keeps s0 s) :
    KeepsN s0 (execTileBistQueuedStart t s) := by
  unfold execTileBistQueuedStart
  try dsimp only
  repeat' first
    | with_reducible assumption | with_reducible apply refreshBistQueued_keeps | with_reducible apply startBist_keeps
    | with_reducible apply KeepsN.next | with_reducible apply KeepsN.fault | split
    | (intro _ hx; (first | show CtxOk _ | show TileOk _ | show Memory.wf _ = true); (repeat' first | exact hx | exact CtxOk.noSave rfl | split | dsimp only); done)
    | intro _ _ _ | intro _ _ | intro _ | dsimp only | (rw [id_eq]) | with_reducible refine Keeps.put ?_ (fun x => x) (fun x => x)

theorem execTileBistDone_keeps {s0 : State} {t : TileIx} {pass : Bool} {s : State} (kp : Keeps s0 s) :
    KeepsN s0 (execTileBistDone t pass s) := by
  unfold execTileBistDone
  try dsimp only
  repeat' first
    | with_reducible assumption | with_reducible apply State.modTile_keeps | with_reducible apply KeepsN.next | with_reducible apply KeepsN.fault
    | split | exact fun _ (hx : TileOk _) => hx | exact fun _ (hx : TileOk _) => ⟨Memory.write_wf _ _ _ hx.1, hx.2⟩
    | exact fun _ (hx : TileOk _) => ⟨writeRanges_wf _ _ _ hx.1, hx.2⟩ | exact fun _ (hx : TileOk _) => ⟨writeTensor_wf _ _ _ _ hx.1, hx.2⟩
    | (intro _ hx; (first | show CtxOk _ | show TileOk _ | show Memory.wf _ = true); (repeat' first | exact hx | exact CtxOk.noSave rfl | split | dsimp only); done)
    | intro _ _ _ | intro _ _ | intro _ | dsimp only | (rw [id_eq]) | with_reducible refine Keeps.put ?_ (fun x => x) (fun x => x)

theorem dropLoad_keeps {s0 : State} {s : State} {k : Nat} (kp : Keeps s0 s) :
    Keeps s0 (dropLoad s k) := by
  unfold dropLoad
  try dsimp only
  repeat' first
    | with_reducible assumption | with_reducible apply State.setBit_keeps | with_reducible apply State.setFld_keeps | split
    | (intro _ hx; (first | show CtxOk _ | show TileOk _ | show Memory.wf _ = true); (repeat' first | exact hx | exact CtxOk.noSave rfl | split | dsimp only); done)
    | intro _ _ _ | intro _ _ | intro _ | dsimp only | (rw [id_eq]) | with_reducible refine Keeps.put ?_ (fun x => x) (fun x => x)

theorem killCtx_keeps {s0 : State} {s : State} {k : Nat} (kp : Keeps s0 s) :
    Keeps s0 (killCtx s k) := by
  unfold killCtx
  try dsimp only
  repeat' first
    | with_reducible assumption | with_reducible apply State.abandon_keeps | with_reducible apply dropApers_keeps
    | with_reducible apply dropLoad_keeps | with_reducible apply endPlan_keeps | with_reducible apply floodAbort_keeps | split
    | (intro _ hx; (first | show CtxOk _ | show TileOk _ | show Memory.wf _ = true); (repeat' first | exact hx | exact CtxOk.noSave rfl | split | dsimp only); done)
    | intro _ _ _ | intro _ _ | intro _ | dsimp only | (rw [id_eq]) | with_reducible refine Keeps.put ?_ (fun x => x) (fun x => x)

theorem freeHoldings_keeps {s0 : State} {s : State} {k : Nat} (kp : Keeps s0 s) :
    Keeps s0 (freeHoldings s k) := by
  unfold freeHoldings
  try dsimp only
  repeat' first
    | with_reducible assumption | with_reducible apply State.dropGroups_keeps | with_reducible apply State.dropTile_keeps
    | with_reducible apply State.each_keeps | with_reducible apply State.freeFrame_keeps | with_reducible apply State.unbindRegion_keeps
    | with_reducible apply dropFrames_keeps | with_reducible apply freeRecords_keeps | with_reducible apply retireTile_keeps | split
    | (intro _ hx; (first | show CtxOk _ | show TileOk _ | show Memory.wf _ = true); (repeat' first | exact hx | exact CtxOk.noSave rfl | split | dsimp only); done)
    | intro _ _ _ | intro _ _ | intro _ | dsimp only | (rw [id_eq]) | with_reducible refine Keeps.put ?_ (fun x => x) (fun x => x)

theorem quarantineSlot_keeps {s0 : State} {s : State} {k : Nat} (kp : Keeps s0 s) :
    Keeps s0 (quarantineSlot s k) := by
  unfold quarantineSlot
  try dsimp only
  repeat' first
    | with_reducible assumption | with_reducible apply State.modCtx_keeps | with_reducible apply freePart_keeps
    | with_reducible apply startReleasing_keeps | split | exact fun _ (hx : CtxOk _) => hx
    | (intro _ hx; (first | show CtxOk _ | show TileOk _ | show Memory.wf _ = true); (repeat' first | exact hx | exact CtxOk.noSave rfl | split | dsimp only); done)
    | intro _ _ _ | intro _ _ | intro _ | dsimp only | (rw [id_eq]) | with_reducible refine Keeps.put ?_ (fun x => x) (fun x => x)

theorem cmdDestroy_keeps {s0 : State} {s : State} {acc : Accessor} (kp : Keeps s0 s) :
    Keeps s0 (cmdDestroy s acc) := by
  unfold cmdDestroy
  try dsimp only
  repeat' first
    | with_reducible assumption | with_reducible apply State.finish_keeps | with_reducible apply cloCmd_keeps
    | with_reducible apply freeHoldings_keeps | with_reducible apply killCtx_keeps | with_reducible apply quarantineSlot_keeps | split
    | (intro _ hx; (first | show CtxOk _ | show TileOk _ | show Memory.wf _ = true); (repeat' first | exact hx | exact CtxOk.noSave rfl | split | dsimp only); done)
    | intro _ _ _ | intro _ _ | intro _ | dsimp only | (rw [id_eq]) | with_reducible refine Keeps.put ?_ (fun x => x) (fun x => x)

theorem execDestroy_keeps {s0 : State} {acc : Accessor} {s : State} (kp : Keeps s0 s) :
    KeepsN s0 (execDestroy acc s) := by
  unfold execDestroy
  try dsimp only
  repeat' first
    | with_reducible assumption | with_reducible apply cmdDestroy_keeps | with_reducible apply KeepsN.next | with_reducible apply KeepsN.fault
    | split
    | (intro _ hx; (first | show CtxOk _ | show TileOk _ | show Memory.wf _ = true); (repeat' first | exact hx | exact CtxOk.noSave rfl | split | dsimp only); done)
    | intro _ _ _ | intro _ _ | intro _ | dsimp only | (rw [id_eq]) | with_reducible refine Keeps.put ?_ (fun x => x) (fun x => x)

theorem execQuarantineEnd_keeps {s0 : State} {k : CtxSlot} {s : State} (kp : Keeps s0 s) :
    KeepsN s0 (execQuarantineEnd k s) := by
  unfold execQuarantineEnd
  try dsimp only
  repeat' first
    | with_reducible assumption | with_reducible apply State.setCtx_keeps | with_reducible apply KeepsN.next | with_reducible apply KeepsN.fault
    | split | exact fun _ (hx : CtxOk _) => hx
    | (intro _ hx; (first | show CtxOk _ | show TileOk _ | show Memory.wf _ = true); (repeat' first | exact hx | exact CtxOk.noSave rfl | split | dsimp only); done)
    | intro _ _ _ | intro _ _ | intro _ | dsimp only | (rw [id_eq]) | with_reducible refine Keeps.put ?_ (fun x => x) (fun x => x)

theorem startPreempt_keeps {s0 : State} {s : State} {k : Nat} {d : Nat} (kp : Keeps s0 s) :
    Keeps s0 (startPreempt s k d) := by
  unfold startPreempt
  try dsimp only
  repeat' first
    | with_reducible assumption | with_reducible apply State.modCtx_keeps | with_reducible apply State.modPlan_keeps
    | with_reducible apply actPreemptPrepare_keeps | with_reducible apply enterSaving_keeps | split | exact fun _ (hx : CtxOk _) => hx
    | (intro _ hx; (first | show CtxOk _ | show TileOk _ | show Memory.wf _ = true); (repeat' first | exact hx | exact CtxOk.noSave rfl | split | dsimp only); done)
    | intro _ _ _ | intro _ _ | intro _ | dsimp only | (rw [id_eq]) | with_reducible refine Keeps.put ?_ (fun x => x) (fun x => x)

theorem cmdPreempt_keeps {s0 : State} {s : State} {acc : Accessor} (kp : Keeps s0 s) :
    Keeps s0 (cmdPreempt s acc) := by
  unfold cmdPreempt
  try dsimp only
  repeat' first
    | with_reducible assumption | with_reducible apply cloCmd_keeps | with_reducible apply startPreempt_keeps | split
    | (intro _ hx; (first | show CtxOk _ | show TileOk _ | show Memory.wf _ = true); (repeat' first | exact hx | exact CtxOk.noSave rfl | split | dsimp only); done)
    | intro _ _ _ | intro _ _ | intro _ | dsimp only | (rw [id_eq]) | with_reducible refine Keeps.put ?_ (fun x => x) (fun x => x)

theorem execPreempt_keeps {s0 : State} {acc : Accessor} {s : State} (kp : Keeps s0 s) :
    KeepsN s0 (execPreempt acc s) := by
  unfold execPreempt
  try dsimp only
  repeat' first
    | with_reducible assumption | with_reducible apply cmdPreempt_keeps | with_reducible apply KeepsN.next | with_reducible apply KeepsN.fault
    | split
    | (intro _ hx; (first | show CtxOk _ | show TileOk _ | show Memory.wf _ = true); (repeat' first | exact hx | exact CtxOk.noSave rfl | split | dsimp only); done)
    | intro _ _ _ | intro _ _ | intro _ | dsimp only | (rw [id_eq]) | with_reducible refine Keeps.put ?_ (fun x => x) (fun x => x)

theorem moveTile_keeps {s0 : State} {s : State} {j : Nat} {t : Nat} (kp : Keeps s0 s) :
    Keeps s0 (moveTile s j t) := by
  unfold moveTile
  try dsimp only
  repeat' first
    | with_reducible assumption | with_reducible apply State.clearTile_keeps | with_reducible apply State.dropFlits_keeps
    | with_reducible apply State.dropTile_keeps | with_reducible apply State.giveTile_keeps | with_reducible apply State.modTile_keeps | split
    | exact fun _ (hx : TileOk _) => hx | exact fun _ (hx : TileOk _) => ⟨Memory.write_wf _ _ _ hx.1, hx.2⟩
    | exact fun _ (hx : TileOk _) => ⟨writeRanges_wf _ _ _ hx.1, hx.2⟩ | exact fun _ (hx : TileOk _) => ⟨writeTensor_wf _ _ _ _ hx.1, hx.2⟩
    | (intro _ hx; (first | show CtxOk _ | show TileOk _ | show Memory.wf _ = true); (repeat' first | exact hx | exact CtxOk.noSave rfl | split | dsimp only); done)
    | intro _ _ _ | intro _ _ | intro _ | dsimp only | (rw [id_eq]) | with_reducible refine Keeps.put ?_ (fun x => x) (fun x => x)

theorem moveTiles_keeps {s0 : State} {s : State} {k : Nat} {j : Nat} (kp : Keeps s0 s) :
    Keeps s0 (moveTiles s k j) := by
  unfold moveTiles
  try dsimp only
  repeat' first
    | with_reducible assumption | with_reducible apply State.each_keeps | with_reducible apply State.modCtx_keeps
    | with_reducible apply moveTile_keeps | split | exact fun _ (hx : CtxOk _) => hx
    | (intro _ hx; (first | show CtxOk _ | show TileOk _ | show Memory.wf _ = true); (repeat' first | exact hx | exact CtxOk.noSave rfl | split | dsimp only); done)
    | intro _ _ _ | intro _ _ | intro _ | dsimp only | (rw [id_eq]) | with_reducible refine Keeps.put ?_ (fun x => x) (fun x => x)

theorem moveHbm_keeps {s0 : State} {s : State} {k : Nat} {j : Nat} (kp : Keeps s0 s) :
    Keeps s0 (moveHbm s k j) := by
  unfold moveHbm
  try dsimp only
  repeat' first
    | with_reducible assumption | with_reducible apply State.modCtx_keeps | split | exact fun _ (hx : CtxOk _) => hx
    | (intro _ hx; (first | show CtxOk _ | show TileOk _ | show Memory.wf _ = true); (repeat' first | exact hx | exact CtxOk.noSave rfl | split | dsimp only); done)
    | intro _ _ _ | intro _ _ | intro _ | dsimp only | (rw [id_eq]) | with_reducible refine Keeps.put ?_ (fun x => x) (fun x => x)

theorem moveCxl_keeps {s0 : State} {s : State} {k : Nat} {j : Nat} (kp : Keeps s0 s) :
    Keeps s0 (moveCxl s k j) := by
  unfold moveCxl
  try dsimp only
  repeat' first
    | with_reducible assumption | with_reducible apply State.modCtx_keeps | split | exact fun _ (hx : CtxOk _) => hx
    | (intro _ hx; (first | show CtxOk _ | show TileOk _ | show Memory.wf _ = true); (repeat' first | exact hx | exact CtxOk.noSave rfl | split | dsimp only); done)
    | intro _ _ _ | intro _ _ | intro _ | dsimp only | (rw [id_eq]) | with_reducible refine Keeps.put ?_ (fun x => x) (fun x => x)

theorem moveQuota_keeps {s0 : State} {s : State} {k : Nat} {j : Nat} (kp : Keeps s0 s) :
    Keeps s0 (moveQuota s k j) := by
  unfold moveQuota
  try dsimp only
  repeat' first
    | with_reducible assumption | with_reducible apply State.modCtx_keeps | with_reducible apply freeRecords_keeps | split
    | exact fun _ (hx : CtxOk _) => hx
    | (intro _ hx; (first | show CtxOk _ | show TileOk _ | show Memory.wf _ = true); (repeat' first | exact hx | exact CtxOk.noSave rfl | split | dsimp only); done)
    | intro _ _ _ | intro _ _ | intro _ | dsimp only | (rw [id_eq]) | with_reducible refine Keeps.put ?_ (fun x => x) (fun x => x)

theorem moveLinks_keeps {s0 : State} {s : State} {k : Nat} {j : Nat} (kp : Keeps s0 s) :
    Keeps s0 (moveLinks s k j) := by
  unfold moveLinks
  try dsimp only
  repeat' first
    | with_reducible assumption | with_reducible apply State.modCtx_keeps | split | exact fun _ (hx : CtxOk _) => hx
    | (intro _ hx; (first | show CtxOk _ | show TileOk _ | show Memory.wf _ = true); (repeat' first | exact hx | exact CtxOk.noSave rfl | split | dsimp only); done)
    | intro _ _ _ | intro _ _ | intro _ | dsimp only | (rw [id_eq]) | with_reducible refine Keeps.put ?_ (fun x => x) (fun x => x)

theorem moveTickets_keeps {s0 : State} {s : State} {k : Nat} {j : Nat} {types : Nat} (kp : Keeps s0 s) :
    Keeps s0 (moveTickets s k j types) := by
  unfold moveTickets
  try dsimp only
  repeat' first
    | with_reducible assumption | with_reducible apply State.bindRegion_keeps | with_reducible apply State.each_keeps
    | with_reducible apply State.giveGroups_keeps | with_reducible apply moveCxl_keeps | with_reducible apply moveHbm_keeps
    | with_reducible apply moveLinks_keeps | with_reducible apply moveQuota_keeps | with_reducible apply moveTiles_keeps | split
    | (intro _ hx; (first | show CtxOk _ | show TileOk _ | show Memory.wf _ = true); (repeat' first | exact hx | exact CtxOk.noSave rfl | split | dsimp only); done)
    | intro _ _ _ | intro _ _ | intro _ | dsimp only | (rw [id_eq]) | with_reducible refine Keeps.put ?_ (fun x => x) (fun x => x)

theorem cmdRebind_keeps {s0 : State} {s : State} {acc : Accessor} (kp : Keeps s0 s) :
    Keeps s0 (cmdRebind s acc) := by
  unfold cmdRebind
  try dsimp only
  repeat' first
    | with_reducible assumption | with_reducible apply State.finish_keeps | refine State.takeFrames_keeps ?_ _ (by with_reducible assumption)
    | with_reducible apply cloCmd_keeps | with_reducible apply freeHoldings_keeps | with_reducible apply killCtx_keeps
    | with_reducible apply moveTickets_keeps | with_reducible apply openCtx_keeps | with_reducible apply quarantineSlot_keeps
    | with_reducible apply startPreempt_keeps | split
    | (intro _ hx; (first | show CtxOk _ | show TileOk _ | show Memory.wf _ = true); (repeat' first | exact hx | exact CtxOk.noSave rfl | split | dsimp only); done)
    | intro _ _ _ | intro _ _ | intro _ | dsimp only | (rw [id_eq]) | with_reducible refine Keeps.put ?_ (fun x => x) (fun x => x)

theorem execRebind_keeps {s0 : State} {acc : Accessor} {s : State} (kp : Keeps s0 s) :
    KeepsN s0 (execRebind acc s) := by
  unfold execRebind
  try dsimp only
  repeat' first
    | with_reducible assumption | with_reducible apply cmdRebind_keeps | with_reducible apply KeepsN.next | with_reducible apply KeepsN.fault
    | split
    | (intro _ hx; (first | show CtxOk _ | show TileOk _ | show Memory.wf _ = true); (repeat' first | exact hx | exact CtxOk.noSave rfl | split | dsimp only); done)
    | intro _ _ _ | intro _ _ | intro _ | dsimp only | (rw [id_eq]) | with_reducible refine Keeps.put ?_ (fun x => x) (fun x => x)

theorem execFrameZero_keeps {s0 : State} {cxl : Bool} {m : StackIx} {frame : Nat} {s : State} (kp : Keeps s0 s) :
    KeepsN s0 (execFrameZero cxl m frame s) := by
  unfold execFrameZero
  try dsimp only
  repeat' first
    | with_reducible assumption | with_reducible apply State.frameClear_keeps | with_reducible apply State.modCxl_keeps
    | with_reducible apply State.modHbm_keeps | with_reducible apply KeepsN.next | with_reducible apply KeepsN.fault | split
    | exact fun _ hx => (show Memory.wf _ = true from hx) | exact fun _ hx => Memory.write_wf _ _ _ hx | exact fun _ hx => Memory.clear_wf _ _ _ hx
    | exact fun _ hx => Memory.copy_wf _ _ _ _ _ hx
    | (intro _ hx; (first | show CtxOk _ | show TileOk _ | show Memory.wf _ = true); (repeat' first | exact hx | exact CtxOk.noSave rfl | split | dsimp only); done)
    | intro _ _ _ | intro _ _ | intro _ | dsimp only | (rw [id_eq]) | with_reducible refine Keeps.put ?_ (fun x => x) (fun x => x)

end Sys2Proof.Machine
end

