-- ==== Sys2Proof/Laws/KeepsTime.lean ====
section
/-! SUPPORT. What each operation of Machine/Time.lean keeps. -/

namespace Sys2Proof.Machine

open Sys2Proof.Safety

set_option linter.all false
set_option Elab.async false

theorem State.chooseParent_keeps {s0 : State} {s : State} (kp : Keeps s0 s) :
    Keeps s0 (State.chooseParent s) := by
  unfold State.chooseParent
  try dsimp only
  repeat' first
    | with_reducible assumption | split
    | (intro _ hx; (first | show CtxOk _ | show TileOk _ | show Memory.wf _ = true); (repeat' first | exact hx | exact CtxOk.noSave rfl | split | dsimp only); done)
    | intro _ _ _ | intro _ _ | intro _ | dsimp only | (rw [id_eq]) | with_reducible refine Keeps.put ?_ (fun x => x) (fun x => x)

theorem mtSet_keeps {s0 : State} {s : State} {v : Word} (kp : Keeps s0 s) :
    Keeps s0 (mtSet s v) := by
  unfold mtSet
  try dsimp only
  repeat' first
    | with_reducible assumption | with_reducible apply notice_keeps | split
    | (intro _ hx; (first | show CtxOk _ | show TileOk _ | show Memory.wf _ = true); (repeat' first | exact hx | exact CtxOk.noSave rfl | split | dsimp only); done)
    | intro _ _ _ | intro _ _ | intro _ | dsimp only | (rw [id_eq]) | with_reducible refine Keeps.put ?_ (fun x => x) (fun x => x)

theorem execTimMtSet_keeps {s0 : State} {_acc : Accessor} {value : Word} {s : State} (kp : Keeps s0 s) :
    KeepsN s0 (execTimMtSet _acc value s) := by
  unfold execTimMtSet
  try dsimp only
  repeat' first
    | with_reducible assumption | with_reducible apply mtSet_keeps | with_reducible apply onBlock_keeps | with_reducible apply KeepsN.next
    | with_reducible apply KeepsN.fault | split
    | (intro _ hx; (first | show CtxOk _ | show TileOk _ | show Memory.wf _ = true); (repeat' first | exact hx | exact CtxOk.noSave rfl | split | dsimp only); done)
    | intro _ _ _ | intro _ _ | intro _ | dsimp only | (rw [id_eq]) | with_reducible refine Keeps.put ?_ (fun x => x) (fun x => x)

theorem rootEnSet_keeps {s0 : State} {s : State} {v : Word} (kp : Keeps s0 s) :
    Keeps s0 (rootEnSet s v) := by
  unfold rootEnSet
  try dsimp only
  repeat' first
    | with_reducible assumption | with_reducible apply State.chooseParent_keeps | with_reducible apply State.setBit_keeps | split
    | (intro _ hx; (first | show CtxOk _ | show TileOk _ | show Memory.wf _ = true); (repeat' first | exact hx | exact CtxOk.noSave rfl | split | dsimp only); done)
    | intro _ _ _ | intro _ _ | intro _ | dsimp only | (rw [id_eq]) | with_reducible refine Keeps.put ?_ (fun x => x) (fun x => x)

theorem execRootEnWrite_keeps {s0 : State} {_acc : Accessor} {value : Word} {s : State} (kp : Keeps s0 s) :
    KeepsN s0 (execRootEnWrite _acc value s) := by
  unfold execRootEnWrite
  try dsimp only
  repeat' first
    | with_reducible assumption | with_reducible apply onBlock_keeps | with_reducible apply rootEnSet_keeps | with_reducible apply KeepsN.next
    | with_reducible apply KeepsN.fault | split
    | (intro _ hx; (first | show CtxOk _ | show TileOk _ | show Memory.wf _ = true); (repeat' first | exact hx | exact CtxOk.noSave rfl | split | dsimp only); done)
    | intro _ _ _ | intro _ _ | intro _ | dsimp only | (rw [id_eq]) | with_reducible refine Keeps.put ?_ (fun x => x) (fun x => x)

theorem execPpsEdge_keeps {s0 : State} {s : State} (kp : Keeps s0 s) :
    KeepsN s0 (execPpsEdge s) := by
  unfold execPpsEdge
  try dsimp only
  repeat' first
    | with_reducible assumption | with_reducible apply State.setBit_keeps | with_reducible apply State.setRg_keeps
    | with_reducible apply KeepsN.next | with_reducible apply KeepsN.fault | split
    | (intro _ hx; (first | show CtxOk _ | show TileOk _ | show Memory.wf _ = true); (repeat' first | exact hx | exact CtxOk.noSave rfl | split | dsimp only); done)
    | intro _ _ _ | intro _ _ | intro _ | dsimp only | (rw [id_eq]) | with_reducible refine Keeps.put ?_ (fun x => x) (fun x => x)

theorem execMtSlewTick_keeps {s0 : State} {s : State} (kp : Keeps s0 s) :
    KeepsN s0 (execMtSlewTick s) := by
  unfold execMtSlewTick
  try dsimp only
  repeat' first
    | with_reducible assumption | with_reducible apply idleTick_keeps | with_reducible apply KeepsN.next | with_reducible apply KeepsN.fault
    | split
    | (intro _ hx; (first | show CtxOk _ | show TileOk _ | show Memory.wf _ = true); (repeat' first | exact hx | exact CtxOk.noSave rfl | split | dsimp only); done)
    | intro _ _ _ | intro _ _ | intro _ | dsimp only | (rw [id_eq]) | with_reducible refine Keeps.put ?_ (fun x => x) (fun x => x)

theorem execFrostTimeout_keeps {s0 : State} {k : CtxSlot} {s : State} (kp : Keeps s0 s) :
    KeepsN s0 (execFrostTimeout k s) := by
  unfold execFrostTimeout
  try dsimp only
  repeat' first
    | with_reducible assumption | with_reducible apply against_keeps | with_reducible apply KeepsN.next | with_reducible apply KeepsN.fault | split
    | (intro _ hx; (first | show CtxOk _ | show TileOk _ | show Memory.wf _ = true); (repeat' first | exact hx | exact CtxOk.noSave rfl | split | dsimp only); done)
    | intro _ _ _ | intro _ _ | intro _ | dsimp only | (rw [id_eq]) | with_reducible refine Keeps.put ?_ (fun x => x) (fun x => x)

theorem ctxResume_keeps {s0 : State} {s : State} {acc : Accessor} {k : Nat} {v : Word} (kp : Keeps s0 s) :
    Keeps s0 (ctxResume s acc k v) := by
  unfold ctxResume
  try dsimp only
  repeat' first
    | with_reducible assumption | with_reducible apply State.modPlan_keeps | split
    | (intro _ hx; (first | show CtxOk _ | show TileOk _ | show Memory.wf _ = true); (repeat' first | exact hx | exact CtxOk.noSave rfl | split | dsimp only); done)
    | intro _ _ _ | intro _ _ | intro _ | dsimp only | (rw [id_eq]) | with_reducible refine Keeps.put ?_ (fun x => x) (fun x => x)

theorem execTimCtxResume_keeps {s0 : State} {acc : Accessor} {k : CtxSlot} {value : Word} {s : State} (kp : Keeps s0 s) :
    KeepsN s0 (execTimCtxResume acc k value s) := by
  unfold execTimCtxResume
  try dsimp only
  repeat' first
    | with_reducible assumption | with_reducible apply ctxResume_keeps | with_reducible apply onBlock_keeps | with_reducible apply KeepsN.next
    | with_reducible apply KeepsN.fault | split
    | (intro _ hx; (first | show CtxOk _ | show TileOk _ | show Memory.wf _ = true); (repeat' first | exact hx | exact CtxOk.noSave rfl | split | dsimp only); done)
    | intro _ _ _ | intro _ _ | intro _ | dsimp only | (rw [id_eq]) | with_reducible refine Keeps.put ?_ (fun x => x) (fun x => x)

end Sys2Proof.Machine
end

