-- ==== Sys2Proof/Laws/KeepsLinks.lean ====
section
/-! SUPPORT. What each operation of Machine/Links.lean keeps. -/

namespace Sys2Proof.Machine

open Sys2Proof.Safety

set_option linter.all false
set_option Elab.async false

theorem State.loseLink_keeps {s0 : State} {s : State} {l : Nat} (kp : Keeps s0 s) :
    Keeps s0 (State.loseLink s l) := by
  unfold State.loseLink
  try dsimp only
  repeat' first
    | with_reducible assumption | with_reducible apply State.each_keeps | with_reducible apply State.freeFlits_keeps
    | with_reducible apply State.modLink_keeps | split
    | (intro _ hx; (first | show CtxOk _ | show TileOk _ | show Memory.wf _ = true); (repeat' first | exact hx | exact CtxOk.noSave rfl | split | dsimp only); done)
    | intro _ _ _ | intro _ _ | intro _ | dsimp only | (rw [id_eq]) | with_reducible refine Keeps.put ?_ (fun x => x) (fun x => x)

theorem failedLink_keeps {s0 : State} {s : State} {l : Nat} (kp : Keeps s0 s) :
    Keeps s0 (failedLink s l) := by
  unfold failedLink
  try dsimp only
  repeat' first
    | with_reducible assumption | with_reducible apply State.each_keeps | with_reducible apply against_keeps
    | with_reducible apply floodAbort_keeps | split
    | (intro _ hx; (first | show CtxOk _ | show TileOk _ | show Memory.wf _ = true); (repeat' first | exact hx | exact CtxOk.noSave rfl | split | dsimp only); done)
    | intro _ _ _ | intro _ _ | intro _ | dsimp only | (rw [id_eq]) | with_reducible refine Keeps.put ?_ (fun x => x) (fun x => x)

theorem leaveUp_keeps {s0 : State} {s : State} {l : Nat} {f : Link → Link} (kp : Keeps s0 s) :
    Keeps s0 (leaveUp s l f) := by
  unfold leaveUp
  try dsimp only
  repeat' first
    | with_reducible assumption | with_reducible apply State.chooseParent_keeps | with_reducible apply State.loseLink_keeps
    | with_reducible apply State.modLink_keeps | with_reducible apply failedLink_keeps | with_reducible apply hf | split
    | (intro _ hx; (first | show CtxOk _ | show TileOk _ | show Memory.wf _ = true); (repeat' first | exact hx | exact CtxOk.noSave rfl | split | dsimp only); done)
    | intro _ _ _ | intro _ _ | intro _ | dsimp only | (rw [id_eq]) | with_reducible refine Keeps.put ?_ (fun x => x) (fun x => x)

theorem goDown_keeps {s0 : State} {s : State} {l : Nat} {reason : Nat} (kp : Keeps s0 s) :
    Keeps s0 (goDown s l reason) := by
  unfold goDown
  try dsimp only
  repeat' first
    | with_reducible assumption | with_reducible apply leaveUp_keeps | split
    | (intro _ hx; (first | show CtxOk _ | show TileOk _ | show Memory.wf _ = true); (repeat' first | exact hx | exact CtxOk.noSave rfl | split | dsimp only); done)
    | intro _ _ _ | intro _ _ | intro _ | dsimp only | (rw [id_eq]) | with_reducible refine Keeps.put ?_ (fun x => x) (fun x => x)

theorem sendRos_keeps {s0 : State} {s : State} {l : Nat} {full : Bool} (kp : Keeps s0 s) :
    Keeps s0 (sendRos s l full) := by
  unfold sendRos
  try dsimp only
  repeat' first
    | with_reducible assumption | with_reducible apply State.emit_keeps | split
    | (intro _ hx; (first | show CtxOk _ | show TileOk _ | show Memory.wf _ = true); (repeat' first | exact hx | exact CtxOk.noSave rfl | split | dsimp only); done)
    | intro _ _ _ | intro _ _ | intro _ | dsimp only | (rw [id_eq]) | with_reducible refine Keeps.put ?_ (fun x => x) (fun x => x)

theorem startFull_keeps {s0 : State} {s : State} {l : Nat} (kp : Keeps s0 s) :
    Keeps s0 (startFull s l) := by
  unfold startFull
  try dsimp only
  repeat' first
    | with_reducible assumption | with_reducible apply State.addFld_keeps | with_reducible apply State.setBit_keeps
    | with_reducible apply leaveUp_keeps | with_reducible apply sendRos_keeps | split
    | (intro _ hx; (first | show CtxOk _ | show TileOk _ | show Memory.wf _ = true); (repeat' first | exact hx | exact CtxOk.noSave rfl | split | dsimp only); done)
    | intro _ _ _ | intro _ _ | intro _ | dsimp only | (rw [id_eq]) | with_reducible refine Keeps.put ?_ (fun x => x) (fun x => x)

theorem noteRetrain_keeps {s0 : State} {s : State} {l : Nat} {go : State → State} (kp : Keeps s0 s) (hgo : ∀ s1, Keeps s0 s1 → Keeps s0 (go s1)) :
    Keeps s0 (noteRetrain s l go) := by
  unfold noteRetrain
  try dsimp only
  repeat' first
    | with_reducible assumption | with_reducible apply State.modLink_keeps | with_reducible apply goDown_keeps | with_reducible apply hgo | split
    | (intro _ hx; (first | show CtxOk _ | show TileOk _ | show Memory.wf _ = true); (repeat' first | exact hx | exact CtxOk.noSave rfl | split | dsimp only); done)
    | intro _ _ _ | intro _ _ | intro _ | dsimp only | (rw [id_eq]) | with_reducible refine Keeps.put ?_ (fun x => x) (fun x => x)

theorem startFast_keeps {s0 : State} {s : State} {l : Nat} {cause : Nat} {leads : Bool} (kp : Keeps s0 s) :
    Keeps s0 (startFast s l cause leads) := by
  unfold startFast
  try dsimp only
  repeat' first
    | with_reducible assumption | with_reducible apply State.addFld_keeps | with_reducible apply State.modLink_keeps
    | with_reducible apply noteRetrain_keeps | with_reducible apply sendRos_keeps | split
    | (intro _ hx; (first | show CtxOk _ | show TileOk _ | show Memory.wf _ = true); (repeat' first | exact hx | exact CtxOk.noSave rfl | split | dsimp only); done)
    | intro _ _ _ | intro _ _ | intro _ | dsimp only | (rw [id_eq]) | with_reducible refine Keeps.put ?_ (fun x => x) (fun x => x)

theorem followFull_keeps {s0 : State} {s : State} {l : Nat} (kp : Keeps s0 s) :
    Keeps s0 (followFull s l) := by
  unfold followFull
  try dsimp only
  repeat' first
    | with_reducible assumption | with_reducible apply noteRetrain_keeps | with_reducible apply startFull_keeps | split
    | (intro _ hx; (first | show CtxOk _ | show TileOk _ | show Memory.wf _ = true); (repeat' first | exact hx | exact CtxOk.noSave rfl | split | dsimp only); done)
    | intro _ _ _ | intro _ _ | intro _ | dsimp only | (rw [id_eq]) | with_reducible refine Keeps.put ?_ (fun x => x) (fun x => x)

theorem failLane_keeps {s0 : State} {s : State} {l : Nat} {q : Nat} (kp : Keeps s0 s) :
    Keeps s0 (failLane s l q) := by
  unfold failLane
  try dsimp only
  repeat' first
    | with_reducible assumption | with_reducible apply State.modLink_keeps | with_reducible apply goDown_keeps
    | with_reducible apply startFast_keeps | split
    | (intro _ hx; (first | show CtxOk _ | show TileOk _ | show Memory.wf _ = true); (repeat' first | exact hx | exact CtxOk.noSave rfl | split | dsimp only); done)
    | intro _ _ _ | intro _ _ | intro _ | dsimp only | (rw [id_eq]) | with_reducible refine Keeps.put ?_ (fun x => x) (fun x => x)

theorem nextFailing_keeps {s0 : State} {s : State} {l : Nat} (kp : Keeps s0 s) :
    Keeps s0 (nextFailing s l) := by
  unfold nextFailing
  try dsimp only
  repeat' first
    | with_reducible assumption | with_reducible apply failLane_keeps | split
    | (intro _ hx; (first | show CtxOk _ | show TileOk _ | show Memory.wf _ = true); (repeat' first | exact hx | exact CtxOk.noSave rfl | split | dsimp only); done)
    | intro _ _ _ | intro _ _ | intro _ | dsimp only | (rw [id_eq]) | with_reducible refine Keeps.put ?_ (fun x => x) (fun x => x)

theorem laneCheck_keeps {s0 : State} {s : State} {l : Nat} {mismatch : BitVec 32} {spareErrs : Nat × Nat} (kp : Keeps s0 s) :
    Keeps s0 (laneCheck s l mismatch spareErrs) := by
  unfold laneCheck
  try dsimp only
  repeat' first
    | with_reducible assumption | with_reducible apply State.modLink_keeps | with_reducible apply nextFailing_keeps | split
    | (intro _ hx; (first | show CtxOk _ | show TileOk _ | show Memory.wf _ = true); (repeat' first | exact hx | exact CtxOk.noSave rfl | split | dsimp only); done)
    | intro _ _ _ | intro _ _ | intro _ | dsimp only | (rw [id_eq]) | with_reducible refine Keeps.put ?_ (fun x => x) (fun x => x)

theorem execLaneCheck_keeps {s0 : State} {l : LinkIx} {mismatch : BitVec 32} {spareErrs : Nat × Nat} {s : State} (kp : Keeps s0 s) :
    KeepsN s0 (execLaneCheck l mismatch spareErrs s) := by
  unfold execLaneCheck
  try dsimp only
  repeat' first
    | with_reducible assumption | with_reducible apply laneCheck_keeps | with_reducible apply KeepsN.next | with_reducible apply KeepsN.fault
    | split
    | (intro _ hx; (first | show CtxOk _ | show TileOk _ | show Memory.wf _ = true); (repeat' first | exact hx | exact CtxOk.noSave rfl | split | dsimp only); done)
    | intro _ _ _ | intro _ _ | intro _ | dsimp only | (rw [id_eq]) | with_reducible refine Keeps.put ?_ (fun x => x) (fun x => x)

theorem laneLockLoss_keeps {s0 : State} {s : State} {l : Nat} {q : Nat} (kp : Keeps s0 s) :
    Keeps s0 (laneLockLoss s l q) := by
  unfold laneLockLoss
  try dsimp only
  repeat' first
    | with_reducible assumption | with_reducible apply State.modLink_keeps | with_reducible apply failLane_keeps | split
    | (intro _ hx; (first | show CtxOk _ | show TileOk _ | show Memory.wf _ = true); (repeat' first | exact hx | exact CtxOk.noSave rfl | split | dsimp only); done)
    | intro _ _ _ | intro _ _ | intro _ | dsimp only | (rw [id_eq]) | with_reducible refine Keeps.put ?_ (fun x => x) (fun x => x)

theorem execLaneLockLoss_keeps {s0 : State} {l : LinkIx} {lane : Fin 34} {s : State} (kp : Keeps s0 s) :
    KeepsN s0 (execLaneLockLoss l lane s) := by
  unfold execLaneLockLoss
  try dsimp only
  repeat' first
    | with_reducible assumption | with_reducible apply laneLockLoss_keeps | with_reducible apply KeepsN.next | with_reducible apply KeepsN.fault
    | split
    | (intro _ hx; (first | show CtxOk _ | show TileOk _ | show Memory.wf _ = true); (repeat' first | exact hx | exact CtxOk.noSave rfl | split | dsimp only); done)
    | intro _ _ _ | intro _ _ | intro _ | dsimp only | (rw [id_eq]) | with_reducible refine Keeps.put ?_ (fun x => x) (fun x => x)

theorem laneSpared_keeps {s0 : State} {s : State} {l : Nat} {transmit : Bool} (kp : Keeps s0 s) :
    Keeps s0 (laneSpared s l transmit) := by
  unfold laneSpared
  try dsimp only
  repeat' first
    | with_reducible assumption | with_reducible apply State.addFld_keeps | with_reducible apply State.modLink_keeps
    | with_reducible apply nextFailing_keeps | with_reducible apply notice_keeps | split
    | (intro _ hx; (first | show CtxOk _ | show TileOk _ | show Memory.wf _ = true); (repeat' first | exact hx | exact CtxOk.noSave rfl | split | dsimp only); done)
    | intro _ _ _ | intro _ _ | intro _ | dsimp only | (rw [id_eq]) | with_reducible refine Keeps.put ?_ (fun x => x) (fun x => x)

theorem execLaneSpared_keeps {s0 : State} {l : LinkIx} {transmit : Bool} {s : State} (kp : Keeps s0 s) :
    KeepsN s0 (execLaneSpared l transmit s) := by
  unfold execLaneSpared
  try dsimp only
  repeat' first
    | with_reducible assumption | with_reducible apply laneSpared_keeps | with_reducible apply KeepsN.next | with_reducible apply KeepsN.fault
    | split
    | (intro _ hx; (first | show CtxOk _ | show TileOk _ | show Memory.wf _ = true); (repeat' first | exact hx | exact CtxOk.noSave rfl | split | dsimp only); done)
    | intro _ _ _ | intro _ _ | intro _ | dsimp only | (rw [id_eq]) | with_reducible refine Keeps.put ?_ (fun x => x) (fun x => x)

theorem applyTaps_keeps {s0 : State} {s : State} {l : Nat} (kp : Keeps s0 s) :
    Keeps s0 (applyTaps s l) := by
  unfold applyTaps
  try dsimp only
  repeat' first
    | with_reducible assumption | with_reducible apply State.each_keeps | with_reducible apply State.modLink_keeps
    | with_reducible apply notice_keeps | split
    | (intro _ hx; (first | show CtxOk _ | show TileOk _ | show Memory.wf _ = true); (repeat' first | exact hx | exact CtxOk.noSave rfl | split | dsimp only); done)
    | intro _ _ _ | intro _ _ | intro _ | dsimp only | (rw [id_eq]) | with_reducible refine Keeps.put ?_ (fun x => x) (fun x => x)

theorem rosReceive_keeps {s0 : State} {s : State} {l : Nat} {full : Bool} (kp : Keeps s0 s) :
    Keeps s0 (rosReceive s l full) := by
  unfold rosReceive
  try dsimp only
  repeat' first
    | with_reducible assumption | with_reducible apply State.modLink_keeps | with_reducible apply followFull_keeps
    | with_reducible apply startFast_keeps | with_reducible apply startFull_keeps | split
    | (intro _ hx; (first | show CtxOk _ | show TileOk _ | show Memory.wf _ = true); (repeat' first | exact hx | exact CtxOk.noSave rfl | split | dsimp only); done)
    | intro _ _ _ | intro _ _ | intro _ | dsimp only | (rw [id_eq]) | with_reducible refine Keeps.put ?_ (fun x => x) (fun x => x)

theorem execRosReceive_keeps {s0 : State} {l : LinkIx} {full : Bool} {s : State} (kp : Keeps s0 s) :
    KeepsN s0 (execRosReceive l full s) := by
  unfold execRosReceive
  try dsimp only
  repeat' first
    | with_reducible assumption | with_reducible apply rosReceive_keeps | with_reducible apply KeepsN.next | with_reducible apply KeepsN.fault
    | split
    | (intro _ hx; (first | show CtxOk _ | show TileOk _ | show Memory.wf _ = true); (repeat' first | exact hx | exact CtxOk.noSave rfl | split | dsimp only); done)
    | intro _ _ _ | intro _ _ | intro _ | dsimp only | (rw [id_eq]) | with_reducible refine Keeps.put ?_ (fun x => x) (fun x => x)

theorem settle_keeps {s0 : State} {s : State} {l : Nat} {q : Nat} {n : Nat} {inv : Bool} {eye : Nat} (kp : Keeps s0 s) :
    Keeps s0 (settle s l q n inv eye) := by
  unfold settle
  try dsimp only
  repeat' first
    | with_reducible assumption | with_reducible apply State.modLink_keeps | with_reducible apply State.setBit_keeps
    | with_reducible apply notice_keeps | split
    | (intro _ hx; (first | show CtxOk _ | show TileOk _ | show Memory.wf _ = true); (repeat' first | exact hx | exact CtxOk.noSave rfl | split | dsimp only); done)
    | intro _ _ _ | intro _ _ | intro _ | dsimp only | (rw [id_eq]) | with_reducible refine Keeps.put ?_ (fun x => x) (fun x => x)

theorem trainingSeq_keeps {s0 : State} {s : State} {l : Nat} {q : Nat} {raw : Nat} {eye : Nat} (kp : Keeps s0 s) :
    Keeps s0 (trainingSeq s l q raw eye) := by
  unfold trainingSeq
  try dsimp only
  repeat' first
    | with_reducible assumption | with_reducible apply State.emit_keeps | with_reducible apply State.modLink_keeps
    | with_reducible apply rosReceive_keeps | with_reducible apply settle_keeps | split
    | (intro _ hx; (first | show CtxOk _ | show TileOk _ | show Memory.wf _ = true); (repeat' first | exact hx | exact CtxOk.noSave rfl | split | dsimp only); done)
    | intro _ _ _ | intro _ _ | intro _ | dsimp only | (rw [id_eq]) | with_reducible refine Keeps.put ?_ (fun x => x) (fun x => x)

theorem execTrainingSequence_keeps {s0 : State} {l : LinkIx} {lane : Fin 34} {seq : BitVec 128} {eye : Byte} {s : State} (kp : Keeps s0 s) :
    KeepsN s0 (execTrainingSequence l lane seq eye s) := by
  unfold execTrainingSequence
  try dsimp only
  repeat' first
    | with_reducible assumption | with_reducible apply trainingSeq_keeps | with_reducible apply KeepsN.next | with_reducible apply KeepsN.fault
    | split
    | (intro _ hx; (first | show CtxOk _ | show TileOk _ | show Memory.wf _ = true); (repeat' first | exact hx | exact CtxOk.noSave rfl | split | dsimp only); done)
    | intro _ _ _ | intro _ _ | intro _ | dsimp only | (rw [id_eq]) | with_reducible refine Keeps.put ?_ (fun x => x) (fun x => x)

theorem widthChange_keeps {s0 : State} {s : State} {l : Nat} (kp : Keeps s0 s) :
    Keeps s0 (widthChange s l) := by
  unfold widthChange
  try dsimp only
  repeat' first
    | with_reducible assumption | with_reducible apply State.addFld_keeps | with_reducible apply against_keeps
    | with_reducible apply openFrost_keeps | split
    | (intro _ hx; (first | show CtxOk _ | show TileOk _ | show Memory.wf _ = true); (repeat' first | exact hx | exact CtxOk.noSave rfl | split | dsimp only); done)
    | intro _ _ _ | intro _ _ | intro _ | dsimp only | (rw [id_eq]) | with_reducible refine Keeps.put ?_ (fun x => x) (fun x => x)

theorem comeUp_keeps {s0 : State} {s : State} {l : Nat} {rxGood : BitVec 34} {txGood : BitVec 34} {keep : Bool} (kp : Keeps s0 s) :
    Keeps s0 (comeUp s l rxGood txGood keep) := by
  unfold comeUp
  try dsimp only
  repeat' first
    | with_reducible assumption | with_reducible apply State.modLink_keeps | with_reducible apply goDown_keeps
    | with_reducible apply widthChange_keeps | split
    | (intro _ hx; (first | show CtxOk _ | show TileOk _ | show Memory.wf _ = true); (repeat' first | exact hx | exact CtxOk.noSave rfl | split | dsimp only); done)
    | intro _ _ _ | intro _ _ | intro _ | dsimp only | (rw [id_eq]) | with_reducible refine Keeps.put ?_ (fun x => x) (fun x => x)

theorem trainingComplete_keeps {s0 : State} {s : State} {l : Nat} {rxGood : BitVec 34} {txGood : BitVec 34} {rtt : Nat} (kp : Keeps s0 s) :
    Keeps s0 (trainingComplete s l rxGood txGood rtt) := by
  unfold trainingComplete
  try dsimp only
  repeat' first
    | with_reducible assumption | with_reducible apply State.chooseParent_keeps | with_reducible apply State.modLink_keeps
    | with_reducible apply applyTaps_keeps | with_reducible apply comeUp_keeps | split
    | (intro _ hx; (first | show CtxOk _ | show TileOk _ | show Memory.wf _ = true); (repeat' first | exact hx | exact CtxOk.noSave rfl | split | dsimp only); done)
    | intro _ _ _ | intro _ _ | intro _ | dsimp only | (rw [id_eq]) | with_reducible refine Keeps.put ?_ (fun x => x) (fun x => x)

theorem execTrainingComplete_keeps {s0 : State} {l : LinkIx} {rxGood : BitVec 34} {txGood : BitVec 34} {rtt : Nat} {s : State} (kp : Keeps s0 s) :
    KeepsN s0 (execTrainingComplete l rxGood txGood rtt s) := by
  unfold execTrainingComplete
  try dsimp only
  repeat' first
    | with_reducible assumption | with_reducible apply trainingComplete_keeps | with_reducible apply KeepsN.next
    | with_reducible apply KeepsN.fault | split
    | (intro _ hx; (first | show CtxOk _ | show TileOk _ | show Memory.wf _ = true); (repeat' first | exact hx | exact CtxOk.noSave rfl | split | dsimp only); done)
    | intro _ _ _ | intro _ _ | intro _ | dsimp only | (rw [id_eq]) | with_reducible refine Keeps.put ?_ (fun x => x) (fun x => x)

theorem execTrainFail_keeps {s0 : State} {l : LinkIx} {s : State} (kp : Keeps s0 s) :
    KeepsN s0 (execTrainFail l s) := by
  unfold execTrainFail
  try dsimp only
  repeat' first
    | with_reducible assumption | with_reducible apply goDown_keeps | with_reducible apply KeepsN.next | with_reducible apply KeepsN.fault | split
    | (intro _ hx; (first | show CtxOk _ | show TileOk _ | show Memory.wf _ = true); (repeat' first | exact hx | exact CtxOk.noSave rfl | split | dsimp only); done)
    | intro _ _ _ | intro _ _ | intro _ | dsimp only | (rw [id_eq]) | with_reducible refine Keeps.put ?_ (fun x => x) (fun x => x)

theorem execFastRetrainTimeout_keeps {s0 : State} {l : LinkIx} {s : State} (kp : Keeps s0 s) :
    KeepsN s0 (execFastRetrainTimeout l s) := by
  unfold execFastRetrainTimeout
  try dsimp only
  repeat' first
    | with_reducible assumption | with_reducible apply startFull_keeps | with_reducible apply KeepsN.next | with_reducible apply KeepsN.fault
    | split
    | (intro _ hx; (first | show CtxOk _ | show TileOk _ | show Memory.wf _ = true); (repeat' first | exact hx | exact CtxOk.noSave rfl | split | dsimp only); done)
    | intro _ _ _ | intro _ _ | intro _ | dsimp only | (rw [id_eq]) | with_reducible refine Keeps.put ?_ (fun x => x) (fun x => x)

theorem execSignalLoss_keeps {s0 : State} {l : LinkIx} {s : State} (kp : Keeps s0 s) :
    KeepsN s0 (execSignalLoss l s) := by
  unfold execSignalLoss
  try dsimp only
  repeat' first
    | with_reducible assumption | with_reducible apply goDown_keeps | with_reducible apply KeepsN.next | with_reducible apply KeepsN.fault | split
    | (intro _ hx; (first | show CtxOk _ | show TileOk _ | show Memory.wf _ = true); (repeat' first | exact hx | exact CtxOk.noSave rfl | split | dsimp only); done)
    | intro _ _ _ | intro _ _ | intro _ | dsimp only | (rw [id_eq]) | with_reducible refine Keeps.put ?_ (fun x => x) (fun x => x)

theorem execAutoTrainRetry_keeps {s0 : State} {l : LinkIx} {s : State} (kp : Keeps s0 s) :
    KeepsN s0 (execAutoTrainRetry l s) := by
  unfold execAutoTrainRetry
  try dsimp only
  repeat' first
    | with_reducible assumption | with_reducible apply startFull_keeps | with_reducible apply KeepsN.next | with_reducible apply KeepsN.fault
    | split
    | (intro _ hx; (first | show CtxOk _ | show TileOk _ | show Memory.wf _ = true); (repeat' first | exact hx | exact CtxOk.noSave rfl | split | dsimp only); done)
    | intro _ _ _ | intro _ _ | intro _ | dsimp only | (rw [id_eq]) | with_reducible refine Keeps.put ?_ (fun x => x) (fun x => x)

theorem lnkCmd_keeps {s0 : State} {s : State} {acc : Accessor} {l : Nat} {conds : List (Bool × Status)} {act : State → State} (kp : Keeps s0 s) (hact : ∀ s1, Keeps s0 s1 → Keeps s0 (act s1)) :
    Keeps s0 (lnkCmd s acc l conds act) := by
  unfold lnkCmd
  try dsimp only
  repeat' first
    | with_reducible assumption | with_reducible apply State.finish_keeps | with_reducible apply onBlock_keeps | with_reducible apply hact | split
    | (intro _ hx; (first | show CtxOk _ | show TileOk _ | show Memory.wf _ = true); (repeat' first | exact hx | exact CtxOk.noSave rfl | split | dsimp only); done)
    | intro _ _ _ | intro _ _ | intro _ | dsimp only | (rw [id_eq]) | with_reducible refine Keeps.put ?_ (fun x => x) (fun x => x)

theorem cmdFullTrain_keeps {s0 : State} {s : State} {acc : Accessor} {l : Nat} {queue : Bool} {force : Bool} (kp : Keeps s0 s) :
    Keeps s0 (cmdFullTrain s acc l queue force) := by
  unfold cmdFullTrain
  try dsimp only
  repeat' first
    | with_reducible assumption | with_reducible apply State.finish_keeps | with_reducible apply State.modLink_keeps
    | with_reducible apply State.setBit_keeps | with_reducible apply State.setFld_keeps | with_reducible apply lnkCmd_keeps
    | with_reducible apply startFull_keeps | split
    | (intro _ hx; (first | show CtxOk _ | show TileOk _ | show Memory.wf _ = true); (repeat' first | exact hx | exact CtxOk.noSave rfl | split | dsimp only); done)
    | intro _ _ _ | intro _ _ | intro _ | dsimp only | (rw [id_eq]) | with_reducible refine Keeps.put ?_ (fun x => x) (fun x => x)

theorem execFullTrain_keeps {s0 : State} {acc : Accessor} {l : LinkIx} {queue : Bool} {force : Bool} {s : State} (kp : Keeps s0 s) :
    KeepsN s0 (execFullTrain acc l queue force s) := by
  unfold execFullTrain
  try dsimp only
  repeat' first
    | with_reducible assumption | with_reducible apply cmdFullTrain_keeps | with_reducible apply KeepsN.next | with_reducible apply KeepsN.fault
    | split
    | (intro _ hx; (first | show CtxOk _ | show TileOk _ | show Memory.wf _ = true); (repeat' first | exact hx | exact CtxOk.noSave rfl | split | dsimp only); done)
    | intro _ _ _ | intro _ _ | intro _ | dsimp only | (rw [id_eq]) | with_reducible refine Keeps.put ?_ (fun x => x) (fun x => x)

theorem execQueuedFullTrainStart_keeps {s0 : State} {l : LinkIx} {s : State} (kp : Keeps s0 s) :
    KeepsN s0 (execQueuedFullTrainStart l s) := by
  unfold execQueuedFullTrainStart
  try dsimp only
  repeat' first
    | with_reducible assumption | with_reducible apply State.setBit_keeps | with_reducible apply startFull_keeps | with_reducible apply KeepsN.next
    | with_reducible apply KeepsN.fault | split
    | (intro _ hx; (first | show CtxOk _ | show TileOk _ | show Memory.wf _ = true); (repeat' first | exact hx | exact CtxOk.noSave rfl | split | dsimp only); done)
    | intro _ _ _ | intro _ _ | intro _ | dsimp only | (rw [id_eq]) | with_reducible refine Keeps.put ?_ (fun x => x) (fun x => x)

theorem cmdFastRetrain_keeps {s0 : State} {s : State} {acc : Accessor} {l : Nat} (kp : Keeps s0 s) :
    Keeps s0 (cmdFastRetrain s acc l) := by
  unfold cmdFastRetrain
  try dsimp only
  repeat' first
    | with_reducible assumption | with_reducible apply State.finish_keeps | with_reducible apply lnkCmd_keeps
    | with_reducible apply startFast_keeps | split
    | (intro _ hx; (first | show CtxOk _ | show TileOk _ | show Memory.wf _ = true); (repeat' first | exact hx | exact CtxOk.noSave rfl | split | dsimp only); done)
    | intro _ _ _ | intro _ _ | intro _ | dsimp only | (rw [id_eq]) | with_reducible refine Keeps.put ?_ (fun x => x) (fun x => x)

theorem execFastRetrain_keeps {s0 : State} {acc : Accessor} {l : LinkIx} {s : State} (kp : Keeps s0 s) :
    KeepsN s0 (execFastRetrain acc l s) := by
  unfold execFastRetrain
  try dsimp only
  repeat' first
    | with_reducible assumption | with_reducible apply cmdFastRetrain_keeps | with_reducible apply KeepsN.next | with_reducible apply KeepsN.fault
    | split
    | (intro _ hx; (first | show CtxOk _ | show TileOk _ | show Memory.wf _ = true); (repeat' first | exact hx | exact CtxOk.noSave rfl | split | dsimp only); done)
    | intro _ _ _ | intro _ _ | intro _ | dsimp only | (rw [id_eq]) | with_reducible refine Keeps.put ?_ (fun x => x) (fun x => x)

theorem cmdAcceptHalf_keeps {s0 : State} {s : State} {acc : Accessor} {l : Nat} (kp : Keeps s0 s) :
    Keeps s0 (cmdAcceptHalf s acc l) := by
  unfold cmdAcceptHalf
  try dsimp only
  repeat' first
    | with_reducible assumption | with_reducible apply State.finish_keeps | with_reducible apply State.modLink_keeps
    | with_reducible apply lnkCmd_keeps | split
    | (intro _ hx; (first | show CtxOk _ | show TileOk _ | show Memory.wf _ = true); (repeat' first | exact hx | exact CtxOk.noSave rfl | split | dsimp only); done)
    | intro _ _ _ | intro _ _ | intro _ | dsimp only | (rw [id_eq]) | with_reducible refine Keeps.put ?_ (fun x => x) (fun x => x)

theorem execAcceptHalf_keeps {s0 : State} {acc : Accessor} {l : LinkIx} {s : State} (kp : Keeps s0 s) :
    KeepsN s0 (execAcceptHalf acc l s) := by
  unfold execAcceptHalf
  try dsimp only
  repeat' first
    | with_reducible assumption | with_reducible apply cmdAcceptHalf_keeps | with_reducible apply KeepsN.next | with_reducible apply KeepsN.fault
    | split
    | (intro _ hx; (first | show CtxOk _ | show TileOk _ | show Memory.wf _ = true); (repeat' first | exact hx | exact CtxOk.noSave rfl | split | dsimp only); done)
    | intro _ _ _ | intro _ _ | intro _ | dsimp only | (rw [id_eq]) | with_reducible refine Keeps.put ?_ (fun x => x) (fun x => x)

theorem ctlWrite_keeps {s0 : State} {s : State} {l : Nat} {v : Word} (kp : Keeps s0 s) :
    Keeps s0 (ctlWrite s l v) := by
  unfold ctlWrite
  try dsimp only
  repeat' first
    | with_reducible assumption | with_reducible apply State.finish_keeps | with_reducible apply State.setFld_keeps
    | with_reducible apply goDown_keeps | split
    | (intro _ hx; (first | show CtxOk _ | show TileOk _ | show Memory.wf _ = true); (repeat' first | exact hx | exact CtxOk.noSave rfl | split | dsimp only); done)
    | intro _ _ _ | intro _ _ | intro _ | dsimp only | (rw [id_eq]) | with_reducible refine Keeps.put ?_ (fun x => x) (fun x => x)

theorem execLinkDisable_keeps {s0 : State} {_acc : Accessor} {l : LinkIx} {value : Word} {s : State} (kp : Keeps s0 s) :
    KeepsN s0 (execLinkDisable _acc l value s) := by
  unfold execLinkDisable
  try dsimp only
  repeat' first
    | with_reducible assumption | with_reducible apply ctlWrite_keeps | with_reducible apply onBlock_keeps | with_reducible apply KeepsN.next
    | with_reducible apply KeepsN.fault | split
    | (intro _ hx; (first | show CtxOk _ | show TileOk _ | show Memory.wf _ = true); (repeat' first | exact hx | exact CtxOk.noSave rfl | split | dsimp only); done)
    | intro _ _ _ | intro _ _ | intro _ | dsimp only | (rw [id_eq]) | with_reducible refine Keeps.put ?_ (fun x => x) (fun x => x)

end Sys2Proof.Machine
end

