-- ==== Sys2Proof/Laws/KeepsClocks.lean ====
section
/-! SUPPORT. What each operation of Machine/Clocks.lean keeps. -/

namespace Sys2Proof.Machine

open Sys2Proof.Safety

set_option linter.all false
set_option Elab.async false

theorem stepDown_keeps {s0 : State} {s : State} {r : Nat} {cause : Nat} (kp : Keeps s0 s) :
    Keeps s0 (stepDown s r cause) := by
  unfold stepDown
  try dsimp only
  repeat' first
    | with_reducible assumption | with_reducible apply State.modRegionClk_keeps | split
    | (intro _ hx; (first | show CtxOk _ | show TileOk _ | show Memory.wf _ = true); (repeat' first | exact hx | exact CtxOk.noSave rfl | split | dsimp only); done)
    | intro _ _ _ | intro _ _ | intro _ | dsimp only | (rw [id_eq]) | with_reducible refine Keeps.put ?_ (fun x => x) (fun x => x)

theorem drop_keeps {s0 : State} {s : State} {r : Nat} {cause : Nat} (kp : Keeps s0 s) :
    Keeps s0 (drop s r cause) := by
  unfold drop
  try dsimp only
  repeat' first
    | with_reducible assumption | with_reducible apply State.addFld_keeps | with_reducible apply State.modRegionClk_keeps | split
    | (intro _ hx; (first | show CtxOk _ | show TileOk _ | show Memory.wf _ = true); (repeat' first | exact hx | exact CtxOk.noSave rfl | split | dsimp only); done)
    | intro _ _ _ | intro _ _ | intro _ | dsimp only | (rw [id_eq]) | with_reducible refine Keeps.put ?_ (fun x => x) (fun x => x)

theorem advise_keeps {s0 : State} {s : State} {r : Nat} {old : Nat} {new : Nat} {cause : Nat} (kp : Keeps s0 s) :
    Keeps s0 (advise s r old new cause) := by
  unfold advise
  try dsimp only
  repeat' first
    | with_reducible assumption | with_reducible apply State.each_keeps | with_reducible apply sendMachineOn_keeps | split
    | (intro _ hx; (first | show CtxOk _ | show TileOk _ | show Memory.wf _ = true); (repeat' first | exact hx | exact CtxOk.noSave rfl | split | dsimp only); done)
    | intro _ _ _ | intro _ _ | intro _ | dsimp only | (rw [id_eq]) | with_reducible refine Keeps.put ?_ (fun x => x) (fun x => x)

theorem finishSwitch_keeps {s0 : State} {s : State} {r : Nat} (kp : Keeps s0 s) :
    Keeps s0 (finishSwitch s r) := by
  unfold finishSwitch
  try dsimp only
  repeat' first
    | with_reducible assumption | with_reducible apply State.addFld_keeps | with_reducible apply State.modRegionClk_keeps
    | with_reducible apply advise_keeps | split
    | (intro _ hx; (first | show CtxOk _ | show TileOk _ | show Memory.wf _ = true); (repeat' first | exact hx | exact CtxOk.noSave rfl | split | dsimp only); done)
    | intro _ _ _ | intro _ _ | intro _ | dsimp only | (rw [id_eq]) | with_reducible refine Keeps.put ?_ (fun x => x) (fun x => x)

theorem capDown_keeps {s0 : State} {s : State} {r : Nat} (kp : Keeps s0 s) :
    Keeps s0 (capDown s r) := by
  unfold capDown
  try dsimp only
  repeat' first
    | with_reducible assumption | with_reducible apply stepDown_keeps | split
    | (intro _ hx; (first | show CtxOk _ | show TileOk _ | show Memory.wf _ = true); (repeat' first | exact hx | exact CtxOk.noSave rfl | split | dsimp only); done)
    | intro _ _ _ | intro _ _ | intro _ | dsimp only | (rw [id_eq]) | with_reducible refine Keeps.put ?_ (fun x => x) (fun x => x)

theorem execSynthLock_keeps {s0 : State} {r : RegionIx} {s : State} (kp : Keeps s0 s) :
    KeepsN s0 (execSynthLock r s) := by
  unfold execSynthLock
  try dsimp only
  repeat' first
    | with_reducible assumption | with_reducible apply State.modRegionClk_keeps | with_reducible apply capDown_keeps
    | with_reducible apply KeepsN.next | with_reducible apply KeepsN.fault | split
    | (intro _ hx; (first | show CtxOk _ | show TileOk _ | show Memory.wf _ = true); (repeat' first | exact hx | exact CtxOk.noSave rfl | split | dsimp only); done)
    | intro _ _ _ | intro _ _ | intro _ | dsimp only | (rw [id_eq]) | with_reducible refine Keeps.put ?_ (fun x => x) (fun x => x)

theorem execStepUp_keeps {s0 : State} {r : RegionIx} {s : State} (kp : Keeps s0 s) :
    KeepsN s0 (execStepUp r s) := by
  unfold execStepUp
  try dsimp only
  repeat' first
    | with_reducible assumption | with_reducible apply State.modRegionClk_keeps | with_reducible apply KeepsN.next
    | with_reducible apply KeepsN.fault | split
    | (intro _ hx; (first | show CtxOk _ | show TileOk _ | show Memory.wf _ = true); (repeat' first | exact hx | exact CtxOk.noSave rfl | split | dsimp only); done)
    | intro _ _ _ | intro _ _ | intro _ | dsimp only | (rw [id_eq]) | with_reducible refine Keeps.put ?_ (fun x => x) (fun x => x)

theorem capWrite_keeps {s0 : State} {s : State} {v : Word} (kp : Keeps s0 s) :
    Keeps s0 (capWrite s v) := by
  unfold capWrite
  try dsimp only
  repeat' first
    | with_reducible assumption | with_reducible apply State.each_keeps | with_reducible apply State.modRegionClk_keeps
    | with_reducible apply State.setFld_keeps | with_reducible apply capDown_keeps | split
    | (intro _ hx; (first | show CtxOk _ | show TileOk _ | show Memory.wf _ = true); (repeat' first | exact hx | exact CtxOk.noSave rfl | split | dsimp only); done)
    | intro _ _ _ | intro _ _ | intro _ | dsimp only | (rw [id_eq]) | with_reducible refine Keeps.put ?_ (fun x => x) (fun x => x)

theorem execCapWrite_keeps {s0 : State} {acc : Accessor} {value : Word} {s : State} (kp : Keeps s0 s) :
    KeepsN s0 (execCapWrite acc value s) := by
  unfold execCapWrite
  try dsimp only
  repeat' first
    | with_reducible assumption | with_reducible apply capWrite_keeps | with_reducible apply onBlock_keeps | with_reducible apply KeepsN.next
    | with_reducible apply KeepsN.fault | split
    | (intro _ hx; (first | show CtxOk _ | show TileOk _ | show Memory.wf _ = true); (repeat' first | exact hx | exact CtxOk.noSave rfl | split | dsimp only); done)
    | intro _ _ _ | intro _ _ | intro _ | dsimp only | (rw [id_eq]) | with_reducible refine Keeps.put ?_ (fun x => x) (fun x => x)

theorem pllUnlock_keeps {s0 : State} {s : State} {r : Nat} {current : Bool} (kp : Keeps s0 s) :
    Keeps s0 (pllUnlock s r current) := by
  unfold pllUnlock
  try dsimp only
  repeat' first
    | with_reducible assumption | with_reducible apply State.modRegionClk_keeps | with_reducible apply drop_keeps
    | with_reducible apply notice_keeps | split
    | (intro _ hx; (first | show CtxOk _ | show TileOk _ | show Memory.wf _ = true); (repeat' first | exact hx | exact CtxOk.noSave rfl | split | dsimp only); done)
    | intro _ _ _ | intro _ _ | intro _ | dsimp only | (rw [id_eq]) | with_reducible refine Keeps.put ?_ (fun x => x) (fun x => x)

theorem execClkPllUnlock_keeps {s0 : State} {r : RegionIx} {current : Bool} {s : State} (kp : Keeps s0 s) :
    KeepsN s0 (execClkPllUnlock r current s) := by
  unfold execClkPllUnlock
  try dsimp only
  repeat' first
    | with_reducible assumption | with_reducible apply pllUnlock_keeps | with_reducible apply KeepsN.next | with_reducible apply KeepsN.fault
    | split
    | (intro _ hx; (first | show CtxOk _ | show TileOk _ | show Memory.wf _ = true); (repeat' first | exact hx | exact CtxOk.noSave rfl | split | dsimp only); done)
    | intro _ _ _ | intro _ _ | intro _ | dsimp only | (rw [id_eq]) | with_reducible refine Keeps.put ?_ (fun x => x) (fun x => x)

theorem avsWrite_keeps {s0 : State} {s : State} {v : Nat} (kp : Keeps s0 s) :
    Keeps s0 (avsWrite s v) := by
  unfold avsWrite
  try dsimp only
  repeat' first
    | with_reducible assumption | with_reducible apply State.modClk_keeps | split
    | (intro _ hx; (first | show CtxOk _ | show TileOk _ | show Memory.wf _ = true); (repeat' first | exact hx | exact CtxOk.noSave rfl | split | dsimp only); done)
    | intro _ _ _ | intro _ _ | intro _ | dsimp only | (rw [id_eq]) | with_reducible refine Keeps.put ?_ (fun x => x) (fun x => x)

theorem judge_keeps {s0 : State} {s : State} {r : Nat} (kp : Keeps s0 s) :
    Keeps s0 (judge s r) := by
  unfold judge
  try dsimp only
  repeat' first
    | with_reducible assumption | with_reducible apply avsWrite_keeps | with_reducible apply stepDown_keeps | split
    | (intro _ hx; (first | show CtxOk _ | show TileOk _ | show Memory.wf _ = true); (repeat' first | exact hx | exact CtxOk.noSave rfl | split | dsimp only); done)
    | intro _ _ _ | intro _ _ | intro _ | dsimp only | (rw [id_eq]) | with_reducible refine Keeps.put ?_ (fun x => x) (fun x => x)

theorem takeSamples_keeps {s0 : State} {s : State} {margins : List Nat} {temps : List Nat} (kp : Keeps s0 s) :
    Keeps s0 (takeSamples s margins temps) := by
  unfold takeSamples
  try dsimp only
  repeat' first
    | with_reducible assumption | with_reducible apply State.each_keeps | with_reducible apply State.modClk_keeps
    | with_reducible apply State.modRegionClk_keeps | with_reducible apply State.setFld_keeps | split
    | (intro _ hx; (first | show CtxOk _ | show TileOk _ | show Memory.wf _ = true); (repeat' first | exact hx | exact CtxOk.noSave rfl | split | dsimp only); done)
    | intro _ _ _ | intro _ _ | intro _ | dsimp only | (rw [id_eq]) | with_reducible refine Keeps.put ?_ (fun x => x) (fun x => x)

theorem lowerVout_keeps {s0 : State} {s : State} (kp : Keeps s0 s) :
    Keeps s0 (lowerVout s) := by
  unfold lowerVout
  try dsimp only
  repeat' first
    | with_reducible assumption | with_reducible apply State.modClk_keeps | with_reducible apply avsWrite_keeps | split
    | (intro _ hx; (first | show CtxOk _ | show TileOk _ | show Memory.wf _ = true); (repeat' first | exact hx | exact CtxOk.noSave rfl | split | dsimp only); done)
    | intro _ _ _ | intro _ _ | intro _ | dsimp only | (rw [id_eq]) | with_reducible refine Keeps.put ?_ (fun x => x) (fun x => x)

theorem execMarginSample_keeps {s0 : State} {margins : List (BitVec 6)} {temps : List Byte} {s : State} (kp : Keeps s0 s) :
    KeepsN s0 (execMarginSample margins temps s) := by
  unfold execMarginSample
  try dsimp only
  repeat' first
    | with_reducible assumption | with_reducible apply State.each_keeps | with_reducible apply judge_keeps | with_reducible apply lowerVout_keeps
    | with_reducible apply takeSamples_keeps | with_reducible apply KeepsN.next | with_reducible apply KeepsN.fault | split
    | (intro _ hx; (first | show CtxOk _ | show TileOk _ | show Memory.wf _ = true); (repeat' first | exact hx | exact CtxOk.noSave rfl | split | dsimp only); done)
    | intro _ _ _ | intro _ _ | intro _ | dsimp only | (rw [id_eq]) | with_reducible refine Keeps.put ?_ (fun x => x) (fun x => x)

theorem execCritMargin_keeps {s0 : State} {r : Fin 17} {s : State} (kp : Keeps s0 s) :
    KeepsN s0 (execCritMargin r s) := by
  unfold execCritMargin
  try dsimp only
  repeat' first
    | with_reducible assumption | with_reducible apply drop_keeps | with_reducible apply notice_keeps | with_reducible apply KeepsN.next
    | with_reducible apply KeepsN.fault | split
    | (intro _ hx; (first | show CtxOk _ | show TileOk _ | show Memory.wf _ = true); (repeat' first | exact hx | exact CtxOk.noSave rfl | split | dsimp only); done)
    | intro _ _ _ | intro _ _ | intro _ | dsimp only | (rw [id_eq]) | with_reducible refine Keeps.put ?_ (fun x => x) (fun x => x)

theorem execThermalTrip_keeps {s0 : State} {r : RegionIx} {s : State} (kp : Keeps s0 s) :
    KeepsN s0 (execThermalTrip r s) := by
  unfold execThermalTrip
  try dsimp only
  repeat' first
    | with_reducible assumption | with_reducible apply notice_keeps | with_reducible apply KeepsN.next | with_reducible apply KeepsN.fault | split
    | (intro _ hx; (first | show CtxOk _ | show TileOk _ | show Memory.wf _ = true); (repeat' first | exact hx | exact CtxOk.noSave rfl | split | dsimp only); done)
    | intro _ _ _ | intro _ _ | intro _ | dsimp only | (rw [id_eq]) | with_reducible refine Keeps.put ?_ (fun x => x) (fun x => x)

theorem execAvsFail_keeps {s0 : State} {s : State} (kp : Keeps s0 s) :
    KeepsN s0 (execAvsFail s) := by
  unfold execAvsFail
  try dsimp only
  repeat' first
    | with_reducible assumption | with_reducible apply State.modClk_keeps | with_reducible apply State.setBit_keeps
    | with_reducible apply notice_keeps | with_reducible apply KeepsN.next | with_reducible apply KeepsN.fault | split
    | (intro _ hx; (first | show CtxOk _ | show TileOk _ | show Memory.wf _ = true); (repeat' first | exact hx | exact CtxOk.noSave rfl | split | dsimp only); done)
    | intro _ _ _ | intro _ _ | intro _ | dsimp only | (rw [id_eq]) | with_reducible refine Keeps.put ?_ (fun x => x) (fun x => x)

theorem actAdvisory_keeps {s0 : State} {s : State} {l : Nat} {region : Nat} {step : Nat} {cause : Nat} (kp : Keeps s0 s) :
    Keeps s0 (actAdvisory s l region step cause) := by
  unfold actAdvisory
  try dsimp only
  repeat' first
    | with_reducible assumption | with_reducible apply State.setRg_keeps | split
    | (intro _ hx; (first | show CtxOk _ | show TileOk _ | show Memory.wf _ = true); (repeat' first | exact hx | exact CtxOk.noSave rfl | split | dsimp only); done)
    | intro _ _ _ | intro _ _ | intro _ | dsimp only | (rw [id_eq]) | with_reducible refine Keeps.put ?_ (fun x => x) (fun x => x)

theorem execFreqAdvisory_keeps {s0 : State} {l : LinkIx} {region : BitVec 4} {_oldStep : BitVec 3} {newStep : BitVec 3} {cause : BitVec 3} {s : State} (kp : Keeps s0 s) :
    KeepsN s0 (execFreqAdvisory l region _oldStep newStep cause s) := by
  unfold execFreqAdvisory
  try dsimp only
  repeat' first
    | with_reducible assumption | with_reducible apply actAdvisory_keeps | with_reducible apply KeepsN.next | with_reducible apply KeepsN.fault
    | split
    | (intro _ hx; (first | show CtxOk _ | show TileOk _ | show Memory.wf _ = true); (repeat' first | exact hx | exact CtxOk.noSave rfl | split | dsimp only); done)
    | intro _ _ _ | intro _ _ | intro _ | dsimp only | (rw [id_eq]) | with_reducible refine Keeps.put ?_ (fun x => x) (fun x => x)

theorem settleMux_keeps {s0 : State} {s : State} {sp : Bool} (kp : Keeps s0 s) :
    Keeps s0 (settleMux s sp) := by
  unfold settleMux
  try dsimp only
  repeat' first
    | with_reducible assumption | with_reducible apply State.modClk_keeps | with_reducible apply State.setBit_keeps | split
    | (intro _ hx; (first | show CtxOk _ | show TileOk _ | show Memory.wf _ = true); (repeat' first | exact hx | exact CtxOk.noSave rfl | split | dsimp only); done)
    | intro _ _ _ | intro _ _ | intro _ | dsimp only | (rw [id_eq]) | with_reducible refine Keeps.put ?_ (fun x => x) (fun x => x)

theorem execMuxSwitch_keeps {s0 : State} {m : MuxId} {s : State} (kp : Keeps s0 s) :
    KeepsN s0 (execMuxSwitch m s) := by
  unfold execMuxSwitch
  try dsimp only
  repeat' first
    | with_reducible assumption | with_reducible apply finishSwitch_keeps | with_reducible apply settleMux_keeps | with_reducible apply KeepsN.next
    | with_reducible apply KeepsN.fault | split
    | (intro _ hx; (first | show CtxOk _ | show TileOk _ | show Memory.wf _ = true); (repeat' first | exact hx | exact CtxOk.noSave rfl | split | dsimp only); done)
    | intro _ _ _ | intro _ _ | intro _ | dsimp only | (rw [id_eq]) | with_reducible refine Keeps.put ?_ (fun x => x) (fun x => x)

theorem execClkMuxHung_keeps {s0 : State} {m : MuxId} {s : State} (kp : Keeps s0 s) :
    KeepsN s0 (execClkMuxHung m s) := by
  unfold execClkMuxHung
  try dsimp only
  repeat' first
    | with_reducible assumption | with_reducible apply State.addFld_keeps | with_reducible apply State.modClk_keeps
    | with_reducible apply State.modRegionClk_keeps | with_reducible apply State.setBit_keeps | with_reducible apply notice_keeps
    | with_reducible apply settleMux_keeps | with_reducible apply KeepsN.next | with_reducible apply KeepsN.fault | split
    | (intro _ hx; (first | show CtxOk _ | show TileOk _ | show Memory.wf _ = true); (repeat' first | exact hx | exact CtxOk.noSave rfl | split | dsimp only); done)
    | intro _ _ _ | intro _ _ | intro _ | dsimp only | (rw [id_eq]) | with_reducible refine Keeps.put ?_ (fun x => x) (fun x => x)

theorem execClkSourceDead_keeps {s0 : State} {r : RegionIx} {s : State} (kp : Keeps s0 s) :
    KeepsN s0 (execClkSourceDead r s) := by
  unfold execClkSourceDead
  try dsimp only
  repeat' first
    | with_reducible assumption | with_reducible apply State.modRegionClk_keeps | with_reducible apply finishSwitch_keeps
    | with_reducible apply raiseGroup_keeps | with_reducible apply KeepsN.next | with_reducible apply KeepsN.fault | split
    | (intro _ hx; (first | show CtxOk _ | show TileOk _ | show Memory.wf _ = true); (repeat' first | exact hx | exact CtxOk.noSave rfl | split | dsimp only); done)
    | intro _ _ _ | intro _ _ | intro _ | dsimp only | (rw [id_eq]) | with_reducible refine Keeps.put ?_ (fun x => x) (fun x => x)

theorem mgtMuxWrite_keeps {s0 : State} {s : State} {v : Word} (kp : Keeps s0 s) :
    Keeps s0 (mgtMuxWrite s v) := by
  unfold mgtMuxWrite
  try dsimp only
  repeat' first
    | with_reducible assumption | with_reducible apply State.modClk_keeps | with_reducible apply State.setBit_keeps
    | with_reducible apply settleMux_keeps | split
    | (intro _ hx; (first | show CtxOk _ | show TileOk _ | show Memory.wf _ = true); (repeat' first | exact hx | exact CtxOk.noSave rfl | split | dsimp only); done)
    | intro _ _ _ | intro _ _ | intro _ | dsimp only | (rw [id_eq]) | with_reducible refine Keeps.put ?_ (fun x => x) (fun x => x)

theorem execMgtMuxSwitch_keeps {s0 : State} {acc : Accessor} {value : Word} {s : State} (kp : Keeps s0 s) :
    KeepsN s0 (execMgtMuxSwitch acc value s) := by
  unfold execMgtMuxSwitch
  try dsimp only
  repeat' first
    | with_reducible assumption | with_reducible apply mgtMuxWrite_keeps | with_reducible apply onBlock_keeps | with_reducible apply KeepsN.next
    | with_reducible apply KeepsN.fault | split
    | (intro _ hx; (first | show CtxOk _ | show TileOk _ | show Memory.wf _ = true); (repeat' first | exact hx | exact CtxOk.noSave rfl | split | dsimp only); done)
    | intro _ _ _ | intro _ _ | intro _ | dsimp only | (rw [id_eq]) | with_reducible refine Keeps.put ?_ (fun x => x) (fun x => x)

theorem execMgtMuxForce_keeps {s0 : State} {acc : Accessor} {s : State} (kp : Keeps s0 s) :
    KeepsN s0 (execMgtMuxForce acc s) := by
  unfold execMgtMuxForce
  try dsimp only
  repeat' first
    | with_reducible assumption | with_reducible apply mgtMuxWrite_keeps | with_reducible apply onBlock_keeps | with_reducible apply KeepsN.next
    | with_reducible apply KeepsN.fault | split
    | (intro _ hx; (first | show CtxOk _ | show TileOk _ | show Memory.wf _ = true); (repeat' first | exact hx | exact CtxOk.noSave rfl | split | dsimp only); done)
    | intro _ _ _ | intro _ _ | intro _ | dsimp only | (rw [id_eq]) | with_reducible refine Keeps.put ?_ (fun x => x) (fun x => x)

theorem spMuxWrite_keeps {s0 : State} {s : State} {v : Word} (kp : Keeps s0 s) :
    Keeps s0 (spMuxWrite s v) := by
  unfold spMuxWrite
  try dsimp only
  repeat' first
    | with_reducible assumption | with_reducible apply State.modClk_keeps | with_reducible apply State.setBit_keeps | split
    | (intro _ hx; (first | show CtxOk _ | show TileOk _ | show Memory.wf _ = true); (repeat' first | exact hx | exact CtxOk.noSave rfl | split | dsimp only); done)
    | intro _ _ _ | intro _ _ | intro _ | dsimp only | (rw [id_eq]) | with_reducible refine Keeps.put ?_ (fun x => x) (fun x => x)

theorem execSpMuxSwitch_keeps {s0 : State} {acc : Accessor} {value : Word} {s : State} (kp : Keeps s0 s) :
    KeepsN s0 (execSpMuxSwitch acc value s) := by
  unfold execSpMuxSwitch
  try dsimp only
  repeat' first
    | with_reducible assumption | with_reducible apply onBlock_keeps | with_reducible apply spMuxWrite_keeps | with_reducible apply KeepsN.next
    | with_reducible apply KeepsN.fault | split
    | (intro _ hx; (first | show CtxOk _ | show TileOk _ | show Memory.wf _ = true); (repeat' first | exact hx | exact CtxOk.noSave rfl | split | dsimp only); done)
    | intro _ _ _ | intro _ _ | intro _ | dsimp only | (rw [id_eq]) | with_reducible refine Keeps.put ?_ (fun x => x) (fun x => x)

theorem gateAnswer_keeps {s0 : State} {s : State} {st : Status} {blocker : Nat} (kp : Keeps s0 s) :
    Keeps s0 (gateAnswer s st blocker) := by
  unfold gateAnswer
  try dsimp only
  repeat' first
    | with_reducible assumption | with_reducible apply State.finish_keeps | with_reducible apply State.setFld_keeps | split
    | (intro _ hx; (first | show CtxOk _ | show TileOk _ | show Memory.wf _ = true); (repeat' first | exact hx | exact CtxOk.noSave rfl | split | dsimp only); done)
    | intro _ _ _ | intro _ _ | intro _ | dsimp only | (rw [id_eq]) | with_reducible refine Keeps.put ?_ (fun x => x) (fun x => x)

theorem powerTile_keeps {s0 : State} {s : State} {t : Nat} {p : Power} (kp : Keeps s0 s) :
    Keeps s0 (powerTile s t p) := by
  unfold powerTile
  try dsimp only
  repeat' first
    | with_reducible assumption | with_reducible apply State.clearTile_keeps | with_reducible apply State.modTile_keeps
    | with_reducible apply State.pllStart_keeps | split | exact fun _ (hx : TileOk _) => hx
    | exact fun _ (hx : TileOk _) => ⟨Memory.write_wf _ _ _ hx.1, hx.2⟩ | exact fun _ (hx : TileOk _) => ⟨writeRanges_wf _ _ _ hx.1, hx.2⟩
    | exact fun _ (hx : TileOk _) => ⟨writeTensor_wf _ _ _ _ hx.1, hx.2⟩
    | (intro _ hx; (first | show CtxOk _ | show TileOk _ | show Memory.wf _ = true); (repeat' first | exact hx | exact CtxOk.noSave rfl | split | dsimp only); done)
    | intro _ _ _ | intro _ _ | intro _ | dsimp only | (rw [id_eq]) | with_reducible refine Keeps.put ?_ (fun x => x) (fun x => x)

theorem pllStop_keeps {s0 : State} {s : State} {r : Nat} (kp : Keeps s0 s) :
    Keeps s0 (pllStop s r) := by
  unfold pllStop
  try dsimp only
  repeat' first
    | with_reducible assumption | with_reducible apply State.modRegionClk_keeps | split
    | (intro _ hx; (first | show CtxOk _ | show TileOk _ | show Memory.wf _ = true); (repeat' first | exact hx | exact CtxOk.noSave rfl | split | dsimp only); done)
    | intro _ _ _ | intro _ _ | intro _ | dsimp only | (rw [id_eq]) | with_reducible refine Keeps.put ?_ (fun x => x) (fun x => x)

theorem gate_keeps {s0 : State} {s : State} {acc : Accessor} {node : Nat} {action : Nat} (kp : Keeps s0 s) :
    Keeps s0 (gate s acc node action) := by
  unfold gate
  try dsimp only
  repeat' first
    | with_reducible assumption | with_reducible apply State.modClk_keeps | with_reducible apply State.pllStart_keeps
    | with_reducible apply State.setBit_keeps | with_reducible apply gateAnswer_keeps | with_reducible apply onBlock_keeps
    | with_reducible apply pllStop_keeps | with_reducible apply powerTile_keeps | split
    | (intro _ hx; (first | show CtxOk _ | show TileOk _ | show Memory.wf _ = true); (repeat' first | exact hx | exact CtxOk.noSave rfl | split | dsimp only); done)
    | intro _ _ _ | intro _ _ | intro _ | dsimp only | (rw [id_eq]) | with_reducible refine Keeps.put ?_ (fun x => x) (fun x => x)

theorem execGateRun_keeps {s0 : State} {acc : Accessor} {node : BitVec 10} {s : State} (kp : Keeps s0 s) :
    KeepsN s0 (execGateRun acc node s) := by
  unfold execGateRun
  try dsimp only
  repeat' first
    | with_reducible assumption | with_reducible apply gate_keeps | with_reducible apply KeepsN.next | with_reducible apply KeepsN.fault | split
    | (intro _ hx; (first | show CtxOk _ | show TileOk _ | show Memory.wf _ = true); (repeat' first | exact hx | exact CtxOk.noSave rfl | split | dsimp only); done)
    | intro _ _ _ | intro _ _ | intro _ | dsimp only | (rw [id_eq]) | with_reducible refine Keeps.put ?_ (fun x => x) (fun x => x)

theorem execGateSleep_keeps {s0 : State} {acc : Accessor} {node : BitVec 10} {s : State} (kp : Keeps s0 s) :
    KeepsN s0 (execGateSleep acc node s) := by
  unfold execGateSleep
  try dsimp only
  repeat' first
    | with_reducible assumption | with_reducible apply gate_keeps | with_reducible apply KeepsN.next | with_reducible apply KeepsN.fault | split
    | (intro _ hx; (first | show CtxOk _ | show TileOk _ | show Memory.wf _ = true); (repeat' first | exact hx | exact CtxOk.noSave rfl | split | dsimp only); done)
    | intro _ _ _ | intro _ _ | intro _ | dsimp only | (rw [id_eq]) | with_reducible refine Keeps.put ?_ (fun x => x) (fun x => x)

theorem execGateDeep_keeps {s0 : State} {acc : Accessor} {node : BitVec 10} {s : State} (kp : Keeps s0 s) :
    KeepsN s0 (execGateDeep acc node s) := by
  unfold execGateDeep
  try dsimp only
  repeat' first
    | with_reducible assumption | with_reducible apply gate_keeps | with_reducible apply KeepsN.next | with_reducible apply KeepsN.fault | split
    | (intro _ hx; (first | show CtxOk _ | show TileOk _ | show Memory.wf _ = true); (repeat' first | exact hx | exact CtxOk.noSave rfl | split | dsimp only); done)
    | intro _ _ _ | intro _ _ | intro _ | dsimp only | (rw [id_eq]) | with_reducible refine Keeps.put ?_ (fun x => x) (fun x => x)

theorem execGateOff_keeps {s0 : State} {acc : Accessor} {node : BitVec 10} {s : State} (kp : Keeps s0 s) :
    KeepsN s0 (execGateOff acc node s) := by
  unfold execGateOff
  try dsimp only
  repeat' first
    | with_reducible assumption | with_reducible apply gate_keeps | with_reducible apply KeepsN.next | with_reducible apply KeepsN.fault | split
    | (intro _ hx; (first | show CtxOk _ | show TileOk _ | show Memory.wf _ = true); (repeat' first | exact hx | exact CtxOk.noSave rfl | split | dsimp only); done)
    | intro _ _ _ | intro _ _ | intro _ | dsimp only | (rw [id_eq]) | with_reducible refine Keeps.put ?_ (fun x => x) (fun x => x)

theorem fabricOff_keeps {s0 : State} {s : State} {acc : Accessor} (kp : Keeps s0 s) :
    Keeps s0 (fabricOff s acc) := by
  unfold fabricOff
  try dsimp only
  repeat' first
    | with_reducible assumption | with_reducible apply State.each_keeps | with_reducible apply State.modClk_keeps
    | with_reducible apply gateAnswer_keeps | with_reducible apply onBlock_keeps | with_reducible apply pllStop_keeps
    | with_reducible apply powerTile_keeps | split
    | (intro _ hx; (first | show CtxOk _ | show TileOk _ | show Memory.wf _ = true); (repeat' first | exact hx | exact CtxOk.noSave rfl | split | dsimp only); done)
    | intro _ _ _ | intro _ _ | intro _ | dsimp only | (rw [id_eq]) | with_reducible refine Keeps.put ?_ (fun x => x) (fun x => x)

theorem execFabricOff_keeps {s0 : State} {acc : Accessor} {s : State} (kp : Keeps s0 s) :
    KeepsN s0 (execFabricOff acc s) := by
  unfold execFabricOff
  try dsimp only
  repeat' first
    | with_reducible assumption | with_reducible apply fabricOff_keeps | with_reducible apply KeepsN.next | with_reducible apply KeepsN.fault
    | split
    | (intro _ hx; (first | show CtxOk _ | show TileOk _ | show Memory.wf _ = true); (repeat' first | exact hx | exact CtxOk.noSave rfl | split | dsimp only); done)
    | intro _ _ _ | intro _ _ | intro _ | dsimp only | (rw [id_eq]) | with_reducible refine Keeps.put ?_ (fun x => x) (fun x => x)

theorem fabricOn_keeps {s0 : State} {s : State} {acc : Accessor} (kp : Keeps s0 s) :
    Keeps s0 (fabricOn s acc) := by
  unfold fabricOn
  try dsimp only
  repeat' first
    | with_reducible assumption | with_reducible apply State.modClk_keeps | with_reducible apply State.operational_keeps
    | with_reducible apply gateAnswer_keeps | with_reducible apply onBlock_keeps | split
    | (intro _ hx; (first | show CtxOk _ | show TileOk _ | show Memory.wf _ = true); (repeat' first | exact hx | exact CtxOk.noSave rfl | split | dsimp only); done)
    | intro _ _ _ | intro _ _ | intro _ | dsimp only | (rw [id_eq]) | with_reducible refine Keeps.put ?_ (fun x => x) (fun x => x)

theorem execFabricOn_keeps {s0 : State} {acc : Accessor} {s : State} (kp : Keeps s0 s) :
    KeepsN s0 (execFabricOn acc s) := by
  unfold execFabricOn
  try dsimp only
  repeat' first
    | with_reducible assumption | with_reducible apply fabricOn_keeps | with_reducible apply KeepsN.next | with_reducible apply KeepsN.fault
    | split
    | (intro _ hx; (first | show CtxOk _ | show TileOk _ | show Memory.wf _ = true); (repeat' first | exact hx | exact CtxOk.noSave rfl | split | dsimp only); done)
    | intro _ _ _ | intro _ _ | intro _ | dsimp only | (rw [id_eq]) | with_reducible refine Keeps.put ?_ (fun x => x) (fun x => x)

theorem execRegionPllStop_keeps {s0 : State} {r : RegionIx} {s : State} (kp : Keeps s0 s) :
    KeepsN s0 (execRegionPllStop r s) := by
  unfold execRegionPllStop
  try dsimp only
  repeat' first
    | with_reducible assumption | with_reducible apply pllStop_keeps | with_reducible apply KeepsN.next | with_reducible apply KeepsN.fault | split
    | (intro _ hx; (first | show CtxOk _ | show TileOk _ | show Memory.wf _ = true); (repeat' first | exact hx | exact CtxOk.noSave rfl | split | dsimp only); done)
    | intro _ _ _ | intro _ _ | intro _ | dsimp only | (rw [id_eq]) | with_reducible refine Keeps.put ?_ (fun x => x) (fun x => x)

theorem refCheck_keeps {s0 : State} {s : State} {edges : Option Nat} (kp : Keeps s0 s) :
    Keeps s0 (refCheck s edges) := by
  unfold refCheck
  try dsimp only
  repeat' first
    | with_reducible assumption | with_reducible apply State.each_keeps | with_reducible apply State.setBit_keeps
    | with_reducible apply goDown_keeps | with_reducible apply notice_keeps | split
    | (intro _ hx; (first | show CtxOk _ | show TileOk _ | show Memory.wf _ = true); (repeat' first | exact hx | exact CtxOk.noSave rfl | split | dsimp only); done)
    | intro _ _ _ | intro _ _ | intro _ | dsimp only | (rw [id_eq]) | with_reducible refine Keeps.put ?_ (fun x => x) (fun x => x)

theorem execRefCheck_keeps {s0 : State} {edges : Option Nat} {s : State} (kp : Keeps s0 s) :
    KeepsN s0 (execRefCheck edges s) := by
  unfold execRefCheck
  try dsimp only
  repeat' first
    | with_reducible assumption | with_reducible apply refCheck_keeps | with_reducible apply KeepsN.next | with_reducible apply KeepsN.fault
    | split
    | (intro _ hx; (first | show CtxOk _ | show TileOk _ | show Memory.wf _ = true); (repeat' first | exact hx | exact CtxOk.noSave rfl | split | dsimp only); done)
    | intro _ _ _ | intro _ _ | intro _ | dsimp only | (rw [id_eq]) | with_reducible refine Keeps.put ?_ (fun x => x) (fun x => x)

theorem fmeasWrite_keeps {s0 : State} {s : State} {v : Word} (kp : Keeps s0 s) :
    Keeps s0 (fmeasWrite s v) := by
  unfold fmeasWrite
  try dsimp only
  repeat' first
    | with_reducible assumption | with_reducible apply State.modClk_keeps | with_reducible apply State.setFld_keeps | split
    | (intro _ hx; (first | show CtxOk _ | show TileOk _ | show Memory.wf _ = true); (repeat' first | exact hx | exact CtxOk.noSave rfl | split | dsimp only); done)
    | intro _ _ _ | intro _ _ | intro _ | dsimp only | (rw [id_eq]) | with_reducible refine Keeps.put ?_ (fun x => x) (fun x => x)

theorem execFmeasStart_keeps {s0 : State} {acc : Accessor} {value : Word} {s : State} (kp : Keeps s0 s) :
    KeepsN s0 (execFmeasStart acc value s) := by
  unfold execFmeasStart
  try dsimp only
  repeat' first
    | with_reducible assumption | with_reducible apply fmeasWrite_keeps | with_reducible apply onBlock_keeps | with_reducible apply KeepsN.next
    | with_reducible apply KeepsN.fault | split
    | (intro _ hx; (first | show CtxOk _ | show TileOk _ | show Memory.wf _ = true); (repeat' first | exact hx | exact CtxOk.noSave rfl | split | dsimp only); done)
    | intro _ _ _ | intro _ _ | intro _ | dsimp only | (rw [id_eq]) | with_reducible refine Keeps.put ?_ (fun x => x) (fun x => x)

theorem execFmeasDone_keeps {s0 : State} {count : BitVec 40} {s : State} (kp : Keeps s0 s) :
    KeepsN s0 (execFmeasDone count s) := by
  unfold execFmeasDone
  try dsimp only
  repeat' first
    | with_reducible assumption | with_reducible apply State.modClk_keeps | with_reducible apply State.setBit_keeps
    | with_reducible apply State.setFld_keeps | with_reducible apply KeepsN.next | with_reducible apply KeepsN.fault | split
    | (intro _ hx; (first | show CtxOk _ | show TileOk _ | show Memory.wf _ = true); (repeat' first | exact hx | exact CtxOk.noSave rfl | split | dsimp only); done)
    | intro _ _ _ | intro _ _ | intro _ | dsimp only | (rw [id_eq]) | with_reducible refine Keeps.put ?_ (fun x => x) (fun x => x)

end Sys2Proof.Machine
end

