-- ==== Sys2Proof/Laws/KeepsMemCode.lean ====
section
/-! SUPPORT. What each operation of Machine/MemCode.lean keeps. -/

namespace Sys2Proof.Machine

open Sys2Proof.Safety

set_option linter.all false
set_option Elab.async false

theorem memCe_keeps {s0 : State} {s : State} {m : Nat} {frame : Nat} (kp : Keeps s0 s) :
    Keeps s0 (memCe s m frame) := by
  unfold memCe
  try dsimp only
  repeat' first
    | with_reducible assumption | with_reducible apply State.addFld_keeps | with_reducible apply State.modHbm_keeps
    | with_reducible apply State.retireFrame_keeps | with_reducible apply raise_keeps | split | exact fun _ hx => (show Memory.wf _ = true from hx)
    | exact fun _ hx => Memory.write_wf _ _ _ hx | exact fun _ hx => Memory.clear_wf _ _ _ hx | exact fun _ hx => Memory.copy_wf _ _ _ _ _ hx
    | (intro _ hx; (first | show CtxOk _ | show TileOk _ | show Memory.wf _ = true); (repeat' first | exact hx | exact CtxOk.noSave rfl | split | dsimp only); done)
    | intro _ _ _ | intro _ _ | intro _ | dsimp only | (rw [id_eq]) | with_reducible refine Keeps.put ?_ (fun x => x) (fun x => x)

theorem State.latchMem_keeps {s0 : State} {s : State} {m : Nat} {off : Nat} {owner : Option Nat} {mgt : Bool} {scrub : Bool} (kp : Keeps s0 s) :
    Keeps s0 (State.latchMem s m off owner mgt scrub) := by
  unfold State.latchMem
  try dsimp only
  repeat' first
    | with_reducible assumption | with_reducible apply State.setRg_keeps | split
    | (intro _ hx; (first | show CtxOk _ | show TileOk _ | show Memory.wf _ = true); (repeat' first | exact hx | exact CtxOk.noSave rfl | split | dsimp only); done)
    | intro _ _ _ | intro _ _ | intro _ | dsimp only | (rw [id_eq]) | with_reducible refine Keeps.put ?_ (fun x => x) (fun x => x)

theorem memUe_keeps {s0 : State} {s : State} {m : Nat} {off : Nat} {who : Reader} (kp : Keeps s0 s) :
    Keeps s0 (memUe s m off who) := by
  unfold memUe
  try dsimp only
  repeat' first
    | with_reducible assumption | with_reducible apply State.latchMem_keeps | with_reducible apply State.modHbm_keeps
    | with_reducible apply State.retireFrame_keeps | with_reducible apply against_keeps | with_reducible apply notice_keeps | split
    | exact fun _ hx => (show Memory.wf _ = true from hx) | exact fun _ hx => Memory.write_wf _ _ _ hx | exact fun _ hx => Memory.clear_wf _ _ _ hx
    | exact fun _ hx => Memory.copy_wf _ _ _ _ _ hx
    | (intro _ hx; (first | show CtxOk _ | show TileOk _ | show Memory.wf _ = true); (repeat' first | exact hx | exact CtxOk.noSave rfl | split | dsimp only); done)
    | intro _ _ _ | intro _ _ | intro _ | dsimp only | (rw [id_eq]) | with_reducible refine Keeps.put ?_ (fun x => x) (fun x => x)

theorem cxlPoison_keeps {s0 : State} {s : State} {p : Nat} {addr : Nat} {owner : Option Nat} (kp : Keeps s0 s) :
    Keeps s0 (cxlPoison s p addr owner) := by
  unfold cxlPoison
  try dsimp only
  repeat' first
    | with_reducible assumption | with_reducible apply State.addFld_keeps | with_reducible apply State.setRg_keeps
    | with_reducible apply against_keeps | split
    | (intro _ hx; (first | show CtxOk _ | show TileOk _ | show Memory.wf _ = true); (repeat' first | exact hx | exact CtxOk.noSave rfl | split | dsimp only); done)
    | intro _ _ _ | intro _ _ | intro _ | dsimp only | (rw [id_eq]) | with_reducible refine Keeps.put ?_ (fun x => x) (fun x => x)

theorem State.fate_keeps {s0 : State} {s : State} {mode1 : Bool} {n : Nat} (kp : Keeps s0 s) :
    Keeps s0 (State.fate s mode1 n).2 := by
  unfold State.fate
  try dsimp only
  repeat' first
    | with_reducible assumption | with_reducible apply State.draw_keeps
    | refine State.draw_keeps' (out := (_, _)) (by with_reducible assumption) ?_ | split
    | (intro _ hx; (first | show CtxOk _ | show TileOk _ | show Memory.wf _ = true); (repeat' first | exact hx | exact CtxOk.noSave rfl | split | dsimp only); done)
    | intro _ _ _ | intro _ _ | intro _ | dsimp only | (rw [id_eq]) | with_reducible refine Keeps.put ?_ (fun x => x) (fun x => x)

theorem State.fate_keeps' {s0 : State} {s : State} {mode1 : Bool} {n : Nat} {out : _} (eq : State.fate s mode1 n = out) (kp : Keeps s0 s) :
    Keeps s0 out.2 := eq ▸ State.fate_keeps kp

theorem State.wordWrite_keeps {s0 : State} {s : State} {f : FrameId} {off : Nat} {bs : List Byte} (kp : Keeps s0 s) :
    Keeps s0 (State.wordWrite s f off bs) := by
  unfold State.wordWrite
  try dsimp only
  repeat' first
    | with_reducible assumption | with_reducible apply State.frameWrite_keeps | with_reducible apply State.mgtWrite_keeps | split
    | (intro _ hx; (first | show CtxOk _ | show TileOk _ | show Memory.wf _ = true); (repeat' first | exact hx | exact CtxOk.noSave rfl | split | dsimp only); done)
    | intro _ _ _ | intro _ _ | intro _ | dsimp only | (rw [id_eq]) | with_reducible refine Keeps.put ?_ (fun x => x) (fun x => x)

theorem codeWords_keeps {s0 s : State} {f : FrameId} {who : Reader} {l : List (Nat × Nat)} (h : Keeps s0 s) :
    Keeps s0 (codeWords s f who l).2 := by
  induction l generalizing s with
  | nil => exact h
  | cons e r ih =>
    obtain ⟨off, n⟩ := e
    unfold codeWords
    rcases hf : s.fate (s.bit .memCode [f.unit] 0) n with ⟨fate, s1⟩
    have h1 : Keeps s0 s1 := State.fate_keeps' (out := (_, _)) hf h
    cases fate with
    | clean => exact ih h1
    | corrected => exact ih (memCe_keeps h1)
    | open_ =>
      dsimp only
      have h2 := State.drawBytes_keeps (s0 := s0) 32 h1
      generalize s1.drawBytes 32 = p at h2 ⊢
      obtain ⟨bs, s2⟩ := p
      exact ih (State.wordWrite_keeps h2)
    | lost =>
      dsimp only
      split
      · exact ih (memUe_keeps h1)
      · exact memUe_keeps h1

theorem codeWords_keeps' {s0 s : State} {f : FrameId} {who : Reader} {l : List (Nat × Nat)} {out : _}
    (eq : codeWords s f who l = out) (h : Keeps s0 s) : Keeps s0 out.2 := eq ▸ codeWords_keeps h

theorem readFrame_keeps {s0 : State} {s : State} {f : FrameId} {off : Nat} {n : Nat} {at_ : Nat} {found : Findings} {who : Reader} (kp : Keeps s0 s) :
    Keeps s0 (readFrame s f off n at_ found who).2 := by
  unfold readFrame
  try dsimp only
  repeat' first
    | with_reducible assumption | with_reducible apply codeWords_keeps | refine codeWords_keeps' (out := (_, _)) (by with_reducible assumption) ?_
    | with_reducible apply cxlPoison_keeps | split
    | (intro _ hx; (first | show CtxOk _ | show TileOk _ | show Memory.wf _ = true); (repeat' first | exact hx | exact CtxOk.noSave rfl | split | dsimp only); done)
    | intro _ _ _ | intro _ _ | intro _ | dsimp only | (rw [id_eq]) | with_reducible refine Keeps.put ?_ (fun x => x) (fun x => x)

theorem readFrame_keeps' {s0 : State} {s : State} {f : FrameId} {off : Nat} {n : Nat} {at_ : Nat} {found : Findings} {who : Reader} {out : _} (eq : readFrame s f off n at_ found who = out) (kp : Keeps s0 s) :
    Keeps s0 out.2 := eq ▸ readFrame_keeps kp

theorem readPages_keeps {s0 : State} {s : State} {k : Nat} {found : Findings} {who : Reader} {x4 : List (Nat × Nat)} (kp : Keeps s0 s) :
    Keeps s0 (readPages s k found who x4).2 := by
  revert kp
  fun_induction readPages s k found who x4 <;> intro kp
  all_goals
    repeat' first
      | with_reducible assumption | with_reducible apply readFrame_keeps
      | refine readFrame_keeps' (out := (_, _)) (by with_reducible assumption) ?_ | with_reducible apply_assumption -exfalso -symm | split
      | (intro _ hx; (first | show CtxOk _ | show TileOk _ | show Memory.wf _ = true); (repeat' first | exact hx | exact CtxOk.noSave rfl | split | dsimp only); done)
      | intro _ _ _ | intro _ _ | intro _ | dsimp only | (rw [id_eq]) | with_reducible refine Keeps.put ?_ (fun x => x) (fun x => x)

theorem readPages_keeps' {s0 : State} {s : State} {k : Nat} {found : Findings} {who : Reader} {x4 : List (Nat × Nat)} {out : _} (eq : readPages s k found who x4 = out) (kp : Keeps s0 s) :
    Keeps s0 out.2 := eq ▸ readPages_keeps kp

theorem State.countAccs_keeps {s0 : State} {s : State} {k : Nat} {rs : List (Nat × Nat)} (kp : Keeps s0 s) :
    Keeps s0 (State.countAccs s k rs) := by
  unfold State.countAccs
  try dsimp only
  repeat' first
    | with_reducible assumption | with_reducible apply State.each_keeps | with_reducible apply State.modPte_keeps | split
    | (intro _ hx; (first | show CtxOk _ | show TileOk _ | show Memory.wf _ = true); (repeat' first | exact hx | exact CtxOk.noSave rfl | split | dsimp only); done)
    | intro _ _ _ | intro _ _ | intro _ | dsimp only | (rw [id_eq]) | with_reducible refine Keeps.put ?_ (fun x => x) (fun x => x)

theorem engineRead_keeps {s0 : State} {s : State} {k : Nat} {va : Nat} {n : Nat} {found : Findings} (kp : Keeps s0 s) :
    Keeps s0 (engineRead s k va n found).2 := by
  unfold engineRead
  try dsimp only
  repeat' first
    | with_reducible assumption | with_reducible apply State.countAccs_keeps | with_reducible apply readPages_keeps
    | refine readPages_keeps' (out := (_, _)) (by with_reducible assumption) ?_ | split
    | (intro _ hx; (first | show CtxOk _ | show TileOk _ | show Memory.wf _ = true); (repeat' first | exact hx | exact CtxOk.noSave rfl | split | dsimp only); done)
    | intro _ _ _ | intro _ _ | intro _ | dsimp only | (rw [id_eq]) | with_reducible refine Keeps.put ?_ (fun x => x) (fun x => x)

theorem engineRead_keeps' {s0 : State} {s : State} {k : Nat} {va : Nat} {n : Nat} {found : Findings} {out : _} (eq : engineRead s k va n found = out) (kp : Keeps s0 s) :
    Keeps s0 out.2 := eq ▸ engineRead_keeps kp

end Sys2Proof.Machine
end

