-- ==== Sys2Proof/Laws/KeepsFlags.lean ====
section
/-! SUPPORT. What each operation of Machine/Flags.lean keeps. -/

namespace Sys2Proof.Machine

open Sys2Proof.Safety

set_option linter.all false
set_option Elab.async false

theorem satBlocks_keeps {s0 : State} {s : State} {t : Nat} {n : Nat} (kp : Keeps s0 s) :
    Keeps s0 (satBlocks s t n) := by
  unfold satBlocks
  try dsimp only
  repeat' first
    | with_reducible assumption | with_reducible apply State.addFld_keeps | split
    | (intro _ hx; (first | show CtxOk _ | show TileOk _ | show Memory.wf _ = true); (repeat' first | exact hx | exact CtxOk.noSave rfl | split | dsimp only); done)
    | intro _ _ _ | intro _ _ | intro _ | dsimp only | (rw [id_eq]) | with_reducible refine Keeps.put ?_ (fun x => x) (fun x => x)

theorem bankWait_keeps {s0 : State} {s : State} {t : Nat} {n : Nat} (kp : Keeps s0 s) :
    Keeps s0 (bankWait s t n) := by
  unfold bankWait
  try dsimp only
  repeat' first
    | with_reducible assumption | with_reducible apply State.addFld_keeps | split
    | (intro _ hx; (first | show CtxOk _ | show TileOk _ | show Memory.wf _ = true); (repeat' first | exact hx | exact CtxOk.noSave rfl | split | dsimp only); done)
    | intro _ _ _ | intro _ _ | intro _ | dsimp only | (rw [id_eq]) | with_reducible refine Keeps.put ?_ (fun x => x) (fun x => x)

theorem meshWait_keeps {s0 : State} {s : State} {n : Nat} (kp : Keeps s0 s) :
    Keeps s0 (meshWait s n) := by
  unfold meshWait
  try dsimp only
  repeat' first
    | with_reducible assumption | with_reducible apply State.addFld_keeps | split
    | (intro _ hx; (first | show CtxOk _ | show TileOk _ | show Memory.wf _ = true); (repeat' first | exact hx | exact CtxOk.noSave rfl | split | dsimp only); done)
    | intro _ _ _ | intro _ _ | intro _ | dsimp only | (rw [id_eq]) | with_reducible refine Keeps.put ?_ (fun x => x) (fun x => x)

theorem countClamped_keeps {s0 : State} {s : State} {t : Nat} (kp : Keeps s0 s) :
    Keeps s0 (countClamped s t) := by
  unfold countClamped
  try dsimp only
  repeat' first
    | with_reducible assumption | with_reducible apply State.addFld_keeps | with_reducible apply raise_keeps | split
    | (intro _ hx; (first | show CtxOk _ | show TileOk _ | show Memory.wf _ = true); (repeat' first | exact hx | exact CtxOk.noSave rfl | split | dsimp only); done)
    | intro _ _ _ | intro _ _ | intro _ | dsimp only | (rw [id_eq]) | with_reducible refine Keeps.put ?_ (fun x => x) (fun x => x)

theorem sramCe_keeps {s0 : State} {s : State} {t : Nat} (kp : Keeps s0 s) :
    Keeps s0 (sramCe s t) := by
  unfold sramCe
  try dsimp only
  repeat' first
    | with_reducible assumption | with_reducible apply State.addFld_keeps | with_reducible apply raise_keeps | split
    | (intro _ hx; (first | show CtxOk _ | show TileOk _ | show Memory.wf _ = true); (repeat' first | exact hx | exact CtxOk.noSave rfl | split | dsimp only); done)
    | intro _ _ _ | intro _ _ | intro _ | dsimp only | (rw [id_eq]) | with_reducible refine Keeps.put ?_ (fun x => x) (fun x => x)

theorem sramUe_keeps {s0 : State} {s : State} {t : Nat} {addr : Nat} (kp : Keeps s0 s) :
    Keeps s0 (sramUe s t addr) := by
  unfold sramUe
  try dsimp only
  repeat' first
    | with_reducible assumption | with_reducible apply State.modTile_keeps | with_reducible apply State.setRg_keeps
    | with_reducible apply raise_keeps | split | exact fun _ (hx : TileOk _) => hx
    | exact fun _ (hx : TileOk _) => ⟨Memory.write_wf _ _ _ hx.1, hx.2⟩ | exact fun _ (hx : TileOk _) => ⟨writeRanges_wf _ _ _ hx.1, hx.2⟩
    | exact fun _ (hx : TileOk _) => ⟨writeTensor_wf _ _ _ _ hx.1, hx.2⟩
    | (intro _ hx; (first | show CtxOk _ | show TileOk _ | show Memory.wf _ = true); (repeat' first | exact hx | exact CtxOk.noSave rfl | split | dsimp only); done)
    | intro _ _ _ | intro _ _ | intro _ | dsimp only | (rw [id_eq]) | with_reducible refine Keeps.put ?_ (fun x => x) (fun x => x)

theorem decodeLines_keeps {s0 s : State} {t : Nat} {l : List (Nat × Nat)} (h : Keeps s0 s) : Keeps s0 (decodeLines s t l).2 := by
  induction l generalizing s with
  | nil => exact h
  | cons e r ih =>
    obtain ⟨a, n⟩ := e
    unfold decodeLines
    rcases hf : s.fate false n with ⟨fate, s1⟩
    have h1 : Keeps s0 s1 := State.fate_keeps' (out := (_, _)) hf h
    cases fate with
    | clean => exact ih h1
    | corrected => exact ih (sramCe_keeps h1)
    | open_ =>
      dsimp only
      have h2 := State.drawBytes_keeps (s0 := s0) 32 h1
      generalize s1.drawBytes 32 = p at h2 ⊢
      obtain ⟨bs, s2⟩ := p
      exact ih (State.modTile_keeps h2 fun x hx => ⟨Memory.write_wf _ _ _ hx.1, hx.2⟩)
    | lost => exact sramUe_keeps h1

theorem decodeLines_keeps' {s0 s : State} {t : Nat} {l : List (Nat × Nat)} {out : _}
    (eq : decodeLines s t l = out) (h : Keeps s0 s) : Keeps s0 out.2 := eq ▸ decodeLines_keeps h

theorem unsettle_keeps {s0 s : State} {t : Nat} {rs : List (Nat × Nat)} (h : Keeps s0 s) : Keeps s0 (unsettle s t rs) := by
  unfold unsettle
  extract_lets hit keys s1
  split
  · exact h
  · refine State.each_keeps (State.modTile_keeps h fun _ hx => hx) fun s1 r h1 => ?_
    have h2 := State.drawBytes_keeps (s0 := s0) ((addrsOf ((s1.getTile t).rangesOf r 58)).filter (inRanges rs)).length h1
    exact State.modTile_keeps h2 fun _ hx => ⟨fold_wf _ (fun _ _ hm => Memory.set_wf _ _ _ hm) _ _ hx.1, hx.2⟩

theorem readSram_keeps {s0 : State} {s : State} {t : Nat} {found : Findings} {rs : List (Nat × Nat)} (kp : Keeps s0 s) :
    Keeps s0 (readSram s t found rs).2 := by
  unfold readSram
  try dsimp only
  repeat' first
    | with_reducible assumption | with_reducible apply decodeLines_keeps
    | refine decodeLines_keeps' (out := (_, _)) (by with_reducible assumption) ?_ | with_reducible apply unsettle_keeps | split
    | (intro _ hx; (first | show CtxOk _ | show TileOk _ | show Memory.wf _ = true); (repeat' first | exact hx | exact CtxOk.noSave rfl | split | dsimp only); done)
    | intro _ _ _ | intro _ _ | intro _ | dsimp only | (rw [id_eq]) | with_reducible refine Keeps.put ?_ (fun x => x) (fun x => x)

theorem readSram_keeps' {s0 : State} {s : State} {t : Nat} {found : Findings} {rs : List (Nat × Nat)} {out : _} (eq : readSram s t found rs = out) (kp : Keeps s0 s) :
    Keeps s0 out.2 := eq ▸ readSram_keeps kp

theorem highWater_keeps {s0 : State} {s : State} {t : Nat} {q : Nat} {depth : Nat} (kp : Keeps s0 s) :
    Keeps s0 (highWater s t q depth) := by
  unfold highWater
  try dsimp only
  repeat' first
    | with_reducible assumption | with_reducible apply State.setFld_keeps | split
    | (intro _ hx; (first | show CtxOk _ | show TileOk _ | show Memory.wf _ = true); (repeat' first | exact hx | exact CtxOk.noSave rfl | split | dsimp only); done)
    | intro _ _ _ | intro _ _ | intro _ | dsimp only | (rw [id_eq]) | with_reducible refine Keeps.put ?_ (fun x => x) (fun x => x)

theorem maxLat_keeps {s0 : State} {s : State} {t : Nat} {q : Nat} (kp : Keeps s0 s) :
    Keeps s0 (maxLat s t q) := by
  unfold maxLat
  try dsimp only
  repeat' first
    | with_reducible assumption | with_reducible apply State.draw_keeps
    | refine State.draw_keeps' (out := (_, _)) (by with_reducible assumption) ?_ | with_reducible apply State.setFld_keeps | split
    | (intro _ hx; (first | show CtxOk _ | show TileOk _ | show Memory.wf _ = true); (repeat' first | exact hx | exact CtxOk.noSave rfl | split | dsimp only); done)
    | intro _ _ _ | intro _ _ | intro _ | dsimp only | (rw [id_eq]) | with_reducible refine Keeps.put ?_ (fun x => x) (fun x => x)

theorem State.watchObj_keeps {s0 : State} {s : State} {t : Nat} {k : Nat} (kp : Keeps s0 s) :
    Keeps s0 (State.watchObj s t k) := by
  unfold State.watchObj
  try dsimp only
  repeat' first
    | with_reducible assumption | with_reducible apply State.each_keeps | with_reducible apply State.endSyncWatch_keeps | split
    | (intro _ hx; (first | show CtxOk _ | show TileOk _ | show Memory.wf _ = true); (repeat' first | exact hx | exact CtxOk.noSave rfl | split | dsimp only); done)
    | intro _ _ _ | intro _ _ | intro _ | dsimp only | (rw [id_eq]) | with_reducible refine Keeps.put ?_ (fun x => x) (fun x => x)

theorem barrierReport_keeps {s0 : State} {s : State} {l : Nat} {slack : Nat} (kp : Keeps s0 s) :
    Keeps s0 (barrierReport s l slack) := by
  unfold barrierReport
  try dsimp only
  repeat' first
    | with_reducible assumption | with_reducible apply State.addFld_keeps | with_reducible apply State.setFld_keeps | split
    | (intro _ hx; (first | show CtxOk _ | show TileOk _ | show Memory.wf _ = true); (repeat' first | exact hx | exact CtxOk.noSave rfl | split | dsimp only); done)
    | intro _ _ _ | intro _ _ | intro _ | dsimp only | (rw [id_eq]) | with_reducible refine Keeps.put ?_ (fun x => x) (fun x => x)

theorem increment_keeps {s0 : State} {s : State} {t : Nat} {k : Nat} {value : BitVec 32} {src : SigSource} (kp : Keeps s0 s) :
    Keeps s0 (increment s t k value src) := by
  unfold increment
  try dsimp only
  repeat' first
    | with_reducible assumption | with_reducible apply State.addFld_keeps | with_reducible apply State.modTile_keeps
    | with_reducible apply State.watchObj_keeps | split | exact fun _ (hx : TileOk _) => hx
    | exact fun _ (hx : TileOk _) => ⟨Memory.write_wf _ _ _ hx.1, hx.2⟩ | exact fun _ (hx : TileOk _) => ⟨writeRanges_wf _ _ _ hx.1, hx.2⟩
    | exact fun _ (hx : TileOk _) => ⟨writeTensor_wf _ _ _ _ hx.1, hx.2⟩
    | (intro _ hx; (first | show CtxOk _ | show TileOk _ | show Memory.wf _ = true); (repeat' first | exact hx | exact CtxOk.noSave rfl | split | dsimp only); done)
    | intro _ _ _ | intro _ _ | intro _ | dsimp only | (rw [id_eq]) | with_reducible refine Keeps.put ?_ (fun x => x) (fun x => x)

theorem watchWrite_keeps {s0 : State} {s : State} {acc : Accessor} {t : Nat} {w : Nat} {v : Word} (kp : Keeps s0 s) :
    Keeps s0 (watchWrite s acc t w v) := by
  unfold watchWrite
  try dsimp only
  repeat' first
    | with_reducible assumption | with_reducible apply State.endSyncWatch_keeps | with_reducible apply State.setBit_keeps
    | with_reducible apply State.setFld_keeps | with_reducible apply State.setRg_keeps | with_reducible apply State.watchObj_keeps | split
    | (intro _ hx; (first | show CtxOk _ | show TileOk _ | show Memory.wf _ = true); (repeat' first | exact hx | exact CtxOk.noSave rfl | split | dsimp only); done)
    | intro _ _ _ | intro _ _ | intro _ | dsimp only | (rw [id_eq]) | with_reducible refine Keeps.put ?_ (fun x => x) (fun x => x)

theorem execSyncWatchArm_keeps {s0 : State} {acc : Accessor} {t : TileIx} {w : Fin 3} {value : Word} {s : State} (kp : Keeps s0 s) :
    KeepsN s0 (execSyncWatchArm acc t w value s) := by
  unfold execSyncWatchArm
  try dsimp only
  repeat' first
    | with_reducible assumption | with_reducible apply onBlock_keeps | with_reducible apply watchWrite_keeps | with_reducible apply KeepsN.next
    | with_reducible apply KeepsN.fault | split
    | (intro _ hx; (first | show CtxOk _ | show TileOk _ | show Memory.wf _ = true); (repeat' first | exact hx | exact CtxOk.noSave rfl | split | dsimp only); done)
    | intro _ _ _ | intro _ _ | intro _ | dsimp only | (rw [id_eq]) | with_reducible refine Keeps.put ?_ (fun x => x) (fun x => x)

theorem execSyncWatchTimeout_keeps {s0 : State} {t : TileIx} {w : Fin 3} {s : State} (kp : Keeps s0 s) :
    KeepsN s0 (execSyncWatchTimeout t w s) := by
  unfold execSyncWatchTimeout
  try dsimp only
  repeat' first
    | with_reducible assumption | with_reducible apply State.endSyncWatch_keeps | with_reducible apply KeepsN.next
    | with_reducible apply KeepsN.fault | split
    | (intro _ hx; (first | show CtxOk _ | show TileOk _ | show Memory.wf _ = true); (repeat' first | exact hx | exact CtxOk.noSave rfl | split | dsimp only); done)
    | intro _ _ _ | intro _ _ | intro _ | dsimp only | (rw [id_eq]) | with_reducible refine Keeps.put ?_ (fun x => x) (fun x => x)

end Sys2Proof.Machine
end

