-- ==== Sys2Proof/Laws/KeepsSequencer.lean ====
section
/-! SUPPORT. What each operation of Machine/Sequencer.lean keeps. -/

namespace Sys2Proof.Machine

open Sys2Proof.Safety

set_option linter.all false
set_option Elab.async false

theorem fetchLine_keeps {s0 : State} {s : State} {k : Nat} {va : Nat} {len : Nat} {pos : Nat} {found : Findings} {put : State → List MacroOp → State} (kp : Keeps s0 s) (hput : ∀ s1 a2, Keeps s0 s1 → Keeps s0 (put s1 a2)) :
    Keeps s0 (fetchLine s k va len pos found put) := by
  unfold fetchLine
  try dsimp only
  repeat' first
    | with_reducible assumption | with_reducible apply readPages_keeps | refine readPages_keeps' (out := (_, _)) (by with_reducible assumption) ?_
    | with_reducible apply hput | split
    | (intro _ hx; (first | show CtxOk _ | show TileOk _ | show Memory.wf _ = true); (repeat' first | exact hx | exact CtxOk.noSave rfl | split | dsimp only); done)
    | intro _ _ _ | intro _ _ | intro _ | dsimp only | (rw [id_eq]) | with_reducible refine Keeps.put ?_ (fun x => x) (fun x => x)

theorem streamFetch_keeps {s0 : State} {s : State} {t : Nat} {found : Findings} (kp : Keeps s0 s) :
    Keeps s0 (streamFetch s t found) := by
  unfold streamFetch
  try dsimp only
  repeat' first
    | with_reducible assumption | with_reducible apply State.modTile_keeps | with_reducible apply fetchLine_keeps | split
    | exact fun _ (hx : TileOk _) => hx | exact fun _ (hx : TileOk _) => ⟨Memory.write_wf _ _ _ hx.1, hx.2⟩
    | exact fun _ (hx : TileOk _) => ⟨writeRanges_wf _ _ _ hx.1, hx.2⟩ | exact fun _ (hx : TileOk _) => ⟨writeTensor_wf _ _ _ _ hx.1, hx.2⟩
    | (intro _ hx; (first | show CtxOk _ | show TileOk _ | show Memory.wf _ = true); (repeat' first | exact hx | exact CtxOk.noSave rfl | split | dsimp only); done)
    | intro _ _ _ | intro _ _ | intro _ | dsimp only | (rw [id_eq]) | with_reducible refine Keeps.put ?_ (fun x => x) (fun x => x)

theorem execStreamLineFetch_keeps {s0 : State} {t : TileIx} {found : Findings} {s : State} (kp : Keeps s0 s) :
    KeepsN s0 (execStreamLineFetch t found s) := by
  unfold execStreamLineFetch
  try dsimp only
  repeat' first
    | with_reducible assumption | with_reducible apply streamFetch_keeps | with_reducible apply KeepsN.next | with_reducible apply KeepsN.fault
    | split
    | (intro _ hx; (first | show CtxOk _ | show TileOk _ | show Memory.wf _ = true); (repeat' first | exact hx | exact CtxOk.noSave rfl | split | dsimp only); done)
    | intro _ _ _ | intro _ _ | intro _ | dsimp only | (rw [id_eq]) | with_reducible refine Keeps.put ?_ (fun x => x) (fun x => x)

theorem barrierWait_keeps {s0 : State} {s : State} {t : Nat} {k : Nat} (kp : Keeps s0 s) :
    Keeps s0 (barrierWait s t k) := by
  unfold barrierWait
  try dsimp only
  repeat' first
    | with_reducible assumption | with_reducible apply State.addFld_keeps | with_reducible apply State.modTile_keeps
    | with_reducible apply notice_keeps | split | exact fun _ (hx : TileOk _) => hx
    | exact fun _ (hx : TileOk _) => ⟨Memory.write_wf _ _ _ hx.1, hx.2⟩ | exact fun _ (hx : TileOk _) => ⟨writeRanges_wf _ _ _ hx.1, hx.2⟩
    | exact fun _ (hx : TileOk _) => ⟨writeTensor_wf _ _ _ _ hx.1, hx.2⟩
    | (intro _ hx; (first | show CtxOk _ | show TileOk _ | show Memory.wf _ = true); (repeat' first | exact hx | exact CtxOk.noSave rfl | split | dsimp only); done)
    | intro _ _ _ | intro _ _ | intro _ | dsimp only | (rw [id_eq]) | with_reducible refine Keeps.put ?_ (fun x => x) (fun x => x)

theorem stepEnd_keeps {s0 : State} {s : State} {k : Nat} {t : Nat} {o : MacroOp} (kp : Keeps s0 s) :
    Keeps s0 (stepEnd s k t o) := by
  unfold stepEnd
  try dsimp only
  repeat' first
    | with_reducible assumption | with_reducible apply State.modCtx_keeps | with_reducible apply State.modTile_keeps
    | with_reducible apply against_keeps | split | exact fun _ (hx : CtxOk _) => hx | exact fun _ (hx : TileOk _) => hx
    | exact fun _ (hx : TileOk _) => ⟨Memory.write_wf _ _ _ hx.1, hx.2⟩ | exact fun _ (hx : TileOk _) => ⟨writeRanges_wf _ _ _ hx.1, hx.2⟩
    | exact fun _ (hx : TileOk _) => ⟨writeTensor_wf _ _ _ _ hx.1, hx.2⟩
    | (intro _ hx; (first | show CtxOk _ | show TileOk _ | show Memory.wf _ = true); (repeat' first | exact hx | exact CtxOk.noSave rfl | split | dsimp only); done)
    | intro _ _ _ | intro _ _ | intro _ | dsimp only | (rw [id_eq]) | with_reducible refine Keeps.put ?_ (fun x => x) (fun x => x)

theorem act_keeps {s0 : State} {s : State} {k : Nat} {t : Nat} {o : MacroOp} (kp : Keeps s0 s) :
    Keeps s0 (act s k t o) := by
  unfold act
  try dsimp only
  repeat' first
    | with_reducible assumption | with_reducible apply State.modServe_keeps | with_reducible apply State.modTile_keeps
    | with_reducible apply barrierWait_keeps | with_reducible apply increment_keeps | with_reducible apply stepEnd_keeps | split
    | exact fun _ (hx : TileOk _) => hx | exact fun _ (hx : TileOk _) => ⟨Memory.write_wf _ _ _ hx.1, hx.2⟩
    | exact fun _ (hx : TileOk _) => ⟨writeRanges_wf _ _ _ hx.1, hx.2⟩ | exact fun _ (hx : TileOk _) => ⟨writeTensor_wf _ _ _ _ hx.1, hx.2⟩
    | (intro _ hx; (first | show CtxOk _ | show TileOk _ | show Memory.wf _ = true); (repeat' first | exact hx | exact CtxOk.noSave rfl | split | dsimp only); done)
    | intro _ _ _ | intro _ _ | intro _ | dsimp only | (rw [id_eq]) | with_reducible refine Keeps.put ?_ (fun x => x) (fun x => x)

theorem dispatch_keeps {s0 : State} {s : State} {k : Nat} {t : Nat} {c : Nat} (kp : Keeps s0 s) :
    Keeps s0 (dispatch s k t c) := by
  unfold dispatch
  try dsimp only
  repeat' first
    | with_reducible assumption | with_reducible apply State.modTile_keeps | with_reducible apply act_keeps | split
    | exact fun _ (hx : TileOk _) => hx | exact fun _ (hx : TileOk _) => ⟨Memory.write_wf _ _ _ hx.1, hx.2⟩
    | exact fun _ (hx : TileOk _) => ⟨writeRanges_wf _ _ _ hx.1, hx.2⟩ | exact fun _ (hx : TileOk _) => ⟨writeTensor_wf _ _ _ _ hx.1, hx.2⟩
    | (intro _ hx; (first | show CtxOk _ | show TileOk _ | show Memory.wf _ = true); (repeat' first | exact hx | exact CtxOk.noSave rfl | split | dsimp only); done)
    | intro _ _ _ | intro _ _ | intro _ | dsimp only | (rw [id_eq]) | with_reducible refine Keeps.put ?_ (fun x => x) (fun x => x)

theorem dispatchIf_keeps {s0 : State} {s : State} {k : Nat} {t : Nat} (kp : Keeps s0 s) :
    Keeps s0 (dispatchIf s k t) := by
  unfold dispatchIf
  try dsimp only
  repeat' first
    | with_reducible assumption | with_reducible apply dispatch_keeps | split
    | (intro _ hx; (first | show CtxOk _ | show TileOk _ | show Memory.wf _ = true); (repeat' first | exact hx | exact CtxOk.noSave rfl | split | dsimp only); done)
    | intro _ _ _ | intro _ _ | intro _ | dsimp only | (rw [id_eq]) | with_reducible refine Keeps.put ?_ (fun x => x) (fun x => x)

theorem wakeHint_keeps {s0 : State} {s : State} {k : Nat} {t : Nat} (kp : Keeps s0 s) :
    Keeps s0 (wakeHint s k t) := by
  unfold wakeHint
  try dsimp only
  repeat' first
    | with_reducible assumption | with_reducible apply State.modTile_keeps | split | exact fun _ (hx : TileOk _) => hx
    | exact fun _ (hx : TileOk _) => ⟨Memory.write_wf _ _ _ hx.1, hx.2⟩ | exact fun _ (hx : TileOk _) => ⟨writeRanges_wf _ _ _ hx.1, hx.2⟩
    | exact fun _ (hx : TileOk _) => ⟨writeTensor_wf _ _ _ _ hx.1, hx.2⟩
    | (intro _ hx; (first | show CtxOk _ | show TileOk _ | show Memory.wf _ = true); (repeat' first | exact hx | exact CtxOk.noSave rfl | split | dsimp only); done)
    | intro _ _ _ | intro _ _ | intro _ | dsimp only | (rw [id_eq]) | with_reducible refine Keeps.put ?_ (fun x => x) (fun x => x)

theorem execWakeHint_keeps {s0 : State} {t : TileIx} {s : State} (kp : Keeps s0 s) :
    KeepsN s0 (execWakeHint t s) := by
  unfold execWakeHint
  try dsimp only
  repeat' first
    | with_reducible assumption | with_reducible apply wakeHint_keeps | with_reducible apply KeepsN.next | with_reducible apply KeepsN.fault
    | split
    | (intro _ hx; (first | show CtxOk _ | show TileOk _ | show Memory.wf _ = true); (repeat' first | exact hx | exact CtxOk.noSave rfl | split | dsimp only); done)
    | intro _ _ _ | intro _ _ | intro _ | dsimp only | (rw [id_eq]) | with_reducible refine Keeps.put ?_ (fun x => x) (fun x => x)

theorem execTileWakeComplete_keeps {s0 : State} {t : TileIx} {s : State} (kp : Keeps s0 s) :
    KeepsN s0 (execTileWakeComplete t s) := by
  unfold execTileWakeComplete
  try dsimp only
  repeat' first
    | with_reducible assumption | with_reducible apply State.modTile_keeps | with_reducible apply KeepsN.next | with_reducible apply KeepsN.fault
    | split | exact fun _ (hx : TileOk _) => hx | exact fun _ (hx : TileOk _) => ⟨Memory.write_wf _ _ _ hx.1, hx.2⟩
    | exact fun _ (hx : TileOk _) => ⟨writeRanges_wf _ _ _ hx.1, hx.2⟩ | exact fun _ (hx : TileOk _) => ⟨writeTensor_wf _ _ _ _ hx.1, hx.2⟩
    | (intro _ hx; (first | show CtxOk _ | show TileOk _ | show Memory.wf _ = true); (repeat' first | exact hx | exact CtxOk.noSave rfl | split | dsimp only); done)
    | intro _ _ _ | intro _ _ | intro _ | dsimp only | (rw [id_eq]) | with_reducible refine Keeps.put ?_ (fun x => x) (fun x => x)

end Sys2Proof.Machine
end

