-- ==== Sys2Proof/Laws/KeepsUnits.lean ====
section
/-! SUPPORT. What each operation of Machine/Units.lean keeps. -/

namespace Sys2Proof.Machine

open Sys2Proof.Safety

set_option linter.all false
set_option Elab.async false

theorem startOp_keeps {s0 s : State} {t u : Nat} {r : Running} {found : Findings} (h : Keeps s0 s) :
    Keeps s0 (startOp s t u r found) := by
  unfold startOp
  have h1 := readSram_keeps (t := t) (found := found) (rs := (s.getTile t).startReads r.op) h
  generalize readSram s t found ((s.getTile t).startReads r.op) = p at h1 ⊢
  obtain ⟨dead, s1⟩ := p
  cases dead with
  | true => exact State.modTile_keeps h1 fun _ hx => hx
  | false =>
    dsimp only
    split
    · exact State.modTile_keeps (raise_keeps h1) fun _ hx => hx
    · generalize (s1.getTile t).rawCounts r.op = q
      have h2 : Keeps s0 (s1.each (q.2.filter fun c => decide (q.1 < c)) fun s _ => countClamped s t) :=
        State.each_keeps h1 fun _ _ h => countClamped_keeps h
      split
      · exact highWater_keeps (State.setTile_keeps h2 fun _ hx => hx)
      · split
        · exact State.setTile_keeps h2 fun _ hx => hx
        · exact State.setTile_keeps h2 fun _ hx => hx

theorem unitStart_keeps {s0 s : State} {t u bankWaits : Nat} {found : Findings} (h : Keeps s0 s) : KeepsN s0 (unitStart s t u bankWaits found) := by
  unfold unitStart
  have hs (r : Running) : Keeps s0 (startOp (bankWait s t bankWaits) t u r found) := startOp_keeps (bankWait_keeps h)
  split
  · exact KeepsN.next h
  · dsimp only
    split
    · exact KeepsN.next h
    · split
      · exact KeepsN.next h
      · split
        · split
          · exact KeepsN.fault
          · exact KeepsN.next (hs _)
        · exact KeepsN.next (hs _)

theorem execUnitStart_keeps {s0 s : State} {t : TileIx} {u : UnitId} {bankWaits : Nat} {found : Findings} (h : Keeps s0 s) :
    KeepsN s0 (execUnitStart t u bankWaits found s) := unitStart_keeps h

theorem markDone_keeps {s0 : State} {s : State} {t : Nat} {u : Nat} (kp : Keeps s0 s) :
    Keeps s0 (markDone s t u) := by
  unfold markDone
  try dsimp only
  repeat' first
    | with_reducible assumption | with_reducible apply State.modTile_keeps | split | exact fun _ (hx : TileOk _) => hx
    | exact fun _ (hx : TileOk _) => ⟨Memory.write_wf _ _ _ hx.1, hx.2⟩ | exact fun _ (hx : TileOk _) => ⟨writeRanges_wf _ _ _ hx.1, hx.2⟩
    | exact fun _ (hx : TileOk _) => ⟨writeTensor_wf _ _ _ _ hx.1, hx.2⟩
    | (intro _ hx; (first | show CtxOk _ | show TileOk _ | show Memory.wf _ = true); (repeat' first | exact hx | exact CtxOk.noSave rfl | split | dsimp only); done)
    | intro _ _ _ | intro _ _ | intro _ | dsimp only | (rw [id_eq]) | with_reducible refine Keeps.put ?_ (fun x => x) (fun x => x)

theorem perform_keeps {s0 : State} {s : State} {t : Nat} {p : MacroOp → Bool} {inputs : Running → List Nat} {found : Findings} {body : State → Running → State} (kp : Keeps s0 s) (hbody : ∀ s1 a2, Keeps s0 s1 → Keeps s0 (body s1 a2)) :
    Keeps s0 (perform s t p inputs found body) := by
  unfold perform
  try dsimp only
  repeat' first
    | with_reducible assumption | with_reducible apply markDone_keeps | with_reducible apply readSram_keeps
    | refine readSram_keeps' (out := (_, _)) (by with_reducible assumption) ?_ | with_reducible apply hp | with_reducible apply hinputs
    | with_reducible apply hbody | split
    | (intro _ hx; (first | show CtxOk _ | show TileOk _ | show Memory.wf _ = true); (repeat' first | exact hx | exact CtxOk.noSave rfl | split | dsimp only); done)
    | intro _ _ _ | intro _ _ | intro _ | dsimp only | (rw [id_eq]) | with_reducible refine Keeps.put ?_ (fun x => x) (fun x => x)

theorem handOff_keeps {s0 : State} {s : State} {t : Nat} {u : Nat} {r : Running} (kp : Keeps s0 s) :
    Keeps s0 (handOff s t u r) := by
  unfold handOff
  try dsimp only
  repeat' first
    | with_reducible assumption | with_reducible apply State.modTile_keeps | split | exact fun _ (hx : TileOk _) => hx
    | exact fun _ (hx : TileOk _) => ⟨Memory.write_wf _ _ _ hx.1, hx.2⟩ | exact fun _ (hx : TileOk _) => ⟨writeRanges_wf _ _ _ hx.1, hx.2⟩
    | exact fun _ (hx : TileOk _) => ⟨writeTensor_wf _ _ _ _ hx.1, hx.2⟩
    | (intro _ hx; (first | show CtxOk _ | show TileOk _ | show Memory.wf _ = true); (repeat' first | exact hx | exact CtxOk.noSave rfl | split | dsimp only); done)
    | intro _ _ _ | intro _ _ | intro _ | dsimp only | (rw [id_eq]) | with_reducible refine Keeps.put ?_ (fun x => x) (fun x => x)

theorem completionSignal_keeps {s0 : State} {s : State} {t : Nat} {r : Running} (kp : Keeps s0 s) :
    Keeps s0 (completionSignal s t r) := by
  unfold completionSignal
  try dsimp only
  repeat' first
    | with_reducible assumption | with_reducible apply increment_keeps | split
    | (intro _ hx; (first | show CtxOk _ | show TileOk _ | show Memory.wf _ = true); (repeat' first | exact hx | exact CtxOk.noSave rfl | split | dsimp only); done)
    | intro _ _ _ | intro _ _ | intro _ | dsimp only | (rw [id_eq]) | with_reducible refine Keeps.put ?_ (fun x => x) (fun x => x)

theorem endVReq_keeps {s0 : State} {s : State} {t : Nat} {key : Nat} (kp : Keeps s0 s) :
    Keeps s0 (endVReq s t key) := by
  unfold endVReq
  try dsimp only
  repeat' first
    | with_reducible assumption | with_reducible apply State.each_keeps | with_reducible apply State.endRunning_keeps
    | with_reducible apply State.modVault_keeps | split | exact fun _ hx => (show Memory.wf _ = true from hx)
    | exact fun _ hx => Memory.write_wf _ _ _ hx | exact fun _ hx => Memory.clear_wf _ _ _ hx | exact fun _ hx => Memory.copy_wf _ _ _ _ _ hx
    | (intro _ hx; (first | show CtxOk _ | show TileOk _ | show Memory.wf _ = true); (repeat' first | exact hx | exact CtxOk.noSave rfl | split | dsimp only); done)
    | intro _ _ _ | intro _ _ | intro _ | dsimp only | (rw [id_eq]) | with_reducible refine Keeps.put ?_ (fun x => x) (fun x => x)

theorem complete_keeps {s0 : State} {s : State} {t : Nat} {u : Nat} (kp : Keeps s0 s) :
    Keeps s0 (complete s t u) := by
  unfold complete
  try dsimp only
  repeat' first
    | with_reducible assumption | with_reducible apply State.modTile_keeps | with_reducible apply completionSignal_keeps
    | with_reducible apply endVReq_keeps | with_reducible apply maxLat_keeps | split | exact fun _ (hx : TileOk _) => hx
    | exact fun _ (hx : TileOk _) => ⟨Memory.write_wf _ _ _ hx.1, hx.2⟩ | exact fun _ (hx : TileOk _) => ⟨writeRanges_wf _ _ _ hx.1, hx.2⟩
    | exact fun _ (hx : TileOk _) => ⟨writeTensor_wf _ _ _ _ hx.1, hx.2⟩
    | (intro _ hx; (first | show CtxOk _ | show TileOk _ | show Memory.wf _ = true); (repeat' first | exact hx | exact CtxOk.noSave rfl | exact ⟨writeRanges_wf _ _ _ hx.1, hx.2⟩ | split | dsimp only); done)
    | intro _ _ _ | intro _ _ | intro _ | dsimp only | (rw [id_eq]) | with_reducible refine Keeps.put ?_ (fun x => x) (fun x => x)

theorem execMacroOpComplete_keeps {s0 : State} {t : TileIx} {u : UnitId} {s : State} (kp : Keeps s0 s) :
    KeepsN s0 (execMacroOpComplete t u s) := by
  unfold execMacroOpComplete
  try dsimp only
  repeat' first
    | with_reducible assumption | with_reducible apply complete_keeps | with_reducible apply KeepsN.next | with_reducible apply KeepsN.fault
    | split
    | (intro _ hx; (first | show CtxOk _ | show TileOk _ | show Memory.wf _ = true); (repeat' first | exact hx | exact CtxOk.noSave rfl | split | dsimp only); done)
    | intro _ _ _ | intro _ _ | intro _ | dsimp only | (rw [id_eq]) | with_reducible refine Keeps.put ?_ (fun x => x) (fun x => x)

theorem xferDone_keeps {s0 : State} {s : State} {t : Nat} {u : Nat} {r : Running} (kp : Keeps s0 s) :
    Keeps s0 (xferDone s t u r) := by
  unfold xferDone
  try dsimp only
  repeat' first
    | with_reducible assumption | with_reducible apply State.modTile_keeps | split | exact fun _ (hx : TileOk _) => hx
    | exact fun _ (hx : TileOk _) => ⟨Memory.write_wf _ _ _ hx.1, hx.2⟩ | exact fun _ (hx : TileOk _) => ⟨writeRanges_wf _ _ _ hx.1, hx.2⟩
    | exact fun _ (hx : TileOk _) => ⟨writeTensor_wf _ _ _ _ hx.1, hx.2⟩
    | (intro _ hx; (first | show CtxOk _ | show TileOk _ | show Memory.wf _ = true); (repeat' first | exact hx | exact CtxOk.noSave rfl | split | dsimp only); done)
    | intro _ _ _ | intro _ _ | intro _ | dsimp only | (rw [id_eq]) | with_reducible refine Keeps.put ?_ (fun x => x) (fun x => x)

theorem memDenied_keeps {s0 : State} {s : State} {t : Nat} {k : Nat} (kp : Keeps s0 s) :
    Keeps s0 (memDenied s t k) := by
  unfold memDenied
  try dsimp only
  repeat' first
    | with_reducible assumption | with_reducible apply against_keeps | split
    | (intro _ hx; (first | show CtxOk _ | show TileOk _ | show Memory.wf _ = true); (repeat' first | exact hx | exact CtxOk.noSave rfl | split | dsimp only); done)
    | intro _ _ _ | intro _ _ | intro _ | dsimp only | (rw [id_eq]) | with_reducible refine Keeps.put ?_ (fun x => x) (fun x => x)

theorem loadOp_keeps {s0 : State} {s : State} {t : Nat} {q : Nat} {nth : Nat} {found : Findings} (kp : Keeps s0 s) :
    Keeps s0 (loadOp s t q nth found) := by
  unfold loadOp
  try dsimp only
  repeat' first
    | with_reducible assumption | with_reducible apply State.countAccs_keeps | with_reducible apply State.modTile_keeps
    | with_reducible apply bankWait_keeps | with_reducible apply memDenied_keeps | with_reducible apply meshWait_keeps
    | with_reducible apply readPages_keeps | refine readPages_keeps' (out := (_, _)) (by with_reducible assumption) ?_
    | with_reducible apply xferDone_keeps | split | exact fun _ (hx : TileOk _) => hx
    | exact fun _ (hx : TileOk _) => ⟨Memory.write_wf _ _ _ hx.1, hx.2⟩ | exact fun _ (hx : TileOk _) => ⟨writeRanges_wf _ _ _ hx.1, hx.2⟩
    | exact fun _ (hx : TileOk _) => ⟨writeTensor_wf _ _ _ _ hx.1, hx.2⟩
    | (intro _ hx; (first | show CtxOk _ | show TileOk _ | show Memory.wf _ = true); (repeat' first | exact hx | exact CtxOk.noSave rfl | exact ⟨writeRanges_wf _ _ _ hx.1, hx.2⟩ | split | dsimp only); done)
    | intro _ _ _ | intro _ _ | intro _ | dsimp only | (rw [id_eq]) | with_reducible refine Keeps.put ?_ (fun x => x) (fun x => x)

theorem execLoad_keeps {s0 : State} {t : TileIx} {q : Fin 4} {nth : Fin 32} {found : Findings} {s : State} (kp : Keeps s0 s) :
    KeepsN s0 (execLoad t q nth found s) := by
  unfold execLoad
  try dsimp only
  repeat' first
    | with_reducible assumption | with_reducible apply loadOp_keeps | with_reducible apply KeepsN.next | with_reducible apply KeepsN.fault | split
    | (intro _ hx; (first | show CtxOk _ | show TileOk _ | show Memory.wf _ = true); (repeat' first | exact hx | exact CtxOk.noSave rfl | split | dsimp only); done)
    | intro _ _ _ | intro _ _ | intro _ | dsimp only | (rw [id_eq]) | with_reducible refine Keeps.put ?_ (fun x => x) (fun x => x)

theorem ctxWriteRanges_keeps {s0 : State} {s : State} {k : Nat} {tile : Nat} {mop : Nat} {x4 : List (Nat × Nat)} {x5 : List Byte} (kp : Keeps s0 s) :
    Keeps s0 (ctxWriteRanges s k tile mop x4 x5) := by
  revert kp
  fun_induction ctxWriteRanges s k tile mop x4 x5 <;> intro kp
  all_goals
    repeat' first
      | with_reducible assumption | with_reducible apply State.ctxWrite_keeps | with_reducible apply_assumption -exfalso -symm | split
      | (intro _ hx; (first | show CtxOk _ | show TileOk _ | show Memory.wf _ = true); (repeat' first | exact hx | exact CtxOk.noSave rfl | split | dsimp only); done)
      | intro _ _ _ | intro _ _ | intro _ | dsimp only | (rw [id_eq]) | with_reducible refine Keeps.put ?_ (fun x => x) (fun x => x)

theorem storeOp_keeps {s0 : State} {s : State} {t : Nat} {q : Nat} {nth : Nat} {found : Findings} (kp : Keeps s0 s) :
    Keeps s0 (storeOp s t q nth found) := by
  unfold storeOp
  try dsimp only
  repeat' first
    | with_reducible assumption | with_reducible apply State.countAccs_keeps | with_reducible apply bankWait_keeps
    | with_reducible apply ctxWriteRanges_keeps | with_reducible apply memDenied_keeps | with_reducible apply meshWait_keeps
    | with_reducible apply readSram_keeps | refine readSram_keeps' (out := (_, _)) (by with_reducible assumption) ?_
    | with_reducible apply xferDone_keeps | split
    | (intro _ hx; (first | show CtxOk _ | show TileOk _ | show Memory.wf _ = true); (repeat' first | exact hx | exact CtxOk.noSave rfl | split | dsimp only); done)
    | intro _ _ _ | intro _ _ | intro _ | dsimp only | (rw [id_eq]) | with_reducible refine Keeps.put ?_ (fun x => x) (fun x => x)

theorem execStore_keeps {s0 : State} {t : TileIx} {q : Fin 2} {nth : Fin 32} {found : Findings} {s : State} (kp : Keeps s0 s) :
    KeepsN s0 (execStore t q nth found s) := by
  unfold execStore
  try dsimp only
  repeat' first
    | with_reducible assumption | with_reducible apply storeOp_keeps | with_reducible apply KeepsN.next | with_reducible apply KeepsN.fault | split
    | (intro _ hx; (first | show CtxOk _ | show TileOk _ | show Memory.wf _ = true); (repeat' first | exact hx | exact CtxOk.noSave rfl | split | dsimp only); done)
    | intro _ _ _ | intro _ _ | intro _ | dsimp only | (rw [id_eq]) | with_reducible refine Keeps.put ?_ (fun x => x) (fun x => x)

theorem moveOp_keeps {s0 : State} {s : State} {t : Nat} {found : Findings} (kp : Keeps s0 s) :
    Keeps s0 (moveOp s t found) := by
  unfold moveOp
  try dsimp only
  repeat' first
    | with_reducible assumption | with_reducible apply State.modTile_keeps | with_reducible apply bankWait_keeps
    | with_reducible apply handOff_keeps | with_reducible apply markDone_keeps | with_reducible apply readSram_keeps
    | refine readSram_keeps' (out := (_, _)) (by with_reducible assumption) ?_ | split | exact fun _ (hx : TileOk _) => hx
    | exact fun _ (hx : TileOk _) => ⟨Memory.write_wf _ _ _ hx.1, hx.2⟩ | exact fun _ (hx : TileOk _) => ⟨writeRanges_wf _ _ _ hx.1, hx.2⟩
    | exact fun _ (hx : TileOk _) => ⟨writeTensor_wf _ _ _ _ hx.1, hx.2⟩
    | (intro _ hx; (first | show CtxOk _ | show TileOk _ | show Memory.wf _ = true); (repeat' first | exact hx | exact CtxOk.noSave rfl | exact ⟨writeRanges_wf _ _ _ hx.1, hx.2⟩ | split | dsimp only); done)
    | intro _ _ _ | intro _ _ | intro _ | dsimp only | (rw [id_eq]) | with_reducible refine Keeps.put ?_ (fun x => x) (fun x => x)

theorem execMove_keeps {s0 : State} {t : TileIx} {found : Findings} {s : State} (kp : Keeps s0 s) :
    KeepsN s0 (execMove t found s) := by
  unfold execMove
  try dsimp only
  repeat' first
    | with_reducible assumption | with_reducible apply moveOp_keeps | with_reducible apply KeepsN.next | with_reducible apply KeepsN.fault | split
    | (intro _ hx; (first | show CtxOk _ | show TileOk _ | show Memory.wf _ = true); (repeat' first | exact hx | exact CtxOk.noSave rfl | split | dsimp only); done)
    | intro _ _ _ | intro _ _ | intro _ | dsimp only | (rw [id_eq]) | with_reducible refine Keeps.put ?_ (fun x => x) (fun x => x)

theorem takeFlit_keeps {s0 : State} {s : State} {t : Nat} {stream : Nat} {c : Nat} (kp : Keeps s0 s) :
    Keeps s0 (takeFlit s t stream c).2 := by
  unfold takeFlit
  try dsimp only
  repeat' first
    | with_reducible assumption | with_reducible apply State.modTile_keeps | split | exact fun _ (hx : TileOk _) => hx
    | exact fun _ (hx : TileOk _) => ⟨Memory.write_wf _ _ _ hx.1, hx.2⟩ | exact fun _ (hx : TileOk _) => ⟨writeRanges_wf _ _ _ hx.1, hx.2⟩
    | exact fun _ (hx : TileOk _) => ⟨writeTensor_wf _ _ _ _ hx.1, hx.2⟩
    | (intro _ hx; (first | show CtxOk _ | show TileOk _ | show Memory.wf _ = true); (repeat' first | exact hx | exact CtxOk.noSave rfl | split | dsimp only); done)
    | intro _ _ _ | intro _ _ | intro _ | dsimp only | (rw [id_eq]) | with_reducible refine Keeps.put ?_ (fun x => x) (fun x => x)

theorem takeFlit_keeps' {s0 : State} {s : State} {t : Nat} {stream : Nat} {c : Nat} {out : _} (eq : takeFlit s t stream c = out) (kp : Keeps s0 s) :
    Keeps s0 out.2 := eq ▸ takeFlit_keeps kp

theorem fillSlot_keeps {s0 : State} {s : State} {k : Nat} {im : Image} {l : Nat} {g : Nat} (kp : Keeps s0 s) :
    Keeps s0 (fillSlot s k im l g) := by
  unfold fillSlot
  try dsimp only
  repeat' first
    | with_reducible assumption | with_reducible apply State.modLink_keeps | with_reducible apply takeFlit_keeps
    | refine takeFlit_keeps' (out := (_, _)) (by with_reducible assumption) ?_ | split
    | (intro _ hx; (first | show CtxOk _ | show TileOk _ | show Memory.wf _ = true); (repeat' first | exact hx | exact CtxOk.noSave rfl | split | dsimp only); done)
    | intro _ _ _ | intro _ _ | intro _ | dsimp only | (rw [id_eq]) | with_reducible refine Keeps.put ?_ (fun x => x) (fun x => x)

theorem fillDue_keeps {s0 : State} {s : State} {k : Nat} (kp : Keeps s0 s) :
    Keeps s0 (fillDue s k) := by
  unfold fillDue
  try dsimp only
  repeat' first
    | with_reducible assumption | with_reducible apply State.each_keeps | with_reducible apply fillSlot_keeps | split
    | (intro _ hx; (first | show CtxOk _ | show TileOk _ | show Memory.wf _ = true); (repeat' first | exact hx | exact CtxOk.noSave rfl | split | dsimp only); done)
    | intro _ _ _ | intro _ _ | intro _ | dsimp only | (rw [id_eq]) | with_reducible refine Keeps.put ?_ (fun x => x) (fun x => x)

theorem sendOp_keeps {s0 : State} {s : State} {t : Nat} {found : Findings} (kp : Keeps s0 s) :
    Keeps s0 (sendOp s t found) := by
  unfold sendOp
  try dsimp only
  repeat' first
    | with_reducible assumption | with_reducible apply State.modTile_keeps | with_reducible apply bankWait_keeps
    | with_reducible apply fillDue_keeps | with_reducible apply handOff_keeps | with_reducible apply markDone_keeps
    | with_reducible apply readSram_keeps | refine readSram_keeps' (out := (_, _)) (by with_reducible assumption) ?_ | split
    | exact fun _ (hx : TileOk _) => hx | exact fun _ (hx : TileOk _) => ⟨Memory.write_wf _ _ _ hx.1, hx.2⟩
    | exact fun _ (hx : TileOk _) => ⟨writeRanges_wf _ _ _ hx.1, hx.2⟩ | exact fun _ (hx : TileOk _) => ⟨writeTensor_wf _ _ _ _ hx.1, hx.2⟩
    | (intro _ hx; (first | show CtxOk _ | show TileOk _ | show Memory.wf _ = true); (repeat' first | exact hx | exact CtxOk.noSave rfl | split | dsimp only); done)
    | intro _ _ _ | intro _ _ | intro _ | dsimp only | (rw [id_eq]) | with_reducible refine Keeps.put ?_ (fun x => x) (fun x => x)

theorem execSend_keeps {s0 : State} {t : TileIx} {found : Findings} {s : State} (kp : Keeps s0 s) :
    KeepsN s0 (execSend t found s) := by
  unfold execSend
  try dsimp only
  repeat' first
    | with_reducible assumption | with_reducible apply sendOp_keeps | with_reducible apply KeepsN.next | with_reducible apply KeepsN.fault | split
    | (intro _ hx; (first | show CtxOk _ | show TileOk _ | show Memory.wf _ = true); (repeat' first | exact hx | exact CtxOk.noSave rfl | split | dsimp only); done)
    | intro _ _ _ | intro _ _ | intro _ | dsimp only | (rw [id_eq]) | with_reducible refine Keeps.put ?_ (fun x => x) (fun x => x)

theorem signalOut_keeps {s0 : State} {s : State} {k : Nat} {t : Nat} (kp : Keeps s0 s) :
    Keeps s0 (signalOut s k t) := by
  unfold signalOut
  try dsimp only
  repeat' first
    | with_reducible assumption | with_reducible apply State.modTile_keeps | with_reducible apply fillDue_keeps
    | with_reducible apply handOff_keeps | split | exact fun _ (hx : TileOk _) => hx
    | exact fun _ (hx : TileOk _) => ⟨Memory.write_wf _ _ _ hx.1, hx.2⟩ | exact fun _ (hx : TileOk _) => ⟨writeRanges_wf _ _ _ hx.1, hx.2⟩
    | exact fun _ (hx : TileOk _) => ⟨writeTensor_wf _ _ _ _ hx.1, hx.2⟩
    | (intro _ hx; (first | show CtxOk _ | show TileOk _ | show Memory.wf _ = true); (repeat' first | exact hx | exact CtxOk.noSave rfl | split | dsimp only); done)
    | intro _ _ _ | intro _ _ | intro _ | dsimp only | (rw [id_eq]) | with_reducible refine Keeps.put ?_ (fun x => x) (fun x => x)

theorem ackFlit_keeps {s0 : State} {s : State} {t : Nat} {key : Nat} (kp : Keeps s0 s) :
    Keeps s0 (ackFlit s t key) := by
  unfold ackFlit
  try dsimp only
  repeat' first
    | with_reducible assumption | with_reducible apply State.modTile_keeps | split | exact fun _ (hx : TileOk _) => hx
    | exact fun _ (hx : TileOk _) => ⟨Memory.write_wf _ _ _ hx.1, hx.2⟩ | exact fun _ (hx : TileOk _) => ⟨writeRanges_wf _ _ _ hx.1, hx.2⟩
    | exact fun _ (hx : TileOk _) => ⟨writeTensor_wf _ _ _ _ hx.1, hx.2⟩
    | (intro _ hx; (first | show CtxOk _ | show TileOk _ | show Memory.wf _ = true); (repeat' first | exact hx | exact CtxOk.noSave rfl | split | dsimp only); done)
    | intro _ _ _ | intro _ _ | intro _ | dsimp only | (rw [id_eq]) | with_reducible refine Keeps.put ?_ (fun x => x) (fun x => x)

theorem meshArrive_keeps {s0 s : State} {t : Nat} {f : MeshFlit} (h : Keeps s0 s) : Keeps s0 (meshArrive s t f) := by
  unfold meshArrive
  split
  · have h1 : Keeps s0 (s.modTile f.dst fun x => { x with sram := f.writes.foldl (fun m w => m.set w.1 w.2) x.sram }) :=
      State.modTile_keeps h fun _ hx => ⟨fold_wf _ (fun _ _ hm => Memory.set_wf _ _ _ hm) _ _ hx.1, hx.2⟩
    dsimp only
    split
    · exact increment_keeps h1
    · exact h1
  · exact h

theorem meshAck_keeps {s0 : State} {s : State} {t : Nat} {f : MeshFlit} (kp : Keeps s0 s) :
    Keeps s0 (meshAck s t f) := by
  unfold meshAck
  try dsimp only
  repeat' first
    | with_reducible assumption | with_reducible apply State.modTile_keeps | split | exact fun _ (hx : TileOk _) => hx
    | exact fun _ (hx : TileOk _) => ⟨Memory.write_wf _ _ _ hx.1, hx.2⟩ | exact fun _ (hx : TileOk _) => ⟨writeRanges_wf _ _ _ hx.1, hx.2⟩
    | exact fun _ (hx : TileOk _) => ⟨writeTensor_wf _ _ _ _ hx.1, hx.2⟩
    | (intro _ hx; (first | show CtxOk _ | show TileOk _ | show Memory.wf _ = true); (repeat' first | exact hx | exact CtxOk.noSave rfl | split | dsimp only); done)
    | intro _ _ _ | intro _ _ | intro _ | dsimp only | (rw [id_eq]) | with_reducible refine Keeps.put ?_ (fun x => x) (fun x => x)

theorem meshDeliver_keeps {s0 : State} {s : State} {t : Nat} {stream : Nat} {waits : Nat} (kp : Keeps s0 s) :
    Keeps s0 (meshDeliver s t stream waits) := by
  unfold meshDeliver
  try dsimp only
  repeat' first
    | with_reducible assumption | with_reducible apply bankWait_keeps | with_reducible apply meshAck_keeps | with_reducible apply meshArrive_keeps
    | split
    | (intro _ hx; (first | show CtxOk _ | show TileOk _ | show Memory.wf _ = true); (repeat' first | exact hx | exact CtxOk.noSave rfl | split | dsimp only); done)
    | intro _ _ _ | intro _ _ | intro _ | dsimp only | (rw [id_eq]) | with_reducible refine Keeps.put ?_ (fun x => x) (fun x => x)

theorem execMeshFlitDeliver_keeps {s0 : State} {t : TileIx} {stream : Fin 64} {waits : Nat} {s : State} (kp : Keeps s0 s) :
    KeepsN s0 (execMeshFlitDeliver t stream waits s) := by
  unfold execMeshFlitDeliver
  try dsimp only
  repeat' first
    | with_reducible assumption | with_reducible apply meshDeliver_keeps | with_reducible apply KeepsN.next | with_reducible apply KeepsN.fault
    | split
    | (intro _ hx; (first | show CtxOk _ | show TileOk _ | show Memory.wf _ = true); (repeat' first | exact hx | exact CtxOk.noSave rfl | split | dsimp only); done)
    | intro _ _ _ | intro _ _ | intro _ | dsimp only | (rw [id_eq]) | with_reducible refine Keeps.put ?_ (fun x => x) (fun x => x)

theorem linkSignal_keeps {s0 : State} {s : State} {t : Nat} {k : Nat} {v : BitVec 32} {i : InItem} (kp : Keeps s0 s) :
    Keeps s0 (linkSignal s t k v i) := by
  unfold linkSignal
  try dsimp only
  repeat' first
    | with_reducible assumption | with_reducible apply barrierReport_keeps | with_reducible apply increment_keeps | split
    | (intro _ hx; (first | show CtxOk _ | show TileOk _ | show Memory.wf _ = true); (repeat' first | exact hx | exact CtxOk.noSave rfl | split | dsimp only); done)
    | intro _ _ _ | intro _ _ | intro _ | dsimp only | (rw [id_eq]) | with_reducible refine Keeps.put ?_ (fun x => x) (fun x => x)

theorem drainIn.go_keeps {s0 s : State} {t stream : Nat} {l : List InItem} (h : Keeps s0 s) : Keeps s0 (drainIn.go t stream s l) := by
  induction l generalizing s with
  | nil => exact State.modTile_keeps h fun _ hx => hx
  | cons i is ih =>
    unfold drainIn.go
    split
    · exact ih (linkSignal_keeps h)
    · split
      · exact ih (State.modTile_keeps h fun _ hx => ⟨fold_wf _ (fun _ _ hm => Memory.set_wf _ _ _ hm) _ _ hx.1, hx.2⟩)
      · exact State.modTile_keeps h fun _ hx => hx

theorem drainIn_keeps {s0 : State} {s : State} {t : Nat} {stream : Nat} (kp : Keeps s0 s) :
    Keeps s0 (drainIn s t stream) := by
  unfold drainIn
  try dsimp only
  repeat' first
    | with_reducible assumption | with_reducible apply drainIn.go_keeps | split
    | (intro _ hx; (first | show CtxOk _ | show TileOk _ | show Memory.wf _ = true); (repeat' first | exact hx | exact CtxOk.noSave rfl | split | dsimp only); done)
    | intro _ _ _ | intro _ _ | intro _ | dsimp only | (rw [id_eq]) | with_reducible refine Keeps.put ?_ (fun x => x) (fun x => x)

theorem recvOp_keeps {s0 : State} {s : State} {t : Nat} (kp : Keeps s0 s) :
    Keeps s0 (recvOp s t) := by
  unfold recvOp
  try dsimp only
  repeat' first
    | with_reducible assumption | with_reducible apply State.each_keeps | with_reducible apply drainIn_keeps | split
    | (intro _ hx; (first | show CtxOk _ | show TileOk _ | show Memory.wf _ = true); (repeat' first | exact hx | exact CtxOk.noSave rfl | split | dsimp only); done)
    | intro _ _ _ | intro _ _ | intro _ | dsimp only | (rw [id_eq]) | with_reducible refine Keeps.put ?_ (fun x => x) (fun x => x)

theorem execRecv_keeps {s0 : State} {t : TileIx} {waits : Nat} {s : State} (kp : Keeps s0 s) :
    KeepsN s0 (execRecv t waits s) := by
  unfold execRecv
  try dsimp only
  repeat' first
    | with_reducible assumption | with_reducible apply bankWait_keeps | with_reducible apply recvOp_keeps | with_reducible apply KeepsN.next
    | with_reducible apply KeepsN.fault | split
    | (intro _ hx; (first | show CtxOk _ | show TileOk _ | show Memory.wf _ = true); (repeat' first | exact hx | exact CtxOk.noSave rfl | split | dsimp only); done)
    | intro _ _ _ | intro _ _ | intro _ | dsimp only | (rw [id_eq]) | with_reducible refine Keeps.put ?_ (fun x => x) (fun x => x)

theorem treeWrite_keeps {s0 : State} {s : State} {l : Nat} {ue : Bool} (kp : Keeps s0 s) :
    Keeps s0 (treeWrite s l ue) := by
  unfold treeWrite
  try dsimp only
  repeat' first
    | with_reducible assumption | with_reducible apply State.modLink_keeps | with_reducible apply State.modTile_keeps
    | with_reducible apply against_keeps | with_reducible apply drainIn_keeps | split | exact fun _ (hx : TileOk _) => hx
    | exact fun _ (hx : TileOk _) => ⟨Memory.write_wf _ _ _ hx.1, hx.2⟩ | exact fun _ (hx : TileOk _) => ⟨writeRanges_wf _ _ _ hx.1, hx.2⟩
    | exact fun _ (hx : TileOk _) => ⟨writeTensor_wf _ _ _ _ hx.1, hx.2⟩
    | (intro _ hx; (first | show CtxOk _ | show TileOk _ | show Memory.wf _ = true); (repeat' first | exact hx | exact CtxOk.noSave rfl | split | dsimp only); done)
    | intro _ _ _ | intro _ _ | intro _ | dsimp only | (rw [id_eq]) | with_reducible refine Keeps.put ?_ (fun x => x) (fun x => x)

theorem flushSignals_keeps {s0 : State} {s : State} {l : Nat} (kp : Keeps s0 s) :
    Keeps s0 (flushSignals s l) := by
  unfold flushSignals
  try dsimp only
  repeat' first
    | with_reducible assumption | with_reducible apply State.each_keeps | with_reducible apply treeWrite_keeps | split
    | (intro _ hx; (first | show CtxOk _ | show TileOk _ | show Memory.wf _ = true); (repeat' first | exact hx | exact CtxOk.noSave rfl | split | dsimp only); done)
    | intro _ _ _ | intro _ _ | intro _ | dsimp only | (rw [id_eq]) | with_reducible refine Keeps.put ?_ (fun x => x) (fun x => x)

theorem execReceiveTreeWrite_keeps {s0 : State} {l : LinkIx} {bufferUe : Bool} {waits : Nat} {s : State} (kp : Keeps s0 s) :
    KeepsN s0 (execReceiveTreeWrite l bufferUe waits s) := by
  unfold execReceiveTreeWrite
  try dsimp only
  repeat' first
    | with_reducible assumption | with_reducible apply bankWait_keeps | with_reducible apply treeWrite_keeps | with_reducible apply KeepsN.next
    | with_reducible apply KeepsN.fault | split
    | (intro _ hx; (first | show CtxOk _ | show TileOk _ | show Memory.wf _ = true); (repeat' first | exact hx | exact CtxOk.noSave rfl | split | dsimp only); done)
    | intro _ _ _ | intro _ _ | intro _ | dsimp only | (rw [id_eq]) | with_reducible refine Keeps.put ?_ (fun x => x) (fun x => x)

end Sys2Proof.Machine
end

