-- ==== Sys2Proof/Laws/KeepsPlanCycle.lean ====
section
/-! SUPPORT. What each operation of Machine/PlanCycle.lean keeps. -/

namespace Sys2Proof.Machine

open Sys2Proof.Safety

set_option linter.all false
set_option Elab.async false

theorem releaseLink_keeps {s0 : State} {s : State} {im : Image} {tiles : List Nat} {c : Nat} {l : Nat} (kp : Keeps s0 s) :
    Keeps s0 (releaseLink s im tiles c l) := by
  unfold releaseLink
  try dsimp only
  repeat' first
    | with_reducible assumption | with_reducible apply State.each_keeps | with_reducible apply State.modLink_keeps
    | with_reducible apply flushSignals_keeps | split
    | (intro _ hx; (first | show CtxOk _ | show TileOk _ | show Memory.wf _ = true); (repeat' first | exact hx | exact CtxOk.noSave rfl | split | dsimp only); done)
    | intro _ _ _ | intro _ _ | intro _ | dsimp only | (rw [id_eq]) | with_reducible refine Keeps.put ?_ (fun x => x) (fun x => x)

theorem releaseFlits_keeps {s0 : State} {s : State} {k : Nat} {c : Nat} {frosted : Nat} (kp : Keeps s0 s) :
    Keeps s0 (releaseFlits s k c frosted) := by
  unfold releaseFlits
  try dsimp only
  repeat' first
    | with_reducible assumption | with_reducible apply State.each_keeps | with_reducible apply State.modPlan_keeps
    | with_reducible apply releaseLink_keeps | split
    | (intro _ hx; (first | show CtxOk _ | show TileOk _ | show Memory.wf _ = true); (repeat' first | exact hx | exact CtxOk.noSave rfl | split | dsimp only); done)
    | intro _ _ _ | intro _ _ | intro _ | dsimp only | (rw [id_eq]) | with_reducible refine Keeps.put ?_ (fun x => x) (fun x => x)

theorem sendFlits_keeps {s0 : State} {s : State} {k : Nat} {im : Image} {c : Nat} (kp : Keeps s0 s) :
    Keeps s0 (sendFlits s k im c) := by
  unfold sendFlits
  try dsimp only
  repeat' first
    | with_reducible assumption | with_reducible apply State.each_keeps | with_reducible apply State.modLink_keeps
    | with_reducible apply fillDue_keeps | split
    | (intro _ hx; (first | show CtxOk _ | show TileOk _ | show Memory.wf _ = true); (repeat' first | exact hx | exact CtxOk.noSave rfl | split | dsimp only); done)
    | intro _ _ _ | intro _ _ | intro _ | dsimp only | (rw [id_eq]) | with_reducible refine Keeps.put ?_ (fun x => x) (fun x => x)

theorem finishPlan_keeps {s0 : State} {s : State} {k : Nat} (kp : Keeps s0 s) :
    Keeps s0 (finishPlan s k) := by
  unfold finishPlan
  try dsimp only
  repeat' first
    | with_reducible assumption | with_reducible apply endPlan_keeps | with_reducible apply enterSaving_keeps | split
    | (intro _ hx; (first | show CtxOk _ | show TileOk _ | show Memory.wf _ = true); (repeat' first | exact hx | exact CtxOk.noSave rfl | split | dsimp only); done)
    | intro _ _ _ | intro _ _ | intro _ | dsimp only | (rw [id_eq]) | with_reducible refine Keeps.put ?_ (fun x => x) (fun x => x)

theorem loseIfMarked_keeps {s0 : State} {s : State} {k : Nat} (kp : Keeps s0 s) :
    Keeps s0 (loseIfMarked s k) := by
  unfold loseIfMarked
  try dsimp only
  repeat' first
    | with_reducible assumption | with_reducible apply State.modCtx_keeps | with_reducible apply against_keeps | split
    | exact fun _ (hx : CtxOk _) => hx
    | (intro _ hx; (first | show CtxOk _ | show TileOk _ | show Memory.wf _ = true); (repeat' first | exact hx | exact CtxOk.noSave rfl | split | dsimp only); done)
    | intro _ _ _ | intro _ _ | intro _ | dsimp only | (rw [id_eq]) | with_reducible refine Keeps.put ?_ (fun x => x) (fun x => x)

theorem reachP_keeps {s0 : State} {s : State} {k : Nat} (kp : Keeps s0 s) :
    Keeps s0 (reachP s k) := by
  unfold reachP
  try dsimp only
  repeat' first
    | with_reducible assumption | with_reducible apply State.modPlan_keeps | with_reducible apply enterSaving_keeps
    | with_reducible apply loseIfMarked_keeps | split
    | (intro _ hx; (first | show CtxOk _ | show TileOk _ | show Memory.wf _ = true); (repeat' first | exact hx | exact CtxOk.noSave rfl | split | dsimp only); done)
    | intro _ _ _ | intro _ _ | intro _ | dsimp only | (rw [id_eq]) | with_reducible refine Keeps.put ?_ (fun x => x) (fun x => x)

theorem runCycle_keeps {s0 : State} {s : State} {k : Nat} {c : Nat} (kp : Keeps s0 s) :
    Keeps s0 (runCycle s k c) := by
  unfold runCycle
  try dsimp only
  repeat' first
    | with_reducible assumption | with_reducible apply State.each_keeps | with_reducible apply State.modCtx_keeps
    | with_reducible apply State.modPlan_keeps | with_reducible apply closeFrost_keeps | with_reducible apply dispatchIf_keeps
    | with_reducible apply finishPlan_keeps | with_reducible apply reachP_keeps | with_reducible apply sendFlits_keeps
    | with_reducible apply wakeHint_keeps | split | exact fun _ (hx : CtxOk _) => hx
    | (intro _ hx; (first | show CtxOk _ | show TileOk _ | show Memory.wf _ = true); (repeat' first | exact hx | exact CtxOk.noSave rfl | split | dsimp only); done)
    | intro _ _ _ | intro _ _ | intro _ | dsimp only | (rw [id_eq]) | with_reducible refine Keeps.put ?_ (fun x => x) (fun x => x)

theorem stopPlan_keeps {s0 : State} {s : State} {k : Nat} (kp : Keeps s0 s) :
    Keeps s0 (stopPlan s k) := by
  unfold stopPlan
  try dsimp only
  repeat' first
    | with_reducible assumption | with_reducible apply State.modPlan_keeps | with_reducible apply State.setBit_keeps
    | with_reducible apply closeFrost_keeps | with_reducible apply loseIfMarked_keeps | split
    | (intro _ hx; (first | show CtxOk _ | show TileOk _ | show Memory.wf _ = true); (repeat' first | exact hx | exact CtxOk.noSave rfl | split | dsimp only); done)
    | intro _ _ _ | intro _ _ | intro _ | dsimp only | (rw [id_eq]) | with_reducible refine Keeps.put ?_ (fun x => x) (fun x => x)

theorem beginFrost_keeps {s0 : State} {s : State} {k : Nat} {h : Hold} {late : List Nat} (kp : Keeps s0 s) :
    Keeps s0 (beginFrost s k h late) := by
  unfold beginFrost
  try dsimp only
  repeat' first
    | with_reducible assumption | with_reducible apply State.each_keeps | with_reducible apply State.modTile_keeps
    | with_reducible apply loseIfMarked_keeps | with_reducible apply openFrost_keeps | split | exact fun _ (hx : TileOk _) => hx
    | exact fun _ (hx : TileOk _) => ⟨Memory.write_wf _ _ _ hx.1, hx.2⟩ | exact fun _ (hx : TileOk _) => ⟨writeRanges_wf _ _ _ hx.1, hx.2⟩
    | exact fun _ (hx : TileOk _) => ⟨writeTensor_wf _ _ _ _ hx.1, hx.2⟩
    | (intro _ hx; (first | show CtxOk _ | show TileOk _ | show Memory.wf _ = true); (repeat' first | exact hx | exact CtxOk.noSave rfl | split | dsimp only); done)
    | intro _ _ _ | intro _ _ | intro _ | dsimp only | (rw [id_eq]) | with_reducible refine Keeps.put ?_ (fun x => x) (fun x => x)

theorem planCycle_keeps {s0 : State} {s : State} {k : Nat} (kp : Keeps s0 s) :
    Keeps s0 (planCycle s k) := by
  unfold planCycle
  try dsimp only
  repeat' first
    | with_reducible assumption | with_reducible apply beginFrost_keeps | with_reducible apply loseIfMarked_keeps
    | with_reducible apply releaseFlits_keeps | with_reducible apply runCycle_keeps | with_reducible apply stopPlan_keeps | split
    | (intro _ hx; (first | show CtxOk _ | show TileOk _ | show Memory.wf _ = true); (repeat' first | exact hx | exact CtxOk.noSave rfl | split | dsimp only); done)
    | intro _ _ _ | intro _ _ | intro _ | dsimp only | (rw [id_eq]) | with_reducible refine Keeps.put ?_ (fun x => x) (fun x => x)

theorem execPlanCycleExecute_keeps {s0 : State} {k : CtxSlot} {s : State} (kp : Keeps s0 s) :
    KeepsN s0 (execPlanCycleExecute k s) := by
  unfold execPlanCycleExecute
  try dsimp only
  repeat' first
    | with_reducible assumption | with_reducible apply planCycle_keeps | with_reducible apply KeepsN.next | with_reducible apply KeepsN.fault
    | split
    | (intro _ hx; (first | show CtxOk _ | show TileOk _ | show Memory.wf _ = true); (repeat' first | exact hx | exact CtxOk.noSave rfl | split | dsimp only); done)
    | intro _ _ _ | intro _ _ | intro _ | dsimp only | (rw [id_eq]) | with_reducible refine Keeps.put ?_ (fun x => x) (fun x => x)

theorem sequence_keeps {s0 : State} {s : State} {t : Nat} {opc : Nat} (kp : Keeps s0 s) :
    Keeps s0 (sequence s t opc) := by
  unfold sequence
  try dsimp only
  repeat' first
    | with_reducible assumption | with_reducible apply dispatchIf_keeps | split
    | (intro _ hx; (first | show CtxOk _ | show TileOk _ | show Memory.wf _ = true); (repeat' first | exact hx | exact CtxOk.noSave rfl | split | dsimp only); done)
    | intro _ _ _ | intro _ _ | intro _ | dsimp only | (rw [id_eq]) | with_reducible refine Keeps.put ?_ (fun x => x) (fun x => x)

theorem execNop_keeps {s0 : State} {t : TileIx} {s : State} (kp : Keeps s0 s) :
    KeepsN s0 (execNop t s) := by
  unfold execNop
  try dsimp only
  repeat' first
    | with_reducible assumption | with_reducible apply sequence_keeps | with_reducible apply KeepsN.next | with_reducible apply KeepsN.fault
    | split
    | (intro _ hx; (first | show CtxOk _ | show TileOk _ | show Memory.wf _ = true); (repeat' first | exact hx | exact CtxOk.noSave rfl | split | dsimp only); done)
    | intro _ _ _ | intro _ _ | intro _ | dsimp only | (rw [id_eq]) | with_reducible refine Keeps.put ?_ (fun x => x) (fun x => x)

theorem waitRow_keeps {s0 : State} {s : State} {t : Nat} (kp : Keeps s0 s) :
    Keeps s0 (waitRow s t) := by
  unfold waitRow
  try dsimp only
  repeat' first
    | with_reducible assumption | with_reducible apply State.modCtx_keeps | with_reducible apply against_keeps
    | with_reducible apply sequence_keeps | split | exact fun _ (hx : CtxOk _) => hx
    | (intro _ hx; (first | show CtxOk _ | show TileOk _ | show Memory.wf _ = true); (repeat' first | exact hx | exact CtxOk.noSave rfl | split | dsimp only); done)
    | intro _ _ _ | intro _ _ | intro _ | dsimp only | (rw [id_eq]) | with_reducible refine Keeps.put ?_ (fun x => x) (fun x => x)

theorem execWait_keeps {s0 : State} {t : TileIx} {s : State} (kp : Keeps s0 s) :
    KeepsN s0 (execWait t s) := by
  unfold execWait
  try dsimp only
  repeat' first
    | with_reducible assumption | with_reducible apply waitRow_keeps | with_reducible apply KeepsN.next | with_reducible apply KeepsN.fault | split
    | (intro _ hx; (first | show CtxOk _ | show TileOk _ | show Memory.wf _ = true); (repeat' first | exact hx | exact CtxOk.noSave rfl | split | dsimp only); done)
    | intro _ _ _ | intro _ _ | intro _ | dsimp only | (rw [id_eq]) | with_reducible refine Keeps.put ?_ (fun x => x) (fun x => x)

theorem execFence_keeps {s0 : State} {t : TileIx} {s : State} (kp : Keeps s0 s) :
    KeepsN s0 (execFence t s) := by
  unfold execFence
  try dsimp only
  repeat' first
    | with_reducible assumption | with_reducible apply sequence_keeps | with_reducible apply KeepsN.next | with_reducible apply KeepsN.fault
    | split
    | (intro _ hx; (first | show CtxOk _ | show TileOk _ | show Memory.wf _ = true); (repeat' first | exact hx | exact CtxOk.noSave rfl | split | dsimp only); done)
    | intro _ _ _ | intro _ _ | intro _ | dsimp only | (rw [id_eq]) | with_reducible refine Keeps.put ?_ (fun x => x) (fun x => x)

theorem execStepEnd_keeps {s0 : State} {t : TileIx} {s : State} (kp : Keeps s0 s) :
    KeepsN s0 (execStepEnd t s) := by
  unfold execStepEnd
  try dsimp only
  repeat' first
    | with_reducible assumption | with_reducible apply sequence_keeps | with_reducible apply KeepsN.next | with_reducible apply KeepsN.fault
    | split
    | (intro _ hx; (first | show CtxOk _ | show TileOk _ | show Memory.wf _ = true); (repeat' first | exact hx | exact CtxOk.noSave rfl | split | dsimp only); done)
    | intro _ _ _ | intro _ _ | intro _ | dsimp only | (rw [id_eq]) | with_reducible refine Keeps.put ?_ (fun x => x) (fun x => x)

theorem execEndOp_keeps {s0 : State} {t : TileIx} {s : State} (kp : Keeps s0 s) :
    KeepsN s0 (execEndOp t s) := by
  unfold execEndOp
  try dsimp only
  repeat' first
    | with_reducible assumption | with_reducible apply sequence_keeps | with_reducible apply KeepsN.next | with_reducible apply KeepsN.fault
    | split
    | (intro _ hx; (first | show CtxOk _ | show TileOk _ | show Memory.wf _ = true); (repeat' first | exact hx | exact CtxOk.noSave rfl | split | dsimp only); done)
    | intro _ _ _ | intro _ _ | intro _ | dsimp only | (rw [id_eq]) | with_reducible refine Keeps.put ?_ (fun x => x) (fun x => x)

theorem execSleep_keeps {s0 : State} {t : TileIx} {s : State} (kp : Keeps s0 s) :
    KeepsN s0 (execSleep t s) := by
  unfold execSleep
  try dsimp only
  repeat' first
    | with_reducible assumption | with_reducible apply sequence_keeps | with_reducible apply KeepsN.next | with_reducible apply KeepsN.fault
    | split
    | (intro _ hx; (first | show CtxOk _ | show TileOk _ | show Memory.wf _ = true); (repeat' first | exact hx | exact CtxOk.noSave rfl | split | dsimp only); done)
    | intro _ _ _ | intro _ _ | intro _ | dsimp only | (rw [id_eq]) | with_reducible refine Keeps.put ?_ (fun x => x) (fun x => x)

theorem execSignal_keeps {s0 : State} {t : TileIx} {s : State} (kp : Keeps s0 s) :
    KeepsN s0 (execSignal t s) := by
  unfold execSignal
  try dsimp only
  repeat' first
    | with_reducible assumption | with_reducible apply sequence_keeps | with_reducible apply signalOut_keeps | with_reducible apply KeepsN.next
    | with_reducible apply KeepsN.fault | split
    | (intro _ hx; (first | show CtxOk _ | show TileOk _ | show Memory.wf _ = true); (repeat' first | exact hx | exact CtxOk.noSave rfl | split | dsimp only); done)
    | intro _ _ _ | intro _ _ | intro _ | dsimp only | (rw [id_eq]) | with_reducible refine Keeps.put ?_ (fun x => x) (fun x => x)

theorem execPlanStart_keeps {s0 : State} {k : CtxSlot} {s : State} (kp : Keeps s0 s) :
    KeepsN s0 (execPlanStart k s) := by
  unfold execPlanStart
  try dsimp only
  repeat' first
    | with_reducible assumption | with_reducible apply State.modPlan_keeps | with_reducible apply planCycle_keeps
    | with_reducible apply KeepsN.next | with_reducible apply KeepsN.fault | split
    | (intro _ hx; (first | show CtxOk _ | show TileOk _ | show Memory.wf _ = true); (repeat' first | exact hx | exact CtxOk.noSave rfl | split | dsimp only); done)
    | intro _ _ _ | intro _ _ | intro _ | dsimp only | (rw [id_eq]) | with_reducible refine Keeps.put ?_ (fun x => x) (fun x => x)

end Sys2Proof.Machine
end

