-- ==== Sys2Proof/Laws/KeepsMemory.lean ====
section
/-! SUPPORT. What each operation of Machine/Memory.lean keeps. -/

namespace Sys2Proof.Machine

open Sys2Proof.Safety

set_option linter.all false
set_option Elab.async false

theorem execPatrolScrub_keeps {s0 : State} {m : StackIx} {frame : Nat} {found : Findings} {s : State} (kp : Keeps s0 s) :
    KeepsN s0 (execPatrolScrub m frame found s) := by
  unfold execPatrolScrub
  try dsimp only
  repeat' first
    | with_reducible assumption | with_reducible apply State.setFld_keeps | with_reducible apply readFrame_keeps
    | refine readFrame_keeps' (out := (_, _)) (by with_reducible assumption) ?_ | with_reducible apply KeepsN.next
    | with_reducible apply KeepsN.fault | split
    | (intro _ hx; (first | show CtxOk _ | show TileOk _ | show Memory.wf _ = true); (repeat' first | exact hx | exact CtxOk.noSave rfl | split | dsimp only); done)
    | intro _ _ _ | intro _ _ | intro _ | dsimp only | (rw [id_eq]) | with_reducible refine Keeps.put ?_ (fun x => x) (fun x => x)

theorem execMemTempSample_keeps {s0 : State} {m : StackIx} {temp : Byte} {s : State} (kp : Keeps s0 s) :
    KeepsN s0 (execMemTempSample m temp s) := by
  unfold execMemTempSample
  try dsimp only
  repeat' first
    | with_reducible assumption | with_reducible apply State.setFld_keeps | with_reducible apply KeepsN.next | with_reducible apply KeepsN.fault
    | split
    | (intro _ hx; (first | show CtxOk _ | show TileOk _ | show Memory.wf _ = true); (repeat' first | exact hx | exact CtxOk.noSave rfl | split | dsimp only); done)
    | intro _ _ _ | intro _ _ | intro _ | dsimp only | (rw [id_eq]) | with_reducible refine Keeps.put ?_ (fun x => x) (fun x => x)

theorem startMem_keeps {s0 : State} {s : State} {m : Nat} {op : MemPhase} (kp : Keeps s0 s) :
    Keeps s0 (startMem s m op) := by
  unfold startMem
  try dsimp only
  repeat' first
    | with_reducible assumption | with_reducible apply State.modHbm_keeps | with_reducible apply State.setBit_keeps | split
    | exact fun _ hx => (show Memory.wf _ = true from hx) | exact fun _ hx => Memory.write_wf _ _ _ hx | exact fun _ hx => Memory.clear_wf _ _ _ hx
    | exact fun _ hx => Memory.copy_wf _ _ _ _ _ hx
    | (intro _ hx; (first | show CtxOk _ | show TileOk _ | show Memory.wf _ = true); (repeat' first | exact hx | exact CtxOk.noSave rfl | exact Memory.write_wf _ _ _ hx | exact Memory.clear_wf _ _ _ hx | exact Memory.copy_wf _ _ _ _ _ hx | exact ⟨Memory.write_wf _ _ _ hx.1, hx.2⟩ | split | dsimp only); done)
    | intro _ _ _ | intro _ _ | intro _ | dsimp only | (rw [id_eq]) | with_reducible refine Keeps.put ?_ (fun x => x) (fun x => x)

theorem memCmd_keeps {s0 : State} {s : State} {acc : Accessor} {m : Nat} {op : MemPhase} {queue : Bool} (kp : Keeps s0 s) :
    Keeps s0 (memCmd s acc m op queue) := by
  unfold memCmd
  try dsimp only
  repeat' first
    | with_reducible assumption | with_reducible apply State.finish_keeps | with_reducible apply State.modHbm_keeps
    | with_reducible apply State.setBit_keeps | with_reducible apply State.setFld_keeps | with_reducible apply onBlock_keeps
    | with_reducible apply startMem_keeps | split | exact fun _ hx => (show Memory.wf _ = true from hx)
    | exact fun _ hx => Memory.write_wf _ _ _ hx | exact fun _ hx => Memory.clear_wf _ _ _ hx | exact fun _ hx => Memory.copy_wf _ _ _ _ _ hx
    | (intro _ hx; (first | show CtxOk _ | show TileOk _ | show Memory.wf _ = true); (repeat' first | exact hx | exact CtxOk.noSave rfl | split | dsimp only); done)
    | intro _ _ _ | intro _ _ | intro _ | dsimp only | (rw [id_eq]) | with_reducible refine Keeps.put ?_ (fun x => x) (fun x => x)

theorem execRetrain_keeps {s0 : State} {acc : Accessor} {m : StackIx} {queue : Bool} {s : State} (kp : Keeps s0 s) :
    KeepsN s0 (execRetrain acc m queue s) := by
  unfold execRetrain
  try dsimp only
  repeat' first
    | with_reducible assumption | with_reducible apply memCmd_keeps | with_reducible apply KeepsN.next | with_reducible apply KeepsN.fault | split
    | (intro _ hx; (first | show CtxOk _ | show TileOk _ | show Memory.wf _ = true); (repeat' first | exact hx | exact CtxOk.noSave rfl | split | dsimp only); done)
    | intro _ _ _ | intro _ _ | intro _ | dsimp only | (rw [id_eq]) | with_reducible refine Keeps.put ?_ (fun x => x) (fun x => x)

theorem execBist_keeps {s0 : State} {acc : Accessor} {m : StackIx} {queue : Bool} {s : State} (kp : Keeps s0 s) :
    KeepsN s0 (execBist acc m queue s) := by
  unfold execBist
  try dsimp only
  repeat' first
    | with_reducible assumption | with_reducible apply memCmd_keeps | with_reducible apply KeepsN.next | with_reducible apply KeepsN.fault | split
    | (intro _ hx; (first | show CtxOk _ | show TileOk _ | show Memory.wf _ = true); (repeat' first | exact hx | exact CtxOk.noSave rfl | split | dsimp only); done)
    | intro _ _ _ | intro _ _ | intro _ | dsimp only | (rw [id_eq]) | with_reducible refine Keeps.put ?_ (fun x => x) (fun x => x)

theorem execMemQueuedStart_keeps {s0 : State} {m : StackIx} {s : State} (kp : Keeps s0 s) :
    KeepsN s0 (execMemQueuedStart m s) := by
  unfold execMemQueuedStart
  try dsimp only
  repeat' first
    | with_reducible assumption | with_reducible apply startMem_keeps | with_reducible apply KeepsN.next | with_reducible apply KeepsN.fault
    | split
    | (intro _ hx; (first | show CtxOk _ | show TileOk _ | show Memory.wf _ = true); (repeat' first | exact hx | exact CtxOk.noSave rfl | split | dsimp only); done)
    | intro _ _ _ | intro _ _ | intro _ | dsimp only | (rw [id_eq]) | with_reducible refine Keeps.put ?_ (fun x => x) (fun x => x)

theorem execMemCmdDone_keeps {s0 : State} {m : StackIx} {failed : List Nat} {s : State} (kp : Keeps s0 s) :
    KeepsN s0 (execMemCmdDone m failed s) := by
  unfold execMemCmdDone
  try dsimp only
  repeat' first
    | with_reducible assumption | with_reducible apply State.each_keeps | with_reducible apply State.modHbm_keeps
    | with_reducible apply State.retireFrame_keeps | with_reducible apply State.setBit_keeps | with_reducible apply KeepsN.next
    | with_reducible apply KeepsN.fault | split | exact fun _ hx => (show Memory.wf _ = true from hx) | exact fun _ hx => Memory.write_wf _ _ _ hx
    | exact fun _ hx => Memory.clear_wf _ _ _ hx | exact fun _ hx => Memory.copy_wf _ _ _ _ _ hx
    | (intro _ hx; (first | show CtxOk _ | show TileOk _ | show Memory.wf _ = true); (repeat' first | exact hx | exact CtxOk.noSave rfl | split | dsimp only); done)
    | intro _ _ _ | intro _ _ | intro _ | dsimp only | (rw [id_eq]) | with_reducible refine Keeps.put ?_ (fun x => x) (fun x => x)

theorem execMemUeMgt_keeps {s0 : State} {core : Fin 8} {offset : Nat} {s : State} (kp : Keeps s0 s) :
    KeepsN s0 (execMemUeMgt core offset s) := by
  unfold execMemUeMgt
  try dsimp only
  repeat' first
    | with_reducible assumption | with_reducible apply State.emit_keeps | with_reducible apply memUe_keeps | with_reducible apply KeepsN.next
    | with_reducible apply KeepsN.fault | split
    | (intro _ hx; (first | show CtxOk _ | show TileOk _ | show Memory.wf _ = true); (repeat' first | exact hx | exact CtxOk.noSave rfl | split | dsimp only); done)
    | intro _ _ _ | intro _ _ | intro _ | dsimp only | (rw [id_eq]) | with_reducible refine Keeps.put ?_ (fun x => x) (fun x => x)

theorem State.putBounce_keeps {s0 : State} {s : State} {p : Nat} {b : Nat} (kp : Keeps s0 s) :
    Keeps s0 (State.putBounce s p b) := by
  unfold State.putBounce
  try dsimp only
  repeat' first
    | with_reducible assumption | with_reducible apply State.modCxl_keeps | split | exact fun _ hx => (show Memory.wf _ = true from hx)
    | exact fun _ hx => Memory.write_wf _ _ _ hx | exact fun _ hx => Memory.clear_wf _ _ _ hx | exact fun _ hx => Memory.copy_wf _ _ _ _ _ hx
    | (intro _ hx; (first | show CtxOk _ | show TileOk _ | show Memory.wf _ = true); (repeat' first | exact hx | exact CtxOk.noSave rfl | split | dsimp only); done)
    | intro _ _ _ | intro _ _ | intro _ | dsimp only | (rw [id_eq]) | with_reducible refine Keeps.put ?_ (fun x => x) (fun x => x)

theorem flushHeld_keeps {s0 : State} {s : State} {id : Nat} {page : Nat} (kp : Keeps s0 s) :
    Keeps s0 (flushHeld s id page) := by
  unfold flushHeld
  try dsimp only
  repeat' first
    | with_reducible assumption | with_reducible apply State.ctxWrite_keeps | with_reducible apply State.each_keeps | split
    | (intro _ hx; (first | show CtxOk _ | show TileOk _ | show Memory.wf _ = true); (repeat' first | exact hx | exact CtxOk.noSave rfl | split | dsimp only); done)
    | intro _ _ _ | intro _ _ | intro _ | dsimp only | (rw [id_eq]) | with_reducible refine Keeps.put ?_ (fun x => x) (fun x => x)

theorem dropExchange_keeps {s0 : State} {s : State} {x : Exchange} (kp : Keeps s0 s) :
    Keeps s0 (dropExchange s x) := by
  unfold dropExchange
  try dsimp only
  repeat' first
    | with_reducible assumption | with_reducible apply State.each_keeps | with_reducible apply State.freeFrame_keeps | split
    | (intro _ hx; (first | show CtxOk _ | show TileOk _ | show Memory.wf _ = true); (repeat' first | exact hx | exact CtxOk.noSave rfl | split | dsimp only); done)
    | intro _ _ _ | intro _ _ | intro _ | dsimp only | (rw [id_eq]) | with_reducible refine Keeps.put ?_ (fun x => x) (fun x => x)

theorem returnPages_keeps {s0 : State} {s : State} {x : Exchange} (kp : Keeps s0 s) :
    Keeps s0 (returnPages s x) := by
  unfold returnPages
  try dsimp only
  repeat' first
    | with_reducible assumption | with_reducible apply State.frameCopy_keeps | with_reducible apply State.modPte_keeps
    | with_reducible apply flushHeld_keeps | split
    | (intro _ hx; (first | show CtxOk _ | show TileOk _ | show Memory.wf _ = true); (repeat' first | exact hx | exact CtxOk.noSave rfl | split | dsimp only); done)
    | intro _ _ _ | intro _ _ | intro _ | dsimp only | (rw [id_eq]) | with_reducible refine Keeps.put ?_ (fun x => x) (fun x => x)

theorem abortExchange_keeps {s0 : State} {s : State} {x : Exchange} (kp : Keeps s0 s) :
    Keeps s0 (abortExchange s x) := by
  unfold abortExchange
  try dsimp only
  repeat' first
    | with_reducible assumption | with_reducible apply State.addFld_keeps | with_reducible apply State.putBounce_keeps
    | with_reducible apply dropExchange_keeps | with_reducible apply returnPages_keeps | split
    | (intro _ hx; (first | show CtxOk _ | show TileOk _ | show Memory.wf _ = true); (repeat' first | exact hx | exact CtxOk.noSave rfl | split | dsimp only); done)
    | intro _ _ _ | intro _ _ | intro _ | dsimp only | (rw [id_eq]) | with_reducible refine Keeps.put ?_ (fun x => x) (fun x => x)

theorem startExchange_keeps {s0 : State} {s : State} {k : Nat} {p : Nat} {v : Nat × Pte} {c : Nat × Pte} (kp : Keeps s0 s) :
    Keeps s0 (startExchange s k p v c) := by
  unfold startExchange
  try dsimp only
  repeat' first
    | with_reducible assumption | with_reducible apply State.each_keeps | with_reducible apply State.modCxl_keeps
    | with_reducible apply State.modPte_keeps | split | exact fun _ hx => (show Memory.wf _ = true from hx)
    | exact fun _ hx => Memory.write_wf _ _ _ hx | exact fun _ hx => Memory.clear_wf _ _ _ hx | exact fun _ hx => Memory.copy_wf _ _ _ _ _ hx
    | (intro _ hx; (first | show CtxOk _ | show TileOk _ | show Memory.wf _ = true); (repeat' first | exact hx | exact CtxOk.noSave rfl | split | dsimp only); done)
    | intro _ _ _ | intro _ _ | intro _ | dsimp only | (rw [id_eq]) | with_reducible refine Keeps.put ?_ (fun x => x) (fun x => x)

theorem scanPort_keeps {s0 : State} {s : State} {k : Nat} {p : Nat} (kp : Keeps s0 s) :
    Keeps s0 (scanPort s k p) := by
  unfold scanPort
  try dsimp only
  repeat' first
    | with_reducible assumption | with_reducible apply startExchange_keeps | split
    | (intro _ hx; (first | show CtxOk _ | show TileOk _ | show Memory.wf _ = true); (repeat' first | exact hx | exact CtxOk.noSave rfl | split | dsimp only); done)
    | intro _ _ _ | intro _ _ | intro _ | dsimp only | (rw [id_eq]) | with_reducible refine Keeps.put ?_ (fun x => x) (fun x => x)

theorem execMorScan_keeps {s0 : State} {s : State} (kp : Keeps s0 s) :
    KeepsN s0 (execMorScan s) := by
  unfold execMorScan
  try dsimp only
  repeat' first
    | with_reducible assumption | with_reducible apply State.each_keeps | with_reducible apply scanPort_keeps | with_reducible apply KeepsN.next
    | with_reducible apply KeepsN.fault | split
    | (intro _ hx; (first | show CtxOk _ | show TileOk _ | show Memory.wf _ = true); (repeat' first | exact hx | exact CtxOk.noSave rfl | split | dsimp only); done)
    | intro _ _ _ | intro _ _ | intro _ | dsimp only | (rw [id_eq]) | with_reducible refine Keeps.put ?_ (fun x => x) (fun x => x)

theorem execMorEpoch_keeps {s0 : State} {s : State} (kp : Keeps s0 s) :
    KeepsN s0 (execMorEpoch s) := by
  unfold execMorEpoch
  try dsimp only
  repeat' first
    | with_reducible assumption | with_reducible apply State.each_keeps | with_reducible apply State.modCtx_keeps
    | with_reducible apply KeepsN.next | with_reducible apply KeepsN.fault | split | exact fun _ (hx : CtxOk _) => hx
    | (intro _ hx; (first | show CtxOk _ | show TileOk _ | show Memory.wf _ = true); (repeat' first | exact hx | exact CtxOk.noSave rfl | split | dsimp only); done)
    | intro _ _ _ | intro _ _ | intro _ | dsimp only | (rw [id_eq]) | with_reducible refine Keeps.put ?_ (fun x => x) (fun x => x)

theorem execDemoteCopyDone_keeps {s0 : State} {ex : Nat} {found : Findings} {s : State} (kp : Keeps s0 s) :
    KeepsN s0 (execDemoteCopyDone ex found s) := by
  unfold execDemoteCopyDone
  try dsimp only
  repeat' first
    | with_reducible assumption | with_reducible apply State.frameCopy_keeps | with_reducible apply State.modPte_keeps
    | with_reducible apply abortExchange_keeps | with_reducible apply flushHeld_keeps | with_reducible apply readFrame_keeps
    | refine readFrame_keeps' (out := (_, _)) (by with_reducible assumption) ?_ | with_reducible apply KeepsN.next
    | with_reducible apply KeepsN.fault | split
    | (intro _ hx; (first | show CtxOk _ | show TileOk _ | show Memory.wf _ = true); (repeat' first | exact hx | exact CtxOk.noSave rfl | split | dsimp only); done)
    | intro _ _ _ | intro _ _ | intro _ | dsimp only | (rw [id_eq]) | with_reducible refine Keeps.put ?_ (fun x => x) (fun x => x)

theorem execPromoteCopyDone_keeps {s0 : State} {ex : Nat} {found : Findings} {s : State} (kp : Keeps s0 s) :
    KeepsN s0 (execPromoteCopyDone ex found s) := by
  unfold execPromoteCopyDone
  try dsimp only
  repeat' first
    | with_reducible assumption | with_reducible apply State.addFld_keeps | with_reducible apply State.frameCopy_keeps
    | with_reducible apply State.modCtx_keeps | with_reducible apply State.modCxl_keeps | with_reducible apply State.modPte_keeps
    | with_reducible apply State.putBounce_keeps | with_reducible apply abortExchange_keeps | with_reducible apply dropExchange_keeps
    | with_reducible apply flushHeld_keeps | with_reducible apply readFrame_keeps
    | refine readFrame_keeps' (out := (_, _)) (by with_reducible assumption) ?_ | with_reducible apply returnPages_keeps
    | with_reducible apply KeepsN.next | with_reducible apply KeepsN.fault | split | exact fun _ (hx : CtxOk _) => hx
    | exact fun _ hx => (show Memory.wf _ = true from hx) | exact fun _ hx => Memory.write_wf _ _ _ hx | exact fun _ hx => Memory.clear_wf _ _ _ hx
    | exact fun _ hx => Memory.copy_wf _ _ _ _ _ hx
    | (intro _ hx; (first | show CtxOk _ | show TileOk _ | show Memory.wf _ = true); (repeat' first | exact hx | exact CtxOk.noSave rfl | split | dsimp only); done)
    | intro _ _ _ | intro _ _ | intro _ | dsimp only | (rw [id_eq]) | with_reducible refine Keeps.put ?_ (fun x => x) (fun x => x)

theorem execCxlDown_keeps {s0 : State} {p : PortIx} {s : State} (kp : Keeps s0 s) :
    KeepsN s0 (execCxlDown p s) := by
  unfold execCxlDown
  try dsimp only
  repeat' first
    | with_reducible assumption | with_reducible apply State.each_keeps | with_reducible apply State.modCxl_keeps
    | with_reducible apply abortExchange_keeps | with_reducible apply raiseGroup_keeps | with_reducible apply KeepsN.next
    | with_reducible apply KeepsN.fault | split | exact fun _ hx => (show Memory.wf _ = true from hx) | exact fun _ hx => Memory.write_wf _ _ _ hx
    | exact fun _ hx => Memory.clear_wf _ _ _ hx | exact fun _ hx => Memory.copy_wf _ _ _ _ _ hx
    | (intro _ hx; (first | show CtxOk _ | show TileOk _ | show Memory.wf _ = true); (repeat' first | exact hx | exact CtxOk.noSave rfl | split | dsimp only); done)
    | intro _ _ _ | intro _ _ | intro _ | dsimp only | (rw [id_eq]) | with_reducible refine Keeps.put ?_ (fun x => x) (fun x => x)

theorem execCxlTrainRetry_keeps {s0 : State} {p : PortIx} {s : State} (kp : Keeps s0 s) :
    KeepsN s0 (execCxlTrainRetry p s) := by
  unfold execCxlTrainRetry
  try dsimp only
  repeat' first
    | with_reducible assumption | with_reducible apply State.modCxl_keeps | with_reducible apply KeepsN.next | with_reducible apply KeepsN.fault
    | split | exact fun _ hx => (show Memory.wf _ = true from hx) | exact fun _ hx => Memory.write_wf _ _ _ hx
    | exact fun _ hx => Memory.clear_wf _ _ _ hx | exact fun _ hx => Memory.copy_wf _ _ _ _ _ hx
    | (intro _ hx; (first | show CtxOk _ | show TileOk _ | show Memory.wf _ = true); (repeat' first | exact hx | exact CtxOk.noSave rfl | split | dsimp only); done)
    | intro _ _ _ | intro _ _ | intro _ | dsimp only | (rw [id_eq]) | with_reducible refine Keeps.put ?_ (fun x => x) (fun x => x)

theorem execCxlLinkUp_keeps {s0 : State} {p : PortIx} {rate : BitVec 2} {half : Bool} {s : State} (kp : Keeps s0 s) :
    KeepsN s0 (execCxlLinkUp p rate half s) := by
  unfold execCxlLinkUp
  try dsimp only
  repeat' first
    | with_reducible assumption | with_reducible apply State.modCxl_keeps | with_reducible apply KeepsN.next | with_reducible apply KeepsN.fault
    | split | exact fun _ hx => (show Memory.wf _ = true from hx) | exact fun _ hx => Memory.write_wf _ _ _ hx
    | exact fun _ hx => Memory.clear_wf _ _ _ hx | exact fun _ hx => Memory.copy_wf _ _ _ _ _ hx
    | (intro _ hx; (first | show CtxOk _ | show TileOk _ | show Memory.wf _ = true); (repeat' first | exact hx | exact CtxOk.noSave rfl | split | dsimp only); done)
    | intro _ _ _ | intro _ _ | intro _ | dsimp only | (rw [id_eq]) | with_reducible refine Keeps.put ?_ (fun x => x) (fun x => x)

theorem execCxlAttach_keeps {s0 : State} {p : PortIx} {frames : Nat} {unsupported : Bool} {s : State} (kp : Keeps s0 s) :
    KeepsN s0 (execCxlAttach p frames unsupported s) := by
  unfold execCxlAttach
  try dsimp only
  repeat' first
    | with_reducible assumption | with_reducible apply State.modCxl_keeps | with_reducible apply KeepsN.next | with_reducible apply KeepsN.fault
    | split | exact fun _ hx => (show Memory.wf _ = true from hx) | exact fun _ hx => Memory.write_wf _ _ _ hx
    | exact fun _ hx => Memory.clear_wf _ _ _ hx | exact fun _ hx => Memory.copy_wf _ _ _ _ _ hx
    | (intro _ hx; (first | show CtxOk _ | show TileOk _ | show Memory.wf _ = true); (repeat' first | exact hx | exact CtxOk.noSave rfl | split | dsimp only); done)
    | intro _ _ _ | intro _ _ | intro _ | dsimp only | (rw [id_eq]) | with_reducible refine Keeps.put ?_ (fun x => x) (fun x => x)

theorem execCxlHealthPoll_keeps {s0 : State} {p : PortIx} {health : CxlHealth} {s : State} (kp : Keeps s0 s) :
    KeepsN s0 (execCxlHealthPoll p health s) := by
  unfold execCxlHealthPoll
  try dsimp only
  repeat' first
    | with_reducible assumption | with_reducible apply State.addFld_keeps | with_reducible apply State.setRg_keeps
    | with_reducible apply KeepsN.next | with_reducible apply KeepsN.fault | split
    | (intro _ hx; (first | show CtxOk _ | show TileOk _ | show Memory.wf _ = true); (repeat' first | exact hx | exact CtxOk.noSave rfl | split | dsimp only); done)
    | intro _ _ _ | intro _ _ | intro _ | dsimp only | (rw [id_eq]) | with_reducible refine Keeps.put ?_ (fun x => x) (fun x => x)

theorem morCmd_keeps {s0 : State} {s : State} {acc : Accessor} {conds : List (Bool × Status)} {act : State → State} (kp : Keeps s0 s) (hact : ∀ s1, Keeps s0 s1 → Keeps s0 (act s1)) :
    Keeps s0 (morCmd s acc conds act) := by
  unfold morCmd
  try dsimp only
  repeat' first
    | with_reducible assumption | with_reducible apply State.finish_keeps | with_reducible apply onBlock_keeps | with_reducible apply hact | split
    | (intro _ hx; (first | show CtxOk _ | show TileOk _ | show Memory.wf _ = true); (repeat' first | exact hx | exact CtxOk.noSave rfl | split | dsimp only); done)
    | intro _ _ _ | intro _ _ | intro _ | dsimp only | (rw [id_eq]) | with_reducible refine Keeps.put ?_ (fun x => x) (fun x => x)

theorem State.setHint_keeps {s0 : State} {s : State} {k : Nat} {page : Nat} {hint : Nat} (kp : Keeps s0 s) :
    Keeps s0 (State.setHint s k page hint) := by
  unfold State.setHint
  try dsimp only
  repeat' first
    | with_reducible assumption | with_reducible apply State.modPte_keeps | split
    | (intro _ hx; (first | show CtxOk _ | show TileOk _ | show Memory.wf _ = true); (repeat' first | exact hx | exact CtxOk.noSave rfl | split | dsimp only); done)
    | intro _ _ _ | intro _ _ | intro _ | dsimp only | (rw [id_eq]) | with_reducible refine Keeps.put ?_ (fun x => x) (fun x => x)

theorem cmdHint_keeps {s0 : State} {s : State} {acc : Accessor} (kp : Keeps s0 s) :
    Keeps s0 (cmdHint s acc) := by
  unfold cmdHint
  try dsimp only
  repeat' first
    | with_reducible assumption | with_reducible apply State.each_keeps | with_reducible apply State.finish_keeps
    | with_reducible apply State.setHint_keeps | with_reducible apply morCmd_keeps | split
    | (intro _ hx; (first | show CtxOk _ | show TileOk _ | show Memory.wf _ = true); (repeat' first | exact hx | exact CtxOk.noSave rfl | split | dsimp only); done)
    | intro _ _ _ | intro _ _ | intro _ | dsimp only | (rw [id_eq]) | with_reducible refine Keeps.put ?_ (fun x => x) (fun x => x)

theorem execHint_keeps {s0 : State} {acc : Accessor} {s : State} (kp : Keeps s0 s) :
    KeepsN s0 (execHint acc s) := by
  unfold execHint
  try dsimp only
  repeat' first
    | with_reducible assumption | with_reducible apply cmdHint_keeps | with_reducible apply KeepsN.next | with_reducible apply KeepsN.fault | split
    | (intro _ hx; (first | show CtxOk _ | show TileOk _ | show Memory.wf _ = true); (repeat' first | exact hx | exact CtxOk.noSave rfl | split | dsimp only); done)
    | intro _ _ _ | intro _ _ | intro _ | dsimp only | (rw [id_eq]) | with_reducible refine Keeps.put ?_ (fun x => x) (fun x => x)

theorem cmdErasure_keeps {s0 : State} {s : State} {acc : Accessor} (kp : Keeps s0 s) :
    Keeps s0 (cmdErasure s acc) := by
  unfold cmdErasure
  try dsimp only
  repeat' first
    | with_reducible assumption | with_reducible apply morCmd_keeps | split
    | (intro _ hx; (first | show CtxOk _ | show TileOk _ | show Memory.wf _ = true); (repeat' first | exact hx | exact CtxOk.noSave rfl | exact Memory.write_wf _ _ _ hx | exact Memory.clear_wf _ _ _ hx | exact Memory.copy_wf _ _ _ _ _ hx | exact ⟨Memory.write_wf _ _ _ hx.1, hx.2⟩ | split | dsimp only); done)
    | intro _ _ _ | intro _ _ | intro _ | dsimp only | (rw [id_eq]) | with_reducible refine Keeps.put ?_ (fun x => x) (fun x => x)

theorem execErasure_keeps {s0 : State} {acc : Accessor} {s : State} (kp : Keeps s0 s) :
    KeepsN s0 (execErasure acc s) := by
  unfold execErasure
  try dsimp only
  repeat' first
    | with_reducible assumption | with_reducible apply cmdErasure_keeps | with_reducible apply KeepsN.next | with_reducible apply KeepsN.fault
    | split
    | (intro _ hx; (first | show CtxOk _ | show TileOk _ | show Memory.wf _ = true); (repeat' first | exact hx | exact CtxOk.noSave rfl | split | dsimp only); done)
    | intro _ _ _ | intro _ _ | intro _ | dsimp only | (rw [id_eq]) | with_reducible refine Keeps.put ?_ (fun x => x) (fun x => x)

theorem State.bufWrite_keeps {s0 : State} {s : State} {b : ErasureBuf} {bs : List Byte} (kp : Keeps s0 s) :
    Keeps s0 (State.bufWrite s b bs) := by
  unfold State.bufWrite
  try dsimp only
  repeat' first
    | with_reducible assumption | with_reducible apply State.ctxWrite_keeps | with_reducible apply State.mgtWrite_keeps | split
    | (intro _ hx; (first | show CtxOk _ | show TileOk _ | show Memory.wf _ = true); (repeat' first | exact hx | exact CtxOk.noSave rfl | split | dsimp only); done)
    | intro _ _ _ | intro _ _ | intro _ | dsimp only | (rw [id_eq]) | with_reducible refine Keeps.put ?_ (fun x => x) (fun x => x)

theorem readMgt_keeps {s0 s : State} {a n at_ : Nat} {found : Findings} (h : Keeps s0 s) : Keeps s0 (readMgt s a n at_ found).2 := by
  unfold readMgt
  refine fold_pair_keeps (fun p e hp => ?_) _ h
  obtain ⟨bad, s1⟩ := p
  dsimp only
  split
  · exact hp
  · exact codeWords_keeps hp

theorem readMgt_keeps' {s0 s : State} {a n at_ : Nat} {found : Findings} {out : _} (eq : readMgt s a n at_ found = out) (h : Keeps s0 s) :
    Keeps s0 out.2 := eq ▸ readMgt_keeps h

theorem readSources_keeps {s0 s : State} {o : ErasureOp} {found : Findings} (h : Keeps s0 s) : Keeps s0 (readSources s o found).2 := by
  unfold readSources
  refine fold_pair_keeps (fun p e hp => ?_) _ h
  obtain ⟨bad, s1⟩ := p
  dsimp only
  split
  · exact hp
  · split
    · split
      · exact readPages_keeps hp
      · exact readMgt_keeps hp
    · exact hp

theorem readSources_keeps' {s0 s : State} {o : ErasureOp} {found : Findings} {out : _} (eq : readSources s o found = out) (h : Keeps s0 s) :
    Keeps s0 out.2 := eq ▸ readSources_keeps h

theorem execErasureComplete_keeps {s0 : State} {found : Findings} {s : State} (kp : Keeps s0 s) :
    KeepsN s0 (execErasureComplete found s) := by
  unfold execErasureComplete
  try dsimp only
  repeat' first
    | with_reducible assumption | with_reducible apply State.bufWrite_keeps | with_reducible apply State.each_keeps
    | with_reducible apply State.finish_keeps | with_reducible apply readSources_keeps
    | refine readSources_keeps' (out := (_, _)) (by with_reducible assumption) ?_ | with_reducible apply KeepsN.next
    | with_reducible apply KeepsN.fault | split
    | (intro _ hx; (first | show CtxOk _ | show TileOk _ | show Memory.wf _ = true); (repeat' first | exact hx | exact CtxOk.noSave rfl | split | dsimp only); done)
    | intro _ _ _ | intro _ _ | intro _ | dsimp only | (rw [id_eq]) | with_reducible refine Keeps.put ?_ (fun x => x) (fun x => x)

end Sys2Proof.Machine
end

