-- ==== Sys2Proof/Laws/KeepsServing.lean ====
section
/-! SUPPORT. What each operation of Machine/Serving.lean keeps. -/

namespace Sys2Proof.Machine

open Sys2Proof.Safety

set_option linter.all false
set_option Elab.async false

theorem State.setTailor_keeps {s0 : State} {s : State} {k : Nat} {id : Nat} {t : Option TailorSet} (kp : Keeps s0 s) :
    Keeps s0 (State.setTailor s k id t) := by
  unfold State.setTailor
  try dsimp only
  repeat' first
    | with_reducible assumption | with_reducible apply State.modServe_keeps | split
    | (intro _ hx; (first | show CtxOk _ | show TileOk _ | show Memory.wf _ = true); (repeat' first | exact hx | exact CtxOk.noSave rfl | split | dsimp only); done)
    | intro _ _ _ | intro _ _ | intro _ | dsimp only | (rw [id_eq]) | with_reducible refine Keeps.put ?_ (fun x => x) (fun x => x)

theorem applyTailor_keeps {s0 : State} {s : State} {k : Nat} {flags : Nat} {body : List Byte} (kp : Keeps s0 s) :
    Keeps s0 (applyTailor s k flags body) := by
  unfold applyTailor
  try dsimp only
  repeat' first
    | with_reducible assumption | with_reducible apply State.setBit_keeps | with_reducible apply State.setTailor_keeps | split
    | (intro _ hx; (first | show CtxOk _ | show TileOk _ | show Memory.wf _ = true); (repeat' first | exact hx | exact CtxOk.noSave rfl | split | dsimp only); done)
    | intro _ _ _ | intro _ _ | intro _ | dsimp only | (rw [id_eq]) | with_reducible refine Keeps.put ?_ (fun x => x) (fun x => x)

theorem jrnNext_keeps {s0 : State} {x0 : Nat} {x1 : State} {x2 : Nat} (kp : Keeps s0 x1) :
    Keeps s0 (jrnNext x0 x1 x2).2 := by
  revert kp
  fun_induction jrnNext x0 x1 x2 <;> intro kp
  all_goals
    repeat' first
      | with_reducible assumption | with_reducible apply State.jrnAdvance_keeps | with_reducible apply State.modCtx_keeps
      | with_reducible apply applyTailor_keeps | with_reducible apply diverge_keeps | with_reducible apply_assumption -exfalso -symm | split
      | exact fun _ (hx : CtxOk _) => hx
      | (intro _ hx; (first | show CtxOk _ | show TileOk _ | show Memory.wf _ = true); (repeat' first | exact hx | exact CtxOk.noSave rfl | split | dsimp only); done)
      | intro _ _ _ | intro _ _ | intro _ | dsimp only | (rw [id_eq]) | with_reducible refine Keeps.put ?_ (fun x => x) (fun x => x)

theorem jrnNext_keeps' {s0 : State} {x0 : Nat} {x1 : State} {x2 : Nat} {out : _} (eq : jrnNext x0 x1 x2 = out) (kp : Keeps s0 x1) :
    Keeps s0 out.2 := eq ▸ jrnNext_keeps kp

theorem State.jrnHead_keeps {s0 : State} {s : State} {k : Nat} (kp : Keeps s0 s) :
    Keeps s0 (State.jrnHead s k).2 := by
  unfold State.jrnHead
  try dsimp only
  repeat' first
    | with_reducible assumption | with_reducible apply jrnNext_keeps | refine jrnNext_keeps' (out := (_, _)) (by with_reducible assumption) ?_
    | split
    | (intro _ hx; (first | show CtxOk _ | show TileOk _ | show Memory.wf _ = true); (repeat' first | exact hx | exact CtxOk.noSave rfl | split | dsimp only); done)
    | intro _ _ _ | intro _ _ | intro _ | dsimp only | (rw [id_eq]) | with_reducible refine Keeps.put ?_ (fun x => x) (fun x => x)

theorem State.jrnHead_keeps' {s0 : State} {s : State} {k : Nat} {out : _} (eq : State.jrnHead s k = out) (kp : Keeps s0 s) :
    Keeps s0 out.2 := eq ▸ State.jrnHead_keeps kp

theorem replayTailors_keeps {s0 : State} {s : State} {k : Nat} {step : Nat} (kp : Keeps s0 s) :
    Keeps s0 (replayTailors s k step) := by
  unfold replayTailors
  try dsimp only
  repeat' first
    | with_reducible assumption | with_reducible apply State.each_keeps | with_reducible apply State.modCtx_keeps
    | with_reducible apply applyTailor_keeps | split | exact fun _ (hx : CtxOk _) => hx
    | (intro _ hx; (first | show CtxOk _ | show TileOk _ | show Memory.wf _ = true); (repeat' first | exact hx | exact CtxOk.noSave rfl | split | dsimp only); done)
    | intro _ _ _ | intro _ _ | intro _ | dsimp only | (rw [id_eq]) | with_reducible refine Keeps.put ?_ (fun x => x) (fun x => x)

theorem srvCmd_keeps {s0 : State} {s : State} {acc : Accessor} {conds : List (Bool × Status)} {act : State → State} (kp : Keeps s0 s) (hact : ∀ s1, Keeps s0 s1 → Keeps s0 (act s1)) :
    Keeps s0 (srvCmd s acc conds act) := by
  unfold srvCmd
  try dsimp only
  repeat' first
    | with_reducible assumption | with_reducible apply State.finish_keeps | with_reducible apply onBlock_keeps | with_reducible apply hact | split
    | (intro _ hx; (first | show CtxOk _ | show TileOk _ | show Memory.wf _ = true); (repeat' first | exact hx | exact CtxOk.noSave rfl | split | dsimp only); done)
    | intro _ _ _ | intro _ _ | intro _ | dsimp only | (rw [id_eq]) | with_reducible refine Keeps.put ?_ (fun x => x) (fun x => x)

theorem handleCmd_keeps {s0 : State} {s : State} {acc : Accessor} {conds : Nat → List (Bool × Status)} {act : State → Nat → State} (kp : Keeps s0 s) (hact : ∀ s1 a2, Keeps s0 s1 → Keeps s0 (act s1 a2)) :
    Keeps s0 (handleCmd s acc conds act) := by
  unfold handleCmd
  try dsimp only
  repeat' first
    | with_reducible assumption | with_reducible apply srvCmd_keeps | with_reducible apply hconds | with_reducible apply hact | split
    | (intro _ hx; (first | show CtxOk _ | show TileOk _ | show Memory.wf _ = true); (repeat' first | exact hx | exact CtxOk.noSave rfl | split | dsimp only); done)
    | intro _ _ _ | intro _ _ | intro _ | dsimp only | (rw [id_eq]) | with_reducible refine Keeps.put ?_ (fun x => x) (fun x => x)

theorem srvRead_keeps {s0 : State} {s : State} {k : Nat} {va : Nat} {n : Nat} {found : Findings} {act : State → State} (kp : Keeps s0 s) (hact : ∀ s1, Keeps s0 s1 → Keeps s0 (act s1)) :
    Keeps s0 (srvRead s k va n found act) := by
  unfold srvRead
  try dsimp only
  repeat' first
    | with_reducible assumption | with_reducible apply State.finish_keeps | with_reducible apply engineRead_keeps
    | refine engineRead_keeps' (out := (_, _)) (by with_reducible assumption) ?_ | with_reducible apply hact | split
    | (intro _ hx; (first | show CtxOk _ | show TileOk _ | show Memory.wf _ = true); (repeat' first | exact hx | exact CtxOk.noSave rfl | split | dsimp only); done)
    | intro _ _ _ | intro _ _ | intro _ | dsimp only | (rw [id_eq]) | with_reducible refine Keeps.put ?_ (fun x => x) (fun x => x)

theorem srvThen_keeps {s0 : State} {s : State} {conds : List (Bool × Status)} {act : State → State} (kp : Keeps s0 s) (hact : ∀ s1, Keeps s0 s1 → Keeps s0 (act s1)) :
    Keeps s0 (srvThen s conds act) := by
  unfold srvThen
  try dsimp only
  repeat' first
    | with_reducible assumption | with_reducible apply State.finish_keeps | with_reducible apply hact | split
    | (intro _ hx; (first | show CtxOk _ | show TileOk _ | show Memory.wf _ = true); (repeat' first | exact hx | exact CtxOk.noSave rfl | split | dsimp only); done)
    | intro _ _ _ | intro _ _ | intro _ | dsimp only | (rw [id_eq]) | with_reducible refine Keeps.put ?_ (fun x => x) (fun x => x)

theorem cmdOpen_keeps {s0 : State} {s : State} {acc : Accessor} {found : Findings} (kp : Keeps s0 s) :
    Keeps s0 (cmdOpen s acc found) := by
  unfold cmdOpen
  try dsimp only
  repeat' first
    | with_reducible assumption | with_reducible apply State.finish_keeps | with_reducible apply State.modReq_keeps
    | with_reducible apply State.modServe_keeps | with_reducible apply State.setRg_keeps | with_reducible apply srvCmd_keeps
    | with_reducible apply srvRead_keeps | with_reducible apply srvThen_keeps | split
    | (intro _ hx; (first | show CtxOk _ | show TileOk _ | show Memory.wf _ = true); (repeat' first | exact hx | exact CtxOk.noSave rfl | split | dsimp only); done)
    | intro _ _ _ | intro _ _ | intro _ | dsimp only | (rw [id_eq]) | with_reducible refine Keeps.put ?_ (fun x => x) (fun x => x)

theorem execOpenReq_keeps {s0 : State} {acc : Accessor} {found : Findings} {s : State} (kp : Keeps s0 s) :
    KeepsN s0 (execOpenReq acc found s) := by
  unfold execOpenReq
  try dsimp only
  repeat' first
    | with_reducible assumption | with_reducible apply cmdOpen_keeps | with_reducible apply KeepsN.next | with_reducible apply KeepsN.fault | split
    | (intro _ hx; (first | show CtxOk _ | show TileOk _ | show Memory.wf _ = true); (repeat' first | exact hx | exact CtxOk.noSave rfl | split | dsimp only); done)
    | intro _ _ _ | intro _ _ | intro _ | dsimp only | (rw [id_eq]) | with_reducible refine Keeps.put ?_ (fun x => x) (fun x => x)

theorem admitTurn_keeps {s0 : State} {s : State} {i : Nat} {slotVa : Nat} {ring : Nat} {n : Nat} {prompt : Nat} (kp : Keeps s0 s) :
    Keeps s0 (admitTurn s i slotVa ring n prompt) := by
  unfold admitTurn
  try dsimp only
  repeat' first
    | with_reducible assumption | with_reducible apply State.modReq_keeps | split
    | (intro _ hx; (first | show CtxOk _ | show TileOk _ | show Memory.wf _ = true); (repeat' first | exact hx | exact CtxOk.noSave rfl | split | dsimp only); done)
    | intro _ _ _ | intro _ _ | intro _ | dsimp only | (rw [id_eq]) | with_reducible refine Keeps.put ?_ (fun x => x) (fun x => x)

theorem cmdAdmit_keeps {s0 : State} {s : State} {acc : Accessor} {found : Findings} (kp : Keeps s0 s) :
    Keeps s0 (cmdAdmit s acc found) := by
  unfold cmdAdmit
  try dsimp only
  repeat' first
    | with_reducible assumption | with_reducible apply State.finish_keeps | with_reducible apply admitTurn_keeps
    | with_reducible apply handleCmd_keeps | with_reducible apply srvRead_keeps | with_reducible apply srvThen_keeps | split
    | (intro _ hx; (first | show CtxOk _ | show TileOk _ | show Memory.wf _ = true); (repeat' first | exact hx | exact CtxOk.noSave rfl | split | dsimp only); done)
    | intro _ _ _ | intro _ _ | intro _ | dsimp only | (rw [id_eq]) | with_reducible refine Keeps.put ?_ (fun x => x) (fun x => x)

theorem execAdmitReq_keeps {s0 : State} {acc : Accessor} {found : Findings} {s : State} (kp : Keeps s0 s) :
    KeepsN s0 (execAdmitReq acc found s) := by
  unfold execAdmitReq
  try dsimp only
  repeat' first
    | with_reducible assumption | with_reducible apply cmdAdmit_keeps | with_reducible apply KeepsN.next | with_reducible apply KeepsN.fault
    | split
    | (intro _ hx; (first | show CtxOk _ | show TileOk _ | show Memory.wf _ = true); (repeat' first | exact hx | exact CtxOk.noSave rfl | split | dsimp only); done)
    | intro _ _ _ | intro _ _ | intro _ | dsimp only | (rw [id_eq]) | with_reducible refine Keeps.put ?_ (fun x => x) (fun x => x)

theorem cmdCancel_keeps {s0 : State} {s : State} {acc : Accessor} (kp : Keeps s0 s) :
    Keeps s0 (cmdCancel s acc) := by
  unfold cmdCancel
  try dsimp only
  repeat' first
    | with_reducible assumption | with_reducible apply State.endTurn_keeps | with_reducible apply State.finish_keeps
    | with_reducible apply State.handFlag_keeps | with_reducible apply State.modReq_keeps | with_reducible apply handleCmd_keeps | split
    | (intro _ hx; (first | show CtxOk _ | show TileOk _ | show Memory.wf _ = true); (repeat' first | exact hx | exact CtxOk.noSave rfl | split | dsimp only); done)
    | intro _ _ _ | intro _ _ | intro _ | dsimp only | (rw [id_eq]) | with_reducible refine Keeps.put ?_ (fun x => x) (fun x => x)

theorem execCancel_keeps {s0 : State} {acc : Accessor} {s : State} (kp : Keeps s0 s) :
    KeepsN s0 (execCancel acc s) := by
  unfold execCancel
  try dsimp only
  repeat' first
    | with_reducible assumption | with_reducible apply cmdCancel_keeps | with_reducible apply KeepsN.next | with_reducible apply KeepsN.fault
    | split
    | (intro _ hx; (first | show CtxOk _ | show TileOk _ | show Memory.wf _ = true); (repeat' first | exact hx | exact CtxOk.noSave rfl | split | dsimp only); done)
    | intro _ _ _ | intro _ _ | intro _ | dsimp only | (rw [id_eq]) | with_reducible refine Keeps.put ?_ (fun x => x) (fun x => x)

theorem cmdClose_keeps {s0 : State} {s : State} {acc : Accessor} (kp : Keeps s0 s) :
    Keeps s0 (cmdClose s acc) := by
  unfold cmdClose
  try dsimp only
  repeat' first
    | with_reducible assumption | with_reducible apply State.finish_keeps | with_reducible apply State.modReq_keeps
    | with_reducible apply handleCmd_keeps | split
    | (intro _ hx; (first | show CtxOk _ | show TileOk _ | show Memory.wf _ = true); (repeat' first | exact hx | exact CtxOk.noSave rfl | split | dsimp only); done)
    | intro _ _ _ | intro _ _ | intro _ | dsimp only | (rw [id_eq]) | with_reducible refine Keeps.put ?_ (fun x => x) (fun x => x)

theorem execCloseReq_keeps {s0 : State} {acc : Accessor} {s : State} (kp : Keeps s0 s) :
    KeepsN s0 (execCloseReq acc s) := by
  unfold execCloseReq
  try dsimp only
  repeat' first
    | with_reducible assumption | with_reducible apply cmdClose_keeps | with_reducible apply KeepsN.next | with_reducible apply KeepsN.fault
    | split
    | (intro _ hx; (first | show CtxOk _ | show TileOk _ | show Memory.wf _ = true); (repeat' first | exact hx | exact CtxOk.noSave rfl | split | dsimp only); done)
    | intro _ _ _ | intro _ _ | intro _ | dsimp only | (rw [id_eq]) | with_reducible refine Keeps.put ?_ (fun x => x) (fun x => x)

theorem cmdEndPlan_keeps {s0 : State} {s : State} {acc : Accessor} (kp : Keeps s0 s) :
    Keeps s0 (cmdEndPlan s acc) := by
  unfold cmdEndPlan
  try dsimp only
  repeat' first
    | with_reducible assumption | with_reducible apply State.finish_keeps | with_reducible apply State.modServe_keeps
    | with_reducible apply srvCmd_keeps | split
    | (intro _ hx; (first | show CtxOk _ | show TileOk _ | show Memory.wf _ = true); (repeat' first | exact hx | exact CtxOk.noSave rfl | split | dsimp only); done)
    | intro _ _ _ | intro _ _ | intro _ | dsimp only | (rw [id_eq]) | with_reducible refine Keeps.put ?_ (fun x => x) (fun x => x)

theorem execEndPlan_keeps {s0 : State} {acc : Accessor} {s : State} (kp : Keeps s0 s) :
    KeepsN s0 (execEndPlan acc s) := by
  unfold execEndPlan
  try dsimp only
  repeat' first
    | with_reducible assumption | with_reducible apply cmdEndPlan_keeps | with_reducible apply KeepsN.next | with_reducible apply KeepsN.fault
    | split
    | (intro _ hx; (first | show CtxOk _ | show TileOk _ | show Memory.wf _ = true); (repeat' first | exact hx | exact CtxOk.noSave rfl | split | dsimp only); done)
    | intro _ _ _ | intro _ _ | intro _ | dsimp only | (rw [id_eq]) | with_reducible refine Keeps.put ?_ (fun x => x) (fun x => x)

theorem finishTailor_keeps {s0 : State} {s : State} {w : SrvWait} (kp : Keeps s0 s) :
    Keeps s0 (finishTailor s w) := by
  unfold finishTailor
  try dsimp only
  repeat' first
    | with_reducible assumption | with_reducible apply State.finish_keeps | with_reducible apply State.jrnPut_keeps
    | with_reducible apply State.setBit_keeps | with_reducible apply State.setTailor_keeps | split
    | (intro _ hx; (first | show CtxOk _ | show TileOk _ | show Memory.wf _ = true); (repeat' first | exact hx | exact CtxOk.noSave rfl | split | dsimp only); done)
    | intro _ _ _ | intro _ _ | intro _ | dsimp only | (rw [id_eq]) | with_reducible refine Keeps.put ?_ (fun x => x) (fun x => x)

theorem cmdTailorBind_keeps {s0 : State} {s : State} {acc : Accessor} {found : Findings} (kp : Keeps s0 s) :
    Keeps s0 (cmdTailorBind s acc found) := by
  unfold cmdTailorBind
  try dsimp only
  repeat' first
    | with_reducible assumption | with_reducible apply finishTailor_keeps | with_reducible apply srvCmd_keeps | with_reducible apply srvRead_keeps
    | with_reducible apply srvThen_keeps | split
    | (intro _ hx; (first | show CtxOk _ | show TileOk _ | show Memory.wf _ = true); (repeat' first | exact hx | exact CtxOk.noSave rfl | split | dsimp only); done)
    | intro _ _ _ | intro _ _ | intro _ | dsimp only | (rw [id_eq]) | with_reducible refine Keeps.put ?_ (fun x => x) (fun x => x)

theorem execTailorBind_keeps {s0 : State} {acc : Accessor} {found : Findings} {s : State} (kp : Keeps s0 s) :
    KeepsN s0 (execTailorBind acc found s) := by
  unfold execTailorBind
  try dsimp only
  repeat' first
    | with_reducible assumption | with_reducible apply cmdTailorBind_keeps | with_reducible apply KeepsN.next | with_reducible apply KeepsN.fault
    | split
    | (intro _ hx; (first | show CtxOk _ | show TileOk _ | show Memory.wf _ = true); (repeat' first | exact hx | exact CtxOk.noSave rfl | split | dsimp only); done)
    | intro _ _ _ | intro _ _ | intro _ | dsimp only | (rw [id_eq]) | with_reducible refine Keeps.put ?_ (fun x => x) (fun x => x)

theorem cmdTailorUnbind_keeps {s0 : State} {s : State} {acc : Accessor} (kp : Keeps s0 s) :
    Keeps s0 (cmdTailorUnbind s acc) := by
  unfold cmdTailorUnbind
  try dsimp only
  repeat' first
    | with_reducible assumption | with_reducible apply finishTailor_keeps | with_reducible apply srvCmd_keeps | split
    | (intro _ hx; (first | show CtxOk _ | show TileOk _ | show Memory.wf _ = true); (repeat' first | exact hx | exact CtxOk.noSave rfl | split | dsimp only); done)
    | intro _ _ _ | intro _ _ | intro _ | dsimp only | (rw [id_eq]) | with_reducible refine Keeps.put ?_ (fun x => x) (fun x => x)

theorem execTailorUnbind_keeps {s0 : State} {acc : Accessor} {s : State} (kp : Keeps s0 s) :
    KeepsN s0 (execTailorUnbind acc s) := by
  unfold execTailorUnbind
  try dsimp only
  repeat' first
    | with_reducible assumption | with_reducible apply cmdTailorUnbind_keeps | with_reducible apply KeepsN.next | with_reducible apply KeepsN.fault
    | split
    | (intro _ hx; (first | show CtxOk _ | show TileOk _ | show Memory.wf _ = true); (repeat' first | exact hx | exact CtxOk.noSave rfl | split | dsimp only); done)
    | intro _ _ _ | intro _ _ | intro _ | dsimp only | (rw [id_eq]) | with_reducible refine Keeps.put ?_ (fun x => x) (fun x => x)

theorem fillTable_keeps {s0 : State} {s : State} {step : Nat} {e : VEntry} {dec : List Nat} {pre : List Nat} (kp : Keeps s0 s) :
    Keeps s0 (fillTable s step e dec pre).2 := by
  unfold fillTable
  try dsimp only
  repeat' first
    | with_reducible assumption | with_reducible apply State.each_keeps | with_reducible apply State.modReq_keeps | split
    | (intro _ hx; (first | show CtxOk _ | show TileOk _ | show Memory.wf _ = true); (repeat' first | exact hx | exact CtxOk.noSave rfl | split | dsimp only); done)
    | intro _ _ _ | intro _ _ | intro _ | dsimp only | (rw [id_eq]) | with_reducible refine Keeps.put ?_ (fun x => x) (fun x => x)

theorem fillTable_keeps' {s0 : State} {s : State} {step : Nat} {e : VEntry} {dec : List Nat} {pre : List Nat} {out : _} (eq : fillTable s step e dec pre = out) (kp : Keeps s0 s) :
    Keeps s0 out.2 := eq ▸ fillTable_keeps kp

theorem freeClosed_keeps {s0 : State} {s : State} {k : Nat} (kp : Keeps s0 s) :
    Keeps s0 (freeClosed s k) := by
  unfold freeClosed
  try dsimp only
  repeat' first
    | with_reducible assumption | with_reducible apply State.each_keeps | with_reducible apply State.freeReq_keeps
    | with_reducible apply State.modServe_keeps | split
    | (intro _ hx; (first | show CtxOk _ | show TileOk _ | show Memory.wf _ = true); (repeat' first | exact hx | exact CtxOk.noSave rfl | split | dsimp only); done)
    | intro _ _ _ | intro _ _ | intro _ | dsimp only | (rw [id_eq]) | with_reducible refine Keeps.put ?_ (fun x => x) (fun x => x)

theorem ageRecords_keeps {s0 : State} {s : State} {k : Nat} {step : Nat} (kp : Keeps s0 s) :
    Keeps s0 (ageRecords s k step) := by
  unfold ageRecords
  try dsimp only
  repeat' first
    | with_reducible assumption | with_reducible apply State.each_keeps | with_reducible apply State.endTurn_keeps
    | with_reducible apply State.modReq_keeps | split
    | (intro _ hx; (first | show CtxOk _ | show TileOk _ | show Memory.wf _ = true); (repeat' first | exact hx | exact CtxOk.noSave rfl | split | dsimp only); done)
    | intro _ _ _ | intro _ _ | intro _ | dsimp only | (rw [id_eq]) | with_reducible refine Keeps.put ?_ (fun x => x) (fun x => x)

theorem formStep_keeps {s0 : State} {s : State} {k : Nat} {step : Nat} (kp : Keeps s0 s) :
    Keeps s0 (formStep s k step).2 := by
  unfold formStep
  try dsimp only
  repeat' first
    | with_reducible assumption | with_reducible apply State.modServe_keeps | with_reducible apply ageRecords_keeps
    | with_reducible apply fillTable_keeps | refine fillTable_keeps' (out := (_, _)) (by with_reducible assumption) ?_
    | with_reducible apply freeClosed_keeps | split
    | (intro _ hx; (first | show CtxOk _ | show TileOk _ | show Memory.wf _ = true); (repeat' first | exact hx | exact CtxOk.noSave rfl | split | dsimp only); done)
    | intro _ _ _ | intro _ _ | intro _ | dsimp only | (rw [id_eq]) | with_reducible refine Keeps.put ?_ (fun x => x) (fun x => x)

theorem formStep_keeps' {s0 : State} {s : State} {k : Nat} {step : Nat} {out : _} (eq : formStep s k step = out) (kp : Keeps s0 s) :
    Keeps s0 out.2 := eq ▸ formStep_keeps kp

theorem ageHot_keeps {s0 : State} {s : State} {k : Nat} (kp : Keeps s0 s) :
    Keeps s0 (ageHot s k) := by
  unfold ageHot
  try dsimp only
  repeat' first
    | with_reducible assumption | with_reducible apply State.modCtx_keeps | split | exact fun _ (hx : CtxOk _) => hx
    | (intro _ hx; (first | show CtxOk _ | show TileOk _ | show Memory.wf _ = true); (repeat' first | exact hx | exact CtxOk.noSave rfl | split | dsimp only); done)
    | intro _ _ _ | intro _ _ | intro _ | dsimp only | (rw [id_eq]) | with_reducible refine Keeps.put ?_ (fun x => x) (fun x => x)

theorem heat_keeps {s0 : State} {s : State} {k : Nat} {va : Nat} {n : Nat} (kp : Keeps s0 s) :
    Keeps s0 (heat s k va n) := by
  unfold heat
  try dsimp only
  repeat' first
    | with_reducible assumption | with_reducible apply State.each_keeps | with_reducible apply State.setHint_keeps | split
    | (intro _ hx; (first | show CtxOk _ | show TileOk _ | show Memory.wf _ = true); (repeat' first | exact hx | exact CtxOk.noSave rfl | split | dsimp only); done)
    | intro _ _ _ | intro _ _ | intro _ | dsimp only | (rw [id_eq]) | with_reducible refine Keeps.put ?_ (fun x => x) (fun x => x)

theorem heatRow_keeps {s0 : State} {s : State} {k : Nat} {r : BatchRow} (kp : Keeps s0 s) :
    Keeps s0 (heatRow s k r) := by
  unfold heatRow
  try dsimp only
  repeat' first
    | with_reducible assumption | with_reducible apply heat_keeps | split
    | (intro _ hx; (first | show CtxOk _ | show TileOk _ | show Memory.wf _ = true); (repeat' first | exact hx | exact CtxOk.noSave rfl | split | dsimp only); done)
    | intro _ _ _ | intro _ _ | intro _ | dsimp only | (rw [id_eq]) | with_reducible refine Keeps.put ?_ (fun x => x) (fun x => x)

theorem takeMirrors_keeps {s0 : State} {s : State} {k : Nat} {m : StepMsg} (kp : Keeps s0 s) :
    Keeps s0 (takeMirrors s k m) := by
  unfold takeMirrors
  try dsimp only
  repeat' first
    | with_reducible assumption | with_reducible apply State.each_keeps | with_reducible apply State.freeReq_keeps
    | with_reducible apply State.modReq_keeps | split
    | (intro _ hx; (first | show CtxOk _ | show TileOk _ | show Memory.wf _ = true); (repeat' first | exact hx | exact CtxOk.noSave rfl | split | dsimp only); done)
    | intro _ _ _ | intro _ _ | intro _ | dsimp only | (rw [id_eq]) | with_reducible refine Keeps.put ?_ (fun x => x) (fun x => x)

theorem takeStep_keeps {s0 : State} {s : State} {k : Nat} {m : StepMsg} (kp : Keeps s0 s) :
    Keeps s0 (takeStep s k m) := by
  unfold takeStep
  try dsimp only
  repeat' first
    | with_reducible assumption | with_reducible apply State.each_keeps | with_reducible apply State.modCtx_keeps
    | with_reducible apply ageHot_keeps | with_reducible apply heatRow_keeps | split | exact fun _ (hx : CtxOk _) => hx
    | (intro _ hx; (first | show CtxOk _ | show TileOk _ | show Memory.wf _ = true); (repeat' first | exact hx | exact CtxOk.noSave rfl | split | dsimp only); done)
    | intro _ _ _ | intro _ _ | intro _ | dsimp only | (rw [id_eq]) | with_reducible refine Keeps.put ?_ (fun x => x) (fun x => x)

theorem actStep_keeps {s0 : State} {s : State} {k : Nat} {m : StepMsg} (kp : Keeps s0 s) :
    Keeps s0 (actStep s k m) := by
  unfold actStep
  try dsimp only
  repeat' first
    | with_reducible assumption | with_reducible apply takeMirrors_keeps | with_reducible apply takeStep_keeps | split
    | (intro _ hx; (first | show CtxOk _ | show TileOk _ | show Memory.wf _ = true); (repeat' first | exact hx | exact CtxOk.noSave rfl | split | dsimp only); done)
    | intro _ _ _ | intro _ _ | intro _ | dsimp only | (rw [id_eq]) | with_reducible refine Keeps.put ?_ (fun x => x) (fun x => x)

theorem execStepMessage_keeps {s0 : State} {part : BitVec 16} {gen : BitVec 8} {msg : StepMsg} {s : State} (kp : Keeps s0 s) :
    KeepsN s0 (execStepMessage part gen msg s) := by
  unfold execStepMessage
  try dsimp only
  repeat' first
    | with_reducible assumption | with_reducible apply actStep_keeps | with_reducible apply KeepsN.next | with_reducible apply KeepsN.fault | split
    | (intro _ hx; (first | show CtxOk _ | show TileOk _ | show Memory.wf _ = true); (repeat' first | exact hx | exact CtxOk.noSave rfl | split | dsimp only); done)
    | intro _ _ _ | intro _ _ | intro _ | dsimp only | (rw [id_eq]) | with_reducible refine Keeps.put ?_ (fun x => x) (fun x => x)

theorem publish_keeps {s0 : State} {s : State} {k : Nat} {m : StepMsg} {ends : Bool} (kp : Keeps s0 s) :
    Keeps s0 (publish s k m ends) := by
  unfold publish
  try dsimp only
  repeat' first
    | with_reducible assumption | with_reducible apply State.modServe_keeps | with_reducible apply sendFlood_keeps
    | with_reducible apply takeStep_keeps | split
    | (intro _ hx; (first | show CtxOk _ | show TileOk _ | show Memory.wf _ = true); (repeat' first | exact hx | exact CtxOk.noSave rfl | split | dsimp only); done)
    | intro _ _ _ | intro _ _ | intro _ | dsimp only | (rw [id_eq]) | with_reducible refine Keeps.put ?_ (fun x => x) (fun x => x)

theorem freezePoint_keeps {s0 : State} {s : State} {k : Nat} (kp : Keeps s0 s) :
    Keeps s0 (freezePoint s k) := by
  unfold freezePoint
  try dsimp only
  repeat' first
    | with_reducible assumption | with_reducible apply State.jrnAdvance_keeps | with_reducible apply State.jrnHead_keeps
    | refine State.jrnHead_keeps' (out := (_, _)) (by with_reducible assumption) ?_ | with_reducible apply State.jrnPut_keeps
    | with_reducible apply State.modServe_keeps | with_reducible apply against_keeps | with_reducible apply formStep_keeps
    | refine formStep_keeps' (out := (_, _)) (by with_reducible assumption) ?_ | with_reducible apply publish_keeps
    | with_reducible apply takeMirrors_keeps | split
    | (intro _ hx; (first | show CtxOk _ | show TileOk _ | show Memory.wf _ = true); (repeat' first | exact hx | exact CtxOk.noSave rfl | split | dsimp only); done)
    | intro _ _ _ | intro _ _ | intro _ | dsimp only | (rw [id_eq]) | with_reducible refine Keeps.put ?_ (fun x => x) (fun x => x)

theorem execFreezePoint_keeps {s0 : State} {k : CtxSlot} {s : State} (kp : Keeps s0 s) :
    KeepsN s0 (execFreezePoint k s) := by
  unfold execFreezePoint
  try dsimp only
  repeat' first
    | with_reducible assumption | with_reducible apply freezePoint_keeps | with_reducible apply KeepsN.next | with_reducible apply KeepsN.fault
    | split
    | (intro _ hx; (first | show CtxOk _ | show TileOk _ | show Memory.wf _ = true); (repeat' first | exact hx | exact CtxOk.noSave rfl | split | dsimp only); done)
    | intro _ _ _ | intro _ _ | intro _ | dsimp only | (rw [id_eq]) | with_reducible refine Keeps.put ?_ (fun x => x) (fun x => x)

theorem commitRows_keeps {s0 : State} {s : State} {i : Nat} {step : Nat} {dlen : Nat} {rows : List OutRow} {miss : Bool} (kp : Keeps s0 s) :
    Keeps s0 (commitRows s i step dlen rows miss) := by
  unfold commitRows
  try dsimp only
  repeat' first
    | with_reducible assumption | with_reducible apply State.formDelivery_keeps | with_reducible apply State.idleReq_keeps
    | with_reducible apply State.modReq_keeps | split
    | (intro _ hx; (first | show CtxOk _ | show TileOk _ | show Memory.wf _ = true); (repeat' first | exact hx | exact CtxOk.noSave rfl | split | dsimp only); done)
    | intro _ _ _ | intro _ _ | intro _ | dsimp only | (rw [id_eq]) | with_reducible refine Keeps.put ?_ (fun x => x) (fun x => x)

theorem consumeRows_keeps {s0 : State} {s : State} {k : Nat} {step : Nat} {rows : List OutRow} (kp : Keeps s0 s) :
    Keeps s0 (consumeRows s k step rows) := by
  unfold consumeRows
  try dsimp only
  repeat' first
    | with_reducible assumption | with_reducible apply State.each_keeps | with_reducible apply State.endTurn_keeps
    | with_reducible apply State.modReq_keeps | with_reducible apply commitRows_keeps | split
    | (intro _ hx; (first | show CtxOk _ | show TileOk _ | show Memory.wf _ = true); (repeat' first | exact hx | exact CtxOk.noSave rfl | split | dsimp only); done)
    | intro _ _ _ | intro _ _ | intro _ | dsimp only | (rw [id_eq]) | with_reducible refine Keeps.put ?_ (fun x => x) (fun x => x)

theorem checkSlot_keeps {s0 : State} {s : State} {k : Nat} {step : Nat} {count : Nat} {bytes : List Byte} (kp : Keeps s0 s) :
    KeepsO s0 (checkSlot s k step count bytes) := by
  unfold checkSlot
  try dsimp only
  repeat' first
    | with_reducible assumption | with_reducible apply State.jrnAdvance_keeps | with_reducible apply State.jrnHead_keeps
    | refine State.jrnHead_keeps' (out := (_, _)) (by with_reducible assumption) ?_ | with_reducible apply State.jrnSay_keeps
    | with_reducible apply diverge_keeps | with_reducible apply KeepsO.some | with_reducible exact KeepsO.none | with_reducible apply KeepsO.map
    | split
    | (intro _ hx; (first | show CtxOk _ | show TileOk _ | show Memory.wf _ = true); (repeat' first | exact hx | exact CtxOk.noSave rfl | split | dsimp only); done)
    | intro _ _ _ | intro _ _ | intro _ | dsimp only | (rw [id_eq]) | with_reducible refine Keeps.put ?_ (fun x => x) (fun x => x)

theorem consumeStep_keeps {s0 : State} {s : State} {k : Nat} {va : Nat} {step : Nat} {count : Nat} {slots : Nat} {pos : Nat} (kp : Keeps s0 s) :
    Keeps s0 (consumeStep s k va step count slots pos) := by
  unfold consumeStep
  try dsimp only
  repeat' first
    | with_reducible assumption | with_reducible apply State.handFlag_keeps | with_reducible apply State.jrnHead_keeps
    | refine State.jrnHead_keeps' (out := (_, _)) (by with_reducible assumption) ?_ | with_reducible apply State.modServe_keeps
    | refine checkSlot_keeps ?_ _ (by with_reducible assumption) | with_reducible apply checkSlot_keeps | with_reducible apply consumeRows_keeps
    | split
    | (intro _ hx; (first | show CtxOk _ | show TileOk _ | show Memory.wf _ = true); (repeat' first | exact hx | exact CtxOk.noSave rfl | split | dsimp only); done)
    | intro _ _ _ | intro _ _ | intro _ | dsimp only | (rw [id_eq]) | with_reducible refine Keeps.put ?_ (fun x => x) (fun x => x)

theorem consumeSlot_keeps {s0 s : State} {k : Nat} {found : Findings} (h : Keeps s0 s) : Keeps s0 (consumeSlot s k found) := by
  unfold consumeSlot
  extract_lets +onlyGivenNames c slots pos va
  split
  · exact h
  · have h1 := engineRead_keeps (k := k) (va := va) (n := 64) (found := found) h
    generalize engineRead s k va 64 found = p at h1 ⊢
    obtain ⟨dead, s1⟩ := p
    cases dead with
    | true => exact h1
    | false =>
      dsimp only
      split
      · exact against_keeps h1
      · have h2 := engineRead_keeps (k := k) (va := va + 64) (n := 16 * min (s1.ctxNat k (va + 16) 4) 4092) (found := found) h1
        generalize engineRead s1 k (va + 64) (16 * min (s1.ctxNat k (va + 16) 4) 4092) found = q at h2 ⊢
        obtain ⟨dead, s2⟩ := q
        cases dead with
        | true => exact h2
        | false => exact consumeStep_keeps h2

theorem execResultSlotConsume_keeps {s0 : State} {k : CtxSlot} {found : Findings} {s : State} (kp : Keeps s0 s) :
    KeepsN s0 (execResultSlotConsume k found s) := by
  unfold execResultSlotConsume
  try dsimp only
  repeat' first
    | with_reducible assumption | with_reducible apply consumeSlot_keeps | with_reducible apply KeepsN.next | with_reducible apply KeepsN.fault
    | split
    | (intro _ hx; (first | show CtxOk _ | show TileOk _ | show Memory.wf _ = true); (repeat' first | exact hx | exact CtxOk.noSave rfl | split | dsimp only); done)
    | intro _ _ _ | intro _ _ | intro _ | dsimp only | (rw [id_eq]) | with_reducible refine Keeps.put ?_ (fun x => x) (fun x => x)

theorem execHeldDeliveryWrite_keeps {s0 : State} {k : CtxSlot} {slot : BitVec 14} {s : State} (kp : Keeps s0 s) :
    KeepsN s0 (execHeldDeliveryWrite k slot s) := by
  unfold execHeldDeliveryWrite
  try dsimp only
  repeat' first
    | with_reducible assumption | with_reducible apply State.drainHeld_keeps | with_reducible apply KeepsN.next | with_reducible apply KeepsN.fault
    | split
    | (intro _ hx; (first | show CtxOk _ | show TileOk _ | show Memory.wf _ = true); (repeat' first | exact hx | exact CtxOk.noSave rfl | split | dsimp only); done)
    | intro _ _ _ | intro _ _ | intro _ | dsimp only | (rw [id_eq]) | with_reducible refine Keeps.put ?_ (fun x => x) (fun x => x)

end Sys2Proof.Machine
end

