-- ==== Sys2Proof/Laws/KeepsLoader.lean ====
section
/-! SUPPORT. What each operation of Machine/Loader.lean keeps. -/

namespace Sys2Proof.Machine

open Sys2Proof.Safety

set_option linter.all false
set_option Elab.async false

theorem State.enterClaims_keeps {s0 : State} {s : State} {k : Nat} {rot : Nat} {ms : List MeshStream} (kp : Keeps s0 s) :
    Keeps s0 (State.enterClaims s k rot ms) := by
  unfold State.enterClaims
  try dsimp only
  repeat' first
    | with_reducible assumption | split
    | (intro _ hx; (first | show CtxOk _ | show TileOk _ | show Memory.wf _ = true); (repeat' first | exact hx | exact CtxOk.noSave rfl | split | dsimp only); done)
    | intro _ _ _ | intro _ _ | intro _ | dsimp only | (rw [id_eq]) | with_reducible refine Keeps.put ?_ (fun x => x) (fun x => x)

theorem State.putRoutes_keeps {s0 : State} {s : State} {k : Nat} {bank : Nat} {rs : List (Nat × Nat)} (kp : Keeps s0 s) :
    Keeps s0 (State.putRoutes s k bank rs) := by
  unfold State.putRoutes
  try dsimp only
  repeat' first
    | with_reducible assumption | split
    | (intro _ hx; (first | show CtxOk _ | show TileOk _ | show Memory.wf _ = true); (repeat' first | exact hx | exact CtxOk.noSave rfl | split | dsimp only); done)
    | intro _ _ _ | intro _ _ | intro _ | dsimp only | (rw [id_eq]) | with_reducible refine Keeps.put ?_ (fun x => x) (fun x => x)

theorem dropWatches_keeps {s0 : State} {s : State} {tiles : List Nat} (kp : Keeps s0 s) :
    Keeps s0 (dropWatches s tiles) := by
  unfold dropWatches
  try dsimp only
  repeat' first
    | with_reducible assumption | with_reducible apply State.each_keeps | with_reducible apply State.endSyncWatch_keeps | split
    | (intro _ hx; (first | show CtxOk _ | show TileOk _ | show Memory.wf _ = true); (repeat' first | exact hx | exact CtxOk.noSave rfl | split | dsimp only); done)
    | intro _ _ _ | intro _ _ | intro _ | dsimp only | (rw [id_eq]) | with_reducible refine Keeps.put ?_ (fun x => x) (fun x => x)

theorem loadTile_ok {im : Img} {c vt : Nat} {vault : List (Option (Nat × Nat))} {x : Tile} : TileOk (loadTile im c vt vault x) := by
  have w (l : List Reloc) (f : Reloc → Nat) (g : Reloc → List Byte) (m : Memory) (h : m.wf = true) :
      (l.foldl (fun (m : Memory) r => m.write (f r) (g r)) m).wf = true := fold_wf _ (fun _ _ hm => Memory.write_wf _ _ _ hm) _ _ h
  exact ⟨w _ _ _ _ (fold_wf _ (fun _ _ hm => Memory.write_wf _ _ _ hm) _ _ rfl), w _ _ _ _ (Memory.write_wf _ _ _ rfl)⟩

theorem placePlan_keeps {s0 s : State} {k : Nat} {im : Img} {c : Nat} {mapping : List Nat} (h : Keeps s0 s) :
    Keeps s0 (placePlan s k im c mapping) := by
  unfold placePlan
  dsimp only
  refine State.modCtx_keeps (State.each_keeps (State.enterClaims_keeps (State.putRoutes_keeps (State.each_keeps (State.endRunning_keeps
    (dropWatches_keeps (State.each_keeps (State.each_keeps (State.modCtx_keeps (State.each_keeps h ?_) ?_) ?_) ?_))) ?_))) ?_) ?_
  · exact fun _ _ hs => State.frameClear_keeps hs
  · exact fun _ hx => hx
  · exact fun _ _ hs => State.ctxWrite_keeps hs
  · exact fun _ _ hs => State.ctxWrite_keeps hs
  · exact fun _ _ hs => State.modTile_keeps hs fun _ _ => loadTile_ok
  · exact fun _ _ hs => State.setRg_keeps hs
  · exact fun _ hx => hx

theorem endLoad_keeps {s0 : State} {s : State} {l : Loader} {st : Status} {reason : Nat} (kp : Keeps s0 s) :
    Keeps s0 (endLoad s l st reason) := by
  unfold endLoad
  try dsimp only
  repeat' first
    | with_reducible assumption | with_reducible apply State.each_keeps | with_reducible apply State.setRg_keeps
    | with_reducible apply remapTile_keeps | split
    | (intro _ hx; (first | show CtxOk _ | show TileOk _ | show Memory.wf _ = true); (repeat' first | exact hx | exact CtxOk.noSave rfl | split | dsimp only); done)
    | intro _ _ _ | intro _ _ | intro _ | dsimp only | (rw [id_eq]) | with_reducible refine Keeps.put ?_ (fun x => x) (fun x => x)

theorem rejectLoad_keeps {s0 : State} {s : State} {l : Loader} {r : Reject} (kp : Keeps s0 s) :
    Keeps s0 (rejectLoad s l r) := by
  unfold rejectLoad
  try dsimp only
  repeat' first
    | with_reducible assumption | with_reducible apply State.setRg_keeps | with_reducible apply endLoad_keeps | split
    | (intro _ hx; (first | show CtxOk _ | show TileOk _ | show Memory.wf _ = true); (repeat' first | exact hx | exact CtxOk.noSave rfl | split | dsimp only); done)
    | intro _ _ _ | intro _ _ | intro _ | dsimp only | (rw [id_eq]) | with_reducible refine Keeps.put ?_ (fun x => x) (fun x => x)

theorem loadDone_keeps {s0 : State} {s : State} {ue : Bool} (kp : Keeps s0 s) :
    Keeps s0 (loadDone s ue) := by
  unfold loadDone
  try dsimp only
  repeat' first
    | with_reducible assumption | with_reducible apply State.setRg_keeps | with_reducible apply endLoad_keeps
    | with_reducible apply placePlan_keeps | with_reducible apply rejectLoad_keeps | split
    | (intro _ hx; (first | show CtxOk _ | show TileOk _ | show Memory.wf _ = true); (repeat' first | exact hx | exact CtxOk.noSave rfl | split | dsimp only); done)
    | intro _ _ _ | intro _ _ | intro _ | dsimp only | (rw [id_eq]) | with_reducible refine Keeps.put ?_ (fun x => x) (fun x => x)

theorem execImageLoadDone_keeps {s0 : State} {stagingUe : Bool} {s : State} (kp : Keeps s0 s) :
    KeepsN s0 (execImageLoadDone stagingUe s) := by
  unfold execImageLoadDone
  try dsimp only
  repeat' first
    | with_reducible assumption | with_reducible apply loadDone_keeps | with_reducible apply KeepsN.next | with_reducible apply KeepsN.fault
    | split
    | (intro _ hx; (first | show CtxOk _ | show TileOk _ | show Memory.wf _ = true); (repeat' first | exact hx | exact CtxOk.noSave rfl | split | dsimp only); done)
    | intro _ _ _ | intro _ _ | intro _ | dsimp only | (rw [id_eq]) | with_reducible refine Keeps.put ?_ (fun x => x) (fun x => x)

theorem cmdLoad_keeps {s0 : State} {s : State} {acc : Accessor} {v : Word} (kp : Keeps s0 s) :
    Keeps s0 (cmdLoad s acc v) := by
  unfold cmdLoad
  try dsimp only
  repeat' first
    | with_reducible assumption | with_reducible apply State.setRg_keeps | with_reducible apply beginLoad_keeps | split
    | (intro _ hx; (first | show CtxOk _ | show TileOk _ | show Memory.wf _ = true); (repeat' first | exact hx | exact CtxOk.noSave rfl | split | dsimp only); done)
    | intro _ _ _ | intro _ _ | intro _ | dsimp only | (rw [id_eq]) | with_reducible refine Keeps.put ?_ (fun x => x) (fun x => x)

theorem execImageLoad_keeps {s0 : State} {acc : Accessor} {value : Word} {s : State} (kp : Keeps s0 s) :
    KeepsN s0 (execImageLoad acc value s) := by
  unfold execImageLoad
  try dsimp only
  repeat' first
    | with_reducible assumption | with_reducible apply cmdLoad_keeps | with_reducible apply onBlock_keeps | with_reducible apply KeepsN.next
    | with_reducible apply KeepsN.fault | split
    | (intro _ hx; (first | show CtxOk _ | show TileOk _ | show Memory.wf _ = true); (repeat' first | exact hx | exact CtxOk.noSave rfl | split | dsimp only); done)
    | intro _ _ _ | intro _ _ | intro _ | dsimp only | (rw [id_eq]) | with_reducible refine Keeps.put ?_ (fun x => x) (fun x => x)

end Sys2Proof.Machine
end

