-- ==== Sys2Proof/Laws/KeepsSave.lean ====
section
/-! SUPPORT. What each operation of Machine/Save.lean keeps. -/

namespace Sys2Proof.Machine

open Sys2Proof.Safety

set_option linter.all false
set_option Elab.async false

theorem execSaveDrainEnd_keeps {s0 : State} {k : CtxSlot} {s : State} (kp : Keeps s0 s) :
    KeepsN s0 (execSaveDrainEnd k s) := by
  unfold execSaveDrainEnd
  try dsimp only
  repeat' first
    | with_reducible assumption | with_reducible apply State.modCtx_keeps | with_reducible apply KeepsN.next | with_reducible apply KeepsN.fault
    | split | exact fun _ (hx : CtxOk _) => hx
    | (intro _ hx; (first | show CtxOk _ | show TileOk _ | show Memory.wf _ = true); (repeat' first | exact hx | exact CtxOk.noSave rfl | split | dsimp only); done)
    | intro _ _ _ | intro _ _ | intro _ | dsimp only | (rw [id_eq]) | with_reducible refine Keeps.put ?_ (fun x => x) (fun x => x)

theorem execPreemptTimeout_keeps {s0 : State} {k : CtxSlot} {s : State} (kp : Keeps s0 s) :
    KeepsN s0 (execPreemptTimeout k s) := by
  unfold execPreemptTimeout
  try dsimp only
  repeat' first
    | with_reducible assumption | with_reducible apply State.dropCloOp_keeps | with_reducible apply State.modCtx_keeps
    | with_reducible apply against_keeps | with_reducible apply KeepsN.next | with_reducible apply KeepsN.fault | split
    | exact fun _ (hx : CtxOk _) => hx
    | (intro _ hx; (first | show CtxOk _ | show TileOk _ | show Memory.wf _ = true); (repeat' first | exact hx | exact CtxOk.noSave rfl | split | dsimp only); done)
    | intro _ _ _ | intro _ _ | intro _ | dsimp only | (rw [id_eq]) | with_reducible refine Keeps.put ?_ (fun x => x) (fun x => x)

theorem State.saveTile_keeps {s0 : State} {s : State} {k : Nat} {vt : Nat} {t : Nat} (kp : Keeps s0 s) :
    Keeps s0 (State.saveTile s k vt t) := by
  unfold State.saveTile
  try dsimp only
  repeat' first
    | with_reducible assumption | with_reducible apply State.modCtx_keeps | with_reducible apply State.takeTile_keeps | split
    | exact fun _ (hx : CtxOk _) => hx
    | (intro _ hx; (first | show CtxOk _ | show TileOk _ | show Memory.wf _ = true); (repeat' first | exact hx | exact CtxOk.noSave rfl | split | dsimp only); done)
    | intro _ _ _ | intro _ _ | intro _ | dsimp only | (rw [id_eq]) | with_reducible refine Keeps.put ?_ (fun x => x) (fun x => x)

theorem fillFree_keeps {s0 : State} {s : State} {f : FrameId} {off : Nat} {n : Nat} (kp : Keeps s0 s) :
    Keeps s0 (fillFree s f off n) := by
  unfold fillFree
  try dsimp only
  repeat' first
    | with_reducible assumption | with_reducible apply State.drawBytes_keeps
    | refine State.drawBytes_keeps' (out := (_, _)) (by with_reducible assumption) ?_ | with_reducible apply State.frameWrite_keeps | split
    | (intro _ hx; (first | show CtxOk _ | show TileOk _ | show Memory.wf _ = true); (repeat' first | exact hx | exact CtxOk.noSave rfl | split | dsimp only); done)
    | intro _ _ _ | intro _ _ | intro _ | dsimp only | (rw [id_eq]) | with_reducible refine Keeps.put ?_ (fun x => x) (fun x => x)

theorem saveRecord_keeps {s0 : State} {s : State} {f : FrameId} {x : Tile} (kp : Keeps s0 s) :
    Keeps s0 (saveRecord s f x) := by
  unfold saveRecord
  try dsimp only
  repeat' first
    | with_reducible assumption | with_reducible apply State.each_keeps | with_reducible apply State.frameWrite_keeps
    | with_reducible apply fillFree_keeps | split
    | (intro _ hx; (first | show CtxOk _ | show TileOk _ | show Memory.wf _ = true); (repeat' first | exact hx | exact CtxOk.noSave rfl | split | dsimp only); done)
    | intro _ _ _ | intro _ _ | intro _ | dsimp only | (rw [id_eq]) | with_reducible refine Keeps.put ?_ (fun x => x) (fun x => x)

theorem saveFrames_keeps {s0 : State} {s : State} {k : Nat} (kp : Keeps s0 s) :
    Keeps s0 (saveFrames s k) := by
  unfold saveFrames
  try dsimp only
  repeat' first
    | with_reducible assumption | with_reducible apply State.each_keeps | with_reducible apply fillFree_keeps
    | with_reducible apply saveRecord_keeps | split
    | (intro _ hx; (first | show CtxOk _ | show TileOk _ | show Memory.wf _ = true); (repeat' first | exact hx | exact CtxOk.noSave rfl | split | dsimp only); done)
    | intro _ _ _ | intro _ _ | intro _ | dsimp only | (rw [id_eq]) | with_reducible refine Keeps.put ?_ (fun x => x) (fun x => x)

theorem saveCtx_keeps {s0 s : State} {k : Nat} (h : Keeps s0 s) : Keeps s0 (saveCtx s k) := by
  unfold saveCtx
  extract_lets +onlyGivenNames area s1 s2 s3 s4 s5
  have h1 : Keeps s0 s1 := State.endWatches_keeps (saveFrames_keeps h)
  have h2 : Keeps s0 s2 := State.dropClaims_keeps h1
  have h3 : Keeps s0 s3 := State.each_keeps h2 fun _ _ hs => State.saveTile_keeps hs
  have h4 : Keeps s0 s4 := State.each_keeps h3 fun _ _ hs => State.dropGroups_keeps hs
  have h5 : Keeps s0 s5 := State.each_keeps h4 fun _ _ hs => State.modLink_keeps hs
  refine State.modPart_keeps (State.setCtx_keeps h5 fun c0 _ => ?_)
  intro a ha x hx
  cases ha
  obtain ⟨t, _, rfl⟩ := List.mem_map.1 hx
  exact (h.canon c0).tiles t

theorem finishRebind_keeps {s0 : State} {s : State} {k : Nat} {j : Nat} {types : Nat} {issuer : Nat} (kp : Keeps s0 s) :
    Keeps s0 (finishRebind s k j types issuer) := by
  unfold finishRebind
  try dsimp only
  repeat' first
    | with_reducible assumption | with_reducible apply State.clearTile_keeps | with_reducible apply State.each_keeps
    | with_reducible apply State.finish_keeps | with_reducible apply State.giveGroups_keeps | with_reducible apply State.giveTile_keeps
    | with_reducible apply State.modCtx_keeps | refine State.takeFrames_keeps ?_ _ (by with_reducible assumption)
    | with_reducible apply openCtx_keeps | with_reducible apply saveCtx_keeps | split | exact fun _ (hx : CtxOk _) => hx
    | (intro _ hx; (first | show CtxOk _ | show TileOk _ | show Memory.wf _ = true); (repeat' first | exact hx | exact CtxOk.noSave rfl | split | dsimp only); done)
    | intro _ _ _ | intro _ _ | intro _ | dsimp only | (rw [id_eq]) | with_reducible refine Keeps.put ?_ (fun x => x) (fun x => x)

theorem saveComplete_keeps {s0 : State} {s : State} {k : Nat} (kp : Keeps s0 s) :
    Keeps s0 (saveComplete s k) := by
  unfold saveComplete
  try dsimp only
  repeat' first
    | with_reducible assumption | with_reducible apply State.finish_keeps | with_reducible apply finishRebind_keeps
    | with_reducible apply saveCtx_keeps | split
    | (intro _ hx; (first | show CtxOk _ | show TileOk _ | show Memory.wf _ = true); (repeat' first | exact hx | exact CtxOk.noSave rfl | split | dsimp only); done)
    | intro _ _ _ | intro _ _ | intro _ | dsimp only | (rw [id_eq]) | with_reducible refine Keeps.put ?_ (fun x => x) (fun x => x)

theorem execSaveComplete_keeps {s0 : State} {k : CtxSlot} {s : State} (kp : Keeps s0 s) :
    KeepsN s0 (execSaveComplete k s) := by
  unfold execSaveComplete
  try dsimp only
  repeat' first
    | with_reducible assumption | with_reducible apply saveComplete_keeps | with_reducible apply KeepsN.next | with_reducible apply KeepsN.fault
    | split
    | (intro _ hx; (first | show CtxOk _ | show TileOk _ | show Memory.wf _ = true); (repeat' first | exact hx | exact CtxOk.noSave rfl | split | dsimp only); done)
    | intro _ _ _ | intro _ _ | intro _ | dsimp only | (rw [id_eq]) | with_reducible refine Keeps.put ?_ (fun x => x) (fun x => x)

theorem placeStreams_keeps {s0 : State} {s : State} {k : Nat} {x2 : List (Nat × Nat × Nat × Nat × Nat)} (kp : Keeps s0 s) :
    KeepsO s0 (placeStreams s k x2) := by
  revert kp
  fun_induction placeStreams s k x2 <;> intro kp
  all_goals
    repeat' first
      | with_reducible assumption | with_reducible apply State.enterClaims_keeps | with_reducible apply KeepsO.some
      | with_reducible exact KeepsO.none | with_reducible apply KeepsO.map | with_reducible apply_assumption -exfalso -symm | split
      | (intro _ hx; (first | show CtxOk _ | show TileOk _ | show Memory.wf _ = true); (repeat' first | exact hx | exact CtxOk.noSave rfl | split | dsimp only); done)
      | intro _ _ _ | intro _ _ | intro _ | dsimp only | (rw [id_eq]) | with_reducible refine Keeps.put ?_ (fun x => x) (fun x => x)

theorem regrant_keeps {s0 : State} {s : State} {k : Nat} {a : SaveArea} (kp : Keeps s0 s) :
    KeepsO s0 (regrant s k a) := by
  unfold regrant
  try dsimp only
  repeat' first
    | with_reducible assumption | with_reducible apply State.each_keeps | with_reducible apply State.giveGroups_keeps
    | with_reducible apply State.giveLink_keeps | with_reducible apply State.giveTile_keeps | with_reducible apply State.modCtx_keeps
    | refine placeStreams_keeps ?_ _ (by with_reducible assumption) | with_reducible apply placeStreams_keeps | with_reducible apply KeepsO.some
    | with_reducible exact KeepsO.none | with_reducible apply KeepsO.map | split | exact fun _ (hx : CtxOk _) => hx
    | (intro _ hx; (first | show CtxOk _ | show TileOk _ | show Memory.wf _ = true); (repeat' first | exact hx | exact CtxOk.noSave rfl | split | dsimp only); done)
    | intro _ _ _ | intro _ _ | intro _ | dsimp only | (rw [id_eq]) | with_reducible refine Keeps.put ?_ (fun x => x) (fun x => x)

theorem cmdResume_keeps {s0 s : State} {acc : Accessor} (h : Keeps s0 s) : Keeps s0 (cmdResume s acc) := by
  unfold cmdResume
  extract_lets +onlyGivenNames k c lost again
  have ha : KeepsO s0 again := by
    have key : ∀ o : Option SaveArea, KeepsO s0 (match o with
        | some a => if c.state = CtxState.saved then regrant s k a else none
        | none => none) := by
      intro o
      cases o with
      | none => exact KeepsO.none
      | some a =>
        dsimp only
        split
        · exact regrant_keeps h
        · exact KeepsO.none
    exact key _
  clear_value again
  refine cloCmd_keeps h fun s1 h1 => ?_
  cases again with
  | some s2 =>
    dsimp only
    refine Keeps.put ?_ (fun x => x) (fun x => x)
    exact State.modCtx_keeps (ha _ rfl) fun _ hx => hx
  | none => exact h1

theorem execResume_keeps {s0 : State} {acc : Accessor} {s : State} (kp : Keeps s0 s) :
    KeepsN s0 (execResume acc s) := by
  unfold execResume
  try dsimp only
  repeat' first
    | with_reducible assumption | with_reducible apply cmdResume_keeps | with_reducible apply KeepsN.next | with_reducible apply KeepsN.fault
    | split
    | (intro _ hx; (first | show CtxOk _ | show TileOk _ | show Memory.wf _ = true); (repeat' first | exact hx | exact CtxOk.noSave rfl | split | dsimp only); done)
    | intro _ _ _ | intro _ _ | intro _ | dsimp only | (rw [id_eq]) | with_reducible refine Keeps.put ?_ (fun x => x) (fun x => x)

theorem restoreComplete_keeps {s0 s : State} {k : Nat} (h : Keeps s0 s) : Keeps s0 (restoreComplete s k) := by
  unfold restoreComplete
  extract_lets +onlyGivenNames c
  split
  · rename_i a _ hsave
    split
    · exact h
    · extract_lets +onlyGivenNames s1 s2 s3 s4 s5 s6
      have h1 : Keeps s0 s1 := each_keeps_mem h fun s e he hs => State.setTile_keeps hs fun c0 _ =>
        (h.canon c0).ctxs k a hsave e.2 (List.of_mem_zip he).2
      have h2 : Keeps s0 s2 := State.each_keeps h1 fun _ _ hs => State.each_keeps hs fun _ _ hs => State.setRg_keeps hs
      have h3 : Keeps s0 s3 := State.each_keeps h2 fun _ _ hs => State.modLink_keeps hs
      have h4 : Keeps s0 s4 := by
        simp only [s4]
        split
        · exact h3
        · split
          · exact State.putRoutes_keeps h3
          · exact h3
      have h5 : Keeps s0 s5 := State.modCtx_keeps h4 fun _ _ => CtxOk.noSave rfl
      have h6 : Keeps s0 s6 := State.modPart_keeps h5
      split
      · split
        · exact State.finish_keeps (Keeps.put h6 (fun x => x) (fun x => x))
        · exact h6
      · exact h6
  · exact h

theorem execRestoreComplete_keeps {s0 : State} {k : CtxSlot} {s : State} (kp : Keeps s0 s) :
    KeepsN s0 (execRestoreComplete k s) := by
  unfold execRestoreComplete
  try dsimp only
  repeat' first
    | with_reducible assumption | with_reducible apply restoreComplete_keeps | with_reducible apply KeepsN.next | with_reducible apply KeepsN.fault
    | split
    | (intro _ hx; (first | show CtxOk _ | show TileOk _ | show Memory.wf _ = true); (repeat' first | exact hx | exact CtxOk.noSave rfl | split | dsimp only); done)
    | intro _ _ _ | intro _ _ | intro _ | dsimp only | (rw [id_eq]) | with_reducible refine Keeps.put ?_ (fun x => x) (fun x => x)

theorem execTileClear_keeps {s0 : State} {t : TileIx} {s : State} (kp : Keeps s0 s) :
    KeepsN s0 (execTileClear t s) := by
  unfold execTileClear
  try dsimp only
  repeat' first
    | with_reducible assumption | with_reducible apply State.clearTile_keeps | with_reducible apply KeepsN.next | with_reducible apply KeepsN.fault
    | split
    | (intro _ hx; (first | show CtxOk _ | show TileOk _ | show Memory.wf _ = true); (repeat' first | exact hx | exact CtxOk.noSave rfl | split | dsimp only); done)
    | intro _ _ _ | intro _ _ | intro _ | dsimp only | (rw [id_eq]) | with_reducible refine Keeps.put ?_ (fun x => x) (fun x => x)

end Sys2Proof.Machine
end

