-- ==== Sys2Proof/Laws/KeepsWindow.lean ====
section
/-! SUPPORT. What each operation of Machine/Window.lean keeps. -/

namespace Sys2Proof.Machine

open Sys2Proof.Safety

set_option linter.all false
set_option Elab.async false

theorem expertWrite_keeps {s0 s : State} {b : Inst} {v : Word} (h : Keeps s0 s) : Keeps s0 (expertWrite s b v) := by
  unfold expertWrite
  extract_lets +onlyGivenNames key s1
  have h1 : Keeps s0 s1 := h.csr (fun x => Rising.set _ x _ _) rfl
  split
  · exact notice_keeps h1
  · exact h1

theorem onUnlocked_keeps {s0 : State} {s : State} {b : Inst} {act : State → State} (kp : Keeps s0 s) (hact : ∀ s1, Keeps s0 s1 → Keeps s0 (act s1)) :
    Keeps s0 (onUnlocked s b act) := by
  unfold onUnlocked
  try dsimp only
  repeat' first
    | with_reducible assumption | with_reducible apply notice_keeps | with_reducible apply hact | split
    | (intro _ hx; (first | show CtxOk _ | show TileOk _ | show Memory.wf _ = true); (repeat' first | exact hx | exact CtxOk.noSave rfl | split | dsimp only); done)
    | intro _ _ _ | intro _ _ | intro _ | dsimp only | (rw [id_eq]) | with_reducible refine Keeps.put ?_ (fun x => x) (fun x => x)

theorem execExpertUnlock_keeps {s0 : State} {acc : Accessor} {addr : BitVec 32} {value : Word} {s : State} (kp : Keeps s0 s) :
    KeepsN s0 (execExpertUnlock acc addr value s) := by
  unfold execExpertUnlock
  try dsimp only
  repeat' first
    | with_reducible assumption | with_reducible apply expertWrite_keeps | with_reducible apply onBlock_keeps | with_reducible apply KeepsN.next
    | with_reducible apply KeepsN.fault | split
    | (intro _ hx; (first | show CtxOk _ | show TileOk _ | show Memory.wf _ = true); (repeat' first | exact hx | exact CtxOk.noSave rfl | split | dsimp only); done)
    | intro _ _ _ | intro _ _ | intro _ | dsimp only | (rw [id_eq]) | with_reducible refine Keeps.put ?_ (fun x => x) (fun x => x)

theorem State.answer_keeps {s0 : State} {s : State} {w : Word} (kp : Keeps s0 s) :
    Keeps s0 (State.answer s w) := by
  unfold State.answer
  try dsimp only
  repeat' first
    | with_reducible assumption | split
    | (intro _ hx; (first | show CtxOk _ | show TileOk _ | show Memory.wf _ = true); (repeat' first | exact hx | exact CtxOk.noSave rfl | split | dsimp only); done)
    | intro _ _ _ | intro _ _ | intro _ | dsimp only | (rw [id_eq]) | with_reducible refine Keeps.put ?_ (fun x => x) (fun x => x)

theorem misalignedNotice_keeps {s0 : State} {s : State} {addr : Nat} (kp : Keeps s0 s) :
    Keeps s0 (misalignedNotice s addr) := by
  unfold misalignedNotice
  try dsimp only
  repeat' first
    | with_reducible assumption | with_reducible apply notice_keeps | split
    | (intro _ hx; (first | show CtxOk _ | show TileOk _ | show Memory.wf _ = true); (repeat' first | exact hx | exact CtxOk.noSave rfl | split | dsimp only); done)
    | intro _ _ _ | intro _ _ | intro _ | dsimp only | (rw [id_eq]) | with_reducible refine Keeps.put ?_ (fun x => x) (fun x => x)

theorem execMisaligned_keeps {s0 : State} {_acc : Accessor} {addr : BitVec 32} {bytes : Nat} {write : Bool} {s : State} (kp : Keeps s0 s) :
    KeepsN s0 (execMisaligned _acc addr bytes write s) := by
  unfold execMisaligned
  try dsimp only
  repeat' first
    | with_reducible assumption | with_reducible apply State.answer_keeps | with_reducible apply misalignedNotice_keeps
    | with_reducible apply KeepsN.next | with_reducible apply KeepsN.fault | split
    | (intro _ hx; (first | show CtxOk _ | show TileOk _ | show Memory.wf _ = true); (repeat' first | exact hx | exact CtxOk.noSave rfl | split | dsimp only); done)
    | intro _ _ _ | intro _ _ | intro _ | dsimp only | (rw [id_eq]) | with_reducible refine Keeps.put ?_ (fun x => x) (fun x => x)

theorem absentAccess_keeps {s0 : State} {s : State} {acc : Accessor} {addr : AbsentAddr} {write : Bool} (kp : Keeps s0 s) :
    Keeps s0 (absentAccess s acc addr write) := by
  unfold absentAccess
  try dsimp only
  repeat' first
    | with_reducible assumption | with_reducible apply State.answer_keeps | with_reducible apply State.emit_keeps
    | with_reducible apply notice_keeps | split
    | (intro _ hx; (first | show CtxOk _ | show TileOk _ | show Memory.wf _ = true); (repeat' first | exact hx | exact CtxOk.noSave rfl | split | dsimp only); done)
    | intro _ _ _ | intro _ _ | intro _ | dsimp only | (rw [id_eq]) | with_reducible refine Keeps.put ?_ (fun x => x) (fun x => x)

theorem execAbsentTarget_keeps {s0 : State} {acc : Accessor} {addr : AbsentAddr} {write : Bool} {s : State} (kp : Keeps s0 s) :
    KeepsN s0 (execAbsentTarget acc addr write s) := by
  unfold execAbsentTarget
  try dsimp only
  repeat' first
    | with_reducible assumption | with_reducible apply absentAccess_keeps | with_reducible apply KeepsN.next | with_reducible apply KeepsN.fault
    | split
    | (intro _ hx; (first | show CtxOk _ | show TileOk _ | show Memory.wf _ = true); (repeat' first | exact hx | exact CtxOk.noSave rfl | split | dsimp only); done)
    | intro _ _ _ | intro _ _ | intro _ | dsimp only | (rw [id_eq]) | with_reducible refine Keeps.put ?_ (fun x => x) (fun x => x)

end Sys2Proof.Machine
end

