-- ==== Sys2Proof/Laws/KeepsCollector.lean ====
section
/-! SUPPORT. What each operation of Machine/Collector.lean keeps. -/

namespace Sys2Proof.Machine

open Sys2Proof.Safety

set_option linter.all false
set_option Elab.async false

theorem onFlt_keeps {s0 : State} {s : State} {acc : Accessor} {act : State → State} (kp : Keeps s0 s) (hact : ∀ s1, Keeps s0 s1 → Keeps s0 (act s1)) :
    Keeps s0 (onFlt s acc act) := by
  unfold onFlt
  try dsimp only
  repeat' first
    | with_reducible assumption | with_reducible apply onBlock_keeps | with_reducible apply hact | split
    | (intro _ hx; (first | show CtxOk _ | show TileOk _ | show Memory.wf _ = true); (repeat' first | exact hx | exact CtxOk.noSave rfl | split | dsimp only); done)
    | intro _ _ _ | intro _ _ | intro _ | dsimp only | (rw [id_eq]) | with_reducible refine Keeps.put ?_ (fun x => x) (fun x => x)

theorem fltAck_keeps {s0 : State} {s : State} {v : Word} (kp : Keeps s0 s) :
    Keeps s0 (fltAck s v) := by
  unfold fltAck
  try dsimp only
  repeat' first
    | with_reducible assumption | with_reducible apply State.modFlt_keeps | with_reducible apply State.refreshHead_keeps | split
    | (intro _ hx; (first | show CtxOk _ | show TileOk _ | show Memory.wf _ = true); (repeat' first | exact hx | exact CtxOk.noSave rfl | split | dsimp only); done)
    | intro _ _ _ | intro _ _ | intro _ | dsimp only | (rw [id_eq]) | with_reducible refine Keeps.put ?_ (fun x => x) (fun x => x)

theorem execFltAck_keeps {s0 : State} {acc : Accessor} {value : Word} {s : State} (kp : Keeps s0 s) :
    KeepsN s0 (execFltAck acc value s) := by
  unfold execFltAck
  try dsimp only
  repeat' first
    | with_reducible assumption | with_reducible apply fltAck_keeps | with_reducible apply onFlt_keeps | with_reducible apply KeepsN.next
    | with_reducible apply KeepsN.fault | split
    | (intro _ hx; (first | show CtxOk _ | show TileOk _ | show Memory.wf _ = true); (repeat' first | exact hx | exact CtxOk.noSave rfl | split | dsimp only); done)
    | intro _ _ _ | intro _ _ | intro _ | dsimp only | (rw [id_eq]) | with_reducible refine Keeps.put ?_ (fun x => x) (fun x => x)

theorem fltInject_keeps {s0 : State} {s : State} {v : Word} (kp : Keeps s0 s) :
    Keeps s0 (fltInject s v) := by
  unfold fltInject
  try dsimp only
  repeat' first
    | with_reducible assumption | with_reducible apply onUnlocked_keeps | with_reducible apply raise_keeps | split
    | (intro _ hx; (first | show CtxOk _ | show TileOk _ | show Memory.wf _ = true); (repeat' first | exact hx | exact CtxOk.noSave rfl | split | dsimp only); done)
    | intro _ _ _ | intro _ _ | intro _ | dsimp only | (rw [id_eq]) | with_reducible refine Keeps.put ?_ (fun x => x) (fun x => x)

theorem execFltInject_keeps {s0 : State} {acc : Accessor} {value : Word} {s : State} (kp : Keeps s0 s) :
    KeepsN s0 (execFltInject acc value s) := by
  unfold execFltInject
  try dsimp only
  repeat' first
    | with_reducible assumption | with_reducible apply fltInject_keeps | with_reducible apply onFlt_keeps | with_reducible apply KeepsN.next
    | with_reducible apply KeepsN.fault | split
    | (intro _ hx; (first | show CtxOk _ | show TileOk _ | show Memory.wf _ = true); (repeat' first | exact hx | exact CtxOk.noSave rfl | split | dsimp only); done)
    | intro _ _ _ | intro _ _ | intro _ | dsimp only | (rw [id_eq]) | with_reducible refine Keeps.put ?_ (fun x => x) (fun x => x)

theorem execAliveToggle_keeps {s0 : State} {s : State} (kp : Keeps s0 s) :
    KeepsN s0 (execAliveToggle s) := by
  unfold execAliveToggle
  try dsimp only
  repeat' first
    | with_reducible assumption | with_reducible apply State.modFlt_keeps | with_reducible apply KeepsN.next | with_reducible apply KeepsN.fault
    | split
    | (intro _ hx; (first | show CtxOk _ | show TileOk _ | show Memory.wf _ = true); (repeat' first | exact hx | exact CtxOk.noSave rfl | split | dsimp only); done)
    | intro _ _ _ | intro _ _ | intro _ | dsimp only | (rw [id_eq]) | with_reducible refine Keeps.put ?_ (fun x => x) (fun x => x)

theorem aliveExpire_keeps {s0 : State} {s : State} (kp : Keeps s0 s) :
    Keeps s0 (aliveExpire s) := by
  unfold aliveExpire
  try dsimp only
  repeat' first
    | with_reducible assumption | with_reducible apply State.modFlt_keeps | with_reducible apply notice_keeps | split
    | (intro _ hx; (first | show CtxOk _ | show TileOk _ | show Memory.wf _ = true); (repeat' first | exact hx | exact CtxOk.noSave rfl | split | dsimp only); done)
    | intro _ _ _ | intro _ _ | intro _ | dsimp only | (rw [id_eq]) | with_reducible refine Keeps.put ?_ (fun x => x) (fun x => x)

theorem execAliveWatchdog_keeps {s0 : State} {s : State} (kp : Keeps s0 s) :
    KeepsN s0 (execAliveWatchdog s) := by
  unfold execAliveWatchdog
  try dsimp only
  repeat' first
    | with_reducible assumption | with_reducible apply aliveExpire_keeps | with_reducible apply KeepsN.next | with_reducible apply KeepsN.fault
    | split
    | (intro _ hx; (first | show CtxOk _ | show TileOk _ | show Memory.wf _ = true); (repeat' first | exact hx | exact CtxOk.noSave rfl | split | dsimp only); done)
    | intro _ _ _ | intro _ _ | intro _ | dsimp only | (rw [id_eq]) | with_reducible refine Keeps.put ?_ (fun x => x) (fun x => x)

theorem aliveKick_keeps {s0 : State} {s : State} (kp : Keeps s0 s) :
    Keeps s0 (aliveKick s) := by
  unfold aliveKick
  try dsimp only
  repeat' first
    | with_reducible assumption | with_reducible apply State.modFlt_keeps | split
    | (intro _ hx; (first | show CtxOk _ | show TileOk _ | show Memory.wf _ = true); (repeat' first | exact hx | exact CtxOk.noSave rfl | split | dsimp only); done)
    | intro _ _ _ | intro _ _ | intro _ | dsimp only | (rw [id_eq]) | with_reducible refine Keeps.put ?_ (fun x => x) (fun x => x)

theorem execAliveKick_keeps {s0 : State} {acc : Accessor} {value : Word} {s : State} (kp : Keeps s0 s) :
    KeepsN s0 (execAliveKick acc value s) := by
  unfold execAliveKick
  try dsimp only
  repeat' first
    | with_reducible assumption | with_reducible apply aliveKick_keeps | with_reducible apply onFlt_keeps | with_reducible apply KeepsN.next
    | with_reducible apply KeepsN.fault | split
    | (intro _ hx; (first | show CtxOk _ | show TileOk _ | show Memory.wf _ = true); (repeat' first | exact hx | exact CtxOk.noSave rfl | split | dsimp only); done)
    | intro _ _ _ | intro _ _ | intro _ | dsimp only | (rw [id_eq]) | with_reducible refine Keeps.put ?_ (fun x => x) (fun x => x)

theorem aliveConfig_keeps {s0 : State} {s : State} {v : Word} (kp : Keeps s0 s) :
    Keeps s0 (aliveConfig s v) := by
  unfold aliveConfig
  try dsimp only
  repeat' first
    | with_reducible assumption | with_reducible apply State.modFlt_keeps | with_reducible apply State.setRg_keeps
    | with_reducible apply aliveExpire_keeps | split
    | (intro _ hx; (first | show CtxOk _ | show TileOk _ | show Memory.wf _ = true); (repeat' first | exact hx | exact CtxOk.noSave rfl | split | dsimp only); done)
    | intro _ _ _ | intro _ _ | intro _ | dsimp only | (rw [id_eq]) | with_reducible refine Keeps.put ?_ (fun x => x) (fun x => x)

theorem execAliveConfigWrite_keeps {s0 : State} {acc : Accessor} {value : Word} {s : State} (kp : Keeps s0 s) :
    KeepsN s0 (execAliveConfigWrite acc value s) := by
  unfold execAliveConfigWrite
  try dsimp only
  repeat' first
    | with_reducible assumption | with_reducible apply aliveConfig_keeps | with_reducible apply onFlt_keeps | with_reducible apply KeepsN.next
    | with_reducible apply KeepsN.fault | split
    | (intro _ hx; (first | show CtxOk _ | show TileOk _ | show Memory.wf _ = true); (repeat' first | exact hx | exact CtxOk.noSave rfl | split | dsimp only); done)
    | intro _ _ _ | intro _ _ | intro _ | dsimp only | (rw [id_eq]) | with_reducible refine Keeps.put ?_ (fun x => x) (fun x => x)

theorem snap_keeps {s0 : State} {s : State} {acc : Accessor} {v : Word} (kp : Keeps s0 s) :
    Keeps s0 (snap s acc v) := by
  unfold snap
  try dsimp only
  repeat' first
    | with_reducible assumption | with_reducible apply State.finish_keeps | split
    | (intro _ hx; (first | show CtxOk _ | show TileOk _ | show Memory.wf _ = true); (repeat' first | exact hx | exact CtxOk.noSave rfl | split | dsimp only); done)
    | intro _ _ _ | intro _ _ | intro _ | dsimp only | (rw [id_eq]) | with_reducible refine Keeps.put ?_ (fun x => x) (fun x => x)

theorem execSnap_keeps {s0 : State} {acc : Accessor} {value : Word} {s : State} (kp : Keeps s0 s) :
    KeepsN s0 (execSnap acc value s) := by
  unfold execSnap
  try dsimp only
  repeat' first
    | with_reducible assumption | with_reducible apply onFlt_keeps | with_reducible apply snap_keeps | with_reducible apply KeepsN.next
    | with_reducible apply KeepsN.fault | split
    | (intro _ hx; (first | show CtxOk _ | show TileOk _ | show Memory.wf _ = true); (repeat' first | exact hx | exact CtxOk.noSave rfl | split | dsimp only); done)
    | intro _ _ _ | intro _ _ | intro _ | dsimp only | (rw [id_eq]) | with_reducible refine Keeps.put ?_ (fun x => x) (fun x => x)

theorem snapDone_keeps {s0 : State} {s : State} (kp : Keeps s0 s) :
    Keeps s0 (snapDone s) := by
  unfold snapDone
  try dsimp only
  repeat' first
    | with_reducible assumption | with_reducible apply State.each_keeps | with_reducible apply State.finish_keeps
    | with_reducible apply State.mgtWrite_keeps | with_reducible apply State.setRg_keeps | split
    | (intro _ hx; (first | show CtxOk _ | show TileOk _ | show Memory.wf _ = true); (repeat' first | exact hx | exact CtxOk.noSave rfl | split | dsimp only); done)
    | intro _ _ _ | intro _ _ | intro _ | dsimp only | (rw [id_eq]) | with_reducible refine Keeps.put ?_ (fun x => x) (fun x => x)

theorem execSnapDone_keeps {s0 : State} {s : State} (kp : Keeps s0 s) :
    KeepsN s0 (execSnapDone s) := by
  unfold execSnapDone
  try dsimp only
  repeat' first
    | with_reducible assumption | with_reducible apply snapDone_keeps | with_reducible apply KeepsN.next | with_reducible apply KeepsN.fault
    | split
    | (intro _ hx; (first | show CtxOk _ | show TileOk _ | show Memory.wf _ = true); (repeat' first | exact hx | exact CtxOk.noSave rfl | split | dsimp only); done)
    | intro _ _ _ | intro _ _ | intro _ | dsimp only | (rw [id_eq]) | with_reducible refine Keeps.put ?_ (fun x => x) (fun x => x)

end Sys2Proof.Machine
end

