-- ==== Sys2Proof/Laws/KeepsTensor.lean ====
section
/-! SUPPORT. What each operation of Machine/Tensor.lean keeps. -/

namespace Sys2Proof.Machine

open Sys2Proof.Safety

set_option linter.all false
set_option Elab.async false

theorem putTensor_keeps {s0 : State} {s : State} {t : Nat} {r : Running} {b : Nat} {out : Counted (List (List Block))} (kp : Keeps s0 s) :
    Keeps s0 (putTensor s t r b out) := by
  unfold putTensor
  try dsimp only
  repeat' first
    | with_reducible assumption | with_reducible apply State.modTile_keeps | with_reducible apply satBlocks_keeps | split
    | exact fun _ (hx : TileOk _) => hx | exact fun _ (hx : TileOk _) => ⟨Memory.write_wf _ _ _ hx.1, hx.2⟩
    | exact fun _ (hx : TileOk _) => ⟨writeRanges_wf _ _ _ hx.1, hx.2⟩ | exact fun _ (hx : TileOk _) => ⟨writeTensor_wf _ _ _ _ hx.1, hx.2⟩
    | (intro _ hx; (first | show CtxOk _ | show TileOk _ | show Memory.wf _ = true); (repeat' first | exact hx | exact CtxOk.noSave rfl | exact ⟨writeTensor_wf _ _ _ _ hx.1, hx.2⟩ | split | dsimp only); done)
    | intro _ _ _ | intro _ _ | intro _ | dsimp only | (rw [id_eq]) | with_reducible refine Keeps.put ?_ (fun x => x) (fun x => x)

theorem newStationary_keeps {s0 : State} {s : State} {t : Nat} {r : Running} (kp : Keeps s0 s) :
    Keeps s0 (newStationary s t r) := by
  unfold newStationary
  try dsimp only
  repeat' first
    | with_reducible assumption | with_reducible apply State.modTile_keeps | split | exact fun _ (hx : TileOk _) => hx
    | exact fun _ (hx : TileOk _) => ⟨Memory.write_wf _ _ _ hx.1, hx.2⟩ | exact fun _ (hx : TileOk _) => ⟨writeRanges_wf _ _ _ hx.1, hx.2⟩
    | exact fun _ (hx : TileOk _) => ⟨writeTensor_wf _ _ _ _ hx.1, hx.2⟩
    | (intro _ hx; (first | show CtxOk _ | show TileOk _ | show Memory.wf _ = true); (repeat' first | exact hx | exact CtxOk.noSave rfl | split | dsimp only); done)
    | intro _ _ _ | intro _ _ | intro _ | dsimp only | (rw [id_eq]) | with_reducible refine Keeps.put ?_ (fun x => x) (fun x => x)

theorem matmulBody_keeps {s0 : State} {s : State} {t : Nat} {r : Running} (kp : Keeps s0 s) :
    Keeps s0 (matmulBody s t r) := by
  unfold matmulBody
  try dsimp only
  repeat' first
    | with_reducible assumption | with_reducible apply State.modTile_keeps | with_reducible apply newStationary_keeps
    | with_reducible apply putTensor_keeps | split | exact fun _ (hx : TileOk _) => hx
    | exact fun _ (hx : TileOk _) => ⟨Memory.write_wf _ _ _ hx.1, hx.2⟩ | exact fun _ (hx : TileOk _) => ⟨writeRanges_wf _ _ _ hx.1, hx.2⟩
    | exact fun _ (hx : TileOk _) => ⟨writeTensor_wf _ _ _ _ hx.1, hx.2⟩
    | (intro _ hx; (first | show CtxOk _ | show TileOk _ | show Memory.wf _ = true); (repeat' first | exact hx | exact CtxOk.noSave rfl | split | dsimp only); done)
    | intro _ _ _ | intro _ _ | intro _ | dsimp only | (rw [id_eq]) | with_reducible refine Keeps.put ?_ (fun x => x) (fun x => x)

theorem matmul_keeps {s0 : State} {s : State} {t : Nat} {found : Findings} (kp : Keeps s0 s) :
    Keeps s0 (matmul s t found) := by
  unfold matmul
  try dsimp only
  repeat' first
    | with_reducible assumption | with_reducible apply matmulBody_keeps | with_reducible apply perform_keeps | split
    | (intro _ hx; (first | show CtxOk _ | show TileOk _ | show Memory.wf _ = true); (repeat' first | exact hx | exact CtxOk.noSave rfl | split | dsimp only); done)
    | intro _ _ _ | intro _ _ | intro _ | dsimp only | (rw [id_eq]) | with_reducible refine Keeps.put ?_ (fun x => x) (fun x => x)

theorem execMatmul_keeps {s0 : State} {t : TileIx} {found : Findings} {s : State} (kp : Keeps s0 s) :
    KeepsN s0 (execMatmul t found s) := by
  unfold execMatmul
  try dsimp only
  repeat' first
    | with_reducible assumption | with_reducible apply matmul_keeps | with_reducible apply KeepsN.next | with_reducible apply KeepsN.fault | split
    | (intro _ hx; (first | show CtxOk _ | show TileOk _ | show Memory.wf _ = true); (repeat' first | exact hx | exact CtxOk.noSave rfl | split | dsimp only); done)
    | intro _ _ _ | intro _ _ | intro _ | dsimp only | (rw [id_eq]) | with_reducible refine Keeps.put ?_ (fun x => x) (fun x => x)

theorem softmaxBody_keeps {s0 : State} {s : State} {t : Nat} {r : Running} (kp : Keeps s0 s) :
    Keeps s0 (softmaxBody s t r) := by
  unfold softmaxBody
  try dsimp only
  repeat' first
    | with_reducible assumption | with_reducible apply putTensor_keeps | split
    | (intro _ hx; (first | show CtxOk _ | show TileOk _ | show Memory.wf _ = true); (repeat' first | exact hx | exact CtxOk.noSave rfl | split | dsimp only); done)
    | intro _ _ _ | intro _ _ | intro _ | dsimp only | (rw [id_eq]) | with_reducible refine Keeps.put ?_ (fun x => x) (fun x => x)

theorem softmax_keeps {s0 : State} {s : State} {t : Nat} {found : Findings} (kp : Keeps s0 s) :
    Keeps s0 (softmax s t found) := by
  unfold softmax
  try dsimp only
  repeat' first
    | with_reducible assumption | with_reducible apply perform_keeps | with_reducible apply softmaxBody_keeps | split
    | (intro _ hx; (first | show CtxOk _ | show TileOk _ | show Memory.wf _ = true); (repeat' first | exact hx | exact CtxOk.noSave rfl | split | dsimp only); done)
    | intro _ _ _ | intro _ _ | intro _ | dsimp only | (rw [id_eq]) | with_reducible refine Keeps.put ?_ (fun x => x) (fun x => x)

theorem execSoftmax_keeps {s0 : State} {t : TileIx} {found : Findings} {s : State} (kp : Keeps s0 s) :
    KeepsN s0 (execSoftmax t found s) := by
  unfold execSoftmax
  try dsimp only
  repeat' first
    | with_reducible assumption | with_reducible apply softmax_keeps | with_reducible apply KeepsN.next | with_reducible apply KeepsN.fault | split
    | (intro _ hx; (first | show CtxOk _ | show TileOk _ | show Memory.wf _ = true); (repeat' first | exact hx | exact CtxOk.noSave rfl | split | dsimp only); done)
    | intro _ _ _ | intro _ _ | intro _ | dsimp only | (rw [id_eq]) | with_reducible refine Keeps.put ?_ (fun x => x) (fun x => x)

theorem attnBody_keeps {s0 : State} {s : State} {t : Nat} {r : Running} (kp : Keeps s0 s) :
    Keeps s0 (attnBody s t r) := by
  unfold attnBody
  try dsimp only
  repeat' first
    | with_reducible assumption | with_reducible apply State.modTile_keeps | with_reducible apply newStationary_keeps
    | with_reducible apply putTensor_keeps | split | exact fun _ (hx : TileOk _) => hx
    | exact fun _ (hx : TileOk _) => ⟨Memory.write_wf _ _ _ hx.1, hx.2⟩ | exact fun _ (hx : TileOk _) => ⟨writeRanges_wf _ _ _ hx.1, hx.2⟩
    | exact fun _ (hx : TileOk _) => ⟨writeTensor_wf _ _ _ _ hx.1, hx.2⟩
    | (intro _ hx; (first | show CtxOk _ | show TileOk _ | show Memory.wf _ = true); (repeat' first | exact hx | exact CtxOk.noSave rfl | split | dsimp only); done)
    | intro _ _ _ | intro _ _ | intro _ | dsimp only | (rw [id_eq]) | with_reducible refine Keeps.put ?_ (fun x => x) (fun x => x)

theorem attn_keeps {s0 : State} {s : State} {t : Nat} {found : Findings} (kp : Keeps s0 s) :
    Keeps s0 (attn s t found) := by
  unfold attn
  try dsimp only
  repeat' first
    | with_reducible assumption | with_reducible apply attnBody_keeps | with_reducible apply perform_keeps | split
    | (intro _ hx; (first | show CtxOk _ | show TileOk _ | show Memory.wf _ = true); (repeat' first | exact hx | exact CtxOk.noSave rfl | split | dsimp only); done)
    | intro _ _ _ | intro _ _ | intro _ | dsimp only | (rw [id_eq]) | with_reducible refine Keeps.put ?_ (fun x => x) (fun x => x)

theorem execAttn_keeps {s0 : State} {t : TileIx} {found : Findings} {s : State} (kp : Keeps s0 s) :
    KeepsN s0 (execAttn t found s) := by
  unfold execAttn
  try dsimp only
  repeat' first
    | with_reducible assumption | with_reducible apply attn_keeps | with_reducible apply KeepsN.next | with_reducible apply KeepsN.fault | split
    | (intro _ hx; (first | show CtxOk _ | show TileOk _ | show Memory.wf _ = true); (repeat' first | exact hx | exact CtxOk.noSave rfl | split | dsimp only); done)
    | intro _ _ _ | intro _ _ | intro _ | dsimp only | (rw [id_eq]) | with_reducible refine Keeps.put ?_ (fun x => x) (fun x => x)

theorem normBody_keeps {s0 : State} {s : State} {t : Nat} {r : Running} (kp : Keeps s0 s) :
    Keeps s0 (normBody s t r) := by
  unfold normBody
  try dsimp only
  repeat' first
    | with_reducible assumption | with_reducible apply putTensor_keeps | split
    | (intro _ hx; (first | show CtxOk _ | show TileOk _ | show Memory.wf _ = true); (repeat' first | exact hx | exact CtxOk.noSave rfl | split | dsimp only); done)
    | intro _ _ _ | intro _ _ | intro _ | dsimp only | (rw [id_eq]) | with_reducible refine Keeps.put ?_ (fun x => x) (fun x => x)

theorem norm_keeps {s0 : State} {s : State} {t : Nat} {found : Findings} (kp : Keeps s0 s) :
    Keeps s0 (norm s t found) := by
  unfold norm
  try dsimp only
  repeat' first
    | with_reducible assumption | with_reducible apply normBody_keeps | with_reducible apply perform_keeps | split
    | (intro _ hx; (first | show CtxOk _ | show TileOk _ | show Memory.wf _ = true); (repeat' first | exact hx | exact CtxOk.noSave rfl | split | dsimp only); done)
    | intro _ _ _ | intro _ _ | intro _ | dsimp only | (rw [id_eq]) | with_reducible refine Keeps.put ?_ (fun x => x) (fun x => x)

theorem execNorm_keeps {s0 : State} {t : TileIx} {found : Findings} {s : State} (kp : Keeps s0 s) :
    KeepsN s0 (execNorm t found s) := by
  unfold execNorm
  try dsimp only
  repeat' first
    | with_reducible assumption | with_reducible apply norm_keeps | with_reducible apply KeepsN.next | with_reducible apply KeepsN.fault | split
    | (intro _ hx; (first | show CtxOk _ | show TileOk _ | show Memory.wf _ = true); (repeat' first | exact hx | exact CtxOk.noSave rfl | split | dsimp only); done)
    | intro _ _ _ | intro _ _ | intro _ | dsimp only | (rw [id_eq]) | with_reducible refine Keeps.put ?_ (fun x => x) (fun x => x)

theorem actBody_keeps {s0 : State} {s : State} {t : Nat} {r : Running} (kp : Keeps s0 s) :
    Keeps s0 (actBody s t r) := by
  unfold actBody
  try dsimp only
  repeat' first
    | with_reducible assumption | with_reducible apply putTensor_keeps | split
    | (intro _ hx; (first | show CtxOk _ | show TileOk _ | show Memory.wf _ = true); (repeat' first | exact hx | exact CtxOk.noSave rfl | split | dsimp only); done)
    | intro _ _ _ | intro _ _ | intro _ | dsimp only | (rw [id_eq]) | with_reducible refine Keeps.put ?_ (fun x => x) (fun x => x)

theorem actOp_keeps {s0 : State} {s : State} {t : Nat} {found : Findings} (kp : Keeps s0 s) :
    Keeps s0 (actOp s t found) := by
  unfold actOp
  try dsimp only
  repeat' first
    | with_reducible assumption | with_reducible apply actBody_keeps | with_reducible apply perform_keeps | split
    | (intro _ hx; (first | show CtxOk _ | show TileOk _ | show Memory.wf _ = true); (repeat' first | exact hx | exact CtxOk.noSave rfl | split | dsimp only); done)
    | intro _ _ _ | intro _ _ | intro _ | dsimp only | (rw [id_eq]) | with_reducible refine Keeps.put ?_ (fun x => x) (fun x => x)

theorem execAct_keeps {s0 : State} {t : TileIx} {found : Findings} {s : State} (kp : Keeps s0 s) :
    KeepsN s0 (execAct t found s) := by
  unfold execAct
  try dsimp only
  repeat' first
    | with_reducible assumption | with_reducible apply actOp_keeps | with_reducible apply KeepsN.next | with_reducible apply KeepsN.fault | split
    | (intro _ hx; (first | show CtxOk _ | show TileOk _ | show Memory.wf _ = true); (repeat' first | exact hx | exact CtxOk.noSave rfl | split | dsimp only); done)
    | intro _ _ _ | intro _ _ | intro _ | dsimp only | (rw [id_eq]) | with_reducible refine Keeps.put ?_ (fun x => x) (fun x => x)

theorem requantBody_keeps {s0 : State} {s : State} {t : Nat} {r : Running} (kp : Keeps s0 s) :
    Keeps s0 (requantBody s t r) := by
  unfold requantBody
  try dsimp only
  repeat' first
    | with_reducible assumption | with_reducible apply putTensor_keeps | split
    | (intro _ hx; (first | show CtxOk _ | show TileOk _ | show Memory.wf _ = true); (repeat' first | exact hx | exact CtxOk.noSave rfl | split | dsimp only); done)
    | intro _ _ _ | intro _ _ | intro _ | dsimp only | (rw [id_eq]) | with_reducible refine Keeps.put ?_ (fun x => x) (fun x => x)

theorem requantOp_keeps {s0 : State} {s : State} {t : Nat} {found : Findings} (kp : Keeps s0 s) :
    Keeps s0 (requantOp s t found) := by
  unfold requantOp
  try dsimp only
  repeat' first
    | with_reducible assumption | with_reducible apply perform_keeps | with_reducible apply requantBody_keeps | split
    | (intro _ hx; (first | show CtxOk _ | show TileOk _ | show Memory.wf _ = true); (repeat' first | exact hx | exact CtxOk.noSave rfl | split | dsimp only); done)
    | intro _ _ _ | intro _ _ | intro _ | dsimp only | (rw [id_eq]) | with_reducible refine Keeps.put ?_ (fun x => x) (fun x => x)

theorem execRequant_keeps {s0 : State} {t : TileIx} {found : Findings} {s : State} (kp : Keeps s0 s) :
    KeepsN s0 (execRequant t found s) := by
  unfold execRequant
  try dsimp only
  repeat' first
    | with_reducible assumption | with_reducible apply requantOp_keeps | with_reducible apply KeepsN.next | with_reducible apply KeepsN.fault
    | split
    | (intro _ hx; (first | show CtxOk _ | show TileOk _ | show Memory.wf _ = true); (repeat' first | exact hx | exact CtxOk.noSave rfl | split | dsimp only); done)
    | intro _ _ _ | intro _ _ | intro _ | dsimp only | (rw [id_eq]) | with_reducible refine Keeps.put ?_ (fun x => x) (fun x => x)

theorem setMask_keeps {s0 : State} {s : State} {t : Nat} {m : Nat} {w : Word} (kp : Keeps s0 s) :
    Keeps s0 (setMask s t m w) := by
  unfold setMask
  try dsimp only
  repeat' first
    | with_reducible assumption | with_reducible apply State.modTile_keeps | split | exact fun _ (hx : TileOk _) => hx
    | exact fun _ (hx : TileOk _) => ⟨Memory.write_wf _ _ _ hx.1, hx.2⟩ | exact fun _ (hx : TileOk _) => ⟨writeRanges_wf _ _ _ hx.1, hx.2⟩
    | exact fun _ (hx : TileOk _) => ⟨writeTensor_wf _ _ _ _ hx.1, hx.2⟩
    | (intro _ hx; (first | show CtxOk _ | show TileOk _ | show Memory.wf _ = true); (repeat' first | exact hx | exact CtxOk.noSave rfl | split | dsimp only); done)
    | intro _ _ _ | intro _ _ | intro _ | dsimp only | (rw [id_eq]) | with_reducible refine Keeps.put ?_ (fun x => x) (fun x => x)

theorem cmpMask_keeps {s0 : State} {s : State} {t : Nat} {r : Running} {a : List Block} {b : List Block} (kp : Keeps s0 s) :
    Keeps s0 (cmpMask s t r a b) := by
  unfold cmpMask
  try dsimp only
  repeat' first
    | with_reducible assumption | with_reducible apply setMask_keeps | split
    | (intro _ hx; (first | show CtxOk _ | show TileOk _ | show Memory.wf _ = true); (repeat' first | exact hx | exact CtxOk.noSave rfl | split | dsimp only); done)
    | intro _ _ _ | intro _ _ | intro _ | dsimp only | (rw [id_eq]) | with_reducible refine Keeps.put ?_ (fun x => x) (fun x => x)

theorem vecBody_keeps {s0 : State} {s : State} {t : Nat} {r : Running} (kp : Keeps s0 s) :
    Keeps s0 (vecBody s t r) := by
  unfold vecBody
  try dsimp only
  repeat' first
    | with_reducible assumption | with_reducible apply State.modTile_keeps | with_reducible apply cmpMask_keeps
    | with_reducible apply putTensor_keeps | with_reducible apply setMask_keeps | split | exact fun _ (hx : TileOk _) => hx
    | exact fun _ (hx : TileOk _) => ⟨Memory.write_wf _ _ _ hx.1, hx.2⟩ | exact fun _ (hx : TileOk _) => ⟨writeRanges_wf _ _ _ hx.1, hx.2⟩
    | exact fun _ (hx : TileOk _) => ⟨writeTensor_wf _ _ _ _ hx.1, hx.2⟩
    | (intro _ hx; (first | show CtxOk _ | show TileOk _ | show Memory.wf _ = true); (repeat' first | exact hx | exact CtxOk.noSave rfl | exact Memory.write_wf _ _ _ hx | exact Memory.clear_wf _ _ _ hx | exact Memory.copy_wf _ _ _ _ _ hx | exact ⟨Memory.write_wf _ _ _ hx.1, hx.2⟩ | split | dsimp only); done)
    | intro _ _ _ | intro _ _ | intro _ | dsimp only | (rw [id_eq]) | with_reducible refine Keeps.put ?_ (fun x => x) (fun x => x)

theorem vecOp_keeps {s0 : State} {s : State} {t : Nat} {found : Findings} (kp : Keeps s0 s) :
    Keeps s0 (vecOp s t found) := by
  unfold vecOp
  try dsimp only
  repeat' first
    | with_reducible assumption | with_reducible apply perform_keeps | with_reducible apply vecBody_keeps | split
    | (intro _ hx; (first | show CtxOk _ | show TileOk _ | show Memory.wf _ = true); (repeat' first | exact hx | exact CtxOk.noSave rfl | split | dsimp only); done)
    | intro _ _ _ | intro _ _ | intro _ | dsimp only | (rw [id_eq]) | with_reducible refine Keeps.put ?_ (fun x => x) (fun x => x)

theorem execVec_keeps {s0 : State} {t : TileIx} {found : Findings} {s : State} (kp : Keeps s0 s) :
    KeepsN s0 (execVec t found s) := by
  unfold execVec
  try dsimp only
  repeat' first
    | with_reducible assumption | with_reducible apply vecOp_keeps | with_reducible apply KeepsN.next | with_reducible apply KeepsN.fault | split
    | (intro _ hx; (first | show CtxOk _ | show TileOk _ | show Memory.wf _ = true); (repeat' first | exact hx | exact CtxOk.noSave rfl | split | dsimp only); done)
    | intro _ _ _ | intro _ _ | intro _ | dsimp only | (rw [id_eq]) | with_reducible refine Keeps.put ?_ (fun x => x) (fun x => x)

theorem tailorBody_keeps {s0 : State} {s : State} {t : Nat} {r : Running} (kp : Keeps s0 s) :
    Keeps s0 (tailorBody s t r) := by
  unfold tailorBody
  try dsimp only
  repeat' first
    | with_reducible assumption | with_reducible apply State.modTile_keeps | with_reducible apply newStationary_keeps
    | with_reducible apply putTensor_keeps | split | exact fun _ (hx : TileOk _) => hx
    | exact fun _ (hx : TileOk _) => ⟨Memory.write_wf _ _ _ hx.1, hx.2⟩ | exact fun _ (hx : TileOk _) => ⟨writeRanges_wf _ _ _ hx.1, hx.2⟩
    | exact fun _ (hx : TileOk _) => ⟨writeTensor_wf _ _ _ _ hx.1, hx.2⟩
    | (intro _ hx; (first | show CtxOk _ | show TileOk _ | show Memory.wf _ = true); (repeat' first | exact hx | exact CtxOk.noSave rfl | split | dsimp only); done)
    | intro _ _ _ | intro _ _ | intro _ | dsimp only | (rw [id_eq]) | with_reducible refine Keeps.put ?_ (fun x => x) (fun x => x)

theorem tailorApply_keeps {s0 : State} {s : State} {t : Nat} {found : Findings} (kp : Keeps s0 s) :
    Keeps s0 (tailorApply s t found) := by
  unfold tailorApply
  try dsimp only
  repeat' first
    | with_reducible assumption | with_reducible apply perform_keeps | with_reducible apply tailorBody_keeps | split
    | (intro _ hx; (first | show CtxOk _ | show TileOk _ | show Memory.wf _ = true); (repeat' first | exact hx | exact CtxOk.noSave rfl | split | dsimp only); done)
    | intro _ _ _ | intro _ _ | intro _ | dsimp only | (rw [id_eq]) | with_reducible refine Keeps.put ?_ (fun x => x) (fun x => x)

theorem execTailorApply_keeps {s0 : State} {t : TileIx} {found : Findings} {s : State} (kp : Keeps s0 s) :
    KeepsN s0 (execTailorApply t found s) := by
  unfold execTailorApply
  try dsimp only
  repeat' first
    | with_reducible assumption | with_reducible apply tailorApply_keeps | with_reducible apply KeepsN.next | with_reducible apply KeepsN.fault
    | split
    | (intro _ hx; (first | show CtxOk _ | show TileOk _ | show Memory.wf _ = true); (repeat' first | exact hx | exact CtxOk.noSave rfl | split | dsimp only); done)
    | intro _ _ _ | intro _ _ | intro _ | dsimp only | (rw [id_eq]) | with_reducible refine Keeps.put ?_ (fun x => x) (fun x => x)

end Sys2Proof.Machine
end

