-- ==== Sys2Proof/Laws/KeepsEngines.lean ====
section
/-! SUPPORT. What each operation of Machine/Engines.lean keeps. -/

namespace Sys2Proof.Machine

open Sys2Proof.Safety

set_option linter.all false
set_option Elab.async false

theorem engineDone_keeps {s0 : State} {s : State} {t : Nat} {key : Nat} (kp : Keeps s0 s) :
    Keeps s0 (engineDone s t key) := by
  unfold engineDone
  try dsimp only
  repeat' first
    | with_reducible assumption | with_reducible apply State.modTile_keeps | split | exact fun _ (hx : TileOk _) => hx
    | exact fun _ (hx : TileOk _) => ⟨Memory.write_wf _ _ _ hx.1, hx.2⟩ | exact fun _ (hx : TileOk _) => ⟨writeRanges_wf _ _ _ hx.1, hx.2⟩
    | exact fun _ (hx : TileOk _) => ⟨writeTensor_wf _ _ _ _ hx.1, hx.2⟩
    | (intro _ hx; (first | show CtxOk _ | show TileOk _ | show Memory.wf _ = true); (repeat' first | exact hx | exact CtxOk.noSave rfl | split | dsimp only); done)
    | intro _ _ _ | intro _ _ | intro _ | dsimp only | (rw [id_eq]) | with_reducible refine Keeps.put ?_ (fun x => x) (fun x => x)

theorem vaultRequest_keeps {s0 : State} {s : State} {t : Nat} {opc : Nat} (kp : Keeps s0 s) :
    Keeps s0 (vaultRequest s t opc) := by
  unfold vaultRequest
  try dsimp only
  repeat' first
    | with_reducible assumption | with_reducible apply State.modVault_keeps | with_reducible apply handOff_keeps | split
    | exact fun _ hx => (show Memory.wf _ = true from hx) | exact fun _ hx => Memory.write_wf _ _ _ hx | exact fun _ hx => Memory.clear_wf _ _ _ hx
    | exact fun _ hx => Memory.copy_wf _ _ _ _ _ hx
    | (intro _ hx; (first | show CtxOk _ | show TileOk _ | show Memory.wf _ = true); (repeat' first | exact hx | exact CtxOk.noSave rfl | split | dsimp only); done)
    | intro _ _ _ | intro _ _ | intro _ | dsimp only | (rw [id_eq]) | with_reducible refine Keeps.put ?_ (fun x => x) (fun x => x)

theorem execVaultGemv_keeps {s0 : State} {t : TileIx} {s : State} (kp : Keeps s0 s) :
    KeepsN s0 (execVaultGemv t s) := by
  unfold execVaultGemv
  try dsimp only
  repeat' first
    | with_reducible assumption | with_reducible apply vaultRequest_keeps | with_reducible apply KeepsN.next | with_reducible apply KeepsN.fault
    | split
    | (intro _ hx; (first | show CtxOk _ | show TileOk _ | show Memory.wf _ = true); (repeat' first | exact hx | exact CtxOk.noSave rfl | split | dsimp only); done)
    | intro _ _ _ | intro _ _ | intro _ | dsimp only | (rw [id_eq]) | with_reducible refine Keeps.put ?_ (fun x => x) (fun x => x)

theorem execVaultStream_keeps {s0 : State} {t : TileIx} {s : State} (kp : Keeps s0 s) :
    KeepsN s0 (execVaultStream t s) := by
  unfold execVaultStream
  try dsimp only
  repeat' first
    | with_reducible assumption | with_reducible apply vaultRequest_keeps | with_reducible apply KeepsN.next | with_reducible apply KeepsN.fault
    | split
    | (intro _ hx; (first | show CtxOk _ | show TileOk _ | show Memory.wf _ = true); (repeat' first | exact hx | exact CtxOk.noSave rfl | split | dsimp only); done)
    | intro _ _ _ | intro _ _ | intro _ | dsimp only | (rw [id_eq]) | with_reducible refine Keeps.put ?_ (fun x => x) (fun x => x)

theorem vaultCe_keeps {s0 : State} {s : State} {k : Option Nat} {v : Nat} {off : Nat} (kp : Keeps s0 s) :
    Keeps s0 (vaultCe s k v off) := by
  unfold vaultCe
  try dsimp only
  repeat' first
    | with_reducible assumption | with_reducible apply State.addFld_keeps | with_reducible apply State.modVault_keeps
    | with_reducible apply notice_keeps | with_reducible apply raise_keeps | split | exact fun _ hx => (show Memory.wf _ = true from hx)
    | exact fun _ hx => Memory.write_wf _ _ _ hx | exact fun _ hx => Memory.clear_wf _ _ _ hx | exact fun _ hx => Memory.copy_wf _ _ _ _ _ hx
    | (intro _ hx; (first | show CtxOk _ | show TileOk _ | show Memory.wf _ = true); (repeat' first | exact hx | exact CtxOk.noSave rfl | split | dsimp only); done)
    | intro _ _ _ | intro _ _ | intro _ | dsimp only | (rw [id_eq]) | with_reducible refine Keeps.put ?_ (fun x => x) (fun x => x)

theorem vaultUe_keeps {s0 : State} {s : State} {k : Nat} {v : Nat} {off : Nat} (kp : Keeps s0 s) :
    Keeps s0 (vaultUe s k v off) := by
  unfold vaultUe
  try dsimp only
  repeat' first
    | with_reducible assumption | with_reducible apply State.modRegion_keeps | with_reducible apply State.modVault_keeps
    | with_reducible apply State.setRg_keeps | with_reducible apply against_keeps | split | exact fun _ hx => (show Memory.wf _ = true from hx)
    | exact fun _ hx => Memory.write_wf _ _ _ hx | exact fun _ hx => Memory.clear_wf _ _ _ hx | exact fun _ hx => Memory.copy_wf _ _ _ _ _ hx
    | (intro _ hx; (first | show CtxOk _ | show TileOk _ | show Memory.wf _ = true); (repeat' first | exact hx | exact CtxOk.noSave rfl | split | dsimp only); done)
    | intro _ _ _ | intro _ _ | intro _ | dsimp only | (rw [id_eq]) | with_reducible refine Keeps.put ?_ (fun x => x) (fun x => x)

theorem decodeVault_keeps {s0 s : State} {k v : Nat} {mem : Memory} {l : List (Nat × Nat)} (h : Keeps s0 s) :
    Keeps s0 (decodeVault s k v mem l).2 := by
  induction l generalizing s mem with
  | nil => exact h
  | cons e r ih =>
    obtain ⟨off, n⟩ := e
    unfold decodeVault
    rcases hf : s.fate true n with ⟨fate, s1⟩
    have h1 : Keeps s0 s1 := State.fate_keeps' (out := (_, _)) hf h
    cases fate with
    | clean => exact ih h1
    | corrected => exact ih (vaultCe_keeps h1)
    | open_ =>
      dsimp only
      have h2 := State.drawBytes_keeps (s0 := s0) 32 h1
      generalize s1.drawBytes 32 = p at h2 ⊢
      obtain ⟨bs, s2⟩ := p
      exact ih h2
    | lost => exact vaultUe_keeps h1

theorem decodeVault_keeps' {s0 s : State} {k v : Nat} {mem : Memory} {l : List (Nat × Nat)} {out : _} (eq : decodeVault s k v mem l = out)
    (h : Keeps s0 s) : Keeps s0 out.2 := eq ▸ decodeVault_keeps h

theorem readVault_keeps {s0 s : State} {k v : Nat} {found : Findings} {rs : List (Nat × Nat)} (h : Keeps s0 s) :
    Keeps s0 (readVault s k v found rs).2 := by
  unfold readVault
  extract_lets +onlyGivenNames words good hits
  have key : ∀ p : Option Memory × State, Keeps s0 p.2 → Keeps s0 (match p with
      | (none, s) => (none, s)
      | (some m, s) => if good.length < words.length then (none, against s .vaultRange (srcVlt v) k) else (some m, s)).2 := by
    rintro ⟨o, s1⟩ h1
    cases o with
    | none => exact h1
    | some m =>
      dsimp only
      split
      · exact against_keeps h1
      · exact h1
  refine key _ ?_
  cases s.badWord v good with
  | some w => exact vaultUe_keeps h
  | none => exact decodeVault_keeps h

theorem readVault_keeps' {s0 s : State} {k v : Nat} {found : Findings} {rs : List (Nat × Nat)} {out : _} (eq : readVault s k v found rs = out)
    (h : Keeps s0 s) : Keeps s0 out.2 := eq ▸ readVault_keeps h

theorem vaultWork_keeps {s0 s : State} {k v t : Nat} {r : Running} {found : Findings} (h : Keeps s0 s) :
    Keeps s0 (vaultWork s k v t r found) := by
  unfold vaultWork
  extract_lets +onlyGivenNames x dw base isGemv
  generalize (if isGemv = true then x.rangesOf r 58 else []) = rs
  have h1 := readSram_keeps (t := t) (found := found) (rs := rs) h
  generalize readSram s t found rs = p at h1 ⊢
  obtain ⟨dead, s1⟩ := p
  cases dead with
  | true => exact engineDone_keeps h1
  | false =>
    dsimp only
    have h2 : Keeps s0 (if 2 ^ 39 ≤ r.dataOf 48 then (none, against s1 .vaultRange (srcVlt v) k) else readVault s1 k v found (dw.ranges base)).2 := by
      split
      · exact against_keeps h1
      · exact readVault_keeps h1
    generalize (if 2 ^ 39 ≤ r.dataOf 48 then (none, against s1 .vaultRange (srcVlt v) k) else readVault s1 k v found (dw.ranges base)) = q at h2 ⊢
    obtain ⟨o, s2⟩ := q
    cases o with
    | none => exact engineDone_keeps h2
    | some w =>
      refine engineDone_keeps ?_
      split
      · exact putTensor_keeps h2
      · exact State.modTile_keeps h2 fun _ hx => ⟨writeRanges_wf _ _ _ hx.1, hx.2⟩

theorem vaultStart_keeps {s0 : State} {s : State} {v : Nat} {k : Nat} {found : Findings} (kp : Keeps s0 s) :
    Keeps s0 (vaultStart s v k found) := by
  unfold vaultStart
  try dsimp only
  repeat' first
    | with_reducible assumption | with_reducible apply State.modVault_keeps | with_reducible apply meshWait_keeps
    | with_reducible apply vaultWork_keeps | split | exact fun _ hx => (show Memory.wf _ = true from hx)
    | exact fun _ hx => Memory.write_wf _ _ _ hx | exact fun _ hx => Memory.clear_wf _ _ _ hx | exact fun _ hx => Memory.copy_wf _ _ _ _ _ hx
    | (intro _ hx; (first | show CtxOk _ | show TileOk _ | show Memory.wf _ = true); (repeat' first | exact hx | exact CtxOk.noSave rfl | split | dsimp only); done)
    | intro _ _ _ | intro _ _ | intro _ | dsimp only | (rw [id_eq]) | with_reducible refine Keeps.put ?_ (fun x => x) (fun x => x)

theorem execVaultRequestStart_keeps {s0 : State} {v : VaultIx} {k : CtxSlot} {found : Findings} {s : State} (kp : Keeps s0 s) :
    KeepsN s0 (execVaultRequestStart v k found s) := by
  unfold execVaultRequestStart
  try dsimp only
  repeat' first
    | with_reducible assumption | with_reducible apply vaultStart_keeps | with_reducible apply KeepsN.next | with_reducible apply KeepsN.fault
    | split
    | (intro _ hx; (first | show CtxOk _ | show TileOk _ | show Memory.wf _ = true); (repeat' first | exact hx | exact CtxOk.noSave rfl | split | dsimp only); done)
    | intro _ _ _ | intro _ _ | intro _ | dsimp only | (rw [id_eq]) | with_reducible refine Keeps.put ?_ (fun x => x) (fun x => x)

theorem gatherMiss_keeps {s0 : State} {s : State} {k : Nat} {t : Nat} {step : Nat} {id : Nat} {cell : Nat} (kp : Keeps s0 s) :
    Keeps s0 (gatherMiss s k t step id cell) := by
  unfold gatherMiss
  try dsimp only
  repeat' first
    | with_reducible assumption | with_reducible apply State.modServe_keeps | with_reducible apply State.modTile_keeps
    | with_reducible apply against_keeps | split | exact fun _ (hx : TileOk _) => hx
    | exact fun _ (hx : TileOk _) => ⟨Memory.write_wf _ _ _ hx.1, hx.2⟩ | exact fun _ (hx : TileOk _) => ⟨writeRanges_wf _ _ _ hx.1, hx.2⟩
    | exact fun _ (hx : TileOk _) => ⟨writeTensor_wf _ _ _ _ hx.1, hx.2⟩
    | (intro _ hx; (first | show CtxOk _ | show TileOk _ | show Memory.wf _ = true); (repeat' first | exact hx | exact CtxOk.noSave rfl | exact Memory.write_wf _ _ _ hx | exact Memory.clear_wf _ _ _ hx | exact Memory.copy_wf _ _ _ _ _ hx | exact ⟨Memory.write_wf _ _ _ hx.1, hx.2⟩ | split | dsimp only); done)
    | intro _ _ _ | intro _ _ | intro _ | dsimp only | (rw [id_eq]) | with_reducible refine Keeps.put ?_ (fun x => x) (fun x => x)

theorem gatherRow_keeps {s0 s : State} {k t : Nat} {r : Running} {found : Findings} {i : Nat} (h : Keeps s0 s) :
    Keeps s0 (gatherRow s k t r found i).2 := by
  unfold gatherRow
  extract_lets +onlyGivenNames x cell id_ stride
  split
  · exact h
  split
  · exact h
  · split
    · exact gatherMiss_keeps h
    · rename_i set _
      extract_lets +onlyGivenNames at_
      split
      · exact memDenied_keeps h
      · have h1 := readPages_keeps (k := k) (found := found) (who := .plan) (x4 := pieces at_ 16) h
        generalize readPages s k found .plan (pieces at_ 16) = p at h1 ⊢
        obtain ⟨b, s1⟩ := p
        cases b with
        | true => exact h1
        | false =>
          dsimp only
          split
          · exact gatherMiss_keeps h1
          · split
            · exact memDenied_keeps h1
            · generalize hs : set.base + leAt (s1.ctxRead k at_ 16) 0 8 = src
              generalize hn : 17 * (leAt (s1.ctxRead k at_ 16) 8 4 + leAt (s1.ctxRead k at_ 16) 12 4) = n
              have h2 := readPages_keeps (k := k) (found := found) (who := .plan) (x4 := pieces src n) h1
              generalize readPages s1 k found .plan (pieces src n) = p at h2 ⊢
              obtain ⟨b, s2⟩ := p
              cases b with
              | true => exact h2
              | false =>
                dsimp only
                refine State.modTile_keeps (State.countAccs_keeps h2) ?_
                intro x hx
                exact ⟨Memory.write_wf _ _ _ hx.1, hx.2⟩

theorem gatherRow_keeps' {s0 s : State} {k t : Nat} {r : Running} {found : Findings} {i : Nat} {out : _} (eq : gatherRow s k t r found i = out)
    (h : Keeps s0 s) : Keeps s0 out.2 := eq ▸ gatherRow_keeps h

theorem gatherRows_keeps {s0 : State} {s : State} {k : Nat} {t : Nat} {r : Running} {found : Findings} {x5 : List Nat} (kp : Keeps s0 s) :
    Keeps s0 (gatherRows s k t r found x5).2 := by
  revert kp
  fun_induction gatherRows s k t r found x5 <;> intro kp
  all_goals
    repeat' first
      | with_reducible assumption | with_reducible apply gatherRow_keeps
      | refine gatherRow_keeps' (out := (_, _)) (by with_reducible assumption) ?_ | with_reducible apply_assumption -exfalso -symm | split
      | (intro _ hx; (first | show CtxOk _ | show TileOk _ | show Memory.wf _ = true); (repeat' first | exact hx | exact CtxOk.noSave rfl | split | dsimp only); done)
      | intro _ _ _ | intro _ _ | intro _ | dsimp only | (rw [id_eq]) | with_reducible refine Keeps.put ?_ (fun x => x) (fun x => x)

theorem gatherRows_keeps' {s0 : State} {s : State} {k : Nat} {t : Nat} {r : Running} {found : Findings} {x5 : List Nat} {out : _} (eq : gatherRows s k t r found x5 = out) (kp : Keeps s0 s) :
    Keeps s0 out.2 := eq ▸ gatherRows_keeps kp

theorem tailorGather_keeps {s0 : State} {s : State} {t : Nat} {found : Findings} (kp : Keeps s0 s) :
    Keeps s0 (tailorGather s t found) := by
  unfold tailorGather
  try dsimp only
  repeat' first
    | with_reducible assumption | with_reducible apply engineDone_keeps | with_reducible apply gatherRows_keeps
    | refine gatherRows_keeps' (out := (_, _)) (by with_reducible assumption) ?_ | with_reducible apply handOff_keeps
    | with_reducible apply markDone_keeps | with_reducible apply meshWait_keeps | with_reducible apply readSram_keeps
    | refine readSram_keeps' (out := (_, _)) (by with_reducible assumption) ?_ | with_reducible apply replayTailors_keeps | split
    | (intro _ hx; (first | show CtxOk _ | show TileOk _ | show Memory.wf _ = true); (repeat' first | exact hx | exact CtxOk.noSave rfl | split | dsimp only); done)
    | intro _ _ _ | intro _ _ | intro _ | dsimp only | (rw [id_eq]) | with_reducible refine Keeps.put ?_ (fun x => x) (fun x => x)

theorem execTailorGather_keeps {s0 : State} {t : TileIx} {found : Findings} {s : State} (kp : Keeps s0 s) :
    KeepsN s0 (execTailorGather t found s) := by
  unfold execTailorGather
  try dsimp only
  repeat' first
    | with_reducible assumption | with_reducible apply tailorGather_keeps | with_reducible apply KeepsN.next | with_reducible apply KeepsN.fault
    | split
    | (intro _ hx; (first | show CtxOk _ | show TileOk _ | show Memory.wf _ = true); (repeat' first | exact hx | exact CtxOk.noSave rfl | split | dsimp only); done)
    | intro _ _ _ | intro _ _ | intro _ | dsimp only | (rw [id_eq]) | with_reducible refine Keeps.put ?_ (fun x => x) (fun x => x)

theorem sampleBody_keeps {s0 : State} {s : State} {k : Nat} {t : Nat} {r : Running} (kp : Keeps s0 s) :
    Keeps s0 (sampleBody s k t r) := by
  unfold sampleBody
  try dsimp only
  repeat' first
    | with_reducible assumption | with_reducible apply State.modServe_keeps | with_reducible apply satBlocks_keeps | split
    | (intro _ hx; (first | show CtxOk _ | show TileOk _ | show Memory.wf _ = true); (repeat' first | exact hx | exact CtxOk.noSave rfl | split | dsimp only); done)
    | intro _ _ _ | intro _ _ | intro _ | dsimp only | (rw [id_eq]) | with_reducible refine Keeps.put ?_ (fun x => x) (fun x => x)

theorem sampleOp_keeps {s0 : State} {s : State} {t : Nat} {found : Findings} (kp : Keeps s0 s) :
    Keeps s0 (sampleOp s t found) := by
  unfold sampleOp
  try dsimp only
  repeat' first
    | with_reducible assumption | with_reducible apply perform_keeps | with_reducible apply sampleBody_keeps | split
    | (intro _ hx; (first | show CtxOk _ | show TileOk _ | show Memory.wf _ = true); (repeat' first | exact hx | exact CtxOk.noSave rfl | split | dsimp only); done)
    | intro _ _ _ | intro _ _ | intro _ | dsimp only | (rw [id_eq]) | with_reducible refine Keeps.put ?_ (fun x => x) (fun x => x)

theorem execSample_keeps {s0 : State} {t : TileIx} {found : Findings} {s : State} (kp : Keeps s0 s) :
    KeepsN s0 (execSample t found s) := by
  unfold execSample
  try dsimp only
  repeat' first
    | with_reducible assumption | with_reducible apply sampleOp_keeps | with_reducible apply KeepsN.next | with_reducible apply KeepsN.fault
    | split
    | (intro _ hx; (first | show CtxOk _ | show TileOk _ | show Memory.wf _ = true); (repeat' first | exact hx | exact CtxOk.noSave rfl | split | dsimp only); done)
    | intro _ _ _ | intro _ _ | intro _ | dsimp only | (rw [id_eq]) | with_reducible refine Keeps.put ?_ (fun x => x) (fun x => x)

theorem execSampleCollect_keeps {s0 : State} {t : TileIx} {s : State} (kp : Keeps s0 s) :
    KeepsN s0 (execSampleCollect t s) := by
  unfold execSampleCollect
  try dsimp only
  repeat' first
    | with_reducible assumption | with_reducible apply handOff_keeps | with_reducible apply KeepsN.next | with_reducible apply KeepsN.fault | split
    | (intro _ hx; (first | show CtxOk _ | show TileOk _ | show Memory.wf _ = true); (repeat' first | exact hx | exact CtxOk.noSave rfl | split | dsimp only); done)
    | intro _ _ _ | intro _ _ | intro _ | dsimp only | (rw [id_eq]) | with_reducible refine Keeps.put ?_ (fun x => x) (fun x => x)

theorem draftRow_keeps {s0 : State} {s : State} {k : Nat} {step : Nat} {r : BatchRow} {cs : List Cand} {miss : Bool} (kp : Keeps s0 s) :
    Keeps s0 (draftRow s k step r cs miss).2 := by
  unfold draftRow
  try dsimp only
  repeat' first
    | with_reducible assumption | with_reducible apply State.modServe_keeps | split
    | (intro _ hx; (first | show CtxOk _ | show TileOk _ | show Memory.wf _ = true); (repeat' first | exact hx | exact CtxOk.noSave rfl | split | dsimp only); done)
    | intro _ _ _ | intro _ _ | intro _ | dsimp only | (rw [id_eq]) | with_reducible refine Keeps.put ?_ (fun x => x) (fun x => x)

theorem draftRow_keeps' {s0 : State} {s : State} {k : Nat} {step : Nat} {r : BatchRow} {cs : List Cand} {miss : Bool} {out : _} (eq : draftRow s k step r cs miss = out) (kp : Keeps s0 s) :
    Keeps s0 out.2 := eq ▸ draftRow_keeps kp

theorem verifyReq_keeps {s0 : State} {s : State} {k : Nat} {step : Nat} {handle : Nat} {rows : List (Nat × BatchRow)} {cands : List (List Cand)} {miss : Bool} (kp : Keeps s0 s) :
    Keeps s0 (verifyReq s k step handle rows cands miss).2 := by
  unfold verifyReq
  try dsimp only
  repeat' first
    | with_reducible assumption | with_reducible apply State.modReq_keeps | split
    | (intro _ hx; (first | show CtxOk _ | show TileOk _ | show Memory.wf _ = true); (repeat' first | exact hx | exact CtxOk.noSave rfl | split | dsimp only); done)
    | intro _ _ _ | intro _ _ | intro _ | dsimp only | (rw [id_eq]) | with_reducible refine Keeps.put ?_ (fun x => x) (fun x => x)

theorem verifyReq_keeps' {s0 : State} {s : State} {k : Nat} {step : Nat} {handle : Nat} {rows : List (Nat × BatchRow)} {cands : List (List Cand)} {miss : Bool} {out : _} (eq : verifyReq s k step handle rows cands miss = out) (kp : Keeps s0 s) :
    Keeps s0 out.2 := eq ▸ verifyReq_keeps kp

theorem collectOut_keeps {s0 s : State} {k step : Nat} {rows : List BatchRow} {cands : List (List Cand)} (h : Keeps s0 s) :
    Keeps s0 (collectOut s k step rows cands).2 := by
  unfold collectOut
  extract_lets +onlyGivenNames missed blank
  have h1 := fold_pair_keeps (s0 := s0) (f := fun (p : List OutRow × State) (e : BatchRow × Nat) => match p, e with
    | (out, s), (r, i) =>
      if r.role = 2 then
        let (o, s) := draftRow s k step r (cands.getD i []) (missed s r.handle.toNat)
        (out.set i o, s)
      else (out, s)) (fun p e hp => by
        obtain ⟨out, s1⟩ := p
        obtain ⟨r, i⟩ := e
        dsimp only
        split
        · exact draftRow_keeps hp
        · exact hp) rows.zipIdx (p := (blank, s)) h
  generalize rows.zipIdx.foldl _ (blank, s) = p at h1 ⊢
  obtain ⟨out, s1⟩ := p
  refine fold_pair_keeps (fun p e hp => ?_) _ h1
  obtain ⟨out, s2⟩ := p
  exact verifyReq_keeps hp

theorem collect_keeps {s0 : State} {s : State} {k : Nat} {t : Nat} {r : Running} (kp : Keeps s0 s) :
    Keeps s0 (collect s k t r) := by
  unfold collect
  try dsimp only
  repeat' first
    | with_reducible assumption | with_reducible apply State.modServe_keeps | with_reducible apply State.modTile_keeps
    | with_reducible apply collectOut_keeps | refine collectOut_keeps' (out := (_, _)) (by with_reducible assumption) ?_
    | with_reducible apply engineDone_keeps | split | exact fun _ (hx : TileOk _) => hx
    | exact fun _ (hx : TileOk _) => ⟨Memory.write_wf _ _ _ hx.1, hx.2⟩ | exact fun _ (hx : TileOk _) => ⟨writeRanges_wf _ _ _ hx.1, hx.2⟩
    | exact fun _ (hx : TileOk _) => ⟨writeTensor_wf _ _ _ _ hx.1, hx.2⟩
    | (intro _ hx; (first | show CtxOk _ | show TileOk _ | show Memory.wf _ = true); (repeat' first | exact hx | exact CtxOk.noSave rfl | exact ⟨writeRanges_wf _ _ _ hx.1, hx.2⟩ | split | dsimp only); done)
    | intro _ _ _ | intro _ _ | intro _ | dsimp only | (rw [id_eq]) | with_reducible refine Keeps.put ?_ (fun x => x) (fun x => x)

theorem collectComplete_keeps {s0 : State} {s : State} {t : Nat} (kp : Keeps s0 s) :
    Keeps s0 (collectComplete s t) := by
  unfold collectComplete
  try dsimp only
  repeat' first
    | with_reducible assumption | with_reducible apply collect_keeps | split
    | (intro _ hx; (first | show CtxOk _ | show TileOk _ | show Memory.wf _ = true); (repeat' first | exact hx | exact CtxOk.noSave rfl | split | dsimp only); done)
    | intro _ _ _ | intro _ _ | intro _ | dsimp only | (rw [id_eq]) | with_reducible refine Keeps.put ?_ (fun x => x) (fun x => x)

theorem execCollectComplete_keeps {s0 : State} {t : TileIx} {s : State} (kp : Keeps s0 s) :
    KeepsN s0 (execCollectComplete t s) := by
  unfold execCollectComplete
  try dsimp only
  repeat' first
    | with_reducible assumption | with_reducible apply collectComplete_keeps | with_reducible apply KeepsN.next | with_reducible apply KeepsN.fault
    | split
    | (intro _ hx; (first | show CtxOk _ | show TileOk _ | show Memory.wf _ = true); (repeat' first | exact hx | exact CtxOk.noSave rfl | split | dsimp only); done)
    | intro _ _ _ | intro _ _ | intro _ | dsimp only | (rw [id_eq]) | with_reducible refine Keeps.put ?_ (fun x => x) (fun x => x)

theorem promptTokens_keeps {s0 : State} {s : State} {k : Nat} {found : Findings} {r : BatchRow} (kp : Keeps s0 s) :
    Keeps s0 (promptTokens s k found r).2 := by
  unfold promptTokens
  try dsimp only
  repeat' first
    | with_reducible assumption | with_reducible apply engineRead_keeps
    | refine engineRead_keeps' (out := (_, _)) (by with_reducible assumption) ?_ | split
    | (intro _ hx; (first | show CtxOk _ | show TileOk _ | show Memory.wf _ = true); (repeat' first | exact hx | exact CtxOk.noSave rfl | split | dsimp only); done)
    | intro _ _ _ | intro _ _ | intro _ | dsimp only | (rw [id_eq]) | with_reducible refine Keeps.put ?_ (fun x => x) (fun x => x)

theorem promptTokens_keeps' {s0 : State} {s : State} {k : Nat} {found : Findings} {r : BatchRow} {out : _} (eq : promptTokens s k found r = out) (kp : Keeps s0 s) :
    Keeps s0 out.2 := eq ▸ promptTokens_keeps kp

theorem returnSlot_keeps {s0 : State} {s : State} {k : Nat} {r : BatchRow} (kp : Keeps s0 s) :
    Keeps s0 (returnSlot s k r) := by
  unfold returnSlot
  try dsimp only
  repeat' first
    | with_reducible assumption | with_reducible apply State.handFlag_keeps | split
    | (intro _ hx; (first | show CtxOk _ | show TileOk _ | show Memory.wf _ = true); (repeat' first | exact hx | exact CtxOk.noSave rfl | split | dsimp only); done)
    | intro _ _ _ | intro _ _ | intro _ | dsimp only | (rw [id_eq]) | with_reducible refine Keeps.put ?_ (fun x => x) (fun x => x)

theorem promptLines_keeps {s0 s : State} {k : Nat} {found : Findings} {l : List BatchRow} (h : Keeps s0 s) :
    Keeps s0 (promptLines s k found l).2 := by
  induction l generalizing s with
  | nil => exact h
  | cons r rs ih =>
    unfold promptLines
    have h1 := promptTokens_keeps (k := k) (found := found) (r := r) h
    generalize promptTokens s k found r = p at h1 ⊢
    obtain ⟨o, s1⟩ := p
    cases o with
    | none => exact h1
    | some l =>
      dsimp only
      have h2 := ih h1
      generalize promptLines s1 k found rs = p at h2 ⊢
      obtain ⟨o, s2⟩ := p
      cases o <;> exact h2

theorem promptLines_keeps' {s0 s : State} {k : Nat} {found : Findings} {l : List BatchRow} {out : _} (eq : promptLines s k found l = out)
    (h : Keeps s0 s) : Keeps s0 out.2 := eq ▸ promptLines_keeps h

theorem replayPrompts_keeps {s0 s : State} {k : Nat} {l : List BatchRow} (h : Keeps s0 s) : ∀ p, replayPrompts s k l = some p → Keeps s0 p.2 := by
  induction l generalizing s with
  | nil => intro p hp; cases hp; exact h
  | cons r rs ih =>
    intro p hp
    unfold replayPrompts at hp
    have h1 := State.jrnHead_keeps (k := k) h
    generalize s.jrnHead k = q at h1 hp
    obtain ⟨o, s1⟩ := q
    cases o with
    | wait => cases hp
    | bad => cases hp
    | record type flags step body len =>
      dsimp only at hp
      split at hp
      · rename_i heq
        cases heq
        obtain ⟨a, ha, rfl⟩ := Option.map_eq_some_iff.1 hp
        have h2 := ih (State.jrnAdvance_keeps (k := k) (len := len) h1) a ha
        exact h2
      · cases hp

theorem fetchPrompt_keeps {s0 : State} {s : State} {k : Nat} {step : Nat} {found : Findings} {rows : List BatchRow} (kp : Keeps s0 s) :
    Keeps s0 (fetchPrompt s k step found rows).2 := by
  unfold fetchPrompt
  try dsimp only
  repeat' first
    | with_reducible assumption | with_reducible apply State.each_keeps | with_reducible apply State.jrnPut_keeps
    | with_reducible apply promptLines_keeps | refine promptLines_keeps' (out := (_, _)) (by with_reducible assumption) ?_
    | refine replayPrompts_keeps ?_ _ (by with_reducible assumption) | with_reducible apply returnSlot_keeps | split
    | (intro _ hx; (first | show CtxOk _ | show TileOk _ | show Memory.wf _ = true); (repeat' first | exact hx | exact CtxOk.noSave rfl | split | dsimp only); done)
    | intro _ _ _ | intro _ _ | intro _ | dsimp only | (rw [id_eq]) | with_reducible refine Keeps.put ?_ (fun x => x) (fun x => x)

theorem fetchPrompt_keeps' {s0 : State} {s : State} {k : Nat} {step : Nat} {found : Findings} {rows : List BatchRow} {out : _} (eq : fetchPrompt s k step found rows = out) (kp : Keeps s0 s) :
    Keeps s0 out.2 := eq ▸ fetchPrompt_keeps kp

theorem fetchLines_keeps {s0 : State} {s : State} {k : Nat} {step : Nat} {fieldset : Nat} {found : Findings} {rows : List BatchRow} (kp : Keeps s0 s) :
    Keeps s0 (fetchLines s k step fieldset found rows).2 := by
  unfold fetchLines
  try dsimp only
  repeat' first
    | with_reducible assumption | with_reducible apply fetchPrompt_keeps
    | refine fetchPrompt_keeps' (out := (_, _)) (by with_reducible assumption) ?_ | split
    | (intro _ hx; (first | show CtxOk _ | show TileOk _ | show Memory.wf _ = true); (repeat' first | exact hx | exact CtxOk.noSave rfl | split | dsimp only); done)
    | intro _ _ _ | intro _ _ | intro _ | dsimp only | (rw [id_eq]) | with_reducible refine Keeps.put ?_ (fun x => x) (fun x => x)

theorem fetchLines_keeps' {s0 : State} {s : State} {k : Nat} {step : Nat} {fieldset : Nat} {found : Findings} {rows : List BatchRow} {out : _} (eq : fetchLines s k step fieldset found rows = out) (kp : Keeps s0 s) :
    Keeps s0 out.2 := eq ▸ fetchLines_keeps kp

theorem fetchOp_keeps {s0 s : State} {k t : Nat} {r : Running} {found : Findings} (h : Keeps s0 s) : Keeps s0 (fetchOp s k t r found) := by
  unfold fetchOp
  extract_lets +onlyGivenNames c table rows
  have h1 := fetchLines_keeps (k := k) (step := r.step) (fieldset := r.op.f 58 8) (found := found) (rows := rows) h
  generalize fetchLines s k r.step (r.op.f 58 8) found rows = p at h1 ⊢
  obtain ⟨f, s1⟩ := p
  cases f with
  | lines ls =>
    refine engineDone_keeps (State.modTile_keeps h1 fun _ hx => ⟨Memory.write_wf _ _ _ ?_, hx.2⟩)
    exact fold_wf _ (fun _ _ hm => Memory.write_wf _ _ _ hm) _ _ hx.1
  | _ => exact h1

theorem batchFetch_keeps {s0 : State} {s : State} {t : Nat} {found : Findings} (kp : Keeps s0 s) :
    Keeps s0 (batchFetch s t found) := by
  unfold batchFetch
  try dsimp only
  repeat' first
    | with_reducible assumption | with_reducible apply fetchOp_keeps | with_reducible apply handOff_keeps | with_reducible apply meshWait_keeps
    | split
    | (intro _ hx; (first | show CtxOk _ | show TileOk _ | show Memory.wf _ = true); (repeat' first | exact hx | exact CtxOk.noSave rfl | split | dsimp only); done)
    | intro _ _ _ | intro _ _ | intro _ | dsimp only | (rw [id_eq]) | with_reducible refine Keeps.put ?_ (fun x => x) (fun x => x)

theorem execBatchFetch_keeps {s0 : State} {t : TileIx} {found : Findings} {s : State} (kp : Keeps s0 s) :
    KeepsN s0 (execBatchFetch t found s) := by
  unfold execBatchFetch
  try dsimp only
  repeat' first
    | with_reducible assumption | with_reducible apply batchFetch_keeps | with_reducible apply KeepsN.next | with_reducible apply KeepsN.fault
    | split
    | (intro _ hx; (first | show CtxOk _ | show TileOk _ | show Memory.wf _ = true); (repeat' first | exact hx | exact CtxOk.noSave rfl | split | dsimp only); done)
    | intro _ _ _ | intro _ _ | intro _ | dsimp only | (rw [id_eq]) | with_reducible refine Keeps.put ?_ (fun x => x) (fun x => x)

end Sys2Proof.Machine
end

