-- ==== Sys2Proof/Laws/KeepsInstall.lean ====
section
/-! SUPPORT. What each operation of Machine/Install.lean keeps. -/

namespace Sys2Proof.Machine

open Sys2Proof.Safety

set_option linter.all false
set_option Elab.async false

theorem State.modIns_keeps {s0 : State} {s : State} {f : Install → Install} (kp : Keeps s0 s) :
    Keeps s0 (State.modIns s f) := by
  unfold State.modIns
  try dsimp only
  repeat' first
    | with_reducible assumption | with_reducible apply hf | split
    | (intro _ hx; (first | show CtxOk _ | show TileOk _ | show Memory.wf _ = true); (repeat' first | exact hx | exact CtxOk.noSave rfl | split | dsimp only); done)
    | intro _ _ _ | intro _ _ | intro _ | dsimp only | (rw [id_eq]) | with_reducible refine Keeps.put ?_ (fun x => x) (fun x => x)

theorem State.insReason_keeps {s0 : State} {s : State} {r : Nat} (kp : Keeps s0 s) :
    Keeps s0 (State.insReason s r) := by
  unfold State.insReason
  try dsimp only
  repeat' first
    | with_reducible assumption | with_reducible apply State.setFld_keeps | split
    | (intro _ hx; (first | show CtxOk _ | show TileOk _ | show Memory.wf _ = true); (repeat' first | exact hx | exact CtxOk.noSave rfl | split | dsimp only); done)
    | intro _ _ _ | intro _ _ | intro _ | dsimp only | (rw [id_eq]) | with_reducible refine Keeps.put ?_ (fun x => x) (fun x => x)

theorem sendChunk_keeps {s0 : State} {s : State} {l : Nat} {dest : Nat} {raw : List Byte} (kp : Keeps s0 s) :
    Keeps s0 (sendChunk s l dest raw) := by
  unfold sendChunk
  try dsimp only
  repeat' first
    | with_reducible assumption | with_reducible apply State.addFld_keeps | with_reducible apply State.queueOn_keeps
    | with_reducible apply State.sample_keeps | with_reducible apply State.takeSeq_keeps
    | refine State.takeSeq_keeps' (out := (_, _)) (by with_reducible assumption) ?_ | split
    | (intro _ hx; (first | show CtxOk _ | show TileOk _ | show Memory.wf _ = true); (repeat' first | exact hx | exact CtxOk.noSave rfl | split | dsimp only); done)
    | intro _ _ _ | intro _ _ | intro _ | dsimp only | (rw [id_eq]) | with_reducible refine Keeps.put ?_ (fun x => x) (fun x => x)

theorem forwardOne_keeps {s0 : State} {s : State} {chain : List Nat} {src : Option Nat} {raw : List Byte} (kp : Keeps s0 s) :
    Keeps s0 (forwardOne s chain src raw) := by
  unfold forwardOne
  try dsimp only
  repeat' first
    | with_reducible assumption | with_reducible apply State.insReason_keeps | with_reducible apply State.modIns_keeps
    | with_reducible apply sendChunk_keeps | split
    | (intro _ hx; (first | show CtxOk _ | show TileOk _ | show Memory.wf _ = true); (repeat' first | exact hx | exact CtxOk.noSave rfl | split | dsimp only); done)
    | intro _ _ _ | intro _ _ | intro _ | dsimp only | (rw [id_eq]) | with_reducible refine Keeps.put ?_ (fun x => x) (fun x => x)

theorem forward_keeps {s0 : State} {s : State} {src : Option Nat} {raw : List Byte} (kp : Keeps s0 s) :
    Keeps s0 (forward s src raw) := by
  unfold forward
  try dsimp only
  repeat' first
    | with_reducible assumption | with_reducible apply State.each_keeps | with_reducible apply State.modIns_keeps
    | with_reducible apply forwardOne_keeps | split
    | (intro _ hx; (first | show CtxOk _ | show TileOk _ | show Memory.wf _ = true); (repeat' first | exact hx | exact CtxOk.noSave rfl | split | dsimp only); done)
    | intro _ _ _ | intro _ _ | intro _ | dsimp only | (rw [id_eq]) | with_reducible refine Keeps.put ?_ (fun x => x) (fun x => x)

theorem State.endInstall_keeps {s0 : State} {s : State} (kp : Keeps s0 s) :
    Keeps s0 (State.endInstall s) := by
  unfold State.endInstall
  try dsimp only
  repeat' first
    | with_reducible assumption | with_reducible apply State.each_keeps | with_reducible apply State.modVault_keeps | split
    | exact fun _ hx => (show Memory.wf _ = true from hx) | exact fun _ hx => Memory.write_wf _ _ _ hx | exact fun _ hx => Memory.clear_wf _ _ _ hx
    | exact fun _ hx => Memory.copy_wf _ _ _ _ _ hx
    | (intro _ hx; (first | show CtxOk _ | show TileOk _ | show Memory.wf _ = true); (repeat' first | exact hx | exact CtxOk.noSave rfl | split | dsimp only); done)
    | intro _ _ _ | intro _ _ | intro _ | dsimp only | (rw [id_eq]) | with_reducible refine Keeps.put ?_ (fun x => x) (fun x => x)

theorem State.failInstalling_keeps {s0 : State} {s : State} (kp : Keeps s0 s) :
    Keeps s0 (State.failInstalling s) := by
  unfold State.failInstalling
  try dsimp only
  repeat' first
    | with_reducible assumption | with_reducible apply State.each_keeps | with_reducible apply State.modVault_keeps | split
    | exact fun _ hx => (show Memory.wf _ = true from hx) | exact fun _ hx => Memory.write_wf _ _ _ hx | exact fun _ hx => Memory.clear_wf _ _ _ hx
    | exact fun _ hx => Memory.copy_wf _ _ _ _ _ hx
    | (intro _ hx; (first | show CtxOk _ | show TileOk _ | show Memory.wf _ = true); (repeat' first | exact hx | exact CtxOk.noSave rfl | split | dsimp only); done)
    | intro _ _ _ | intro _ _ | intro _ | dsimp only | (rw [id_eq]) | with_reducible refine Keeps.put ?_ (fun x => x) (fun x => x)

theorem State.endSession_keeps {s0 : State} {s : State} {reason : Nat} (kp : Keeps s0 s) :
    Keeps s0 (State.endSession s reason) := by
  unfold State.endSession
  try dsimp only
  repeat' first
    | with_reducible assumption | with_reducible apply State.insReason_keeps | with_reducible apply State.modIns_keeps
    | with_reducible apply State.setBit_keeps | with_reducible apply State.setFld_keeps | split
    | (intro _ hx; (first | show CtxOk _ | show TileOk _ | show Memory.wf _ = true); (repeat' first | exact hx | exact CtxOk.noSave rfl | split | dsimp only); done)
    | intro _ _ _ | intro _ _ | intro _ | dsimp only | (rw [id_eq]) | with_reducible refine Keeps.put ?_ (fun x => x) (fun x => x)

theorem State.stopWrite_keeps {s0 : State} {s : State} {reason : Nat} (kp : Keeps s0 s) :
    Keeps s0 (State.stopWrite s reason) := by
  unfold State.stopWrite
  try dsimp only
  repeat' first
    | with_reducible assumption | with_reducible apply State.insReason_keeps | with_reducible apply State.modIns_keeps | split
    | (intro _ hx; (first | show CtxOk _ | show TileOk _ | show Memory.wf _ = true); (repeat' first | exact hx | exact CtxOk.noSave rfl | split | dsimp only); done)
    | intro _ _ _ | intro _ _ | intro _ | dsimp only | (rw [id_eq]) | with_reducible refine Keeps.put ?_ (fun x => x) (fun x => x)

theorem placeRegion_keeps {s0 : State} {s : State} {stack : Nat} {g : InsRegion} (kp : Keeps s0 s) :
    Keeps s0 (placeRegion s stack g) := by
  unfold placeRegion
  try dsimp only
  repeat' first
    | with_reducible assumption | with_reducible apply State.modIns_keeps | with_reducible apply State.modRegion_keeps
    | with_reducible apply State.modVault_keeps | split | exact fun _ hx => (show Memory.wf _ = true from hx)
    | exact fun _ hx => Memory.write_wf _ _ _ hx | exact fun _ hx => Memory.clear_wf _ _ _ hx | exact fun _ hx => Memory.copy_wf _ _ _ _ _ hx
    | (intro _ hx; (first | show CtxOk _ | show TileOk _ | show Memory.wf _ = true); (repeat' first | exact hx | exact CtxOk.noSave rfl | split | dsimp only); done)
    | intro _ _ _ | intro _ _ | intro _ | dsimp only | (rw [id_eq]) | with_reducible refine Keeps.put ?_ (fun x => x) (fun x => x)

theorem State.reenter_keeps {s0 : State} {s : State} (kp : Keeps s0 s) :
    Keeps s0 (State.reenter s) := by
  unfold State.reenter
  try dsimp only
  repeat' first
    | with_reducible assumption | with_reducible apply State.each_keeps | with_reducible apply State.modVault_keeps | split
    | exact fun _ hx => (show Memory.wf _ = true from hx) | exact fun _ hx => Memory.write_wf _ _ _ hx | exact fun _ hx => Memory.clear_wf _ _ _ hx
    | exact fun _ hx => Memory.copy_wf _ _ _ _ _ hx
    | (intro _ hx; (first | show CtxOk _ | show TileOk _ | show Memory.wf _ = true); (repeat' first | exact hx | exact CtxOk.noSave rfl | split | dsimp only); done)
    | intro _ _ _ | intro _ _ | intro _ | dsimp only | (rw [id_eq]) | with_reducible refine Keeps.put ?_ (fun x => x) (fun x => x)

theorem openSession_keeps {s0 : State} {s : State} (kp : Keeps s0 s) :
    Keeps s0 (openSession s) := by
  unfold openSession
  try dsimp only
  repeat' first
    | with_reducible assumption | with_reducible apply State.each_keeps | with_reducible apply State.endInstall_keeps
    | with_reducible apply State.endSession_keeps | with_reducible apply State.failInstalling_keeps | with_reducible apply State.modIns_keeps
    | with_reducible apply State.reenter_keeps | with_reducible apply placeRegion_keeps | split
    | (intro _ hx; (first | show CtxOk _ | show TileOk _ | show Memory.wf _ = true); (repeat' first | exact hx | exact CtxOk.noSave rfl | split | dsimp only); done)
    | intro _ _ _ | intro _ _ | intro _ | dsimp only | (rw [id_eq]) | with_reducible refine Keeps.put ?_ (fun x => x) (fun x => x)

theorem headerChunk_keeps {s0 s : State} {c : Chunk} (h : Keeps s0 s) : Keeps s0 (headerChunk s c) := by
  have ite {p : Prop} [Decidable p] {a b : State} (ha : Keeps s0 a) (hb : Keeps s0 b) : Keeps s0 (if p then a else b) := by
    by_cases hp : p
    · rwa [if_pos hp]
    · rwa [if_neg hp]
  unfold headerChunk
  refine ite (State.insReason_keeps h) ?_
  extract_lets +onlyGivenNames s1
  have h1 : Keeps s0 s1 := ite (State.modIns_keeps h) h
  generalize s1 = s1 at h1 ⊢
  have opens (f : Install → Install) (n : Prop) [Decidable n] : Keeps s0 (if n then openSession (s1.modIns f) else s1.modIns f) :=
    ite (openSession_keeps (State.modIns_keeps h1)) (State.modIns_keeps h1)
  refine ite (ite (State.insReason_keeps h1) h1) (ite h1 (ite (ite h1 (State.stopWrite_keeps h1)) (ite (State.endSession_keeps h1) ?_)))
  refine ite (opens _ _) (ite (State.stopWrite_keeps h1) (ite h1 (ite (State.stopWrite_keeps h1) (ite (State.endSession_keeps h1) (opens _ _)))))

theorem writeChunk_keeps {s0 : State} {s : State} {v : Nat} {r : Nat} {c : Chunk} (kp : Keeps s0 s) :
    Keeps s0 (writeChunk s v r c) := by
  unfold writeChunk
  try dsimp only
  repeat' first
    | with_reducible assumption | with_reducible apply State.modVault_keeps | with_reducible apply notice_keeps | split
    | exact fun _ hx => (show Memory.wf _ = true from hx) | exact fun _ hx => Memory.write_wf _ _ _ hx | exact fun _ hx => Memory.clear_wf _ _ _ hx
    | exact fun _ hx => Memory.copy_wf _ _ _ _ _ hx
    | (intro _ hx; (first | show CtxOk _ | show TileOk _ | show Memory.wf _ = true); (repeat' first | exact hx | exact CtxOk.noSave rfl | exact Memory.write_wf _ _ _ hx | exact Memory.clear_wf _ _ _ hx | exact Memory.copy_wf _ _ _ _ _ hx | exact ⟨Memory.write_wf _ _ _ hx.1, hx.2⟩ | split | dsimp only); done)
    | intro _ _ _ | intro _ _ | intro _ | dsimp only | (rw [id_eq]) | with_reducible refine Keeps.put ?_ (fun x => x) (fun x => x)

theorem dataChunk_keeps {s0 : State} {s : State} {c : Chunk} (kp : Keeps s0 s) :
    Keeps s0 (dataChunk s c) := by
  unfold dataChunk
  try dsimp only
  repeat' first
    | with_reducible assumption | with_reducible apply State.modIns_keeps | with_reducible apply State.stopWrite_keeps
    | with_reducible apply writeChunk_keeps | split
    | (intro _ hx; (first | show CtxOk _ | show TileOk _ | show Memory.wf _ = true); (repeat' first | exact hx | exact CtxOk.noSave rfl | split | dsimp only); done)
    | intro _ _ _ | intro _ _ | intro _ | dsimp only | (rw [id_eq]) | with_reducible refine Keeps.put ?_ (fun x => x) (fun x => x)

theorem verifyOver_keeps {s0 : State} {s : State} (kp : Keeps s0 s) :
    Keeps s0 (verifyOver s) := by
  unfold verifyOver
  try dsimp only
  repeat' first
    | with_reducible assumption | with_reducible apply State.endInstall_keeps | with_reducible apply State.endSession_keeps | split
    | (intro _ hx; (first | show CtxOk _ | show TileOk _ | show Memory.wf _ = true); (repeat' first | exact hx | exact CtxOk.noSave rfl | split | dsimp only); done)
    | intro _ _ _ | intro _ _ | intro _ | dsimp only | (rw [id_eq]) | with_reducible refine Keeps.put ?_ (fun x => x) (fun x => x)

theorem endChunk_keeps {s0 : State} {s : State} {c : Chunk} (kp : Keeps s0 s) :
    Keeps s0 (endChunk s c) := by
  unfold endChunk
  try dsimp only
  repeat' first
    | with_reducible assumption | with_reducible apply State.each_keeps | with_reducible apply State.endInstall_keeps
    | with_reducible apply State.endSession_keeps | with_reducible apply State.modIns_keeps | with_reducible apply State.modRegion_keeps
    | with_reducible apply State.stopWrite_keeps | with_reducible apply verifyOver_keeps | split
    | (intro _ hx; (first | show CtxOk _ | show TileOk _ | show Memory.wf _ = true); (repeat' first | exact hx | exact CtxOk.noSave rfl | split | dsimp only); done)
    | intro _ _ _ | intro _ _ | intro _ | dsimp only | (rw [id_eq]) | with_reducible refine Keeps.put ?_ (fun x => x) (fun x => x)

theorem chunk_keeps {s0 : State} {s : State} {src : Option Nat} {raw : List Byte} (kp : Keeps s0 s) :
    Keeps s0 (chunk s src raw) := by
  unfold chunk
  try dsimp only
  repeat' first
    | with_reducible assumption | with_reducible apply State.addFld_keeps | with_reducible apply State.stopWrite_keeps
    | with_reducible apply dataChunk_keeps | with_reducible apply endChunk_keeps | with_reducible apply forward_keeps
    | with_reducible apply headerChunk_keeps | split
    | (intro _ hx; (first | show CtxOk _ | show TileOk _ | show Memory.wf _ = true); (repeat' first | exact hx | exact CtxOk.noSave rfl | split | dsimp only); done)
    | intro _ _ _ | intro _ _ | intro _ | dsimp only | (rw [id_eq]) | with_reducible refine Keeps.put ?_ (fun x => x) (fun x => x)

theorem chunkOf_keeps {s0 : State} {s : State} {type : Nat} {src : Option LinkIx} {raw : List Byte} (kp : Keeps s0 s) :
    Keeps s0 (chunkOf s type src raw) := by
  unfold chunkOf
  try dsimp only
  repeat' first
    | with_reducible assumption | with_reducible apply chunk_keeps | split
    | (intro _ hx; (first | show CtxOk _ | show TileOk _ | show Memory.wf _ = true); (repeat' first | exact hx | exact CtxOk.noSave rfl | split | dsimp only); done)
    | intro _ _ _ | intro _ _ | intro _ | dsimp only | (rw [id_eq]) | with_reducible refine Keeps.put ?_ (fun x => x) (fun x => x)

theorem execHeaderChunk_keeps {s0 : State} {src : Option LinkIx} {raw : List Byte} {s : State} (kp : Keeps s0 s) :
    KeepsN s0 (execHeaderChunk src raw s) := by
  unfold execHeaderChunk
  try dsimp only
  repeat' first
    | with_reducible assumption | with_reducible apply chunkOf_keeps | with_reducible apply KeepsN.next | with_reducible apply KeepsN.fault | split
    | (intro _ hx; (first | show CtxOk _ | show TileOk _ | show Memory.wf _ = true); (repeat' first | exact hx | exact CtxOk.noSave rfl | split | dsimp only); done)
    | intro _ _ _ | intro _ _ | intro _ | dsimp only | (rw [id_eq]) | with_reducible refine Keeps.put ?_ (fun x => x) (fun x => x)

theorem execDataChunk_keeps {s0 : State} {src : Option LinkIx} {raw : List Byte} {s : State} (kp : Keeps s0 s) :
    KeepsN s0 (execDataChunk src raw s) := by
  unfold execDataChunk
  try dsimp only
  repeat' first
    | with_reducible assumption | with_reducible apply chunkOf_keeps | with_reducible apply KeepsN.next | with_reducible apply KeepsN.fault | split
    | (intro _ hx; (first | show CtxOk _ | show TileOk _ | show Memory.wf _ = true); (repeat' first | exact hx | exact CtxOk.noSave rfl | split | dsimp only); done)
    | intro _ _ _ | intro _ _ | intro _ | dsimp only | (rw [id_eq]) | with_reducible refine Keeps.put ?_ (fun x => x) (fun x => x)

theorem execEndChunk_keeps {s0 : State} {src : Option LinkIx} {raw : List Byte} {s : State} (kp : Keeps s0 s) :
    KeepsN s0 (execEndChunk src raw s) := by
  unfold execEndChunk
  try dsimp only
  repeat' first
    | with_reducible assumption | with_reducible apply chunkOf_keeps | with_reducible apply KeepsN.next | with_reducible apply KeepsN.fault | split
    | (intro _ hx; (first | show CtxOk _ | show TileOk _ | show Memory.wf _ = true); (repeat' first | exact hx | exact CtxOk.noSave rfl | split | dsimp only); done)
    | intro _ _ _ | intro _ _ | intro _ | dsimp only | (rw [id_eq]) | with_reducible refine Keeps.put ?_ (fun x => x) (fun x => x)

theorem verifyDone_keeps {s0 : State} {s : State} {v : Nat} {r : Nat} (kp : Keeps s0 s) :
    Keeps s0 (verifyDone s v r) := by
  unfold verifyDone
  try dsimp only
  repeat' first
    | with_reducible assumption | with_reducible apply State.modRegion_keeps | with_reducible apply verifyOver_keeps | split
    | (intro _ hx; (first | show CtxOk _ | show TileOk _ | show Memory.wf _ = true); (repeat' first | exact hx | exact CtxOk.noSave rfl | exact Memory.write_wf _ _ _ hx | exact Memory.clear_wf _ _ _ hx | exact Memory.copy_wf _ _ _ _ _ hx | exact ⟨Memory.write_wf _ _ _ hx.1, hx.2⟩ | split | dsimp only); done)
    | intro _ _ _ | intro _ _ | intro _ | dsimp only | (rw [id_eq]) | with_reducible refine Keeps.put ?_ (fun x => x) (fun x => x)

theorem execInstallVerifyDone_keeps {s0 : State} {v : VaultIx} {region : Fin 64} {s : State} (kp : Keeps s0 s) :
    KeepsN s0 (execInstallVerifyDone v region s) := by
  unfold execInstallVerifyDone
  try dsimp only
  repeat' first
    | with_reducible assumption | with_reducible apply verifyDone_keeps | with_reducible apply KeepsN.next | with_reducible apply KeepsN.fault
    | split
    | (intro _ hx; (first | show CtxOk _ | show TileOk _ | show Memory.wf _ = true); (repeat' first | exact hx | exact CtxOk.noSave rfl | split | dsimp only); done)
    | intro _ _ _ | intro _ _ | intro _ | dsimp only | (rw [id_eq]) | with_reducible refine Keeps.put ?_ (fun x => x) (fun x => x)

theorem insCmd_keeps {s0 : State} {s : State} {acc : Accessor} {conds : List (Bool × Status)} {act : State → State} (kp : Keeps s0 s) (hact : ∀ s1, Keeps s0 s1 → Keeps s0 (act s1)) :
    Keeps s0 (insCmd s acc conds act) := by
  unfold insCmd
  try dsimp only
  repeat' first
    | with_reducible assumption | with_reducible apply State.setFld_keeps | with_reducible apply onBlock_keeps | with_reducible apply hact | split
    | (intro _ hx; (first | show CtxOk _ | show TileOk _ | show Memory.wf _ = true); (repeat' first | exact hx | exact CtxOk.noSave rfl | split | dsimp only); done)
    | intro _ _ _ | intro _ _ | intro _ | dsimp only | (rw [id_eq]) | with_reducible refine Keeps.put ?_ (fun x => x) (fun x => x)

theorem cmdArm_keeps {s0 : State} {s : State} {acc : Accessor} (kp : Keeps s0 s) :
    Keeps s0 (cmdArm s acc) := by
  unfold cmdArm
  try dsimp only
  repeat' first
    | with_reducible assumption | with_reducible apply State.insReason_keeps | with_reducible apply State.modIns_keeps
    | with_reducible apply insCmd_keeps | split
    | (intro _ hx; (first | show CtxOk _ | show TileOk _ | show Memory.wf _ = true); (repeat' first | exact hx | exact CtxOk.noSave rfl | split | dsimp only); done)
    | intro _ _ _ | intro _ _ | intro _ | dsimp only | (rw [id_eq]) | with_reducible refine Keeps.put ?_ (fun x => x) (fun x => x)

theorem execInstallArm_keeps {s0 : State} {acc : Accessor} {s : State} (kp : Keeps s0 s) :
    KeepsN s0 (execInstallArm acc s) := by
  unfold execInstallArm
  try dsimp only
  repeat' first
    | with_reducible assumption | with_reducible apply cmdArm_keeps | with_reducible apply KeepsN.next | with_reducible apply KeepsN.fault | split
    | (intro _ hx; (first | show CtxOk _ | show TileOk _ | show Memory.wf _ = true); (repeat' first | exact hx | exact CtxOk.noSave rfl | split | dsimp only); done)
    | intro _ _ _ | intro _ _ | intro _ | dsimp only | (rw [id_eq]) | with_reducible refine Keeps.put ?_ (fun x => x) (fun x => x)

theorem cmdStart_keeps {s0 : State} {s : State} {acc : Accessor} (kp : Keeps s0 s) :
    Keeps s0 (cmdStart s acc) := by
  unfold cmdStart
  try dsimp only
  repeat' first
    | with_reducible assumption | with_reducible apply State.modIns_keeps | with_reducible apply insCmd_keeps | split
    | (intro _ hx; (first | show CtxOk _ | show TileOk _ | show Memory.wf _ = true); (repeat' first | exact hx | exact CtxOk.noSave rfl | split | dsimp only); done)
    | intro _ _ _ | intro _ _ | intro _ | dsimp only | (rw [id_eq]) | with_reducible refine Keeps.put ?_ (fun x => x) (fun x => x)

theorem execInstallStart_keeps {s0 : State} {acc : Accessor} {s : State} (kp : Keeps s0 s) :
    KeepsN s0 (execInstallStart acc s) := by
  unfold execInstallStart
  try dsimp only
  repeat' first
    | with_reducible assumption | with_reducible apply cmdStart_keeps | with_reducible apply KeepsN.next | with_reducible apply KeepsN.fault
    | split
    | (intro _ hx; (first | show CtxOk _ | show TileOk _ | show Memory.wf _ = true); (repeat' first | exact hx | exact CtxOk.noSave rfl | split | dsimp only); done)
    | intro _ _ _ | intro _ _ | intro _ | dsimp only | (rw [id_eq]) | with_reducible refine Keeps.put ?_ (fun x => x) (fun x => x)

theorem cmdDisarm_keeps {s0 : State} {s : State} {acc : Accessor} (kp : Keeps s0 s) :
    Keeps s0 (cmdDisarm s acc) := by
  unfold cmdDisarm
  try dsimp only
  repeat' first
    | with_reducible assumption | with_reducible apply State.endInstall_keeps | with_reducible apply State.failInstalling_keeps
    | with_reducible apply State.modIns_keeps | with_reducible apply State.setBit_keeps | with_reducible apply insCmd_keeps | split
    | (intro _ hx; (first | show CtxOk _ | show TileOk _ | show Memory.wf _ = true); (repeat' first | exact hx | exact CtxOk.noSave rfl | split | dsimp only); done)
    | intro _ _ _ | intro _ _ | intro _ | dsimp only | (rw [id_eq]) | with_reducible refine Keeps.put ?_ (fun x => x) (fun x => x)

theorem execInstallDisarm_keeps {s0 : State} {acc : Accessor} {s : State} (kp : Keeps s0 s) :
    KeepsN s0 (execInstallDisarm acc s) := by
  unfold execInstallDisarm
  try dsimp only
  repeat' first
    | with_reducible assumption | with_reducible apply cmdDisarm_keeps | with_reducible apply KeepsN.next | with_reducible apply KeepsN.fault
    | split
    | (intro _ hx; (first | show CtxOk _ | show TileOk _ | show Memory.wf _ = true); (repeat' first | exact hx | exact CtxOk.noSave rfl | split | dsimp only); done)
    | intro _ _ _ | intro _ _ | intro _ | dsimp only | (rw [id_eq]) | with_reducible refine Keeps.put ?_ (fun x => x) (fun x => x)

theorem ringSlot_keeps {s0 : State} {s : State} (kp : Keeps s0 s) :
    Keeps s0 (ringSlot s) := by
  unfold ringSlot
  try dsimp only
  repeat' first
    | with_reducible assumption | with_reducible apply State.mgtWrite_keeps | with_reducible apply State.modIns_keeps
    | with_reducible apply chunk_keeps | split
    | (intro _ hx; (first | show CtxOk _ | show TileOk _ | show Memory.wf _ = true); (repeat' first | exact hx | exact CtxOk.noSave rfl | exact Memory.write_wf _ _ _ hx | exact Memory.clear_wf _ _ _ hx | exact Memory.copy_wf _ _ _ _ _ hx | exact ⟨Memory.write_wf _ _ _ hx.1, hx.2⟩ | split | dsimp only); done)
    | intro _ _ _ | intro _ _ | intro _ | dsimp only | (rw [id_eq]) | with_reducible refine Keeps.put ?_ (fun x => x) (fun x => x)

theorem execInstallRingSlot_keeps {s0 : State} {s : State} (kp : Keeps s0 s) :
    KeepsN s0 (execInstallRingSlot s) := by
  unfold execInstallRingSlot
  try dsimp only
  repeat' first
    | with_reducible assumption | with_reducible apply ringSlot_keeps | with_reducible apply KeepsN.next | with_reducible apply KeepsN.fault
    | split
    | (intro _ hx; (first | show CtxOk _ | show TileOk _ | show Memory.wf _ = true); (repeat' first | exact hx | exact CtxOk.noSave rfl | split | dsimp only); done)
    | intro _ _ _ | intro _ _ | intro _ | dsimp only | (rw [id_eq]) | with_reducible refine Keeps.put ?_ (fun x => x) (fun x => x)

theorem vltCmd_keeps {s0 : State} {s : State} {acc : Accessor} {v : Nat} {conds : List (Bool × Status)} {act : State → State} (kp : Keeps s0 s) (hact : ∀ s1, Keeps s0 s1 → Keeps s0 (act s1)) :
    Keeps s0 (vltCmd s acc v conds act) := by
  unfold vltCmd
  try dsimp only
  repeat' first
    | with_reducible assumption | with_reducible apply State.finish_keeps | with_reducible apply onBlock_keeps | with_reducible apply hact | split
    | (intro _ hx; (first | show CtxOk _ | show TileOk _ | show Memory.wf _ = true); (repeat' first | exact hx | exact CtxOk.noSave rfl | split | dsimp only); done)
    | intro _ _ _ | intro _ _ | intro _ | dsimp only | (rw [id_eq]) | with_reducible refine Keeps.put ?_ (fun x => x) (fun x => x)

theorem cmdRegionFree_keeps {s0 : State} {s : State} {acc : Accessor} {v : Nat} {r : Nat} (kp : Keeps s0 s) :
    Keeps s0 (cmdRegionFree s acc v r) := by
  unfold cmdRegionFree
  try dsimp only
  repeat' first
    | with_reducible assumption | with_reducible apply State.finish_keeps | with_reducible apply State.modRegion_keeps
    | with_reducible apply vltCmd_keeps | split
    | (intro _ hx; (first | show CtxOk _ | show TileOk _ | show Memory.wf _ = true); (repeat' first | exact hx | exact CtxOk.noSave rfl | split | dsimp only); done)
    | intro _ _ _ | intro _ _ | intro _ | dsimp only | (rw [id_eq]) | with_reducible refine Keeps.put ?_ (fun x => x) (fun x => x)

theorem execRegionFree_keeps {s0 : State} {acc : Accessor} {v : VaultIx} {region : Fin 64} {s : State} (kp : Keeps s0 s) :
    KeepsN s0 (execRegionFree acc v region s) := by
  unfold execRegionFree
  try dsimp only
  repeat' first
    | with_reducible assumption | with_reducible apply cmdRegionFree_keeps | with_reducible apply KeepsN.next | with_reducible apply KeepsN.fault
    | split
    | (intro _ hx; (first | show CtxOk _ | show TileOk _ | show Memory.wf _ = true); (repeat' first | exact hx | exact CtxOk.noSave rfl | split | dsimp only); done)
    | intro _ _ _ | intro _ _ | intro _ | dsimp only | (rw [id_eq]) | with_reducible refine Keeps.put ?_ (fun x => x) (fun x => x)

theorem startRecal_keeps {s0 : State} {s : State} {v : Nat} (kp : Keeps s0 s) :
    Keeps s0 (startRecal s v) := by
  unfold startRecal
  try dsimp only
  repeat' first
    | with_reducible assumption | with_reducible apply State.modVault_keeps | with_reducible apply State.setBit_keeps | split
    | exact fun _ hx => (show Memory.wf _ = true from hx) | exact fun _ hx => Memory.write_wf _ _ _ hx | exact fun _ hx => Memory.clear_wf _ _ _ hx
    | exact fun _ hx => Memory.copy_wf _ _ _ _ _ hx
    | (intro _ hx; (first | show CtxOk _ | show TileOk _ | show Memory.wf _ = true); (repeat' first | exact hx | exact CtxOk.noSave rfl | split | dsimp only); done)
    | intro _ _ _ | intro _ _ | intro _ | dsimp only | (rw [id_eq]) | with_reducible refine Keeps.put ?_ (fun x => x) (fun x => x)

theorem cmdRecal_keeps {s0 : State} {s : State} {acc : Accessor} {v : Nat} {queue : Bool} (kp : Keeps s0 s) :
    Keeps s0 (cmdRecal s acc v queue) := by
  unfold cmdRecal
  try dsimp only
  repeat' first
    | with_reducible assumption | with_reducible apply State.modVault_keeps | with_reducible apply State.setBit_keeps
    | with_reducible apply State.setFld_keeps | with_reducible apply startRecal_keeps | with_reducible apply vltCmd_keeps | split
    | exact fun _ hx => (show Memory.wf _ = true from hx) | exact fun _ hx => Memory.write_wf _ _ _ hx | exact fun _ hx => Memory.clear_wf _ _ _ hx
    | exact fun _ hx => Memory.copy_wf _ _ _ _ _ hx
    | (intro _ hx; (first | show CtxOk _ | show TileOk _ | show Memory.wf _ = true); (repeat' first | exact hx | exact CtxOk.noSave rfl | split | dsimp only); done)
    | intro _ _ _ | intro _ _ | intro _ | dsimp only | (rw [id_eq]) | with_reducible refine Keeps.put ?_ (fun x => x) (fun x => x)

theorem execRecal_keeps {s0 : State} {acc : Accessor} {v : VaultIx} {queue : Bool} {s : State} (kp : Keeps s0 s) :
    KeepsN s0 (execRecal acc v queue s) := by
  unfold execRecal
  try dsimp only
  repeat' first
    | with_reducible assumption | with_reducible apply cmdRecal_keeps | with_reducible apply KeepsN.next | with_reducible apply KeepsN.fault
    | split
    | (intro _ hx; (first | show CtxOk _ | show TileOk _ | show Memory.wf _ = true); (repeat' first | exact hx | exact CtxOk.noSave rfl | split | dsimp only); done)
    | intro _ _ _ | intro _ _ | intro _ | dsimp only | (rw [id_eq]) | with_reducible refine Keeps.put ?_ (fun x => x) (fun x => x)

theorem execRecalQueuedStart_keeps {s0 : State} {v : VaultIx} {s : State} (kp : Keeps s0 s) :
    KeepsN s0 (execRecalQueuedStart v s) := by
  unfold execRecalQueuedStart
  try dsimp only
  repeat' first
    | with_reducible assumption | with_reducible apply startRecal_keeps | with_reducible apply KeepsN.next | with_reducible apply KeepsN.fault
    | split
    | (intro _ hx; (first | show CtxOk _ | show TileOk _ | show Memory.wf _ = true); (repeat' first | exact hx | exact CtxOk.noSave rfl | split | dsimp only); done)
    | intro _ _ _ | intro _ _ | intro _ | dsimp only | (rw [id_eq]) | with_reducible refine Keeps.put ?_ (fun x => x) (fun x => x)

theorem recalWords_keeps {s0 s : State} {v : Nat} {mem : Memory} {l : List (Nat × Nat)} {lost : List Nat} (h : Keeps s0 s) :
    Keeps s0 (recalWords s v mem l lost).2 := by
  induction l generalizing s mem lost with
  | nil => exact h
  | cons e r ih =>
    obtain ⟨off, n⟩ := e
    unfold recalWords
    rcases hf : s.fate true n with ⟨fate, s1⟩
    have h1 : Keeps s0 s1 := State.fate_keeps' (out := (_, _)) hf h
    cases fate with
    | clean => exact ih h1
    | corrected => exact ih (vaultCe_keeps h1)
    | open_ =>
      dsimp only
      have h2 := State.drawBytes_keeps (s0 := s0) 32 h1
      generalize s1.drawBytes 32 = p at h2 ⊢
      obtain ⟨bs, s2⟩ := p
      exact ih h2
    | lost => exact ih h1

theorem recalWords_keeps' {s0 s : State} {v : Nat} {mem : Memory} {l : List (Nat × Nat)} {lost : List Nat} {out : _}
    (eq : recalWords s v mem l lost = out) (h : Keeps s0 s) : Keeps s0 out.2 := eq ▸ recalWords_keeps h

theorem recalWords_wf {s : State} {v : Nat} {mem : Memory} {l : List (Nat × Nat)} {lost : List Nat} (h : mem.wf = true) :
    (recalWords s v mem l lost).1.1.wf = true := by
  induction l generalizing s mem lost with
  | nil => exact h
  | cons e r ih =>
    obtain ⟨off, n⟩ := e
    unfold recalWords
    rcases s.fate true n with ⟨fate, s1⟩
    cases fate with
    | clean => exact ih h
    | corrected => exact ih h
    | open_ =>
      dsimp only
      generalize s1.drawBytes 32 = p
      obtain ⟨bs, s2⟩ := p
      exact ih (Memory.write_wf _ _ _ h)
    | lost => exact ih h

theorem recalDone_keeps {s0 : State} {s : State} {v : Nat} {found : Findings} (kp : Keeps s0 s) :
    Keeps s0 (recalDone s v found) := by
  unfold recalDone
  try dsimp only
  repeat' first
    | with_reducible assumption | with_reducible apply State.modVault_keeps | with_reducible apply State.setBit_keeps
    | with_reducible apply recalWords_keeps | refine recalWords_keeps' (out := (_, _)) (by with_reducible assumption) ?_ | split
    | exact fun _ hx => (show Memory.wf _ = true from hx) | exact fun _ hx => Memory.write_wf _ _ _ hx | exact fun _ hx => Memory.clear_wf _ _ _ hx
    | exact fun _ hx => Memory.copy_wf _ _ _ _ _ hx
    | (intro _ hx; (first | show CtxOk _ | show TileOk _ | show Memory.wf _ = true); (repeat' first | exact hx | exact CtxOk.noSave rfl | exact Memory.write_wf _ _ _ hx | exact Memory.clear_wf _ _ _ hx | exact Memory.copy_wf _ _ _ _ _ hx | exact ⟨Memory.write_wf _ _ _ hx.1, hx.2⟩ | split | dsimp only); done)
    | intro _ _ _ | intro _ _ | intro _ | dsimp only | (rw [id_eq]) | with_reducible refine Keeps.put ?_ (fun x => x) (fun x => x)

theorem execRecalDone_keeps {s0 : State} {v : VaultIx} {found : Findings} {s : State} (kp : Keeps s0 s) :
    KeepsN s0 (execRecalDone v found s) := by
  unfold execRecalDone
  try dsimp only
  repeat' first
    | with_reducible assumption | with_reducible apply recalDone_keeps | with_reducible apply KeepsN.next | with_reducible apply KeepsN.fault
    | split
    | (intro _ hx; (first | show CtxOk _ | show TileOk _ | show Memory.wf _ = true); (repeat' first | exact hx | exact CtxOk.noSave rfl | split | dsimp only); done)
    | intro _ _ _ | intro _ _ | intro _ | dsimp only | (rw [id_eq]) | with_reducible refine Keeps.put ?_ (fun x => x) (fun x => x)

end Sys2Proof.Machine
end

