-- ==== Sys2Proof/Laws/KeepsFabric.lean ====
section
/-! SUPPORT. What each operation of Machine/Fabric.lean keeps. -/

namespace Sys2Proof.Machine

open Sys2Proof.Safety

set_option linter.all false
set_option Elab.async false

theorem State.resendOn_keeps {s0 : State} {s : State} {l : Nat} {x : SentPacket} (kp : Keeps s0 s) :
    Keeps s0 (State.resendOn s l x) := by
  unfold State.resendOn
  try dsimp only
  repeat' first
    | with_reducible assumption | with_reducible apply State.modLink_keeps | split
    | (intro _ hx; (first | show CtxOk _ | show TileOk _ | show Memory.wf _ = true); (repeat' first | exact hx | exact CtxOk.noSave rfl | split | dsimp only); done)
    | intro _ _ _ | intro _ _ | intro _ | dsimp only | (rw [id_eq]) | with_reducible refine Keeps.put ?_ (fun x => x) (fun x => x)

theorem resendReq_keeps {s0 : State} {s : State} {src : Nat} {seq : Nat} {part : Nat} (kp : Keeps s0 s) :
    Keeps s0 (resendReq s src seq part) := by
  unfold resendReq
  try dsimp only
  repeat' first
    | with_reducible assumption | with_reducible apply State.addFld_keeps | with_reducible apply State.each_keeps
    | with_reducible apply State.resendOn_keeps | with_reducible apply sendMachineOn_keeps | split
    | (intro _ hx; (first | show CtxOk _ | show TileOk _ | show Memory.wf _ = true); (repeat' first | exact hx | exact CtxOk.noSave rfl | split | dsimp only); done)
    | intro _ _ _ | intro _ _ | intro _ | dsimp only | (rw [id_eq]) | with_reducible refine Keeps.put ?_ (fun x => x) (fun x => x)

theorem execResendReq_keeps {s0 : State} {src : Coord} {seq : BitVec 16} {part : BitVec 16} {s : State} (kp : Keeps s0 s) :
    KeepsN s0 (execResendReq src seq part s) := by
  unfold execResendReq
  try dsimp only
  repeat' first
    | with_reducible assumption | with_reducible apply resendReq_keeps | with_reducible apply KeepsN.next | with_reducible apply KeepsN.fault
    | split
    | (intro _ hx; (first | show CtxOk _ | show TileOk _ | show Memory.wf _ = true); (repeat' first | exact hx | exact CtxOk.noSave rfl | split | dsimp only); done)
    | intro _ _ _ | intro _ _ | intro _ | dsimp only | (rw [id_eq]) | with_reducible refine Keeps.put ?_ (fun x => x) (fun x => x)

theorem dropAt_keeps {s0 : State} {s : State} {step : Nat} {vc : Nat} {h : Head} (kp : Keeps s0 s) :
    Keeps s0 (dropAt s step vc h) := by
  unfold dropAt
  try dsimp only
  repeat' first
    | with_reducible assumption | with_reducible apply State.addFld_keeps | with_reducible apply resendReq_keeps | split
    | (intro _ hx; (first | show CtxOk _ | show TileOk _ | show Memory.wf _ = true); (repeat' first | exact hx | exact CtxOk.noSave rfl | split | dsimp only); done)
    | intro _ _ _ | intro _ _ | intro _ | dsimp only | (rw [id_eq]) | with_reducible refine Keeps.put ?_ (fun x => x) (fun x => x)

theorem State.noRoute_keeps {s0 : State} {s : State} (kp : Keeps s0 s) :
    Keeps s0 (State.noRoute s) := by
  unfold State.noRoute
  try dsimp only
  repeat' first
    | with_reducible assumption | with_reducible apply State.addFld_keeps | split
    | (intro _ hx; (first | show CtxOk _ | show TileOk _ | show Memory.wf _ = true); (repeat' first | exact hx | exact CtxOk.noSave rfl | split | dsimp only); done)
    | intro _ _ _ | intro _ _ | intro _ | dsimp only | (rw [id_eq]) | with_reducible refine Keeps.put ?_ (fun x => x) (fun x => x)

theorem takeImage_keeps {s0 : State} {s : State} {l : Nat} {body : List Byte} (kp : Keeps s0 s) :
    Keeps s0 (takeImage s l body) := by
  unfold takeImage
  try dsimp only
  repeat' first
    | with_reducible assumption | with_reducible apply actImage_keeps | with_reducible apply imageRoot_keeps
    | refine imageRoot_keeps' (out := (_, _)) (by with_reducible assumption) ?_ | split
    | (intro _ hx; (first | show CtxOk _ | show TileOk _ | show Memory.wf _ = true); (repeat' first | exact hx | exact CtxOk.noSave rfl | split | dsimp only); done)
    | intro _ _ _ | intro _ _ | intro _ | dsimp only | (rw [id_eq]) | with_reducible refine Keeps.put ?_ (fun x => x) (fun x => x)

theorem deliver_keeps {s0 : State} {s : State} {l : Nat} {h : Head} {p : List Byte} (kp : Keeps s0 s) :
    Keeps s0 (deliver s l h p) := by
  unfold deliver
  try dsimp only
  repeat' first
    | with_reducible assumption | with_reducible apply actAdvisory_keeps | with_reducible apply actMessage_keeps
    | with_reducible apply actStep_keeps | with_reducible apply chunk_keeps | with_reducible apply resendReq_keeps
    | with_reducible apply takeImage_keeps | split
    | (intro _ hx; (first | show CtxOk _ | show TileOk _ | show Memory.wf _ = true); (repeat' first | exact hx | exact CtxOk.noSave rfl | split | dsimp only); done)
    | intro _ _ _ | intro _ _ | intro _ | dsimp only | (rw [id_eq]) | with_reducible refine Keeps.put ?_ (fun x => x) (fun x => x)

theorem State.accept_keeps {s0 : State} {s : State} {h : Head} {vc : Nat} (kp : Keeps s0 s) :
    Keeps s0 (State.accept s h vc) := by
  unfold State.accept
  try dsimp only
  repeat' first
    | with_reducible assumption | split
    | (intro _ hx; (first | show CtxOk _ | show TileOk _ | show Memory.wf _ = true); (repeat' first | exact hx | exact CtxOk.noSave rfl | split | dsimp only); done)
    | intro _ _ _ | intro _ _ | intro _ | dsimp only | (rw [id_eq]) | with_reducible refine Keeps.put ?_ (fun x => x) (fun x => x)

theorem route_keeps {s0 : State} {s : State} {l : Nat} {vc : Nat} {out : Nat} {epoch : Bool} {h : Head} {p : List Byte} (kp : Keeps s0 s) :
    Keeps s0 (route s l vc out epoch h p) := by
  unfold route
  try dsimp only
  repeat' first
    | with_reducible assumption | with_reducible apply State.each_keeps | with_reducible apply State.freeFlits_keeps
    | with_reducible apply State.noRoute_keeps | with_reducible apply State.queueOn_keeps | with_reducible apply deliver_keeps | split
    | (intro _ hx; (first | show CtxOk _ | show TileOk _ | show Memory.wf _ = true); (repeat' first | exact hx | exact CtxOk.noSave rfl | split | dsimp only); done)
    | intro _ _ _ | intro _ _ | intro _ | dsimp only | (rw [id_eq]) | with_reducible refine Keeps.put ?_ (fun x => x) (fun x => x)

theorem packetReceive_keeps {s0 : State} {s : State} {l : Nat} {vc : Nat} (kp : Keeps s0 s) :
    Keeps s0 (packetReceive s l vc) := by
  unfold packetReceive
  try dsimp only
  repeat' first
    | with_reducible assumption | with_reducible apply State.accept_keeps | with_reducible apply State.freeFlits_keeps
    | with_reducible apply State.modLink_keeps | with_reducible apply State.sample_keeps | with_reducible apply dropAt_keeps
    | with_reducible apply route_keeps | split
    | (intro _ hx; (first | show CtxOk _ | show TileOk _ | show Memory.wf _ = true); (repeat' first | exact hx | exact CtxOk.noSave rfl | split | dsimp only); done)
    | intro _ _ _ | intro _ _ | intro _ | dsimp only | (rw [id_eq]) | with_reducible refine Keeps.put ?_ (fun x => x) (fun x => x)

theorem execPacketReceive_keeps {s0 : State} {l : LinkIx} {vc : Fin 4} {s : State} (kp : Keeps s0 s) :
    KeepsN s0 (execPacketReceive l vc s) := by
  unfold execPacketReceive
  try dsimp only
  repeat' first
    | with_reducible assumption | with_reducible apply packetReceive_keeps | with_reducible apply KeepsN.next | with_reducible apply KeepsN.fault
    | split
    | (intro _ hx; (first | show CtxOk _ | show TileOk _ | show Memory.wf _ = true); (repeat' first | exact hx | exact CtxOk.noSave rfl | split | dsimp only); done)
    | intro _ _ _ | intro _ _ | intro _ | dsimp only | (rw [id_eq]) | with_reducible refine Keeps.put ?_ (fun x => x) (fun x => x)

theorem execRouteBankUnlock_keeps {s0 : State} {k : CtxSlot} {s : State} (kp : Keeps s0 s) :
    KeepsN s0 (execRouteBankUnlock k s) := by
  unfold execRouteBankUnlock
  try dsimp only
  repeat' first
    | with_reducible assumption | with_reducible apply KeepsN.next | with_reducible apply KeepsN.fault | split
    | (intro _ hx; (first | show CtxOk _ | show TileOk _ | show Memory.wf _ = true); (repeat' first | exact hx | exact CtxOk.noSave rfl | split | dsimp only); done)
    | intro _ _ _ | intro _ _ | intro _ | dsimp only | (rw [id_eq]) | with_reducible refine Keeps.put ?_ (fun x => x) (fun x => x)

end Sys2Proof.Machine
end

