-- ==== Sys2Proof/Laws/KeepsReset.lean ====
section
/-! SUPPORT. What each operation of Machine/Reset.lean keeps. -/

namespace Sys2Proof.Machine

open Sys2Proof.Safety

set_option linter.all false
set_option Elab.async false

theorem chipReset_keeps {s0 s : State} {cause : Nat} (h : Keeps s0 s) : Keeps s0 (chipReset s cause) := by
  unfold chipReset
  extract_lets +onlyGivenNames fresh
  refine State.setRg_keeps (State.setRg_keeps ?_)
  refine ⟨h.pending, h.fuses, fun c => ?_⟩
  have d := h.canon c
  have wh : KMap.wf {} (KMap.mapV {} s.hbm fun x => ({ mem := x.mem } : Hbm)) = true := KMap.map_wf _ _ _ d.hbm
  have wc : KMap.wf {} (KMap.mapV {} s.cxl fun x => ({ mem := x.mem } : Cxl)) = true := KMap.map_wf _ _ _ d.cxl
  have wv : KMap.wf {} (KMap.mapV {} s.vault Vault.reset) = true := KMap.map_wf _ _ _ d.vault
  have gh : ∀ m, (KMap.get ({} : Hbm) (KMap.mapV {} s.hbm fun x => { mem := x.mem }) m).mem.wf = true := by
    intro m
    rw [KMap.get_mapV _ _ _ rfl d.hbm]
    exact d.hbms m
  have gc : ∀ m, (KMap.get ({} : Cxl) (KMap.mapV {} s.cxl fun x => { mem := x.mem }) m).mem.wf = true := by
    intro m
    rw [KMap.get_mapV _ _ _ rfl d.cxl]
    exact d.cxls m
  have gv : ∀ m, (KMap.get ({} : Vault) (KMap.mapV {} s.vault Vault.reset) m).mem.wf = true := by
    intro m
    rw [KMap.get_mapV _ _ _ rfl d.vault]
    exact d.vaults m
  exact
    { csr := List.Pairwise.nil, ctx := rfl, tile := rfl, hbm := wh, cxl := wc, link := rfl, req := rfl,
      vault := wv, partQuar := rfl, mgt := d.mgt, flash := d.flash, ctxs := fun _ => CtxOk.fresh, tiles := fun _ => TileOk.fresh,
      hbms := gh, cxls := gc, vaults := gv }

theorem softReset_keeps {s0 : State} {s : State} {c : ResetCause} (kp : Keeps s0 s) :
    Keeps s0 (softReset s c) := by
  unfold softReset
  try dsimp only
  repeat' first
    | with_reducible assumption | with_reducible apply chipReset_keeps | split
    | (intro _ hx; (first | show CtxOk _ | show TileOk _ | show Memory.wf _ = true); (repeat' first | exact hx | exact CtxOk.noSave rfl | split | dsimp only); done)
    | intro _ _ _ | intro _ _ | intro _ | dsimp only | (rw [id_eq]) | with_reducible refine Keeps.put ?_ (fun x => x) (fun x => x)

end Sys2Proof.Machine
end

