-- ==== Sys2Proof/Laws/KeepsFirmware.lean ====
section
/-! SUPPORT. What each operation of Machine/Firmware.lean keeps. -/

namespace Sys2Proof.Machine

open Sys2Proof.Safety

set_option linter.all false
set_option Elab.async false

theorem State.modSec_keeps {s0 s : State} {f : Security → Security} (h : Keeps s0 s) (hf : ∀ x : Security, x.flash.wf = true → (f x).flash.wf = true) :
    Keeps s0 (s.modSec f) := h.secure (hf _)

theorem State.modSlot_keeps {s0 : State} {s : State} {i : Nat} {f : FwSlot → FwSlot} (kp : Keeps s0 s) :
    Keeps s0 (State.modSlot s i f) := by
  unfold State.modSlot
  try dsimp only
  repeat' first
    | with_reducible assumption | with_reducible apply State.modSec_keeps | with_reducible apply hf | split
    | exact fun _ hx => (show Memory.wf _ = true from hx) | exact fun _ hx => Memory.write_wf _ _ _ hx | exact fun _ hx => Memory.clear_wf _ _ _ hx
    | exact fun _ hx => Memory.copy_wf _ _ _ _ _ hx
    | (intro _ hx; (first | show CtxOk _ | show TileOk _ | show Memory.wf _ = true); (repeat' first | exact hx | exact CtxOk.noSave rfl | split | dsimp only); done)
    | intro _ _ _ | intro _ _ | intro _ | dsimp only | (rw [id_eq]) | with_reducible refine Keeps.put ?_ (fun x => x) (fun x => x)

theorem measure_keeps {s0 : State} {s : State} {h : List Byte} {plain : List (List Byte)} {mask : Nat} (kp : Keeps s0 s) :
    Keeps s0 (measure s h plain mask) := by
  unfold measure
  try dsimp only
  repeat' first
    | with_reducible assumption | with_reducible apply State.each_keeps | with_reducible apply State.modSec_keeps | split
    | exact fun _ hx => (show Memory.wf _ = true from hx) | exact fun _ hx => Memory.write_wf _ _ _ hx | exact fun _ hx => Memory.clear_wf _ _ _ hx
    | exact fun _ hx => Memory.copy_wf _ _ _ _ _ hx
    | (intro _ hx; (first | show CtxOk _ | show TileOk _ | show Memory.wf _ = true); (repeat' first | exact hx | exact CtxOk.noSave rfl | split | dsimp only); done)
    | intro _ _ _ | intro _ _ | intro _ | dsimp only | (rw [id_eq]) | with_reducible refine Keeps.put ?_ (fun x => x) (fun x => x)

theorem bootFail_keeps {s0 : State} {s : State} {i : Nat} (kp : Keeps s0 s) :
    Keeps s0 (bootFail s i) := by
  unfold bootFail
  try dsimp only
  repeat' first
    | with_reducible assumption | with_reducible apply State.modSlot_keeps | with_reducible apply State.setBit_keeps
    | with_reducible apply notice_keeps | split
    | (intro _ hx; (first | show CtxOk _ | show TileOk _ | show Memory.wf _ = true); (repeat' first | exact hx | exact CtxOk.noSave rfl | split | dsimp only); done)
    | intro _ _ _ | intro _ _ | intro _ | dsimp only | (rw [id_eq]) | with_reducible refine Keeps.put ?_ (fun x => x) (fun x => x)

theorem bootSlot_keeps {s0 : State} {s : State} {i : Nat} {h : List Byte} {plain : List (List Byte)} (kp : Keeps s0 s) :
    Keeps s0 (bootSlot s i h plain) := by
  unfold bootSlot
  try dsimp only
  repeat' first
    | with_reducible assumption | with_reducible apply State.modSec_keeps | with_reducible apply State.modSlot_keeps
    | with_reducible apply measure_keeps | split | exact fun _ hx => (show Memory.wf _ = true from hx) | exact fun _ hx => Memory.write_wf _ _ _ hx
    | exact fun _ hx => Memory.clear_wf _ _ _ hx | exact fun _ hx => Memory.copy_wf _ _ _ _ _ hx
    | (intro _ hx; (first | show CtxOk _ | show TileOk _ | show Memory.wf _ = true); (repeat' first | exact hx | exact CtxOk.noSave rfl | split | dsimp only); done)
    | intro _ _ _ | intro _ _ | intro _ | dsimp only | (rw [id_eq]) | with_reducible refine Keeps.put ?_ (fun x => x) (fun x => x)

theorem tryBoot_keeps {s0 : State} {s : State} {x1 : List Nat} (kp : Keeps s0 s) :
    Keeps s0 (tryBoot s x1) := by
  revert kp
  fun_induction tryBoot s x1 <;> intro kp
  all_goals
    repeat' first
      | with_reducible assumption | with_reducible apply State.modSec_keeps | with_reducible apply bootFail_keeps
      | with_reducible apply bootSlot_keeps | with_reducible apply_assumption -exfalso -symm | split
      | exact fun _ hx => (show Memory.wf _ = true from hx) | exact fun _ hx => Memory.write_wf _ _ _ hx
      | exact fun _ hx => Memory.clear_wf _ _ _ hx | exact fun _ hx => Memory.copy_wf _ _ _ _ _ hx
      | (intro _ hx; (first | show CtxOk _ | show TileOk _ | show Memory.wf _ = true); (repeat' first | exact hx | exact CtxOk.noSave rfl | split | dsimp only); done)
      | intro _ _ _ | intro _ _ | intro _ | dsimp only | (rw [id_eq]) | with_reducible refine Keeps.put ?_ (fun x => x) (fun x => x)

theorem boot_keeps {s0 : State} {s : State} {strap : Bool} (kp : Keeps s0 s) :
    Keeps s0 (boot s strap) := by
  unfold boot
  try dsimp only
  repeat' first
    | with_reducible assumption | with_reducible apply State.modSec_keeps | with_reducible apply notice_keeps | with_reducible apply tryBoot_keeps
    | split | exact fun _ hx => (show Memory.wf _ = true from hx) | exact fun _ hx => Memory.write_wf _ _ _ hx
    | exact fun _ hx => Memory.clear_wf _ _ _ hx | exact fun _ hx => Memory.copy_wf _ _ _ _ _ hx
    | (intro _ hx; (first | show CtxOk _ | show TileOk _ | show Memory.wf _ = true); (repeat' first | exact hx | exact CtxOk.noSave rfl | split | dsimp only); done)
    | intro _ _ _ | intro _ _ | intro _ | dsimp only | (rw [id_eq]) | with_reducible refine Keeps.put ?_ (fun x => x) (fun x => x)

theorem loadParts_keeps {s0 : State} {s : State} {i : Nat} {comps : Nat} (kp : Keeps s0 s) :
    Keeps s0 (loadParts s i comps) := by
  unfold loadParts
  try dsimp only
  repeat' first
    | with_reducible assumption | with_reducible apply State.modSec_keeps | with_reducible apply measure_keeps | split
    | exact fun _ hx => (show Memory.wf _ = true from hx) | exact fun _ hx => Memory.write_wf _ _ _ hx | exact fun _ hx => Memory.clear_wf _ _ _ hx
    | exact fun _ hx => Memory.copy_wf _ _ _ _ _ hx
    | (intro _ hx; (first | show CtxOk _ | show TileOk _ | show Memory.wf _ = true); (repeat' first | exact hx | exact CtxOk.noSave rfl | split | dsimp only); done)
    | intro _ _ _ | intro _ _ | intro _ | dsimp only | (rw [id_eq]) | with_reducible refine Keeps.put ?_ (fun x => x) (fun x => x)

theorem State.takeTrial_keeps {s0 : State} {s : State} {comps : Nat} {stackMask : Nat} (kp : Keeps s0 s) :
    Keeps s0 (State.takeTrial s comps stackMask) := by
  unfold State.takeTrial
  try dsimp only
  repeat' first
    | with_reducible assumption | with_reducible apply State.modSec_keeps | split | exact fun _ hx => (show Memory.wf _ = true from hx)
    | exact fun _ hx => Memory.write_wf _ _ _ hx | exact fun _ hx => Memory.clear_wf _ _ _ hx | exact fun _ hx => Memory.copy_wf _ _ _ _ _ hx
    | (intro _ hx; (first | show CtxOk _ | show TileOk _ | show Memory.wf _ = true); (repeat' first | exact hx | exact CtxOk.noSave rfl | split | dsimp only); done)
    | intro _ _ _ | intro _ _ | intro _ | dsimp only | (rw [id_eq]) | with_reducible refine Keeps.put ?_ (fun x => x) (fun x => x)

theorem activate_keeps {s0 : State} {s : State} {arg : Nat} {queue : Bool} (kp : Keeps s0 s) :
    Keeps s0 (activate s arg queue).2 := by
  unfold activate
  try dsimp only
  repeat' first
    | with_reducible assumption | with_reducible apply State.modSec_keeps | with_reducible apply State.modSlot_keeps
    | with_reducible apply State.takeTrial_keeps | with_reducible apply loadParts_keeps | split
    | exact fun _ hx => (show Memory.wf _ = true from hx) | exact fun _ hx => Memory.write_wf _ _ _ hx | exact fun _ hx => Memory.clear_wf _ _ _ hx
    | exact fun _ hx => Memory.copy_wf _ _ _ _ _ hx
    | (intro _ hx; (first | show CtxOk _ | show TileOk _ | show Memory.wf _ = true); (repeat' first | exact hx | exact CtxOk.noSave rfl | split | dsimp only); done)
    | intro _ _ _ | intro _ _ | intro _ | dsimp only | (rw [id_eq]) | with_reducible refine Keeps.put ?_ (fun x => x) (fun x => x)

theorem activate_keeps' {s0 : State} {s : State} {arg : Nat} {queue : Bool} {out : _} (eq : activate s arg queue = out) (kp : Keeps s0 s) :
    Keeps s0 out.2 := eq ▸ activate_keeps kp

theorem activationStart_keeps {s0 : State} {s : State} (kp : Keeps s0 s) :
    Keeps s0 (activationStart s) := by
  unfold activationStart
  try dsimp only
  repeat' first
    | with_reducible assumption | with_reducible apply State.modSec_keeps | with_reducible apply State.takeTrial_keeps
    | with_reducible apply loadParts_keeps | split | exact fun _ hx => (show Memory.wf _ = true from hx)
    | exact fun _ hx => Memory.write_wf _ _ _ hx | exact fun _ hx => Memory.clear_wf _ _ _ hx | exact fun _ hx => Memory.copy_wf _ _ _ _ _ hx
    | (intro _ hx; (first | show CtxOk _ | show TileOk _ | show Memory.wf _ = true); (repeat' first | exact hx | exact CtxOk.noSave rfl | split | dsimp only); done)
    | intro _ _ _ | intro _ _ | intro _ | dsimp only | (rw [id_eq]) | with_reducible refine Keeps.put ?_ (fun x => x) (fun x => x)

theorem execActivationQueuedStart_keeps {s0 : State} {s : State} (kp : Keeps s0 s) :
    KeepsN s0 (execActivationQueuedStart s) := by
  unfold execActivationQueuedStart
  try dsimp only
  repeat' first
    | with_reducible assumption | with_reducible apply activationStart_keeps | with_reducible apply KeepsN.next | with_reducible apply KeepsN.fault
    | split
    | (intro _ hx; (first | show CtxOk _ | show TileOk _ | show Memory.wf _ = true); (repeat' first | exact hx | exact CtxOk.noSave rfl | split | dsimp only); done)
    | intro _ _ _ | intro _ _ | intro _ | dsimp only | (rw [id_eq]) | with_reducible refine Keeps.put ?_ (fun x => x) (fun x => x)

theorem confirm_keeps {s0 s : State} (h : Keeps s0 s) : Keeps s0 (confirm s).2 := by
  unfold confirm
  split
  · exact h
  · rename_i i _
    extract_lets +onlyGivenNames s1 s2 s3
    have h1 : Keeps s0 s1 := by
      simp only [s1]
      split
      · exact State.modSlot_keeps h
      · exact h
    have h2 : Keeps s0 s2 := State.modSlot_keeps h1
    have h3 : Keeps s0 s3 := State.modSec_keeps h2 fun _ hx => hx
    exact Keeps.raiseSvn h3

theorem revert_keeps {s0 : State} {s : State} (kp : Keeps s0 s) :
    Keeps s0 (revert s) := by
  unfold revert
  try dsimp only
  repeat' first
    | with_reducible assumption | with_reducible apply State.modSec_keeps | with_reducible apply State.modSlot_keeps
    | with_reducible apply State.setBit_keeps | with_reducible apply activationStart_keeps | with_reducible apply loadParts_keeps
    | with_reducible apply notice_keeps | split | exact fun _ hx => (show Memory.wf _ = true from hx) | exact fun _ hx => Memory.write_wf _ _ _ hx
    | exact fun _ hx => Memory.clear_wf _ _ _ hx | exact fun _ hx => Memory.copy_wf _ _ _ _ _ hx
    | (intro _ hx; (first | show CtxOk _ | show TileOk _ | show Memory.wf _ = true); (repeat' first | exact hx | exact CtxOk.noSave rfl | split | dsimp only); done)
    | intro _ _ _ | intro _ _ | intro _ | dsimp only | (rw [id_eq]) | with_reducible refine Keeps.put ?_ (fun x => x) (fun x => x)

theorem execTrialTimeout_keeps {s0 : State} {s : State} (kp : Keeps s0 s) :
    KeepsN s0 (execTrialTimeout s) := by
  unfold execTrialTimeout
  try dsimp only
  repeat' first
    | with_reducible assumption | with_reducible apply revert_keeps | with_reducible apply KeepsN.next | with_reducible apply KeepsN.fault | split
    | (intro _ hx; (first | show CtxOk _ | show TileOk _ | show Memory.wf _ = true); (repeat' first | exact hx | exact CtxOk.noSave rfl | split | dsimp only); done)
    | intro _ _ _ | intro _ _ | intro _ | dsimp only | (rw [id_eq]) | with_reducible refine Keeps.put ?_ (fun x => x) (fun x => x)

theorem sign_keeps {s0 : State} {s : State} {key : List Byte} {body : List Byte} (kp : Keeps s0 s) :
    Keeps s0 (sign s key body).2 := by
  unfold sign
  try dsimp only
  repeat' first
    | with_reducible assumption | with_reducible apply State.draw_keeps
    | refine State.draw_keeps' (out := (_, _)) (by with_reducible assumption) ?_ | split
    | (intro _ hx; (first | show CtxOk _ | show TileOk _ | show Memory.wf _ = true); (repeat' first | exact hx | exact CtxOk.noSave rfl | split | dsimp only); done)
    | intro _ _ _ | intro _ _ | intro _ | dsimp only | (rw [id_eq]) | with_reducible refine Keeps.put ?_ (fun x => x) (fun x => x)

theorem sign_keeps' {s0 : State} {s : State} {key : List Byte} {body : List Byte} {out : _} (eq : sign s key body = out) (kp : Keeps s0 s) :
    Keeps s0 out.2 := eq ▸ sign_keeps kp

theorem attest_keeps {s0 : State} {s : State} {arg : Nat} {nonce : List Byte} {digest : List Byte} (kp : Keeps s0 s) :
    Keeps s0 (attest s arg nonce digest).2.2 := by
  unfold attest
  try dsimp only
  repeat' first
    | with_reducible assumption | with_reducible apply sign_keeps | refine sign_keeps' (out := (_, _)) (by with_reducible assumption) ?_ | split
    | (intro _ hx; (first | show CtxOk _ | show TileOk _ | show Memory.wf _ = true); (repeat' first | exact hx | exact CtxOk.noSave rfl | split | dsimp only); done)
    | intro _ _ _ | intro _ _ | intro _ | dsimp only | (rw [id_eq]) | with_reducible refine Keeps.put ?_ (fun x => x) (fun x => x)

theorem attest_keeps' {s0 : State} {s : State} {arg : Nat} {nonce : List Byte} {digest : List Byte} {out : _} (eq : attest s arg nonce digest = out) (kp : Keeps s0 s) :
    Keeps s0 out.2.2 := eq ▸ attest_keeps kp

theorem endorse_keeps {s0 : State} {s : State} (kp : Keeps s0 s) :
    Keeps s0 (endorse s).2.2 := by
  unfold endorse
  try dsimp only
  repeat' first
    | with_reducible assumption | with_reducible apply sign_keeps | refine sign_keeps' (out := (_, _)) (by with_reducible assumption) ?_ | split
    | (intro _ hx; (first | show CtxOk _ | show TileOk _ | show Memory.wf _ = true); (repeat' first | exact hx | exact CtxOk.noSave rfl | split | dsimp only); done)
    | intro _ _ _ | intro _ _ | intro _ | dsimp only | (rw [id_eq]) | with_reducible refine Keeps.put ?_ (fun x => x) (fun x => x)

theorem endorse_keeps' {s0 : State} {s : State} {out : _} (eq : endorse s = out) (kp : Keeps s0 s) :
    Keeps s0 out.2.2 := eq ▸ endorse_keeps kp

theorem secCmd_keeps {s0 : State} {s : State} {acc : Accessor} {act : State → Status × State} (kp : Keeps s0 s) (hact : ∀ s1, Keeps s0 s1 → Keeps s0 (act s1).2) :
    Keeps s0 (secCmd s acc act) := by
  unfold secCmd
  try dsimp only
  repeat' first
    | with_reducible assumption | with_reducible apply State.finish_keeps | with_reducible apply onBlock_keeps | with_reducible apply hact | split
    | (intro _ hx; (first | show CtxOk _ | show TileOk _ | show Memory.wf _ = true); (repeat' first | exact hx | exact CtxOk.noSave rfl | split | dsimp only); done)
    | intro _ _ _ | intro _ _ | intro _ | dsimp only | (rw [id_eq]) | with_reducible refine Keeps.put ?_ (fun x => x) (fun x => x)

theorem execConfirm_keeps {s0 : State} {acc : Accessor} {s : State} (kp : Keeps s0 s) :
    KeepsN s0 (execConfirm acc s) := by
  unfold execConfirm
  try dsimp only
  repeat' first
    | with_reducible assumption | with_reducible apply confirm_keeps | refine confirm_keeps' (out := (_, _)) (by with_reducible assumption) ?_
    | with_reducible apply secCmd_keeps | with_reducible apply KeepsN.next | with_reducible apply KeepsN.fault | split
    | (intro _ hx; (first | show CtxOk _ | show TileOk _ | show Memory.wf _ = true); (repeat' first | exact hx | exact CtxOk.noSave rfl | split | dsimp only); done)
    | intro _ _ _ | intro _ _ | intro _ | dsimp only | (rw [id_eq]) | with_reducible refine Keeps.put ?_ (fun x => x) (fun x => x)

theorem cmdActivate_keeps {s0 : State} {s : State} {acc : Accessor} {queue : Bool} (kp : Keeps s0 s) :
    Keeps s0 (cmdActivate s acc queue) := by
  unfold cmdActivate
  try dsimp only
  repeat' first
    | with_reducible assumption | with_reducible apply activate_keeps | refine activate_keeps' (out := (_, _)) (by with_reducible assumption) ?_
    | with_reducible apply secCmd_keeps | split
    | (intro _ hx; (first | show CtxOk _ | show TileOk _ | show Memory.wf _ = true); (repeat' first | exact hx | exact CtxOk.noSave rfl | split | dsimp only); done)
    | intro _ _ _ | intro _ _ | intro _ | dsimp only | (rw [id_eq]) | with_reducible refine Keeps.put ?_ (fun x => x) (fun x => x)

theorem execActivate_keeps {s0 : State} {acc : Accessor} {queue : Bool} {s : State} (kp : Keeps s0 s) :
    KeepsN s0 (execActivate acc queue s) := by
  unfold execActivate
  try dsimp only
  repeat' first
    | with_reducible assumption | with_reducible apply cmdActivate_keeps | with_reducible apply KeepsN.next | with_reducible apply KeepsN.fault
    | split
    | (intro _ hx; (first | show CtxOk _ | show TileOk _ | show Memory.wf _ = true); (repeat' first | exact hx | exact CtxOk.noSave rfl | split | dsimp only); done)
    | intro _ _ _ | intro _ _ | intro _ | dsimp only | (rw [id_eq]) | with_reducible refine Keeps.put ?_ (fun x => x) (fun x => x)

theorem writeOut_keeps {s0 : State} {r : Status × List Byte × State} (h : Keeps s0 r.2.2) : Keeps s0 (writeOut r).2 := by
  unfold writeOut
  extract_lets +onlyGivenNames s
  dsimp only
  split
  · exact State.mgtWrite_keeps h
  · exact h

theorem cmdAttest_keeps {s0 s : State} {acc : Accessor} (h : Keeps s0 s) : Keeps s0 (cmdAttest s acc) :=
  secCmd_keeps h fun _ hs => writeOut_keeps (attest_keeps hs)

theorem execAttest_keeps {s0 : State} {acc : Accessor} {s : State} (kp : Keeps s0 s) :
    KeepsN s0 (execAttest acc s) := by
  unfold execAttest
  try dsimp only
  repeat' first
    | with_reducible assumption | with_reducible apply cmdAttest_keeps | with_reducible apply KeepsN.next | with_reducible apply KeepsN.fault
    | split
    | (intro _ hx; (first | show CtxOk _ | show TileOk _ | show Memory.wf _ = true); (repeat' first | exact hx | exact CtxOk.noSave rfl | split | dsimp only); done)
    | intro _ _ _ | intro _ _ | intro _ | dsimp only | (rw [id_eq]) | with_reducible refine Keeps.put ?_ (fun x => x) (fun x => x)

theorem cmdEndorse_keeps {s0 s : State} {acc : Accessor} (h : Keeps s0 s) : Keeps s0 (cmdEndorse s acc) :=
  secCmd_keeps h fun _ hs => writeOut_keeps (endorse_keeps hs)

theorem execEndorse_keeps {s0 : State} {acc : Accessor} {s : State} (kp : Keeps s0 s) :
    KeepsN s0 (execEndorse acc s) := by
  unfold execEndorse
  try dsimp only
  repeat' first
    | with_reducible assumption | with_reducible apply cmdEndorse_keeps | with_reducible apply KeepsN.next | with_reducible apply KeepsN.fault
    | split
    | (intro _ hx; (first | show CtxOk _ | show TileOk _ | show Memory.wf _ = true); (repeat' first | exact hx | exact CtxOk.noSave rfl | split | dsimp only); done)
    | intro _ _ _ | intro _ _ | intro _ | dsimp only | (rw [id_eq]) | with_reducible refine Keeps.put ?_ (fun x => x) (fun x => x)

theorem svcAnswer_keeps {s0 : State} {s : State} {op : Nat} {seq : Nat} {st : Status} {data : List Byte} (kp : Keeps s0 s) :
    Keeps s0 (svcAnswer s op seq st data) := by
  unfold svcAnswer
  try dsimp only
  repeat' first
    | with_reducible assumption | with_reducible apply State.emit_keeps | with_reducible apply State.modSec_keeps | split
    | exact fun _ hx => (show Memory.wf _ = true from hx) | exact fun _ hx => Memory.write_wf _ _ _ hx | exact fun _ hx => Memory.clear_wf _ _ _ hx
    | exact fun _ hx => Memory.copy_wf _ _ _ _ _ hx
    | (intro _ hx; (first | show CtxOk _ | show TileOk _ | show Memory.wf _ = true); (repeat' first | exact hx | exact CtxOk.noSave rfl | split | dsimp only); done)
    | intro _ _ _ | intro _ _ | intro _ | dsimp only | (rw [id_eq]) | with_reducible refine Keeps.put ?_ (fun x => x) (fun x => x)

theorem svcRequest_keeps {s0 : State} {s : State} {op : Nat} {seq : BitVec 16} {act : State → Status × List Byte × State} (kp : Keeps s0 s) (hact : ∀ s1, Keeps s0 s1 → Keeps s0 (act s1).2.2) :
    Keeps s0 (svcRequest s op seq act) := by
  unfold svcRequest
  try dsimp only
  repeat' first
    | with_reducible assumption | with_reducible apply State.emit_keeps | with_reducible apply svcAnswer_keeps | with_reducible apply hact | split
    | (intro _ hx; (first | show CtxOk _ | show TileOk _ | show Memory.wf _ = true); (repeat' first | exact hx | exact CtxOk.noSave rfl | split | dsimp only); done)
    | intro _ _ _ | intro _ _ | intro _ | dsimp only | (rw [id_eq]) | with_reducible refine Keeps.put ?_ (fun x => x) (fun x => x)

theorem execSvcStatus_keeps {s0 : State} {seq : BitVec 16} {s : State} (kp : Keeps s0 s) :
    KeepsN s0 (execSvcStatus seq s) := by
  unfold execSvcStatus
  try dsimp only
  repeat' first
    | with_reducible assumption | with_reducible apply svcRequest_keeps | with_reducible apply KeepsN.next | with_reducible apply KeepsN.fault
    | split
    | (intro _ hx; (first | show CtxOk _ | show TileOk _ | show Memory.wf _ = true); (repeat' first | exact hx | exact CtxOk.noSave rfl | split | dsimp only); done)
    | intro _ _ _ | intro _ _ | intro _ | dsimp only | (rw [id_eq]) | with_reducible refine Keeps.put ?_ (fun x => x) (fun x => x)

theorem fwBegin_keeps {s0 : State} {s : State} {i : Nat} {n : Nat} (kp : Keeps s0 s) :
    Keeps s0 (fwBegin s i n).2.2 := by
  unfold fwBegin
  try dsimp only
  repeat' first
    | with_reducible assumption | with_reducible apply State.modSec_keeps | with_reducible apply State.modSlot_keeps | split
    | exact fun _ hx => (show Memory.wf _ = true from hx) | exact fun _ hx => Memory.write_wf _ _ _ hx | exact fun _ hx => Memory.clear_wf _ _ _ hx
    | exact fun _ hx => Memory.copy_wf _ _ _ _ _ hx
    | (intro _ hx; (first | show CtxOk _ | show TileOk _ | show Memory.wf _ = true); (repeat' first | exact hx | exact CtxOk.noSave rfl | exact Memory.write_wf _ _ _ hx | exact Memory.clear_wf _ _ _ hx | exact Memory.copy_wf _ _ _ _ _ hx | exact ⟨Memory.write_wf _ _ _ hx.1, hx.2⟩ | split | dsimp only); done)
    | intro _ _ _ | intro _ _ | intro _ | dsimp only | (rw [id_eq]) | with_reducible refine Keeps.put ?_ (fun x => x) (fun x => x)

theorem fwBegin_keeps' {s0 : State} {s : State} {i : Nat} {n : Nat} {out : _} (eq : fwBegin s i n = out) (kp : Keeps s0 s) :
    Keeps s0 out.2.2 := eq ▸ fwBegin_keeps kp

theorem execFwBegin_keeps {s0 : State} {seq : BitVec 16} {slot : BitVec 1} {blocks : Nat} {s : State} (kp : Keeps s0 s) :
    KeepsN s0 (execFwBegin seq slot blocks s) := by
  unfold execFwBegin
  try dsimp only
  repeat' first
    | with_reducible assumption | with_reducible apply fwBegin_keeps | refine fwBegin_keeps' (out := (_, _, _)) (by with_reducible assumption) ?_
    | with_reducible apply svcRequest_keeps | with_reducible apply KeepsN.next | with_reducible apply KeepsN.fault | split
    | (intro _ hx; (first | show CtxOk _ | show TileOk _ | show Memory.wf _ = true); (repeat' first | exact hx | exact CtxOk.noSave rfl | split | dsimp only); done)
    | intro _ _ _ | intro _ _ | intro _ | dsimp only | (rw [id_eq]) | with_reducible refine Keeps.put ?_ (fun x => x) (fun x => x)

theorem fwPart_keeps {s0 : State} {s : State} {k : Nat} {j : Nat} {data : List Byte} (kp : Keeps s0 s) :
    Keeps s0 (fwPart s k j data).2.2 := by
  unfold fwPart
  try dsimp only
  repeat' first
    | with_reducible assumption | with_reducible apply State.modSec_keeps | with_reducible apply notice_keeps | split
    | exact fun _ hx => (show Memory.wf _ = true from hx) | exact fun _ hx => Memory.write_wf _ _ _ hx | exact fun _ hx => Memory.clear_wf _ _ _ hx
    | exact fun _ hx => Memory.copy_wf _ _ _ _ _ hx
    | (intro _ hx; (first | show CtxOk _ | show TileOk _ | show Memory.wf _ = true); (repeat' first | exact hx | exact CtxOk.noSave rfl | exact Memory.write_wf _ _ _ hx | exact Memory.clear_wf _ _ _ hx | exact Memory.copy_wf _ _ _ _ _ hx | exact ⟨Memory.write_wf _ _ _ hx.1, hx.2⟩ | split | dsimp only); done)
    | intro _ _ _ | intro _ _ | intro _ | dsimp only | (rw [id_eq]) | with_reducible refine Keeps.put ?_ (fun x => x) (fun x => x)

theorem fwPart_keeps' {s0 : State} {s : State} {k : Nat} {j : Nat} {data : List Byte} {out : _} (eq : fwPart s k j data = out) (kp : Keeps s0 s) :
    Keeps s0 out.2.2 := eq ▸ fwPart_keeps kp

theorem execFwPart_keeps {s0 : State} {seq : BitVec 16} {block : BitVec 12} {part : BitVec 3} {data : List Byte} {s : State} (kp : Keeps s0 s) :
    KeepsN s0 (execFwPart seq block part data s) := by
  unfold execFwPart
  try dsimp only
  repeat' first
    | with_reducible assumption | with_reducible apply fwPart_keeps | refine fwPart_keeps' (out := (_, _, _)) (by with_reducible assumption) ?_
    | with_reducible apply svcRequest_keeps | with_reducible apply KeepsN.next | with_reducible apply KeepsN.fault | split
    | (intro _ hx; (first | show CtxOk _ | show TileOk _ | show Memory.wf _ = true); (repeat' first | exact hx | exact CtxOk.noSave rfl | split | dsimp only); done)
    | intro _ _ _ | intro _ _ | intro _ | dsimp only | (rw [id_eq]) | with_reducible refine Keeps.put ?_ (fun x => x) (fun x => x)

theorem fwEnd_keeps {s0 : State} {s : State} (kp : Keeps s0 s) :
    Keeps s0 (fwEnd s).2.2 := by
  unfold fwEnd
  try dsimp only
  repeat' first
    | with_reducible assumption | with_reducible apply State.modSec_keeps | with_reducible apply State.modSlot_keeps
    | with_reducible apply notice_keeps | split | exact fun _ hx => (show Memory.wf _ = true from hx) | exact fun _ hx => Memory.write_wf _ _ _ hx
    | exact fun _ hx => Memory.clear_wf _ _ _ hx | exact fun _ hx => Memory.copy_wf _ _ _ _ _ hx
    | (intro _ hx; (first | show CtxOk _ | show TileOk _ | show Memory.wf _ = true); (repeat' first | exact hx | exact CtxOk.noSave rfl | split | dsimp only); done)
    | intro _ _ _ | intro _ _ | intro _ | dsimp only | (rw [id_eq]) | with_reducible refine Keeps.put ?_ (fun x => x) (fun x => x)

theorem fwEnd_keeps' {s0 : State} {s : State} {out : _} (eq : fwEnd s = out) (kp : Keeps s0 s) :
    Keeps s0 out.2.2 := eq ▸ fwEnd_keeps kp

theorem execFwEnd_keeps {s0 : State} {seq : BitVec 16} {s : State} (kp : Keeps s0 s) :
    KeepsN s0 (execFwEnd seq s) := by
  unfold execFwEnd
  try dsimp only
  repeat' first
    | with_reducible assumption | with_reducible apply fwEnd_keeps | refine fwEnd_keeps' (out := (_, _, _)) (by with_reducible assumption) ?_
    | with_reducible apply svcRequest_keeps | with_reducible apply KeepsN.next | with_reducible apply KeepsN.fault | split
    | (intro _ hx; (first | show CtxOk _ | show TileOk _ | show Memory.wf _ = true); (repeat' first | exact hx | exact CtxOk.noSave rfl | split | dsimp only); done)
    | intro _ _ _ | intro _ _ | intro _ | dsimp only | (rw [id_eq]) | with_reducible refine Keeps.put ?_ (fun x => x) (fun x => x)

theorem recoveryActivate_keeps {s0 : State} {s : State} {seq : BitVec 16} {i : Nat} (kp : Keeps s0 s) :
    Keeps s0 (recoveryActivate s seq i) := by
  unfold recoveryActivate
  try dsimp only
  repeat' first
    | with_reducible assumption | with_reducible apply State.modSlot_keeps | with_reducible apply softReset_keeps
    | with_reducible apply svcAnswer_keeps | split
    | (intro _ hx; (first | show CtxOk _ | show TileOk _ | show Memory.wf _ = true); (repeat' first | exact hx | exact CtxOk.noSave rfl | split | dsimp only); done)
    | intro _ _ _ | intro _ _ | intro _ | dsimp only | (rw [id_eq]) | with_reducible refine Keeps.put ?_ (fun x => x) (fun x => x)

theorem execSvcActivate_keeps {s0 : State} {seq : BitVec 16} {arg : BitVec 32} {s : State} (kp : Keeps s0 s) :
    KeepsN s0 (execSvcActivate seq arg s) := by
  unfold execSvcActivate
  try dsimp only
  repeat' first
    | with_reducible assumption | with_reducible apply activate_keeps | refine activate_keeps' (out := (_, _)) (by with_reducible assumption) ?_
    | with_reducible apply recoveryActivate_keeps | with_reducible apply svcRequest_keeps | with_reducible apply KeepsN.next
    | with_reducible apply KeepsN.fault | split
    | (intro _ hx; (first | show CtxOk _ | show TileOk _ | show Memory.wf _ = true); (repeat' first | exact hx | exact CtxOk.noSave rfl | split | dsimp only); done)
    | intro _ _ _ | intro _ _ | intro _ | dsimp only | (rw [id_eq]) | with_reducible refine Keeps.put ?_ (fun x => x) (fun x => x)

theorem execSvcAttest_keeps {s0 : State} {seq : BitVec 16} {arg : BitVec 32} {nonce : List Byte} {s : State} (kp : Keeps s0 s) :
    KeepsN s0 (execSvcAttest seq arg nonce s) := by
  unfold execSvcAttest
  try dsimp only
  repeat' first
    | with_reducible assumption | with_reducible apply attest_keeps | refine attest_keeps' (out := (_, _, _)) (by with_reducible assumption) ?_
    | with_reducible apply svcRequest_keeps | with_reducible apply KeepsN.next | with_reducible apply KeepsN.fault | split
    | (intro _ hx; (first | show CtxOk _ | show TileOk _ | show Memory.wf _ = true); (repeat' first | exact hx | exact CtxOk.noSave rfl | split | dsimp only); done)
    | intro _ _ _ | intro _ _ | intro _ | dsimp only | (rw [id_eq]) | with_reducible refine Keeps.put ?_ (fun x => x) (fun x => x)

theorem execRecover_keeps {s0 : State} {seq : BitVec 16} {s : State} (kp : Keeps s0 s) :
    KeepsN s0 (execRecover seq s) := by
  unfold execRecover
  try dsimp only
  repeat' first
    | with_reducible assumption | with_reducible apply State.modSec_keeps | with_reducible apply svcRequest_keeps
    | with_reducible apply KeepsN.next | with_reducible apply KeepsN.fault | split | exact fun _ hx => (show Memory.wf _ = true from hx)
    | exact fun _ hx => Memory.write_wf _ _ _ hx | exact fun _ hx => Memory.clear_wf _ _ _ hx | exact fun _ hx => Memory.copy_wf _ _ _ _ _ hx
    | (intro _ hx; (first | show CtxOk _ | show TileOk _ | show Memory.wf _ = true); (repeat' first | exact hx | exact CtxOk.noSave rfl | split | dsimp only); done)
    | intro _ _ _ | intro _ _ | intro _ | dsimp only | (rw [id_eq]) | with_reducible refine Keeps.put ?_ (fun x => x) (fun x => x)

end Sys2Proof.Machine
end

