-- ==== Sys2Proof/Laws/KeepsLinkRx.lean ====
section
/-! SUPPORT. What each operation of Machine/LinkRx.lean keeps. -/

namespace Sys2Proof.Machine

open Sys2Proof.Safety

set_option linter.all false
set_option Elab.async false

theorem linkAck_keeps {s0 : State} {s : State} {l : Nat} {ack : Nat} (kp : Keeps s0 s) :
    Keeps s0 (linkAck s l ack) := by
  unfold linkAck
  try dsimp only
  repeat' first
    | with_reducible assumption | with_reducible apply State.each_keeps | with_reducible apply State.modLink_keeps
    | with_reducible apply ackFlit_keeps | split
    | (intro _ hx; (first | show CtxOk _ | show TileOk _ | show Memory.wf _ = true); (repeat' first | exact hx | exact CtxOk.noSave rfl | split | dsimp only); done)
    | intro _ _ _ | intro _ _ | intro _ | dsimp only | (rw [id_eq]) | with_reducible refine Keeps.put ?_ (fun x => x) (fun x => x)

theorem countCe_keeps {s0 : State} {s : State} {l : Nat} {n : Nat} (kp : Keeps s0 s) :
    Keeps s0 (countCe s l n) := by
  unfold countCe
  try dsimp only
  repeat' first
    | with_reducible assumption | with_reducible apply State.addFld_keeps | with_reducible apply State.modLink_keeps
    | with_reducible apply goDown_keeps | split
    | (intro _ hx; (first | show CtxOk _ | show TileOk _ | show Memory.wf _ = true); (repeat' first | exact hx | exact CtxOk.noSave rfl | split | dsimp only); done)
    | intro _ _ _ | intro _ _ | intro _ | dsimp only | (rw [id_eq]) | with_reducible refine Keeps.put ?_ (fun x => x) (fun x => x)

theorem countBad_keeps {s0 : State} {s : State} {l : Nat} (kp : Keeps s0 s) :
    Keeps s0 (countBad s l) := by
  unfold countBad
  try dsimp only
  repeat' first
    | with_reducible assumption | with_reducible apply State.addFld_keeps | with_reducible apply State.modLink_keeps
    | with_reducible apply startFast_keeps | split
    | (intro _ hx; (first | show CtxOk _ | show TileOk _ | show Memory.wf _ = true); (repeat' first | exact hx | exact CtxOk.noSave rfl | split | dsimp only); done)
    | intro _ _ _ | intro _ _ | intro _ | dsimp only | (rw [id_eq]) | with_reducible refine Keeps.put ?_ (fun x => x) (fun x => x)

theorem drainRx_keeps {s0 : State} {s : State} {l : Nat} {slot : Nat} (kp : Keeps s0 s) :
    Keeps s0 (drainRx s l slot) := by
  unfold drainRx
  try dsimp only
  repeat' first
    | with_reducible assumption | with_reducible apply State.modLink_keeps | split
    | (intro _ hx; (first | show CtxOk _ | show TileOk _ | show Memory.wf _ = true); (repeat' first | exact hx | exact CtxOk.noSave rfl | split | dsimp only); done)
    | intro _ _ _ | intro _ _ | intro _ | dsimp only | (rw [id_eq]) | with_reducible refine Keeps.put ?_ (fun x => x) (fun x => x)

theorem takeVc0_keeps {s0 : State} {s : State} {l : Nat} {slot : Nat} {fn : Nat} {type : Nat} {payload : List Byte} {signal : Option (Nat × BitVec 32)} (kp : Keeps s0 s) :
    Keeps s0 (takeVc0 s l slot fn type payload signal) := by
  unfold takeVc0
  try dsimp only
  repeat' first
    | with_reducible assumption | with_reducible apply State.addFld_keeps | with_reducible apply State.modLink_keeps | split
    | (intro _ hx; (first | show CtxOk _ | show TileOk _ | show Memory.wf _ = true); (repeat' first | exact hx | exact CtxOk.noSave rfl | split | dsimp only); done)
    | intro _ _ _ | intro _ _ | intro _ | dsimp only | (rw [id_eq]) | with_reducible refine Keeps.put ?_ (fun x => x) (fun x => x)

theorem takePacketFlit_keeps {s0 : State} {s : State} {l : Nat} {vc : Nat} {slot : Nat} {fn : Nat} {epoch : Bool} {first : Bool} {payload : List Byte} (kp : Keeps s0 s) :
    Keeps s0 (takePacketFlit s l vc slot fn epoch first payload) := by
  unfold takePacketFlit
  try dsimp only
  repeat' first
    | with_reducible assumption | with_reducible apply State.modLink_keeps | split
    | (intro _ hx; (first | show CtxOk _ | show TileOk _ | show Memory.wf _ = true); (repeat' first | exact hx | exact CtxOk.noSave rfl | split | dsimp only); done)
    | intro _ _ _ | intro _ _ | intro _ | dsimp only | (rw [id_eq]) | with_reducible refine Keeps.put ?_ (fun x => x) (fun x => x)

theorem takeFlitAt_keeps {s0 : State} {s : State} {l : Nat} {slot : Nat} {fn : Nat} {h : Nat} {type : Nat} {payload : List Byte} {signal : Option (Nat × BitVec 32)} (kp : Keeps s0 s) :
    Keeps s0 (takeFlitAt s l slot fn h type payload signal) := by
  unfold takeFlitAt
  try dsimp only
  repeat' first
    | with_reducible assumption | with_reducible apply State.modLink_keeps | with_reducible apply drainRx_keeps
    | with_reducible apply takePacketFlit_keeps | with_reducible apply takeVc0_keeps | split
    | (intro _ hx; (first | show CtxOk _ | show TileOk _ | show Memory.wf _ = true); (repeat' first | exact hx | exact CtxOk.noSave rfl | split | dsimp only); done)
    | intro _ _ _ | intro _ _ | intro _ | dsimp only | (rw [id_eq]) | with_reducible refine Keeps.put ?_ (fun x => x) (fun x => x)

theorem flitReceive_keeps {s0 : State} {s : State} {l : Nat} {slot : Nat} {flit : List Byte} {signal : Option (Nat × BitVec 32)} (kp : Keeps s0 s) :
    Keeps s0 (flitReceive s l slot flit signal) := by
  unfold flitReceive
  try dsimp only
  repeat' first
    | with_reducible assumption | with_reducible apply State.modLink_keeps | with_reducible apply countBad_keeps
    | with_reducible apply countCe_keeps | with_reducible apply linkAck_keeps | with_reducible apply takeFlitAt_keeps | split
    | (intro _ hx; (first | show CtxOk _ | show TileOk _ | show Memory.wf _ = true); (repeat' first | exact hx | exact CtxOk.noSave rfl | split | dsimp only); done)
    | intro _ _ _ | intro _ _ | intro _ | dsimp only | (rw [id_eq]) | with_reducible refine Keeps.put ?_ (fun x => x) (fun x => x)

theorem execVc0FlitReceive_keeps {s0 : State} {l : LinkIx} {slot : Fin 62} {flit : List Byte} {signal : Option (BitVec 6 × BitVec 32)} {s : State} (kp : Keeps s0 s) :
    KeepsN s0 (execVc0FlitReceive l slot flit signal s) := by
  unfold execVc0FlitReceive
  try dsimp only
  repeat' first
    | with_reducible assumption | with_reducible apply flitReceive_keeps | with_reducible apply KeepsN.next | with_reducible apply KeepsN.fault
    | split
    | (intro _ hx; (first | show CtxOk _ | show TileOk _ | show Memory.wf _ = true); (repeat' first | exact hx | exact CtxOk.noSave rfl | split | dsimp only); done)
    | intro _ _ _ | intro _ _ | intro _ | dsimp only | (rw [id_eq]) | with_reducible refine Keeps.put ?_ (fun x => x) (fun x => x)

theorem replayReceive_keeps {s0 : State} {s : State} {l : Nat} {orig : Nat} {flit : List Byte} {signal : Option (Nat × BitVec 32)} (kp : Keeps s0 s) :
    Keeps s0 (replayReceive s l orig flit signal) := by
  unfold replayReceive
  try dsimp only
  repeat' first
    | with_reducible assumption | with_reducible apply State.modLink_keeps | with_reducible apply countBad_keeps
    | with_reducible apply countCe_keeps | with_reducible apply linkAck_keeps | with_reducible apply takeFlitAt_keeps | split
    | (intro _ hx; (first | show CtxOk _ | show TileOk _ | show Memory.wf _ = true); (repeat' first | exact hx | exact CtxOk.noSave rfl | split | dsimp only); done)
    | intro _ _ _ | intro _ _ | intro _ | dsimp only | (rw [id_eq]) | with_reducible refine Keeps.put ?_ (fun x => x) (fun x => x)

theorem execReplayFlitReceive_keeps {s0 : State} {l : LinkIx} {orig : BitVec 6} {flit : List Byte} {signal : Option (BitVec 6 × BitVec 32)} {s : State} (kp : Keeps s0 s) :
    KeepsN s0 (execReplayFlitReceive l orig flit signal s) := by
  unfold execReplayFlitReceive
  try dsimp only
  repeat' first
    | with_reducible assumption | with_reducible apply replayReceive_keeps | with_reducible apply KeepsN.next | with_reducible apply KeepsN.fault
    | split
    | (intro _ hx; (first | show CtxOk _ | show TileOk _ | show Memory.wf _ = true); (repeat' first | exact hx | exact CtxOk.noSave rfl | split | dsimp only); done)
    | intro _ _ _ | intro _ _ | intro _ | dsimp only | (rw [id_eq]) | with_reducible refine Keeps.put ?_ (fun x => x) (fun x => x)

theorem takeStamp_keeps {s0 : State} {s : State} {l : Nat} {stamp : Nat} {part : Nat} {gen : Nat} (kp : Keeps s0 s) :
    Keeps s0 (takeStamp s l stamp part gen) := by
  unfold takeStamp
  try dsimp only
  repeat' first
    | with_reducible assumption | with_reducible apply State.modPlan_keeps | split
    | (intro _ hx; (first | show CtxOk _ | show TileOk _ | show Memory.wf _ = true); (repeat' first | exact hx | exact CtxOk.noSave rfl | split | dsimp only); done)
    | intro _ _ _ | intro _ _ | intro _ | dsimp only | (rw [id_eq]) | with_reducible refine Keeps.put ?_ (fun x => x) (fun x => x)

theorem takeNak_keeps {s0 : State} {s : State} {l : Nat} {fn : Nat} {slot : Nat} (kp : Keeps s0 s) :
    Keeps s0 (takeNak s l fn slot) := by
  unfold takeNak
  try dsimp only
  repeat' first
    | with_reducible assumption | with_reducible apply State.modLink_keeps | with_reducible apply startFast_keeps | split
    | (intro _ hx; (first | show CtxOk _ | show TileOk _ | show Memory.wf _ = true); (repeat' first | exact hx | exact CtxOk.noSave rfl | split | dsimp only); done)
    | intro _ _ _ | intro _ _ | intro _ | dsimp only | (rw [id_eq]) | with_reducible refine Keeps.put ?_ (fun x => x) (fun x => x)

theorem hearRoot_keeps {s0 : State} {s : State} {l : Nat} (kp : Keeps s0 s) :
    Keeps s0 (hearRoot s l) := by
  unfold hearRoot
  try dsimp only
  repeat' first
    | with_reducible assumption | with_reducible apply State.chooseParent_keeps | with_reducible apply State.setBit_keeps
    | with_reducible apply notice_keeps | split
    | (intro _ hx; (first | show CtxOk _ | show TileOk _ | show Memory.wf _ = true); (repeat' first | exact hx | exact CtxOk.noSave rfl | split | dsimp only); done)
    | intro _ _ _ | intro _ _ | intro _ | dsimp only | (rw [id_eq]) | with_reducible refine Keeps.put ?_ (fun x => x) (fun x => x)

theorem timeTake_keeps {s0 : State} {s : State} {off : Int} (kp : Keeps s0 s) :
    Keeps s0 (timeTake s off) := by
  unfold timeTake
  try dsimp only
  repeat' first
    | with_reducible assumption | with_reducible apply State.setFld_keeps | with_reducible apply notice_keeps | split
    | (intro _ hx; (first | show CtxOk _ | show TileOk _ | show Memory.wf _ = true); (repeat' first | exact hx | exact CtxOk.noSave rfl | split | dsimp only); done)
    | intro _ _ _ | intro _ _ | intro _ | dsimp only | (rw [id_eq]) | with_reducible refine Keeps.put ?_ (fun x => x) (fun x => x)

theorem exchange_keeps {s0 : State} {s : State} {l : Nat} {fn : Nat} {echoFn : Nat} {turn : Nat} (kp : Keeps s0 s) :
    Keeps s0 (exchange s l fn echoFn turn) := by
  unfold exchange
  try dsimp only
  repeat' first
    | with_reducible assumption | with_reducible apply State.modLink_keeps | with_reducible apply timeTake_keeps | split
    | (intro _ hx; (first | show CtxOk _ | show TileOk _ | show Memory.wf _ = true); (repeat' first | exact hx | exact CtxOk.noSave rfl | split | dsimp only); done)
    | intro _ _ _ | intro _ _ | intro _ | dsimp only | (rw [id_eq]) | with_reducible refine Keeps.put ?_ (fun x => x) (fun x => x)

theorem takeSub_keeps {s0 : State} {s : State} {l : Nat} {fn : Nat} {sub : Nat} {arrival : Nat} (kp : Keeps s0 s) :
    Keeps s0 (takeSub s l fn sub arrival) := by
  unfold takeSub
  try dsimp only
  repeat' first
    | with_reducible assumption | with_reducible apply State.modLink_keeps | with_reducible apply exchange_keeps
    | with_reducible apply hearRoot_keeps | split
    | (intro _ hx; (first | show CtxOk _ | show TileOk _ | show Memory.wf _ = true); (repeat' first | exact hx | exact CtxOk.noSave rfl | split | dsimp only); done)
    | intro _ _ _ | intro _ _ | intro _ | dsimp only | (rw [id_eq]) | with_reducible refine Keeps.put ?_ (fun x => x) (fun x => x)

theorem controlReceive_keeps {s0 : State} {s : State} {l : Nat} {fn : Nat} {ack : Nat} {p : Nat} {arrival : Nat} (kp : Keeps s0 s) :
    Keeps s0 (controlReceive s l fn ack p arrival) := by
  unfold controlReceive
  try dsimp only
  repeat' first
    | with_reducible assumption | with_reducible apply State.each_keeps | with_reducible apply State.modLink_keeps
    | with_reducible apply followFull_keeps | with_reducible apply linkAck_keeps | with_reducible apply startFast_keeps
    | with_reducible apply takeNak_keeps | with_reducible apply takeStamp_keeps | with_reducible apply takeSub_keeps | split
    | (intro _ hx; (first | show CtxOk _ | show TileOk _ | show Memory.wf _ = true); (repeat' first | exact hx | exact CtxOk.noSave rfl | split | dsimp only); done)
    | intro _ _ _ | intro _ _ | intro _ | dsimp only | (rw [id_eq]) | with_reducible refine Keeps.put ?_ (fun x => x) (fun x => x)

theorem controlFlit_keeps {s0 : State} {s : State} {l : Nat} {flit : List Byte} {arrival : Nat} (kp : Keeps s0 s) :
    Keeps s0 (controlFlit s l flit arrival) := by
  unfold controlFlit
  try dsimp only
  repeat' first
    | with_reducible assumption | with_reducible apply State.modLink_keeps | with_reducible apply controlReceive_keeps
    | with_reducible apply countBad_keeps | with_reducible apply countCe_keeps | split
    | (intro _ hx; (first | show CtxOk _ | show TileOk _ | show Memory.wf _ = true); (repeat' first | exact hx | exact CtxOk.noSave rfl | split | dsimp only); done)
    | intro _ _ _ | intro _ _ | intro _ | dsimp only | (rw [id_eq]) | with_reducible refine Keeps.put ?_ (fun x => x) (fun x => x)

theorem execLinkControlFlit_keeps {s0 : State} {l : LinkIx} {flit : List Byte} {arrival : Nat} {s : State} (kp : Keeps s0 s) :
    KeepsN s0 (execLinkControlFlit l flit arrival s) := by
  unfold execLinkControlFlit
  try dsimp only
  repeat' first
    | with_reducible assumption | with_reducible apply controlFlit_keeps | with_reducible apply KeepsN.next | with_reducible apply KeepsN.fault
    | split
    | (intro _ hx; (first | show CtxOk _ | show TileOk _ | show Memory.wf _ = true); (repeat' first | exact hx | exact CtxOk.noSave rfl | split | dsimp only); done)
    | intro _ _ _ | intro _ _ | intro _ | dsimp only | (rw [id_eq]) | with_reducible refine Keeps.put ?_ (fun x => x) (fun x => x)

theorem fastComplete_keeps {s0 : State} {s : State} {l : Nat} {rxGood : BitVec 34} {txGood : BitVec 34} {farAck : Nat} (kp : Keeps s0 s) :
    Keeps s0 (fastComplete s l rxGood txGood farAck) := by
  unfold fastComplete
  try dsimp only
  repeat' first
    | with_reducible assumption | with_reducible apply State.modLink_keeps | with_reducible apply applyTaps_keeps
    | with_reducible apply comeUp_keeps | with_reducible apply linkAck_keeps | with_reducible apply nextFailing_keeps
    | with_reducible apply startFull_keeps | split
    | (intro _ hx; (first | show CtxOk _ | show TileOk _ | show Memory.wf _ = true); (repeat' first | exact hx | exact CtxOk.noSave rfl | split | dsimp only); done)
    | intro _ _ _ | intro _ _ | intro _ | dsimp only | (rw [id_eq]) | with_reducible refine Keeps.put ?_ (fun x => x) (fun x => x)

theorem execFastRetrainComplete_keeps {s0 : State} {l : LinkIx} {rxGood : BitVec 34} {txGood : BitVec 34} {farAck : BitVec 12} {s : State} (kp : Keeps s0 s) :
    KeepsN s0 (execFastRetrainComplete l rxGood txGood farAck s) := by
  unfold execFastRetrainComplete
  try dsimp only
  repeat' first
    | with_reducible assumption | with_reducible apply fastComplete_keeps | with_reducible apply KeepsN.next | with_reducible apply KeepsN.fault
    | split
    | (intro _ hx; (first | show CtxOk _ | show TileOk _ | show Memory.wf _ = true); (repeat' first | exact hx | exact CtxOk.noSave rfl | split | dsimp only); done)
    | intro _ _ _ | intro _ _ | intro _ | dsimp only | (rw [id_eq]) | with_reducible refine Keeps.put ?_ (fun x => x) (fun x => x)

end Sys2Proof.Machine
end

