-- ==== Sys2Proof/Laws/KeepsLinkTx.lean ====
section
/-! SUPPORT. What each operation of Machine/LinkTx.lean keeps. -/

namespace Sys2Proof.Machine

open Sys2Proof.Safety

set_option linter.all false
set_option Elab.async false

theorem sendUe_keeps {s0 : State} {s : State} {l : Nat} {ws : List Wire} (kp : Keeps s0 s) :
    Keeps s0 (sendUe s l ws) := by
  unfold sendUe
  try dsimp only
  repeat' first
    | with_reducible assumption | with_reducible apply against_keeps | split
    | (intro _ hx; (first | show CtxOk _ | show TileOk _ | show Memory.wf _ = true); (repeat' first | exact hx | exact CtxOk.noSave rfl | split | dsimp only); done)
    | intro _ _ _ | intro _ _ | intro _ | dsimp only | (rw [id_eq]) | with_reducible refine Keeps.put ?_ (fun x => x) (fun x => x)

theorem frameSend_keeps {s0 s : State} {l : Nat} {bad : List Nat} (h : Keeps s0 s) : Keeps s0 (frameSend s l bad) := by
  unfold frameSend
  extract_lets +onlyGivenNames x
  split
  · exact h
  · split
    · exact startFast_keeps h
    · have h1 := State.draw_keeps h
      generalize s.draw = p at h1 ⊢
      obtain ⟨w, s1⟩ := p
      dsimp only
      have h1 : Keeps s0 s1 := h1
      refine sendUe_keeps (State.emit_keeps ?_)
      have key : ∀ p : Prop, ∀ [Decidable p], ∀ a : State, ∀ n, Keeps s0 a → Keeps s0 (if p then a else a.addFld .lnkReplays [l] 0 32 n) := by
        intro p _ a n ha
        split
        · exact ha
        · exact State.addFld_keeps ha
      refine key _ _ _ (State.each_keeps ?_ fun _ _ hs => State.freeFlits_keeps hs)
      exact State.modLink_keeps (State.modLink_keeps h1)

theorem execFrameSend_keeps {s0 : State} {l : LinkIx} {bad : List Nat} {s : State} (kp : Keeps s0 s) :
    KeepsN s0 (execFrameSend l bad s) := by
  unfold execFrameSend
  try dsimp only
  repeat' first
    | with_reducible assumption | with_reducible apply frameSend_keeps | with_reducible apply KeepsN.next | with_reducible apply KeepsN.fault
    | split
    | (intro _ hx; (first | show CtxOk _ | show TileOk _ | show Memory.wf _ = true); (repeat' first | exact hx | exact CtxOk.noSave rfl | split | dsimp only); done)
    | intro _ _ _ | intro _ _ | intro _ | dsimp only | (rw [id_eq]) | with_reducible refine Keeps.put ?_ (fun x => x) (fun x => x)

theorem replayTimer_keeps {s0 : State} {s : State} {l : Nat} {fn : Nat} (kp : Keeps s0 s) :
    Keeps s0 (replayTimer s l fn) := by
  unfold replayTimer
  try dsimp only
  repeat' first
    | with_reducible assumption | with_reducible apply State.addFld_keeps | with_reducible apply State.modLink_keeps
    | with_reducible apply startFast_keeps | split
    | (intro _ hx; (first | show CtxOk _ | show TileOk _ | show Memory.wf _ = true); (repeat' first | exact hx | exact CtxOk.noSave rfl | split | dsimp only); done)
    | intro _ _ _ | intro _ _ | intro _ | dsimp only | (rw [id_eq]) | with_reducible refine Keeps.put ?_ (fun x => x) (fun x => x)

theorem execReplayTimerExpiry_keeps {s0 : State} {l : LinkIx} {fn : BitVec 12} {s : State} (kp : Keeps s0 s) :
    KeepsN s0 (execReplayTimerExpiry l fn s) := by
  unfold execReplayTimerExpiry
  try dsimp only
  repeat' first
    | with_reducible assumption | with_reducible apply replayTimer_keeps | with_reducible apply KeepsN.next | with_reducible apply KeepsN.fault
    | split
    | (intro _ hx; (first | show CtxOk _ | show TileOk _ | show Memory.wf _ = true); (repeat' first | exact hx | exact CtxOk.noSave rfl | split | dsimp only); done)
    | intro _ _ _ | intro _ _ | intro _ | dsimp only | (rw [id_eq]) | with_reducible refine Keeps.put ?_ (fun x => x) (fun x => x)

theorem execAckStall_keeps {s0 : State} {l : LinkIx} {s : State} (kp : Keeps s0 s) :
    KeepsN s0 (execAckStall l s) := by
  unfold execAckStall
  try dsimp only
  repeat' first
    | with_reducible assumption | with_reducible apply startFast_keeps | with_reducible apply KeepsN.next | with_reducible apply KeepsN.fault
    | split
    | (intro _ hx; (first | show CtxOk _ | show TileOk _ | show Memory.wf _ = true); (repeat' first | exact hx | exact CtxOk.noSave rfl | split | dsimp only); done)
    | intro _ _ _ | intro _ _ | intro _ | dsimp only | (rw [id_eq]) | with_reducible refine Keeps.put ?_ (fun x => x) (fun x => x)

end Sys2Proof.Machine
end

