-- ==== Sys2Proof/Laws/KeepsPins.lean ====
section
/-! SUPPORT. What each operation of Machine/Pins.lean keeps. -/

namespace Sys2Proof.Machine

open Sys2Proof.Safety

set_option linter.all false
set_option Elab.async false

theorem State.modPins_keeps {s0 : State} {s : State} {f : Pins → Pins} (kp : Keeps s0 s) :
    Keeps s0 (State.modPins s f) := by
  unfold State.modPins
  try dsimp only
  repeat' first
    | with_reducible assumption | with_reducible apply hf | split
    | (intro _ hx; (first | show CtxOk _ | show TileOk _ | show Memory.wf _ = true); (repeat' first | exact hx | exact CtxOk.noSave rfl | split | dsimp only); done)
    | intro _ _ _ | intro _ _ | intro _ | dsimp only | (rw [id_eq]) | with_reducible refine Keeps.put ?_ (fun x => x) (fun x => x)

theorem execPorstRelease_keeps {s0 : State} {s : State} (kp : Keeps s0 s) :
    KeepsN s0 (execPorstRelease s) := by
  unfold execPorstRelease
  try dsimp only
  repeat' first
    | with_reducible assumption | with_reducible apply State.modPins_keeps | with_reducible apply KeepsN.next | with_reducible apply KeepsN.fault
    | split
    | (intro _ hx; (first | show CtxOk _ | show TileOk _ | show Memory.wf _ = true); (repeat' first | exact hx | exact CtxOk.noSave rfl | split | dsimp only); done)
    | intro _ _ _ | intro _ _ | intro _ | dsimp only | (rw [id_eq]) | with_reducible refine Keeps.put ?_ (fun x => x) (fun x => x)

theorem railGood_keeps {s0 : State} {s : State} {rail : Nat} (kp : Keeps s0 s) :
    Keeps s0 (railGood s rail) := by
  unfold railGood
  try dsimp only
  repeat' first
    | with_reducible assumption | with_reducible apply State.modPins_keeps | split
    | (intro _ hx; (first | show CtxOk _ | show TileOk _ | show Memory.wf _ = true); (repeat' first | exact hx | exact CtxOk.noSave rfl | split | dsimp only); done)
    | intro _ _ _ | intro _ _ | intro _ | dsimp only | (rw [id_eq]) | with_reducible refine Keeps.put ?_ (fun x => x) (fun x => x)

theorem execRailPowerGood_keeps {s0 : State} {rail : Fin 7} {s : State} (kp : Keeps s0 s) :
    KeepsN s0 (execRailPowerGood rail s) := by
  unfold execRailPowerGood
  try dsimp only
  repeat' first
    | with_reducible assumption | with_reducible apply railGood_keeps | with_reducible apply KeepsN.next | with_reducible apply KeepsN.fault
    | split
    | (intro _ hx; (first | show CtxOk _ | show TileOk _ | show Memory.wf _ = true); (repeat' first | exact hx | exact CtxOk.noSave rfl | split | dsimp only); done)
    | intro _ _ _ | intro _ _ | intro _ | dsimp only | (rw [id_eq]) | with_reducible refine Keeps.put ?_ (fun x => x) (fun x => x)

theorem State.railsOff_keeps {s0 : State} {s : State} {fault : Nat} (kp : Keeps s0 s) :
    Keeps s0 (State.railsOff s fault) := by
  unfold State.railsOff
  try dsimp only
  repeat' first
    | with_reducible assumption | with_reducible apply State.modClk_keeps | with_reducible apply State.modPins_keeps | split
    | (intro _ hx; (first | show CtxOk _ | show TileOk _ | show Memory.wf _ = true); (repeat' first | exact hx | exact CtxOk.noSave rfl | split | dsimp only); done)
    | intro _ _ _ | intro _ _ | intro _ | dsimp only | (rw [id_eq]) | with_reducible refine Keeps.put ?_ (fun x => x) (fun x => x)

theorem execRailPowerGoodTimeout_keeps {s0 : State} {rail : Fin 7} {s : State} (kp : Keeps s0 s) :
    KeepsN s0 (execRailPowerGoodTimeout rail s) := by
  unfold execRailPowerGoodTimeout
  try dsimp only
  repeat' first
    | with_reducible assumption | with_reducible apply State.railsOff_keeps | with_reducible apply KeepsN.next | with_reducible apply KeepsN.fault
    | split
    | (intro _ hx; (first | show CtxOk _ | show TileOk _ | show Memory.wf _ = true); (repeat' first | exact hx | exact CtxOk.noSave rfl | split | dsimp only); done)
    | intro _ _ _ | intro _ _ | intro _ | dsimp only | (rw [id_eq]) | with_reducible refine Keeps.put ?_ (fun x => x) (fun x => x)

theorem stopChip_keeps {s0 s : State} {fault : Nat} (h : Keeps s0 s) : Keeps s0 (stopChip s fault) := by
  unfold stopChip
  extract_lets +onlyGivenNames s1
  have h1 : Keeps s0 s1 := by
    refine State.each_keeps h fun s k hs => ?_
    dsimp only
    split
    · exact hs
    · exact endPlan_keeps hs
  exact State.railsOff_keeps (State.modFlt_keeps h1.noLinks)

theorem execPowerGoodLoss_keeps {s0 : State} {rail : Fin 7} {s : State} (kp : Keeps s0 s) :
    KeepsN s0 (execPowerGoodLoss rail s) := by
  unfold execPowerGoodLoss
  try dsimp only
  repeat' first
    | with_reducible assumption | with_reducible apply stopChip_keeps | with_reducible apply KeepsN.next | with_reducible apply KeepsN.fault
    | split
    | (intro _ hx; (first | show CtxOk _ | show TileOk _ | show Memory.wf _ = true); (repeat' first | exact hx | exact CtxOk.noSave rfl | split | dsimp only); done)
    | intro _ _ _ | intro _ _ | intro _ | dsimp only | (rw [id_eq]) | with_reducible refine Keeps.put ?_ (fun x => x) (fun x => x)

theorem execPmbAlert_keeps {s0 : State} {rail : Fin 7} {current : BitVec 16} {s : State} (kp : Keeps s0 s) :
    KeepsN s0 (execPmbAlert rail current s) := by
  unfold execPmbAlert
  try dsimp only
  repeat' first
    | with_reducible assumption | with_reducible apply State.modPins_keeps | with_reducible apply KeepsN.next | with_reducible apply KeepsN.fault
    | split
    | (intro _ hx; (first | show CtxOk _ | show TileOk _ | show Memory.wf _ = true); (repeat' first | exact hx | exact CtxOk.noSave rfl | split | dsimp only); done)
    | intro _ _ _ | intro _ _ | intro _ | dsimp only | (rw [id_eq]) | with_reducible refine Keeps.put ?_ (fun x => x) (fun x => x)

theorem latchStraps_keeps {s0 : State} {s : State} (kp : Keeps s0 s) :
    Keeps s0 (latchStraps s) := by
  unfold latchStraps
  try dsimp only
  repeat' first
    | with_reducible assumption | with_reducible apply State.setRg_keeps | split
    | (intro _ hx; (first | show CtxOk _ | show TileOk _ | show Memory.wf _ = true); (repeat' first | exact hx | exact CtxOk.noSave rfl | split | dsimp only); done)
    | intro _ _ _ | intro _ _ | intro _ | dsimp only | (rw [id_eq]) | with_reducible refine Keeps.put ?_ (fun x => x) (fun x => x)

theorem selfTest_keeps {s0 : State} {s : State} {found : PowerUpFindings} (kp : Keeps s0 s) :
    Keeps s0 (selfTest s found) := by
  unfold selfTest
  try dsimp only
  repeat' first
    | with_reducible assumption | with_reducible apply State.each_keeps | with_reducible apply State.modHbm_keeps
    | with_reducible apply State.modTile_keeps | with_reducible apply State.setRg_keeps | with_reducible apply notice_keeps | split
    | exact fun _ (hx : TileOk _) => hx | exact fun _ hx => (show Memory.wf _ = true from hx)
    | exact fun _ (hx : TileOk _) => ⟨Memory.write_wf _ _ _ hx.1, hx.2⟩ | exact fun _ (hx : TileOk _) => ⟨writeRanges_wf _ _ _ hx.1, hx.2⟩
    | exact fun _ (hx : TileOk _) => ⟨writeTensor_wf _ _ _ _ hx.1, hx.2⟩ | exact fun _ hx => Memory.write_wf _ _ _ hx
    | exact fun _ hx => Memory.clear_wf _ _ _ hx | exact fun _ hx => Memory.copy_wf _ _ _ _ _ hx
    | (intro _ hx; (first | show CtxOk _ | show TileOk _ | show Memory.wf _ = true); (repeat' first | exact hx | exact CtxOk.noSave rfl | split | dsimp only); done)
    | intro _ _ _ | intro _ _ | intro _ | dsimp only | (rw [id_eq]) | with_reducible refine Keeps.put ?_ (fun x => x) (fun x => x)

theorem startUp_keeps {s0 : State} {s : State} (kp : Keeps s0 s) :
    Keeps s0 (startUp s) := by
  unfold startUp
  try dsimp only
  repeat' first
    | with_reducible assumption | with_reducible apply State.modClk_keeps | with_reducible apply State.modFlt_keeps
    | with_reducible apply State.modPins_keeps | with_reducible apply State.setBit_keeps | with_reducible apply boot_keeps | split
    | (intro _ hx; (first | show CtxOk _ | show TileOk _ | show Memory.wf _ = true); (repeat' first | exact hx | exact CtxOk.noSave rfl | split | dsimp only); done)
    | intro _ _ _ | intro _ _ | intro _ | dsimp only | (rw [id_eq]) | with_reducible refine Keeps.put ?_ (fun x => x) (fun x => x)

theorem bringUp_keeps {s0 : State} {s : State} {found : PowerUpFindings} (kp : Keeps s0 s) :
    Keeps s0 (bringUp s found) := by
  unfold bringUp
  try dsimp only
  repeat' first
    | with_reducible assumption | with_reducible apply State.modPins_keeps | with_reducible apply State.setBit_keeps
    | with_reducible apply latchStraps_keeps | with_reducible apply selfTest_keeps | with_reducible apply startUp_keeps | split
    | (intro _ hx; (first | show CtxOk _ | show TileOk _ | show Memory.wf _ = true); (repeat' first | exact hx | exact CtxOk.noSave rfl | split | dsimp only); done)
    | intro _ _ _ | intro _ _ | intro _ | dsimp only | (rw [id_eq]) | with_reducible refine Keeps.put ?_ (fun x => x) (fun x => x)

theorem execResetRelease_keeps {s0 : State} {found : PowerUpFindings} {s : State} (kp : Keeps s0 s) :
    KeepsN s0 (execResetRelease found s) := by
  unfold execResetRelease
  try dsimp only
  repeat' first
    | with_reducible assumption | with_reducible apply State.modPins_keeps | with_reducible apply bringUp_keeps | with_reducible apply KeepsN.next
    | with_reducible apply KeepsN.fault | split
    | (intro _ hx; (first | show CtxOk _ | show TileOk _ | show Memory.wf _ = true); (repeat' first | exact hx | exact CtxOk.noSave rfl | split | dsimp only); done)
    | intro _ _ _ | intro _ _ | intro _ | dsimp only | (rw [id_eq]) | with_reducible refine Keeps.put ?_ (fun x => x) (fun x => x)

theorem execRef156Retry_keeps {s0 : State} {found : PowerUpFindings} {s : State} (kp : Keeps s0 s) :
    KeepsN s0 (execRef156Retry found s) := by
  unfold execRef156Retry
  try dsimp only
  repeat' first
    | with_reducible assumption | with_reducible apply bringUp_keeps | with_reducible apply KeepsN.next | with_reducible apply KeepsN.fault | split
    | (intro _ hx; (first | show CtxOk _ | show TileOk _ | show Memory.wf _ = true); (repeat' first | exact hx | exact CtxOk.noSave rfl | split | dsimp only); done)
    | intro _ _ _ | intro _ _ | intro _ | dsimp only | (rw [id_eq]) | with_reducible refine Keeps.put ?_ (fun x => x) (fun x => x)

theorem execChipReset_keeps {s0 : State} {s : State} (kp : Keeps s0 s) :
    KeepsN s0 (execChipReset s) := by
  unfold execChipReset
  try dsimp only
  repeat' first
    | with_reducible assumption | with_reducible apply State.modPins_keeps | with_reducible apply chipReset_keeps
    | with_reducible apply KeepsN.next | with_reducible apply KeepsN.fault | split
    | (intro _ hx; (first | show CtxOk _ | show TileOk _ | show Memory.wf _ = true); (repeat' first | exact hx | exact CtxOk.noSave rfl | split | dsimp only); done)
    | intro _ _ _ | intro _ _ | intro _ | dsimp only | (rw [id_eq]) | with_reducible refine Keeps.put ?_ (fun x => x) (fun x => x)

theorem execPorstAssert_keeps {s0 : State} {s : State} (kp : Keeps s0 s) :
    KeepsN s0 (execPorstAssert s) := by
  unfold execPorstAssert
  try dsimp only
  repeat' first
    | with_reducible assumption | with_reducible apply State.modFlt_keeps | with_reducible apply chipReset_keeps | with_reducible apply KeepsN.next
    | with_reducible apply KeepsN.fault | split
    | (intro _ hx; (first | show CtxOk _ | show TileOk _ | show Memory.wf _ = true); (repeat' first | exact hx | exact CtxOk.noSave rfl | split | dsimp only); done)
    | intro _ _ _ | intro _ _ | intro _ | dsimp only | (rw [id_eq]) | with_reducible refine Keeps.put ?_ (fun x => x) (fun x => x)

theorem i3cAnswer_keeps {s0 s : State} {bytes : List Byte} (h : Keeps s0 s) : KeepsN s0 (i3cAnswer s bytes) := by
  unfold i3cAnswer
  split
  · exact KeepsN.next (State.emit_keeps h)
  · exact KeepsN.next h

theorem execI3cStatus_keeps {s0 s : State} (h : Keeps s0 s) : KeepsN s0 (execI3cStatus s) := i3cAnswer_keeps h

theorem execI3cPower_keeps {s0 s : State} {packagePower : BitVec 16} (h : Keeps s0 s) : KeepsN s0 (execI3cPower packagePower s) := i3cAnswer_keeps h

theorem execI3cThermal_keeps {s0 s : State} {vaultTemp : Byte} (h : Keeps s0 s) : KeepsN s0 (execI3cThermal vaultTemp s) := i3cAnswer_keeps h

theorem execI3cAlive_keeps {s0 s : State} (h : Keeps s0 s) : KeepsN s0 (execI3cAlive s) := i3cAnswer_keeps h

theorem execI3cReset_keeps {s0 : State} {b : Byte} {s : State} (kp : Keeps s0 s) :
    KeepsN s0 (execI3cReset b s) := by
  unfold execI3cReset
  try dsimp only
  repeat' first
    | with_reducible assumption | with_reducible apply softReset_keeps | with_reducible apply KeepsN.next | with_reducible apply KeepsN.fault
    | split
    | (intro _ hx; (first | show CtxOk _ | show TileOk _ | show Memory.wf _ = true); (repeat' first | exact hx | exact CtxOk.noSave rfl | split | dsimp only); done)
    | intro _ _ _ | intro _ _ | intro _ | dsimp only | (rw [id_eq]) | with_reducible refine Keeps.put ?_ (fun x => x) (fun x => x)

theorem execPowerDown_keeps {s0 : State} {b : Byte} {s : State} (kp : Keeps s0 s) :
    KeepsN s0 (execPowerDown b s) := by
  unfold execPowerDown
  try dsimp only
  repeat' first
    | with_reducible assumption | with_reducible apply stopChip_keeps | with_reducible apply KeepsN.next | with_reducible apply KeepsN.fault
    | split
    | (intro _ hx; (first | show CtxOk _ | show TileOk _ | show Memory.wf _ = true); (repeat' first | exact hx | exact CtxOk.noSave rfl | split | dsimp only); done)
    | intro _ _ _ | intro _ _ | intro _ | dsimp only | (rw [id_eq]) | with_reducible refine Keeps.put ?_ (fun x => x) (fun x => x)

theorem loadTap_keeps {s0 : State} {s : State} {t : TapInstr} (kp : Keeps s0 s) :
    Keeps s0 (loadTap s t) := by
  unfold loadTap
  try dsimp only
  repeat' first
    | with_reducible assumption | with_reducible apply State.modPins_keeps | split
    | (intro _ hx; (first | show CtxOk _ | show TileOk _ | show Memory.wf _ = true); (repeat' first | exact hx | exact CtxOk.noSave rfl | split | dsimp only); done)
    | intro _ _ _ | intro _ _ | intro _ | dsimp only | (rw [id_eq]) | with_reducible refine Keeps.put ?_ (fun x => x) (fun x => x)

theorem execBypass_keeps {s0 : State} {s : State} (kp : Keeps s0 s) :
    KeepsN s0 (execBypass s) := by
  unfold execBypass
  try dsimp only
  repeat' first
    | with_reducible assumption | with_reducible apply loadTap_keeps | with_reducible apply KeepsN.next | with_reducible apply KeepsN.fault | split
    | (intro _ hx; (first | show CtxOk _ | show TileOk _ | show Memory.wf _ = true); (repeat' first | exact hx | exact CtxOk.noSave rfl | split | dsimp only); done)
    | intro _ _ _ | intro _ _ | intro _ | dsimp only | (rw [id_eq]) | with_reducible refine Keeps.put ?_ (fun x => x) (fun x => x)

theorem execIdcode_keeps {s0 : State} {s : State} (kp : Keeps s0 s) :
    KeepsN s0 (execIdcode s) := by
  unfold execIdcode
  try dsimp only
  repeat' first
    | with_reducible assumption | with_reducible apply State.emit_keeps | with_reducible apply loadTap_keeps | with_reducible apply KeepsN.next
    | with_reducible apply KeepsN.fault | split
    | (intro _ hx; (first | show CtxOk _ | show TileOk _ | show Memory.wf _ = true); (repeat' first | exact hx | exact CtxOk.noSave rfl | split | dsimp only); done)
    | intro _ _ _ | intro _ _ | intro _ | dsimp only | (rw [id_eq]) | with_reducible refine Keeps.put ?_ (fun x => x) (fun x => x)

theorem execSamplePreload_keeps {s0 : State} {pins : List Bool} {load : List Bool} {s : State} (kp : Keeps s0 s) :
    KeepsN s0 (execSamplePreload pins load s) := by
  unfold execSamplePreload
  try dsimp only
  repeat' first
    | with_reducible assumption | with_reducible apply State.emit_keeps | with_reducible apply State.modPins_keeps
    | with_reducible apply loadTap_keeps | with_reducible apply KeepsN.next | with_reducible apply KeepsN.fault | split
    | (intro _ hx; (first | show CtxOk _ | show TileOk _ | show Memory.wf _ = true); (repeat' first | exact hx | exact CtxOk.noSave rfl | split | dsimp only); done)
    | intro _ _ _ | intro _ _ | intro _ | dsimp only | (rw [id_eq]) | with_reducible refine Keeps.put ?_ (fun x => x) (fun x => x)

theorem execExtest_keeps {s0 : State} {s : State} (kp : Keeps s0 s) :
    KeepsN s0 (execExtest s) := by
  unfold execExtest
  try dsimp only
  repeat' first
    | with_reducible assumption | with_reducible apply loadTap_keeps | with_reducible apply KeepsN.next | with_reducible apply KeepsN.fault | split
    | (intro _ hx; (first | show CtxOk _ | show TileOk _ | show Memory.wf _ = true); (repeat' first | exact hx | exact CtxOk.noSave rfl | split | dsimp only); done)
    | intro _ _ _ | intro _ _ | intro _ | dsimp only | (rw [id_eq]) | with_reducible refine Keeps.put ?_ (fun x => x) (fun x => x)

theorem execHighz_keeps {s0 : State} {s : State} (kp : Keeps s0 s) :
    KeepsN s0 (execHighz s) := by
  unfold execHighz
  try dsimp only
  repeat' first
    | with_reducible assumption | with_reducible apply loadTap_keeps | with_reducible apply KeepsN.next | with_reducible apply KeepsN.fault | split
    | (intro _ hx; (first | show CtxOk _ | show TileOk _ | show Memory.wf _ = true); (repeat' first | exact hx | exact CtxOk.noSave rfl | split | dsimp only); done)
    | intro _ _ _ | intro _ _ | intro _ | dsimp only | (rw [id_eq]) | with_reducible refine Keeps.put ?_ (fun x => x) (fun x => x)

theorem execClamp_keeps {s0 : State} {s : State} (kp : Keeps s0 s) :
    KeepsN s0 (execClamp s) := by
  unfold execClamp
  try dsimp only
  repeat' first
    | with_reducible assumption | with_reducible apply loadTap_keeps | with_reducible apply KeepsN.next | with_reducible apply KeepsN.fault | split
    | (intro _ hx; (first | show CtxOk _ | show TileOk _ | show Memory.wf _ = true); (repeat' first | exact hx | exact CtxOk.noSave rfl | split | dsimp only); done)
    | intro _ _ _ | intro _ _ | intro _ | dsimp only | (rw [id_eq]) | with_reducible refine Keeps.put ?_ (fun x => x) (fun x => x)

theorem execTodByteReceive_keeps {s0 : State} {b : Byte} {s : State} (kp : Keeps s0 s) :
    KeepsN s0 (execTodByteReceive b s) := by
  unfold execTodByteReceive
  try dsimp only
  repeat' first
    | with_reducible assumption | with_reducible apply State.modPins_keeps | with_reducible apply State.setBit_keeps
    | with_reducible apply KeepsN.next | with_reducible apply KeepsN.fault | split
    | (intro _ hx; (first | show CtxOk _ | show TileOk _ | show Memory.wf _ = true); (repeat' first | exact hx | exact CtxOk.noSave rfl | split | dsimp only); done)
    | intro _ _ _ | intro _ _ | intro _ | dsimp only | (rw [id_eq]) | with_reducible refine Keeps.put ?_ (fun x => x) (fun x => x)

theorem readTod_keeps {s0 : State} {s : State} (kp : Keeps s0 s) :
    Keeps s0 (readTod s).2 := by
  unfold readTod
  try dsimp only
  repeat' first
    | with_reducible assumption | with_reducible apply State.modPins_keeps | with_reducible apply State.setBit_keeps | split
    | (intro _ hx; (first | show CtxOk _ | show TileOk _ | show Memory.wf _ = true); (repeat' first | exact hx | exact CtxOk.noSave rfl | split | dsimp only); done)
    | intro _ _ _ | intro _ _ | intro _ | dsimp only | (rw [id_eq]) | with_reducible refine Keeps.put ?_ (fun x => x) (fun x => x)

theorem readTod_keeps' {s0 : State} {s : State} {out : _} (eq : readTod s = out) (kp : Keeps s0 s) :
    Keeps s0 out.2 := eq ▸ readTod_keeps kp

end Sys2Proof.Machine
end

