-- ==== Sys2Proof/Laws/KeepsPort.lean ====
section
/-! SUPPORT. What each operation of Machine/Port.lean keeps. -/

namespace Sys2Proof.Machine

open Sys2Proof.Safety

set_option linter.all false
set_option Elab.async false

theorem onMgt_keeps {s0 : State} {s : State} {acc : Accessor} {act : State → State} (kp : Keeps s0 s) (hact : ∀ s1, Keeps s0 s1 → Keeps s0 (act s1)) :
    Keeps s0 (onMgt s acc act) := by
  unfold onMgt
  try dsimp only
  repeat' first
    | with_reducible assumption | with_reducible apply onBlock_keeps | with_reducible apply hact | split
    | (intro _ hx; (first | show CtxOk _ | show TileOk _ | show Memory.wf _ = true); (repeat' first | exact hx | exact CtxOk.noSave rfl | split | dsimp only); done)
    | intro _ _ _ | intro _ _ | intro _ | dsimp only | (rw [id_eq]) | with_reducible refine Keeps.put ?_ (fun x => x) (fun x => x)

theorem State.modPort_keeps {s0 : State} {s : State} {f : Port → Port} (kp : Keeps s0 s) :
    Keeps s0 (State.modPort s f) := by
  unfold State.modPort
  try dsimp only
  repeat' first
    | with_reducible assumption | with_reducible apply hf | split
    | (intro _ hx; (first | show CtxOk _ | show TileOk _ | show Memory.wf _ = true); (repeat' first | exact hx | exact CtxOk.noSave rfl | split | dsimp only); done)
    | intro _ _ _ | intro _ _ | intro _ | dsimp only | (rw [id_eq]) | with_reducible refine Keeps.put ?_ (fun x => x) (fun x => x)

theorem State.countDrop_keeps {s0 : State} {s : State} {d : Drop} (kp : Keeps s0 s) :
    Keeps s0 (State.countDrop s d) := by
  unfold State.countDrop
  try dsimp only
  repeat' first
    | with_reducible assumption | with_reducible apply State.addFld_keeps | split
    | (intro _ hx; (first | show CtxOk _ | show TileOk _ | show Memory.wf _ = true); (repeat' first | exact hx | exact CtxOk.noSave rfl | split | dsimp only); done)
    | intro _ _ _ | intro _ _ | intro _ | dsimp only | (rw [id_eq]) | with_reducible refine Keeps.put ?_ (fun x => x) (fun x => x)

theorem macsecReceive_keeps {s0 : State} {s : State} {f : List Byte} (kp : Keeps s0 s) :
    Keeps s0 (macsecReceive s f).2 := by
  unfold macsecReceive
  try dsimp only
  repeat' first
    | with_reducible assumption | with_reducible apply State.modPort_keeps | split
    | (intro _ hx; (first | show CtxOk _ | show TileOk _ | show Memory.wf _ = true); (repeat' first | exact hx | exact CtxOk.noSave rfl | split | dsimp only); done)
    | intro _ _ _ | intro _ _ | intro _ | dsimp only | (rw [id_eq]) | with_reducible refine Keeps.put ?_ (fun x => x) (fun x => x)

theorem macsecReceive_keeps' {s0 : State} {s : State} {f : List Byte} {out : _} (eq : macsecReceive s f = out) (kp : Keeps s0 s) :
    Keeps s0 out.2 := eq ▸ macsecReceive_keeps kp

theorem State.protection_keeps {s0 : State} {s : State} {f : List Byte} (kp : Keeps s0 s) :
    Keeps s0 (State.protection s f).2 := by
  unfold State.protection
  try dsimp only
  repeat' first
    | with_reducible assumption | with_reducible apply macsecReceive_keeps
    | refine macsecReceive_keeps' (out := (_, _)) (by with_reducible assumption) ?_ | split
    | (intro _ hx; (first | show CtxOk _ | show TileOk _ | show Memory.wf _ = true); (repeat' first | exact hx | exact CtxOk.noSave rfl | split | dsimp only); done)
    | intro _ _ _ | intro _ _ | intro _ | dsimp only | (rw [id_eq]) | with_reducible refine Keeps.put ?_ (fun x => x) (fun x => x)

theorem State.protection_keeps' {s0 : State} {s : State} {f : List Byte} {out : _} (eq : State.protection s f = out) (kp : Keeps s0 s) :
    Keeps s0 out.2 := eq ▸ State.protection_keeps kp

theorem arpSeen_keeps {s0 : State} {s : State} {f : List Byte} (kp : Keeps s0 s) :
    Keeps s0 (arpSeen s f) := by
  unfold arpSeen
  try dsimp only
  repeat' first
    | with_reducible assumption | with_reducible apply State.emit_keeps | with_reducible apply State.modPort_keeps
    | with_reducible apply State.setBit_keeps | with_reducible apply State.setFld_keeps | with_reducible apply notice_keeps | split
    | (intro _ hx; (first | show CtxOk _ | show TileOk _ | show Memory.wf _ = true); (repeat' first | exact hx | exact CtxOk.noSave rfl | split | dsimp only); done)
    | intro _ _ _ | intro _ _ | intro _ | dsimp only | (rw [id_eq]) | with_reducible refine Keeps.put ?_ (fun x => x) (fun x => x)

theorem takeTokens_keeps {s0 : State} {s : State} {i : Nat} {prot : Bool} (kp : Keeps s0 s) :
    KeepsO s0 (takeTokens s i prot) := by
  unfold takeTokens
  try dsimp only
  repeat' first
    | with_reducible assumption | with_reducible apply State.modPort_keeps | with_reducible apply KeepsO.some | with_reducible exact KeepsO.none
    | with_reducible apply KeepsO.map | split
    | (intro _ hx; (first | show CtxOk _ | show TileOk _ | show Memory.wf _ = true); (repeat' first | exact hx | exact CtxOk.noSave rfl | split | dsimp only); done)
    | intro _ _ _ | intro _ _ | intro _ | dsimp only | (rw [id_eq]) | with_reducible refine Keeps.put ?_ (fun x => x) (fun x => x)

theorem handOver_keeps {s0 s : State} {f : List Byte} {o : Option State} (h : Keeps s0 s) (ho : KeepsO s0 o) : Keeps s0 (handOver s f o) := by
  have key : ∀ (b : Bool) (t : State), Keeps s0 t → Keeps s0 ((if b = true then t.setRg .mgtPtpRx [] t.time.mt else t).emit (.mgtDeliver f)) := by
    intro b t ht
    split
    · exact State.emit_keeps (State.setRg_keeps ht)
    · exact State.emit_keeps ht
  cases o with
  | none => exact State.countDrop_keeps h
  | some s1 =>
    unfold handOver
    exact key _ _ (ho _ rfl)

theorem passFrame_keeps {s0 s : State} {f : List Byte} {prot : Bool} (h : Keeps s0 s) : Keeps s0 (passFrame s f prot) := by
  unfold passFrame
  split
  · exact State.countDrop_keeps h
  · exact handOver_keeps h (takeTokens_keeps h)

theorem mgtReceive_keeps {s0 : State} {s : State} {m : MgtFrame} (kp : Keeps s0 s) :
    Keeps s0 (mgtReceive s m) := by
  unfold mgtReceive
  try dsimp only
  repeat' first
    | with_reducible assumption | with_reducible apply State.countDrop_keeps | with_reducible apply State.protection_keeps
    | refine State.protection_keeps' (out := (_, _)) (by with_reducible assumption) ?_ | with_reducible apply arpSeen_keeps
    | with_reducible apply passFrame_keeps | split
    | (intro _ hx; (first | show CtxOk _ | show TileOk _ | show Memory.wf _ = true); (repeat' first | exact hx | exact CtxOk.noSave rfl | split | dsimp only); done)
    | intro _ _ _ | intro _ _ | intro _ | dsimp only | (rw [id_eq]) | with_reducible refine Keeps.put ?_ (fun x => x) (fun x => x)

theorem execMgtFrameReceive_keeps {s0 : State} {frame : MgtFrame} {s : State} (kp : Keeps s0 s) :
    KeepsN s0 (execMgtFrameReceive frame s) := by
  unfold execMgtFrameReceive
  try dsimp only
  repeat' first
    | with_reducible assumption | with_reducible apply mgtReceive_keeps | with_reducible apply KeepsN.next | with_reducible apply KeepsN.fault
    | split
    | (intro _ hx; (first | show CtxOk _ | show TileOk _ | show Memory.wf _ = true); (repeat' first | exact hx | exact CtxOk.noSave rfl | split | dsimp only); done)
    | intro _ _ _ | intro _ _ | intro _ | dsimp only | (rw [id_eq]) | with_reducible refine Keeps.put ?_ (fun x => x) (fun x => x)

theorem mgtTransmit_keeps {s0 : State} {s : State} {f : List Byte} (kp : Keeps s0 s) :
    Keeps s0 (mgtTransmit s f) := by
  unfold mgtTransmit
  try dsimp only
  repeat' first
    | with_reducible assumption | with_reducible apply State.countDrop_keeps | with_reducible apply State.emit_keeps
    | with_reducible apply State.modPort_keeps | with_reducible apply State.setRg_keeps | split
    | (intro _ hx; (first | show CtxOk _ | show TileOk _ | show Memory.wf _ = true); (repeat' first | exact hx | exact CtxOk.noSave rfl | split | dsimp only); done)
    | intro _ _ _ | intro _ _ | intro _ | dsimp only | (rw [id_eq]) | with_reducible refine Keeps.put ?_ (fun x => x) (fun x => x)

theorem execMgtFrameTransmit_keeps {s0 : State} {bytes : List Byte} {s : State} (kp : Keeps s0 s) :
    KeepsN s0 (execMgtFrameTransmit bytes s) := by
  unfold execMgtFrameTransmit
  try dsimp only
  repeat' first
    | with_reducible assumption | with_reducible apply mgtTransmit_keeps | with_reducible apply KeepsN.next | with_reducible apply KeepsN.fault
    | split
    | (intro _ hx; (first | show CtxOk _ | show TileOk _ | show Memory.wf _ = true); (repeat' first | exact hx | exact CtxOk.noSave rfl | split | dsimp only); done)
    | intro _ _ _ | intro _ _ | intro _ | dsimp only | (rw [id_eq]) | with_reducible refine Keeps.put ?_ (fun x => x) (fun x => x)

theorem aperWrite_keeps {s0 : State} {s : State} {acc : Accessor} {a : Nat} {v : Word} (kp : Keeps s0 s) :
    Keeps s0 (aperWrite s acc a v) := by
  unfold aperWrite
  try dsimp only
  repeat' first
    | with_reducible assumption | with_reducible apply State.setBit_keeps | with_reducible apply State.setRg_keeps | split
    | (intro _ hx; (first | show CtxOk _ | show TileOk _ | show Memory.wf _ = true); (repeat' first | exact hx | exact CtxOk.noSave rfl | split | dsimp only); done)
    | intro _ _ _ | intro _ _ | intro _ | dsimp only | (rw [id_eq]) | with_reducible refine Keeps.put ?_ (fun x => x) (fun x => x)

theorem execAperValidWrite_keeps {s0 : State} {acc : Accessor} {a : Fin 64} {value : Word} {s : State} (kp : Keeps s0 s) :
    KeepsN s0 (execAperValidWrite acc a value s) := by
  unfold execAperValidWrite
  try dsimp only
  repeat' first
    | with_reducible assumption | with_reducible apply aperWrite_keeps | with_reducible apply onMgt_keeps | with_reducible apply KeepsN.next
    | with_reducible apply KeepsN.fault | split
    | (intro _ hx; (first | show CtxOk _ | show TileOk _ | show Memory.wf _ = true); (repeat' first | exact hx | exact CtxOk.noSave rfl | split | dsimp only); done)
    | intro _ _ _ | intro _ _ | intro _ | dsimp only | (rw [id_eq]) | with_reducible refine Keeps.put ?_ (fun x => x) (fun x => x)

theorem coreRead_keeps {s0 : State} {s : State} {core : Nat} {k : Nat} {va : Nat} {n : Nat} {found : Findings} (kp : Keeps s0 s) :
    Keeps s0 (coreRead s core k va n found) := by
  unfold coreRead
  try dsimp only
  repeat' first
    | with_reducible assumption | with_reducible apply State.emit_keeps | with_reducible apply readPages_keeps
    | refine readPages_keeps' (out := (_, _)) (by with_reducible assumption) ?_ | split
    | (intro _ hx; (first | show CtxOk _ | show TileOk _ | show Memory.wf _ = true); (repeat' first | exact hx | exact CtxOk.noSave rfl | split | dsimp only); done)
    | intro _ _ _ | intro _ _ | intro _ | dsimp only | (rw [id_eq]) | with_reducible refine Keeps.put ?_ (fun x => x) (fun x => x)

theorem aperAccess_keeps {s0 : State} {s : State} {core : Nat} {a : Nat} {off : Nat} {n : Nat} {acc : Accessor} {data : Option (List Byte)} {found : Findings} (kp : Keeps s0 s) :
    Keeps s0 (aperAccess s core a off n acc data found) := by
  unfold aperAccess
  try dsimp only
  repeat' first
    | with_reducible assumption | with_reducible apply State.ctxWrite_keeps | with_reducible apply State.emit_keeps
    | with_reducible apply coreRead_keeps | with_reducible apply notice_keeps | split
    | (intro _ hx; (first | show CtxOk _ | show TileOk _ | show Memory.wf _ = true); (repeat' first | exact hx | exact CtxOk.noSave rfl | split | dsimp only); done)
    | intro _ _ _ | intro _ _ | intro _ | dsimp only | (rw [id_eq]) | with_reducible refine Keeps.put ?_ (fun x => x) (fun x => x)

theorem execApertureAccess_keeps {s0 : State} {core : Fin 8} {a : Fin 64} {offset : BitVec 32} {bytes : Nat} {data : Option (List Byte)} {found : Findings} {s : State} (kp : Keeps s0 s) :
    KeepsN s0 (execApertureAccess core a offset bytes data found s) := by
  unfold execApertureAccess
  try dsimp only
  repeat' first
    | with_reducible assumption | with_reducible apply aperAccess_keeps | with_reducible apply KeepsN.next | with_reducible apply KeepsN.fault
    | split
    | (intro _ hx; (first | show CtxOk _ | show TileOk _ | show Memory.wf _ = true); (repeat' first | exact hx | exact CtxOk.noSave rfl | split | dsimp only); done)
    | intro _ _ _ | intro _ _ | intro _ | dsimp only | (rw [id_eq]) | with_reducible refine Keeps.put ?_ (fun x => x) (fun x => x)

theorem flagWatchWrite_keeps {s0 : State} {s : State} {w : Nat} {v : Word} (kp : Keeps s0 s) :
    Keeps s0 (flagWatchWrite s w v) := by
  unfold flagWatchWrite
  try dsimp only
  repeat' first
    | with_reducible assumption | with_reducible apply State.endFlagWatch_keeps | with_reducible apply State.setBit_keeps
    | with_reducible apply State.setFld_keeps | split
    | (intro _ hx; (first | show CtxOk _ | show TileOk _ | show Memory.wf _ = true); (repeat' first | exact hx | exact CtxOk.noSave rfl | split | dsimp only); done)
    | intro _ _ _ | intro _ _ | intro _ | dsimp only | (rw [id_eq]) | with_reducible refine Keeps.put ?_ (fun x => x) (fun x => x)

theorem execFlagWatchArm_keeps {s0 : State} {acc : Accessor} {w : Fin 16} {value : Word} {s : State} (kp : Keeps s0 s) :
    KeepsN s0 (execFlagWatchArm acc w value s) := by
  unfold execFlagWatchArm
  try dsimp only
  repeat' first
    | with_reducible assumption | with_reducible apply flagWatchWrite_keeps | with_reducible apply onMgt_keeps | with_reducible apply KeepsN.next
    | with_reducible apply KeepsN.fault | split
    | (intro _ hx; (first | show CtxOk _ | show TileOk _ | show Memory.wf _ = true); (repeat' first | exact hx | exact CtxOk.noSave rfl | split | dsimp only); done)
    | intro _ _ _ | intro _ _ | intro _ | dsimp only | (rw [id_eq]) | with_reducible refine Keeps.put ?_ (fun x => x) (fun x => x)

theorem execFlagWatchTimeout_keeps {s0 : State} {w : Fin 16} {s : State} (kp : Keeps s0 s) :
    KeepsN s0 (execFlagWatchTimeout w s) := by
  unfold execFlagWatchTimeout
  try dsimp only
  repeat' first
    | with_reducible assumption | with_reducible apply State.endFlagWatch_keeps | with_reducible apply KeepsN.next
    | with_reducible apply KeepsN.fault | split
    | (intro _ hx; (first | show CtxOk _ | show TileOk _ | show Memory.wf _ = true); (repeat' first | exact hx | exact CtxOk.noSave rfl | split | dsimp only); done)
    | intro _ _ _ | intro _ _ | intro _ | dsimp only | (rw [id_eq]) | with_reducible refine Keeps.put ?_ (fun x => x) (fun x => x)

end Sys2Proof.Machine
end

