-- ==== Sys2Proof/Laws/KeepsRegisters.lean ====
section
/-! SUPPORT. What each operation of Machine/Registers.lean keeps. -/

namespace Sys2Proof.Machine

open Sys2Proof.Safety

set_option linter.all false
set_option Elab.async false

theorem State.readClear_keeps {s0 : State} {s : State} {n : RegName} {ix : List Nat} (kp : Keeps s0 s) :
    Keeps s0 (State.readClear s n ix) := by
  unfold State.readClear
  try dsimp only
  repeat' first
    | with_reducible assumption | with_reducible apply State.setRg_keeps | split
    | (intro _ hx; (first | show CtxOk _ | show TileOk _ | show Memory.wf _ = true); (repeat' first | exact hx | exact CtxOk.noSave rfl | split | dsimp only); done)
    | intro _ _ _ | intro _ _ | intro _ | dsimp only | (rw [id_eq]) | with_reducible refine Keeps.put ?_ (fun x => x) (fun x => x)

theorem State.clearLaneErr_keeps {s0 : State} {s : State} {l : Nat} (kp : Keeps s0 s) :
    Keeps s0 (State.clearLaneErr s l) := by
  unfold State.clearLaneErr
  try dsimp only
  repeat' first
    | with_reducible assumption | with_reducible apply State.modLink_keeps | split
    | (intro _ hx; (first | show CtxOk _ | show TileOk _ | show Memory.wf _ = true); (repeat' first | exact hx | exact CtxOk.noSave rfl | split | dsimp only); done)
    | intro _ _ _ | intro _ _ | intro _ | dsimp only | (rw [id_eq]) | with_reducible refine Keeps.put ?_ (fun x => x) (fun x => x)

theorem readReg_keeps {s0 : State} {s : State} {acc : Accessor} {n : RegName} {ix : List Nat} (kp : Keeps s0 s) :
    Keeps s0 (readReg s acc n ix).2 := by
  unfold readReg
  try dsimp only
  repeat' first
    | with_reducible assumption | with_reducible apply State.clearLaneErr_keeps | with_reducible apply State.readClear_keeps
    | with_reducible apply ledgerRank_keeps | with_reducible apply readTod_keeps
    | refine readTod_keeps' (out := (_, _)) (by with_reducible assumption) ?_ | split
    | (intro _ hx; (first | show CtxOk _ | show TileOk _ | show Memory.wf _ = true); (repeat' first | exact hx | exact CtxOk.noSave rfl | split | dsimp only); done)
    | intro _ _ _ | intro _ _ | intro _ | dsimp only | (rw [id_eq]) | with_reducible refine Keeps.put ?_ (fun x => x) (fun x => x)

theorem readReg_keeps' {s0 : State} {s : State} {acc : Accessor} {n : RegName} {ix : List Nat} {out : _} (eq : readReg s acc n ix = out) (kp : Keeps s0 s) :
    Keeps s0 out.2 := eq ▸ readReg_keeps kp

theorem readAt_keeps {s0 : State} {s : State} {acc : Accessor} {addr : Nat} (kp : Keeps s0 s) :
    Keeps s0 (readAt s acc addr).2 := by
  unfold readAt
  try dsimp only
  repeat' first
    | with_reducible assumption | with_reducible apply notice_keeps | with_reducible apply readReg_keeps
    | refine readReg_keeps' (out := (_, _)) (by with_reducible assumption) ?_ | split
    | (intro _ hx; (first | show CtxOk _ | show TileOk _ | show Memory.wf _ = true); (repeat' first | exact hx | exact CtxOk.noSave rfl | split | dsimp only); done)
    | intro _ _ _ | intro _ _ | intro _ | dsimp only | (rw [id_eq]) | with_reducible refine Keeps.put ?_ (fun x => x) (fun x => x)

theorem readAt_keeps' {s0 : State} {s : State} {acc : Accessor} {addr : Nat} {out : _} (eq : readAt s acc addr = out) (kp : Keeps s0 s) :
    Keeps s0 out.2 := eq ▸ readAt_keeps kp

theorem State.plainWrite_keeps {s0 : State} {s : State} {n : RegName} {ix : List Nat} {v : Word} (kp : Keeps s0 s) :
    Keeps s0 (State.plainWrite s n ix v) := by
  unfold State.plainWrite
  try dsimp only
  repeat' first
    | with_reducible assumption | with_reducible apply State.setRg_keeps | split
    | (intro _ hx; (first | show CtxOk _ | show TileOk _ | show Memory.wf _ = true); (repeat' first | exact hx | exact CtxOk.noSave rfl | split | dsimp only); done)
    | intro _ _ _ | intro _ _ | intro _ | dsimp only | (rw [id_eq]) | with_reducible refine Keeps.put ?_ (fun x => x) (fun x => x)

theorem cloCommand_keeps {s0 : State} {s : State} {acc : Accessor} {v : Word} (kp : Keeps s0 s) :
    Keeps s0 (cloCommand s acc v) := by
  unfold cloCommand
  try dsimp only
  repeat' first
    | with_reducible assumption | with_reducible apply cloCmd_keeps | with_reducible apply cmdCreate_keeps | with_reducible apply cmdDestroy_keeps
    | with_reducible apply cmdGrant_keeps | with_reducible apply cmdOwners_keeps | with_reducible apply cmdPreempt_keeps
    | with_reducible apply cmdRebind_keeps | with_reducible apply cmdRelease_keeps | with_reducible apply cmdRepair_keeps
    | with_reducible apply cmdResume_keeps | with_reducible apply cmdTileBist_keeps | split
    | (intro _ hx; (first | show CtxOk _ | show TileOk _ | show Memory.wf _ = true); (repeat' first | exact hx | exact CtxOk.noSave rfl | split | dsimp only); done)
    | intro _ _ _ | intro _ _ | intro _ | dsimp only | (rw [id_eq]) | with_reducible refine Keeps.put ?_ (fun x => x) (fun x => x)

theorem srvCommand_keeps {s0 : State} {s : State} {acc : Accessor} {v : Word} (kp : Keeps s0 s) :
    Keeps s0 (srvCommand s acc v) := by
  unfold srvCommand
  try dsimp only
  repeat' first
    | with_reducible assumption | with_reducible apply cmdAdmit_keeps | with_reducible apply cmdCancel_keeps | with_reducible apply cmdClose_keeps
    | with_reducible apply cmdEndPlan_keeps | with_reducible apply cmdOpen_keeps | with_reducible apply cmdTailorBind_keeps
    | with_reducible apply cmdTailorUnbind_keeps | with_reducible apply srvCmd_keeps | split
    | (intro _ hx; (first | show CtxOk _ | show TileOk _ | show Memory.wf _ = true); (repeat' first | exact hx | exact CtxOk.noSave rfl | split | dsimp only); done)
    | intro _ _ _ | intro _ _ | intro _ | dsimp only | (rw [id_eq]) | with_reducible refine Keeps.put ?_ (fun x => x) (fun x => x)

theorem partCommand_keeps {s0 : State} {s : State} {acc : Accessor} {v : Word} (kp : Keeps s0 s) :
    Keeps s0 (partCommand s acc v) := by
  unfold partCommand
  try dsimp only
  repeat' first
    | with_reducible assumption | with_reducible apply State.finish_keeps | with_reducible apply cmdAbort_keeps
    | with_reducible apply cmdDistribute_keeps | with_reducible apply cmdJoin_keeps | with_reducible apply cmdLaunch_keeps
    | with_reducible apply cmdLeave_keeps | with_reducible apply onBlock_keeps | split
    | (intro _ hx; (first | show CtxOk _ | show TileOk _ | show Memory.wf _ = true); (repeat' first | exact hx | exact CtxOk.noSave rfl | split | dsimp only); done)
    | intro _ _ _ | intro _ _ | intro _ | dsimp only | (rw [id_eq]) | with_reducible refine Keeps.put ?_ (fun x => x) (fun x => x)

theorem memCommand_keeps {s0 : State} {s : State} {acc : Accessor} {m : Nat} {v : Word} (kp : Keeps s0 s) :
    Keeps s0 (memCommand s acc m v) := by
  unfold memCommand
  try dsimp only
  repeat' first
    | with_reducible assumption | with_reducible apply State.finish_keeps | with_reducible apply memCmd_keeps | with_reducible apply onBlock_keeps
    | split
    | (intro _ hx; (first | show CtxOk _ | show TileOk _ | show Memory.wf _ = true); (repeat' first | exact hx | exact CtxOk.noSave rfl | split | dsimp only); done)
    | intro _ _ _ | intro _ _ | intro _ | dsimp only | (rw [id_eq]) | with_reducible refine Keeps.put ?_ (fun x => x) (fun x => x)

theorem morCommand_keeps {s0 : State} {s : State} {acc : Accessor} {v : Word} (kp : Keeps s0 s) :
    Keeps s0 (morCommand s acc v) := by
  unfold morCommand
  try dsimp only
  repeat' first
    | with_reducible assumption | with_reducible apply cmdErasure_keeps | with_reducible apply cmdHint_keeps | with_reducible apply morCmd_keeps
    | split
    | (intro _ hx; (first | show CtxOk _ | show TileOk _ | show Memory.wf _ = true); (repeat' first | exact hx | exact CtxOk.noSave rfl | split | dsimp only); done)
    | intro _ _ _ | intro _ _ | intro _ | dsimp only | (rw [id_eq]) | with_reducible refine Keeps.put ?_ (fun x => x) (fun x => x)

theorem insCommand_keeps {s0 s : State} {acc : Accessor} {v : Word} (h : Keeps s0 s) : Keeps s0 (insCommand s acc v) := by
  unfold insCommand
  split
  · exact cmdArm_keeps h
  · exact cmdStart_keeps h
  · exact cmdDisarm_keeps h
  · exact insCmd_keeps h fun _ hs => hs

theorem vltCommand_keeps {s0 s : State} {acc : Accessor} {i : Nat} {v : Word} (h : Keeps s0 s) : Keeps s0 (vltCommand s acc i v) := by
  unfold vltCommand
  split
  · exact cmdRegionFree_keeps h
  · exact cmdRecal_keeps h
  · exact vltCmd_keeps h fun _ hs => hs

theorem lnkCommand_keeps {s0 : State} {s : State} {acc : Accessor} {l : Nat} {v : Word} (kp : Keeps s0 s) :
    Keeps s0 (lnkCommand s acc l v) := by
  unfold lnkCommand
  try dsimp only
  repeat' first
    | with_reducible assumption | with_reducible apply cmdAcceptHalf_keeps | with_reducible apply cmdFastRetrain_keeps
    | with_reducible apply cmdFullTrain_keeps | with_reducible apply lnkCmd_keeps | split
    | (intro _ hx; (first | show CtxOk _ | show TileOk _ | show Memory.wf _ = true); (repeat' first | exact hx | exact CtxOk.noSave rfl | split | dsimp only); done)
    | intro _ _ _ | intro _ _ | intro _ | dsimp only | (rw [id_eq]) | with_reducible refine Keeps.put ?_ (fun x => x) (fun x => x)

theorem secCommand_keeps {s0 : State} {s : State} {acc : Accessor} {v : Word} (kp : Keeps s0 s) :
    Keeps s0 (secCommand s acc v) := by
  unfold secCommand
  try dsimp only
  repeat' first
    | with_reducible assumption | with_reducible apply cmdActivate_keeps | with_reducible apply cmdAttest_keeps
    | with_reducible apply cmdEndorse_keeps | with_reducible apply confirm_keeps
    | refine confirm_keeps' (out := (_, _)) (by with_reducible assumption) ?_ | with_reducible apply secCmd_keeps | split
    | (intro _ hx; (first | show CtxOk _ | show TileOk _ | show Memory.wf _ = true); (repeat' first | exact hx | exact CtxOk.noSave rfl | split | dsimp only); done)
    | intro _ _ _ | intro _ _ | intro _ | dsimp only | (rw [id_eq]) | with_reducible refine Keeps.put ?_ (fun x => x) (fun x => x)

theorem gateCommand_keeps {s0 : State} {s : State} {acc : Accessor} {v : Word} (kp : Keeps s0 s) :
    Keeps s0 (gateCommand s acc v) := by
  unfold gateCommand
  try dsimp only
  repeat' first
    | with_reducible assumption | with_reducible apply fabricOff_keeps | with_reducible apply fabricOn_keeps | with_reducible apply gate_keeps
    | with_reducible apply gateAnswer_keeps | with_reducible apply onBlock_keeps | split
    | (intro _ hx; (first | show CtxOk _ | show TileOk _ | show Memory.wf _ = true); (repeat' first | exact hx | exact CtxOk.noSave rfl | split | dsimp only); done)
    | intro _ _ _ | intro _ _ | intro _ | dsimp only | (rw [id_eq]) | with_reducible refine Keeps.put ?_ (fun x => x) (fun x => x)

theorem jrnCtlWrite_keeps {s0 : State} {s : State} {k : Nat} {v : Word} (kp : Keeps s0 s) :
    Keeps s0 (jrnCtlWrite s k v) := by
  unfold jrnCtlWrite
  try dsimp only
  repeat' first
    | with_reducible assumption | with_reducible apply State.plainWrite_keeps | with_reducible apply State.setBit_keeps | split
    | (intro _ hx; (first | show CtxOk _ | show TileOk _ | show Memory.wf _ = true); (repeat' first | exact hx | exact CtxOk.noSave rfl | split | dsimp only); done)
    | intro _ _ _ | intro _ _ | intro _ | dsimp only | (rw [id_eq]) | with_reducible refine Keeps.put ?_ (fun x => x) (fun x => x)

theorem jrnTailWrite_keeps {s0 : State} {s : State} {k : Nat} {v : Word} (kp : Keeps s0 s) :
    Keeps s0 (jrnTailWrite s k v) := by
  unfold jrnTailWrite
  try dsimp only
  repeat' first
    | with_reducible assumption | with_reducible apply State.jrnFlush_keeps | with_reducible apply State.plainWrite_keeps
    | with_reducible apply finishTailor_keeps | split
    | (intro _ hx; (first | show CtxOk _ | show TileOk _ | show Memory.wf _ = true); (repeat' first | exact hx | exact CtxOk.noSave rfl | split | dsimp only); done)
    | intro _ _ _ | intro _ _ | intro _ | dsimp only | (rw [id_eq]) | with_reducible refine Keeps.put ?_ (fun x => x) (fun x => x)

theorem sscWrite_keeps {s0 : State} {s : State} {p : Nat} {v : Word} (kp : Keeps s0 s) :
    Keeps s0 (sscWrite s p v) := by
  unfold sscWrite
  try dsimp only
  repeat' first
    | with_reducible assumption | with_reducible apply State.modCxl_keeps | with_reducible apply State.plainWrite_keeps | split
    | exact fun _ hx => (show Memory.wf _ = true from hx) | exact fun _ hx => Memory.write_wf _ _ _ hx | exact fun _ hx => Memory.clear_wf _ _ _ hx
    | exact fun _ hx => Memory.copy_wf _ _ _ _ _ hx
    | (intro _ hx; (first | show CtxOk _ | show TileOk _ | show Memory.wf _ = true); (repeat' first | exact hx | exact CtxOk.noSave rfl | split | dsimp only); done)
    | intro _ _ _ | intro _ _ | intro _ | dsimp only | (rw [id_eq]) | with_reducible refine Keeps.put ?_ (fun x => x) (fun x => x)

theorem eqWrite_keeps {s0 : State} {s : State} {l : Nat} {tx : Bool} {v : Word} (kp : Keeps s0 s) :
    Keeps s0 (eqWrite s l tx v) := by
  unfold eqWrite
  try dsimp only
  repeat' first
    | with_reducible assumption | with_reducible apply State.modLink_keeps | split
    | (intro _ hx; (first | show CtxOk _ | show TileOk _ | show Memory.wf _ = true); (repeat' first | exact hx | exact CtxOk.noSave rfl | split | dsimp only); done)
    | intro _ _ _ | intro _ _ | intro _ | dsimp only | (rw [id_eq]) | with_reducible refine Keeps.put ?_ (fun x => x) (fun x => x)

theorem saWrite_keeps {s0 s : State} {f : Sa → Sa} (h : Keeps s0 s) : Keeps s0 (saWrite s f) := State.modPort_keeps h

theorem writeReg_keeps {s0 : State} {s : State} {acc : Accessor} {n : RegName} {ix : List Nat} {v : Word} (kp : Keeps s0 s) :
    Keeps s0 (writeReg s acc n ix v) := by
  unfold writeReg
  try dsimp only
  repeat' first
    | with_reducible assumption | with_reducible apply State.plainWrite_keeps | with_reducible apply aliveConfig_keeps
    | with_reducible apply aliveKick_keeps | with_reducible apply aperWrite_keeps | with_reducible apply capWrite_keeps
    | with_reducible apply cloCommand_keeps | with_reducible apply cmdLoad_keeps | with_reducible apply ctlWrite_keeps
    | with_reducible apply ctxResume_keeps | with_reducible apply eqWrite_keeps | with_reducible apply flagWatchWrite_keeps
    | with_reducible apply fltAck_keeps | with_reducible apply fltInject_keeps | with_reducible apply fmeasWrite_keeps
    | with_reducible apply gateCommand_keeps | with_reducible apply insCommand_keeps | with_reducible apply jrnCtlWrite_keeps
    | with_reducible apply jrnTailWrite_keeps | with_reducible apply lnkCommand_keeps | with_reducible apply memCommand_keeps
    | with_reducible apply mgtMuxWrite_keeps | with_reducible apply morCommand_keeps | with_reducible apply mtSet_keeps
    | with_reducible apply partCommand_keeps | with_reducible apply rootEnSet_keeps | with_reducible apply saWrite_keeps
    | with_reducible apply secCommand_keeps | with_reducible apply snap_keeps | with_reducible apply spMuxWrite_keeps
    | with_reducible apply srvCommand_keeps | with_reducible apply sscWrite_keeps | with_reducible apply vltCommand_keeps
    | with_reducible apply watchWrite_keeps | split
    | (intro _ hx; (first | show CtxOk _ | show TileOk _ | show Memory.wf _ = true); (repeat' first | exact hx | exact CtxOk.noSave rfl | split | dsimp only); done)
    | intro _ _ _ | intro _ _ | intro _ | dsimp only | (rw [id_eq]) | with_reducible refine Keeps.put ?_ (fun x => x) (fun x => x)

theorem lockedWrite_keeps {s0 : State} {s : State} {b : Inst} {addr : Nat} {act : State → State} (kp : Keeps s0 s) (hact : ∀ s1, Keeps s0 s1 → Keeps s0 (act s1)) :
    Keeps s0 (lockedWrite s b addr act) := by
  unfold lockedWrite
  try dsimp only
  repeat' first
    | with_reducible assumption | with_reducible apply onUnlocked_keeps | with_reducible apply hact | split
    | (intro _ hx; (first | show CtxOk _ | show TileOk _ | show Memory.wf _ = true); (repeat' first | exact hx | exact CtxOk.noSave rfl | split | dsimp only); done)
    | intro _ _ _ | intro _ _ | intro _ | dsimp only | (rw [id_eq]) | with_reducible refine Keeps.put ?_ (fun x => x) (fun x => x)

theorem writeAt_keeps {s0 : State} {s : State} {acc : Accessor} {addr : Nat} {v : Word} (kp : Keeps s0 s) :
    Keeps s0 (writeAt s acc addr v) := by
  unfold writeAt
  try dsimp only
  repeat' first
    | with_reducible assumption | with_reducible apply expertWrite_keeps | with_reducible apply lockedWrite_keeps
    | with_reducible apply notice_keeps | with_reducible apply writeReg_keeps | split
    | (intro _ hx; (first | show CtxOk _ | show TileOk _ | show Memory.wf _ = true); (repeat' first | exact hx | exact CtxOk.noSave rfl | split | dsimp only); done)
    | intro _ _ _ | intro _ _ | intro _ | dsimp only | (rw [id_eq]) | with_reducible refine Keeps.put ?_ (fun x => x) (fun x => x)

theorem execRegisterWrite_keeps {s0 s : State} {acc : Accessor} {addr : BitVec 32} {value : Word} (h : Keeps s0 s) :
    KeepsN s0 (execRegisterWrite acc addr value s) := by
  unfold execRegisterWrite
  split
  · exact KeepsN.next (writeAt_keeps h)
  · exact execMisaligned_keeps h

theorem execRcRegisterRead_keeps {s0 s : State} {acc : Accessor} {addr : BitVec 32} (h : Keeps s0 s) :
    KeepsN s0 (execRcRegisterRead acc addr s) := by
  unfold execRcRegisterRead
  split
  · have h1 := readAt_keeps (acc := acc) (addr := addr.toNat) h
    generalize readAt s acc addr.toNat = p at h1 ⊢
    obtain ⟨w, s1⟩ := p
    exact KeepsN.next (State.answer_keeps h1)
  · exact execMisaligned_keeps h

theorem execRegReq_keeps {s0 : State} {src : Coord} {write : Bool} {addr : BitVec 32} {value : Word} {bytes : Nat} {s : State} (kp : Keeps s0 s) :
    KeepsN s0 (execRegReq src write addr value bytes s) := by
  unfold execRegReq
  try dsimp only
  repeat' first
    | with_reducible assumption | with_reducible apply misalignedNotice_keeps | with_reducible apply readAt_keeps
    | refine readAt_keeps' (out := (_, _)) (by with_reducible assumption) ?_ | with_reducible apply sendMachine_keeps
    | with_reducible apply writeAt_keeps | with_reducible apply KeepsN.next | with_reducible apply KeepsN.fault | split
    | (intro _ hx; (first | show CtxOk _ | show TileOk _ | show Memory.wf _ = true); (repeat' first | exact hx | exact CtxOk.noSave rfl | split | dsimp only); done)
    | intro _ _ _ | intro _ _ | intro _ | dsimp only | (rw [id_eq]) | with_reducible refine Keeps.put ?_ (fun x => x) (fun x => x)

theorem execRegResp_keeps {s0 : State} {value : Word} {s : State} (kp : Keeps s0 s) :
    KeepsN s0 (execRegResp value s) := by
  unfold execRegResp
  try dsimp only
  repeat' first
    | with_reducible assumption | with_reducible apply State.answer_keeps | with_reducible apply KeepsN.next | with_reducible apply KeepsN.fault
    | split
    | (intro _ hx; (first | show CtxOk _ | show TileOk _ | show Memory.wf _ = true); (repeat' first | exact hx | exact CtxOk.noSave rfl | split | dsimp only); done)
    | intro _ _ _ | intro _ _ | intro _ | dsimp only | (rw [id_eq]) | with_reducible refine Keeps.put ?_ (fun x => x) (fun x => x)

theorem readWords_keeps {s0 s : State} {addr n : Nat} (h : Keeps s0 s) : Keeps s0 (readWords s addr n).2 := by
  induction n generalizing s addr with
  | zero => exact h
  | succ n ih =>
    unfold readWords
    have h1 := readAt_keeps (acc := .sp) (addr := addr % 2 ^ 32) h
    generalize readAt s .sp (addr % 2 ^ 32) = p at h1 ⊢
    obtain ⟨w, s1⟩ := p
    dsimp only
    have h2 := ih (addr := addr + 8) h1
    generalize readWords s1 (addr + 8) n = p at h2 ⊢
    exact h2

theorem readWords_keeps' {s0 s : State} {addr n : Nat} {out : _} (eq : readWords s addr n = out) (h : Keeps s0 s) : Keeps s0 out.2 :=
  eq ▸ readWords_keeps h

theorem execSvcRead_keeps {s0 : State} {seq : BitVec 16} {addr : BitVec 32} {count : Nat} {s : State} (kp : Keeps s0 s) :
    KeepsN s0 (execSvcRead seq addr count s) := by
  unfold execSvcRead
  try dsimp only
  repeat' first
    | with_reducible assumption | with_reducible apply State.each_keeps | with_reducible apply misalignedNotice_keeps
    | with_reducible apply readWords_keeps | refine readWords_keeps' (out := (_, _)) (by with_reducible assumption) ?_
    | with_reducible apply svcRequest_keeps | with_reducible apply KeepsN.next | with_reducible apply KeepsN.fault | split
    | (intro _ hx; (first | show CtxOk _ | show TileOk _ | show Memory.wf _ = true); (repeat' first | exact hx | exact CtxOk.noSave rfl | split | dsimp only); done)
    | intro _ _ _ | intro _ _ | intro _ | dsimp only | (rw [id_eq]) | with_reducible refine Keeps.put ?_ (fun x => x) (fun x => x)

end Sys2Proof.Machine
end

