-- ==== Sys2Proof/WellFormed.lean ====
section
/-! DEFINITION. What a command must satisfy beyond the types of its operands: the lengths that the manual fixes. -/

namespace Sys2Proof

/-- Parameter entries hold numbers of the widths of R210. -/
def ParamBlock.wf (p : ParamBlock) : Bool :=
  p.seed.length == 32 && decide (p.invTemp < 2 ^ 32 ∧ p.topk < 2 ^ 16 ∧ p.topp < 2 ^ 32 ∧ p.rep < 2 ^ 32 ∧ p.pres < 2 ^ 32
    ∧ p.freq < 2 ^ 32 ∧ p.penWindow < 2 ^ 16 ∧ p.draftLen < 2 ^ 8 ∧ p.maxNew < 2 ^ 32)

/-- A launch message's image identity is a SHA-384 digest (R156) or absent. -/
def LaunchMsg.wf (m : LaunchMsg) : Bool := m.imageId.length == 48 || m.imageId.length == 0

/-- The numbers of corrupted symbols are those of one 36-symbol word (R73, R242). -/
def Findings.wf (f : Findings) : Bool := f.syms.all fun e => decide (e.2 ≤ 36)

/-- Commands whose operands have a length or range that their type does not say. -/
def Instr.wf : Instr → Bool
  | .misaligned _ addr bytes _ => decide (bytes ≠ 8 ∨ addr.toNat % 8 ≠ 0)
  | .streamLineFetch _ f | .unitStart _ _ _ f | .load _ _ _ f | .store _ _ _ f | .move _ f | .send _ f | .matmul _ f
  | .attn _ f | .norm _ f | .act _ f | .softmax _ f | .requant _ f | .vec _ f | .tailorApply _ f | .tailorGather _ f
  | .sample _ f | .batchFetch _ f | .vaultRequestStart _ _ f | .recalDone _ f | .demoteCopyDone _ f
  | .promoteCopyDone _ f | .erasureComplete f | .openReq _ f | .admitReq _ f | .tailorBind _ f | .resultSlotConsume _ f => f.wf
  | .patrolScrub _ frame f => decide (frame < 18432) && f.wf
  | .frameZero cxl _ frame => cxl || decide (frame < 18432)
  | .vc0FlitReceive _ slot flit _ => decide (slot.val < 56 ∨ 60 ≤ slot.val) && flit.length == 40
  | .linkControlFlit _ flit _ => flit.length == 40
  | .frameSend _ bad => bad.all fun k => decide (k < 62)
  | .replayFlitReceive _ _ flit _ => flit.length == 40
  | .packetReceive _ vc => decide (vc ≠ 0)
  | .headerChunk _ raw | .dataChunk _ raw | .endChunk _ raw => decide (32 ≤ raw.length ∧ raw.length ≤ 131072)
  | .imagePacket _ _ _ offset _ data => decide (offset % 4096 = 0 ∧ data.length ≤ 131072)
  | .prepare m | .answer m | .commit m | .abortFlood m | .preemptPrepare m | .preemptAnswer m | .preemptGo m
  | .preemptCancel m => m.wf
  | .stepMessage _ _ msg => msg.params.all fun p => p.2.wf
  | .cxlLinkUp _ rate _ => decide (rate ≠ 3)
  | .memCmdDone _ failed => failed.all fun f => decide (f < 18432)
  | .apertureAccess _ _ _ bytes data f => f.wf && decide (1 ≤ bytes ∧ bytes ≤ 64) && (match data with | some d => d.length == bytes | none => true)
  | .fwPart _ _ _ data => data.length == 8192
  | .svcAttest _ _ nonce => nonce.length == 32
  | .regReq _ _ _ _ bytes => decide (bytes ≤ 8)
  | _ => true

end Sys2Proof
end

