-- ==== Sys2Proof/Tests/Slice0.lean ====
section
/-! SUPPORT. Tests: commands that are not well-formed, values worked from the manual, and for every statement with hypotheses a state and operands
that meet them, clause by clause (witness_<statement>_<n>). -/

open Sys2Proof Sys2Proof.Machine Sys2Proof.Safety

namespace Sys2Proof.Tests

set_option maxRecDepth 100000
set_option linter.all false
set_option Elab.async false

/-- A management core, core 0. -/
def core0 : Accessor := .mgt 0

/-- A chip after reset whose tiles are tested. -/
def base : State := { State.reset with tested := true }

/-- The context of most tests: slot 3 under generation 5, owned by core 0. -/
def ctx3 : Ctx := { state := .opened, gen := 5, owners := 1 }

/-- A chip that holds a context in slot 3. -/
def withCtx (c : Ctx) : State := base.setCtx 3 c

/-- Register words written one after another. -/
def regs (s : State) (l : List (RegName × List Nat × Word)) : State := l.foldl (fun s e => s.setRg e.1 e.2.1 e.2.2) s

/-- A Cloakroom command on the context of slot 3: its type and arguments. -/
def clo (c : Ctx) (type a1 a2 : Nat) : State :=
  regs (withCtx c) [(.cloArg0, [], Word.ofNat (163 + 65536 * type)), (.cloArg1, [], Word.ofNat a1), (.cloArg2, [], Word.ofNat a2)]

/-- Clean frames of stack 0 from frame 100 on. -/
def cleanFrames (s : State) (n : Nat) : State :=
  s.modHbm 0 fun h => { h with phase := .ready, frames := (List.range n).map fun i => (100 + i, { clean := true }) }

/-- A macro-op of word 0. -/
def noOp : MacroOp := { index := 0, word := 0 }


/-- An image of one row of tiles with one variant, whose stream of eight macro-ops for virtual tile 0 stands at 0x200000. -/
def runIm : Image :=
  { id := [], chip := 0, chips := 1, minQuota := 0, isLead := true, serving := false, dhop := 0, variants := [(0, 0)], var0 := 0, var1 := 0, vrows := 1,
    vocab := 0, links := 0, segs := [{ base := 0x200000, size := 0x600000, tier := 0, write := true, window := false }], streams := [(0, (0x200000, 8))],
    slots := [], routes := [] }

/-- The context of a running plan with tile 7 and one page. -/
def runCtx : Ctx :=
  { ctx3 with tiles := [7], image := some runIm, varIdx := [(0, 0), (1, 0)], hbm := [{ unit := 0, frame := 9 }], plan := { state := .running, pcy := 10 },
              pt := [(1, { frame := some { unit := 0, frame := 9 }, write := true })] }

/-- A tile of that context. -/
def tile0 : Tile := { state := .granted, ctx := some { slot := 3, gen := 5 }, power := .run, bank := .active }

/-- A chip that runs that plan, tile 7 as given. -/
def tileS (x : Tile) : State := (withCtx runCtx).modTile 7 fun _ => x

/-- A descriptor's bytes. -/
def dsc (kind fmt rows cols stride data scaleOff : Nat) : List Byte :=
  leBytes 1 (kind + 8 * fmt) ++ [0, 0, 0] ++ leBytes 4 rows ++ leBytes 4 cols ++ leBytes 4 stride ++ leBytes 8 data ++ leBytes 4 scaleOff ++ leBytes 4 0

/-- A descriptor table of four. -/
def tbl : Memory := Memory.write [] 0 (dsc 0 2 2 32 8 0x100 64 ++ dsc 0 2 2 32 8 0x200 64 ++ dsc 1 2 2 32 8 0x200100 64 ++ dsc 3 3 1 1 4 0x300 0)

/-- A macro-op without signal: its opcode, AT and operands from bit 48 on. -/
def mop (op at_ rest : Nat) : MacroOp := { index := 4, word := op + 2 ^ 16 * at_ + 2 ^ 48 * rest }

/-- A macro-op that has started on the descriptors of `tbl`. -/
def run0 (o : MacroOp) : Running :=
  { op := o, started := true, data := o.fields.map fun b => (b, [0x100, 0x200, 0x200100, 0x300].getD (o.f b 10) 0) }

/-- The state after a command. -/
def after (c : Instr) (s : State) : State := match exec c s with
  | .next t => t
  | _ => s

/-- A command answers a next state. -/
def goesOn (c : Instr) (s : State) : Bool := match exec c s with
  | .next _ => true
  | _ => false

theorem next_after (c : Instr) (s : State) (h : goesOn c s = true) : exec c s = .next (after c s) := by
  unfold goesOn at h
  unfold after
  split at h
  · rename_i t ht; rw [ht]
  · cases h

/-! ### Registers -/

namespace TA

def adr (n : RegName) (ix : List Nat) : BitVec 32 := BitVec.ofNat 32 (n.addr ix)
def instOf (n : RegName) (ix : List Nat) : Inst := (instAt (n.addr ix)).getD (tileInst 0)
def gapA : BitVec 32 := BitVec.ofNat 32 ((instOf .cloArg0 []).base + 0x7FF0)
def w1 := { base with csr := KMap.set 0 base.csr (instOf .netUnschedW []).unlockAddr 0x10000 }
def ueTile : State := (base.setTile 9 { state := .granted, bank := .active, ctx := some { slot := 3, gen := 5 } }).setRg .tilSramUe [9] (1 <<< 63) |>.setCtx 3 ctx3
def absB : State := { base with failedB := [srcMem 7] }
def unl (n : RegName) (ix : List Nat) : BitVec 32 := BitVec.ofNat 32 (instOf n ix).unlockAddr
def reqReg : State := topo2x (base.setRg .cloArg0 [] 9)
  where topo2x (s : State) : State := s.setRg .netTopo [] 1
def afterW : State := match exec (.registerWrite .vc3 (adr .cloArg0 []) 4) reqReg with | .next t => t | _ => base
def afterR : State := match exec (.rcRegisterRead .vc3 (adr .cloArg0 [])) reqReg with | .next t => t | _ => base
theorem witness_StepRunsFrontCommand :
    base.pending = [] := by
  decide +kernel
theorem witness_RegisterMapSound :
    regAt (RegName.cloArg0.addr []) = some (RegName.cloArg0, []) := by
  decide +kernel
theorem witness_FieldWrite :
    63 < 64 := by
  decide +kernel
theorem witness_PlainRegisterAccess :
    ((adr RegName.cloArg0 []).toNat % 8 = 0 ∧ instAt (adr RegName.cloArg0 []).toNat = some (instOf RegName.cloArg0 []) ∧ base.absent (instOf
     RegName.cloArg0 []).src = false ∧ (adr RegName.cloArg0 []).toNat ≠ (instOf RegName.cloArg0 []).unlockAddr ∧ regAt (adr RegName.cloArg0
     []).toNat = some (RegName.cloArg0, []) ∧ plainReg RegName.cloArg0 = true ∧ base.writeOpen core0 (instOf RegName.cloArg0 []) RegName.cloArg0
     [] = true ∧ ((instOf RegName.cloArg0 []).upper (adr RegName.cloArg0 []).toNat = true → base.unlocked (instOf RegName.cloArg0 []) = true))
    ∧ ((adr RegName.netUnschedW []).toNat % 8 = 0 ∧ instAt (adr RegName.netUnschedW []).toNat = some (instOf RegName.netUnschedW []) ∧ w1.absent
     (instOf RegName.netUnschedW []).src = false ∧ (adr RegName.netUnschedW []).toNat ≠ (instOf RegName.netUnschedW []).unlockAddr ∧ regAt (adr
     RegName.netUnschedW []).toNat = some (RegName.netUnschedW, []) ∧ plainReg RegName.netUnschedW = true ∧ w1.writeOpen core0 (instOf
     RegName.netUnschedW []) RegName.netUnschedW [] = true ∧ ((instOf RegName.netUnschedW []).upper (adr RegName.netUnschedW []).toNat = true →
     w1.unlocked (instOf RegName.netUnschedW []) = true))
    ∧ ((adr RegName.timFrostTail []).toNat % 8 = 0 ∧ instAt (adr RegName.timFrostTail []).toNat = some (instOf RegName.timFrostTail []) ∧
     (base.setRg RegName.timFrostTail [] 5).absent (instOf RegName.timFrostTail []).src = false ∧ (adr RegName.timFrostTail []).toNat ≠ (instOf
     RegName.timFrostTail []).unlockAddr ∧ regAt (adr RegName.timFrostTail []).toNat = some (RegName.timFrostTail, []) ∧ plainReg
     RegName.timFrostTail = true ∧ (base.setRg RegName.timFrostTail [] 5).readOpen core0 (instOf RegName.timFrostTail []) RegName.timFrostTail []
     = true ∧ (RegName.timFrostTail.ofBank = true → ((base.setRg RegName.timFrostTail [] 5).getTile ([].getD 0 0)).bank ≠ SyncState.unbound))
    ∧ ((adr RegName.tilSramUe [9]).toNat % 8 = 0 ∧ instAt (adr RegName.tilSramUe [9]).toNat = some (instOf RegName.tilSramUe [9]) ∧ ueTile.absent
     (instOf RegName.tilSramUe [9]).src = false ∧ (adr RegName.tilSramUe [9]).toNat ≠ (instOf RegName.tilSramUe [9]).unlockAddr ∧ regAt (adr
     RegName.tilSramUe [9]).toNat = some (RegName.tilSramUe, [9]) ∧ plainReg RegName.tilSramUe = true ∧ ueTile.readOpen core0 (instOf
     RegName.tilSramUe [9]) RegName.tilSramUe [9] = true ∧ (RegName.tilSramUe.ofBank = true → (ueTile.getTile ([9].getD 0 0)).bank ≠
     SyncState.unbound)) := by
  and_intros <;> first | decide +kernel | rfl
theorem witness_UnnamedAddress :
    (gapA.toNat % 8 = 0 ∧ instAt gapA.toNat = some (instOf RegName.cloArg0 []) ∧ base.absent (instOf RegName.cloArg0 []).src = false ∧ gapA.toNat
     ≠ (instOf RegName.cloArg0 []).unlockAddr ∧ regAt gapA.toNat = none)
    ∧ (BitVec.toNat (8388608 : BitVec 32) % 8 = 0 ∧ instAt (BitVec.toNat (8388608 : BitVec 32)) = none ∧ 65536 ≤ BitVec.toNat (8388608 : BitVec 32)) := by
  and_intros <;> first | decide +kernel | rfl
theorem witness_RefusedAccess :
    ((adr RegName.tilDescSel [9]).toNat % 8 = 0 ∧ instAt (adr RegName.tilDescSel [9]).toNat = some (instOf RegName.tilDescSel [9]) ∧ ueTile.absent
     (instOf RegName.tilDescSel [9]).src = false ∧ (adr RegName.tilDescSel [9]).toNat ≠ (instOf RegName.tilDescSel [9]).unlockAddr ∧ regAt (adr
     RegName.tilDescSel [9]).toNat = some (RegName.tilDescSel, [9]) ∧ ueTile.ticketFor (Accessor.mgt 3) RegName.tilDescSel [9] = false ∧
     RegName.tilDescSel ≠ RegName.clkGateCmd ∧ RegName.tilDescSel ≠ RegName.insCmd)
    ∧ ((adr RegName.netLaunchLead []).toNat % 8 = 0 ∧ instAt (adr RegName.netLaunchLead []).toNat = some (instOf RegName.netLaunchLead []) ∧
     base.absent (instOf RegName.netLaunchLead []).src = false ∧ (adr RegName.netLaunchLead []).toNat ≠ (instOf RegName.netLaunchLead
     []).unlockAddr ∧ regAt (adr RegName.netLaunchLead []).toNat = some (RegName.netLaunchLead, []) ∧ (Accessor.vc3 = Accessor.vc3 ∧ ((instOf
     RegName.netLaunchLead []).type = 18 ∨ (instOf RegName.netLaunchLead []).type = 19 ∨ (instOf RegName.netLaunchLead []).type = 36 ∨ (instOf
     RegName.netLaunchLead []).type = 37 ∨ RegName.netLaunchLead.ofInstall = true)) ∧ RegName.netLaunchLead ≠ RegName.clkGateCmd ∧
     RegName.netLaunchLead ≠ RegName.insCmd)
    ∧ ((adr RegName.fltJrnBase [0]).toNat % 8 = 0 ∧ instAt (adr RegName.fltJrnBase [0]).toNat = some (instOf RegName.fltJrnBase [0]) ∧ base.absent
     (instOf RegName.fltJrnBase [0]).src = false ∧ (adr RegName.fltJrnBase [0]).toNat ≠ (instOf RegName.fltJrnBase [0]).unlockAddr ∧ regAt (adr
     RegName.fltJrnBase [0]).toNat = some (RegName.fltJrnBase, [0]) ∧ (Accessor.vc3 = Accessor.vc3 ∧ ((instOf RegName.fltJrnBase [0]).type = 18 ∨
     (instOf RegName.fltJrnBase [0]).type = 19 ∨ (instOf RegName.fltJrnBase [0]).type = 36 ∨ (instOf RegName.fltJrnBase [0]).type = 37 ∨
     RegName.fltJrnBase.ofInstall = true)) ∧ RegName.fltJrnBase ≠ RegName.clkGateCmd ∧ RegName.fltJrnBase ≠ RegName.insCmd)
    ∧ ((adr RegName.tilDescSel [9]).toNat % 8 = 0 ∧ instAt (adr RegName.tilDescSel [9]).toNat = some (instOf RegName.tilDescSel [9]) ∧ ueTile.absent
     (instOf RegName.tilDescSel [9]).src = false ∧ (adr RegName.tilDescSel [9]).toNat ≠ (instOf RegName.tilDescSel [9]).unlockAddr ∧ regAt (adr
     RegName.tilDescSel [9]).toNat = some (RegName.tilDescSel, [9]) ∧ ueTile.ticketFor (Accessor.mgt 3) RegName.tilDescSel [9] = false ∧
     RegName.tilDescSel ≠ RegName.netPartEnt0 ∧ RegName.tilDescSel ≠ RegName.netPartEnt1)
    ∧ ((adr RegName.insSession []).toNat % 8 = 0 ∧ instAt (adr RegName.insSession []).toNat = some (instOf RegName.insSession []) ∧ base.absent
     (instOf RegName.insSession []).src = false ∧ (adr RegName.insSession []).toNat ≠ (instOf RegName.insSession []).unlockAddr ∧ regAt (adr
     RegName.insSession []).toNat = some (RegName.insSession, []) ∧ (Accessor.vc3 = Accessor.vc3 ∧ ((instOf RegName.insSession []).type = 36 ∨
     (instOf RegName.insSession []).type = 37 ∨ RegName.insSession.ofInstall = true)) ∧ RegName.insSession ≠ RegName.netPartEnt0 ∧
     RegName.insSession ≠ RegName.netPartEnt1)
    ∧ ((adr RegName.fltInject []).toNat % 8 = 0 ∧ instAt (adr RegName.fltInject []).toNat = some (instOf RegName.fltInject []) ∧ base.absent (instOf
     RegName.fltInject []).src = false ∧ (adr RegName.fltInject []).toNat ≠ (instOf RegName.fltInject []).unlockAddr ∧ regAt (adr
     RegName.fltInject []).toNat = some (RegName.fltInject, []) ∧ base.writeOpen core0 (instOf RegName.fltInject []) RegName.fltInject [] = true ∧
     (instOf RegName.fltInject []).upper (adr RegName.fltInject []).toNat = true ∧ base.unlocked (instOf RegName.fltInject []) = false) := by
  and_intros <;> first | decide +kernel | rfl
theorem witness_UnreachedAccess :
    (¬(8 = 8 ∧ BitVec.toNat (1572868 : BitVec 32) % 8 = 0))
    ∧ (¬(4 = 8 ∧ BitVec.toNat (1572864 : BitVec 32) % 8 = 0))
    ∧ (instAt (BitVec.ofNat 32 (RegName.memTemp.addr [7])).toNat = some (instOf RegName.memTemp [7]) ∧ absB.absent (instOf RegName.memTemp [7]).src
     = true ∧ srcMem 7 = (instOf RegName.memTemp [7]).src)
    ∧ (instAt (BitVec.toNat (8388608 : BitVec 32)) = none ∧ 65536 ≤ BitVec.toNat (8388608 : BitVec 32) ∧ 0 = 0)
    ∧ (mapped (BitVec.toNat (85899345920 : BitVec 64)) = false) := by
  and_intros <;> first | decide +kernel | rfl
theorem witness_ExpertUnlock :
    (instAt (unl RegName.netUnschedW []).toNat = some (instOf RegName.netUnschedW []) ∧ (unl RegName.netUnschedW []).toNat = (instOf
     RegName.netUnschedW []).unlockAddr ∧ base.absent (instOf RegName.netUnschedW []).src = false ∧ writesReach core0 (instOf RegName.netUnschedW
     []).type = true ∧ base.expertAvail (instOf RegName.netUnschedW []) = true)
    ∧ (instAt (unl RegName.netUnschedW []).toNat = some (instOf RegName.netUnschedW []) ∧ (unl RegName.netUnschedW []).toNat = (instOf
     RegName.netUnschedW []).unlockAddr ∧ w1.absent (instOf RegName.netUnschedW []).src = false ∧ writesReach core0 (instOf RegName.netUnschedW
     []).type = true ∧ field 1 0 16 ≠ 24256)
    ∧ (instAt (unl RegName.cloArg0 []).toNat = some (instOf RegName.cloArg0 []) ∧ (unl RegName.cloArg0 []).toNat = (instOf RegName.cloArg0
     []).unlockAddr ∧ base.absent (instOf RegName.cloArg0 []).src = false ∧ writesReach core0 (instOf RegName.cloArg0 []).type = true ∧ field
     24256 0 16 = 24256 ∧ base.expertAvail (instOf RegName.cloArg0 []) = false) := by
  and_intros <;> first | decide +kernel | rfl
theorem witness_RemoteAccess :
    (adr RegName.cloArg0 []).toNat % 8 = 0 ∧ afterR.resp = some 9 := by
  decide +kernel

end TA

/-! ### Time and faults -/

namespace TB

def rootS : State := base.setRg .timRootCtl [] 1
def folS : State := (base.modLink 2 fun x => { x with state := .up, advDepth := 4, advRoot := some 9 })
def todFull : State := { rootS with pins := { rootS.pins with tod := List.replicate 256 0 } }
def tod255 : State := { rootS with pins := { rootS.pins with tod := List.replicate 255 0 } }
def slewS (sl : Int) (last ticks : Nat) : State := { base with time := { base.time with mt := 50, slew := sl, lastSlew := last, refTicks := ticks } }
def recO : FltRecord := { written := true, source := srcTim, cause := Cause.timeSetRefused.code, count := 1, seq := 4 }
def ringS (l : KMap FltRecord) : State := { base with flt := { base.flt with ring := l, nextSeq := 9 } }
def w1 := ringS [(0, { recO with acked := true })]
def w2 := ringS [(0, { recO with source := 7 })]
def recA (a i : Nat) : FltRecord := { recO with source := 7, cause := Cause.clkMuxHung.code, seq := 600 - i, acked := i == a }
/-- The records `k` and on, `n` of them, of which the one numbered `a` is acknowledged. -/
def recsFrom (a : Nat) : Nat → Nat → KMap FltRecord
  | _, 0 => []
  | k, n + 1 => (k, recA a k) :: recsFrom a (k + 1) n
/-- A full ring without an acknowledged record. -/
def openRing : State := ringS (recsFrom 512 0 512)
/-- A full ring whose record 511 is acknowledged. -/
def ackRing : State := ringS (recsFrom 511 0 512)
theorem recsFrom_get (a : Nat) (d : FltRecord) (n : Nat) : ∀ k i, k ≤ i → i < k + n → KMap.get d (recsFrom a k n) i = recA a i := by
  induction n with
  | zero => intro k i h h'; omega
  | succ n ih =>
    intro k i h h'
    rw [recsFrom, KMap.get]
    split
    · rename_i e; rw [e]
    · rw [if_neg (by omega)]; exact ih (k + 1) i (by omega) (by omega)
theorem recsFrom_acked (a n : Nat) : ∀ k, k + n ≤ a → (recsFrom a k n).filter (fun e => e.2.acked) = [] := by
  induction n with
  | zero => intro k h; rfl
  | succ n ih =>
    intro k h
    rw [recsFrom, List.filter_cons_of_neg (by simp [recA]; omega), ih (k + 1) (by omega)]
theorem recsFrom_last (n : Nat) : ∀ k, (recsFrom (k + n) k (n + 1)).filter (fun e => e.2.acked) = [(k + n, recA (k + n) (k + n))] := by
  induction n with
  | zero => intro k; simp [recsFrom, recA]
  | succ n ih =>
    intro k
    rw [recsFrom, List.filter_cons_of_neg (by simp [recA]), show k + (n + 1) = (k + 1) + n by omega, ih (k + 1)]
theorem ring_oldest (a n : Nat) (h : 512 ≤ n) : (ringS (recsFrom a 0 n)).oldestAcked = (ringS (recsFrom a 0 n)).oldest fun r => r.acked := by
  unfold State.oldestAcked
  rw [List.find?_eq_none.2]
  intro i hi
  have hi := List.mem_range.1 hi
  unfold State.fltRec ringS
  rw [recsFrom_get _ _ _ _ _ (by omega) (by omega)]
  simp [recA, recO]
theorem witness_NoticePlacement_none : openRing.oldestAcked = none := by
  rw [openRing, ring_oldest _ _ (Nat.le_refl 512), State.oldest, ringS, recsFrom_acked _ _ _ (by omega)]
  rfl
theorem witness_NoticePlacement_last : ackRing.oldestAcked = some 511 := by
  rw [ackRing, ring_oldest _ _ (Nat.le_refl 512), State.oldest, ringS]
  have h := recsFrom_last 511 0
  simp only [Nat.zero_add] at h
  rw [show 512 = 511 + 1 from rfl, h]
  rfl
def w3 := ringS [(3, recO), (4, { recO with level := 1 }), (5, { recO with level := 2 })]
def injS : State := { (withCtx ctx3) with csr := KMap.set 0 base.csr fltInst.unlockAddr 0x10000, fuses := { base.fuses with lifecycle := 1 } }
def injV : Word := Word.ofNat (0x1200 + 2 ^ 24 * Cause.timeSetRefused.code + 2 ^ 40 + 2 ^ 41 * 3 + 2 ^ 46 * 5)
def l1Ring : State := { withCtx ctx3 with flt := { base.flt with ring := [(0, { recO with cause := Cause.frostTimeout.code, level := 1 })], aliveRun := true } }
def alive (f : Machine.Faults → Machine.Faults) (r : Nat) : State := { base.setRg .fltAlive [] (Word.ofNat r) with flt := f base.flt }
def w4 := alive (fun f => { f with aliveRun := true }) 0
def w5 := alive (fun f => { f with wdogTrip := true, expired := true }) 0
def wdog (n : Nat) : State := { alive (fun f => { f with aliveRun := true }) (2 ^ 20 + 2 ^ 21 * 3) with time := { base.time with refTicks := n } }
def cfgW (ms : Nat) : Word := Word.ofNat (2 ^ 20 + 2 ^ 21 * ms + 5)
def stopCtx : Ctx := { ctx3 with plan := { state := .stopped }, tiles := [4] }
def snapS (b : Bool) : State := { withCtx { stopCtx with tiles := [] } with snap := some { ctx := { slot := 3, gen := 5 }, scope := 0, perTile := b } }
theorem witness_TimeSetCommands :
    (base.absent srcTim = false ∧ base.rootEn = false ∧ base.time.sync = Sync.unsynced)
    ∧ (rootS.absent srcTim = false ∧ rootS.rootEn = true)
    ∧ (base.absent srcTim = false ∧ BitVec.getLsbD (1 : Word) 0 = true)
    ∧ (rootS.absent srcTim = false ∧ BitVec.getLsbD (2 : Word) 0 = false)
    ∧ (folS.absent srcTim = false ∧ BitVec.getLsbD (0 : Word) 0 = false) := by
  and_intros <;> first | decide +kernel | rfl
theorem witness_TimeInputs :
    (rootS.rootEn = true)
    ∧ (tod255.rootEn = true ∧ tod255.pins.tod.length < 256)
    ∧ (todFull.rootEn = true ∧ 256 ≤ todFull.pins.tod.length)
    ∧ (base.rootEn = false) := by
  and_intros <;> first | decide +kernel | rfl
theorem witness_NoticePlacement :
    (Cause.timeSetRefused.level = 0 ∧ (List.find? (fun e => e.snd.open_ && e.snd.level == 0 && e.snd.source == srcTim && e.snd.cause ==
     Cause.timeSetRefused.code && e.snd.ctx == none) (ringS [(5, recO)]).flt.ring = some (5, recO)))
    ∧ (Cause.timeSetRefused.level = 0 ∧ (∀ (e : Nat × FltRecord), e ∈ w1.flt.ring → ¬(e.snd.open_ = true ∧ e.snd.level = 0 ∧ e.snd.source = srcTim ∧
     e.snd.cause = Cause.timeSetRefused.code ∧ e.snd.ctx = none)) ∧ w1.oldestAcked = some 1)
    ∧ (Cause.timeSetRefused.level = 0 ∧ (∀ (e : Nat × FltRecord), e ∈ w2.flt.ring → ¬(e.snd.open_ = true ∧ e.snd.level = 0 ∧ e.snd.source = srcTim ∧
     e.snd.cause = Cause.timeSetRefused.code ∧ e.snd.ctx = none)) ∧ w2.oldestAcked = some 1)
    ∧ (Cause.timeSetRefused.level = 0 ∧ (∀ (e : Nat × FltRecord), e ∈ openRing.flt.ring → ¬(e.snd.open_ = true ∧ e.snd.level = 0 ∧ e.snd.source =
     srcTim ∧ e.snd.cause = Cause.timeSetRefused.code ∧ e.snd.ctx = none)) ∧ openRing.oldestAcked = none)
    ∧ (Cause.timeSetRefused.level = 0 ∧ (∀ (e : Nat × FltRecord), e ∈ ackRing.flt.ring → ¬(e.snd.open_ = true ∧ e.snd.level = 0 ∧ e.snd.source =
     srcTim ∧ e.snd.cause = Cause.timeSetRefused.code ∧ e.snd.ctx = none)) ∧ ackRing.oldestAcked = some 511) := by
  and_intros <;> first | decide +kernel | rfl | exact witness_NoticePlacement_none | exact witness_NoticePlacement_last
theorem witness_Acknowledge :
    w3.absent srcFlt = false ∧ isLocal core0 = true := by
  decide +kernel
theorem witness_Inject :
    (injS.absent srcFlt = false ∧ isLocal core0 = true ∧ injS.unlocked fltInst = true ∧ Cause.ofCode (field injV 24 16) = some
     Cause.timeSetRefused ∧ 3 = field injV 41 5 ∧ 5 = field injV 46 11)
    ∧ (injS.absent srcFlt = false ∧ isLocal core0 = true ∧ injS.unlocked fltInst = true ∧ Cause.ofCode (field 0 24 16) = none)
    ∧ (base.absent srcFlt = false ∧ isLocal core0 = true ∧ base.unlocked fltInst = false) := by
  and_intros <;> first | decide +kernel | rfl
theorem witness_Levels :
    ((withCtx ctx3).live ((withCtx ctx3).idOf 3) = true ∧ 3 < 32 ∧ Cause.frostTimeout.level = 1 ∧ (withCtx ctx3).classOpen Cause.frostTimeout.code
     = false ∧ (withCtx ctx3).oldestAcked ≠ none)
    ∧ (l1Ring.live (l1Ring.idOf 3) = true ∧ 3 < 32 ∧ Cause.frostTimeout.level = 1 ∧ l1Ring.classOpen Cause.frostTimeout.code = true)
    ∧ ((withCtx ctx3).live ((withCtx ctx3).idOf 3) = true ∧ 3 < 32 ∧ Cause.meshMargin.level = 2) := by
  and_intros <;> first | decide +kernel | rfl
theorem witness_AliveCommands :
    (w4.absent srcFlt = false ∧ isLocal core0 = true ∧ w4.flt.aliveRun = true)
    ∧ (base.absent srcFlt = false ∧ isLocal core0 = true ∧ base.flt.aliveRun = false)
    ∧ (w5.absent srcFlt = false ∧ isLocal core0 = true ∧ BitVec.getLsbD (1 : Word) 0 = true)
    ∧ ((wdog 3750000).absent srcFlt = false ∧ isLocal core0 = true ∧ (wdog 3750000).bit RegName.fltAlive [] 20 = true ∧ (wdog 3750000).flt.lastKick
     + 1250000 * max 1 ((wdog 3750000).fld RegName.fltAlive [] 21 16) ≤ (wdog 3750000).time.refTicks ∧ (wdog 3750000).flt.expired = false)
    ∧ (base.absent srcFlt = false ∧ isLocal core0 = true ∧ BitVec.getLsbD (cfgW 2) 20 = true ∧ base.bit RegName.fltAlive [] 20 = false)
    ∧ ((wdog 3750000).absent srcFlt = false ∧ isLocal core0 = true ∧ ((wdog 3750000).bit RegName.fltAlive [] 20 = true ∧ (wdog
     3750000).time.refTicks < (wdog 3750000).flt.lastKick + 1250000 * max 1 (field (cfgW 4) 21 16)))
    ∧ ((wdog 3750000).absent srcFlt = false ∧ isLocal core0 = true ∧ BitVec.getLsbD (5 : Word) 20 = false)
    ∧ ((wdog 3750000).absent srcFlt = false ∧ isLocal core0 = true ∧ BitVec.getLsbD (cfgW 3) 20 = true ∧ (wdog 3750000).bit RegName.fltAlive [] 20 =
     true ∧ (wdog 3750000).flt.lastKick + 1250000 * max 1 (field (cfgW 3) 21 16) ≤ (wdog 3750000).time.refTicks ∧ (wdog 3750000).flt.expired =
     false) := by
  and_intros <;> first | decide +kernel | rfl
theorem witness_Snapshots :
    ((withCtx stopCtx).absent srcFlt = false ∧ isLocal core0 = true ∧ { slot := 3, gen := 5 : CtxId } = CtxId.ofNat (field (Word.ofNat (163 +
     65536 * 5)) 0 16) ∧ (withCtx stopCtx).live { slot := 3, gen := 5 : CtxId } = true ∧ (withCtx stopCtx).owns core0
     { slot := 3, gen := 5 : CtxId }.slot = true ∧ ((withCtx stopCtx).getCtx { slot := 3, gen := 5 : CtxId }.slot).plan.state = PlanState.stopped
     ∧ (withCtx stopCtx).snap = none)
    ∧ ((withCtx stopCtx).absent srcFlt = false ∧ isLocal core0 = true ∧ { slot := 3, gen := 6 : CtxId } = CtxId.ofNat (field (195 : Word) 0 16) ∧
     (withCtx stopCtx).snap = none ∧ ((withCtx stopCtx).live { slot := 3, gen := 6 : CtxId } = false ∧ 4 = 4))
    ∧ ((withCtx stopCtx).absent srcFlt = false ∧ isLocal (Accessor.mgt (2 : Fin 8)) = true ∧ { slot := 3, gen := 5 : CtxId } = CtxId.ofNat (field
     (163 : Word) 0 16) ∧ (withCtx stopCtx).snap = none ∧ ((withCtx stopCtx).live { slot := 3, gen := 5 : CtxId } = true ∧ (withCtx stopCtx).owns
     (Accessor.mgt (2 : Fin 8)) { slot := 3, gen := 5 : CtxId }.slot = false ∧ 3 = 3))
    ∧ ((withCtx ctx3).absent srcFlt = false ∧ isLocal core0 = true ∧ { slot := 3, gen := 5 : CtxId } = CtxId.ofNat (field (163 : Word) 0 16) ∧
     (withCtx ctx3).snap = none ∧ ((withCtx ctx3).live { slot := 3, gen := 5 : CtxId } = true ∧ (withCtx ctx3).owns core0
     { slot := 3, gen := 5 : CtxId }.slot = true ∧ ((withCtx ctx3).getCtx { slot := 3, gen := 5 : CtxId }.slot).plan.state ≠ PlanState.stopped ∧ 1
     = 1))
    ∧ ((snapS true).absent srcFlt = false ∧ isLocal core0 = true ∧ (snapS true).snap = some
     { ctx := { slot := 3, gen := 5 : CtxId }, scope := 0, perTile := true : Snap } ∧ (snapS true).live
     { ctx := { slot := 3, gen := 5 : CtxId }, scope := 0, perTile := true : Snap }.ctx = true ∧ (snapS true).drainDone
     { ctx := { slot := 3, gen := 5 : CtxId }, scope := 0, perTile := true : Snap }.ctx.slot = true) := by
  and_intros <;> first | decide +kernel | rfl

end TB

/-! ### Pins, security -/

namespace TC

def pin (p : Machine.Pins) : State := { base with pins := p }
def railS (r : Nat) : State := pin { porstN := true, step := 3, good := 3 + 4 * (2 ^ (r - 2) - 1), enabling := some r }
def w1 := { railS 4 with fuses := { base.fuses with grade := 3 } }
def upPins : Machine.Pins := { porstN := true, resetN := true, step := 7, good := 127 }
def upS : State := { withCtx { ctx3 with plan := { state := .running } } with pins := upPins, clk := { base.clk with pstate := 2 } }
def w2 := { upS with fuses := { base.fuses with grade := 3 } }
def resetOk (c : Instr) : Bool := match exec c upS with
  | .next t => t.time = {} && t.ctx = [] && t.tile = [] && t.link = [] && t.req = [] && t.flt.ring = [] && !t.flt.fatal && !t.flt.aliveRun && t.loader = none && t.cloOp = none
     && t.fuses = upS.fuses && t.sec.flash = upS.sec.flash && t.sec.slots = upS.sec.slots && t.flt.log = upS.flt.log && t.mgt = upS.mgt && t.out = upS.out
  | _ => false
def upWait : State := pin { porstN := true, resetN := false, step := 3, good := 127, straps := 77 }
def waitS : State := { upWait with pins := { upWait.pins with waits := true, resetN := true, step := 4 } }
def secS (x : Security) : State := { base with sec := x, fuses := { base.fuses with lifecycle := 1 } }
def secS0 : State := secS { base.sec with recovery := false }
def repS : State := secS { base.sec with lastSeq := some 9, lastAnswer := [1,2] }
def blank : State := { base with fuses := { base.fuses with lifecycle := 0 } }
def w3 := secS { base.sec with recovery := false, flash := [(9, 1), (slotBase 1 + 3, 5)] }
def w4 := secS { base.sec with recovery := false, slots := [(1, { state := .active })] }
def wrS : State := secS { base.sec with recovery := false, writing := some 1, blocks := 3, partBlock := 2 }
def b7 : List Byte := ((List.range 7).flatMap fun _ => List.replicate 8192 0) ++ List.replicate 8192 0
def verS : State := secS { base.sec with recovery := false, slots := [(0, { state := .active }), (1, { state := .verified, comps := 3, svn := 4 })] }
def actS (a : Nat) (s : State) : State := s.setRg .secArg0 [] (Word.ofNat a)
def busyS : State := { actS 5 verS with ctx := [(3, { ctx3 with plan := { state := .running } })] }
def quS : State := { verS with sec := { verS.sec with queued := some { slot := 1, comps := 1, stackMask := 0, trial := true } } }
def triS (n : Nat) : State := { secS { verS.sec with slots := [(0, { state := .active }), (1, { state := .trial, comps := 3, svn := 4 })], trialFrom := some 5 } with time := { base.time with refTicks := n } }
def attS : State := regs verS [(.secArg2, [], 0x1000000000), (.secArg1, [], 0x1000001000)]
def recS2 : State := secS { base.sec with recovery := true }
theorem witness_Rails :
    ((pin { : Pins }).pins.porstN = false)
    ∧ ((railS 2).pins.enabling = some ↑2 ∧ 2 ≤ ↑2)
    ∧ ((railS 3).pins.enabling = some ↑3 ∧ 2 ≤ ↑3)
    ∧ ((railS 4).pins.enabling = some ↑4 ∧ 2 ≤ ↑4)
    ∧ ((railS 5).pins.enabling = some ↑5 ∧ 2 ≤ ↑5)
    ∧ ((railS 6).pins.enabling = some ↑6 ∧ 2 ≤ ↑6)
    ∧ (w1.pins.enabling = some ↑4 ∧ 2 ≤ ↑4)
    ∧ ((railS 4).pins.enabling = some ↑4)
    ∧ (2 ≤ ↑3 ∧ upS.pins.isGood ↑3 = true ∧ upS.pins.enabling = none) := by
  and_intros <;> first | decide +kernel | rfl
theorem witness_Resets :
    (Instr.chipReset = Instr.chipReset ∧ upS.pins.resetN = true)
    ∧ (upS.pins.resetN = true)
    ∧ (upS.pins.porstN = true) := by
  and_intros <;> first | decide +kernel | rfl
theorem witness_PowerUpSequence :
    (upWait.railsUp = true ∧ (Instr.resetRelease { refOk := false : PowerUpFindings } = Instr.resetRelease { refOk := false : PowerUpFindings } ∧
     upWait.pins.resetN = false ∧ upWait.pins.porstN = true) ∧ { refOk := false : PowerUpFindings }.refOk = false)
    ∧ (upWait.railsUp = true ∧ (Instr.resetRelease { failedBlocks := [5] : PowerUpFindings } = Instr.resetRelease
     { failedBlocks := [5] : PowerUpFindings } ∧ upWait.pins.resetN = false ∧ upWait.pins.porstN = true) ∧
     { failedBlocks := [5] : PowerUpFindings }.refOk = true ∧ { failedBlocks := [5] : PowerUpFindings }.swatchBad = false ∧
     { failedBlocks := [5] : PowerUpFindings }.failedTiles = [] ∧ { failedBlocks := [5] : PowerUpFindings }.failedHbm = [])
    ∧ (waitS.railsUp = true ∧ (Instr.ref156Retry { : PowerUpFindings } = Instr.ref156Retry { : PowerUpFindings } ∧ waitS.pins.waits = true) ∧
     { : PowerUpFindings }.refOk = true ∧ { : PowerUpFindings }.swatchBad = false ∧ { : PowerUpFindings }.failedTiles = [] ∧
     { : PowerUpFindings }.failedHbm = []) := by
  and_intros <;> first | decide +kernel | rfl
theorem witness_I3cReads :
    upS.pins.porstN = true := by
  decide +kernel
theorem witness_BoundaryScan :
    (Instr.extest = Instr.extest ∧ TapInstr.extest = TapInstr.extest)
    ∧ (Instr.highz = Instr.highz ∧ TapInstr.highz = TapInstr.highz) := by
  and_intros <;> first | decide +kernel | rfl
theorem witness_ServiceRepeat :
    (Instr.svcStatus (9 : BitVec 16) = Instr.svcStatus (9 : BitVec 16) ∧ repS.fuses.lifecycle ≠ 0 ∧ repS.sec.lastSeq = some (BitVec.toNat (9 :
     BitVec 16)))
    ∧ (Instr.fwEnd (9 : BitVec 16) = Instr.fwEnd (9 : BitVec 16) ∧ repS.fuses.lifecycle ≠ 0 ∧ repS.sec.lastSeq = some (BitVec.toNat (9 : BitVec 16)))
    ∧ (Instr.svcStatus 9 = Instr.svcStatus 9 ∧ blank.fuses.lifecycle = 0)
    ∧ (Instr.fwBegin 9 0 1 = Instr.fwBegin 9 0 1 ∧ blank.fuses.lifecycle = 0) := by
  and_intros <;> first | decide +kernel | rfl
theorem witness_ServiceReads :
    (TakesRequest secS0 8)
    ∧ (TakesRequest secS0 8 ∧ secS0.sec.recovery = false)
    ∧ (TakesRequest secS0 (8 : BitVec 16) ∧ BitVec.toNat (65536 : BitVec 32) % 8 = 0 ∧ 1 ≤ 2 ∧ 2 ≤ 1024)
    ∧ (TakesRequest secS0 8 ∧ 0 = 0)
    ∧ (TakesRequest secS0 8 ∧ 1024 < 1025) := by
  and_intros <;> first | decide +kernel | rfl
theorem witness_FirmwareUpdate :
    (TakesRequest w3 (8 : BitVec 16) ∧ 1 ≤ 2 ∧ 2 ≤ 496 ∧ (w3.getSlot (BitVec.toNat (1 : BitVec 1))).state ≠ SlotState.trial ∧ (w3.getSlot
     (BitVec.toNat (1 : BitVec 1))).state ≠ SlotState.active ∧ w3.sec.bootSlot ≠ some (BitVec.toNat (1 : BitVec 1)))
    ∧ (TakesRequest w4 (8 : BitVec 16) ∧ 1 ≤ 2 ∧ 2 ≤ 496 ∧ w4.sec.recovery = false ∧ (w4.getSlot (BitVec.toNat (1 : BitVec 1))).state =
     SlotState.active)
    ∧ (TakesRequest wrS (8 : BitVec 16) ∧ wrS.sec.writing = some 1 ∧ BitVec.toNat (2 : BitVec 12) < wrS.sec.blocks ∧ BitVec.toNat (3 : BitVec 3) ≠ 7)
    ∧ (TakesRequest wrS (8 : BitVec 16) ∧ wrS.sec.writing = some 1 ∧ BitVec.toNat (2 : BitVec 12) < wrS.sec.blocks ∧ wrS.sec.partBlock =
     BitVec.toNat (2 : BitVec 12) ∧ BitVec.toNat (7 : BitVec 3) = 7)
    ∧ (TakesRequest wrS 8 ∧ wrS.sec.writing = some 1) := by
  and_intros <;> first | decide +kernel | rfl
theorem witness_Activation :
    ((actS 3 verS).absent srcSec = false ∧ isLocal core0 = true ∧ 1 = 3 % 2 ∧ 1 = 3 / 2 % 8 ∧ ((actS 3 verS).getSlot 1).state = SlotState.verified
     ∧ 1 &&& ((actS 3 verS).getSlot 1).comps = 1 ∧ (actS 3 verS).blockedParts 1 (3 / 16 % 16) = (0, 0))
    ∧ (busyS.absent srcSec = false ∧ isLocal core0 = true ∧ 1 = 5 % 2 ∧ 2 = 5 / 2 % 8 ∧ (busyS.getSlot 1).state = SlotState.verified ∧ 2 &&&
     (busyS.getSlot 1).comps = 2 ∧ (busyS.blockedParts 2 (5 / 16 % 16)).fst ≠ 0 ∧ false = false)
    ∧ (busyS.absent srcSec = false ∧ isLocal core0 = true ∧ 1 = 5 % 2 ∧ 2 = 5 / 2 % 8 ∧ (busyS.getSlot 1).state = SlotState.verified ∧ 2 &&&
     (busyS.getSlot 1).comps = 2 ∧ (busyS.blockedParts 2 (5 / 16 % 16)).fst ≠ 0 ∧ true = true)
    ∧ (TakesRequest verS (8 : BitVec 16) ∧ verS.sec.recovery = false ∧ 1 = BitVec.toNat (3 : BitVec 32) % 2 ∧ (verS.getSlot 1).state =
     SlotState.verified ∧ BitVec.toNat (3 : BitVec 32) / 2 % 8 &&& (verS.getSlot 1).comps = BitVec.toNat (3 : BitVec 32) / 2 % 8 ∧
     verS.blockedParts (BitVec.toNat (3 : BitVec 32) / 2 % 8) (BitVec.toNat (3 : BitVec 32) / 16 % 16) = (0, 0))
    ∧ (quS.sec.queued = some { slot := 1, comps := 1, stackMask := 0, trial := true : Activation } ∧ quS.blockedParts
     { slot := 1, comps := 1, stackMask := 0, trial := true : Activation }.comps
     { slot := 1, comps := 1, stackMask := 0, trial := true : Activation }.stackMask = (0, 0))
    ∧ ((triS 6).absent srcSec = false ∧ isLocal core0 = true ∧ (triS 6).slotIn SlotState.trial = some 1)
    ∧ ((triS 5000000000000).slotIn SlotState.trial = some 1 ∧ (triS 5000000000000).sec.trialFrom = some 5 ∧ 5 + 1250000000 * max 1 ((triS
     5000000000000).fld RegName.secTrialLimit [] 0 16) ≤ (triS 5000000000000).time.refTicks) := by
  and_intros <;> first | decide +kernel | rfl
theorem witness_Attestation :
    (attS.fuses.lifecycle = 1 ∧ attS.sec.recovery = false ∧ attS.absent srcSec = false ∧ isLocal core0 = true ∧ CtxId.ofNat (field (attS.rg
     RegName.secArg0) 0 16) = { slot := 0, gen := 0 : CtxId })
    ∧ (attS.fuses.lifecycle = 1 ∧ attS.absent srcSec = false ∧ isLocal core0 = true)
    ∧ (attS.fuses.lifecycle = 1 ∧ TakesRequest attS (8 : BitVec 16) ∧ attS.sec.recovery = false ∧ BitVec.toNat (0 : BitVec 32) % 65536 = 0)
    ∧ (recS2.fuses.lifecycle = 1 ∧ TakesRequest recS2 8 ∧ recS2.sec.recovery = true) := by
  and_intros <;> first | decide +kernel | rfl

end TC

/-! ### Plans and sequencer -/

namespace TD

def stampCtx (v : Int) : Ctx := { runCtx with links := [1], image := some { runIm with dhop := 4 }, plan := { runCtx.plan with stamps := [(1, { value := v })] } }
def w1 := (match exec (.planCycleExecute 3) (withCtx (stampCtx 8)) with | .next t => t | _ => base)
def armed (tl : Word) : State := (withCtx { runCtx with plan := { state := .armed, tl := tl } }).modTile 7 fun _ => tile0
def lateS : State := (withCtx { runCtx with links := [1], image := some { runIm with dhop := 1 }, plan := { runCtx.plan with stamps := [(1, { value := -9000 })] } })
def stopS : State := (withCtx runCtx).setRg .timCtxStop [3] (Word.ofNat (2 ^ 63 + 10))
def frCtx : Ctx := { runCtx with plan := { runCtx.plan with state := .frosted, frost := some { index := 0, cause := 3, detail := 9, startMt := 5 } } }
def frS (lim : Nat) (mt : Word) : State := { (withCtx frCtx).setRg .timCtxFrostLimit [3] (Word.ofNat lim) with time := { base.time with mt := mt } }
def stCtx : Ctx := { runCtx with plan := { runCtx.plan with state := .stopped } }
def headT (o : MacroOp) : Tile := { tile0 with issueQ := [o, noOp] }
def headS (o : MacroOp) : State := tileS (headT o)
def nopO : MacroOp := mop 0 3 0
def waitO : MacroOp := mop 1 3 (5 + 2 ^ 6 * 2)
def waitS (n : BitVec 32) (b : Option Nat) : State := tileS { headT waitO with sync := [(5, { count := n, barrier := b.isSome, last := {}, last5 := b })] }
def fenceO : MacroOp := mop 3 3 2
def fenceS : State := tileS { headT fenceO with running := [(0, some { op := mop 0x20 0 0 })] }
def endO : MacroOp := mop 5 10 0
def sleepO : MacroOp := mop 6 10 (2 + 4 * 100)
def stepO : MacroOp := mop 4 10 0
def stepS : State := tileS { headT stepO with entryVar := some 0, entryBuf := [nopO], pc := 9 }
def sigO : MacroOp := mop 2 10 (5 + 2 ^ 6 * 2)
def sleepT (p : Power) (w : Bool) (a : Nat) : State := tileS { tile0 with power := p, waking := w, wakeAt := some a, stationary := [5], masks := [(0, 3)], acc := [(0, {})] }
def fetchS : State := { tileS { headT nopO with fetchPos := 6 } with hbm := [(0, { mem := Memory.write [] (9 * 0x200000 + 96) (List.replicate 40 3), frames := [(9, {})] })] }
def vecO : MacroOp := mop 0x22 3 (0 + 2 ^ 10 * 1)
def recvO : MacroOp := mop 0x14 3 0
def loadO : MacroOp := mop 0x10 3 (2 + 2 ^ 10 * 0)
def storeO : MacroOp := mop 0x11 3 (0 + 2 ^ 10 * 2)
def run (o : MacroOp) : Running := { op := o, base := 0 }
def unitS (u : List Nat) (o : MacroOp) : State := (tileS { tile0 with desc := tbl, unitQ := u.map fun v => (v, [run o]) })
def actO : MacroOp := mop 0x23 3 (0 + 2 ^ 10 * 1)
def doneR (o : MacroOp) : Running := { op := { o with word := o.word + 2 ^ 8 * 5 + 2 ^ 14 }, started := true, done := true }
def xferS : State := tileS { tile0 with desc := tbl, xfer := [(4, [doneR loadO, { run loadO with base := 7 }])] }
def w2 := { run loadO with base := 7 }
def funcS : State := tileS { tile0 with desc := tbl, running := [(2, some (doneR actO))] }
def outS : State := tileS { tile0 with desc := tbl, outst := [doneR recvO] }
def armV (o : Nat) : Word := Word.ofNat (o + 2 ^ 6 * 3 + 2 ^ 38)
def absT (b : SyncState) (c : BitVec 32) : State := tileS { tile0 with bank := b, sync := [(5, { count := c })] }
def pendS (mt : Word) : State := { regs base [(.tilSyncWatch, [7, 1], Word.ofNat (2 ^ 39)), (.tilSyncWatchDl, [7, 1], 10)] with time := { base.time with mt := mt } }
def holdCtx : Ctx := { ctx3 with part := { state := .committed, part := 7, gen := 2, ctxGen := 5, extent := 1, origin := 0, relFrom := 3 }, links := [0, 1] }
theorem witness_HorizonRule :
    (Instr.planCycleExecute (3 : CtxSlot) = Instr.planCycleExecute (3 : CtxSlot) ∧ exec (Instr.planCycleExecute (3 : CtxSlot)) (withCtx (stampCtx
     (8 : Int))) = Host.Outcome.next w1 ∧ (w1.getCtx 3).plan.pcy ≠ ((withCtx (stampCtx (8 : Int))).getCtx 3).plan.pcy ∧ 1 ∈ ((withCtx (stampCtx (8
     : Int))).getCtx 3).links)
    ∧ ((withCtx holdCtx).linkHolder 1 = some 3 ∧ ((withCtx holdCtx).getCtx 3).part.state ≠ PartState.free ∧ ((withCtx holdCtx).getCtx 3).part.part =
     7 ∧ ((withCtx holdCtx).getCtx 3).part.gen = 2 ∧ fieldN 9 48 1 = 0)
    ∧ ((withCtx holdCtx).linkHolder 1 = some 3 ∧ ((withCtx holdCtx).getCtx 3).part.state ≠ PartState.free ∧ ((withCtx holdCtx).getCtx 3).part.part =
     7 ∧ ((withCtx holdCtx).getCtx 3).part.gen = 2) := by
  and_intros <;> first | decide +kernel | rfl
theorem witness_PlanCycles :
    (((armed 0).getCtx ↑3).plan.state = PlanState.armed ∧ BitVec.toNat ((armed 0).getCtx ↑3).plan.tl ≤ (armed 0).mtN ∧ (∀ (x : Nat), x ∈ ((armed
     0).getCtx ↑3).planTiles → ((armed 0).getTile x).power = Power.run ∧ ((armed 0).getTile x).waking = false))
    ∧ ((armed 900000).mtN < BitVec.toNat ((armed 900000).getCtx ↑3).plan.tl)
    ∧ ((lateS.getCtx 3).plan.state = PlanState.running ∧ (lateS.getCtx 3).lostMark = false ∧ lateS.stopDue 3 = false ∧ firstHold (lateS.holds (3)
     (BitVec.toNat (lateS.getCtx 3).plan.pcy) 0) = some ((firstHold (lateS.holds 3 10 0)).getD { code := 0, detail := 0 : Hold }))
    ∧ ((stopS.getCtx ↑3).plan.state = PlanState.running ∧ (stopS.getCtx ↑3).lostMark = false ∧ stopS.stopDue ↑3 = true ∧ (stopS.getCtx
     ↑3).plan.frost = none)
    ∧ (((tileS tile0).getCtx ↑3).plan.state = PlanState.running ∧ ((tileS tile0).getCtx ↑3).lostMark = false ∧ (tileS tile0).stopDue ↑3 = false ∧
     ((tileS tile0).getCtx ↑3).image ≠ none ∧ firstHold ((tileS tile0).holds (↑3) (BitVec.toNat ((tileS tile0).getCtx ↑3).plan.pcy) 0) = none) := by
  and_intros <;> first | decide +kernel | rfl
theorem witness_FrostLimitAndResume :
    (((frS 10 (50 : Word)).getCtx 3).plan.frost = some { index := 0, cause := 3, detail := 9, startMt := (5 : Word) : Frost } ∧ (frS 10 (50 :
     Word)).fld RegName.timCtxFrostLimit [3] 0 40 ≠ 0 ∧ (frS 10 (50 : Word)).fld RegName.timCtxFrostLimit [3] 0 40 < BitVec.toNat ((frS 10 (50 :
     Word)).time.mt - { index := 0, cause := 3, detail := 9, startMt := (5 : Word) : Frost }.startMt))
    ∧ (((frS 0 (50 : Word)).getCtx 3).plan.frost = some { index := 0, cause := 3, detail := 9, startMt := (5 : Word) : Frost } ∧ (frS 0 (50 :
     Word)).fld RegName.timCtxFrostLimit [3] 0 40 = 0)
    ∧ (((frS 45 (50 : Word)).getCtx 3).plan.frost = some { index := 0, cause := 3, detail := 9, startMt := (5 : Word) : Frost } ∧ BitVec.toNat ((frS
     45 (50 : Word)).time.mt - { index := 0, cause := 3, detail := 9, startMt := (5 : Word) : Frost }.startMt) ≤ (frS 45 (50 : Word)).fld
     RegName.timCtxFrostLimit [3] 0 40)
    ∧ ((base.getCtx ↑3).plan.frost = none)
    ∧ ((withCtx stCtx).absent srcTim = false ∧ (withCtx stCtx).owns core0 3 = true ∧ BitVec.getLsbD (1 : Word) 0 = true ∧ ((withCtx stCtx).getCtx
     3).plan.state = PlanState.stopped ∧ ((withCtx stCtx).getCtx 3).plan.held = false ∧ ((withCtx stCtx).getCtx 3).plan.stopP = none ∧ ((withCtx
     stCtx).getCtx 3).state = CtxState.opened)
    ∧ ((withCtx stCtx).absent srcTim = false ∧ (withCtx stCtx).owns (Accessor.mgt 4) ↑3 = false)
    ∧ ((withCtx stCtx).absent srcTim = false ∧ BitVec.getLsbD (0 : Word) 0 = false) := by
  and_intros <;> first | decide +kernel | rfl
theorem witness_SequencerDispatch :
    (MayDispatch (headS nopO) 3 (↑7) nopO [noOp] ∧ nopO.op = opNop)
    ∧ (MayDispatch (waitS 2 (some 1)) 3 (↑7) waitO [noOp] ∧ waitO.op = opWait ∧ ((waitS 2 (some 1)).getTile ↑7).bank = SyncState.active ∧ ((((waitS
     2 (some 1)).getTile ↑7).obj waitO.obj).count - waitO.target).toNat < 2 ^ 31 ∧ ((waitS 2 (some 1)).getCtx 3).lostMark = false ∧ (((waitS 2
     (some 1)).getTile ↑7).obj waitO.obj).barrier = true ∧ (((waitS 2 (some 1)).getTile ↑7).obj waitO.obj).last5 = some 1)
    ∧ (MayDispatch (waitS 3 none) 3 (↑7) waitO [noOp] ∧ waitO.op = opWait ∧ ((waitS 3 none).getTile ↑7).bank = SyncState.active ∧ ((((waitS 3
     none).getTile ↑7).obj waitO.obj).count - waitO.target).toNat < 2 ^ 31 ∧ ((waitS 3 none).getCtx 3).lostMark = false ∧ (((waitS 3 none).getTile
     ↑7).obj waitO.obj).barrier = false)
    ∧ ((waitS 1 none).tileCtx ↑7 = some 3 ∧ ((waitS 1 none).getTile ↑7).issueQ = [waitO, noOp] ∧ waitO.op = opWait ∧ 2 ^ 31 ≤ ((((waitS 1
     none).getTile ↑7).obj waitO.obj).count - waitO.target).toNat ∧ ((waitS 1 none).getCtx 3).lostMark = false)
    ∧ (MayDispatch (headS fenceO) 3 (↑7) fenceO [noOp] ∧ fenceO.op = opFence ∧ (∀ (r : Running), r ∈ ((headS fenceO).getTile ↑7).inFlight → ∀ (c :
     Nat), r.op.fenceClass = some c → fenceO.word.testBit (48 + c) = false))
    ∧ (MayDispatch fenceS 3 (↑7) fenceO [noOp] ∧ fenceO.op = opFence ∧ (∀ (r : Running), r ∈ (fenceS.getTile ↑7).inFlight → ∀ (c : Nat),
     r.op.fenceClass = some c → fenceO.word.testBit (48 + c) = false))
    ∧ (MayDispatch (headS endO) 3 (↑7) endO [noOp] ∧ endO.op = opEnd)
    ∧ (MayDispatch (headS sleepO) 3 (↑7) sleepO [noOp] ∧ sleepO.op = opSleep)
    ∧ (MayDispatch stepS 3 (↑7) stepO [noOp] ∧ stepO.op = opStepEnd ∧ (stepS.getCtx 3).image = some runIm ∧ (stepS.getCtx 3).variantOf
     ((stepS.getTile ↑7).step + 1) = some 0 ∧ runIm.variants[0]? = some (0, 0) ∧ (stepS.getCtx 3).wrongKind runIm ((stepS.getTile ↑7).step + 1) 0
     = false) := by
  and_intros <;> first | decide +kernel | rfl | (constructor <;> decide +kernel)
theorem witness_SequencerRest :
    ((headS sigO).tileCtx ↑7 = some 3 ∧ MayDispatch (headS sigO) 3 (↑7) sigO [noOp] ∧ sigO.op = opSignal ∧ sigO.remote = false ∧ sigO.obj < 48 ∧
     ((headS sigO).getTile ↑7).bank = SyncState.active ∧ ((((headS sigO).getTile ↑7).doing fun o => o.op == opSignal) = none))
    ∧ ((sleepT Power.deep false 10).tileCtx ↑7 = some 3 ∧ ((sleepT Power.deep false 10).getTile ↑7).wakeAt = some 10 ∧ 10 ≤ BitVec.toNat ((sleepT
     Power.deep false 10).getCtx 3).plan.pcy ∧ ((sleepT Power.deep false 10).getTile ↑7).power = Power.deep)
    ∧ ((sleepT Power.sleep false 11).tileCtx ↑7 = some 3 ∧ ((sleepT Power.sleep false 11).getTile ↑7).wakeAt = some 11 ∧ BitVec.toNat ((sleepT
     Power.sleep false 11).getCtx 3).plan.pcy < 11)
    ∧ ((sleepT Power.deep true 9).tileCtx ↑7 = some 3 ∧ ((sleepT Power.deep true 9).getTile ↑7).waking = true ∧ ((sleepT Power.deep true 9).getTile
     ↑7).power = Power.deep)
    ∧ ((sleepT Power.sleep true 9).tileCtx ↑7 = some 3 ∧ ((sleepT Power.sleep true 9).getTile ↑7).waking = true ∧ ((sleepT Power.sleep true
     9).getTile ↑7).power ≠ Power.deep)
    ∧ (fetchS.tileCtx ↑7 = some 3 ∧ (fetchS.getCtx 3).image = some runIm ∧ (fetchS.getCtx 3).vtile ↑7 = some 0 ∧ (fetchS.getCtx 3).plan.state ≠
     PlanState.ended ∧ (fetchS.getTile ↑7).endTaken = false ∧ (fetchS.getTile ↑7).fetchPos < (runIm.stream (fetchS.getTile ↑7).variant 0).snd ∧
     (fetchS.getTile ↑7).issueQ.length + 4 ≤ 256) := by
  and_intros <;> first | decide +kernel | rfl | (constructor <;> decide +kernel)
theorem witness_UnitStart :
    (MayStart (unitS [2, 3] actO) 3 (↑7) (unitIndex UnitId.func) (run actO))
    ∧ (MayStart (unitS [10] recvO) 3 (↑7) (unitIndex UnitId.router) (run recvO))
    ∧ (MayStart (unitS [4] loadO) 3 (↑7) (unitIndex (UnitId.load 0)) (run loadO)) := by
  and_intros <;> first | decide +kernel | rfl | (constructor <;> decide +kernel)
theorem witness_MacroOpCompletion :
    (xferS.tileCtx ↑7 = some 3 ∧ (xferS.getCtx 3).plan.state = PlanState.running ∧ (xferS.getTile ↑7).bank = SyncState.active ∧ (doneR loadO).done
     = true ∧ ((doneR loadO).op.sigEn = true → (doneR loadO).op.sig < 48) ∧ 4 ≤ unitIndex (UnitId.load 0) ∧ unitIndex (UnitId.load 0) < 10 ∧
     KMap.get [] (xferS.getTile ↑7).xfer (unitIndex (UnitId.load 0)) = [doneR loadO, w2] ∧ xferS.storeHeld (↑7) (doneR loadO) = false)
    ∧ ((funcS.tileCtx ↑7 = some 3) ∧ ((funcS.getCtx 3).plan.state = PlanState.running) ∧ ((funcS.getTile ↑7).bank = SyncState.active) ∧ (doneR
     actO).done = true ∧ ((doneR actO).op.sigEn = true → (doneR actO).op.sig < 48) ∧ (unitIndex UnitId.func < 4) ∧ (KMap.get none (funcS.getTile
     ↑7).running (unitIndex UnitId.func) = some (doneR actO)) ∧ (unitIndex UnitId.func ∈ (funcS.getTile ↑7).units (doneR actO).op) ∧ (∀ (p : Nat ×
     Option Running), p ∈ (funcS.getTile ↑7).running → ∀ (e : Running), e ∈ p.snd → p.fst = unitIndex UnitId.func ∧ e = doneR actO ∨ p.fst ≠
     unitIndex UnitId.func ∧ ¬unitIndex UnitId.func ∈ (funcS.getTile ↑7).units e.op))
    ∧ (outS.tileCtx ↑7 = some 3 ∧ (outS.getCtx 3).plan.state = PlanState.running ∧ (outS.getTile ↑7).bank = SyncState.active ∧ (doneR recvO).done =
     true ∧ ((doneR recvO).op.sigEn = true → (doneR recvO).op.sig < 48) ∧ UnitId.router = UnitId.router ∧ (∀ (p : Nat × Option Running), p ∈
     (outS.getTile ↑7).running → ∀ (e : Running), e ∈ p.snd → e.done = false ∨ ¬unitIndex UnitId.router ∈ (outS.getTile ↑7).units e.op) ∧
     (takeDone (fun r => r.op.engine == (unitIndex UnitId.router == 11)) (outS.getTile ↑7).outst = some (doneR recvO, []))) := by
  and_intros <;> first | decide +kernel | rfl
theorem witness_SyncWatches :
    ((absT SyncState.active 2).absent (srcTile ↑7) = false ∧ (absT SyncState.active 2).tileCtx ↑7 = some 3 ∧ (absT SyncState.active 2).owns core0
     3 = true ∧ (absT SyncState.active 2).syncWatches ↑7 = [] ∧ BitVec.getLsbD (armV 48) 38 = true ∧ (48 ≤ field (armV 48) 0 6 ∧ 6 = 6 ∧ false =
     false))
    ∧ ((absT SyncState.abandoned 2).absent (srcTile ↑7) = false ∧ (absT SyncState.abandoned 2).tileCtx ↑7 = some 3 ∧ (absT SyncState.abandoned
     2).owns core0 3 = true ∧ (absT SyncState.abandoned 2).syncWatches ↑7 = [] ∧ BitVec.getLsbD (armV 5) 38 = true ∧ (field (armV 5) 0 6 < 48 ∧
     ((absT SyncState.abandoned 2).getTile ↑7).bank = SyncState.abandoned ∧ 5 = 5 ∧ false = false))
    ∧ ((absT SyncState.active 2).absent (srcTile ↑7) = false ∧ (absT SyncState.active 2).tileCtx ↑7 = some 3 ∧ (absT SyncState.active 2).owns core0
     3 = true ∧ (absT SyncState.active 2).syncWatches ↑7 = [] ∧ BitVec.getLsbD (armV 5) 38 = true ∧ (field (armV 5) 0 6 < 48 ∧ ((absT
     SyncState.active 2).getTile ↑7).bank = SyncState.active ∧ 0 = 0 ∧ true = decide (2 ^ 31 ≤ ((((absT SyncState.active 2).getTile ↑7).obj (field
     (armV 5) 0 6)).count - BitVec.ofNat 32 (field (armV 5) 6 32)).toNat)))
    ∧ ((absT SyncState.active 3).absent (srcTile ↑7) = false ∧ (absT SyncState.active 3).tileCtx ↑7 = some 3 ∧ (absT SyncState.active 3).owns core0
     3 = true ∧ (absT SyncState.active 3).syncWatches ↑7 = [] ∧ BitVec.getLsbD (armV 5) 38 = true ∧ (field (armV 5) 0 6 < 48 ∧ ((absT
     SyncState.active 3).getTile ↑7).bank = SyncState.active ∧ 0 = 0 ∧ false = decide (2 ^ 31 ≤ ((((absT SyncState.active 3).getTile ↑7).obj
     (field (armV 5) 0 6)).count - BitVec.ofNat 32 (field (armV 5) 6 32)).toNat)))
    ∧ ((pendS 20).bit RegName.tilSyncWatch [↑7, ↑1] 39 = true ∧ (pendS 20).rg RegName.tilSyncWatchDl [↑7, ↑1] ≠ 0 ∧ BitVec.toNat ((pendS 20).rg
     RegName.tilSyncWatchDl [↑7, ↑1]) ≤ (pendS 20).mtN)
    ∧ ((pendS 2).bit RegName.tilSyncWatch [↑7, ↑1] 39 = true ∧ (pendS 2).rg RegName.tilSyncWatchDl [↑7, ↑1] ≠ 0 ∧ (pendS 2).mtN < BitVec.toNat
     ((pendS 2).rg RegName.tilSyncWatchDl [↑7, ↑1])) := by
  and_intros <;> first | decide +kernel | rfl

end TD

/-! ### Transfers -/

namespace TE

def frameF : FrameId := { unit := 0, frame := 9 }
def pteF : Pte := { frame := some frameF, write := true }
def memS : State := { tileS tile0 with hbm := [(0, { mem := Memory.write [] (9 * 0x200000 + 0x100) ((List.range 60).map fun i => BitVec.ofNat 8 (i + 1)), frames := [(9, {})] })] }
def loadR : Running := run0 (mop 0x10 0 (2 + 2 ^ 10 * 1))
def xS (q : Nat) (r : Running) (s : State) : State := s.modTile 7 fun x => { x with desc := tbl, xfer := [(q, [r])], sram := Memory.write [] 0x100 ((List.range 60).map fun i => BitVec.ofNat 8 (100 + i)) }
def w1 := (xS 4 loadR memS).modPlan 3 fun p => { p with state := .ended }
def noPt : State := (xS 4 loadR memS).setCtx 3 { runCtx with pt := [] }
def storeR : Running := run0 (mop 0x11 0 (0 + 2 ^ 10 * 2))
def roPt : State := (xS 8 storeR memS).setCtx 3 { runCtx with pt := [(1, { pteF with write := false })] }
def moveR (rem : Nat) : Running := run0 (mop 0x12 0 (0 + 2 ^ 10 * 1 + 2 ^ 20 * rem + 2 ^ 21 * 5))
def runS (u : Nat) (r : Running) : State := memS.modTile 7 fun x => { x with desc := tbl, running := [(u, some r)], sram := Memory.write [] 0x100 ((List.range 60).map fun i => BitVec.ofNat 8 (100 + i)) }
def sendR : Running := run0 (mop 0x13 0 (0 + 2 ^ 10 * 5))
def dIm : Image := { runIm with slots := [(112 * 2 + 56 + 3, 1 + 2 ^ 11 * 6)] }
def en : SlotEntry := dIm.slot 2 true 3
def dCtx : Ctx := { runCtx with links := [2], image := some dIm }
def dS (e : RxEntry) : State := ((withCtx dCtx).modTile 7 fun _ => { tile0 with sync := [(5, { count := 7 })] }).modLink 2 fun y => { y with tree := [e] }
def e1 : RxEntry := { payload := some [1, 2], dst := 7, stream := 6 }
def e2 : RxEntry := { signal := some (5, 4), dst := 7, stream := 6 }
def w2 := (dS e1).modTile 7 fun x => { x with ctx := none }
def recvR : Running := run0 (mop 0x14 0 (0 + 2 ^ 10 * 5))
def payl : InItem := { payload := (List.range 32).map fun i => BitVec.ofNat 8 (i + 1), link := 2 }
def rcvS : State := memS.modTile 7 fun x => { x with desc := tbl, outst := [recvR], inbox := [(5, [payl])] }
def mfl : MeshFlit := { ctx := { slot := 3, gen := 5 }, src := 9, stream := 5, dst := 7, writes := [(16, 1), (17, 2)], mop := 4, last := true }
def mfS : State := { (memS.modTile 9 fun _ => { tile0 with outst := [moveR 1] }) with net := { base.net with flits := [mfl] } }
def w3 := mfS.modTile 7 fun x => { x with ctx := none }
theorem witness_ContextWrite :
    0 < [1, 2, 3].length ∧ 2097168 % pageBytes + [1, 2, 3].length ≤ pageBytes ∧ memS.pte 3 2097168 = some pteF ∧ pteF.frame = some frameF ∧
     pteF.moving = false ∧ memS.watchesOf 3 = [] := by
  decide +kernel
theorem witness_LoadTransfer :
    (((xS 4 loadR memS).getTile 7).nextXfer (4 + 0) 0 = some loadR ∧ ((xS 4 loadR memS).getTile 7).ctx = some { slot := 3, gen := 5 : CtxId } ∧ (∀
     (p : Nat × Nat), p ∈ ((xS 4 loadR memS).getTile 7).rangesOf loadR 48 → (xS 4 loadR memS).vaOk { slot := 3, gen := 5 : CtxId }.slot p.fst
     p.snd false = true))
    ∧ ((w1.getTile 7).nextXfer (4 + 0) 0 = some loadR ∧ (w1.getTile 7).ctx = some { slot := 3, gen := 5 : CtxId } ∧ (∀ (p : Nat × Nat), p ∈
     (w1.getTile 7).rangesOf loadR 48 → w1.vaOk { slot := 3, gen := 5 : CtxId }.slot p.fst p.snd false = true))
    ∧ ((noPt.getTile 7).nextXfer (4 + 0) 0 = some loadR ∧ (noPt.getTile 7).ctx = some { slot := 3, gen := 5 : CtxId } ∧ (∃ p, p ∈ (noPt.getTile
     7).rangesOf loadR 48 ∧ noPt.vaOk { slot := 3, gen := 5 : CtxId }.slot p.fst p.snd false = false)) := by
  and_intros <;> first | decide +kernel | rfl
theorem witness_StoreTransfer :
    (((xS 8 storeR memS).getTile 7).nextXfer (8 + 0) 0 = some storeR ∧ ((xS 8 storeR memS).getTile 7).ctx = some { slot := 3, gen := 5 : CtxId } ∧
     (∀ (p : Nat × Nat), p ∈ ((xS 8 storeR memS).getTile 7).rangesOf storeR 58 → (xS 8 storeR memS).vaOk { slot := 3, gen := 5 : CtxId }.slot
     p.fst p.snd true = true) ∧ ((xS 8 storeR memS).getTile 7).openLoads (((xS 8 storeR memS).getTile 7).rangesOf storeR 48) = [])
    ∧ ((roPt.getTile 7).nextXfer (8 + 0) 0 = some storeR ∧ (roPt.getTile 7).ctx = some { slot := 3, gen := 5 : CtxId } ∧ (∃ p, p ∈ (roPt.getTile
     7).rangesOf storeR 58 ∧ roPt.vaOk { slot := 3, gen := 5 : CtxId }.slot p.fst p.snd true = false)) := by
  and_intros <;> first | decide +kernel | rfl
theorem witness_MoveAndSend :
    ((runS 10 (moveR 0)).tileCtx ↑7 = some 3 ∧ ((runS 10 (moveR 0)).getTile ↑7).openLoads (((runS 10 (moveR 0)).getTile ↑7).rangesOf (moveR 0) 48)
     = [] ∧ ((((runS 10 (moveR 0)).getTile ↑7).doing fun o => o.op == opMove) = some (10, moveR 0)) ∧ (moveR 0).op.remote = false)
    ∧ ((runS 10 (moveR 1)).tileCtx ↑7 = some 3 ∧ ((runS 10 (moveR 1)).getTile ↑7).openLoads (((runS 10 (moveR 1)).getTile ↑7).rangesOf (moveR 1) 48)
     = [] ∧ ((((runS 10 (moveR 1)).getTile ↑7).doing fun o => o.op == opMove) = some (10, moveR 1)) ∧ (moveR 1).op.remote = true)
    ∧ ((runS 10 sendR).tileCtx ↑7 = some 3 ∧ ((runS 10 sendR).getTile ↑7).openLoads (((runS 10 sendR).getTile ↑7).rangesOf sendR 48) = [] ∧ ((((runS
     10 sendR).getTile ↑7).doing fun o => o.op == opSend) = some (10, sendR))) := by
  and_intros <;> first | decide +kernel | rfl
theorem witness_Deliveries :
    (((dS e1).getLink ↑2).tree = [e1] ∧ (dS e1).linkHolder ↑2 = some 3)
    ∧ ((w2.getLink ↑2).tree = [e1] ∧ w2.linkHolder ↑2 = some 3 ∧ (w2.getTile e1.dst).ctx ≠ some (w2.idOf 3))
    ∧ (((dS e1).getLink ↑2).tree = [e1] ∧ (dS e1).linkHolder ↑2 = some 3 ∧ ((dS e1).getTile e1.dst).ctx = some ((dS e1).idOf 3) ∧ e1.signal = none ∧
     (∀ (r : Running), r ∈ ((dS e1).getTile e1.dst).outst → ¬(r.op.op = opRecv ∧ r.op.stream = e1.stream ∧ r.done = false)) ∧ (∀ (i : InItem), i ∈
     KMap.get [] ((dS e1).getTile e1.dst).inbox e1.stream → i.signal = none))
    ∧ (((dS e2).getLink ↑2).tree = [e2] ∧ (dS e2).linkHolder ↑2 = some 3 ∧ ((dS e2).getTile e2.dst).ctx = some ((dS e2).idOf 3) ∧ e2.signal = some
     (5, 4) ∧ KMap.get [] ((dS e2).getTile e2.dst).inbox e2.stream = [] ∧ 5 < 48 ∧ ((dS e2).getTile e2.dst).bank = SyncState.active ∧ ((dS
     e2).getCtx 3).plan.state ≠ PlanState.ended)
    ∧ ((rcvS.getTile ↑7).outst = [recvR] ∧ recvR.op.op = opRecv ∧ recvR.done = false ∧ payl.signal = none ∧ KMap.get [] (rcvS.getTile ↑7).inbox
     recvR.op.stream = [payl])
    ∧ ((List.find? (fun g => g.src == ↑9 && g.stream == ↑5) mfS.net.flits = some mfl) ∧ mfl.signal = none ∧ (mfS.getTile mfl.dst).ctx = some mfl.ctx)
    ∧ ((List.find? (fun g => g.src == ↑9 && g.stream == ↑5) w3.net.flits = some mfl) ∧ mfl.signal = none ∧ (w3.getTile mfl.dst).ctx ≠ some mfl.ctx) := by
  and_intros <;> first | decide +kernel | rfl

end TE

/-! ### Tensor and vector units -/

namespace TF

def rnd (s : Nat) : Nat := (s * 6364136223846793005 + 1442695040888963407) % 2 ^ 64
def rnds (n s : Nat) : List Nat := ((List.range n).foldl (fun (a : List Nat × Nat) _ => (a.2 / 2 ^ 20 :: a.1, rnd a.2)) ([], rnd s)).1
def blk (s m : Nat) (e : Int) (w : Nat) : Block := { m := m, e := e, codes := (rnds 32 s).map fun x => ((x % 2 ^ w : Nat) : Int) - (2 ^ (w - 1) : Nat) }
def dd (fmt : Nat) (ax : Bool) : Desc := { kind := 0, fmt := fmt, axis := ax, indexEn := false, indexDesc := 0, rows := if ax then 64 else 2, cols := if ax then 2 else 64, stride := 64 * fmtBits fmt / 8, data := 0x100, scaleOff := 0x800, indexStride := 0 }
def nar (kind fmt rows cols data : Nat) : List Byte := dsc kind fmt rows cols (cols * fmtBits fmt / 8) data 64
def tblF : Memory := Memory.write [] 0 (nar 0 0 1 32 0x100 ++ nar 0 0 1 32 0x200 ++ nar 0 0 1 32 0x300 ++ nar 0 0 1 32 0x400)
def opF (op extra : Nat) : Running := { op := mop op 0 (0 + 2 ^ 10 * 1 + 2 ^ 20 * 2 + 2 ^ 30 * 3 * extra), started := true, data := (mop op 0 (0 + 2 ^ 10 * 1 + 2 ^ 20 * 2 + 2 ^ 30 * 3 * extra)).fields.map fun b => (b, [0x100, 0x200, 0x300, 0x400].getD ((mop op 0 (0 + 2 ^ 10 * 1 + 2 ^ 20 * 2 + 2 ^ 30 * 3 * extra)).f b 10) 0) }
def sramF : Memory := Memory.write [] 0x100 ((List.range 0x150).map fun i => BitVec.ofNat 8 (7 * i + 1))
def runF (u : Nat) (r : Running) : State := tileS { tile0 with desc := tblF, running := [(u, some r)], sram := sramF }
def vecR (v : Nat) : Running := { op := mop 0x26 0 (0 + 2 ^ 10 * 1 + 2 ^ 20 * 2 + 2 ^ 30 * v), started := true, data := (mop 0x26 0 (0 + 2 ^ 10 * 1 + 2 ^ 20 * 2 + 2 ^ 30 * v)).fields.map fun b => (b, [0x100, 0x200, 0x300, 0x400].getD ((mop 0x26 0 (0 + 2 ^ 10 * 1 + 2 ^ 20 * 2 + 2 ^ 30 * v)).f b 10) 0) }
def mmR (mode : Nat) : Running := { op := { (opF 0x20 0).op with word := (opF 0x20 0).op.word + 2 ^ 78 * mode }, started := true, data := (opF 0x20 0).data }
def heldT (mode : Nat) : State := (runF 0 (mmR mode)).modTile 7 fun x => { x with accHeld := true, acc := [(0, { mant := 5, exp := 3, empty := false })] }
def taS (b : Byte) : State := (runF 0 (opF 0x27 1)).modTile 7 fun x => { x with sram := Memory.write [] 0x400 [b, 0, 0, 0] }
def cmpOk (v : Nat) : Bool := let s := runF 1 (vecR v); let t := after (.vec 7 {}) s; let X := s.getTile 7; let r := vecR v
  let bits : List Bool := List.zipWith (vecCmp r.op.vop) ((X.tensor r 48).flatten.flatMap Block.codes) ((X.vecB r (X.tensor r 48).flatten).flatMap Block.codes)
  (List.range 64).all fun i => match bits[(bits.length - 1) / 64 * 64 + i]? with | none => true | some b => (KMap.get 0 (t.getTile 7).masks (r.op.f 88 3)).getLsbD i == b
def laneOk (v pr : Nat) : List Bool := let o := { (vecR v).op with word := (vecR v).op.word + pr * 2 ^ 87 + 2 ^ 84 * 3 }; let r := { vecR v with op := o };
  let s := (runF 1 r).modTile 7 fun x => { x with masks := [(3, 0x5A5A)] }; let t := after (.vec 7 {}) s; let X := s.getTile 7
  let out := (t.getTile 7).tensor { r with data := r.data } 68
  [ (List.range 8).all fun i => match (X.tensor r 48).flatten[i]?, (X.vecB r (X.tensor r 48).flatten)[i]?, (X.tensor r 68).flatten[i]?, out.flatten[i]? with
     | some a, some b, some o', some q => q.m == (vecBlock X r.op a b (32 * i)).1.m && q.e == (vecBlock X r.op a b (32 * i)).1.e && (List.range 32).all fun j => match (vecBlock X r.op a b (32 * i)).1.codes[j]?, o'.codes[j]? with
        | some w, some z => q.codes[j]? == some (if r.op.f 87 1 = 1 ∧ X.maskBit (r.op.f 84 3) (32 * i + j) = false then z else w)
        | _, _ => true
     | _, _, _, _ => true ]
theorem witness_ComputeRows :
    ((Instr.matmul (7 : TileIx) { : Findings } = Instr.matmul (7 : TileIx) { : Findings } ∧ opMatmul = opMatmul) ∧ ((runF 0 (opF 32 0)).getTile
     7).doing (isOp opMatmul) = some (0, opF 32 0) ∧ Settled ((runF 0 (opF 32 0)).getTile 7) (opF 32 0))
    ∧ ((Instr.attn (7 : TileIx) { : Findings } = Instr.attn (7 : TileIx) { : Findings } ∧ opAttn = opAttn) ∧ ((runF 0 (opF 33 1)).getTile 7).doing
     (isOp opAttn) = some (0, opF 33 1) ∧ Settled ((runF 0 (opF 33 1)).getTile 7) (opF 33 1))
    ∧ ((Instr.norm (7 : TileIx) { : Findings } = Instr.norm (7 : TileIx) { : Findings } ∧ opNorm = opNorm) ∧ ((runF 2 (opF 34 0)).getTile 7).doing
     (isOp opNorm) = some (2, opF 34 0) ∧ Settled ((runF 2 (opF 34 0)).getTile 7) (opF 34 0))
    ∧ ((Instr.act (7 : TileIx) { : Findings } = Instr.act (7 : TileIx) { : Findings } ∧ opAct = opAct) ∧ ((runF 2 (opF 35 0)).getTile 7).doing (isOp
     opAct) = some (2, opF 35 0) ∧ Settled ((runF 2 (opF 35 0)).getTile 7) (opF 35 0))
    ∧ ((Instr.softmax (7 : TileIx) { : Findings } = Instr.softmax (7 : TileIx) { : Findings } ∧ opSoftmax = opSoftmax) ∧ ((runF 2 (opF 36
     0)).getTile 7).doing (isOp opSoftmax) = some (2, opF 36 0) ∧ Settled ((runF 2 (opF 36 0)).getTile 7) (opF 36 0))
    ∧ ((Instr.requant (7 : TileIx) { : Findings } = Instr.requant (7 : TileIx) { : Findings } ∧ opRequant = opRequant) ∧ ((runF 3 (opF 37
     0)).getTile 7).doing (isOp opRequant) = some (3, opF 37 0) ∧ Settled ((runF 3 (opF 37 0)).getTile 7) (opF 37 0))
    ∧ ((Instr.vec (7 : TileIx) { : Findings } = Instr.vec (7 : TileIx) { : Findings } ∧ opVec = opVec) ∧ ((runF 1 (vecR 0)).getTile 7).doing (isOp
     opVec) = some (1, vecR 0) ∧ Settled ((runF 1 (vecR 0)).getTile 7) (vecR 0))
    ∧ ((Instr.vec (7 : TileIx) { : Findings } = Instr.vec (7 : TileIx) { : Findings } ∧ opVec = opVec) ∧ ((runF 1 (vecR 12)).getTile 7).doing (isOp
     opVec) = some (1, vecR 12) ∧ Settled ((runF 1 (vecR 12)).getTile 7) (vecR 12))
    ∧ ((Instr.tailorApply (7 : TileIx) { : Findings } = Instr.tailorApply (7 : TileIx) { : Findings } ∧ opTailorApply = opTailorApply) ∧ ((runF 0
     (opF 39 1)).getTile 7).doing (isOp opTailorApply) = some (0, opF 39 1) ∧ Settled ((runF 0 (opF 39 1)).getTile 7) (opF 39 1))
    ∧ ((Instr.matmul (7 : TileIx) { : Findings } = Instr.matmul (7 : TileIx) { : Findings } ∧ opMatmul = opMatmul) ∧ ((tileS tile0).getTile 7).doing
     (isOp opMatmul) = none) := by
  and_intros <;> first | decide +kernel | rfl
theorem witness_FunctionAndVectorResults :
    (((runF 2 (opF 34 0)).getTile 7).doing (isOp opNorm) = some (2, opF 34 0) ∧ Settled ((runF 2 (opF 34 0)).getTile 7) (opF 34 0) ∧ goesOn
     (Instr.norm (7 : TileIx) { : Findings }) (runF 2 (opF 34 0)) = true)
    ∧ (((runF 2 (opF 35 0)).getTile 7).doing (isOp opAct) = some (2, opF 35 0) ∧ Settled ((runF 2 (opF 35 0)).getTile 7) (opF 35 0) ∧ goesOn
     (Instr.act (7 : TileIx) { : Findings }) (runF 2 (opF 35 0)) = true)
    ∧ (((runF 2 (opF 36 0)).getTile 7).doing (isOp opSoftmax) = some (2, opF 36 0) ∧ Settled ((runF 2 (opF 36 0)).getTile 7) (opF 36 0) ∧ goesOn
     (Instr.softmax (7 : TileIx) { : Findings }) (runF 2 (opF 36 0)) = true)
    ∧ (((runF 3 (opF 37 0)).getTile 7).doing (isOp opRequant) = some (3, opF 37 0) ∧ Settled ((runF 3 (opF 37 0)).getTile 7) (opF 37 0) ∧ goesOn
     (Instr.requant (7 : TileIx) { : Findings }) (runF 3 (opF 37 0)) = true)
    ∧ (((runF 1 (vecR 18)).getTile 7).doing (isOp opVec) = some (1, vecR 18) ∧ Settled ((runF 1 (vecR 18)).getTile 7) (vecR 18) ∧ goesOn (Instr.vec
     (7 : TileIx) { : Findings }) (runF 1 (vecR 18)) = true ∧ (vecR 18).op.vop = 18)
    ∧ (((runF 1 (vecR 19)).getTile 7).doing (isOp opVec) = some (1, vecR 19) ∧ Settled ((runF 1 (vecR 19)).getTile 7) (vecR 19) ∧ goesOn (Instr.vec
     (7 : TileIx) { : Findings }) (runF 1 (vecR 19)) = true ∧ (vecR 19).op.vop = 19)
    ∧ (((runF 1 (vecR 20)).getTile 7).doing (isOp opVec) = some (1, vecR 20) ∧ Settled ((runF 1 (vecR 20)).getTile 7) (vecR 20) ∧ goesOn (Instr.vec
     (7 : TileIx) { : Findings }) (runF 1 (vecR 20)) = true ∧ (vecR 20).op.vop = 20) := by
  and_intros <;> first | decide +kernel | rfl
theorem witness_TensorEngineResults :
    (((runF 0 (mmR 0)).getTile 7).doing (isOp opMatmul) = some (0, mmR 0) ∧ Settled ((runF 0 (mmR 0)).getTile 7) (mmR 0) ∧ goesOn (Instr.matmul (7
     : TileIx) { : Findings }) (runF 0 (mmR 0)) = true ∧ (mmR 0).op.f 78 3 ≤ 4 ∧ (mmR 0).op.f 78 3 = 0)
    ∧ (((runF 0 (mmR 1)).getTile 7).doing (isOp opMatmul) = some (0, mmR 1) ∧ Settled ((runF 0 (mmR 1)).getTile 7) (mmR 1) ∧ goesOn (Instr.matmul (7
     : TileIx) { : Findings }) (runF 0 (mmR 1)) = true ∧ (mmR 1).op.f 78 3 ≤ 4 ∧ (mmR 1).op.f 78 3 = 1)
    ∧ (((heldT 2).getTile 7).doing (isOp opMatmul) = some (0, mmR 2) ∧ Settled ((heldT 2).getTile 7) (mmR 2) ∧ goesOn (Instr.matmul (7 : TileIx)
     { : Findings }) (heldT 2) = true ∧ (mmR 2).op.f 78 3 ≤ 4 ∧ (mmR 2).op.f 78 3 = 2)
    ∧ (((heldT 3).getTile 7).doing (isOp opMatmul) = some (0, mmR 3) ∧ Settled ((heldT 3).getTile 7) (mmR 3) ∧ goesOn (Instr.matmul (7 : TileIx)
     { : Findings }) (heldT 3) = true ∧ (mmR 3).op.f 78 3 ≤ 4 ∧ (mmR 3).op.f 78 3 = 3)
    ∧ (((heldT 4).getTile 7).doing (isOp opMatmul) = some (0, mmR 4) ∧ Settled ((heldT 4).getTile 7) (mmR 4) ∧ goesOn (Instr.matmul (7 : TileIx)
     { : Findings }) (heldT 4) = true ∧ (mmR 4).op.f 78 3 ≤ 4 ∧ (mmR 4).op.f 78 3 = 4)
    ∧ (((runF 0 (opF 33 1)).getTile 7).doing (isOp opAttn) = some (0, opF 33 1) ∧ Settled ((runF 0 (opF 33 1)).getTile 7) (opF 33 1) ∧ goesOn
     (Instr.attn (7 : TileIx) { : Findings }) (runF 0 (opF 33 1)) = true)
    ∧ (((taS (0 : Byte)).getTile 7).doing (isOp opTailorApply) = some (0, opF 39 1) ∧ Settled ((taS (0 : Byte)).getTile 7) (opF 39 1) ∧ goesOn
     (Instr.tailorApply (7 : TileIx) { : Findings }) (taS (0 : Byte)) = true ∧ (∀ (i : Nat), i ∈ readCounts ((taS (0 : Byte)).getTile 7).sram
     ((opF 39 1).dataOf 78) (((taS (0 : Byte)).getTile 7).descOf (opF 39 1) 48).rows → i % 65536 = 0) ∧ (((taS (0 : Byte)).getTile 7).descOf (opF
     39 1) 48).lines = (((taS (0 : Byte)).getTile 7).descOf (opF 39 1) 68).lines ∧ (((taS (0 : Byte)).getTile 7).descOf (opF 39 1) 48).rows =
     (((taS (0 : Byte)).getTile 7).descOf (opF 39 1) 48).lines)
    ∧ (((taS (1 : Byte)).getTile 7).doing (isOp opTailorApply) = some (0, opF 39 1) ∧ Settled ((taS (1 : Byte)).getTile 7) (opF 39 1) ∧ goesOn
     (Instr.tailorApply (7 : TileIx) { : Findings }) (taS (1 : Byte)) = true ∧ (((taS (1 : Byte)).getTile 7).descOf (opF 39 1) 48).rows = 1 ∧
     (((taS (1 : Byte)).getTile 7).descOf (opF 39 1) 48).axis = false ∧ (((taS (1 : Byte)).getTile 7).descOf (opF 39 1) 68).lines = 1 ∧ leNat
     (((taS (1 : Byte)).getTile 7).sram.read ((opF 39 1).dataOf 78) 4) % 65536 ≠ 0) := by
  and_intros <;> first | decide +kernel | rfl

end TF

/-! ### Engine port -/

namespace TG

def vctx : Ctx := { runCtx with plan := { runCtx.plan with state := .running } }
def gemvO : MacroOp := mop 0x30 0 (0 + 2 ^ 10 * 1 + 2 ^ 20 * 2 + 2 ^ 30 * 1)
def gemvR : Running := { op := gemvO, started := true, data := [(48, 64), (58, 0x200), (68, 0x300)] }
def strmR : Running := { op := mop 0x31 0 (0 + 2 ^ 10 * 1), started := true, data := [(48, 64), (58, 0x200)] }
def tblV : Memory := Memory.write [] 0 (dsc 2 0 1 32 32 64 64 ++ dsc 0 0 1 32 32 0x200 64 ++ dsc 0 0 1 32 32 0x300 64 ++ dsc 0 0 1 32 32 0x400 64)
def sramV : Memory := Memory.write [] 0x200 ((List.range 66).map fun i => BitVec.ofNat 8 (5 * i + 1))
def portSt (r : Running) : State := tileS { tile0 with desc := tblV, running := [(11, some r)], sram := sramV }
def fullV : State := (portSt gemvR).modVault 0 fun v => { v with queue := [(3, List.replicate 16 { vtile := 0, key := 4, stream := false })] }
def vmem : Memory := Memory.write [] 64 ((List.range 66).map fun i => BitVec.ofNat 8 (3 * i + 1))
def vq (st : Bool) : VReq := { vtile := 0, key := 4, stream := st }
def vltS (r : Running) (st : Bool) (b : Bool) : State :=
  (tileS { tile0 with desc := tblV, outst := [r], sram := sramV }).modVault 0 fun v => { v with
    mem := vmem, queue := [(3, [vq st])], groups := [(0, some { slot := 3, gen := 5 })], regions := if b then [(0, { state := .bound, first := 0, nblk := 1, ctx := some { slot := 3, gen := 5 } })] else [] }
def vwords : List Nat := wordsOf 64 32 ++ wordsOf 128 2
def w1 := (vltS gemvR false true).modVault 0 fun v => { v with bad := [64] }
def gatR : Running := { op := mop 0x32 0 (0 + 2 ^ 10 * 1 + 2 ^ 20 * 2), started := true, data := [(48, 0x100), (58, 0x200)] }
def tblG : Memory := Memory.write [] 0 (dsc 0 3 1 1 4 0x100 0x40 ++ dsc 0 0 1 64 64 0x200 64)
def gatS (idb : Byte) (ts : KMap (Option TailorSet)) : State :=
  { ((withCtx { runCtx with serve := { tailors := ts } }).modTile 7 fun _ => { tile0 with desc := tblG, running := [(11, some gatR)], sram := Memory.write [] 0x100 [idb, 0, 0, 0] }) with
    hbm := [(0, { mem := Memory.write [] (9 * 0x200000 + 32) (leBytes 8 64 ++ leBytes 4 1 ++ leBytes 4 1 ++ List.replicate 16 0 ++ List.replicate 40 7), frames := [(9, {})] })] }
def tset : TailorSet := { base := 0x200000, extent := 4096 }
def gatB : State := gatS 2 [(2, some tset)]
def rnd (s : Nat) : Nat := (s * 6364136223846793005 + 1442695040888963407) % 2 ^ 64
def cands (n sd : Nat) : List Cand := ((List.range n).map fun i => { logit := ((rnd (rnd (i + sd * 77)) / 2 ^ 40 % 4000 : Nat) : Int) - 2000, tok := i })
def cands' (n : Nat) : List Cand := (List.range n).map fun (i : Nat) => { logit := Int.ofNat i, tok := i }
def prm (inv tk tp : Nat) : ParamBlock := { noParams with invTemp := inv, topk := tk, topp := tp }
def smpR : Running := { op := mop 0x33 0 (0 + 2 ^ 10 * 1 + 2 ^ 20 * 4), started := true, step := 6, data := [(48, 0x200), (58, 0x300)] }
def smpC : Ctx := { runCtx with image := some { runIm with vocab := 1000 } }
def smpS : State := (withCtx smpC).modTile 7 fun _ => { tile0 with desc := Memory.write [] 0 (dsc 0 0 1 32 32 0x200 64 ++ dsc 0 3 1 8 32 0x300 64), running := [(1, some smpR)], sram := sramV }
def colR : Running := { op := mop 0x34 0 (0 + 2 ^ 10 * 1 + 2 ^ 20 * 0), started := true, step := 6, data := [(48, 0x400)] }
def colS : State := (withCtx smpC).modTile 7 fun _ => { tile0 with running := [(11, some colR)] }
def vrow : BatchRow := { handle := 0x40001, role := 1, samples := false, pos := 0, dlen := 0, collect := 0, tailor := 0, kvidx := 0, poff := 0, plen := 0 }
def pool6 : Collect := { step := 6, issued := 1, contribs := [(4, [[{ logit := 9, tok := 77 }]])] }
def ccC : Ctx := { smpC with serve := { tables := [{ step := 6, variant := 0, rows := [vrow], params := [], releases := [] }], collects := [pool6] } }
def ccS : State := { ((withCtx ccC).modTile 7 fun _ => { tile0 with desc := Memory.write [] 0 (dsc 0 3 1 32 128 0x400 0x80), outst := [colR], sram := sramV }) with
  req := [(1, { state := .decode, lead := false, ctx := { slot := 3, gen := 5 }, handle := 0x40001, params := { noParams with seed := [], maxNew := 100, topk := 1, topp := 65536 } })] }
def bfR (w : Nat) : Running := { op := mop 0x35 0 (0 + 2 ^ 10 * 3 + 2 ^ 16 * w), started := true, step := 6, data := [(48, 0x400)] }
def bfS (w : Nat) : State := (withCtx { ccC with varIdx := [(6, 2)] }).modTile 7 fun _ => { tile0 with desc := Memory.write [] 0 (dsc 0 3 4 32 128 0x400 0x200), running := [(11, some (bfR w))], sram := sramV }
def bfLs : List (List Nat) := [[1, 2, 6], column [vrow] 0, column [vrow] 1]
def dl : BatchRow := { vrow with pos := 2 }
def bf2 : State := (withCtx { ccC with serve := { ccC.serve with tables := [{ step := 6, variant := 0, rows := [dl], params := [], releases := [] }] } }).modTile 7 fun _ => { tile0 with running := [(11, some (bfR 2))] }
theorem witness_VaultRequests :
    ((Instr.vaultGemv 7 = Instr.vaultGemv 7 ∧ opVaultGemv = opVaultGemv) ∧ ((portSt gemvR).getTile ↑7).doing (isOp opVaultGemv) = some (11, gemvR)
     ∧ (portSt gemvR).tileCtx ↑7 = some 3 ∧ ((portSt gemvR).getCtx 3).vtile ↑7 = some 0 ∧ 0 = stackOf (gemvR.dataOf 48) ∧ (KMap.get [] ((portSt
     gemvR).getVault 0).queue 3).length < 16)
    ∧ ((Instr.vaultStream 7 = Instr.vaultStream 7 ∧ opVaultStream = opVaultStream) ∧ ((portSt strmR).getTile ↑7).doing (isOp opVaultStream) = some
     (11, strmR) ∧ (portSt strmR).tileCtx ↑7 = some 3 ∧ ((portSt strmR).getCtx 3).vtile ↑7 = some 0 ∧ 0 = stackOf (strmR.dataOf 48) ∧ (KMap.get []
     ((portSt strmR).getVault 0).queue 3).length < 16)
    ∧ ((Instr.vaultGemv 7 = Instr.vaultGemv 7 ∧ opVaultGemv = opVaultGemv) ∧ (fullV.getTile ↑7).doing (isOp opVaultGemv) = some (11, gemvR) ∧
     fullV.tileCtx ↑7 = some 3 ∧ (fullV.getCtx 3).vtile ↑7 = some 0 ∧ 0 = stackOf (gemvR.dataOf 48) ∧ 16 ≤ (KMap.get [] (fullV.getVault 0).queue
     3).length)
    ∧ (((vltS gemvR false true).getCtx ↑3).state = CtxState.opened ∧ ((vltS gemvR false true).getCtx ↑3).plan.active = true ∧ ((vltS gemvR false
     true).getVault ↑0).mode = VaultMode.service ∧ (vltS gemvR false true).nextVReq ↑3 ↑0 = some (vq false, 0) ∧ 7 = ((vltS gemvR false
     true).getCtx ↑3).tiles.getD (vq false).vtile 576 ∧ (List.find? (fun r => r.key == (vq false).key && r.op.engine) ((vltS gemvR false
     true).getTile 7).outst = some gemvR) ∧ (vwords = List.flatMap (fun p => wordsOf p.fst p.snd) ((((vltS gemvR false true).getTile 7).descOf
     gemvR 48).ranges (gemvR.dataOf 48 % 2 ^ 37))) ∧ (gemvR.op.op = opVaultGemv → ((vltS gemvR false true).getTile 7).openLoads (((vltS gemvR
     false true).getTile 7).rangesOf gemvR 58) = []) ∧ gemvR.dataOf 48 < 2 ^ 39 ∧ (∀ (w : Nat), w ∈ vwords → ((vltS gemvR false true).boundAt (↑3)
     (↑0) w).isSome = true ∧ ¬w ∈ ((vltS gemvR false true).getVault ↑0).bad))
    ∧ (((vltS strmR true true).getCtx ↑3).state = CtxState.opened ∧ ((vltS strmR true true).getCtx ↑3).plan.active = true ∧ ((vltS strmR true
     true).getVault ↑0).mode = VaultMode.service ∧ (vltS strmR true true).nextVReq ↑3 ↑0 = some (vq true, 0) ∧ 7 = ((vltS strmR true true).getCtx
     ↑3).tiles.getD (vq true).vtile 576 ∧ (List.find? (fun r => r.key == (vq true).key && r.op.engine) ((vltS strmR true true).getTile 7).outst =
     some strmR) ∧ (vwords = List.flatMap (fun p => wordsOf p.fst p.snd) ((((vltS strmR true true).getTile 7).descOf strmR 48).ranges
     (strmR.dataOf 48 % 2 ^ 37))) ∧ (strmR.op.op = opVaultGemv → ((vltS strmR true true).getTile 7).openLoads (((vltS strmR true true).getTile
     7).rangesOf strmR 58) = []) ∧ strmR.dataOf 48 < 2 ^ 39 ∧ (∀ (w : Nat), w ∈ vwords → ((vltS strmR true true).boundAt (↑3) (↑0) w).isSome =
     true ∧ ¬w ∈ ((vltS strmR true true).getVault ↑0).bad))
    ∧ (((vltS gemvR false false).getCtx ↑3).state = CtxState.opened ∧ ((vltS gemvR false false).getCtx ↑3).plan.active = true ∧ ((vltS gemvR false
     false).getVault ↑0).mode = VaultMode.service ∧ (vltS gemvR false false).nextVReq ↑3 ↑0 = some (vq false, 0) ∧ 7 = ((vltS gemvR false
     false).getCtx ↑3).tiles.getD (vq false).vtile 576 ∧ (List.find? (fun r => r.key == (vq false).key && r.op.engine) ((vltS gemvR false
     false).getTile 7).outst = some gemvR) ∧ (vwords = List.flatMap (fun p => wordsOf p.fst p.snd) ((((vltS gemvR false false).getTile 7).descOf
     gemvR 48).ranges (gemvR.dataOf 48 % 2 ^ 37))) ∧ (gemvR.op.op = opVaultGemv → ((vltS gemvR false false).getTile 7).openLoads (((vltS gemvR
     false false).getTile 7).rangesOf gemvR 58) = []) ∧ (2 ^ 39 ≤ gemvR.dataOf 48 ∨ ∃ w, w ∈ vwords ∧ (vltS gemvR false false).boundAt (↑3) (↑0) w
     = none) ∧ (∀ (w : Nat), w ∈ vwords → ¬w ∈ ((vltS gemvR false false).getVault ↑0).bad))
    ∧ ((w1.getCtx ↑3).state = CtxState.opened ∧ (w1.getCtx ↑3).plan.active = true ∧ (w1.getVault ↑0).mode = VaultMode.service ∧ w1.nextVReq ↑3 ↑0 =
     some (vq false, 0) ∧ 7 = (w1.getCtx ↑3).tiles.getD (vq false).vtile 576 ∧ (List.find? (fun r => r.key == (vq false).key && r.op.engine)
     (w1.getTile 7).outst = some gemvR) ∧ (vwords = List.flatMap (fun p => wordsOf p.fst p.snd) (((w1.getTile 7).descOf gemvR 48).ranges
     (gemvR.dataOf 48 % 2 ^ 37))) ∧ (gemvR.op.op = opVaultGemv → (w1.getTile 7).openLoads ((w1.getTile 7).rangesOf gemvR 58) = []) ∧ gemvR.dataOf
     48 < 2 ^ 39 ∧ (∀ (w : Nat), w ∈ vwords → (w1.boundAt (↑3) (↑0) w).isSome = true) ∧ w1.badWord (↑0) vwords = some 64) := by
  and_intros <;> first | decide +kernel | rfl
theorem witness_TailorGathers :
    (((gatS 0 []).getTile ↑7).doing (isOp opTailorGather) = some (11, gatR) ∧ (gatS 0 []).tileCtx ↑7 = some 3 ∧ gatR.op.engine = true ∧ (gatS 0
     []).jrnMode 3 ≠ 2 ∧ ((gatS 0 []).getCtx 3).plan.state ≠ PlanState.ended ∧ ((gatS 0 []).getTile ↑7).openLoads (((gatS 0 []).getTile
     ↑7).rangesOf gatR 48) = [] ∧ (∀ (i : Nat), i < (((gatS 0 []).getTile ↑7).descOf gatR 48).rows → leNat (((gatS 0 []).getTile ↑7).sram.read
     (gatR.dataOf 48 + 4 * i) 4) % 65536 = 0))
    ∧ ((gatB.getTile ↑7).doing (isOp opTailorGather) = some (11, gatR) ∧ gatB.tileCtx ↑7 = some 3 ∧ gatR.op.engine = true ∧ gatB.jrnMode 3 ≠ 2 ∧
     (gatB.getCtx 3).plan.state ≠ PlanState.ended ∧ (gatB.getTile ↑7).openLoads ((gatB.getTile ↑7).rangesOf gatR 48) = [] ∧ ((gatB.getTile
     ↑7).descOf gatR 48).rows = 1 ∧ 2 = leNat ((gatB.getTile ↑7).sram.read (gatR.dataOf 48) 4) % 65536 ∧ 2 ≠ 0 ∧ KMap.get none (gatB.getCtx
     3).serve.tailors 2 = some tset ∧ 2097184 = tset.base + 16 * gatR.op.f 68 8 ∧ gatB.vaOk 3 2097184 16 false = true ∧ 34 = 17 * (leAt
     (gatB.ctxRead 3 2097184 16) 8 4 + leAt (gatB.ctxRead 3 2097184 16) 12 4) ∧ 34 ≠ 0 ∧ 34 ≤ ((gatB.getTile ↑7).descOf gatR 58).stride ∧ 2097216
     = tset.base + leAt (gatB.ctxRead 3 2097184 16) 0 8 ∧ gatB.vaOk 3 2097216 34 false = true)
    ∧ (((gatS 2 []).getTile ↑7).doing (isOp opTailorGather) = some (11, gatR) ∧ (gatS 2 []).tileCtx ↑7 = some 3 ∧ gatR.op.engine = true ∧ (gatS 2
     []).jrnMode 3 ≠ 2 ∧ ((gatS 2 []).getCtx 3).plan.state ≠ PlanState.ended ∧ ((gatS 2 []).getTile ↑7).openLoads (((gatS 2 []).getTile
     ↑7).rangesOf gatR 48) = [] ∧ (((gatS 2 []).getTile ↑7).descOf gatR 48).rows = 1 ∧ 2 = leNat (((gatS 2 []).getTile ↑7).sram.read (gatR.dataOf
     48) 4) % 65536 ∧ 2 ≠ 0 ∧ KMap.get none ((gatS 2 []).getCtx 3).serve.tailors 2 = none) := by
  and_intros <;> first | decide +kernel | rfl
theorem witness_TokenDraw :
    (cands' 3 ≠ [] ∧ (prm 0 1 1).invTemp = 0)
    ∧ (cands' 3 ≠ [] ∧ 1 ≤ (prm 65536 2 65536).topk ∧ 1 ≤ (prm 65536 2 65536).topp ∧ (prm 65536 2 65536).topp ≤ 65536 ∧ 5 < 2 ^ 64) := by
  and_intros <;> first | decide +kernel | rfl
theorem witness_Sampling :
    (smpS.tileCtx ↑7 = some 3 ∧ (smpS.getTile ↑7).doing (isOp opSample) = some (1, smpR) ∧ Settled (smpS.getTile ↑7) smpR)
    ∧ (colS.tileCtx ↑7 = some 3 ∧ (colS.getTile ↑7).doing (isOp opSampleCollect) = some (11, colR))
    ∧ (ccS.tileCtx ↑7 = some 3 ∧ (ccS.getTile ↑7).handed opSampleCollect = some colR ∧ colR.op.engine = true ∧ (ccS.getCtx 3).plan.active = true ∧
     (ccS.getCtx 3).state = CtxState.opened ∧ pool6 = (ccS.getCtx 3).serve.pool colR.step ∧ pool6.done = colR.recvd ∧ colR.op.f 58 10 ≤
     pool6.contribs.length) := by
  and_intros <;> first | decide +kernel | rfl
theorem witness_BatchFetches :
    ((bfS 0).tileCtx ↑7 = some 3 ∧ ((bfS 0).getTile ↑7).doing (isOp opBatchFetch) = some (11, bfR 0) ∧ ((bfS 0).getTile ↑7).handed opBatchFetch =
     none ∧ (bfR 0).op.engine = true ∧ ((bfS 0).getCtx 3).plan.active = true ∧ [vrow] = (Option.map StepMsg.rows (((bfS 0).getCtx 3).serve.table
     (bfR 0).step)).getD [] ∧ (bfR 0).op.f 64 2 = 0 ∧ (bfLs = [[vrow].length, (((bfS 0).getCtx 3).variantOf (bfR 0).step).getD 0, (bfR 0).step % 2
     ^ 32] :: List.map (column [vrow]) (List.filter (fun b => (bfR 0).op.f (58 + b) 1 == 1) (List.range 6))))
    ∧ (bf2.tileCtx ↑7 = some 3 ∧ (bf2.getTile ↑7).doing (isOp opBatchFetch) = some (11, bfR 2) ∧ (bf2.getTile ↑7).handed opBatchFetch = none ∧ (bfR
     2).op.engine = true ∧ (bf2.getCtx 3).plan.active = true ∧ [dl] = (Option.map StepMsg.rows ((bf2.getCtx 3).serve.table (bfR 2).step)).getD []
     ∧ (bfR 2).op.f 64 2 = 2 ∧ (((bf2.getCtx 3).serve.pool (bfR 2).step).done < List.foldl (fun n y => max n y.pos.toNat) 0 (List.filter (fun y =>
     y.role == 1) [dl]))) := by
  and_intros <;> first | decide +kernel | rfl

end TG

/-! ### Fabric and links -/

namespace TH

def coded (f : List Byte) : List Byte := match rsDecode (f ++ (f.foldl rsStep [0,0,0,0])) with | some _ => f ++ (f.foldl rsStep [0,0,0,0]) | none => []
def lnkUp (l : Nat) (f : Link → Link) (s : State) : State := s.modLink l fun _ => f { state := .up }
def upS (f : Link → Link) : State := lnkUp 2 f base
def hd0 : Head := { kind := 9, src := 5, dest := 7, seq := 3, len := 1 }
def pk0 : List Byte := packet hd0 [1, 2, 3]
def badCrc : List Byte := pk0.set 20 9
def rxP (l vc : Nat) (p : List Byte) (s : State) : State := s.modLink l fun x => { x with rxq := [(vc, flitsOf false p (some l))] }
def ff (l : Nat) (p : List Byte) : List TxFlit := flitsOf false p (some l)
def agedS : State := { rxP 2 3 pk0 (upS id) with time := { base.time with mt := 1024 * 2000 } }
def hdP : Head := { kind := 9, part := 7, gen := 2, src := 5, dest := 7, seq := 3, flood := true }
def hdP1 : Head := { hdP with len := 1 }
def pkP : List Byte := packet hdP [1, 2, 3]
def pCtx (ls : List Nat) (st : PartState) : Ctx := { runCtx with links := ls, part := { state := st, part := 7, gen := 2, ctxGen := 5, extent := 1, origin := 0 } }
def pS (ls : List Nat) : State := ((((base.setCtx 3 (pCtx ls .joined)).modLink 0 fun _ => { state := .up }).modLink 1 fun _ => { state := .up }).modLink 2 fun _ => { state := .up }).setRg .netTopo [] 1
def dupS : State := { rxP 0 3 pkP (pS [0, 1]) with net := { base.net with seen := [{ src := 5, seq := 3, vc := 3, mt := 0 }] } }
def hdV : Head := { kind := 4, part := 7, gen := 2, src := 5, dest := 7, seq := 3 }
def pkV : List Byte := (packet hdV [1, 2, 3]).set 20 9
def hdR : Head := { kind := 9, route := 5, part := 7, gen := 2, src := 5, dest := 7, seq := 3, len := 1 }
def pkR : List Byte := packet hdR [1, 2, 3]
def rtS : State := { rxP 0 3 pkR (pS [0, 1]) with net := { base.net with routes := [(256 * 3 + 5, 8 + 1)] } }
def kept : SentPacket := { seq := 3, part := 7, links := [2], epoch := false, payload := pkP, mt := 0 }
def keptS : State := { upS id with net := { base.net with sent := [kept] } }
def unl (a : Nat) (mt : Word) : State := { base with net := { base.net with unlockAt := [(3, a)] }, time := { base.time with mt := mt } }
def fl (fn : Nat) (kind : Nat) (more : Nat) : List Byte := coded (leBytes 4 (fn + 2 ^ 26 * kind + 2 ^ 24 * more) ++ (List.range 32).map (BitVec.ofNat 8 ·))
def rxIm : Image := { runIm with slots := [(112 * 2 + 56 + 3, 1 + 2 ^ 11 * 6)] }
def rxC (h : Bool) : Ctx := { runCtx with links := [2], image := some rxIm, part := { state := if h then .joined else .free, part := 7, gen := 2, ctxGen := 5, extent := 32, origin := 0 } }
def rxS (h : Bool) (f : Link → Link) : State := (lnkUp 2 f (withCtx (rxC h))).setRg .netTopo [] 32
def rx5 (x : Link) : Link := { x with rxFn := 5, rxCur := 5 }
def bad : List Byte := List.replicate 40 3
def w1 := (rxS true fun x => { rx5 x with rxCur := 4 }).getLink 2
def w2 := rxS true fun x => { rx5 x with rxCur := 4 }
def rx53 (x : Link) : Link := { x with rxFn := 5, rxCur := 5, rxSeen := [3] }
def rxMiss (x : Link) : Link := { x with rxFn := 5, rxCur := 5, rxSeen := [3], missing := [(4, 3)] }
def cfl (fn p : Nat) : List Byte := coded (leBytes 4 (fn + 2 ^ 26 * 5) ++ leBytes 32 p)
def ctlP : Nat := 12 + 2 ^ 48 + 2 ^ 64 * 7 + 2 ^ 80 * 2 + 2 ^ 88 * 5
def ctlS : State := rxS true fun x => { x with rxFn := 6 }
def tsS (sy : Sync) : State := { (upS fun x => { x with rxFn := 5, far0 := some (4, 100000, 99000), txTimes := [(4, 90000)] }) with time := { base.time with sync := sy, parent := some 2 } }
def tctl : Nat := 2 ^ 195 * 4 + 2 ^ 207 * 9000
def snd (f : Link → Link) : State := lnkUp 2 f base
def sndX (x : Link) : Link := { x with txFn := 9, txPlan := [(5, [{ g := 5, payload := some (List.replicate 32 1), tile := 7, mop := 2 }])] }
def sndH : State := lnkUp 2 sndX (withCtx { runCtx with links := [2] })
def fr8 : SentFrame := { fn := 8, flits := [], at_ := 0 }
def tmo (tries : KMap Nat) : State := { snd fun x => { x with txFn := 9, sent := [{ fr8 with tries := tries }] } with time := { base.time with mt := 1000000 } }
def w3 := { fr8 with tries := [(4, 9)] }
def stl : State := snd fun x => { x with txFn := 1032, sent := [fr8] }
def lkS (st : LinkState) (f : Link → Link) : State := base.modLink 2 fun x => f { x with state := st, buf := [(3, { at_ := 2 })], txFn := 5 }
def holdS (f : Link → Link) : State := ((withCtx { ctx3 with links := [2] }).modLink 2 fun x => f { x with state := .up })
def atS : State := { (lkS .down id).setRg .lnkCtl [2] 3 with time := { base.time with mt := 125000000 } }
def qtS : State := lkS .up fun x => { x with queuedTrain := true }
def ldS : State := { lkS .training fun x => { x with farKnown := true, farCoord := 0, farInst := 3 } with self := 5 }
def manyS : State := lkS .up fun x => { x with starts := [0, 0] }
def goodRx : KMap Lane := (List.range 32).map (fun q => (q, { logical := q, lock := true })) ++ [(32, { role := 1, lock := true }), (33, { role := 1, lock := true })]
def laneS (f : Link → Link) : State := (lnkUp 2 (fun x => f { x with rx := goodRx, tx := goodRx }) base).setRg .lnkLaneCtl [2] (Word.ofNat (5 + 2 ^ 16 * 1))
def l5 : State := laneS fun x => { x with rx := KMap.set {} goodRx 5 { logical := 5, lock := true, window := 4 } }
def swp : State := laneS fun x => { x with farSat := some (3, 5, 32), rxFn := 4 }
def tsq : Nat := let b := 0xF628 + 2 ^ 19 * 5 + 2 ^ 25 * 77 + 2 ^ 40 * 3; b + 2 ^ 112 * (crc16 0xFFFF ((leBytes 16 b).take 14)).toNat
def noP (s : State) : State := s.setRg .lnkCtl [2] 1
def trn : State := noP (lkS .training fun x => { x with phase := 5 })
def rtn : State := noP (base.modLink 2 fun x => { x with state := .retrain, rx := goodRx, tx := goodRx, sent := [{ fn := 7, flits := [] }, { fn := 8, flits := [] }, { fn := 9, flits := [] }] })
theorem witness_PacketCodec :
    hd0.kind < 256 ∧ hd0.route < 256 ∧ hd0.part < 65536 ∧ hd0.gen < 256 ∧ hd0.age < 2 ^ 24 ∧ hd0.src < 32768 ∧ hd0.dest < 32768 ∧ hd0.seq < 65536
     ∧ 1 = ceilDiv (16 + [1, 2, 3].length + 4) 32 ∧ 1 < 8192 := by
  decide +kernel
theorem witness_PacketReception :
    (base.fld RegName.netSampleCtl [] 0 5 = 0 ∧ frontPacket (KMap.get [] (base.getLink ↑2).rxq ↑3) = none)
    ∧ ((rxP 2 3 badCrc (upS id)).fld RegName.netSampleCtl [] 0 5 = 0 ∧ frontPacket (KMap.get [] ((rxP 2 3 badCrc (upS id)).getLink ↑2).rxq ↑3) =
     some (ff 2 badCrc, []) ∧ Option.map TxFlit.first (ff 2 badCrc).head? = some true ∧ Option.map TxFlit.epoch (ff 2 badCrc).head? = some false ∧
     badCrc = List.flatMap TxFlit.payload (ff 2 badCrc) ∧ (∀ (f : TxFlit), f ∈ ff 2 badCrc → f.from_ = some ↑2) ∧ hd0 = Head.parse badCrc ∧ 0 <
     badCrc.length ∧ (rxP 2 3 badCrc (upS id)).packetStep (↑2) (↑3) badCrc = 1 ∧ (1 = 1 ∧ RegName.netDrop1 = RegName.netDrop1 ∧ 0 = 0 ∧ (↑3 ≠ 2 ∨
     (rxP 2 3 badCrc (upS id)).partSlot hd0.part = none)))
    ∧ (agedS.fld RegName.netSampleCtl [] 0 5 = 0 ∧ frontPacket (KMap.get [] (agedS.getLink ↑2).rxq ↑3) = some (ff 2 pk0, []) ∧ Option.map
     TxFlit.first (ff 2 pk0).head? = some true ∧ Option.map TxFlit.epoch (ff 2 pk0).head? = some false ∧ pk0 = List.flatMap TxFlit.payload (ff 2
     pk0) ∧ (∀ (f : TxFlit), f ∈ ff 2 pk0 → f.from_ = some ↑2) ∧ hd0 = Head.parse pk0 ∧ 0 < pk0.length ∧ agedS.packetStep (↑2) (↑3) pk0 = 2 ∧ (2 =
     2 ∧ RegName.netDrop0 = RegName.netDrop0 ∧ 32 = 32))
    ∧ ((rxP 2 3 pkP (upS id)).fld RegName.netSampleCtl [] 0 5 = 0 ∧ frontPacket (KMap.get [] ((rxP 2 3 pkP (upS id)).getLink ↑2).rxq ↑3) = some (ff
     2 pkP, []) ∧ Option.map TxFlit.first (ff 2 pkP).head? = some true ∧ Option.map TxFlit.epoch (ff 2 pkP).head? = some false ∧ pkP =
     List.flatMap TxFlit.payload (ff 2 pkP) ∧ (∀ (f : TxFlit), f ∈ ff 2 pkP → f.from_ = some ↑2) ∧ hdP1 = Head.parse pkP ∧ 0 < pkP.length ∧ (rxP 2
     3 pkP (upS id)).packetStep (↑2) (↑3) pkP = 3 ∧ ((3 = 3 ∨ 3 = 4) ∧ RegName.netDrop0 = RegName.netDrop0 ∧ 0 = 0))
    ∧ ((rxP 2 3 pkP (pS [0, 1])).fld RegName.netSampleCtl [] 0 5 = 0 ∧ frontPacket (KMap.get [] ((rxP 2 3 pkP (pS [0, 1])).getLink ↑2).rxq ↑3) =
     some (ff 2 pkP, []) ∧ Option.map TxFlit.first (ff 2 pkP).head? = some true ∧ Option.map TxFlit.epoch (ff 2 pkP).head? = some false ∧ pkP =
     List.flatMap TxFlit.payload (ff 2 pkP) ∧ (∀ (f : TxFlit), f ∈ ff 2 pkP → f.from_ = some ↑2) ∧ hdP1 = Head.parse pkP ∧ 0 < pkP.length ∧ (rxP 2
     3 pkP (pS [0, 1])).packetStep (↑2) (↑3) pkP = 4 ∧ ((4 = 3 ∨ 4 = 4) ∧ RegName.netDrop0 = RegName.netDrop0 ∧ 0 = 0))
    ∧ (dupS.fld RegName.netSampleCtl [] 0 5 = 0 ∧ frontPacket (KMap.get [] (dupS.getLink ↑0).rxq ↑3) = some (ff 0 pkP, []) ∧ Option.map TxFlit.first
     (ff 0 pkP).head? = some true ∧ Option.map TxFlit.epoch (ff 0 pkP).head? = some false ∧ pkP = List.flatMap TxFlit.payload (ff 0 pkP) ∧ (∀ (f :
     TxFlit), f ∈ ff 0 pkP → f.from_ = some ↑0) ∧ hdP1 = Head.parse pkP ∧ 0 < pkP.length ∧ dupS.packetStep (↑0) (↑3) pkP = 5 ∧ (5 = 5 ∧
     RegName.netDrop2 = RegName.netDrop2 ∧ 32 = 32))
    ∧ ((rxP 0 2 pkV (pS [0, 1])).fld RegName.netSampleCtl [] 0 5 = 0 ∧ frontPacket (KMap.get [] ((rxP 0 2 pkV (pS [0, 1])).getLink ↑0).rxq ↑2) =
     some (ff 0 pkV, []) ∧ Option.map TxFlit.first (ff 0 pkV).head? = some true ∧ Option.map TxFlit.epoch (ff 0 pkV).head? = some false ∧ pkV =
     List.flatMap TxFlit.payload (ff 0 pkV) ∧ (∀ (f : TxFlit), f ∈ ff 0 pkV → f.from_ = some ↑0) ∧ Head.parse pkV = Head.parse pkV ∧ 0 <
     pkV.length ∧ (rxP 0 2 pkV (pS [0, 1])).packetStep (↑0) (↑2) pkV = 1 ∧ ↑2 = 2 ∧ (rxP 0 2 pkV (pS [0, 1])).partSlot (Head.parse pkV).part =
     some 3 ∧ members ((rxP 0 2 pkV (pS [0, 1])).getCtx 3).part.extent ≤ 64)
    ∧ ((rxP 0 3 pkP (pS [0, 1])).fld RegName.netSampleCtl [] 0 5 = 0 ∧ frontPacket (KMap.get [] ((rxP 0 3 pkP (pS [0, 1])).getLink ↑0).rxq ↑3) =
     some (ff 0 pkP, []) ∧ Option.map TxFlit.first (ff 0 pkP).head? = some true ∧ Option.map TxFlit.epoch (ff 0 pkP).head? = some false ∧ pkP =
     List.flatMap TxFlit.payload (ff 0 pkP) ∧ (∀ (f : TxFlit), f ∈ ff 0 pkP → f.from_ = some ↑0) ∧ hdP1 = Head.parse pkP ∧ 0 < pkP.length ∧ (rxP 0
     3 pkP (pS [0, 1])).packetStep (↑0) (↑3) pkP = 0 ∧ ↑3 = 3 ∧ (rxP 0 3 pkP (pS [0, 1])).outputOf false hdP1 = 6 ∧ hdP1.kind = 9 ∧ hdP1.flood =
     true ∧ hdP1.part ≠ 0 ∧ (∀ (k : Nat), k ∈ (rxP 0 3 pkP (pS [0, 1])).partSlot hdP1.part → ((rxP 0 3 pkP (pS [0, 1])).getCtx k).links.Nodup))
    ∧ ((rxP 0 3 pkR (pS [0, 1])).fld RegName.netSampleCtl [] 0 5 = 0 ∧ frontPacket (KMap.get [] ((rxP 0 3 pkR (pS [0, 1])).getLink ↑0).rxq ↑3) =
     some (ff 0 pkR, []) ∧ Option.map TxFlit.first (ff 0 pkR).head? = some true ∧ Option.map TxFlit.epoch (ff 0 pkR).head? = some false ∧ pkR =
     List.flatMap TxFlit.payload (ff 0 pkR) ∧ (∀ (f : TxFlit), f ∈ ff 0 pkR → f.from_ = some ↑0) ∧ hdR = Head.parse pkR ∧ 0 < pkR.length ∧ (rxP 0
     3 pkR (pS [0, 1])).packetStep (↑0) (↑3) pkR = 0 ∧ (rxP 0 3 pkR (pS [0, 1])).outputOf false hdR = 7)
    ∧ (rtS.fld RegName.netSampleCtl [] 0 5 = 0 ∧ frontPacket (KMap.get [] (rtS.getLink ↑0).rxq ↑3) = some (ff 0 pkR, []) ∧ Option.map TxFlit.first
     (ff 0 pkR).head? = some true ∧ Option.map TxFlit.epoch (ff 0 pkR).head? = some false ∧ pkR = List.flatMap TxFlit.payload (ff 0 pkR) ∧ (∀ (f :
     TxFlit), f ∈ ff 0 pkR → f.from_ = some ↑0) ∧ hdR = Head.parse pkR ∧ 0 < pkR.length ∧ rtS.packetStep (↑0) (↑3) pkR = 0 ∧ kindVc hdR.kind =
     some ↑3 ∧ rtS.outputOf false hdR = 1 ∧ 1 < 6 ∧ (rtS.getLink 1).isUp = true) := by
  and_intros <;> first | decide +kernel | rfl
theorem witness_ResendAndUnlock :
    (BitVec.toNat (0 : Coord) = keptS.self ∧ (List.find? (fun x => x.seq == BitVec.toNat (3 : BitVec 16) && x.part == BitVec.toNat (7 : BitVec 16)
     && decide (BitVec.toNat (keptS.time.mt - x.mt) ≤ 1250000)) keptS.net.sent = some kept) ∧ kept.links.Nodup)
    ∧ (BitVec.toNat (0 : Coord) = keptS.self ∧ (∀ (x : SentPacket), x ∈ keptS.net.sent → ¬(x.seq = BitVec.toNat (4 : BitVec 16) ∧ x.part =
     BitVec.toNat (7 : BitVec 16) ∧ BitVec.toNat (keptS.time.mt - x.mt) ≤ 1250000)))
    ∧ (BitVec.toNat (1 : Coord) ≠ (pS [0, 1]).self ∧ (pS [0, 1]).partSlot (BitVec.toNat (8 : BitVec 16)) = none)
    ∧ (BitVec.toNat (1 : Coord) ≠ (pS [0, 1]).self ∧ (pS [0, 1]).partSlot (BitVec.toNat (7 : BitVec 16)) = some 3 ∧ (pS [0, 1]).parentLink ((pS [0,
     1]).getCtx 3).part.origin ((pS [0, 1]).getCtx 3).part.extent (BitVec.toNat (1 : Coord)) (pS [0, 1]).self = some (((pS [0, 1]).parentLink 0 1
     1 0).getD 9))
    ∧ (BitVec.toNat (1 : Coord) ≠ ((pS []).setRg RegName.netTopo [] (0 : Word)).self ∧ ((pS []).setRg RegName.netTopo [] (0 : Word)).partSlot
     (BitVec.toNat (7 : BitVec 16)) = some 3 ∧ ((pS []).setRg RegName.netTopo [] (0 : Word)).parentLink (((pS []).setRg RegName.netTopo [] (0 :
     Word)).getCtx 3).part.origin (((pS []).setRg RegName.netTopo [] (0 : Word)).getCtx 3).part.extent (BitVec.toNat (1 : Coord)) ((pS []).setRg
     RegName.netTopo [] (0 : Word)).self = none)
    ∧ (KMap.get 0 (unl 50 50).net.unlockAt ↑3 ≤ (unl 50 50).mtN)
    ∧ ((unl 50 49).mtN < KMap.get 0 (unl 50 49).net.unlockAt ↑3) := by
  and_intros <;> first | decide +kernel | rfl
theorem witness_FlitReception :
    (InService ((rxS true rx5).getLink ↑2) ∧ ((rxS true rx5).getLink ↑2).sent = [] ∧ ((rxS true rx5).getLink ↑2).goback = [] ∧ ((rxS true
     rx5).getLink ↑2).rxHeld = [] ∧ ((rxS true rx5).getLink ↑2).rxNext ≤ ↑3 ∧ ↑3 < 56 ∧ slotDecode (↑3) bad = none ∧ ((rxS true rx5).getLink
     ↑2).badRun + 1 < 8)
    ∧ ((rxS true rx5).getLink 2 = (rxS true rx5).getLink ↑2 ∧ InService ((rxS true rx5).getLink 2) ∧ ((rxS true rx5).getLink 2).sent = [] ∧ ((rxS
     true rx5).getLink 2).goback = [] ∧ ((rxS true rx5).getLink 2).rxHeld = [] ∧ ((rxS true rx5).getLink 2).rxNext ≤ ↑57 ∧ 56 ≤ ↑57 ∧ ↑57 < 60)
    ∧ ((rxS true rx5).getLink 2 = (rxS true rx5).getLink ↑2 ∧ InService ((rxS true rx5).getLink 2) ∧ ((rxS true rx5).getLink 2).sent = [] ∧ ((rxS
     true rx5).getLink 2).goback = [] ∧ ((rxS true rx5).getLink 2).rxHeld = [] ∧ ((rxS true rx5).getLink 2).rxNext ≤ ↑60 ∧ 60 ≤ ↑60 ∧ slotDecode
     (↑60) bad = none ∧ ((rxS true rx5).getLink 2).badRun + 1 < 8)
    ∧ (w1 = w2.getLink ↑2 ∧ InService w1 ∧ w1.sent = [] ∧ w1.goback = [] ∧ w1.rxHeld = [] ∧ w1.rxNext ≤ ↑3 ∧ ↑3 < 56 ∧ slotDecode (↑3) bad = none ∧
     w1.badRun + 1 < 8)
    ∧ ((rxS true rx5).getLink 2 = (rxS true rx5).getLink ↑2 ∧ InService ((rxS true rx5).getLink 2) ∧ ((rxS true rx5).getLink 2).sent = [] ∧ ((rxS
     true rx5).getLink 2).goback = [] ∧ ((rxS true rx5).getLink 2).rxHeld = [] ∧ ((rxS true rx5).getLink 2).rxNext ≤ ↑3 ∧ ↑3 < 56 ∧ rsDecode (fl 5
     1 0) = some (fl 5 1 0, 0) ∧ 5 = fieldN (leAt (fl 5 1 0) 0 4) 0 12 ∧ fieldN (leAt (fl 5 1 0) 0 4) 26 3 = 1 ∧ 5 = ((rxS true rx5).getLink
     2).rxFn ∧ ((rxS true rx5).getLink 2).missing = [] ∧ ¬↑3 ∈ ((rxS true rx5).getLink 2).rxSeen ∧ KMap.get [] ((rxS true rx5).getLink 2).rxWait
     ↑3 = [] ∧ (rxS true rx5).vc0Ctx ↑2 ↑3 = some 3)
    ∧ ((rxS false rx5).getLink 2 = (rxS false rx5).getLink ↑2 ∧ InService ((rxS false rx5).getLink 2) ∧ ((rxS false rx5).getLink 2).sent = [] ∧
     ((rxS false rx5).getLink 2).goback = [] ∧ ((rxS false rx5).getLink 2).rxHeld = [] ∧ ((rxS false rx5).getLink 2).rxNext ≤ ↑3 ∧ ↑3 < 56 ∧
     rsDecode (fl 5 1 0) = some (fl 5 1 0, 0) ∧ 5 = fieldN (leAt (fl 5 1 0) 0 4) 0 12 ∧ fieldN (leAt (fl 5 1 0) 0 4) 26 3 = 1 ∧ 5 = ((rxS false
     rx5).getLink 2).rxFn ∧ ((rxS false rx5).getLink 2).missing = [] ∧ ¬↑3 ∈ ((rxS false rx5).getLink 2).rxSeen ∧ KMap.get [] ((rxS false
     rx5).getLink 2).rxWait ↑3 = [] ∧ (rxS false rx5).vc0Ctx ↑2 ↑3 = none)
    ∧ ((rxS true rx53).getLink 2 = (rxS true rx53).getLink ↑2 ∧ InService ((rxS true rx53).getLink 2) ∧ ((rxS true rx53).getLink 2).sent = [] ∧
     ((rxS true rx53).getLink 2).goback = [] ∧ ((rxS true rx53).getLink 2).rxHeld = [] ∧ ((rxS true rx53).getLink 2).rxNext ≤ ↑3 ∧ ↑3 < 56 ∧
     rsDecode (fl 5 1 0) = some (fl 5 1 0, 0) ∧ 5 = fieldN (leAt (fl 5 1 0) 0 4) 0 12 ∧ fieldN (leAt (fl 5 1 0) 0 4) 26 3 = 1 ∧ 5 = ((rxS true
     rx53).getLink 2).rxFn ∧ ((rxS true rx53).getLink 2).missing = [] ∧ ↑3 ∈ ((rxS true rx53).getLink 2).rxSeen)
    ∧ ((rxS true rx5).getLink 2 = (rxS true rx5).getLink ↑2 ∧ InService ((rxS true rx5).getLink 2) ∧ ((rxS true rx5).getLink 2).sent = [] ∧ ((rxS
     true rx5).getLink 2).goback = [] ∧ ((rxS true rx5).getLink 2).rxHeld = [] ∧ ((rxS true rx5).getLink 2).rxNext ≤ ↑60 ∧ 60 ≤ ↑60 ∧ rsDecode (fl
     5 3 2) = some (fl 5 3 2, 0) ∧ 5 = fieldN (leAt (fl 5 3 2) 0 4) 0 12 ∧ 2 = fieldN (leAt (fl 5 3 2) 0 4) 24 2 ∧ 3 = fieldN (leAt (fl 5 3 2) 0
     4) 26 3 ∧ 2 ≠ 0 ∧ 3 = 3 ∧ 5 = ((rxS true rx5).getLink 2).rxFn ∧ ((rxS true rx5).getLink 2).missing = [] ∧ ¬↑60 ∈ ((rxS true rx5).getLink
     2).rxSeen ∧ KMap.get [] ((rxS true rx5).getLink 2).rxWait ↑60 = [])
    ∧ ((rxS true rxMiss).getLink 2 = (rxS true rxMiss).getLink ↑2 ∧ InService ((rxS true rxMiss).getLink 2) ∧ ((rxS true rxMiss).getLink 2).sent =
     [] ∧ ((rxS true rxMiss).getLink 2).goback = [] ∧ ((rxS true rxMiss).getLink 2).rxHeld = [] ∧ ((rxS true rxMiss).getLink 2).rxNext ≤ ↑3 ∧ ↑3 <
     56 ∧ rsDecode (fl 4 6 0) = some (fl 4 6 0, 0) ∧ 4 = fieldN (leAt (fl 4 6 0) 0 4) 0 12 ∧ fieldN (leAt (fl 4 6 0) 0 4) 26 3 = 6 ∧ fieldN (leAt
     (fl 4 6 0) 0 4) 24 2 = 0 ∧ ((rxS true rxMiss).getLink 2).missing = [(4, ↑3)] ∧ KMap.get [] ((rxS true rxMiss).getLink 2).rxWait ↑3 = [] ∧
     (rxS true rxMiss).vc0Ctx ↑2 ↑3 = some 3)
    ∧ ((rxS true rx5).getLink 2 = (rxS true rx5).getLink ↑2 ∧ InService ((rxS true rx5).getLink 2) ∧ ((rxS true rx5).getLink 2).sent = [] ∧ ((rxS
     true rx5).getLink 2).goback = [] ∧ ((rxS true rx5).getLink 2).rxHeld = [] ∧ ((rxS true rx5).getLink 2).rxNext ≤ ↑3 ∧ ↑3 < 56 ∧ rsDecode (fl 4
     6 0) = some (fl 4 6 0, 0) ∧ 4 = fieldN (leAt (fl 4 6 0) 0 4) 0 12 ∧ fieldN (leAt (fl 4 6 0) 0 4) 26 3 = 6 ∧ fieldN (leAt (fl 4 6 0) 0 4) 24 2
     = 0 ∧ ¬(4, ↑3) ∈ ((rxS true rx5).getLink 2).missing) := by
  and_intros <;> first | decide +kernel | rfl
theorem witness_ControlFlit :
    (ctlS.getLink 2 = ctlS.getLink ↑2 ∧ InService (ctlS.getLink 2) ∧ (ctlS.getLink 2).sent = [] ∧ (ctlS.getLink 2).goback = [] ∧ (ctlS.getLink
     2).rxNext ≤ 62 ∧ slotDecode 62 bad = none ∧ (ctlS.getLink 2).badRun + 1 < 8)
    ∧ (ctlS.getLink 2 = ctlS.getLink ↑2 ∧ InService (ctlS.getLink 2) ∧ (ctlS.getLink 2).sent = [] ∧ (ctlS.getLink 2).goback = [] ∧ (ctlS.getLink
     2).rxNext ≤ 62 ∧ slotDecode 62 (cfl 6 ctlP) = some (cfl 6 ctlP, 0) ∧ 6 = fieldN (leAt (cfl 6 ctlP) 0 4) 0 12 ∧ ctlP = leAt (cfl 6 ctlP) 4 32
     ∧ fieldN ctlP 142 3 = 0 ∧ fieldN ctlP 193 2 = 0 ∧ 6 % 4 = 2)
    ∧ ((tsS Sync.unsynced).getLink 2 = (tsS Sync.unsynced).getLink ↑2 ∧ InService ((tsS Sync.unsynced).getLink 2) ∧ ((tsS Sync.unsynced).getLink
     2).sent = [] ∧ ((tsS Sync.unsynced).getLink 2).goback = [] ∧ ((tsS Sync.unsynced).getLink 2).rxNext ≤ 62 ∧ slotDecode 62 (cfl 5 tctl) = some
     (cfl 5 tctl, 0) ∧ 5 = fieldN (leAt (cfl 5 tctl) 0 4) 0 12 ∧ tctl = leAt (cfl 5 tctl) 4 32 ∧ fieldN tctl 142 3 = 0 ∧ fieldN tctl 193 2 = 0 ∧ 5
     % 4 = 1 ∧ ((tsS Sync.unsynced).getLink 2).far0 = some (4, 100000, 99000) ∧ (4 + 1) % 4096 = 5 ∧ (List.find? (fun e => e.fst == fieldN tctl
     195 12) ((tsS Sync.unsynced).getLink 2).txTimes = some (4, 90000)) ∧ 90000 = (4, 90000).snd ∧ (tsS Sync.unsynced).time.parent = some ↑2 ∧
     1000 = (signedOf 48 (unsignedOf 48 (↑100000 - ↑90000)) - ↑(fieldN tctl 207 24)).toNat ∧ -25000 = 50 * signedOf 48 (unsignedOf 48 (↑99000 -
     ↑100000)) + 25 * ↑1000 + (tsS Sync.unsynced).effAsym ↑2 ∧ (tsS Sync.unsynced).time.sync = Sync.unsynced)
    ∧ ((tsS Sync.locked).getLink 2 = (tsS Sync.locked).getLink ↑2 ∧ InService ((tsS Sync.locked).getLink 2) ∧ ((tsS Sync.locked).getLink 2).sent =
     [] ∧ ((tsS Sync.locked).getLink 2).goback = [] ∧ ((tsS Sync.locked).getLink 2).rxNext ≤ 62 ∧ slotDecode 62 (cfl 5 tctl) = some (cfl 5 tctl,
     0) ∧ 5 = fieldN (leAt (cfl 5 tctl) 0 4) 0 12 ∧ tctl = leAt (cfl 5 tctl) 4 32 ∧ fieldN tctl 142 3 = 0 ∧ fieldN tctl 193 2 = 0 ∧ 5 % 4 = 1 ∧
     ((tsS Sync.locked).getLink 2).far0 = some (4, 100000, 99000) ∧ (4 + 1) % 4096 = 5 ∧ (List.find? (fun e => e.fst == fieldN tctl 195 12) ((tsS
     Sync.locked).getLink 2).txTimes = some (4, 90000)) ∧ 90000 = (4, 90000).snd ∧ (tsS Sync.locked).time.parent = some ↑2 ∧ 1000 = (signedOf 48
     (unsignedOf 48 (↑100000 - ↑90000)) - ↑(fieldN tctl 207 24)).toNat ∧ -25000 = 50 * signedOf 48 (unsignedOf 48 (↑99000 - ↑100000)) + 25 * ↑1000
     + (tsS Sync.locked).effAsym ↑2 ∧ (tsS Sync.locked).time.sync = Sync.locked ∧ -51200 ≤ -25000 ∧ -25000 ≤ 51200) := by
  and_intros <;> first | decide +kernel | rfl
theorem witness_LinkSending :
    ((snd sndX).getLink 2 = (snd sndX).getLink 2 ∧ ((snd sndX).getLink 2).state = LinkState.up ∧ ((snd sndX).getLink 2).goback = [] ∧ ((snd
     sndX).getLink 2).stalled = false)
    ∧ ((snd sndX).getLink 2 = (snd sndX).getLink ↑2 ∧ ((snd sndX).getLink 2).state = LinkState.up ∧ ((snd sndX).getLink 2).goback = [] ∧ ((snd
     sndX).getLink 2).stalled = false ∧ (snd sndX).linkHolder ↑2 = none)
    ∧ (sndH.getLink 2 = sndH.getLink ↑2 ∧ (sndH.getLink 2).state = LinkState.up ∧ (sndH.getLink 2).goback = [] ∧ (sndH.getLink 2).stalled = false ∧
     sndH.linkHolder ↑2 = some 3 ∧ (∃ j, j ∈ [5] ∧ j < 56 ∧ KMap.get [] (sndH.getLink 2).txPlan j ≠ []))
    ∧ ((tmo []).getLink 2 = (tmo []).getLink ↑2 ∧ ((tmo []).getLink 2).state = LinkState.up ∧ FewRetrains (tmo []) ↑2 ∧ (List.find? (fun g => g.fn
     == fr8.fn) ((tmo []).getLink 2).sent = some fr8) ∧ fr8.fn < 4096 ∧ max 9 ((tmo []).fld RegName.lnkReplayCtl [↑2] 4 8) * rttPs ((tmo
     []).getLink 2) ≤ 8 * 800 * ((tmo []).mtN - fr8.at_) ∧ (∀ (k : Nat), k ∈ sequenced → (tmo []).atLimit (↑2) fr8 k = false))
    ∧ ((tmo [(4, 9)]).getLink 2 = (tmo [(4, 9)]).getLink ↑2 ∧ ((tmo [(4, 9)]).getLink 2).state = LinkState.up ∧ FewRetrains (tmo [(4, 9)]) ↑2 ∧
     (List.find? (fun g => g.fn == w3.fn) ((tmo [(4, 9)]).getLink 2).sent = some w3) ∧ w3.fn < 4096 ∧ max 9 ((tmo [(4, 9)]).fld
     RegName.lnkReplayCtl [↑2] 4 8) * rttPs ((tmo [(4, 9)]).getLink 2) ≤ 8 * 800 * ((tmo [(4, 9)]).mtN - w3.at_) ∧ (∃ k, k ∈ sequenced ∧ (tmo [(4,
     9)]).atLimit (↑2) w3 k = true))
    ∧ (stl.getLink 2 = stl.getLink ↑2 ∧ (stl.getLink 2).stalled = true ∧ (stl.getLink 2).state = LinkState.up ∧ FewRetrains stl ↑2)
    ∧ ((snd sndX).getLink 2 = (snd sndX).getLink ↑2 ∧ ((snd sndX).getLink 2).stalled = false) := by
  and_intros <;> first | decide +kernel | rfl
theorem witness_LinkLife :
    ((lkS LinkState.up id).getLink 2 = (lkS LinkState.up id).getLink ↑2 ∧ ((lkS LinkState.up id).linkHolder ↑2 = none ∧ NoLaunch (lkS LinkState.up
     id)) ∧ ((lkS LinkState.up id).getLink 2).state ≠ LinkState.down)
    ∧ ((lkS LinkState.training id).getLink 2 = (lkS LinkState.training id).getLink ↑2 ∧ ((lkS LinkState.training id).getLink ↑2).isUp = false ∧
     ((lkS LinkState.training id).getLink 2).state = LinkState.training)
    ∧ ((lkS LinkState.up id).getLink 2 = (lkS LinkState.up id).getLink ↑2 ∧ ((lkS LinkState.up id).linkHolder ↑2 = none ∧ NoLaunch (lkS LinkState.up
     id)) ∧ ((lkS LinkState.up id).getLink 2).state ≠ LinkState.training)
    ∧ ((lkS LinkState.retrain id).getLink 2 = (lkS LinkState.retrain id).getLink ↑2 ∧ ((lkS LinkState.retrain id).linkHolder ↑2 = none ∧ NoLaunch
     (lkS LinkState.retrain id)) ∧ ((lkS LinkState.retrain id).getLink 2).state = LinkState.retrain)
    ∧ (atS.getLink 2 = atS.getLink ↑2 ∧ (atS.getLink ↑2).isUp = false ∧ (atS.getLink 2).state = LinkState.down ∧ atS.bit RegName.lnkCtl [↑2] 0 =
     true ∧ atS.bit RegName.lnkCtl [↑2] 1 = true ∧ 125000000 ≤ BitVec.toNat (atS.time.mt - (atS.getLink 2).downAt))
    ∧ ((lkS LinkState.degraded id).getLink 2 = (lkS LinkState.degraded id).getLink ↑2 ∧ ((lkS LinkState.degraded id).linkHolder ↑2 = none ∧ NoLaunch
     (lkS LinkState.degraded id)) ∧ ((lkS LinkState.degraded id).getLink 2).state = LinkState.degraded ∧ FewRetrains (lkS LinkState.degraded id)
     ↑2)
    ∧ ((lkS LinkState.retrain id).getLink 2 = (lkS LinkState.retrain id).getLink ↑2 ∧ ((lkS LinkState.retrain id).linkHolder ↑2 = none ∧ NoLaunch
     (lkS LinkState.retrain id)) ∧ ((lkS LinkState.retrain id).getLink 2).state = LinkState.retrain ∧ ((lkS LinkState.retrain id).getLink 2).leads
     = false)
    ∧ ((lkS LinkState.up id).getLink 2 = (lkS LinkState.up id).getLink ↑2 ∧ ((lkS LinkState.up id).linkHolder ↑2 = none ∧ NoLaunch (lkS LinkState.up
     id)) ∧ (lkS LinkState.up id).absent (srcLnk ↑2) = false ∧ isLocal core0 = true ∧ (lkS LinkState.up id).linkHolder ↑2 = none)
    ∧ (qtS.getLink 2 = qtS.getLink ↑2 ∧ (qtS.linkHolder ↑2 = none ∧ NoLaunch qtS) ∧ (qtS.getLink 2).queuedTrain = true ∧ qtS.linkHolder ↑2 = none)
    ∧ ((holdS id).getLink 2 = (holdS id).getLink ↑2 ∧ ((holdS id).getLink 2).isUp = true)
    ∧ ((lkS LinkState.up id).getLink 2 = (lkS LinkState.up id).getLink ↑2 ∧ ((lkS LinkState.up id).getLink 2).state = LinkState.up ∧ FewRetrains
     (lkS LinkState.up id) ↑2)
    ∧ ((lkS LinkState.up id).getLink 2 = (lkS LinkState.up id).getLink ↑2 ∧ ((lkS LinkState.up id).getLink 2).state = LinkState.up ∧ FewRetrains
     (lkS LinkState.up id) ↑2 ∧ (lkS LinkState.up id).absent (srcLnk ↑2) = false ∧ isLocal core0 = true)
    ∧ (ldS.getLink 2 = ldS.getLink ↑2 ∧ (ldS.getLink 2).state = LinkState.training ∧ (ldS.getLink 2).phase = 0 ∧ ldS.farLeads ↑2 = true)
    ∧ ((lkS LinkState.down id).getLink 2 = (lkS LinkState.down id).getLink ↑2 ∧ (lkS LinkState.down id).absent (srcLnk ↑2) = false ∧ isLocal core0 =
     true ∧ ¬InService ((lkS LinkState.down id).getLink 2))
    ∧ (manyS.getLink 2 = manyS.getLink ↑2 ∧ manyS.absent (srcLnk ↑2) = false ∧ isLocal core0 = true ∧ (manyS.getLink 2).state = LinkState.up ∧
     ¬FewRetrains manyS ↑2 ∧ (manyS.linkHolder ↑2 = none ∧ NoLaunch manyS))
    ∧ ((holdS id).getLink 2 = (holdS id).getLink ↑2 ∧ (holdS id).absent (srcLnk ↑2) = false ∧ isLocal core0 = true ∧ (holdS id).linkHolder ↑2 = some
     3 ∧ false = false)
    ∧ ((holdS id).getLink 2 = (holdS id).getLink ↑2 ∧ (holdS id).absent (srcLnk ↑2) = false ∧ isLocal core0 = true ∧ (holdS id).linkHolder ↑2 = some
     3 ∧ false = false ∧ true = true)
    ∧ ((lkS LinkState.degraded id).getLink 2 = (lkS LinkState.degraded id).getLink ↑2 ∧ (lkS LinkState.degraded id).absent (srcLnk ↑2) = false ∧
     isLocal core0 = true ∧ ((lkS LinkState.degraded id).getLink 2).state = LinkState.degraded)
    ∧ ((lkS LinkState.up id).getLink 2 = (lkS LinkState.up id).getLink 2 ∧ (lkS LinkState.up id).absent (srcLnk 2) = false ∧ isLocal core0 = true ∧
     ((lkS LinkState.up id).getLink 2).state ≠ LinkState.degraded)
    ∧ ((lkS LinkState.up id).getLink 2 = (lkS LinkState.up id).getLink 2 ∧ (lkS LinkState.up id).absent (srcLnk 2) = false ∧ (lkS LinkState.up
     id).bit RegName.lnkCtl [2] 0 = true ∧ BitVec.getLsbD (2 : Word) 0 = false ∧ (lkS LinkState.up id).linkHolder 2 = none ∧ ((lkS LinkState.up
     id).getLink 2).state ≠ LinkState.down ∧ ((lkS LinkState.up id).linkHolder 2 = none ∧ NoLaunch (lkS LinkState.up id)))
    ∧ ((holdS id).getLink 2 = (holdS id).getLink 2 ∧ (holdS id).absent (srcLnk 2) = false ∧ (holdS id).bit RegName.lnkCtl [2] 0 = true ∧
     BitVec.getLsbD (2 : Word) 0 = false ∧ (holdS id).linkHolder 2 = some 3) := by
  and_intros <;> first | decide +kernel | rfl
theorem witness_LinkLanes :
    ((laneS id).getLink 2 = (laneS id).getLink ↑2 ∧ ((laneS id).getLink 2).state = LinkState.up ∧ Mapped ((laneS id).getLink 2) ∧ LanesSound
     (laneS id) ↑2 [])
    ∧ (l5.getLink 2 = l5.getLink 2 ∧ (l5.getLink 2).state = LinkState.up ∧ Mapped (l5.getLink 2) ∧ LanesSound l5 2 [5] ∧ (getLane (l5.getLink 2).rx
     5).role = 0 ∧ (getLane (l5.getLink 2).rx 5).logical < 32 ∧ (l5.getLink 2).half = false ∧ (l5.getLink 2).sreq = none ∧ freeSpare (l5.getLink
     2).rx = some 32 ∧ BitVec.getLsbD (32 : BitVec 32) (getLane (l5.getLink 2).rx 5).logical = true ∧ l5.fld RegName.lnkLaneCtl [2] 0 16 ≤
     (getLane (l5.getLink 2).rx 5).window + 1)
    ∧ (l5.getLink 2 = l5.getLink ↑2 ∧ (l5.getLink 2).state = LinkState.up ∧ Mapped (l5.getLink 2) ∧ LanesSound l5 ↑2 [↑5] ∧ (getLane (l5.getLink
     2).rx ↑5).role = 0 ∧ (getLane (l5.getLink 2).rx ↑5).logical < 32 ∧ (l5.getLink 2).half = false ∧ (l5.getLink 2).sreq = none ∧ freeSpare
     (l5.getLink 2).rx = some 32)
    ∧ (swp.getLink 2 = swp.getLink ↑2 ∧ (swp.getLink 2).state = LinkState.up ∧ Mapped (swp.getLink 2) ∧ (swp.getLink 2).farSat = some (3, 5, 32) ∧
     fnGe (swp.getLink 2).rxFn 3 = true ∧ laneOf (swp.getLink 2).rx 5 = some 5 ∧ 5 ≠ 32 ∧ LanesSound swp ↑2 [5] ∧ 32 < 34)
    ∧ ((lkS LinkState.training id).getLink 2 = (lkS LinkState.training id).getLink ↑2 ∧ (BitVec.ofNat 128 tsq).toNat % 65536 = 63016 ∧ fieldN
     (BitVec.ofNat 128 tsq).toNat 16 3 < 6 ∧ (crc16 65535 (List.take 14 (leBytes 16 (BitVec.ofNat 128 tsq).toNat))).toNat = (BitVec.ofNat 128
     tsq).toNat / 2 ^ 112 ∧ ((lkS LinkState.training id).getLink 2).state = LinkState.training ∧ ((lkS LinkState.training id).getLink 2).phase < 2
     ∧ ((lkS LinkState.training id).getLink 2).farKnown = false)
    ∧ ((lkS LinkState.training id).getLink 2 = (lkS LinkState.training id).getLink ↑2 ∧ (BitVec.ofNat 128 (tsq + 2 ^ 70)).toNat % 65536 = 63016 ∧
     fieldN (BitVec.ofNat 128 (tsq + 2 ^ 70)).toNat 16 3 < 6 ∧ (crc16 65535 (List.take 14 (leBytes 16 (BitVec.ofNat 128 (tsq + 2 ^
     70)).toNat))).toNat ≠ (BitVec.ofNat 128 (tsq + 2 ^ 70)).toNat / 2 ^ 112)
    ∧ (trn.getLink 2 = trn.getLink ↑2 ∧ (trn.getLink 2).state = LinkState.training ∧ (trn.getLink 2).phase = 5 ∧ (trn.getLink 2).txeq = [] ∧ trn.bit
     RegName.lnkCtl [↑2] 3 = false ∧ BitVec.allOnes 34 = BitVec.allOnes 34 ∧ (∀ (q : Nat), q < 34 → (getLane (trn.getLink 2).rx q).role ≠ 2 ∧
     (getLane (trn.getLink 2).tx q).role ≠ 2))
    ∧ (trn.getLink 2 = trn.getLink ↑2 ∧ (trn.getLink 2).state = LinkState.training ∧ (trn.getLink 2).phase = 5 ∧ (trn.getLink 2).txeq = [] ∧ trn.bit
     RegName.lnkCtl [↑2] 3 = false ∧ (goodLanes (trn.getLink 2).rx 255).length < 16)
    ∧ ((lkS LinkState.training id).getLink 2 = (lkS LinkState.training id).getLink ↑2 ∧ ((lkS LinkState.training id).getLink 2).phase ≠ 5)
    ∧ (rtn.getLink 2 = rtn.getLink ↑2 ∧ (rtn.getLink 2).state = LinkState.retrain ∧ Mapped (rtn.getLink 2) ∧ (rtn.getLink 2).half = false ∧
     (rtn.getLink 2).wantFull = false ∧ (rtn.getLink 2).txeq = [] ∧ (∀ (f : SentFrame), f ∈ (rtn.getLink 2).sent → ∀ (w : Wire), w ∈ f.flits →
     w.tile = 576) ∧ 32 ≤ (goodLanes (rtn.getLink 2).rx (BitVec.allOnes 34)).length ∧ 32 ≤ (goodLanes (rtn.getLink 2).tx (BitVec.allOnes
     34)).length ∧ (∀ (q : Nat), q < 34 → (getLane (rtn.getLink 2).rx q).role = 0 → (BitVec.allOnes 34).getLsbD q = true)) := by
  and_intros <;> first | decide +kernel | rfl

end TH

/-! ### Install -/

namespace TI

def insR (l : List (RegName × List Nat × Word)) : State := regs base l
def insS (f : Install → Install) (s : State) : State := { s with ins := f s.ins }
def w1 := insS (fun x => { x with phase := .verifying }) base
def rngR : State := insR [(.insRingBase, [], 0x1000000000), (.insRingSlots, [], 2)]
def w2 := insS (fun x => { x with ring := some 1 }) rngR
def instg : VRegion := { state := .installing, first := 3, nblk := 1, size := 64, want := sha384 (List.replicate 64 0) }
def verf : State := (insS (fun x => { x with phase := .verifying }) base).modVault 1 fun v => { v with mode := .install, regions := [(4, instg), (5, { state := .installed, nblk := 1, size := 1 })], mem := [(5, 1)] }
def chunkB (magic seq type ridx pos off : Nat) (pl : List Byte) : List Byte :=
  let h := leBytes 4 magic ++ leBytes 4 seq ++ leBytes 1 type ++ leBytes 1 ridx ++ leBytes 2 pos ++ leBytes 4 pl.length ++ leBytes 8 off
  h ++ leBytes 4 (crc32c (h ++ pl)).toNat ++ [0, 0, 0, 0] ++ pl
def dch : List Byte := chunkB 0x4B485753 3 0 2 0 65536 [1, 2, 3, 4]
def rslot (own : Byte) : State := { insS (fun x => { x with ring := some 1 }) rngR with mgt := Memory.write (Memory.write (Memory.write [] 0x1000011000 (dch.take 32)) 0x1000012000 (dch.drop 32)) 0x1000011020 [own] }
def front1 : List Byte := leBytes 8 9 ++ leBytes 4 1 ++ leBytes 4 1 ++ List.replicate 48 0 ++ leBytes 8 0 ++ (leBytes 2 0 ++ leBytes 1 2 ++ leBytes 1 1 ++ leBytes 8 64 ++ sha384 (List.replicate 64 0)) ++ [0, 0, 0, 0]
def gReg : InsRegion := { ridx := 2, size := 0x4000000, digest := [], place := some (1, 4), result := 0 }
def actI : Install := { phase := .active, armedFor := 9, session := 9, digest := [1], front := front1, resume := 3, pos := 0, regions := [gReg] }
def act (f : VRegion → VRegion) : State := (insS (fun _ => actI) base).modVault 1 fun v => { v with mode := .install, regions := [(4, f { state := .installing, first := 3, nblk := 1, size := 0x4000000 })] }
def badD : List Byte := dch.set 33 7
def dchN (seq pos : Nat) : List Byte := chunkB 0x4B485753 seq 0 2 pos 65536 [1, 2, 3, 4]
def badM : List Byte := chunkB 0x4B485753 3 0 2 0 65537 [1, 2, 3, 4]
def badX : List Byte := chunkB 0x4B485753 3 0 7 0 65536 [1, 2, 3, 4]
def badY : List Byte := chunkB 0x4B485753 3 0 2 0 0x4000000 [1, 2, 3, 4]
def noW : State := act fun y => { y with state := .failed }
def noPl : State := insS (fun x => { x with regions := [{ gReg with place := none }] }) (act id)
def w3 := { gReg with place := none }
def endc (seq : Nat) : List Byte := chunkB 0x4B485753 seq 2 0 0 0 []
def fullI : State := act fun y => { y with size := 65536, written := [0] }
def hdc (f : List Byte) : List Byte := chunkB 0x4B485753 0 1 0 0 0 f
def armS : State := insS (fun _ => { phase := .armed, armedFor := 9 }) base
def badF : List Byte := front1.set 75 9
def armB : State := insS (fun _ => { phase := .armed, armedFor := 9, front := badF }) base
def vcS (f : Vault → Vault) : State := base.modVault 1 f
def rgS (st : RegionState) : State := vcS fun v => { v with regions := [(4, { state := st, nblk := 1, size := 7 })] }
def tkS : State := vcS fun v => { v with groups := [(0, some { slot := 3, gen := 5 })] }
def w4 := vcS fun v => { v with recalQ := true }
def rcS (d : List Byte) : State := vcS fun v => { v with mode := .recal, regions := [(4, { state := .installed, nblk := 1, size := 40, digest := d })] }
theorem witness_InstallCommands :
    ((insR [(RegName.insSession, [], 9)]).absent srcClo = false ∧ isLocal core0 = true ∧ (insR [(RegName.insSession, [], 9)]).ins.busy = false)
    ∧ (w1.absent srcClo = false ∧ isLocal core0 = true ∧ w1.ins.busy = true)
    ∧ (rngR.absent srcClo = false ∧ isLocal core0 = true ∧ rngR.ins.ring = none ∧ rngR.ringOk = true)
    ∧ (base.absent srcClo = false ∧ isLocal core0 = true ∧ (base.ins.ring = none ∧ base.ringOk = false))
    ∧ (w2.absent srcClo = false ∧ isLocal core0 = true ∧ w2.ins.ring ≠ none ∧ w2.ringOk = true)
    ∧ (verf.absent srcClo = false ∧ isLocal core0 = true)
    ∧ ((rslot 0).ins.ring = some 1 ∧ 68719546368 = BitVec.toNat ((rslot 0).rg RegName.insRingBase) + 69632 * 1 ∧ leNat ((rslot 0).mgt.read
     (68719546368 + 32) 8) ≠ 1)
    ∧ ((rslot 1).ins.ring = some 1 ∧ 68719546368 = BitVec.toNat ((rslot 1).rg RegName.insRingBase) + 69632 * 1 ∧ leNat ((rslot 1).mgt.read
     (68719546368 + 32) 8) = 1) := by
  and_intros <;> first | decide +kernel | rfl
theorem witness_InstallChunks :
    (Chunk.parse badD = Chunk.parse badD ∧ LastInChain (act id) ∧ (act id).ins.phase = InsPhase.active ∧ (act id).ins.foreign = false ∧ (act
     id).ins.stop = 0 ∧ (Chunk.parse badD).ok = false ∧ (Chunk.parse badD).type = 0)
    ∧ (Chunk.parse (dchN 4 0) = Chunk.parse (dchN 4 0) ∧ LastInChain (act id) ∧ (act id).ins.phase = InsPhase.active ∧ (act id).ins.foreign = false
     ∧ (act id).ins.stop = 0 ∧ (Chunk.parse (dchN 4 0)).ok = true ∧ (Chunk.parse (dchN 4 0)).type = 0 ∧ (act id).ins.resume < (Chunk.parse (dchN 4
     0)).seq)
    ∧ (Chunk.parse (dchN 2 0) = Chunk.parse (dchN 2 0) ∧ LastInChain (act id) ∧ (act id).ins.phase = InsPhase.active ∧ (act id).ins.foreign = false
     ∧ (act id).ins.stop = 0 ∧ (Chunk.parse (dchN 2 0)).ok = true ∧ (Chunk.parse (dchN 2 0)).type = 0 ∧ (Chunk.parse (dchN 2 0)).seq < (act
     id).ins.resume)
    ∧ (Chunk.parse (dchN 3 5) = Chunk.parse (dchN 3 5) ∧ LastInChain (act id) ∧ (act id).ins.phase = InsPhase.active ∧ (act id).ins.foreign = false
     ∧ (act id).ins.stop = 0 ∧ (Chunk.parse (dchN 3 5)).ok = true ∧ (Chunk.parse (dchN 3 5)).type = 0 ∧ (Chunk.parse (dchN 3 5)).seq = (act
     id).ins.resume ∧ (Chunk.parse (dchN 3 5)).magic = 1263032147 ∧ (if (Chunk.parse (dchN 3 5)).type = 2 then (Chunk.parse (dchN 3 5)).len = 0 ∧
     (Chunk.parse (dchN 3 5)).offset = 0 else 1 ≤ (Chunk.parse (dchN 3 5)).len ∧ (Chunk.parse (dchN 3 5)).len ≤ 65536 ∧ (Chunk.parse (dchN 3
     5)).offset % 65536 = 0) ∧ (Chunk.parse (dchN 3 5)).pos ≠ (act id).ins.pos)
    ∧ (Chunk.parse badM = Chunk.parse badM ∧ LastInChain (act id) ∧ (act id).ins.phase = InsPhase.active ∧ (act id).ins.foreign = false ∧ (act
     id).ins.stop = 0 ∧ (Chunk.parse badM).ok = true ∧ (Chunk.parse badM).type = 0 ∧ (Chunk.parse badM).seq = (act id).ins.resume ∧ ¬WellMade
     (Chunk.parse badM))
    ∧ (Chunk.parse badX = Chunk.parse badX ∧ LastInChain (act id) ∧ (act id).ins.phase = InsPhase.active ∧ (act id).ins.foreign = false ∧ (act
     id).ins.stop = 0 ∧ (Chunk.parse badX).ok = true ∧ (Chunk.parse badX).type = 0 ∧ (Chunk.parse badX).seq = (act id).ins.resume ∧ (Chunk.parse
     badX).pos = (act id).ins.pos ∧ (∀ (g : InsRegion), g ∈ (act id).ins.regions → g.ridx ≠ (Chunk.parse badX).ridx))
    ∧ (Chunk.parse badY = Chunk.parse badY ∧ LastInChain (act id) ∧ (act id).ins.phase = InsPhase.active ∧ (act id).ins.foreign = false ∧ (act
     id).ins.stop = 0 ∧ (Chunk.parse badY).ok = true ∧ (Chunk.parse badY).type = 0 ∧ (Chunk.parse badY).seq = (act id).ins.resume ∧ (Chunk.parse
     badY).pos = (act id).ins.pos ∧ (List.find? (fun g => g.ridx == (Chunk.parse badY).ridx) (act id).ins.regions = some gReg) ∧ gReg.size <
     (Chunk.parse badY).offset + (Chunk.parse badY).len)
    ∧ (Chunk.parse dch = Chunk.parse dch ∧ LastInChain noW ∧ noW.ins.phase = InsPhase.active ∧ noW.ins.foreign = false ∧ noW.ins.stop = 0 ∧
     (Chunk.parse dch).ok = true ∧ (Chunk.parse dch).type = 0 ∧ (Chunk.parse dch).seq = noW.ins.resume ∧ (Chunk.parse dch).pos = noW.ins.pos ∧
     (List.find? (fun g => g.ridx == (Chunk.parse dch).ridx) noW.ins.regions = some gReg) ∧ gReg.place = some (1, 4) ∧ (noW.getRegion 1 4).state ≠
     RegionState.installing)
    ∧ (Chunk.parse dch = Chunk.parse dch ∧ LastInChain noPl ∧ noPl.ins.phase = InsPhase.active ∧ noPl.ins.foreign = false ∧ noPl.ins.stop = 0 ∧
     (Chunk.parse dch).ok = true ∧ (Chunk.parse dch).type = 0 ∧ (Chunk.parse dch).seq = noPl.ins.resume ∧ (Chunk.parse dch).magic = 1263032147 ∧
     (if (Chunk.parse dch).type = 2 then (Chunk.parse dch).len = 0 ∧ (Chunk.parse dch).offset = 0 else 1 ≤ (Chunk.parse dch).len ∧ (Chunk.parse
     dch).len ≤ 65536 ∧ (Chunk.parse dch).offset % 65536 = 0) ∧ (Chunk.parse dch).pos = noPl.ins.pos ∧ (List.find? (fun g => g.ridx ==
     (Chunk.parse dch).ridx) noPl.ins.regions = some w3) ∧ (Chunk.parse dch).offset + (Chunk.parse dch).len ≤ w3.size ∧ w3.place = none)
    ∧ (Chunk.parse dch = Chunk.parse dch ∧ LastInChain (act id) ∧ (act id).ins.phase = InsPhase.active ∧ (act id).ins.foreign = false ∧ (act
     id).ins.stop = 0 ∧ (Chunk.parse dch).ok = true ∧ (Chunk.parse dch).type = 0 ∧ (Chunk.parse dch).seq = (act id).ins.resume ∧ (Chunk.parse
     dch).pos = (act id).ins.pos ∧ (List.find? (fun g => g.ridx == (Chunk.parse dch).ridx) (act id).ins.regions = some gReg) ∧ (Chunk.parse
     dch).magic = 1263032147 ∧ (if (Chunk.parse dch).type = 2 then (Chunk.parse dch).len = 0 ∧ (Chunk.parse dch).offset = 0 else 1 ≤ (Chunk.parse
     dch).len ∧ (Chunk.parse dch).len ≤ 65536 ∧ (Chunk.parse dch).offset % 65536 = 0) ∧ (Chunk.parse dch).offset + (Chunk.parse dch).len ≤
     gReg.size ∧ gReg.place = some (1, 4) ∧ { state := RegionState.installing, first := 3, nblk := 1, size := 67108864 : VRegion } = (act
     id).getRegion 1 4 ∧ { state := RegionState.installing, first := 3, nblk := 1, size := 67108864 : VRegion }.state = RegionState.installing ∧
     ((act id).getVault 1).mode = VaultMode.install ∧ 3 =
     { state := RegionState.installing, first := 3, nblk := 1, size := 67108864 : VRegion }.first + (Chunk.parse dch).offset / 67108864 ∧ KMap.get
     0 ((act id).getVault 1).installs 3 + 1 ≠ 9500)
    ∧ (Chunk.parse (endc 4) = Chunk.parse (endc 4) ∧ LastInChain (act id) ∧ (act id).ins.phase = InsPhase.active ∧ (act id).ins.foreign = false ∧
     (act id).ins.stop = 0 ∧ (Chunk.parse (endc 4)).ok = true ∧ (Chunk.parse (endc 4)).type = 2 ∧ (Chunk.parse (endc 4)).magic = 1263032147 ∧ (if
     (Chunk.parse (endc 4)).type = 2 then (Chunk.parse (endc 4)).len = 0 ∧ (Chunk.parse (endc 4)).offset = 0 else 1 ≤ (Chunk.parse (endc 4)).len ∧
     (Chunk.parse (endc 4)).len ≤ 65536 ∧ (Chunk.parse (endc 4)).offset % 65536 = 0) ∧ (act id).ins.resume < (Chunk.parse (endc 4)).seq)
    ∧ (Chunk.parse (endc 3) = Chunk.parse (endc 3) ∧ LastInChain fullI ∧ fullI.ins.phase = InsPhase.active ∧ fullI.ins.foreign = false ∧
     fullI.ins.stop = 0 ∧ (Chunk.parse (endc 3)).ok = true ∧ (Chunk.parse (endc 3)).type = 2 ∧ (Chunk.parse (endc 3)).magic = 1263032147 ∧ (if
     (Chunk.parse (endc 3)).type = 2 then (Chunk.parse (endc 3)).len = 0 ∧ (Chunk.parse (endc 3)).offset = 0 else 1 ≤ (Chunk.parse (endc 3)).len ∧
     (Chunk.parse (endc 3)).len ≤ 65536 ∧ (Chunk.parse (endc 3)).offset % 65536 = 0) ∧ (Chunk.parse (endc 3)).seq = fullI.ins.resume ∧ (∀ (g :
     InsRegion), g ∈ fullI.ins.regions → ∀ (q : Nat × Nat), q ∈ g.place → (fullI.getRegion q.fst q.snd).state = RegionState.installing → ∀ (i :
     Nat), i < ceilDiv (fullI.getRegion q.fst q.snd).size 65536 → i ∈ (fullI.getRegion q.fst q.snd).written) ∧ ((fullI.ins.regions.any fun g =>
     Option.any (fun q => (fullI.getRegion q.fst q.snd).state == RegionState.installing) g.place) = true))
    ∧ (Chunk.parse (hdc front1) = Chunk.parse (hdc front1) ∧ (Chunk.parse (hdc front1)).ok = true ∧ (Chunk.parse (hdc front1)).type = 1 ∧
     (Chunk.parse (hdc front1)).magic = 1263032147 ∧ (if (Chunk.parse (hdc front1)).type = 2 then (Chunk.parse (hdc front1)).len = 0 ∧
     (Chunk.parse (hdc front1)).offset = 0 else 1 ≤ (Chunk.parse (hdc front1)).len ∧ (Chunk.parse (hdc front1)).len ≤ 65536 ∧ (Chunk.parse (hdc
     front1)).offset % 65536 = 0) ∧ (Chunk.parse (hdc front1)).seq = 0 ∧ (Chunk.parse (hdc front1)).offset = 0 ∧ armS.ins.phase = InsPhase.armed ∧
     armS.ins.held = [] ∧ leAt (Chunk.parse (hdc front1)).payload 0 8 = BitVec.toNat armS.ins.armedFor ∧ armS.headerOk (Chunk.parse (hdc
     front1)).payload = true ∧ armS.ins.session ≠ armS.ins.armedFor ∧ chainOf (Chunk.parse (hdc front1)).payload = some [0] ∧ (List.findIdx? (fun
     x => x == armS.self) [0] = some 0) ∧ [0].length ≤ 0 + 1 ∧ (∀ (u : Nat), u < 4 → (armS.getVault u).mode ≠ VaultMode.install ∧ ∀ (q : Nat ×
     VRegion), q ∈ (armS.getVault u).regions → q.snd.state ≠ RegionState.installing ∧ q.snd ≠ { : VRegion }) ∧ (List.filter (fun q => q.fst == 0)
     (regionEntries (Chunk.parse (hdc front1)).payload) = [(0, 2, 1, 64, sha384 (List.replicate 64 (0 : Byte)))]) ∧ (0, 2, 1, 64, sha384
     (List.replicate 64 (0 : Byte))).snd.snd.fst = 1 ∧ 1 < 4 ∧ 1 = ceilDiv (0, 2, 1, 64, sha384 (List.replicate 64 (0 : Byte))).snd.snd.snd.fst
     67108864 ∧ armS.refusal 1 1 = 0 ∧ (armS.getVault 1).spot 1 = some (0, 0))
    ∧ (Chunk.parse (hdc badF) = Chunk.parse (hdc badF) ∧ (Chunk.parse (hdc badF)).ok = true ∧ (Chunk.parse (hdc badF)).type = 1 ∧ (Chunk.parse (hdc
     badF)).seq = 0 ∧ (Chunk.parse (hdc badF)).offset = 0 ∧ armB.ins.phase = InsPhase.armed ∧ LastInChain armB ∧ chainOf (Chunk.parse (hdc
     badF)).payload = chainOf armB.ins.front ∧ leAt (Chunk.parse (hdc badF)).payload 0 8 = BitVec.toNat armB.ins.armedFor ∧ 16 ≤ (Chunk.parse (hdc
     badF)).payload.length ∧ headerLen (Chunk.parse (hdc badF)).payload ≤ (Chunk.parse (hdc badF)).payload.length ∧ armB.headerOk (Chunk.parse
     (hdc badF)).payload = false)
    ∧ (Chunk.parse [] = Chunk.parse [] ∧ instg = verf.getRegion ↑1 ↑4 ∧ verf.ins.phase = InsPhase.verifying ∧ instg.state = RegionState.installing ∧
     sha384 (List.replicate 64 0) = sha384 ((verf.getVault ↑1).mem.read (instg.first * 67108864) instg.size)) := by
  and_intros <;> first | decide +kernel | rfl
theorem witness_VaultCommands :
    ((rgS RegionState.failed).absent (srcVlt ↑1) = false ∧ isLocal core0 = true ∧ ((rgS RegionState.failed).getRegion ↑1 ↑4).state =
     RegionState.failed)
    ∧ (base.absent (srcVlt ↑1) = false ∧ isLocal core0 = true ∧ ((base.getRegion ↑1 ↑4).state = RegionState.free ∧ 6 = 6))
    ∧ ((rgS RegionState.bound).absent (srcVlt ↑1) = false ∧ isLocal core0 = true ∧ ((((rgS RegionState.bound).getRegion ↑1 ↑4).state =
     RegionState.bound ∨ ((rgS RegionState.bound).getRegion ↑1 ↑4).state = RegionState.installing) ∧ 1 = 1))
    ∧ (base.absent (srcVlt ↑1) = false ∧ isLocal core0 = true ∧ base.vaultIdle ↑1 = true ∧ base.vaultClosed ↑1 = false)
    ∧ (tkS.absent (srcVlt ↑1) = false ∧ isLocal core0 = true ∧ tkS.vaultIdle ↑1 = false ∧ tkS.vaultClosed ↑1 = false ∧ true = true)
    ∧ (tkS.absent (srcVlt ↑1) = false ∧ isLocal core0 = true ∧ tkS.vaultIdle ↑1 = false ∧ tkS.vaultClosed ↑1 = false ∧ false = false)
    ∧ ((w4.getVault ↑1).recalQ = true ∧ w4.vaultIdle ↑1 = true ∧ (w4.getVault ↑1).mode = VaultMode.service)
    ∧ ((rcS (sha384 (List.replicate 40 0))).getRegion 1 4 = (rcS (sha384 (List.replicate 40 0))).getRegion ↑1 ↑4 ∧ ((rcS (sha384 (List.replicate 40
     0))).getVault ↑1).mode = VaultMode.recal)
    ∧ ((rcS []).getRegion 1 4 = (rcS []).getRegion ↑1 ↑4 ∧ ((rcS []).getVault ↑1).mode = VaultMode.recal) := by
  and_intros <;> first | decide +kernel | rfl

end TI

/-! ### Serving -/

namespace TJ

def srvIm : Image := { runIm with serving := true, vocab := 1000, minQuota := 8, variants := [(0, 1), (0, 2)], segs := [{ base := 0x200000, size := 0x200000, tier := 0, write := true, window := true }] }
def srvC : Ctx := { runCtx with image := some srvIm, quota := 8 }
def withMem (m : Memory) (s : State) : State := { s with hbm := [(0, { phase := .ready, mem := m, frames := [(9, {})] })] }
def srvS (m : Memory) (c : Ctx) (args : List (RegName × List Nat × Word)) : State := withMem m (regs (withCtx c) args)
def pblk : List Byte := List.replicate 32 0 ++ leBytes 4 0 ++ leBytes 2 1 ++ leBytes 2 0 ++ leBytes 4 65536 ++ leBytes 4 65536 ++ List.replicate 8 0 ++ leBytes 2 0 ++ [0, 0] ++ leBytes 4 10
def off9 : Nat := 9 * 0x200000
def waitS0 : State := { srvS [] srvC [] with srvWait := some { slot := 3, id := 1, set := none } }
def cmds (acc : Accessor) : List Instr := [.openReq acc {}, .admitReq acc {}, .cancel acc, .closeReq acc, .endPlan acc, .tailorBind acc {}, .tailorUnbind acc]
def arg0 (n : Nat) : List (RegName × List Nat × Word) := [(.srvArg0, [], Word.ofNat n)]
def openS : State := srvS (Memory.write [] (off9 + 0x100) pblk) srvC (arg0 163 ++ [(.srvArg1, [], 0x200100), (.srvArg2, [], Word.ofNat (2 ^ 32 * 6 + 5)), (.srvArg3, [], 9)])
def openS1 : State := (engineRead openS 3 0x200100 64 {}).2
def badW (a : Nat) : Findings := { syms := [(a, 2)] }
def endS : State := srvS [] srvC (arg0 163 ++ [(.srvCtxEndvar, [3], 1)])
def tbS : State := srvS [] { srvC with pt := [] } (arg0 (163 + 65536 * 7) ++ [(.srvArg1, [], 0x200000)])
theorem leNat_zeros (n : Nat) : leNat (List.replicate n (0 : Byte)) = 0 := by induction n <;> simp_all [List.replicate_succ, leNat]
theorem witness_ServingCommands_tailorTable : tbS.setOk 3 0x200000 = true := by
  have h : tbS.ctxRead 3 0x200000 4096 = List.replicate 4096 0 := by decide +kernel
  have z : ∀ a n, leAt (List.replicate 4096 (0 : Byte)) a n = 0 := by 
    intro a n
    show leNat (((List.replicate 4096 (0 : Byte)).drop a).take n) = 0
    rw [List.drop_replicate, List.take_replicate]
    exact leNat_zeros _
  have g : (tbS.segOf 3 0x200000 4096).isSome = true := by decide +kernel
  have e : ∀ i, tbS.entryOk 3 0x200000 (leAt (List.replicate 4096 (0 : Byte)) (16 * i) 8) (leAt (List.replicate 4096 (0 : Byte)) (16 * i + 8) 4) (leAt (List.replicate 4096 (0 : Byte)) (16 * i + 12) 4) = true := by
    intro i; rw [z, z, z]; rfl
  simp only [State.setOk, h, g, Bool.true_and, List.all_eq_true]
  exact fun i _ => e i
def tbP : State := srvS [] srvC (arg0 (163 + 65536 * 7) ++ [(.srvArg1, [], 0x200000)])
def tbC : Ctx := { srvC with serve := { tailors := [(7, some { base := 0x200000, extent := 4096 })] } }
def tuS : State := srvS [] tbC (arg0 (163 + 65536 * 7))
def req1 (st : RecState) : Req := { state := st, ctx := { slot := 3, gen := 5 }, handle := 16385, params := { noParams with topk := 1, maxNew := 10 } }
def reqS (r : Req) (m : Memory) (args : List (RegName × List Nat × Word)) : State := { srvS m srvC (arg0 16385 ++ args) with req := [(1, r)] }
def prompt : List Byte := leBytes 8 2 ++ leBytes 4 2 ++ List.replicate 52 0 ++ leBytes 4 5 ++ leBytes 4 6
def admS : State := reqS (req1 .idle) (Memory.write [] (off9 + 0x1000) prompt) [(.srvArg1, [], 0x201000), (.srvArg2, [], 0x202000), (.srvArg3, [], 4)]
def rs (r : Req) : State := reqS r [] []
def w1 := rs { req1 .idle with lastEnd := 1 }
def w2 := { req1 .idle with lastEnd := 1 }
def rdyR : Req := { req1 .ready with slotVa := 0x201000, ringVa := 0x202000, ringN := 4 }
def vE (v vr pr pc d : Nat) : VEntry := { var := v, vrows := vr, prows := pr, pchunk := pc, depth := d }
def manyReq (n : Nat) : State := { srvS [] srvC [] with req := (List.range n).map fun i => (i, { req1 (if i % 3 = 0 then .prefill else .decode) with handle := i + 16384, promptN := 7 * i, params := { noParams with draftLen := i % 7, maxNew := 20 } }) }
def fpC : Ctx := { srvC with serve := { next := 2, begun := 1 } }
def fpS (v : Bool) : State := srvS [] fpC (if v then [(.srvCtxVtab, [3, 0], Word.ofNat (2 ^ 63 + 1 + 2 ^ 8 * 4 + 2 ^ 20 * 2 + 2 ^ 28 * 8))] else [])
def foC : Ctx := { srvC with image := some { srvIm with isLead := false }, part := { state := .committed, part := 7, gen := 2, ctxGen := 5 } }
def foS : State := srvS [] foC []
def msg : StepMsg := { step := 4, variant := 1, rows := [], params := [], releases := [] }
def w3 := { srvIm with isLead := false }
def foS2 : State := srvS [] { foC with serve := { tables := [msg] } } []
def slotB (own step cnt : Nat) (row : List Byte) : Memory := Memory.write [] off9 (leBytes 8 own ++ leBytes 8 step ++ leBytes 4 cnt ++ List.replicate 44 0 ++ row)
def resS (own step : Nat) (row : List Byte) : State :=
  { srvS (slotB own step 1 row) { srvC with serve := { expect := 6, next := 8, begun := 6 } } [(.srvCtxRring, [3], 0x200000), (.srvCtxRrcfg, [3], 2)] with
    req := [(1, { req1 .decode with ringVa := 0x202000, ringN := 4, frozen := [6], formed := true })] }
def rd1 (s : State) (f : Findings) : State := (engineRead s 3 0x200000 64 f).2
def rd2 (s : State) (f : Findings) : State := (engineRead (rd1 s f) 3 0x200040 16 f).2
def rowB : List Byte := leBytes 4 77 ++ leBytes 4 3 ++ leBytes 4 16385 ++ leBytes 4 0
def rowE : List Byte := leBytes 4 77 ++ leBytes 4 (1 + 2 + 4 * 2) ++ leBytes 4 16385 ++ leBytes 4 0
def dlv : Delivery := { first := true, admitMt := 0, tokidx := 0, tokens := [5] }
def heldR : Req := { req1 .decode with ringVa := 0x202000, ringN := 4, held := [dlv] }
def heldS (own : Nat) : State := { srvS (Memory.write [] (off9 + 0x2000) (leBytes 8 own)) srvC [] with req := [(1, heldR)] }
theorem witness_ServingCommands :
    (core0 = Accessor.mgt 0 ∧ (srvS [] srvC []).absent srcSrv = false ∧ (srvS [] srvC []).srvWait = none ∧ (srvS [] srvC []).live (srvS [] srvC
     []).srvId = false ∧ Instr.endPlan core0 = Instr.endPlan core0)
    ∧ (core0 = Accessor.mgt 0 ∧ (srvS [] srvC []).absent srcSrv = false ∧ (srvS [] srvC []).srvWait = none ∧ (srvS [] srvC []).reqOf (srvS [] srvC
     []).srvHandle = none ∧ Instr.cancel core0 = Instr.cancel core0)
    ∧ (Accessor.mgt (2 : Fin 8) = Accessor.mgt (2 : Fin 8) ∧ (srvS [] srvC (arg0 163)).absent srcSrv = false ∧ (srvS [] srvC (arg0 163)).srvWait =
     none ∧ (srvS [] srvC (arg0 163)).live (srvS [] srvC (arg0 163)).srvId = true ∧ (srvS [] srvC (arg0 163)).owns (Accessor.mgt (2 : Fin 8))
     (srvS [] srvC (arg0 163)).srvId.slot = false ∧ Instr.tailorBind (Accessor.mgt (2 : Fin 8)) { : Findings } = Instr.tailorBind (Accessor.mgt (2
     : Fin 8)) { : Findings })
    ∧ (core0 = Accessor.mgt 0 ∧ openS.absent srcSrv = false ∧ openS.srvWait = none ∧ openS.live openS.srvId = true ∧ 3 = openS.srvId.slot ∧
     openS.owns core0 3 = true ∧ openS.jrnMode 3 = 0 ∧ (openS.getCtx 3).leads = true ∧ (openS.segOf 3 (BitVec.toNat (openS.rg RegName.srvArg1))
     64).isSome = true ∧ engineRead openS 3 (BitVec.toNat (openS.rg RegName.srvArg1)) 64 (badW 2097408) = (true, (engineRead openS 3 2097408 64
     (badW 2097408)).snd))
    ∧ (core0 = Accessor.mgt (0 : Fin 8) ∧ openS.absent srcSrv = false ∧ openS.srvWait = none ∧ openS.live openS.srvId = true ∧ 3 = openS.srvId.slot
     ∧ openS.owns core0 3 = true ∧ openS.jrnMode 3 = 0 ∧ (openS.getCtx 3).leads = true ∧ (openS.segOf 3 (BitVec.toNat (openS.rg RegName.srvArg1))
     64).isSome = true ∧ Delivers openS 3 (BitVec.toNat (openS.rg RegName.srvArg1)) 64 { : Findings } openS1 ∧ pblk = openS1.ctxRead 3
     (BitVec.toNat (openS1.rg RegName.srvArg1)) 64 ∧ openS1.rg RegName.srvArg1 = openS.rg RegName.srvArg1 ∧ paramsOk pblk = true ∧ openS1.freeRec
     = some 0 ∧ openS.freeRec = some 0 ∧ openS.reqsUsed < 16384 ∧ (openS.reqsOf 3).length < (openS.getCtx 3).quota ∧ (openS.getCtx 3).image = some
     srvIm ∧ (openS.leadReqs 3).length < srvIm.minQuota ∧ (openS.getCtx 3).closed = false ∧ (openS.getCtx 3).away = false)
    ∧ (core0 = Accessor.mgt 0 ∧ endS.absent srcSrv = false ∧ endS.srvWait = none ∧ endS.live endS.srvId = true ∧ 3 = endS.srvId.slot ∧ endS.owns
     core0 3 = true ∧ endS.jrnMode 3 = 0 ∧ (endS.getCtx 3).leads = true ∧ (endS.getCtx 3).image = some srvIm ∧ srvIm.variants[endS.fld
     RegName.srvCtxEndvar [3] 0 8]? = some (0, 2) ∧ (endS.getCtx 3).away = false)
    ∧ (core0 = Accessor.mgt (0 : Fin 8) ∧ tbS.absent srcSrv = false ∧ tbS.srvWait = none ∧ tbS.live tbS.srvId = true ∧ 3 = tbS.srvId.slot ∧ tbS.owns
     core0 3 = true ∧ tbS.jrnMode 3 = 0 ∧ 7 = tbS.fld RegName.srvArg0 [] 16 16 ∧ 7 ≠ 0 ∧ 2097152 = BitVec.toNat (tbS.rg RegName.srvArg1) ∧
     (tbS.segOf 3 2097152 4096).isSome = true ∧ Delivers tbS 3 2097152 4096 { : Findings } tbS ∧ List.length (tbS.getCtx 3).serve.tailors < 4096)
    ∧ (core0 = Accessor.mgt 0 ∧ tbP.absent srcSrv = false ∧ tbP.srvWait = none ∧ tbP.live tbP.srvId = true ∧ 3 = tbP.srvId.slot ∧ tbP.owns core0 3 =
     true ∧ tbP.jrnMode 3 = 0 ∧ 7 = tbP.fld RegName.srvArg0 [] 16 16 ∧ 7 ≠ 0 ∧ 2097152 = BitVec.toNat (tbP.rg RegName.srvArg1) ∧ (tbP.segOf 3
     2097152 4096).isSome = true ∧ engineRead tbP 3 2097152 4096 (badW 2097152) = (true, (engineRead tbP 3 2097152 4096 (badW 2097152)).snd))
    ∧ (core0 = Accessor.mgt 0 ∧ tuS.absent srcSrv = false ∧ tuS.srvWait = none ∧ tuS.live tuS.srvId = true ∧ 3 = tuS.srvId.slot ∧ tuS.owns core0 3 =
     true ∧ tuS.jrnMode 3 = 0 ∧ 7 = tuS.fld RegName.srvArg0 [] 16 16 ∧ KMap.get none (tuS.getCtx 3).serve.tailors 7 ≠ none)
    ∧ (core0 = Accessor.mgt 0 ∧ tbS.absent srcSrv = false ∧ tbS.srvWait = none ∧ tbS.live tbS.srvId = true ∧ 3 = tbS.srvId.slot ∧ tbS.owns core0 3 =
     true ∧ tbS.jrnMode 3 = 0 ∧ KMap.get none (tbS.getCtx 3).serve.tailors (tbS.fld RegName.srvArg0 [] 16 16) = none)
    ∧ (core0 = Accessor.mgt 0 ∧ admS.absent srcSrv = false ∧ admS.srvWait = none ∧ admS.reqOf admS.srvHandle = some 1 ∧ req1 RecState.idle =
     admS.getReq 1 ∧ admS.owns core0 (req1 RecState.idle).ctx.slot = true ∧ (admS.getCtx (req1 RecState.idle).ctx.slot).away = false ∧
     admS.jrnMode (req1 RecState.idle).ctx.slot = 0 ∧ 2101248 = BitVec.toNat (admS.rg RegName.srvArg1) ∧ 72 = 64 + 4 * (admS.promptOf (req1
     RecState.idle).ctx.slot 2101248).getD 0 ∧ admS.inWindow (req1 RecState.idle).ctx.slot 2101248 64 = true ∧ 2 ≤ admS.fld RegName.srvArg3 [] 0
     11 ∧ admS.fld RegName.srvArg3 [] 0 11 ≤ 1024 ∧ admS.inWindow (req1 RecState.idle).ctx.slot (BitVec.toNat (admS.rg RegName.srvArg2)) (128 *
     admS.fld RegName.srvArg3 [] 0 11) = true ∧ engineRead admS (req1 RecState.idle).ctx.slot 2101248 72 (badW 2101248) = (true, (engineRead admS
     3 2101248 72 (badW 2101248)).snd))
    ∧ (core0 = Accessor.mgt (0 : Fin 8) ∧ admS.absent srcSrv = false ∧ admS.srvWait = none ∧ admS.reqOf admS.srvHandle = some 1 ∧ req1 RecState.idle
     = admS.getReq 1 ∧ admS.owns core0 (req1 RecState.idle).ctx.slot = true ∧ (admS.getCtx (req1 RecState.idle).ctx.slot).away = false ∧
     admS.jrnMode (req1 RecState.idle).ctx.slot = 0 ∧ 2101248 = BitVec.toNat (admS.rg RegName.srvArg1) ∧ 72 = 64 + 4 * (admS.promptOf (req1
     RecState.idle).ctx.slot 2101248).getD 0 ∧ admS.inWindow (req1 RecState.idle).ctx.slot 2101248 64 = true ∧ 2 ≤ admS.fld RegName.srvArg3 [] 0
     11 ∧ admS.fld RegName.srvArg3 [] 0 11 ≤ 1024 ∧ admS.inWindow (req1 RecState.idle).ctx.slot (BitVec.toNat (admS.rg RegName.srvArg2)) (128 *
     admS.fld RegName.srvArg3 [] 0 11) = true ∧ Delivers admS (req1 RecState.idle).ctx.slot 2101248 72 { : Findings } (engineRead admS 3 2101248
     72 { : Findings }).snd ∧ (engineRead admS 3 2101248 72 { : Findings }).snd.promptOf (req1 RecState.idle).ctx.slot 2101248 = some 2 ∧
     (engineRead admS 3 2101248 72 { : Findings }).snd.getReq 1 = req1 RecState.idle ∧ (req1 RecState.idle).state = RecState.idle ∧ ((engineRead
     admS 3 2101248 72 { : Findings }).snd.getCtx (req1 RecState.idle).ctx.slot).closed = false)
    ∧ (core0 = Accessor.mgt 0 ∧ (rs (req1 RecState.decode)).absent srcSrv = false ∧ (rs (req1 RecState.decode)).srvWait = none ∧ (rs (req1
     RecState.decode)).reqOf (rs (req1 RecState.decode)).srvHandle = some 1 ∧ req1 RecState.decode = (rs (req1 RecState.decode)).getReq 1 ∧ (rs
     (req1 RecState.decode)).owns core0 (req1 RecState.decode).ctx.slot = true ∧ ((rs (req1 RecState.decode)).getCtx (req1
     RecState.decode).ctx.slot).away = false ∧ (rs (req1 RecState.decode)).jrnMode (req1 RecState.decode).ctx.slot = 0 ∧ (req1
     RecState.decode).state = RecState.decode)
    ∧ (core0 = Accessor.mgt 0 ∧ w1.absent srcSrv = false ∧ w1.srvWait = none ∧ w1.reqOf w1.srvHandle = some 1 ∧ w2 = w1.getReq 1 ∧ w1.owns core0
     w2.ctx.slot = true ∧ (w1.getCtx w2.ctx.slot).away = false ∧ w1.jrnMode w2.ctx.slot = 0 ∧ w2.state = RecState.idle ∧ w2.lastEnd = 1)
    ∧ (core0 = Accessor.mgt 0 ∧ (rs (req1 RecState.idle)).absent srcSrv = false ∧ (rs (req1 RecState.idle)).srvWait = none ∧ (rs (req1
     RecState.idle)).reqOf (rs (req1 RecState.idle)).srvHandle = some 1 ∧ req1 RecState.idle = (rs (req1 RecState.idle)).getReq 1 ∧ (rs (req1
     RecState.idle)).owns core0 (req1 RecState.idle).ctx.slot = true ∧ ((rs (req1 RecState.idle)).getCtx (req1 RecState.idle).ctx.slot).away =
     false ∧ (rs (req1 RecState.idle)).jrnMode (req1 RecState.idle).ctx.slot = 0 ∧ (req1 RecState.idle).state = RecState.idle ∧ (req1
     RecState.idle).lastEnd ≠ 1 ∧ (req1 RecState.idle).lastEnd ≠ 2)
    ∧ (core0 = Accessor.mgt 0 ∧ (rs rdyR).absent srcSrv = false ∧ (rs rdyR).srvWait = none ∧ (rs rdyR).reqOf (rs rdyR).srvHandle = some 1 ∧ rdyR =
     (rs rdyR).getReq 1 ∧ (rs rdyR).owns core0 rdyR.ctx.slot = true ∧ ((rs rdyR).getCtx rdyR.ctx.slot).away = false ∧ (rs rdyR).jrnMode
     rdyR.ctx.slot = 0 ∧ rdyR.state = RecState.ready)
    ∧ (core0 = Accessor.mgt 0 ∧ (rs (req1 RecState.idle)).absent srcSrv = false ∧ (rs (req1 RecState.idle)).srvWait = none ∧ (rs (req1
     RecState.idle)).reqOf (rs (req1 RecState.idle)).srvHandle = some 1 ∧ req1 RecState.idle = (rs (req1 RecState.idle)).getReq 1 ∧ (rs (req1
     RecState.idle)).owns core0 (req1 RecState.idle).ctx.slot = true ∧ ((rs (req1 RecState.idle)).getCtx (req1 RecState.idle).ctx.slot).away =
     false ∧ (rs (req1 RecState.idle)).jrnMode (req1 RecState.idle).ctx.slot = 0 ∧ (req1 RecState.idle).state = RecState.idle)
    ∧ (core0 = Accessor.mgt 0 ∧ (rs (req1 RecState.decode)).absent srcSrv = false ∧ (rs (req1 RecState.decode)).srvWait = none ∧ (rs (req1
     RecState.decode)).reqOf (rs (req1 RecState.decode)).srvHandle = some 1 ∧ req1 RecState.decode = (rs (req1 RecState.decode)).getReq 1 ∧ (rs
     (req1 RecState.decode)).owns core0 (req1 RecState.decode).ctx.slot = true ∧ ((rs (req1 RecState.decode)).getCtx (req1
     RecState.decode).ctx.slot).away = false ∧ (rs (req1 RecState.decode)).jrnMode (req1 RecState.decode).ctx.slot = 0 ∧ (req1
     RecState.decode).state ≠ RecState.idle)
    ∧ (core0 = Accessor.mgt 0 ∧ waitS0.absent srcSrv = false ∧ waitS0.srvWait ≠ none) := by
  and_intros <;> first | decide +kernel | rfl
theorem witness_ServingSteps :
    (base.freezeDue ↑3 = false)
    ∧ ((fpS true).freezeDue ↑3 = true ∧ (fpS true).jrnMode ↑3 = 0)
    ∧ (foS.msgSlot (BitVec.toNat (7 : BitVec 16)) (BitVec.toNat (2 : BitVec 8)) = some 3 ∧ (foS.getCtx 3).image = some w3 ∧ w3.serving = true ∧
     w3.isLead = false ∧ (foS.getCtx 3).plan.state ≠ PlanState.ended ∧ (foS.getCtx 3).serve.table msg.step = none)
    ∧ (foS2.msgSlot (BitVec.toNat (7 : BitVec 16)) (BitVec.toNat (2 : BitVec 8)) = some 3 ∧ (foS2.getCtx 3).image = some w3 ∧ w3.serving = true ∧
     w3.isLead = false ∧ (foS2.getCtx 3).plan.state ≠ PlanState.ended ∧ (foS2.getCtx 3).serve.table msg.step ≠ none)
    ∧ (((resS 1 6 []).getCtx ↑3).leads = true ∧ ((resS 1 6 []).getCtx ↑3).plan.active = true ∧ ((resS 1 6 []).getCtx ↑3).state = CtxState.opened ∧
     (resS 1 6 []).jrnMode ↑3 = 0 ∧ (resS 1 6 []).fld RegName.srvCtxRrcfg [↑3] 0 8 ≠ 0 ∧ 0 = ((resS 1 6 []).getCtx ↑3).serve.ringPos % (resS 1 6
     []).fld RegName.srvCtxRrcfg [↑3] 0 8 ∧ 2097152 = BitVec.toNat ((resS 1 6 []).rg RegName.srvCtxRring [↑3]) + 65536 * 0 ∧ flagOwner ((resS 1 6
     []).ctxNat (↑3) 2097152 8) ≠ 2)
    ∧ (((resS 2 6 []).getCtx ↑3).leads = true ∧ ((resS 2 6 []).getCtx ↑3).plan.active = true ∧ ((resS 2 6 []).getCtx ↑3).state = CtxState.opened ∧
     (resS 2 6 []).jrnMode ↑3 = 0 ∧ (resS 2 6 []).fld RegName.srvCtxRrcfg [↑3] 0 8 ≠ 0 ∧ 0 = ((resS 2 6 []).getCtx ↑3).serve.ringPos % (resS 2 6
     []).fld RegName.srvCtxRrcfg [↑3] 0 8 ∧ 2097152 = BitVec.toNat ((resS 2 6 []).rg RegName.srvCtxRring [↑3]) + 65536 * 0 ∧ flagOwner ((resS 2 6
     []).ctxNat (↑3) 2097152 8) = 2 ∧ engineRead (resS 2 6 []) (↑3) 2097152 64 (badW 2097152) = (true, (engineRead (resS 2 6 []) 3 2097152 64
     (badW 2097152)).snd))
    ∧ (((resS 2 7 []).getCtx 3).leads = true ∧ ((resS 2 7 []).getCtx 3).plan.active = true ∧ ((resS 2 7 []).getCtx 3).state = CtxState.opened ∧
     (resS 2 7 []).jrnMode 3 = 0 ∧ (resS 2 7 []).fld RegName.srvCtxRrcfg [3] 0 8 ≠ 0 ∧ 0 = ((resS 2 7 []).getCtx 3).serve.ringPos % (resS 2 7
     []).fld RegName.srvCtxRrcfg [3] 0 8 ∧ 2097152 = BitVec.toNat ((resS 2 7 []).rg RegName.srvCtxRring [3]) + 65536 * 0 ∧ flagOwner ((resS 2 7
     []).ctxNat 3 2097152 8) = 2 ∧ Delivers (resS 2 7 []) 3 2097152 64 { : Findings } (rd1 (resS 2 7 []) { : Findings }) ∧ 7 = (rd1 (resS 2 7 [])
     { : Findings }).ctxNat (3) (2097152 + 8) 8 ∧ 1 = (rd1 (resS 2 7 []) { : Findings }).ctxNat (3) (2097152 + 16) 4 ∧ 7 ≠ ((resS 2 7 []).getCtx
     3).serve.expect)
    ∧ (((resS 2 6 rowE).getCtx 3).leads = true ∧ ((resS 2 6 rowE).getCtx 3).plan.active = true ∧ ((resS 2 6 rowE).getCtx 3).state = CtxState.opened
     ∧ (resS 2 6 rowE).jrnMode 3 = 0 ∧ (resS 2 6 rowE).fld RegName.srvCtxRrcfg [3] 0 8 ≠ 0 ∧ 0 = ((resS 2 6 rowE).getCtx 3).serve.ringPos % (resS
     2 6 rowE).fld RegName.srvCtxRrcfg [3] 0 8 ∧ 2097152 = BitVec.toNat ((resS 2 6 rowE).rg RegName.srvCtxRring [3]) + 65536 * 0 ∧ flagOwner
     ((resS 2 6 rowE).ctxNat 3 2097152 8) = 2 ∧ Delivers (resS 2 6 rowE) 3 2097152 64 (badW 2097216) (rd1 (resS 2 6 rowE) { : Findings }) ∧ 6 =
     (rd1 (resS 2 6 rowE) { : Findings }).ctxNat (3) (2097152 + 8) 8 ∧ 1 = (rd1 (resS 2 6 rowE) { : Findings }).ctxNat (3) (2097152 + 16) 4 ∧ 6 =
     ((resS 2 6 rowE).getCtx 3).serve.expect ∧ engineRead (rd1 (resS 2 6 rowE) { : Findings }) (3) (2097152 + 64) (16 * min 1 4092) (badW 2097216)
     = (true, rd2 (resS 2 6 rowE) (badW 2097216)))
    ∧ (((resS 2 6 rowE).getCtx 3).leads = true ∧ ((resS 2 6 rowE).getCtx 3).plan.active = true ∧ ((resS 2 6 rowE).getCtx 3).state = CtxState.opened
     ∧ (resS 2 6 rowE).jrnMode 3 = 0 ∧ (resS 2 6 rowE).fld RegName.srvCtxRrcfg [3] 0 8 ≠ 0 ∧ 0 = ((resS 2 6 rowE).getCtx 3).serve.ringPos % (resS
     2 6 rowE).fld RegName.srvCtxRrcfg [3] 0 8 ∧ 2097152 = BitVec.toNat ((resS 2 6 rowE).rg RegName.srvCtxRring [3]) + 65536 * 0 ∧ flagOwner
     ((resS 2 6 rowE).ctxNat 3 2097152 8) = 2 ∧ Delivers (resS 2 6 rowE) 3 2097152 64 { : Findings } (rd1 (resS 2 6 rowE) { : Findings }) ∧ 6 =
     (rd1 (resS 2 6 rowE) { : Findings }).ctxNat (3) (2097152 + 8) 8 ∧ 1 = (rd1 (resS 2 6 rowE) { : Findings }).ctxNat (3) (2097152 + 16) 4 ∧ 6 =
     ((resS 2 6 rowE).getCtx 3).serve.expect ∧ Delivers (rd1 (resS 2 6 rowE) { : Findings }) (3) (2097152 + 64) (16 * min 1 4092) { : Findings }
     (rd2 (resS 2 6 rowE) { : Findings }) ∧ (rd2 (resS 2 6 rowE) { : Findings }).jrnMode 3 = 0)
    ∧ (heldR = (heldS 1).getReq (BitVec.toNat (1 : BitVec 14)) ∧ heldR.state ≠ RecState.free ∧ heldR.lead = true ∧ heldR.ctx.slot = 3 ∧ ((heldS
     1).getCtx 3).away = false ∧ heldR.held = [dlv] ∧ (heldS 1).entryFree (BitVec.toNat (1 : BitVec 14)) = false)
    ∧ (heldR = (heldS 2).getReq (BitVec.toNat (1 : BitVec 14)) ∧ heldR.state ≠ RecState.free ∧ heldR.lead = true ∧ heldR.ctx.slot = 3 ∧ ((heldS
     2).getCtx 3).away = false ∧ heldR.held = [dlv] ∧ (heldS 2).entryFree (BitVec.toNat (1 : BitVec 14)) = true ∧ (heldS 2).pte (3) (heldR.ringVa
     + 128 * heldR.ringPos) = some { frame := some { unit := 0, frame := 9 : FrameId }, write := true : Pte } ∧
     { frame := some { unit := 0, frame := 9 : FrameId }, write := true : Pte }.frame = some { unit := 0, frame := 9 : FrameId } ∧
     { frame := some { unit := 0, frame := 9 : FrameId }, write := true : Pte }.moving = false ∧ (heldR.ringVa + 128 * heldR.ringPos) % pageBytes
     + 128 ≤ pageBytes ∧ (heldS 2).watchesOf 3 = []) := by
  and_intros <;> first | decide +kernel | rfl
theorem witness_Serving :
    (resS 2 6 rowE).leadReqs 3 = [1] ∧ (OutRow.parse ((resS 2 6 rowE).ctxRead 3 2097216 16)).committed = true ∧ (OutRow.parse ((resS 2 6
     rowE).ctxRead 3 2097216 16)).handle = ((resS 2 6 rowE).getReq 1).handle := by
  decide +kernel

end TJ

/-! ### Memory tiers -/

namespace TK

def hbS (f : Hbm → Hbm) : State := base.modHbm 1 fun h => f { h with phase := .ready }
def scr (s : State) : State := s.setRg .memScrub [1] 5
def own9 (f : Nat) : State := (scr (hbS fun h => { h with frames := [(f, { held := true })] })).setCtx 3 { ctx3 with hbm := [{ unit := 1, frame := f }] }
def hot : State := base.setRg .memTemp [1] (Word.ofNat (256 * 90))
def memH : State := hbS fun h => { h with mem := [(5, 1), (17408 * 0x200000, 2)] }
def qh : State := hbS fun h => { h with queued := some .retrain }
def rt (p : MemPhase) : State := base.modHbm 1 fun h => { h with phase := p }
def cxS (f : Cxl → Cxl) : State := base.modCxl 1 f
def cxU : State := cxS fun x => { x with link := .up }
def w1 := cxS fun x => { x with link := .training }
def cxD : State := cxS fun x => { x with link := .up, device := true, total := 36, bounce := [36, 37], held := [3] }
def hl : CxlHealth := { status := 1, media := 2, life := 3, temp := 0x1234, events := 5 }
def cxH : State := cxD.setCtx 3 { ctx3 with cxl := [{ cxl := true, unit := 1, frame := 3 }] }
def pteH : Pte := { frame := some { unit := 0, frame := 9 }, tier := 1, write := true, acc := 4 }
def pteX : Pte := { frame := some { cxl := true, unit := 0, frame := 3 }, tier := 1, write := true, acc := 100 }
def morC : Ctx := { runCtx with hbm := [{ unit := 0, frame := 9 }], cxl := [{ cxl := true, unit := 0, frame := 3 }], pt := [(1, pteH), (2, pteX)] }
def morS : State := (((withCtx morC).modCxl 0 fun x => { x with link := .up, device := true, total := 36, bounce := [36, 37], held := [3], mem := [(3 * 0x200000 + 5, 7)] }).setRg .morCtl [] 1).modHbm 0 fun h => { h with phase := .ready, frames := [(9, { held := true })], mem := [(9 * 0x200000 + 6, 8)] }
def exch (d : Bool) : Exchange := { id := 0, ctx := { slot := 3, gen := 5 }, port := 0, victim := 1, cand := 2, hFrame := { unit := 0, frame := 9 }, xFrame := { cxl := true, unit := 0, frame := 3 }, bounce := 36, demoted := d }
def exS (d : Bool) : State := { (morS.setCtx 3 { morC with pt := [(1, if d then { pteH with frame := some { cxl := true, unit := 0, frame := 36 } } else { pteH with moving := true }), (2, { pteX with moving := true })] }).modCxl 0 fun x => { x with bounce := [37] } with mor := { exchanges := [exch d], nextId := 1 } }
theorem get_of {α : Type} {P : α → Prop} {d : α} (h0 : P d) : ∀ (m : KMap α), (∀ e ∈ m, P e.2) → ∀ k, P (KMap.get d m k) := by
  intro m
  induction m with
  | nil => intro _ k; exact h0
  | cons e r ih =>
    intro h k
    simp only [KMap.get]
    split
    · exact h e (by simp)
    · split
      · exact h0
      · exact ih (fun e' he => h e' (by simp [he])) k
theorem witness_Canonical : Canonical (exS false) where
  csr := by unfold Rising; decide +kernel
  ctx := by decide +kernel
  tile := by decide +kernel
  hbm := by decide +kernel
  cxl := by decide +kernel
  link := by decide +kernel
  req := by decide +kernel
  vault := by decide +kernel
  partQuar := by decide +kernel
  mgt := by decide +kernel
  flash := by decide +kernel
  ctxs := fun k a h => absurd ((get_of (P := fun c : Ctx => c.save = none) (by decide +kernel) (exS false).ctx (by decide +kernel) k).symm.trans h) (by simp)
  tiles := get_of (P := fun x : Tile => x.sram.wf = true ∧ x.desc.wf = true) (by decide +kernel) _ (by decide +kernel)
  hbms := get_of (P := fun h : Hbm => h.mem.wf = true) (by decide +kernel) _ (by decide +kernel)
  cxls := get_of (P := fun h : Cxl => h.mem.wf = true) (by decide +kernel) _ (by decide +kernel)
  vaults := get_of (P := fun h : Vault => h.mem.wf = true) (by decide +kernel) _ (by decide +kernel)
def hintS : State := regs (withCtx morC) [(.morArg0, [], Word.ofNat (163 + 65536)), (.morArg1, [], 0x200000), (.morArg2, [], 2)]
def edesc (op k e0 : Nat) (bufs : List Nat) : List Byte := padTo (leBytes 1 op ++ leBytes 1 k ++ leBytes 1 e0 ++ leBytes 5 0 ++ leBytes 8 32 ++ bufs.flatMap fun a => leBytes 8 a ++ leBytes 8 0) erasureBytes 0
def d1 : List Byte := edesc 1 2 0 [0x1010000000, 0x1010000100, 0x1010000200, 0x1010000300]
def d2 : List Byte := edesc 2 1 3 [0x1010000000, 0x1010000100]
def erS (d : List Byte) (f : Moraine → Moraine) : State := { base.setRg .morArg0 [] 0x1010001000 with mgt := Memory.write (Memory.write [] 0x1010000000 [1, 2, 3, 4]) 0x1010001000 d, mor := f base.mor }
def dBad : List Byte := edesc 5 2 0 []
def w2 := erS d1 fun x => { x with erasure := some [] }
def goS (d : List Byte) : State := erS d fun x => { x with erasure := some d, erasureBy := some core0 }
def dsE : List (List Byte) := [[1, 2], [3, 4]]
theorem witness_MemoryStacks :
    ((own9 7).getHbm 1 = (own9 7).getHbm ↑1 ∧ (own9 7).fld RegName.memScrub [↑1] 0 16 ≠ 0 ∧ ((own9 7).getHbm 1).phase = MemPhase.ready ∧ 7 <
     stackFrames)
    ∧ ((own9 7).getHbm 1 = (own9 7).getHbm ↑1 ∧ (own9 7).fld RegName.memScrub [↑1] 0 16 ≠ 0 ∧ ((own9 7).getHbm 1).phase = MemPhase.ready ∧ 18431 <
     stackFrames)
    ∧ ((own9 7).getHbm 1 = (own9 7).getHbm 1 ∧ (own9 7).fld RegName.memScrub [1] 0 16 ≠ 0 ∧ ((own9 7).getHbm 1).phase = MemPhase.ready ∧ 7 <
     stackFrames ∧ 70 < pageBytes ∧ 7 + 1 < grantFrames ∧ (own9 7).bit RegName.memCode [1] 0 = false ∧ (own9 7).frameOwner
     { unit := 1, frame := 7 : FrameId } = some 3 ∧ (own9 7).bit RegName.memUeLog [1] 63 = false)
    ∧ ((Instr.retrain core0 1 false = Instr.retrain core0 1 false ∧ MemPhase.retrain = MemPhase.retrain) ∧ memH.absent (srcMem ↑1) = false ∧ core0 ≠
     Accessor.vc3 ∧ memH.hbmIdle ↑1 = true ∧ memH.hbmOpen ↑1 = true)
    ∧ ((Instr.bist core0 1 false = Instr.bist core0 1 false ∧ MemPhase.bist = MemPhase.bist) ∧ memH.absent (srcMem ↑1) = false ∧ core0 ≠
     Accessor.vc3 ∧ memH.hbmIdle ↑1 = true ∧ memH.hbmOpen ↑1 = true)
    ∧ ((Instr.bist core0 1 true = Instr.bist core0 1 true ∧ MemPhase.bist = MemPhase.bist) ∧ (own9 7).absent (srcMem ↑1) = false ∧ core0 ≠
     Accessor.vc3 ∧ (own9 7).hbmIdle ↑1 = false ∧ true = true ∧ ((own9 7).getHbm ↑1).queued = none)
    ∧ ((Instr.bist core0 1 false = Instr.bist core0 1 false ∧ MemPhase.bist = MemPhase.bist) ∧ (own9 7).absent (srcMem ↑1) = false ∧ core0 ≠
     Accessor.vc3 ∧ (own9 7).hbmIdle ↑1 = false ∧ false = false)
    ∧ ((qh.getHbm ↑1).queued = some MemPhase.retrain ∧ qh.hbmIdle ↑1 = true ∧ (qh.getHbm ↑1).phase = MemPhase.ready)
    ∧ (((rt MemPhase.retrain).getHbm ↑1).phase = MemPhase.retrain)
    ∧ (((rt MemPhase.bist).getHbm ↑1).phase = MemPhase.bist ∧ 5 < grantFrames)
    ∧ (carveFrame (68719476736 + (2147483648 + 2097157) % 17179869184) = ({ unit := 1, frame := 17409 : FrameId }, 5)) := by
  and_intros <;> first | decide +kernel | rfl
theorem witness_CxlPorts :
    ((base.getCxl ↑1).link ≠ CxlLink.up)
    ∧ ((cxU.getCxl ↑1).link = CxlLink.up)
    ∧ ((w1.getCxl ↑1).link = CxlLink.training)
    ∧ ((cxU.getCxl ↑1).link = CxlLink.up ∧ (cxU.getCxl ↑1).device = false ∧ cxU.cxlIdle ↑1 = true ∧ cxU.portExchanges ↑1 = [])
    ∧ ((cxU.getCxl ↑1).link = CxlLink.up ∧ (cxU.getCxl ↑1).device = false ∧ cxU.cxlIdle ↑1 = true ∧ cxU.portExchanges ↑1 = [] ∧ 64 ≤ 100 ∧ 100 ≤
     1048576)
    ∧ ((cxD.getCxl ↑1).device = true)
    ∧ ((cxU.getCxl ↑1).link = CxlLink.up ∧ cxU.portExchanges ↑1 = [] ∧ cxU.cxlHolders ↑1 = [])
    ∧ ((cxH.getCxl ↑1).link = CxlLink.up ∧ cxH.portExchanges ↑1 = [] ∧ cxH.cxlHolders ↑1 = [3]) := by
  and_intros <;> first | decide +kernel | rfl
theorem witness_MoraineExchanges :
    (3 < 32 ∧ (∀ (j : Nat), j < 32 → KMap.wf { : Pte } (morS.getCtx j).pt = true))
    ∧ ((base.setRg RegName.morCtl [] 0).bit RegName.morCtl [] 0 = false)
    ∧ (3 < 32 ∧ morS.bit RegName.morCtl [] 0 = true ∧ (∀ (j : Nat), j < 32 → j ≠ 3 → (morS.getCtx j).state = CtxState.free) ∧ (morS.getCtx 3).state
     = CtxState.opened ∧ (morS.getCtx 3).plan.active = true ∧ (morS.getCxl 0).device = true ∧ (morS.getCxl 1).device = false ∧ morS.mor.exchanges
     = [] ∧ (morS.getCxl 0).bounce = [36, 37] ∧ (candidate (List.filter (fun e => e.snd.movable && !e.snd.moving) (morS.getCtx 3).pt) 0 (morS.fld
     RegName.morPromoteMin [] 0 16) = some (2, pteX)) ∧ (victim (List.filter (fun e => e.snd.movable && !e.snd.moving) (morS.getCtx 3).pt) = some
     (1, pteH)) ∧ (1, pteH).snd.acc < (2, pteX).snd.acc ∧ (1, pteH).snd.frame = some { unit := 0, frame := 9 : FrameId } ∧ (2, pteX).snd.frame =
     some { cxl := true, unit := 0, frame := 3 : FrameId })
    ∧ ((exS false).mor.exchanges = [exch false] ∧ (exch false).held = [] ∧ (exch false).hFrame.cxl = false ∧ (exch false).xFrame.cxl = true ∧ (exch
     false).victim ≠ (exch false).cand ∧ { cxl := true, unit := 0, frame := 36 : FrameId } =
     { cxl := true, unit := (exch false).port, frame := (exch false).bounce : FrameId } ∧ (exch false).demoted = false ∧ (exS false).holdsPage
     (exch false) (exch false).victim (exch false).hFrame true = true ∧ (exS false).holdsPage (exch false) (exch false).cand (exch false).xFrame
     true = true)
    ∧ ((exS true).mor.exchanges = [exch true] ∧ (exch true).held = [] ∧ (exch true).hFrame.cxl = false ∧ (exch true).xFrame.cxl = true ∧ (exch
     true).victim ≠ (exch true).cand ∧ { cxl := true, unit := 0, frame := 36 : FrameId } =
     { cxl := true, unit := (exch true).port, frame := (exch true).bounce : FrameId } ∧ (exch true).demoted = true ∧ (exS true).holdsPage (exch
     true) (exch true).cand (exch true).xFrame true = true)
    ∧ (hintS.absent srcMor = false ∧ isCore core0 = true ∧ hintS.mor.erasure = none ∧ { slot := 3, gen := 5 : CtxId } = CtxId.ofNat (hintS.fld
     RegName.morArg0 [] 0 16) ∧ hintS.live { slot := 3, gen := 5 : CtxId } = true ∧ hintS.owns core0 { slot := 3, gen := 5 : CtxId }.slot = true ∧
     2097152 = BitVec.toNat (hintS.rg RegName.morArg1) ∧ 2 = BitVec.toNat (hintS.rg RegName.morArg2) ∧ 2097152 % pageBytes = 0 ∧ 1 ≤ 2 ∧ 2 ≤
     1048576 ∧ hintS.fld RegName.morArg0 [] 16 2 ≠ 3 ∧ (∀ (i : Nat), i < 2 → hintS.pte { slot := 3, gen := 5 : CtxId }.slot (2097152 + pageBytes *
     i) ≠ none))
    ∧ ((hintS.setRg RegName.morArg2 [] (3 : Word)).absent srcMor = false ∧ isCore core0 = true ∧ (hintS.setRg RegName.morArg2 [] (3 :
     Word)).mor.erasure = none ∧ { slot := 3, gen := 5 : CtxId } = CtxId.ofNat ((hintS.setRg RegName.morArg2 [] (3 : Word)).fld RegName.morArg0 []
     0 16) ∧ (hintS.setRg RegName.morArg2 [] (3 : Word)).live { slot := 3, gen := 5 : CtxId } = true ∧ (hintS.setRg RegName.morArg2 [] (3 :
     Word)).owns core0 { slot := 3, gen := 5 : CtxId }.slot = true ∧ 2097152 = BitVec.toNat ((hintS.setRg RegName.morArg2 [] (3 : Word)).rg
     RegName.morArg1) ∧ 3 = BitVec.toNat ((hintS.setRg RegName.morArg2 [] (3 : Word)).rg RegName.morArg2) ∧ 2097152 % pageBytes = 0 ∧ 1 ≤ 3 ∧ 3 ≤
     1048576 ∧ (∃ i, i < 3 ∧ (hintS.setRg RegName.morArg2 [] (3 : Word)).pte { slot := 3, gen := 5 : CtxId }.slot (2097152 + pageBytes * i) =
     none)) := by
  and_intros <;> first | decide +kernel | rfl
theorem witness_ErasureEngine :
    ((erS d1 id).absent srcMor = false ∧ isCore core0 = true ∧ d1 = (erS d1 id).mgt.read (BitVec.toNat ((erS d1 id).rg RegName.morArg0))
     erasureBytes ∧ (erS d1 id).mor.erasure = none ∧ BitVec.toNat ((erS d1 id).rg RegName.morArg0) % 64 = 0 ∧ mgtRange (BitVec.toNat ((erS d1
     id).rg RegName.morArg0)) 16 false = true ∧ (ErasureOp.parse d1).shapeOk = true ∧ (∀ (b : ErasureBuf), b ∈ (ErasureOp.parse d1).buf →
     b.virtual = false ∧ mgtRange b.addr (ErasureOp.parse d1).len true = true))
    ∧ ((erS dBad id).absent srcMor = false ∧ isCore core0 = true ∧ dBad = (erS dBad id).mgt.read (BitVec.toNat ((erS dBad id).rg RegName.morArg0))
     erasureBytes ∧ (erS dBad id).mor.erasure = none ∧ (∀ (b : ErasureBuf), b ∈ (ErasureOp.parse dBad).buf → b.virtual = false) ∧ (ErasureOp.parse
     dBad).shapeOk = false)
    ∧ (w2.absent srcMor = false ∧ isCore core0 = true ∧ w2.mor.erasure ≠ none ∧ d1 = w2.mgt.read (BitVec.toNat (w2.rg RegName.morArg0)) erasureBytes
     ∧ BitVec.toNat (w2.rg RegName.morArg0) % 64 = 0 ∧ mgtRange (BitVec.toNat (w2.rg RegName.morArg0)) 16 false = true ∧ (ErasureOp.parse
     d1).shapeOk = true ∧ (∀ (b : ErasureBuf), b ∈ (ErasureOp.parse d1).buf → b.virtual = false ∧ mgtRange b.addr (ErasureOp.parse d1).len true =
     true))
    ∧ ((goS d1).mor.erasure = some d1 ∧ (∀ (b : ErasureBuf), b ∈ (ErasureOp.parse d1).buf → b.virtual = false) ∧ (ErasureOp.parse d1).op = 1 ∧
     (ErasureOp.parse d1).buf[(ErasureOp.parse d1).k]? = some
     { addr := 68987912704, virtual := false, ctx := { slot := 0, gen := 0 : CtxId } : ErasureBuf } ∧ (ErasureOp.parse d1).buf[(ErasureOp.parse
     d1).k + 1]? = some { addr := 68987912960, virtual := false, ctx := { slot := 0, gen := 0 : CtxId } : ErasureBuf } ∧
     { addr := 68987912704, virtual := false, ctx := { slot := 0, gen := 0 : CtxId } : ErasureBuf }.addr + (ErasureOp.parse d1).len ≤
     { addr := 68987912960, virtual := false, ctx := { slot := 0, gen := 0 : CtxId } : ErasureBuf }.addr)
    ∧ ((goS d2).mor.erasure = some d2 ∧ (∀ (b : ErasureBuf), b ∈ (ErasureOp.parse d2).buf → b.virtual = false) ∧ (ErasureOp.parse d2).op = 2 ∧
     (ErasureOp.parse d2).buf[0]? = some { addr := 68987912192, virtual := false, ctx := { slot := 0, gen := 0 : CtxId } : ErasureBuf } ∧
     (ErasureOp.parse d2).buf[1]? = some { addr := 68987912448, virtual := false, ctx := { slot := 0, gen := 0 : CtxId } : ErasureBuf }) := by
  and_intros <;> first | decide +kernel | rfl
theorem witness_ErasureRecovers :
    1 ≤ dsE.length ∧ dsE.length ≤ 14 ∧ (∀ (d : List Byte), d ∈ dsE → d.length = 2) ∧ 0 ≤ dsE.length + 1 ∧ 3 ≤ dsE.length + 1 ∧ 0 = 0 ∧ (0, [1,
     2]) ∈ shards 2 dsE := by
  decide +kernel

end TK

/-! ### Cloakroom -/

namespace TL

def sCreate : State := cleanFrames base 8
def fsCreate : List (FrameId × Bool) × State := (sCreate.takeFrames 8).getD ([], sCreate)
def sNoSlot : State := slots.foldl (fun s k => s.setCtx k ctx3) base
def sOwners : State := clo ctx3 0 3 0
def sOwnersBad : State := clo ctx3 0 2 0
def gTiles : State := cleanFrames (clo ctx3 1 1 0) 40
def gTilesFs : List (FrameId × Bool) × State := (gTiles.takeFrames 32).getD ([], gTiles)
def gHbm : State := cleanFrames (clo ctx3 2 2 0) 4
def gHbmFs : List (FrameId × Bool) × State := (gHbm.takeFrames 2).getD ([], gHbm)
def gCxl : State := (clo { ctx3 with state := .saved } 3 2 2).modCxl 1 fun x => { x with link := .up, device := true, total := 4, bounce := [0, 1] }
def gGroup : State := (clo ctx3 4 1 2).modVault 1 fun v => { v with mode := .service }
def gRegion : State := (clo ctx3 5 1 7).modVault 1 fun v => { v with mode := .service, groups := [(0, some { slot := 3, gen := 5 })], regions := [(7, { state := .installed })] }
def gQuota : State := cleanFrames (clo ctx3 6 16384 0) 34
def gQuotaOver : State := clo ctx3 6 16385 0
def gLink : State := clo ctx3 7 5 0
def gLinkHeld : State := (clo ctx3 7 5 0).setCtx 4 { ctx3 with links := [5] }
def w1 := { ctx3 with state := .saved }
def gQuotaFs : List (FrameId × Bool) × State := (gQuota.takeFrames 32).getD ([], gQuota)
def gRegBusy : State := (clo ctx3 5 1 7).modVault 1 fun v => { v with mode := .install }
def gLinkBad : State := { clo ctx3 7 5 0 with failedB := [srcLnk 5] }
def frm (n : Nat) : FrameId := { unit := 0, frame := n }
def ctxFull : Ctx := { ctx3 with
  tiles := List.range 32, saveFr := (List.range 32).map frm, hbm := [frm 40, frm 41], cxl := [{ cxl := true, unit := 1, frame := 2 }], dirty := [frm 41],
  links := [1, 4], quota := 9, quotaFr := [frm 39], pt := [(0, { frame := some (frm 40) }), (1, { frame := some (frm 41) })] }
def full (type a1 a2 : Nat) : State :=
  ((((clo ctxFull type a1 a2).modHbm 0 fun h => { h with phase := .ready, frames := (List.range 42).map fun i => (i, { held := true, ue := i == 40 }) }).modCxl 1
    fun x => { x with device := true, total := 4, held := [2] }).modVault 1 fun v => { v with
      mode := .service, groups := [(0, some { slot := 3, gen := 5 }), (2, some { slot := 3, gen := 5 })], regions := [(7, { state := .bound, ctx := some { slot := 3, gen := 5 } })] }).each
    (List.range 32) fun s t => s.modTile t fun x => { x with state := if t = 5 then .bad else .granted, ctx := some { slot := 3, gen := 5 }, power := .deep, bank := .active, pc := 7 }
def fullReq : State := (full 6 0 0).modReq 5 fun r => { r with state := .idle, ctx := { slot := 3, gen := 5 } }
def ctxRuns : Ctx := { ctxFull with plan := { state := .running } }
def repairS : State := ((full 0 (5 * 16) 0).modTile 300 fun x => { x with state := .spare, pc := 3 })
def repairSaved : State := (repairS.setCtx 3 { ctx3 with state := .saved, badTiles := [(5, 5)] })
def repairLoad : State := { repairS with loader := some { ctx := { slot := 3, gen := 5 }, bytes := [], tiles := [] } }
def bist (n : Nat) (x : Tile) : State := (base.setRg .cloArg0 [] (Word.ofNat n)).setTile n x
def bistOwn : State := bist 575 { ctx := some { slot := 3, gen := 5 }, state := .granted } |>.setCtx 3 ctx3
def unclearS : State := (bist 7 { unclear := true, pc := 4 }).setRg .tilSramCe [7] 5
def zeroS : State := base.modHbm 1 fun h => { h with phase := .ready, mem := [(2097152, 5), (2097153, 6), (4194304, 9)] }
def zeroClean : State := zeroS.modHbm 1 fun h => { h with frames := [(17407, { clean := true })] }
def zeroCxl : State := base.modCxl 1 fun x => { x with link := .up, device := true, total := 4, mem := [(2097152, 5), (4194304, 9)] }
def w2 := (clo { ctx3 with state := .saving } 0 0 0)
def w3 := { ctx3 with state := .saving }
def ctxPrep : Ctx := { ctxFull with gen := 2047, part := { state := .prepared, part := 4, gen := 1, extent := 1 }, plan := { state := .running } }
def prepS : State := ((full 0 0 0).setCtx 3 ctxPrep).setRg .cloArg0 [] (Word.ofNat (3 + 32 * 2047))
def quarS (d : Word) : State := base.setCtx 3 { state := .quarantine, gen := 9, quarUntil := d, drainFrom := 3 }
def ctxRun : Ctx := { ctx3 with plan := { state := .running, pcy := 77 } }
def ctxSaving : Ctx := { ctx3 with state := .saving, drainFrom := 0, hbm := [frm 3] }
def ctxBusyT : Ctx := { ctxSaving with tiles := [4] }
def busyT : State := (withCtx ctxBusyT).modTile 4 fun x => { x with outst := [{ op := noOp }] }
def savedS : State := { (((full 0 0 0).setCtx 3 { ctxFull with state := .saving, drained := true, part := { state := .committed, part := 4, gen := 1 } }).modTile 6 fun x => { x with sram := [(3, 4)] }) with
  cloOp := some (.preempt 3), net := { State.reset.net with routes := [(5, 9), (773, 2), (8965, 3)] } }
def area1 : SaveArea := { rows := 1, groups := [0, 1, 0, 0], links := [2], tiles := List.replicate 32 { sram := [(3, 4)], pc := 9, power := .run }, counters := [], bufs := [([], [])], epoch := 0 }
def ctxSaved : Ctx := { ctx3 with state := .saved, save := some area1, plan := { state := .stopped } }
def savS (c : Ctx) : State := (clo c 0 0 0).modVault 1 fun v => { v with mode := .service }
def w4 := savS { ctxSaved with saveDead := true }
def w5 := { ctxSaved with saveDead := true }
def noLink : State := (savS ctxSaved).setCtx 4 { ctx3 with links := [2] }
def ctxRest : Ctx := { ctxSaved with state := .restoring, tiles := List.range 32, part := { state := .suspended, part := 3, gen := 1 } }
def restS : State := { ((withCtx ctxRest).each (List.range 32) fun s t => s.modTile t fun x => { x with state := .granted, ctx := some { slot := 3, gen := 5 } }) with cloOp := some (.resume 3) }
def restLocked : State := { restS with net := { State.reset.net with unlockAt := [(3, 1)] } }
def ctxSrc : Ctx := { ctx3 with tiles := [3, 4], hbm := [frm 40], quota := 5, links := [1] }
def rebS (mode types : Nat) : State := cleanFrames (clo ctxSrc mode types 0) 8
def rebFs (mode types : Nat) : List (FrameId × Bool) × State := ((rebS mode types).takeFrames 8).getD ([], base)
def timeoutS : State := { (clo ctxSaving 0 0 0).setRg .cloDrainLimit [] 0 with cloOp := some (.preempt 3) }
theorem witness_CreateAndOwners :
    (sCreate.absent srcClo = false ∧ sCreate.cloOp = none ∧ sCreate.flt.fatal = false ∧ core0 ≠ Accessor.vc3 ∧ sCreate.freeSlot = some 0 ∧
     sCreate.takeFrames 8 = some (fsCreate.fst, fsCreate.snd))
    ∧ (sNoSlot.absent srcClo = false ∧ sNoSlot.cloOp = none ∧ sNoSlot.flt.fatal = false ∧ core0 ≠ Accessor.vc3 ∧ sNoSlot.freeSlot = none)
    ∧ (sCreate.absent srcClo = false ∧ sCreate.cloOp = none ∧ sCreate.flt.fatal = false ∧ Accessor.vc3 = Accessor.vc3)
    ∧ (CloTakes sOwners core0 3 ∧ core0 ≠ Accessor.vc3 ∧ (3 : BitVec 10) = BitVec.ofNat 10 sOwners.cloA1 ∧ BitVec.getLsbD (3 : BitVec 10) (accBit
     core0) = true)
    ∧ (CloTakes sOwnersBad core0 3 ∧ core0 ≠ Accessor.vc3 ∧ (2 : BitVec 10) = BitVec.ofNat 10 sOwnersBad.cloA1 ∧ BitVec.getLsbD (2 : BitVec 10)
     (accBit core0) = false) := by
  and_intros <;> first | decide +kernel | rfl
theorem witness_TicketsGranted :
    (CloTakes gTiles core0 3 ∧ gTiles.flt.fatal = false ∧ ctx3 = gTiles.getCtx 3 ∧ 1 = gTiles.cloA1 ∧ 0 = gTiles.cloA2 ∧ gTiles.grantAbsent
     gTiles.cloType 1 0 = false ∧ gTiles.cloType = 1 ∧ ctx3.state = CtxState.opened ∧ ctx3.tiles.length / 32 + 1 ≤ gTiles.gridRows ∧
     gTiles.tilesGranted + 32 * 1 ≤ gTiles.planTiles ∧ gTiles.pickTiles (32 * 1) = some ((gTiles.pickTiles 32).getD []) ∧ gTiles.takeFrames (32 *
     1) = some (gTilesFs.fst, gTilesFs.snd))
    ∧ (CloTakes gHbm core0 3 ∧ gHbm.flt.fatal = false ∧ ctx3 = gHbm.getCtx 3 ∧ 2 = gHbm.cloA1 ∧ 0 = gHbm.cloA2 ∧ gHbm.grantAbsent gHbm.cloType 2 0 =
     false ∧ gHbm.cloType = 2 ∧ (ctx3.state = CtxState.opened ∨ ctx3.state = CtxState.saved) ∧ gHbm.takeFrames 2 = some (gHbmFs.fst, gHbmFs.snd))
    ∧ (CloTakes gCxl core0 3 ∧ gCxl.flt.fatal = false ∧ w1 = gCxl.getCtx 3 ∧ 2 = gCxl.cloA1 ∧ 2 = gCxl.cloA2 ∧ gCxl.grantAbsent gCxl.cloType 2 2 =
     false ∧ gCxl.cloType = 3 ∧ (w1.state = CtxState.opened ∨ w1.state = CtxState.saved) ∧ 2 ≤ 3 ∧ gCxl.pickCxl 2 2 = some ((gCxl.pickCxl 2
     2).getD []))
    ∧ (CloTakes gGroup core0 3 ∧ gGroup.flt.fatal = false ∧ ctx3 = gGroup.getCtx 3 ∧ 1 = gGroup.cloA1 ∧ 2 = gGroup.cloA2 ∧ gGroup.grantAbsent
     gGroup.cloType 1 2 = false ∧ gGroup.cloType = 4 ∧ ctx3.state = CtxState.opened ∧ 1 ≤ 3 ∧ gGroup.vaultClosed 1 = false ∧ 2 ≤
     (gGroup.groupsFree 1).length)
    ∧ (CloTakes gRegion core0 3 ∧ gRegion.flt.fatal = false ∧ ctx3 = gRegion.getCtx 3 ∧ 1 = gRegion.cloA1 ∧ 7 = gRegion.cloA2 ∧ gRegion.grantAbsent
     gRegion.cloType 1 7 = false ∧ gRegion.cloType = 5 ∧ ctx3.state = CtxState.opened ∧ 1 ≤ 3 ∧ 7 ≤ 63 ∧ gRegion.vaultClosed 1 = false ∧
     gRegion.groupsOf 3 1 ≠ [] ∧ (gRegion.getRegion 1 7).state = RegionState.installed)
    ∧ (CloTakes gLinkBad core0 3 ∧ gLinkBad.flt.fatal = false ∧ ctx3 = gLinkBad.getCtx 3 ∧ 5 = gLinkBad.cloA1 ∧ 0 = gLinkBad.cloA2 ∧
     gLinkBad.grantAbsent gLinkBad.cloType 5 0 = true)
    ∧ (CloTakes gRegBusy core0 3 ∧ gRegBusy.flt.fatal = false ∧ ctx3 = gRegBusy.getCtx 3 ∧ 1 = gRegBusy.cloA1 ∧ 7 = gRegBusy.cloA2 ∧
     gRegBusy.grantAbsent gRegBusy.cloType 1 7 = false ∧ gRegBusy.cloType = 5 ∧ 1 ≤ 3 ∧ 7 ≤ 63 ∧ gRegBusy.vaultClosed 1 = true)
    ∧ (CloTakes gQuota core0 3 ∧ gQuota.flt.fatal = false ∧ ctx3 = gQuota.getCtx 3 ∧ 16384 = gQuota.cloA1 ∧ 0 = gQuota.cloA2 ∧ gQuota.grantAbsent
     gQuota.cloType 16384 0 = false ∧ gQuota.cloType = 6 ∧ (ctx3.state = CtxState.opened ∨ ctx3.state = CtxState.saved) ∧ gQuota.quotaSum + 16384
     ≤ 16384 ∧ gQuota.takeFrames (quotaFrames (ctx3.quota + 16384) - ctx3.quotaFr.length) = some (gQuotaFs.fst, gQuotaFs.snd))
    ∧ (CloTakes gQuotaOver core0 3 ∧ gQuotaOver.flt.fatal = false ∧ ctx3 = gQuotaOver.getCtx 3 ∧ 16385 = gQuotaOver.cloA1 ∧ 0 = gQuotaOver.cloA2 ∧
     gQuotaOver.grantAbsent gQuotaOver.cloType 16385 0 = false ∧ gQuotaOver.cloType = 6 ∧ (ctx3.state = CtxState.opened ∨ ctx3.state =
     CtxState.saved) ∧ 16384 < gQuotaOver.quotaSum + 16385)
    ∧ (CloTakes gLink core0 3 ∧ gLink.flt.fatal = false ∧ ctx3 = gLink.getCtx 3 ∧ 5 = gLink.cloA1 ∧ 0 = gLink.cloA2 ∧ gLink.grantAbsent
     gLink.cloType 5 0 = false ∧ gLink.cloType = 7 ∧ ctx3.state = CtxState.opened ∧ 5 ≤ 5 ∧ gLink.linkFree 5 = true)
    ∧ (CloTakes gLinkHeld core0 3 ∧ gLinkHeld.flt.fatal = false ∧ ctx3 = gLinkHeld.getCtx 3 ∧ 5 = gLinkHeld.cloA1 ∧ 0 = gLinkHeld.cloA2 ∧
     gLinkHeld.grantAbsent gLinkHeld.cloType 5 0 = false ∧ gLinkHeld.cloType = 7 ∧ ctx3.state = CtxState.opened ∧ 5 ≤ 5 ∧ gLinkHeld.linkFree 5 =
     false) := by
  and_intros <;> first | decide +kernel | rfl
theorem witness_TicketsReleased :
    (CloTakes (full 1 1 0) core0 3 ∧ ctxFull = (full 1 1 0).getCtx 3 ∧ 1 = (full 1 1 0).cloA1 ∧ 0 = (full 1 1 0).cloA2 ∧ ctxFull.plan.active =
     false ∧ ctxFull.plan.held = false ∧ ctxFull.part.state ≠ PartState.prepared ∧ (ctxFull.state = CtxState.opened ∨ ctxFull.state =
     CtxState.saved) ∧ (full 1 1 0).cloType = 1 ∧ 32 * 1 ≤ ctxFull.tiles.length ∧ List.range 32 = lastOf ctxFull.tiles (32 * 1) ∧ List.map frm
     (List.range 32) = List.drop (ctxFull.saveFr.length - (List.range 32).length) ctxFull.saveFr)
    ∧ (CloTakes (full 2 2 0) core0 3 ∧ ctxFull = (full 2 2 0).getCtx 3 ∧ 2 = (full 2 2 0).cloA1 ∧ 0 = (full 2 2 0).cloA2 ∧ ctxFull.plan.active =
     false ∧ ctxFull.plan.held = false ∧ ctxFull.part.state ≠ PartState.prepared ∧ (ctxFull.state = CtxState.opened ∨ ctxFull.state =
     CtxState.saved) ∧ ((full 2 2 0).cloType = 2 ∧ 2 ≤ ctxFull.hbm.length ∧ [frm 40, frm 41] = lastOf ctxFull.hbm 2 ∨ (full 2 2 0).cloType = 3 ∧ 0
     ≤ 3 ∧ 2 ≤ ((full 2 2 0).cxlOn 3 0).length ∧ [frm 40, frm 41] = lastOf ((full 2 2 0).cxlOn 3 0) 2))
    ∧ (CloTakes (full 3 1 2) core0 3 ∧ ctxFull = (full 3 1 2).getCtx 3 ∧ 1 = (full 3 1 2).cloA1 ∧ 2 = (full 3 1 2).cloA2 ∧ ctxFull.plan.active =
     false ∧ ctxFull.plan.held = false ∧ ctxFull.part.state ≠ PartState.prepared ∧ (ctxFull.state = CtxState.opened ∨ ctxFull.state =
     CtxState.saved) ∧ ((full 3 1 2).cloType = 2 ∧ 1 ≤ ctxFull.hbm.length ∧ [{ cxl := true, unit := 1, frame := 2 : FrameId }] = lastOf
     ctxFull.hbm 1 ∨ (full 3 1 2).cloType = 3 ∧ 2 ≤ 3 ∧ 1 ≤ ((full 3 1 2).cxlOn 3 2).length ∧ [{ cxl := true, unit := 1, frame := 2 : FrameId }] =
     lastOf ((full 3 1 2).cxlOn 3 2) 1))
    ∧ (CloTakes (full 4 1 1) core0 3 ∧ ctxFull = (full 4 1 1).getCtx 3 ∧ 1 = (full 4 1 1).cloA1 ∧ 1 = (full 4 1 1).cloA2 ∧ ctxFull.plan.active =
     false ∧ ctxFull.plan.held = false ∧ ctxFull.part.state ≠ PartState.prepared ∧ (ctxFull.state = CtxState.opened ∨ ctxFull.state =
     CtxState.saved) ∧ (full 4 1 1).cloType = 4 ∧ 1 ≤ 3 ∧ 1 ≤ ((full 4 1 1).groupsOf 3 1).length ∧ [2] = lastOf ((full 4 1 1).groupsOf 3 1) 1 ∧
     ((full 4 1 1).regionsOf 3 1 = [] ∨ 1 ≠ 0 ∧ 1 ≠ ((full 4 1 1).groupsOf 3 1).length))
    ∧ (CloTakes (full 5 1 7) core0 3 ∧ ctxFull = (full 5 1 7).getCtx 3 ∧ 1 = (full 5 1 7).cloA1 ∧ 7 = (full 5 1 7).cloA2 ∧ ctxFull.plan.active =
     false ∧ ctxFull.plan.held = false ∧ ctxFull.part.state ≠ PartState.prepared ∧ (ctxFull.state = CtxState.opened ∨ ctxFull.state =
     CtxState.saved) ∧ (full 5 1 7).cloType = 5 ∧ 1 ≤ 3 ∧ 7 ∈ (full 5 1 7).regionsOf 3 1)
    ∧ (CloTakes (full 6 9 0) core0 3 ∧ ctxFull = (full 6 9 0).getCtx 3 ∧ 9 = (full 6 9 0).cloA1 ∧ 0 = (full 6 9 0).cloA2 ∧ ctxFull.plan.active =
     false ∧ ctxFull.plan.held = false ∧ ctxFull.part.state ≠ PartState.prepared ∧ (ctxFull.state = CtxState.opened ∨ ctxFull.state =
     CtxState.saved) ∧ (full 6 9 0).cloType = 6 ∧ [frm 39] = List.drop (quotaFrames 0) ctxFull.quotaFr ∧ (9 ≠ 0 ∧ 9 ≤ (full 6 9 0).unusedRecs 3 ∧
     0 = ctxFull.quota - 9))
    ∧ (CloTakes (full 6 0 0) core0 3 ∧ ctxFull = (full 6 0 0).getCtx 3 ∧ 0 = (full 6 0 0).cloA1 ∧ 0 = (full 6 0 0).cloA2 ∧ ctxFull.plan.active =
     false ∧ ctxFull.plan.held = false ∧ ctxFull.part.state ≠ PartState.prepared ∧ (ctxFull.state = CtxState.opened ∨ ctxFull.state =
     CtxState.saved) ∧ (full 6 0 0).cloType = 6 ∧ [frm 39] = List.drop (quotaFrames 0) ctxFull.quotaFr ∧ (0 = 0 ∧ (full 6 0 0).reqsOf 3 = [] ∧
     (full 6 0 0).watchesOf 3 = [] ∧ 0 = 0))
    ∧ (CloTakes fullReq core0 3 ∧ ctxFull = fullReq.getCtx 3 ∧ 0 = fullReq.cloA1 ∧ 0 = fullReq.cloA2 ∧ ctxFull.plan.active = false ∧
     ctxFull.plan.held = false ∧ ctxFull.part.state ≠ PartState.prepared ∧ (ctxFull.state = CtxState.opened ∨ ctxFull.state = CtxState.saved) ∧
     fullReq.cloType = 6 ∧ 0 = 0 ∧ KMap.wf { : Req } fullReq.req = true)
    ∧ (CloTakes (full 7 4 0) core0 3 ∧ ctxFull = (full 7 4 0).getCtx 3 ∧ 4 = (full 7 4 0).cloA1 ∧ 0 = (full 7 4 0).cloA2 ∧ ctxFull.plan.active =
     false ∧ ctxFull.plan.held = false ∧ ctxFull.part.state ≠ PartState.prepared ∧ (ctxFull.state = CtxState.opened ∨ ctxFull.state =
     CtxState.saved) ∧ (full 7 4 0).cloType = 7 ∧ (0 = 1 ∨ 0 = 0 ∧ 4 ∈ ctxFull.links))
    ∧ (CloTakes (full 2 3 0) core0 3 ∧ ctxFull = (full 2 3 0).getCtx 3 ∧ 3 = (full 2 3 0).cloA1 ∧ 0 = (full 2 3 0).cloA2 ∧ ((full 2 3 0).cloType = 1
     ∧ 2 = ctxFull.tiles.length / 32 ∨ (full 2 3 0).cloType = 2 ∧ 2 = ctxFull.hbm.length ∨ (full 2 3 0).cloType = 6 ∧ 2 = (full 2 3 0).unusedRecs
     3) ∧ 2 < 3)
    ∧ (CloTakes ((full 2 1 0).setCtx 3 ctxRuns) core0 3 ∧ ctxRuns = ((full 2 1 0).setCtx 3 ctxRuns).getCtx 3 ∧ 1 = ((full 2 1 0).setCtx 3
     ctxRuns).cloA1 ∧ 0 = ((full 2 1 0).setCtx 3 ctxRuns).cloA2 ∧ (((full 2 1 0).setCtx 3 ctxRuns).cloType = 1 ∧ 2 = ctxRuns.tiles.length / 32 ∨
     ((full 2 1 0).setCtx 3 ctxRuns).cloType = 2 ∧ 2 = ctxRuns.hbm.length ∨ ((full 2 1 0).setCtx 3 ctxRuns).cloType = 6 ∧ 2 = ((full 2 1 0).setCtx
     3 ctxRuns).unusedRecs 3) ∧ 1 ≤ 2 ∧ ctxRuns.plan.active = true) := by
  and_intros <;> first | decide +kernel | rfl
theorem witness_TilesAndFrames :
    (CloTakes repairS core0 3 ∧ repairS.flt.fatal = false ∧ (repairS.getCtx 3).state = CtxState.opened ∧ (repairS.getCtx 3).plan.active = false ∧
     repairS.loading 3 = false ∧ 5 = 32 * fieldN repairS.cloA1 0 4 + fieldN repairS.cloA1 4 5 ∧ (repairS.getCtx 3).tiles[5]? = some 5 ∧
     (repairS.getTile 5).state = TileState.bad ∧ repairS.spare = some 300)
    ∧ (CloTakes repairSaved core0 3 ∧ repairSaved.flt.fatal = false ∧ (repairSaved.getCtx 3).state = CtxState.saved ∧ 5 = 32 * fieldN
     repairSaved.cloA1 0 4 + fieldN repairSaved.cloA1 4 5 ∧ (List.find? (fun b => b.fst == 5) (repairSaved.getCtx 3).badTiles = some (5, 5)) ∧
     (repairSaved.getTile 5).state = TileState.bad ∧ repairSaved.spare = some 300)
    ∧ (CloTakes repairLoad core0 3 ∧ repairLoad.flt.fatal = false ∧ (repairLoad.getCtx 3).state = CtxState.opened ∧ (repairLoad.getCtx
     3).plan.active = false ∧ repairLoad.loader = some { ctx := { slot := 3, gen := 5 : CtxId }, bytes := [], tiles := [] : Loader } ∧
     { ctx := { slot := 3, gen := 5 : CtxId }, bytes := [], tiles := [] : Loader }.ctx.slot = 3 ∧ 5 = 32 * fieldN repairLoad.cloA1 0 4 + fieldN
     repairLoad.cloA1 4 5 ∧ (repairLoad.getCtx 3).tiles[5]? = some 5 ∧ (repairLoad.getTile 5).state = TileState.bad ∧ repairLoad.spare = some 300)
    ∧ ((bist 576 { : Tile }).absent srcClo = false ∧ (bist 576 { : Tile }).cloOp = none ∧ 576 = (bist 576 { : Tile }).fld RegName.cloArg0 [] 0 10 ∧
     576 ≤ 576 ∧ ((bist 576 { : Tile }).getTile 576).ctx = none)
    ∧ ((bist 575 { pc := 9 : Tile }).absent srcClo = false ∧ (bist 575 { pc := 9 : Tile }).cloOp = none ∧ 575 = (bist 575 { pc := 9 : Tile }).fld
     RegName.cloArg0 [] 0 10 ∧ 575 < 576 ∧ ((bist 575 { pc := 9 : Tile }).getTile 575).state ≠ TileState.failed ∧ (bist 575
     { pc := 9 : Tile }).tileUnticketed 575 = true)
    ∧ (bistOwn.absent srcClo = false ∧ bistOwn.cloOp = none ∧ 575 = bistOwn.fld RegName.cloArg0 [] 0 10 ∧ 575 < 576 ∧ (bistOwn.getTile 575).state ≠
     TileState.failed ∧ (bistOwn.getTile 575).ctx = some { slot := 3, gen := 5 : CtxId } ∧ bistOwn.owns (Accessor.mgt (1 : Fin 8))
     { slot := 3, gen := 5 : CtxId }.slot = false)
    ∧ (bistOwn.absent srcClo = false ∧ bistOwn.cloOp = none ∧ 575 = bistOwn.fld RegName.cloArg0 [] 0 10 ∧ 575 < 576 ∧ (bistOwn.getTile 575).state ≠
     TileState.failed ∧ (∀ (i : CtxId), (bistOwn.getTile 575).ctx = some i → bistOwn.owns core0 i.slot = true) ∧ bistOwn.tileUnticketed 575 =
     false ∧ true = true)
    ∧ (bistOwn.absent srcClo = false ∧ bistOwn.cloOp = none ∧ 575 = bistOwn.fld RegName.cloArg0 [] 0 10 ∧ 575 < 576 ∧ (bistOwn.getTile 575).state ≠
     TileState.failed ∧ (∀ (i : CtxId), (bistOwn.getTile 575).ctx = some i → bistOwn.owns core0 i.slot = true) ∧ bistOwn.tileUnticketed 575 =
     false ∧ false = false)
    ∧ ((bist 575 { state := TileState.failed : Tile }).absent srcClo = false ∧ (bist 575 { state := TileState.failed : Tile }).cloOp = none ∧ 575 =
     (bist 575 { state := TileState.failed : Tile }).fld RegName.cloArg0 [] 0 10 ∧ 575 < 576 ∧ ((bist 575
     { state := TileState.failed : Tile }).getTile 575).state = TileState.failed)
    ∧ ({ bistQueued := true, pc := 2 : Tile } = (bist 7 { bistQueued := true, pc := 2 : Tile }).getTile 7 ∧
     { bistQueued := true, pc := 2 : Tile }.bistQueued = true ∧ (bist 7 { bistQueued := true, pc := 2 : Tile }).tileUnticketed 7 = true)
    ∧ ({ state := TileState.bist, bistFrom := TileState.spare : Tile } = (bist 7
     { state := TileState.bist, bistFrom := TileState.spare : Tile }).getTile 7 ∧
     { state := TileState.bist, bistFrom := TileState.spare : Tile }.state = TileState.bist)
    ∧ ({ state := TileState.bist, bistFrom := TileState.spare : Tile } = (bist 7
     { state := TileState.bist, bistFrom := TileState.spare : Tile }).getTile 7 ∧
     { state := TileState.bist, bistFrom := TileState.spare : Tile }.bistQueued = false)
    ∧ ({ unclear := true, pc := 4 : Tile } = unclearS.getTile 7 ∧ { unclear := true, pc := 4 : Tile }.unclear = true ∧
     { unclear := true, pc := 4 : Tile }.ctx = none ∧ { unclear := true, pc := 4 : Tile }.state ≠ TileState.bist ∧ unclearS.tileQuiet 7 = true)
    ∧ ({ : Tile } = (bist 7 { : Tile }).getTile 7 ∧ { : Tile }.unclear = false)
    ∧ ({ : FrameInfo } = KMap.get { : FrameInfo } (zeroS.getHbm 1).frames 1 ∧ 1 < grantFrames ∧ (zeroS.getHbm 1).phase = MemPhase.ready ∧
     (zeroS.getHbm 1).mem.wf = true ∧ { : FrameInfo }.held = false ∧ { : FrameInfo }.clean = false ∧ { : FrameInfo }.retired = false)
    ∧ ({ clean := true : FrameInfo } = KMap.get { : FrameInfo } (zeroClean.getHbm 1).frames 17407 ∧ { clean := true : FrameInfo }.clean = true)
    ∧ ({ : FrameInfo } = KMap.get { : FrameInfo } (zeroCxl.getHbm 1).frames 1 ∧ 1 ∈ zeroCxl.cxlFree 1 ∧ ¬1 ∈ (zeroCxl.getCxl 1).clean ∧
     (zeroCxl.getCxl 1).mem.wf = true)
    ∧ ({ : FrameInfo } = KMap.get { : FrameInfo } (zeroCxl.getHbm 1).frames 999999 ∧ ¬999999 ∈ zeroCxl.cxlFree 1) := by
  and_intros <;> first | decide +kernel | rfl
theorem witness_ContextsEnd :
    (CloTakes w2 core0 3 ∧ w3 = w2.getCtx 3 ∧ (w3.state = CtxState.saving ∨ w3.state = CtxState.restoring))
    ∧ (CloTakes (full 0 0 0) core0 3 ∧ ctxFull = (full 0 0 0).getCtx 3 ∧ ctxFull.state ≠ CtxState.saving ∧ ctxFull.state ≠ CtxState.restoring)
    ∧ (CloTakes prepS core0 3 ∧ ctxPrep = prepS.getCtx 3 ∧ ctxPrep.state ≠ CtxState.saving ∧ ctxPrep.state ≠ CtxState.restoring)
    ∧ (((quarS 0).getCtx ↑3).state = CtxState.quarantine ∧ BitVec.toNat ((quarS 0).getCtx ↑3).quarUntil ≤ (quarS 0).mtN ∧ ((quarS 0).getCtx
     ↑3).part.state = PartState.free)
    ∧ (((quarS 1).getCtx ↑3).state = CtxState.quarantine ∧ ((quarS 1).mtN < BitVec.toNat ((quarS 1).getCtx ↑3).quarUntil ∨ ((quarS 1).getCtx
     ↑3).part.state ≠ PartState.free)) := by
  and_intros <;> first | decide +kernel | rfl
theorem witness_Saving :
    (ctx3 = (clo ctx3 0 10000000 0).getCtx ↑3 ∧ CloTakes (clo ctx3 0 10000000 0) core0 ↑3 ∧ (clo ctx3 0 10000000 0).cloA1 ≤ 10000000 ∧ ctx3.state
     = CtxState.opened ∧ ctx3.part.state ≠ PartState.prepared ∧ ctx3.plan.active = false)
    ∧ (ctxRun = (clo ctxRun 0 0 0).getCtx ↑3 ∧ CloTakes (clo ctxRun 0 0 0) core0 ↑3 ∧ (clo ctxRun 0 0 0).cloA1 ≤ 10000000 ∧ ctxRun.state =
     CtxState.opened ∧ ctxRun.part.state ≠ PartState.prepared ∧ ctxRun.plan.active = true ∧ ctxRun.part.multi = false)
    ∧ (ctxSaving = (clo ctxSaving 0 0 0).getCtx ↑3 ∧ ctxSaving.state = CtxState.saving ∧ ctxSaving.drained = false ∧ (clo ctxSaving 0 0 0).drainDone
     ↑3 = true)
    ∧ (ctxBusyT = busyT.getCtx ↑3 ∧ ctxBusyT.state = CtxState.saving ∧ ctxBusyT.drained = false ∧ busyT.drainDone ↑3 = false)
    ∧ (ctxSaving = (withCtx ctxSaving).getCtx ↑3 ∧ ctxSaving.state = CtxState.saving ∧ ctxSaving.drained = false ∧ (withCtx ctxSaving).mtN <
     ctxSaving.drainFrom + min 3750000 ((withCtx ctxSaving).fld RegName.cloDrainLimit [] 0 32))
    ∧ (savedS.getCtx 3 = savedS.getCtx ↑3 ∧ (savedS.getCtx 3).state = CtxState.saving ∧ (savedS.getCtx 3).drained = true ∧ savedS.cloOp = some
     (CloOp.preempt ↑3))
    ∧ (ctxSaving = timeoutS.getCtx ↑3 ∧ ctxSaving.state = CtxState.saving ∧ ctxSaving.drained = false ∧ ctxSaving.drainFrom + min 3750000
     (timeoutS.fld RegName.cloDrainLimit [] 0 32) ≤ timeoutS.mtN ∧ timeoutS.cloOp = some (CloOp.preempt ↑3)) := by
  and_intros <;> first | decide +kernel | rfl
theorem witness_Restoring :
    (w5 = w4.getCtx 3 ∧ CloTakes w4 core0 3 ∧ w4.flt.fatal = false ∧ w5.state = CtxState.saved ∧ w5.save = some area1 ∧ (w5.saveDead = true ∨
     w5.badTiles ≠ []))
    ∧ (ctxSaved = (savS ctxSaved).getCtx 3 ∧ CloTakes (savS ctxSaved) core0 3 ∧ (savS ctxSaved).flt.fatal = false ∧ ctxSaved.state = CtxState.saved
     ∧ ctxSaved.save = some area1 ∧ ctxSaved.saveDead = false ∧ ctxSaved.badTiles = [] ∧ regrant (savS ctxSaved) 3 area1 = some ((regrant (savS
     ctxSaved) 3 area1).getD base))
    ∧ (ctxSaved = noLink.getCtx 3 ∧ CloTakes noLink core0 3 ∧ noLink.flt.fatal = false ∧ ctxSaved.state = CtxState.saved ∧ ctxSaved.save = some
     area1 ∧ ctxSaved.saveDead = false ∧ ctxSaved.badTiles = [] ∧ regrant noLink 3 area1 = none)
    ∧ (ctxRest = restS.getCtx 3 ∧ ↑3 = 3 ∧ ctxRest.state = CtxState.restoring ∧ ctxRest.save = some area1 ∧ KMap.get 0 restS.net.unlockAt 3 ≤
     restS.mtN ∧ restS.cloOp = some (CloOp.resume 3) ∧ ctxRest.tiles.Nodup ∧ area1.links.Nodup)
    ∧ (ctxRest = restLocked.getCtx 3 ∧ ↑3 = 3 ∧ ctxRest.state = CtxState.restoring ∧ restLocked.mtN < KMap.get 0 restLocked.net.unlockAt 3)
    ∧ (ctxSrc = (rebS 1 2).getCtx 3 ∧ CloTakes (rebS 1 2) core0 3 ∧ (rebS 1 2).flt.fatal = false ∧ core0 ≠ Accessor.vc3 ∧ 2 = (rebS 1 2).cloA1 ∧ 2 ≤
     255 ∧ 2 % 2 = 0 ∧ ctxSrc.part.state ≠ PartState.prepared ∧ (rebS 1 2).freeSlot.isSome = true ∧ ((rebS 1 2).takeFrames 8).isSome = true ∧
     ctxSrc.state = CtxState.opened ∧ ctxSrc.plan.active = false ∧ (rebS 1 2).cloType = 1 ∧ hasType 2 2 = false ∧ hasType 2 3 = false ∧ hasType 2
     5 = false ∧ hasType 2 6 = false)
    ∧ (ctxSrc = (rebS 0 254).getCtx 3 ∧ CloTakes (rebS 0 254) core0 3 ∧ (rebS 0 254).flt.fatal = false ∧ core0 ≠ Accessor.vc3 ∧ (rebS 0 254).cloType
     = 0 ∧ 254 = (rebS 0 254).cloA1 ∧ 254 ≤ 255 ∧ 254 % 2 = 0 ∧ (ctxSrc.state = CtxState.opened ∨ ctxSrc.state = CtxState.saved) ∧
     (ctxSrc.part.multi = false ∨ ctxSrc.plan.active = false) ∧ ctxSrc.part.state ≠ PartState.prepared ∧ (rebS 0 254).freeSlot = some 0 ∧ (rebS 0
     254).takeFrames 8 = some ((rebFs 0 254).fst, (rebFs 0 254).snd)) := by
  and_intros <;> first | decide +kernel | rfl

end TL

/-! ### Images and partitions -/

namespace TM

def ldr (c : Ctx) (src len : Nat) : State := regs (withCtx c) [(.ldrSrc, [], Word.ofNat src), (.ldrLen, [], Word.ofNat len)]
def id3 : CtxId := { slot := 3, gen := 5 }
def idBad : CtxId := { slot := 3, gen := 6 }
def loadable : Ctx := { ctx3 with tiles := [7], image := none, lostMark := true }
def ldrGood : State := ((ldr loadable 0x1000000000 64).setRg .mgtAper [2] (Word.ofNat (163 + 2 ^ 32))).modVault 0 fun v => { v with queue := [(3, [])] }
def w1 := ldr { loadable with plan := { state := .armed } } 0x1000000000 64
def w2 := { loadable with plan := { state := .armed } }
def ldrBytes : Loader := { ctx := id3, bytes := [0, 0], tiles := [] }
def inLoad : State := { withCtx ctx3 with loader := some ldrBytes }
def partS (c : Ctx) (part gen origin extent : Nat) : State :=
  regs (withCtx c) [(.netPartArg0, [], Word.ofNat (163 + 65536 * part + 2 ^ 32 * gen)), (.netPartArg1, [], Word.ofNat (origin + 32768 * extent)), (.netPartArg2, [], 0x1000000), (.netPartArg3, [], 100)]
def imgFront : List Byte :=
  leBytes 4 0x4C505753 ++ [0, 1, 7, 0] ++ leBytes 8 272 ++ leBytes 4 1 ++ leBytes 4 0 ++ leBytes 2 1 ++ [0, 0, 1, 0] ++ leBytes 2 0 ++ leBytes 4 2
    ++ leBytes 4 128 ++ leBytes 4 0 ++ List.replicate 84 0
    ++ (leBytes 2 1 ++ leBytes 2 65535 ++ leBytes 2 65535 ++ leBytes 2 65535 ++ leBytes 8 176 ++ leBytes 8 32)
    ++ (leBytes 2 2 ++ leBytes 2 65535 ++ leBytes 2 65535 ++ leBytes 2 65535 ++ leBytes 8 208 ++ leBytes 8 8)
    ++ (leBytes 4 0 ++ leBytes 4 1 ++ leBytes 4 0 ++ leBytes 4 0 ++ List.replicate 16 0)
    ++ (leBytes 4 100 ++ leBytes 4 1) ++ List.replicate 8 0
def img : List Byte := imgFront ++ sha384 imgFront
def imgCtx : Ctx := { ctx3 with tiles := List.range 32, hbm := [{ unit := 0, frame := 9 }], part := { state := .joined, part := 2, gen := 1, ctxGen := 5 } }
def imgLoader : Loader := { ctx := { slot := 3, gen := 5 }, bytes := img, tiles := List.range 32 }
def imgS : State := { (withCtx imgCtx).each (List.range 32) (fun s t => s.modTile t fun x => { x with state := .granted, ctx := some { slot := 3, gen := 5 }, power := .deep, bank := .active }) with loader := some imgLoader }
def imgS1 : State := imgS.setRg .ldrChip [] (Word.ofNat 0)
def topo2 (s : State) : State := s.setRg .netTopo [] 1
def joinS : State := topo2 (partS ctx3 7 2 0 1)
def joinBad : State := { joinS with failedB := [srcLnk 1] }
def partCtx (st : PartState) : Ctx := { ctx3 with part := { state := st, part := 7, gen := 2, ctxGen := 5, extent := 1, origin := 0, relFrom := 3 }, links := [0, 1] }
def relS : State := topo2 (withCtx (partCtx .releasing))
def relS2 : State := relS.modLink 0 fun x => { x with state := .up, farPart := 7, farGen := 2 }
def w3 := relS2.setCtx 3 { partCtx .releasing with part := { (partCtx .releasing).part with relFrom := 0 } }
def w4 := { partCtx .releasing with part := { (partCtx .releasing).part with relFrom := 0 } }
def quar (d : Word) : State := (base.setRg .netPartQuar [63] 65543).setPartQuar 63 d
def kidS (st : PartState) (len : Nat) : State := (topo2 (partS (partCtx st) 7 2 0 0)).setRg .netPartArg3 [] (Word.ofNat len) |>.modLink 0 fun x => { x with state := .up, farPart := 7, farGen := 2 }
def kidS1 (st : PartState) (len : Nat) : State := (kidS st len).modLink 1 fun x => { x with state := .up, farPart := 7, farGen := 2 }
def recvCtx (stage : Nat) (i : ImgRecv) : Ctx := { (partCtx .joined) with part := { (partCtx .joined).part with staging := 0x1010000000, stageLen := stage, img := i } }
def recvS (stage : Nat) (i : ImgRecv) : State := (kidS1 .joined 5).setCtx 3 (recvCtx stage i)
def w5 := { recvS 272 {} with loader := some imgLoader }
def susS : State := (kidS1 .joined 5).setCtx 3 { recvCtx 10 {} with part := { (recvCtx 10 {}).part with state := .suspended } }
def leftS : State := (kidS1 .joined 5).setCtx 3 { recvCtx 272 {} with part := { (recvCtx 272 {}).part with state := .releasing } }
def atMt (s : State) (m : Word) : State := { s with time := { s.time with mt := m } }
def w6 := { atMt (recvS 9 { state := .loadWait }) 125000 with loader := some imgLoader }
def im0 : Image := { id := List.replicate 48 1, chip := 0, chips := 2, minQuota := 0, isLead := true, serving := false, dhop := 0, variants := [], var0 := 0, var1 := 0, vrows := 1, vocab := 0, links := 1, segs := [], streams := [], slots := [], routes := [] }
def ans (s : State) (k : Nat) (off : Word) : (Nat × Nat) × State :=
  let e := (s.getCtx k).part
  ownAnswer s k { opc := 1, part := e.part, gen := e.gen, origin := e.origin, extent := e.extent, coord := s.self, resume := s.bit .netPartArg1 [] 30,
                          deadline := s.time.mt + off, tlOrP := if s.bit .netPartArg1 [] 30 then (s.getCtx k).preemptP else 0,
                          imageId := match (s.getCtx k).image with
                            | some im => im.id
                            | none => List.replicate 48 0 }
def lauS : State := { (kidS1 .joined 0) with time := { State.reset.time with sync := .locked } }
def oneCtx : Ctx := { ctx3 with tiles := [4, 5], image := some { im0 with chips := 1, links := 0 }, part := { state := .joined, part := 7, gen := 2, ctxGen := 5 } }
def oneS : State := ({ (partS oneCtx 7 2 0 0).setRg .netPartArg2 [] 0 with time := { State.reset.time with sync := .locked } }).modTile 4 fun x => { x with power := .run }
def partCtxC (st : PartState) (r : Option Reduce) : Ctx := { partCtx st with part := { (partCtx st).part with coordinator := true, launch := r } }
def red (coord att : Nat) (w : List Nat) : Reduce := { coord := coord, attempt := att, waiting := w, deadline := 100, answers := [{ child := 0, status := 0 }] }
def cS (c : Ctx) : State := (kidS1 .joined 0).setCtx 3 c
def msg (p : Nat) (src coord : Coord) (att : BitVec 8) : LaunchMsg := { src := src, part := 7, gen := 2, coord := coord, attempt := att, tlOrP := BitVec.ofNat 64 p, deadline := 200, origin := 0, extent := 1, imageId := im0.id }
def ansM (s : State) (m : LaunchMsg) := ownAnswer s 3 (LaunchMsg.toBody m 1)
def yP (s : State) (m : LaunchMsg) (st reason : Nat) : Reduce :=
  { coord := m.coord.toNat, gen := m.gen.toNat, attempt := m.attempt.toNat, deadline := m.deadline, resume := m.resume, tlOrP := m.tlOrP,
    imageId := m.imageId, waiting := (s.splitChildren 3 m.coord.toNat).2.map s.farOf,
    answers := { child := s.self, status := st, reason := reason, fail := if st = 0 then none else some s.self, tie := s.self } :: (s.splitChildren 3 m.coord.toNat).1 }
def msg1 : LaunchMsg := { msg 0 1 1 3 with extent := 0 }
def conS : State := cS (partCtxC .prepared (some (red 0 3 [1])))
def ansCtx (coord : Nat) (st : Nat) (w : List Nat) : Ctx := partCtxC .prepared (some { red coord 3 w with answers := [{ child := 0, status := st }] })
def yy (x : Reduce) (m : LaunchMsg) : Reduce := x.take m.src.toNat (LaunchMsg.toBody m 2)
def msgNo : LaunchMsg := { msg 0 1 0 3 with status := 6, reason := 4 }
def relCtx (w : List Nat) : Ctx := { partCtx .joined with part := { (partCtx .joined).part with relays := [red 1 3 w] } }
def retCtx (d : Word) : Ctx := partCtxC .joined (some { red 0 3 [] with retryAt := some 50, deadline := d })
def retR (d : Word) : Reduce := { red 0 3 [] with retryAt := some 50, deadline := d }
def comCtx (held : Bool) : Ctx := { partCtx .prepared with tiles := [4, 5], part := { (partCtx .prepared).part with launch := some (red 1 3 []) }, plan := { state := if held then .ended else .idle, held := held, pcy := 9 } }
def w7 := (cS (comCtx true)).modTile 4 fun x => { x with power := .run }
def runCtxM (st : PlanState) : Ctx := { partCtx .committed with tiles := [4, 5], plan := { state := st, pcy := 9, stopP := some 8 } }
def preCtx (c : Ctx) (coord : Nat) (w : List Nat) : Ctx := { c with part := { c.part with preempt := some (red coord 0 w), preUntil := some 500 } }
def y7 (x : Reduce) (m : LaunchMsg) : Reduce := x.take m.src.toNat (LaunchMsg.toBody m 7)
def msgLate : LaunchMsg := { msg 0 1 0 0 with status := 1 }
def w8 := { (cS (preCtx (runCtxM .stopped) 0 [1])) with cloOp := some (.preempt 3) }
def preEnd : State := { atMt (cS (preCtx (runCtxM .ended) 1 [])) 500 with cloOp := some (.preempt 3) }
def ledS : State := regs base [(.netLedgerBar, [3], 5 <<< 32), (.netLedgerBar, [1], 5 <<< 32), (.netLedgerHold, [1], 9), (.netLedgerBar, [5], 6 <<< 32)]
theorem witness_ImageLoads :
    (ldrGood.absent srcClo = false ∧ idBad = CtxId.ofNat (BitVec.toNat (195 : Word)) ∧ loadable = ldrGood.getCtx idBad.slot ∧ 68719476736 =
     BitVec.toNat (ldrGood.rg RegName.ldrSrc) ∧ 64 = BitVec.toNat (ldrGood.rg RegName.ldrLen) ∧ (ldrGood.live idBad = false ∧ 4 = 4))
    ∧ (ldrGood.absent srcClo = false ∧ id3 = CtxId.ofNat (BitVec.toNat (163 : Word)) ∧ loadable = ldrGood.getCtx id3.slot ∧ 68719476736 =
     BitVec.toNat (ldrGood.rg RegName.ldrSrc) ∧ 64 = BitVec.toNat (ldrGood.rg RegName.ldrLen) ∧ (ldrGood.live id3 = true ∧ ldrGood.owns
     (Accessor.mgt (1 : Fin 8)) id3.slot = false ∧ 3 = 3))
    ∧ ((ldr loadable 68719476768 64).absent srcClo = false ∧ id3 = CtxId.ofNat (BitVec.toNat (163 : Word)) ∧ loadable = (ldr loadable 68719476768
     64).getCtx id3.slot ∧ 68719476768 = BitVec.toNat ((ldr loadable 68719476768 64).rg RegName.ldrSrc) ∧ 64 = BitVec.toNat ((ldr loadable
     68719476768 64).rg RegName.ldrLen) ∧ ((ldr loadable 68719476768 64).live id3 = true ∧ (ldr loadable 68719476768 64).owns core0 id3.slot =
     true ∧ (68719476768 % 64 ≠ 0 ∨ mgtRange 68719476768 64 false = false) ∧ 6 = 6))
    ∧ (w1.absent srcClo = false ∧ id3 = CtxId.ofNat (BitVec.toNat (163 : Word)) ∧ w2 = w1.getCtx id3.slot ∧ 68719476736 = BitVec.toNat (w1.rg
     RegName.ldrSrc) ∧ 64 = BitVec.toNat (w1.rg RegName.ldrLen) ∧ (w1.live id3 = true ∧ w1.owns core0 id3.slot = true ∧ 68719476736 % 64 = 0 ∧
     mgtRange 68719476736 64 false = true ∧ w1.canLoad id3.slot = false ∧ 1 = 1))
    ∧ (ldrGood.absent srcClo = false ∧ id3 = CtxId.ofNat (BitVec.toNat (163 : Word)) ∧ loadable = ldrGood.getCtx id3.slot ∧ 68719476736 =
     BitVec.toNat (ldrGood.rg RegName.ldrSrc) ∧ 64 = BitVec.toNat (ldrGood.rg RegName.ldrLen) ∧ ldrGood.live id3 = true ∧ ldrGood.owns core0
     id3.slot = true ∧ 68719476736 % 64 = 0 ∧ mgtRange 68719476736 64 false = true ∧ ldrGood.canLoad id3.slot = true)
    ∧ (inLoad.loader = some ldrBytes ∧ ldrBytes.repairs = [] ∧ Img.parse ldrBytes.bytes = Img.parse ldrBytes.bytes ∧ (Img.parse
     ldrBytes.bytes).pass1 true = some { code := 1 : Reject })
    ∧ (inLoad.loader = some ldrBytes ∧ ldrBytes.repairs = [] ∧ Img.parse ldrBytes.bytes = Img.parse ldrBytes.bytes)
    ∧ (inLoad.loader = some ldrBytes ∧ ldrBytes.repairs = [] ∧ Img.parse ldrBytes.bytes = Img.parse ldrBytes.bytes ∧ true = true)
    ∧ (inLoad.loader = some ldrBytes ∧ ldrBytes.repairs = [] ∧ Img.parse ldrBytes.bytes = Img.parse ldrBytes.bytes ∧ false = false ∧
     (ldrBytes.bytes.length < 256 ∨ leAt ldrBytes.bytes 0 4 ≠ 1280333651 ∨ leAt ldrBytes.bytes 5 1 ≠ 1 ∨ sha384 (List.take (ldrBytes.bytes.length
     - 48) ldrBytes.bytes) ≠ List.drop (ldrBytes.bytes.length - 48) ldrBytes.bytes))
    ∧ (imgS.loader = some imgLoader ∧ imgLoader.repairs = [] ∧ Img.parse img = Img.parse imgLoader.bytes ∧ (Img.parse img).pass1 false = none ∧
     imgS.pass2 imgLoader.ctx.slot (Img.parse img) = none ∧ imgS.member imgLoader.ctx.slot (Img.parse img) = some 0 ∧ imgS1 = imgS.setRg
     RegName.ldrChip [] (Word.ofNat 0) ∧ imgS1.laterPasses imgLoader.ctx.slot (Img.parse img) 0 imgLoader.tiles = none ∧ imgS1.bankWaits
     imgLoader.ctx.slot (Img.parse img) 0 = false ∧ imgLoader.tiles.Nodup ∧ 32 * (Img.parse img).h.vrows ≤ imgLoader.tiles.length) := by
  and_intros <;> first | decide +kernel | rfl
theorem witness_Membership :
    (PartTakes (partS ctx3 0 1 0 0) core0 3 ∧ ctx3 = (partS ctx3 0 1 0 0).getCtx 3 ∧ 0 = (partS ctx3 0 1 0 0).fld RegName.netPartArg0 [] 16 16 ∧ 1
     = (partS ctx3 0 1 0 0).fld RegName.netPartArg0 [] 32 8 ∧ 0 = (partS ctx3 0 1 0 0).fld RegName.netPartArg1 [] 0 15 ∧ 0 = (partS ctx3 0 1 0
     0).fld RegName.netPartArg1 [] 15 15 ∧ [] = (partS ctx3 0 1 0 0).internalLinks 0 0 ∧ (∀ (l : Nat), l ∈ [] → (partS ctx3 0 1 0 0).absent
     (srcLnk l) = false) ∧ 0 = 0)
    ∧ (PartTakes joinS core0 3 ∧ ctx3 = joinS.getCtx 3 ∧ 7 = joinS.fld RegName.netPartArg0 [] 16 16 ∧ 2 = joinS.fld RegName.netPartArg0 [] 32 8 ∧ 0
     = joinS.fld RegName.netPartArg1 [] 0 15 ∧ 1 = joinS.fld RegName.netPartArg1 [] 15 15 ∧ [0, 1] = joinS.internalLinks 0 1 ∧ (∀ (l : Nat), l ∈
     [0, 1] → joinS.absent (srcLnk l) = false) ∧ 7 ≠ 0 ∧ 2 ≠ 0 ∧ (∀ (i : Nat), i < 3 → axis 1 i < joinS.size i ∧ axis 0 i < joinS.size i) ∧
     joinS.inBox joinS.self 0 1 = true ∧ (∀ (l : Nat), l ∈ ctx3.links → l ∈ [0, 1]) ∧ ctx3.part.state = PartState.free ∧ ctx3.state =
     CtxState.opened ∧ (∀ (l : Nat), l ∈ [0, 1] → ¬l ∈ ctx3.links → joinS.linkFree l = true))
    ∧ (PartTakes joinBad core0 3 ∧ ctx3 = joinBad.getCtx 3 ∧ 7 = joinBad.fld RegName.netPartArg0 [] 16 16 ∧ 2 = joinBad.fld RegName.netPartArg0 []
     32 8 ∧ 0 = joinBad.fld RegName.netPartArg1 [] 0 15 ∧ 1 = joinBad.fld RegName.netPartArg1 [] 15 15 ∧ [0, 1] = joinBad.internalLinks 0 1 ∧ (∃
     l, l ∈ [0, 1] ∧ joinBad.absent (srcLnk l) = true))
    ∧ (PartTakes (topo2 (partS (partCtx PartState.joined) 7 2 0 1)) core0 3 ∧ partCtx PartState.joined = (topo2 (partS (partCtx PartState.joined) 7
     2 0 1)).getCtx 3 ∧ 7 = (topo2 (partS (partCtx PartState.joined) 7 2 0 1)).fld RegName.netPartArg0 [] 16 16 ∧ 2 = (topo2 (partS (partCtx
     PartState.joined) 7 2 0 1)).fld RegName.netPartArg0 [] 32 8 ∧ 0 = (topo2 (partS (partCtx PartState.joined) 7 2 0 1)).fld RegName.netPartArg1
     [] 0 15 ∧ 1 = (topo2 (partS (partCtx PartState.joined) 7 2 0 1)).fld RegName.netPartArg1 [] 15 15 ∧ [0, 1] = (topo2 (partS (partCtx
     PartState.joined) 7 2 0 1)).internalLinks 0 1 ∧ (∀ (l : Nat), l ∈ [0, 1] → (topo2 (partS (partCtx PartState.joined) 7 2 0 1)).absent (srcLnk
     l) = false) ∧ 7 ≠ 0 ∧ 2 ≠ 0 ∧ (∀ (i : Nat), i < 3 → axis 1 i < (topo2 (partS (partCtx PartState.joined) 7 2 0 1)).size i ∧ axis 0 i < (topo2
     (partS (partCtx PartState.joined) 7 2 0 1)).size i) ∧ (topo2 (partS (partCtx PartState.joined) 7 2 0 1)).inBox (topo2 (partS (partCtx
     PartState.joined) 7 2 0 1)).self 0 1 = true ∧ (∀ (l : Nat), l ∈ (partCtx PartState.joined).links → l ∈ [0, 1]) ∧ ((partCtx
     PartState.joined).part.state ≠ PartState.free ∨ (partCtx PartState.joined).state ≠ CtxState.opened))
    ∧ (PartTakes (partS ctx3 0 0 0 0) core0 3 ∧ ctx3 = (partS ctx3 0 0 0 0).getCtx 3 ∧ ctx3.part.state = PartState.free)
    ∧ (PartTakes (partS (partCtx PartState.prepared) 0 0 0 0) core0 3 ∧ partCtx PartState.prepared = (partS (partCtx PartState.prepared) 0 0 0
     0).getCtx 3 ∧ ((partCtx PartState.prepared).part.state = PartState.prepared ∨ (partCtx PartState.prepared).part.state = PartState.committed ∨
     (partCtx PartState.prepared).part.state = PartState.releasing))
    ∧ (PartTakes (partS (partCtx PartState.joined) 0 0 0 0) core0 3 ∧ partCtx PartState.joined = (partS (partCtx PartState.joined) 0 0 0 0).getCtx 3
     ∧ (partCtx PartState.joined).part.state = PartState.joined)
    ∧ (PartTakes (partS (partCtx PartState.suspended) 0 0 0 0) core0 3 ∧ partCtx PartState.suspended = (partS (partCtx PartState.suspended) 0 0 0
     0).getCtx 3 ∧ (partCtx PartState.suspended).part.state = PartState.suspended)
    ∧ (partCtx PartState.releasing = relS.getCtx ↑3 ∧ (partCtx PartState.releasing).part.state = PartState.releasing ∧ relS.releaseDone ↑3 = true)
    ∧ (w4 = w3.getCtx ↑3 ∧ (w4.part.state ≠ PartState.releasing ∨ w3.releaseDone ↑3 = false))
    ∧ ((quar 0).bit RegName.netPartQuar [↑63] 16 = true ∧ BitVec.toNat (KMap.get 0 (quar 0).partQuar ↑63) ≤ (quar 0).mtN)
    ∧ ((quar 1).bit RegName.netPartQuar [↑63] 16 = true ∧ (quar 1).mtN < BitVec.toNat (KMap.get 0 (quar 1).partQuar ↑63))
    ∧ ((partS ctx3 1 1 0 0).absent srcNet = false ∧ (Instr.abort Accessor.sp = Instr.join Accessor.sp ∨ Instr.abort Accessor.sp = Instr.leave
     Accessor.sp ∨ Instr.abort Accessor.sp = Instr.distribute Accessor.sp ∨ Instr.abort Accessor.sp = Instr.launch Accessor.sp ∨ Instr.abort
     Accessor.sp = Instr.abort Accessor.sp) ∧ (partS ctx3 1 1 0 0).live (partS ctx3 1 1 0 0).partArg = true) := by
  and_intros <;> first | decide +kernel | rfl
theorem witness_ImageDistribution :
    (SampleOff (kidS PartState.joined 0) ∧ PartTakes (kidS PartState.joined 0) core0 3 ∧ 0 = BitVec.toNat ((kidS PartState.joined 0).rg
     RegName.netPartArg3) ∧ (((kidS PartState.joined 0).getCtx 3).part.state = PartState.free ∨ 0 = 0))
    ∧ (SampleOff (kidS PartState.suspended 5) ∧ PartTakes (kidS PartState.suspended 5) core0 3 ∧ 5 = BitVec.toNat ((kidS PartState.suspended 5).rg
     RegName.netPartArg3) ∧ (((kidS PartState.suspended 5).getCtx 3).part.state = PartState.suspended ∨ ((kidS PartState.suspended 5).getCtx
     3).part.state = PartState.releasing) ∧ 5 ≠ 0)
    ∧ (SampleOff (kidS1 PartState.prepared 4096) ∧ PartTakes (kidS1 PartState.prepared 4096) core0 3 ∧ 4096 = BitVec.toNat ((kidS1
     PartState.prepared 4096).rg RegName.netPartArg3) ∧ (((kidS1 PartState.prepared 4096).getCtx 3).part.state = PartState.joined ∨ ((kidS1
     PartState.prepared 4096).getCtx 3).part.state = PartState.prepared ∨ ((kidS1 PartState.prepared 4096).getCtx 3).part.state =
     PartState.committed) ∧ 4096 ≠ 0 ∧ 4096 ≤ 4096)
    ∧ (SampleOff (recvS 10 { : ImgRecv }) ∧ (recvS 10 { : ImgRecv }).msgSlot (BitVec.toNat (7 : BitVec 16)) (BitVec.toNat (2 : BitVec 8)) = some 3 ∧
     (recvCtx 10 { : ImgRecv }).part = ((recvS 10 { : ImgRecv }).getCtx 3).part ∧ (recvCtx 10 { : ImgRecv }).part.state ≠ PartState.suspended ∧
     ({ state := ImgState.receiving, length := 10 : ImgRecv } = if (recvCtx 10 { : ImgRecv }).part.img.state ≠ ImgState.receiving ∨ (recvCtx 10
     { : ImgRecv }).part.img.length ≠ 10 ∨ 8 = 0 ∧ ∃ r, r ∈ (recvCtx 10 { : ImgRecv }).part.img.got ∧ r.fst = 0 then
     { state := ImgState.receiving, length := 10 : ImgRecv } else (recvCtx 10 { : ImgRecv }).part.img))
    ∧ (SampleOff (recvS 10 { : ImgRecv }) ∧ (recvS 10 { : ImgRecv }).msgSlot (BitVec.toNat (7 : BitVec 16)) (BitVec.toNat (2 : BitVec 8)) = some 3 ∧
     (recvCtx 10 { : ImgRecv }).part = ((recvS 10 { : ImgRecv }).getCtx 3).part ∧ (recvCtx 10 { : ImgRecv }).part.state ≠ PartState.suspended ∧
     ({ state := ImgState.receiving, length := 10 : ImgRecv } = if (recvCtx 10 { : ImgRecv }).part.img.state ≠ ImgState.receiving ∨ (recvCtx 10
     { : ImgRecv }).part.img.length ≠ 10 ∨ 6 = 0 ∧ ∃ r, r ∈ (recvCtx 10 { : ImgRecv }).part.img.got ∧ r.fst = 0 then
     { state := ImgState.receiving, length := 10 : ImgRecv } else (recvCtx 10 { : ImgRecv }).part.img))
    ∧ (SampleOff (recvS 3 { : ImgRecv }) ∧ (recvS 3 { : ImgRecv }).msgSlot (BitVec.toNat (7 : BitVec 16)) (BitVec.toNat (2 : BitVec 8)) = some 3 ∧
     (recvCtx 3 { : ImgRecv }).part = ((recvS 3 { : ImgRecv }).getCtx 3).part ∧ (recvCtx 3 { : ImgRecv }).part.state ≠ PartState.suspended ∧
     ({ state := ImgState.receiving, length := 3 : ImgRecv } = if (recvCtx 3 { : ImgRecv }).part.img.state ≠ ImgState.receiving ∨ (recvCtx 3
     { : ImgRecv }).part.img.length ≠ 3 ∨ 0 = 0 ∧ ∃ r, r ∈ (recvCtx 3 { : ImgRecv }).part.img.got ∧ r.fst = 0 then
     { state := ImgState.receiving, length := 3 : ImgRecv } else (recvCtx 3 { : ImgRecv }).part.img))
    ∧ (SampleOff (recvS 272 { : ImgRecv }) ∧ (recvS 272 { : ImgRecv }).msgSlot (BitVec.toNat (7 : BitVec 16)) (BitVec.toNat (2 : BitVec 8)) = some 3
     ∧ (recvCtx 272 { : ImgRecv }).part = ((recvS 272 { : ImgRecv }).getCtx 3).part ∧ (recvCtx 272 { : ImgRecv }).part.state ≠ PartState.suspended
     ∧ ({ state := ImgState.receiving, length := 272 : ImgRecv } = if (recvCtx 272 { : ImgRecv }).part.img.state ≠ ImgState.receiving ∨ (recvCtx
     272 { : ImgRecv }).part.img.length ≠ 272 ∨ 0 = 0 ∧ ∃ r, r ∈ (recvCtx 272 { : ImgRecv }).part.img.got ∧ r.fst = 0 then
     { state := ImgState.receiving, length := 272 : ImgRecv } else (recvCtx 272 { : ImgRecv }).part.img))
    ∧ (SampleOff w5 ∧ w5.msgSlot (BitVec.toNat (7 : BitVec 16)) (BitVec.toNat (2 : BitVec 8)) = some 3 ∧ (recvCtx 272 { : ImgRecv }).part =
     (w5.getCtx 3).part ∧ (recvCtx 272 { : ImgRecv }).part.state ≠ PartState.suspended ∧ ({ state := ImgState.receiving, length := 272 : ImgRecv }
     = if (recvCtx 272 { : ImgRecv }).part.img.state ≠ ImgState.receiving ∨ (recvCtx 272 { : ImgRecv }).part.img.length ≠ 272 ∨ 0 = 0 ∧ ∃ r, r ∈
     (recvCtx 272 { : ImgRecv }).part.img.got ∧ r.fst = 0 then { state := ImgState.receiving, length := 272 : ImgRecv } else (recvCtx 272
     { : ImgRecv }).part.img))
    ∧ (SampleOff susS ∧ susS.msgSlot (BitVec.toNat (7 : BitVec 16)) (BitVec.toNat (2 : BitVec 8)) = some 3 ∧ (susS.getCtx 3).part = (susS.getCtx
     3).part ∧ (susS.getCtx 3).part.state = PartState.suspended)
    ∧ (SampleOff leftS ∧ leftS.msgSlot (BitVec.toNat (7 : BitVec 16)) (BitVec.toNat (2 : BitVec 8)) = some 3 ∧ (leftS.getCtx 3).part = (leftS.getCtx
     3).part ∧ (leftS.getCtx 3).part.state ≠ PartState.suspended ∧ ({ state := ImgState.receiving, length := 272 : ImgRecv } = if (leftS.getCtx
     3).part.img.state ≠ ImgState.receiving ∨ (leftS.getCtx 3).part.img.length ≠ 272 ∨ 0 = 0 ∧ ∃ r, r ∈ (leftS.getCtx 3).part.img.got ∧ r.fst = 0
     then { state := ImgState.receiving, length := 272 : ImgRecv } else (leftS.getCtx 3).part.img))
    ∧ (SampleOff (atMt (recvS 9 { state := ImgState.receiving : ImgRecv }) (12500000 : Word)) ∧ recvCtx 9 { state := ImgState.receiving : ImgRecv }
     = (atMt (recvS 9 { state := ImgState.receiving : ImgRecv }) (12500000 : Word)).getCtx 3 ∧ (recvCtx 9
     { state := ImgState.receiving : ImgRecv }).part.img.state = ImgState.receiving ∧ (recvCtx 9
     { state := ImgState.receiving : ImgRecv }).part.img.mt + 12500000 ≤ (atMt (recvS 9 { state := ImgState.receiving : ImgRecv }) (12500000 :
     Word)).mtN)
    ∧ (SampleOff (atMt (recvS 9 { state := ImgState.receiving : ImgRecv }) (12499999 : Word)) ∧ recvCtx 9 { state := ImgState.receiving : ImgRecv }
     = (atMt (recvS 9 { state := ImgState.receiving : ImgRecv }) (12499999 : Word)).getCtx 3 ∧ (recvCtx 9
     { state := ImgState.receiving : ImgRecv }).part.img.state = ImgState.receiving ∧ (atMt (recvS 9 { state := ImgState.receiving : ImgRecv })
     (12499999 : Word)).mtN < (recvCtx 9 { state := ImgState.receiving : ImgRecv }).part.img.mt + 12500000)
    ∧ (SampleOff (atMt (recvS 9 { state := ImgState.loadWait : ImgRecv }) (124999 : Word)) ∧ recvCtx 9 { state := ImgState.loadWait : ImgRecv } =
     (atMt (recvS 9 { state := ImgState.loadWait : ImgRecv }) (124999 : Word)).getCtx 3 ∧ (recvCtx 9
     { state := ImgState.loadWait : ImgRecv }).part.img.state = ImgState.loadWait ∧ (atMt (recvS 9 { state := ImgState.loadWait : ImgRecv })
     (124999 : Word)).mtN < (recvCtx 9 { state := ImgState.loadWait : ImgRecv }).part.img.mt + 125000)
    ∧ (SampleOff (atMt (recvS 9 { state := ImgState.loadWait : ImgRecv }) (125000 : Word)) ∧ recvCtx 9 { state := ImgState.loadWait : ImgRecv } =
     (atMt (recvS 9 { state := ImgState.loadWait : ImgRecv }) (125000 : Word)).getCtx 3 ∧ (recvCtx 9
     { state := ImgState.loadWait : ImgRecv }).part.img.state = ImgState.loadWait ∧ (recvCtx 9
     { state := ImgState.loadWait : ImgRecv }).part.img.mt + 125000 ≤ (atMt (recvS 9 { state := ImgState.loadWait : ImgRecv }) (125000 :
     Word)).mtN ∧ (recvCtx 9 { state := ImgState.loadWait : ImgRecv }).part.state = PartState.joined ∧ (recvCtx 9
     { state := ImgState.loadWait : ImgRecv }).gen = (recvCtx 9 { state := ImgState.loadWait : ImgRecv }).part.ctxGen ∧ (atMt (recvS 9
     { state := ImgState.loadWait : ImgRecv }) (125000 : Word)).canLoad 3 = true)
    ∧ (SampleOff w6 ∧ recvCtx 9 { state := ImgState.loadWait : ImgRecv } = w6.getCtx 3 ∧ (recvCtx 9
     { state := ImgState.loadWait : ImgRecv }).part.img.state = ImgState.loadWait ∧ (recvCtx 9
     { state := ImgState.loadWait : ImgRecv }).part.img.mt + 125000 ≤ w6.mtN ∧ (recvCtx 9 { state := ImgState.loadWait : ImgRecv }).part.state =
     PartState.joined ∧ (recvCtx 9 { state := ImgState.loadWait : ImgRecv }).gen = (recvCtx 9
     { state := ImgState.loadWait : ImgRecv }).part.ctxGen ∧ w6.canLoad 3 = false) := by
  and_intros <;> first | decide +kernel | rfl
theorem witness_Launches :
    (
     SampleOff (kidS1 PartState.prepared 0) ∧ PartTakes (kidS1 PartState.prepared 0) core0 3 ∧ (partCtx PartState.prepared).part = ((kidS1 PartState.prepared 0).getCtx 3).part ∧ (kidS1 PartState.prepared 0).fld RegName.netLaunchLead [] 0 32 = (kidS1 PartState.prepared 0).fld RegName.netLaunchLead [] 0 32 ∧ ((16777216 : Word) = if (kidS1 PartState.prepared 0).rg RegName.netPartArg2 = (0 : Word) then (12500000 : Word) else (kidS1 PartState.prepared 0).rg RegName.netPartArg2) ∧ (ans (kidS1 PartState.prepared 0) 3 (16777216 : Word) = ownAnswer (kidS1 PartState.prepared 0) 3 { opc := 1, part := (partCtx PartState.prepared).part.part, gen := (partCtx PartState.prepared).part.gen, origin := (partCtx PartState.prepared).part.origin, extent := (partCtx PartState.prepared).part.extent, coord := (kidS1 PartState.prepared 0).self, resume := (kidS1 PartState.prepared 0).bit RegName.netPartArg1 [] 30, deadline := (kidS1 PartState.prepared 0).time.mt + (16777216 : Word), tlOrP := if (kidS1 PartState.prepared 0).bit RegName.netPartArg1 [] 30 = true then ((kidS1 PartState.prepared 0).getCtx 3).preemptP else (0 : Word), imageId := match ((kidS1 PartState.prepared 0).getCtx 3).image with | some im => im.id | none => List.replicate 48 (0 : Byte) : LaunchBody }) ∧ (partCtx PartState.prepared).part.state ≠ PartState.joined)
    ∧ (
     SampleOff lauS ∧ PartTakes lauS core0 3 ∧ (partCtx PartState.joined).part = (lauS.getCtx 3).part ∧ lauS.fld RegName.netLaunchLead [] 0 32 = lauS.fld RegName.netLaunchLead [] 0 32 ∧ ((16777216 : Word) = if lauS.rg RegName.netPartArg2 = (0 : Word) then (12500000 : Word) else lauS.rg RegName.netPartArg2) ∧ (ans lauS 3 (16777216 : Word) = ownAnswer lauS 3 { opc := 1, part := (partCtx PartState.joined).part.part, gen := (partCtx PartState.joined).part.gen, origin := (partCtx PartState.joined).part.origin, extent := (partCtx PartState.joined).part.extent, coord := lauS.self, resume := lauS.bit RegName.netPartArg1 [] 30, deadline := lauS.time.mt + (16777216 : Word), tlOrP := if lauS.bit RegName.netPartArg1 [] 30 = true then (lauS.getCtx 3).preemptP else (0 : Word), imageId := match (lauS.getCtx 3).image with | some im => im.id | none => List.replicate 48 (0 : Byte) : LaunchBody }) ∧ (partCtx PartState.joined).part.state = PartState.joined ∧ (lauS.splitChildren 3 lauS.self).snd ≠ [])
    ∧ (
     SampleOff oneS ∧ PartTakes oneS core0 3 ∧ oneCtx.part = (oneS.getCtx 3).part ∧ oneS.fld RegName.netLaunchLead [] 0 32 = oneS.fld RegName.netLaunchLead [] 0 32 ∧ ((12500000 : Word) = if oneS.rg RegName.netPartArg2 = (0 : Word) then (12500000 : Word) else oneS.rg RegName.netPartArg2) ∧ (ans oneS 3 (12500000 : Word) = ownAnswer oneS 3 { opc := 1, part := oneCtx.part.part, gen := oneCtx.part.gen, origin := oneCtx.part.origin, extent := oneCtx.part.extent, coord := oneS.self, resume := oneS.bit RegName.netPartArg1 [] 30, deadline := oneS.time.mt + (12500000 : Word), tlOrP := if oneS.bit RegName.netPartArg1 [] 30 = true then (oneS.getCtx 3).preemptP else (0 : Word), imageId := match (oneS.getCtx 3).image with | some im => im.id | none => List.replicate 48 (0 : Byte) : LaunchBody }) ∧ oneCtx.part.state = PartState.joined ∧ oneS.splitChildren 3 oneS.self = ([], []) ∧ (ans oneS 3 (12500000 : Word)).fst = (0, 0) ∧ oneS.bit RegName.netPartArg1 [] 30 = false ∧ oneS.jrnMode 3 = 0 ∧ (oneS.getCtx 3).image.isSome = true ∧ BitVec.toNat (oneS.time.mt + Word.ofNat (oneS.fld RegName.netLaunchLead [] 0 32)) ≤ BitVec.toNat (oneS.time.mt + (12500000 : Word)) ∧ (oneS.getCtx 3).tiles.Nodup)
    ∧ (SampleOff (cS (partCtx PartState.prepared)) ∧ PartTakes (cS (partCtx PartState.prepared)) core0 3 ∧ (partCtx PartState.prepared).part = ((cS
     (partCtx PartState.prepared)).getCtx 3).part ∧ (partCtx PartState.prepared).part.coordinator = false)
    ∧ (SampleOff (cS (partCtxC PartState.joined (some (red 0 0 [])))) ∧ PartTakes (cS (partCtxC PartState.joined (some (red 0 0 [])))) core0 3 ∧
     (partCtxC PartState.joined (some (red 0 0 []))).part = ((cS (partCtxC PartState.joined (some (red 0 0 [])))).getCtx 3).part ∧ (partCtxC
     PartState.joined (some (red 0 0 []))).part.coordinator = true ∧ ((partCtxC PartState.joined (some (red 0 0 []))).part.state =
     PartState.prepared ∨ (partCtxC PartState.joined (some (red 0 0 []))).part.state = PartState.joined ∧ (partCtxC PartState.joined (some (red 0
     0 []))).part.launch.isSome = true))
    ∧ (SampleOff lauS ∧ lauS.partSlot (msg 0 (1 : Coord) (1 : Coord) (3 : BitVec 8)).part.toNat = some 3 ∧ (partCtx PartState.joined).part =
     (lauS.getCtx 3).part ∧ LaunchMsg.toBody (msg 0 (1 : Coord) (1 : Coord) (3 : BitVec 8)) 1 = LaunchMsg.toBody (msg 0 (1 : Coord) (1 : Coord) (3
     : BitVec 8)) 1 ∧ BitVec.toNat (msg 0 (1 : Coord) (1 : Coord) (3 : BitVec 8)).coord ≠ lauS.self ∧ ((6, 1) = if (partCtx
     PartState.joined).part.conflicts lauS.self (BitVec.toNat (msg 0 (1 : Coord) (1 : Coord) (3 : BitVec 8)).coord) = true then (6, 2) else
     (ownAnswer lauS 3 (LaunchMsg.toBody (msg 0 (1 : Coord) (1 : Coord) (3 : BitVec 8)) 1)).fst) ∧ lauS.splitChildren 3 1 = lauS.splitChildren 3
     (BitVec.toNat (msg 0 (1 : Coord) (1 : Coord) (3 : BitVec 8)).coord) ∧ (yP lauS (msg 0 (1 : Coord) (1 : Coord) (3 : BitVec 8)) 6 1 =
     { coord := BitVec.toNat (msg 0 (1 : Coord) (1 : Coord) (3 : BitVec 8)).coord, gen := (msg 0 (1 : Coord) (1 : Coord) (3 : BitVec 8)).gen.toNat, attempt := (msg 0 (1 : Coord) (1 : Coord) (3 : BitVec 8)).attempt.toNat, deadline := (msg 0 (1 : Coord) (1 : Coord) (3 : BitVec 8)).deadline, resume := (msg 0 (1 : Coord) (1 : Coord) (3 : BitVec 8)).resume, tlOrP := (msg 0 (1 : Coord) (1 : Coord) (3 : BitVec 8)).tlOrP, imageId := (msg 0 (1 : Coord) (1 : Coord) (3 : BitVec 8)).imageId, waiting := List.map lauS.farOf (lauS.splitChildren 3 1).snd, answers := { child := lauS.self, status := 6, reason := 1, fail := if 6 = 0 then none else some lauS.self, tie := lauS.self : LaunchAnswer } :: (lauS.splitChildren 3 1).fst : Reduce }))
    ∧ (SampleOff oneS ∧ oneS.partSlot msg1.part.toNat = some 3 ∧ oneCtx.part = (oneS.getCtx 3).part ∧ LaunchMsg.toBody msg1 1 = LaunchMsg.toBody
     msg1 1 ∧ BitVec.toNat msg1.coord ≠ oneS.self ∧ ((0, 0) = if oneCtx.part.conflicts oneS.self (BitVec.toNat msg1.coord) = true then (6, 2) else
     (ownAnswer oneS 3 (LaunchMsg.toBody msg1 1)).fst) ∧ oneS.splitChildren 3 1 = oneS.splitChildren 3 (BitVec.toNat msg1.coord) ∧ (yP oneS msg1 0
     0 =
     { coord := BitVec.toNat msg1.coord, gen := msg1.gen.toNat, attempt := msg1.attempt.toNat, deadline := msg1.deadline, resume := msg1.resume, tlOrP := msg1.tlOrP, imageId := msg1.imageId, waiting := List.map oneS.farOf (oneS.splitChildren 3 1).snd, answers := { child := oneS.self, status := 0, fail := if 0 = 0 then none else some oneS.self, tie := oneS.self : LaunchAnswer } :: (oneS.splitChildren 3 1).fst : Reduce }))
    ∧ (SampleOff conS ∧ conS.partSlot (msg 0 (1 : Coord) (1 : Coord) (3 : BitVec 8)).part.toNat = some 3 ∧ (conS.getCtx 3).part = (conS.getCtx
     3).part ∧ LaunchMsg.toBody (msg 0 (1 : Coord) (1 : Coord) (3 : BitVec 8)) 1 = LaunchMsg.toBody (msg 0 (1 : Coord) (1 : Coord) (3 : BitVec 8))
     1 ∧ BitVec.toNat (msg 0 (1 : Coord) (1 : Coord) (3 : BitVec 8)).coord ≠ conS.self ∧ ((6, 2) = if (conS.getCtx 3).part.conflicts conS.self
     (BitVec.toNat (msg 0 (1 : Coord) (1 : Coord) (3 : BitVec 8)).coord) = true then (6, 2) else (ownAnswer conS 3 (LaunchMsg.toBody (msg 0 (1 :
     Coord) (1 : Coord) (3 : BitVec 8)) 1)).fst) ∧ conS.splitChildren 3 1 = conS.splitChildren 3 (BitVec.toNat (msg 0 (1 : Coord) (1 : Coord) (3 :
     BitVec 8)).coord) ∧ (yP conS (msg 0 (1 : Coord) (1 : Coord) (3 : BitVec 8)) 6 2 =
     { coord := BitVec.toNat (msg 0 (1 : Coord) (1 : Coord) (3 : BitVec 8)).coord, gen := (msg 0 (1 : Coord) (1 : Coord) (3 : BitVec 8)).gen.toNat, attempt := (msg 0 (1 : Coord) (1 : Coord) (3 : BitVec 8)).attempt.toNat, deadline := (msg 0 (1 : Coord) (1 : Coord) (3 : BitVec 8)).deadline, resume := (msg 0 (1 : Coord) (1 : Coord) (3 : BitVec 8)).resume, tlOrP := (msg 0 (1 : Coord) (1 : Coord) (3 : BitVec 8)).tlOrP, imageId := (msg 0 (1 : Coord) (1 : Coord) (3 : BitVec 8)).imageId, waiting := List.map conS.farOf (conS.splitChildren 3 1).snd, answers := { child := conS.self, status := 6, reason := 2, fail := if 6 = 0 then none else some conS.self, tie := conS.self : LaunchAnswer } :: (conS.splitChildren 3 1).fst : Reduce }))
    ∧ (SampleOff (cS (ansCtx 0 0 [1])) ∧ MsgTo (cS (ansCtx 0 0 [1])) (msg 0 1 0 2) 3 (ansCtx 0 0 [1]).part ∧ (∀ (z : Reduce), z ∈ (ansCtx 0 0
     [1]).part.launch.toList ++ (ansCtx 0 0 [1]).part.relays → z.attempt ≠ (msg 0 1 0 2).attempt.toNat ∨ ¬BitVec.toNat (msg 0 1 0 2).src ∈
     z.waiting))
    ∧ (SampleOff (cS (ansCtx 0 0 [1, 2])) ∧ MsgTo (cS (ansCtx 0 0 [1, 2])) (msg 0 1 0 3) 3 (ansCtx 0 0 [1, 2]).part ∧ (ansCtx 0 0 [1,
     2]).part.launch = some (red 0 3 [1, 2]) ∧ (red 0 3 [1, 2]).attempt = (msg 0 1 0 3).attempt.toNat ∧ BitVec.toNat (msg 0 1 0 3).src ∈ (red 0 3
     [1, 2]).waiting ∧ yy (red 0 3 [1, 2]) (msg 0 1 0 3) = (red 0 3 [1, 2]).take (BitVec.toNat (msg 0 1 0 3).src) (LaunchMsg.toBody (msg 0 1 0 3)
     2) ∧ (red 0 3 [1, 2]).sent = false ∧ (yy (red 0 3 [1, 2]) (msg 0 1 0 3)).waiting ≠ [])
    ∧ (SampleOff (cS (ansCtx 1 0 [1])) ∧ MsgTo (cS (ansCtx 1 0 [1])) (msg 0 1 0 3) 3 (ansCtx 1 0 [1]).part ∧ (ansCtx 1 0 [1]).part.launch = some
     (red 1 3 [1]) ∧ (red 1 3 [1]).attempt = (msg 0 1 0 3).attempt.toNat ∧ BitVec.toNat (msg 0 1 0 3).src ∈ (red 1 3 [1]).waiting ∧ yy (red 1 3
     [1]) (msg 0 1 0 3) = (red 1 3 [1]).take (BitVec.toNat (msg 0 1 0 3).src) (LaunchMsg.toBody (msg 0 1 0 3) 2) ∧ (red 1 3 [1]).sent = false ∧
     (yy (red 1 3 [1]) (msg 0 1 0 3)).waiting = [] ∧ (red 1 3 [1]).coord ≠ (cS (ansCtx 1 0 [1])).self)
    ∧ (SampleOff (cS (ansCtx 0 0 [1])) ∧ MsgTo (cS (ansCtx 0 0 [1])) msgNo 3 (ansCtx 0 0 [1]).part ∧ (ansCtx 0 0 [1]).part.launch = some (red 0 3
     [1]) ∧ (red 0 3 [1]).attempt = msgNo.attempt.toNat ∧ BitVec.toNat msgNo.src ∈ (red 0 3 [1]).waiting ∧ yy (red 0 3 [1]) msgNo = (red 0 3
     [1]).take (BitVec.toNat msgNo.src) (LaunchMsg.toBody msgNo 2) ∧ (red 0 3 [1]).sent = false ∧ (yy (red 0 3 [1]) msgNo).waiting = [] ∧ (red 0 3
     [1]).coord = (cS (ansCtx 0 0 [1])).self ∧ (worst (yy (red 0 3 [1]) msgNo).answers).status = 6 ∧ (ansCtx 0 0 [1]).part.coordinator = true ∧
     ((ansCtx 0 0 [1]).part.state = PartState.joined ∨ (ansCtx 0 0 [1]).part.state = PartState.prepared))
    ∧ (SampleOff (cS (relCtx [1, 2])) ∧ MsgTo (cS (relCtx [1, 2])) (msg 0 1 0 3) 3 (relCtx [1, 2]).part ∧ (∀ (x : Reduce), x ∈ (relCtx [1,
     2]).part.launch → x.attempt ≠ (msg 0 1 0 3).attempt.toNat ∨ ¬BitVec.toNat (msg 0 1 0 3).src ∈ x.waiting) ∧ (relCtx [1, 2]).part.relays = [red
     1 3 [1, 2]] ∧ (red 1 3 [1, 2]).attempt = (msg 0 1 0 3).attempt.toNat ∧ BitVec.toNat (msg 0 1 0 3).src ∈ (red 1 3 [1, 2]).waiting ∧ yy (red 1
     3 [1, 2]) (msg 0 1 0 3) = (red 1 3 [1, 2]).take (BitVec.toNat (msg 0 1 0 3).src) (LaunchMsg.toBody (msg 0 1 0 3) 2) ∧ (yy (red 1 3 [1, 2])
     (msg 0 1 0 3)).waiting ≠ [])
    ∧ (SampleOff (cS (relCtx [1])) ∧ MsgTo (cS (relCtx [1])) (msg 0 1 0 3) 3 (relCtx [1]).part ∧ (∀ (x : Reduce), x ∈ (relCtx [1]).part.launch →
     x.attempt ≠ (msg 0 1 0 3).attempt.toNat ∨ ¬BitVec.toNat (msg 0 1 0 3).src ∈ x.waiting) ∧ (relCtx [1]).part.relays = [red 1 3 [1]] ∧ (red 1 3
     [1]).attempt = (msg 0 1 0 3).attempt.toNat ∧ BitVec.toNat (msg 0 1 0 3).src ∈ (red 1 3 [1]).waiting ∧ yy (red 1 3 [1]) (msg 0 1 0 3) = (red 1
     3 [1]).take (BitVec.toNat (msg 0 1 0 3).src) (LaunchMsg.toBody (msg 0 1 0 3) 2) ∧ (yy (red 1 3 [1]) (msg 0 1 0 3)).waiting = [])
    ∧ (SampleOff (cS (retCtx (100 : Word))) ∧ (retCtx (100 : Word)).part = ((cS (retCtx (100 : Word))).getCtx 3).part ∧ (retCtx (100 :
     Word)).part.launch = some (retR (100 : Word)) ∧ (retR (100 : Word)).retryAt = some (50 : Word) ∧ ((retR (100 : Word)).coord ≠ (cS (retCtx
     (100 : Word))).self ∨ (cS (retCtx (100 : Word))).mtN < BitVec.toNat (50 : Word)))
    ∧ (SampleOff (atMt (cS (retCtx (100 : Word))) (51 : Word)) ∧ (retCtx (100 : Word)).part = ((atMt (cS (retCtx (100 : Word))) (51 : Word)).getCtx
     3).part ∧ (retCtx (100 : Word)).part.launch = some (retR (100 : Word)) ∧ (retR (100 : Word)).retryAt = some (50 : Word) ∧ (retR (100 :
     Word)).coord = (atMt (cS (retCtx (100 : Word))) (51 : Word)).self ∧ BitVec.toNat (50 : Word) ≤ (atMt (cS (retCtx (100 : Word))) (51 :
     Word)).mtN ∧ (retCtx (100 : Word)).part.coordinator = true ∧ BitVec.toNat (retR (100 : Word)).deadline < (atMt (cS (retCtx (100 : Word))) (51
     : Word)).mtN + (atMt (cS (retCtx (100 : Word))) (51 : Word)).fld RegName.netLaunchLead [] 0 32 ∧ ((retCtx (100 : Word)).part.state =
     PartState.joined ∨ (retCtx (100 : Word)).part.state = PartState.prepared))
    ∧ (SampleOff (atMt (cS (retCtx (9999999 : Word))) (50 : Word)) ∧ (retCtx (9999999 : Word)).part = ((atMt (cS (retCtx (9999999 : Word))) (50 :
     Word)).getCtx 3).part ∧ (retCtx (9999999 : Word)).part.launch = some (retR (9999999 : Word)) ∧ (retR (9999999 : Word)).retryAt = some (50 :
     Word) ∧ (retR (9999999 : Word)).coord = (atMt (cS (retCtx (9999999 : Word))) (50 : Word)).self ∧ BitVec.toNat (50 : Word) ≤ (atMt (cS (retCtx
     (9999999 : Word))) (50 : Word)).mtN ∧ (retCtx (9999999 : Word)).part.coordinator = true ∧ (atMt (cS (retCtx (9999999 : Word))) (50 :
     Word)).mtN + (atMt (cS (retCtx (9999999 : Word))) (50 : Word)).fld RegName.netLaunchLead [] 0 32 ≤ BitVec.toNat (retR (9999999 :
     Word)).deadline ∧ ((atMt (cS (retCtx (9999999 : Word))) (50 : Word)).splitChildren (3) (atMt (cS (retCtx (9999999 : Word))) (50 :
     Word)).self).snd ≠ [])
    ∧ (SampleOff (cS (partCtx PartState.joined)) ∧ MsgTo (cS (partCtx PartState.joined)) (msg 77 1 1 3) 3 (partCtx PartState.joined).part ∧ (partCtx
     PartState.joined).part.state ≠ PartState.prepared)
    ∧ (SampleOff w7 ∧ MsgTo w7 (msg 77 1 1 3) 3 (comCtx true).part ∧ (comCtx true).part.launch = some (red 1 3 []) ∧ (comCtx true).part.state =
     PartState.prepared ∧ w7.jrnMode 3 = 0 ∧ ((w7.getCtx 3).plan.state ≠ PlanState.ended ∨ (w7.getCtx 3).plan.held = true) ∧ (w7.getCtx
     3).tiles.Nodup)
    ∧ (SampleOff (cS (comCtx false)) ∧ MsgTo (cS (comCtx false)) (msg 77 1 1 3) 3 (comCtx false).part ∧ (comCtx false).part.launch = some (red 1 3
     []) ∧ (comCtx false).part.state = PartState.prepared ∧ (cS (comCtx false)).jrnMode 3 = 0 ∧ (((cS (comCtx false)).getCtx 3).plan.state ≠
     PlanState.ended ∨ ((cS (comCtx false)).getCtx 3).plan.held = true) ∧ ((cS (comCtx false)).getCtx 3).tiles.Nodup)
    ∧ (SampleOff (cS (comCtx false)) ∧ MsgTo (cS (comCtx false)) (msg 77 1 1 3) 3 (comCtx false).part ∧ (comCtx false).part.coordinator = false ∧
     (comCtx false).part.state = PartState.prepared)
    ∧ (SampleOff (cS (partCtx PartState.committed)) ∧ MsgTo (cS (partCtx PartState.committed)) (msg 77 1 1 3) 3 (partCtx PartState.committed).part ∧
     (partCtx PartState.committed).part.coordinator = false ∧ (partCtx PartState.committed).part.state = PartState.committed)
    ∧ (SampleOff (cS (partCtx PartState.joined)) ∧ MsgTo (cS (partCtx PartState.joined)) (msg 77 1 1 3) 3 (partCtx PartState.joined).part ∧ (partCtx
     PartState.joined).part.coordinator = false ∧ (partCtx PartState.joined).part.state ≠ PartState.prepared ∧ (partCtx
     PartState.joined).part.state ≠ PartState.committed)
    ∧ (SampleOff (cS (comCtx false)) ∧ (comCtx false).part = ((cS (comCtx false)).getCtx ↑3).part ∧ (comCtx false).part.state = PartState.prepared ∧
     BitVec.toNat (comCtx false).part.deadline ≤ (cS (comCtx false)).mtN)
    ∧ (SampleOff (cS (partCtxC PartState.prepared none)) ∧ (partCtxC PartState.prepared none).part = ((cS (partCtxC PartState.prepared none)).getCtx
     ↑3).part ∧ (partCtxC PartState.prepared none).part.state = PartState.prepared ∧ BitVec.toNat (partCtxC PartState.prepared none).part.deadline
     ≤ (cS (partCtxC PartState.prepared none)).mtN)
    ∧ (SampleOff (cS (partCtx PartState.joined)) ∧ (partCtx PartState.joined).part = ((cS (partCtx PartState.joined)).getCtx ↑3).part ∧ ((partCtx
     PartState.joined).part.state ≠ PartState.prepared ∨ (cS (partCtx PartState.joined)).mtN < BitVec.toNat (partCtx
     PartState.joined).part.deadline)) := by
  and_intros <;> first | decide +kernel | rfl
theorem witness_LossAndPreemption :
    (SampleOff (cS (runCtxM PlanState.frosted)) ∧ (cS (runCtxM PlanState.frosted)).partSlot (msg 0 0 0 0).part.toNat = some 3 ∧ (runCtxM
     PlanState.frosted).part = ((cS (runCtxM PlanState.frosted)).getCtx 3).part ∧ (runCtxM PlanState.frosted).part.gen = (msg 0 0 0 0).gen.toNat ∧
     (runCtxM PlanState.frosted).part.coordinator = false ∧ (runCtxM PlanState.frosted).part.state = PartState.committed ∧ ((cS (runCtxM
     PlanState.frosted)).getCtx 3).plan.state ≠ PlanState.ended ∧ (((cS (runCtxM PlanState.frosted)).getCtx 3).plan.state = PlanState.frosted ∨
     ((cS (runCtxM PlanState.frosted)).getCtx 3).plan.state = PlanState.stopped ∨ ∃ x, x ∈ ((cS (runCtxM PlanState.frosted)).getCtx 3).tiles ∧
     ((cS (runCtxM PlanState.frosted)).getTile x).heldWait.isSome = true))
    ∧ (SampleOff ((cS (runCtxM PlanState.running)).setRg RegName.tilSyncWatch [4, 1] (2 ^ 39)) ∧ ((cS (runCtxM PlanState.running)).setRg
     RegName.tilSyncWatch [4, 1] (2 ^ 39)).partSlot (msg 0 0 0 0).part.toNat = some 3 ∧ (runCtxM PlanState.running).part = (((cS (runCtxM
     PlanState.running)).setRg RegName.tilSyncWatch [4, 1] (2 ^ 39)).getCtx 3).part ∧ (runCtxM PlanState.running).part.gen = (msg 0 0 0
     0).gen.toNat ∧ (runCtxM PlanState.running).part.coordinator = false ∧ (runCtxM PlanState.running).part.state = PartState.committed ∧ (((cS
     (runCtxM PlanState.running)).setRg RegName.tilSyncWatch [4, 1] (2 ^ 39)).getCtx 3).plan.state ≠ PlanState.ended ∧ (((cS (runCtxM
     PlanState.running)).setRg RegName.tilSyncWatch [4, 1] (2 ^ 39)).getCtx 3).plan.state ≠ PlanState.frosted ∧ (((cS (runCtxM
     PlanState.running)).setRg RegName.tilSyncWatch [4, 1] (2 ^ 39)).getCtx 3).plan.state ≠ PlanState.stopped ∧ (∀ (x : Nat), x ∈ (((cS (runCtxM
     PlanState.running)).setRg RegName.tilSyncWatch [4, 1] (2 ^ 39)).getCtx 3).tiles → (((cS (runCtxM PlanState.running)).setRg
     RegName.tilSyncWatch [4, 1] (2 ^ 39)).getTile x).heldWait = none))
    ∧ (SampleOff (cS (runCtxM PlanState.ended)) ∧ (cS (runCtxM PlanState.ended)).partSlot (msg 0 0 0 0).part.toNat = some 3 ∧ (runCtxM
     PlanState.ended).part = ((cS (runCtxM PlanState.ended)).getCtx 3).part ∧ (runCtxM PlanState.ended).part.gen = (msg 0 0 0 0).gen.toNat ∧
     (runCtxM PlanState.ended).part.coordinator = false ∧ ((runCtxM PlanState.ended).part.state ≠ PartState.committed ∨ ((cS (runCtxM
     PlanState.ended)).getCtx 3).plan.state = PlanState.ended))
    ∧ (SampleOff (cS (partCtx PartState.joined)) ∧ MsgTo (cS (partCtx PartState.joined)) (msg 9 1 1 0) 3 (partCtx PartState.joined).part ∧ ((partCtx
     PartState.joined).part.state ≠ PartState.committed ∧ ((partCtx PartState.joined).part.state ≠ PartState.joined ∨ ((cS (partCtx
     PartState.joined)).getCtx 3).plan.state ≠ PlanState.ended)))
    ∧ (SampleOff (cS (runCtxM PlanState.running)) ∧ MsgTo (cS (runCtxM PlanState.running)) (msg 9 1 1 0) 3 (runCtxM PlanState.running).part ∧
     ((runCtxM PlanState.running).part.state = PartState.committed ∨ (runCtxM PlanState.running).part.state = PartState.joined ∧ ((cS (runCtxM
     PlanState.running)).getCtx 3).plan.state = PlanState.ended) ∧ BitVec.toNat (msg 9 1 1 0).coord ≠ (cS (runCtxM PlanState.running)).self)
    ∧ (SampleOff (cS (runCtxM PlanState.running)) ∧ MsgTo (cS (runCtxM PlanState.running)) (msg 10 1 1 0) 3 (runCtxM PlanState.running).part ∧
     ((runCtxM PlanState.running).part.state = PartState.committed ∨ (runCtxM PlanState.running).part.state = PartState.joined ∧ ((cS (runCtxM
     PlanState.running)).getCtx 3).plan.state = PlanState.ended) ∧ BitVec.toNat (msg 10 1 1 0).coord ≠ (cS (runCtxM PlanState.running)).self)
    ∧ (SampleOff (cS (preCtx (runCtxM PlanState.running) 0 [1, 2])) ∧ MsgTo (cS (preCtx (runCtxM PlanState.running) 0 [1, 2])) (msg 0 1 0 0) 3
     (preCtx (runCtxM PlanState.running) 0 [1, 2]).part ∧ (preCtx (runCtxM PlanState.running) 0 [1, 2]).part.preempt = some (red 0 0 [1, 2]) ∧
     BitVec.toNat (msg 0 1 0 0).src ∈ (red 0 0 [1, 2]).waiting ∧ (red 0 0 [1, 2]).sent = false ∧ y7 (red 0 0 [1, 2]) (msg 0 1 0 0) = (red 0 0 [1,
     2]).take (BitVec.toNat (msg 0 1 0 0).src) (LaunchMsg.toBody (msg 0 1 0 0) 7) ∧ (y7 (red 0 0 [1, 2]) (msg 0 1 0 0)).waiting ≠ [])
    ∧ (SampleOff (cS (preCtx (runCtxM PlanState.running) 1 [1])) ∧ MsgTo (cS (preCtx (runCtxM PlanState.running) 1 [1])) (msg 0 1 0 0) 3 (preCtx
     (runCtxM PlanState.running) 1 [1]).part ∧ (preCtx (runCtxM PlanState.running) 1 [1]).part.preempt = some (red 1 0 [1]) ∧ BitVec.toNat (msg 0
     1 0 0).src ∈ (red 1 0 [1]).waiting ∧ (red 1 0 [1]).sent = false ∧ y7 (red 1 0 [1]) (msg 0 1 0 0) = (red 1 0 [1]).take (BitVec.toNat (msg 0 1
     0 0).src) (LaunchMsg.toBody (msg 0 1 0 0) 7) ∧ (y7 (red 1 0 [1]) (msg 0 1 0 0)).waiting = [] ∧ (red 1 0 [1]).coord ≠ (cS (preCtx (runCtxM
     PlanState.running) 1 [1])).self)
    ∧ (SampleOff (cS (preCtx (runCtxM PlanState.stopped) 0 [1])) ∧ MsgTo (cS (preCtx (runCtxM PlanState.stopped) 0 [1])) (msg 0 1 0 0) 3 (preCtx
     (runCtxM PlanState.stopped) 0 [1]).part ∧ (preCtx (runCtxM PlanState.stopped) 0 [1]).part.preempt = some (red 0 0 [1]) ∧ BitVec.toNat (msg 0
     1 0 0).src ∈ (red 0 0 [1]).waiting ∧ (red 0 0 [1]).sent = false ∧ y7 (red 0 0 [1]) (msg 0 1 0 0) = (red 0 0 [1]).take (BitVec.toNat (msg 0 1
     0 0).src) (LaunchMsg.toBody (msg 0 1 0 0) 7) ∧ (y7 (red 0 0 [1]) (msg 0 1 0 0)).waiting = [] ∧ (red 0 0 [1]).coord = (cS (preCtx (runCtxM
     PlanState.stopped) 0 [1])).self ∧ (∀ (a : LaunchAnswer), a ∈ (y7 (red 0 0 [1]) (msg 0 1 0 0)).answers → a.status = 0) ∧ (cS (preCtx (runCtxM
     PlanState.stopped) 0 [1])).atP 3 = true)
    ∧ (SampleOff w8 ∧ MsgTo w8 msgLate 3 (preCtx (runCtxM PlanState.stopped) 0 [1]).part ∧ (preCtx (runCtxM PlanState.stopped) 0 [1]).part.preempt =
     some (red 0 0 [1]) ∧ BitVec.toNat msgLate.src ∈ (red 0 0 [1]).waiting ∧ (red 0 0 [1]).sent = false ∧ y7 (red 0 0 [1]) msgLate = (red 0 0
     [1]).take (BitVec.toNat msgLate.src) (LaunchMsg.toBody msgLate 7) ∧ (y7 (red 0 0 [1]) msgLate).waiting = [] ∧ (red 0 0 [1]).coord = w8.self ∧
     (∃ a, a ∈ (y7 (red 0 0 [1]) msgLate).answers ∧ a.status ≠ 0) ∧ w8.cloOp = some (CloOp.preempt 3))
    ∧ (SampleOff (cS (preCtx (runCtxM PlanState.stopped) 1 [])) ∧ MsgTo (cS (preCtx (runCtxM PlanState.stopped) 1 [])) (msg 0 1 0 0) 3 (preCtx
     (runCtxM PlanState.stopped) 1 []).part ∧ (preCtx (runCtxM PlanState.stopped) 1 []).part.preempt = some (red 1 0 []) ∧ (preCtx (runCtxM
     PlanState.stopped) 1 []).part.preUntil.isSome = true ∧ ((cS (preCtx (runCtxM PlanState.stopped) 1 [])).atP 3 = true ∨ ((cS (preCtx (runCtxM
     PlanState.stopped) 1 [])).getCtx 3).plan.state = PlanState.ended))
    ∧ (SampleOff (cS (preCtx (runCtxM PlanState.running) 1 [])) ∧ MsgTo (cS (preCtx (runCtxM PlanState.running) 1 [])) (msg 0 1 0 0) 3 (preCtx
     (runCtxM PlanState.running) 1 []).part ∧ (preCtx (runCtxM PlanState.running) 1 []).part.preempt = some (red 1 0 []) ∧ (preCtx (runCtxM
     PlanState.running) 1 []).part.preUntil.isSome = true ∧ (cS (preCtx (runCtxM PlanState.running) 1 [])).atP 3 = false ∧ ((cS (preCtx (runCtxM
     PlanState.running) 1 [])).getCtx 3).plan.state ≠ PlanState.ended)
    ∧ (SampleOff (cS (preCtx (runCtxM PlanState.stopped) 1 [])) ∧ MsgTo (cS (preCtx (runCtxM PlanState.stopped) 1 [])) (msg 0 1 0 0) 3 (preCtx
     (runCtxM PlanState.stopped) 1 []).part ∧ (preCtx (runCtxM PlanState.stopped) 1 []).part.preempt = some (red 1 0 []) ∧ (preCtx (runCtxM
     PlanState.stopped) 1 []).part.preUntil.isSome = true)
    ∧ (SampleOff (atMt (cS (preCtx (runCtxM PlanState.stopped) 1 [])) (500 : Word)) ∧ ((atMt (cS (preCtx (runCtxM PlanState.stopped) 1 [])) (500 :
     Word)).getCtx 3).part.preUntil = some (500 : Word) ∧ BitVec.toNat (500 : Word) ≤ (atMt (cS (preCtx (runCtxM PlanState.stopped) 1 [])) (500 :
     Word)).mtN ∧ ((atMt (cS (preCtx (runCtxM PlanState.stopped) 1 [])) (500 : Word)).getCtx 3).plan.state ≠ PlanState.ended)
    ∧ (SampleOff (atMt (cS (preCtx (runCtxM PlanState.stopped) 1 [])) (499 : Word)) ∧ ((atMt (cS (preCtx (runCtxM PlanState.stopped) 1 [])) (499 :
     Word)).getCtx 3).part.preUntil = some (500 : Word) ∧ (atMt (cS (preCtx (runCtxM PlanState.stopped) 1 [])) (499 : Word)).mtN < BitVec.toNat
     (500 : Word))
    ∧ (SampleOff preEnd ∧ (preEnd.getCtx 3).part.preUntil = some (500 : Word) ∧ BitVec.toNat (500 : Word) ≤ preEnd.mtN ∧ (preEnd.getCtx
     3).plan.state = PlanState.ended) := by
  and_intros <;> first | decide +kernel | rfl

end TM

/-! ### Clocks -/

namespace TN

def regS (x : Region) : State := base.modRegionClk 5 fun _ => x
def atTick (s : State) (n : Nat) : State := { s with time := { s.time with refTicks := n } }
def on5 : Region := { pllOn := true, src := .main, current := .main, step := 3, standby := 4, locked := true, goodFrom := some 0 }
def tickS (x : Region) : State := atTick (regS x) 100000000
def hh (x : Region) : State := tickS x
def w1 := { on5 with climbing := true }
def w2 := tickS { on5 with climbing := true }
def w3 := { on5 with climbing := true, locked := false }
def w4 := tickS { on5 with climbing := true, locked := false }
def cap6 (x : Region) : State := (tickS x).setRg .clkCap [] 6
def w5 := { on5 with locked := false }
def w6 := cap6 { on5 with locked := false }
def w7 := { on5 with climbing := true, standby := 2, locked := false }
def w8 := tickS { on5 with climbing := true, standby := 2, locked := false }
def sw (src : ClkSrc) (step : Nat) : Region := { on5 with mux := .switching, want := some { src := src, step := step, cause := 1 } }
def withTile (st : PlanState) (x : Region) : State := ((tickS x).setCtx 3 { ctx3 with tiles := [6 * 24 + 6], links := [0, 1], plan := { state := st } }).modLink 0 fun l => { l with state := .up }
def hotR (t : Nat) : Region := { on5 with temp := t }
def mg (l : List (BitVec 6)) : Nat → Nat := fun r => (l.map BitVec.toNat).getD r 63
def tp (l : List Byte) : Nat → Nat := fun r => (l.map BitVec.toNat).getD r 0
def low5 : List (BitVec 6) := [63, 63, 63, 63, 63, 0, 63]
def hot5 : List Byte := [0, 0, 0, 0, 0, 255]
def capAt (x : Region) : State := ({ ((tickS x).setRg .clkCap [] 3) with clk := { (tickS x).clk with vout := 800, meshGood := some 0 } }).modRegionClk 5 fun _ => x
def lowS (x : Region) : State := (tickS x).setRg .clkMarginCal [5] 0xA00
def clkS (f : Clocks → Clocks) : State := { base with clk := f base.clk }
def w9 := clkS fun c => { c with mgtMux := .hung }
def w10 := clkS fun c => { c with mgtMux := .switching }
def w11 := (clkS fun c => { c with spMux := .switching }).setRg .clkSpMux [] 1
def hung : Region := { sw .alt 4 with mux := .hung }
def hungT : State := (regS hung).setCtx 3 { ctx3 with tiles := [150] }
def refS : State := base.setRg .clkStatus [] 1
def w12 := refS.modLink 2 fun x => { x with state := .up }
def measS : State := (clkS fun c => { c with measuring := true }).setRg .clkFmeasCtl [] 22
def goneS : State := { base with failedT := [5] }
def goneV : State := { base with failedB := [srcVlt 3] }
def tl (x : Tile) : State := base.setTile 5 x
def busyTile : Tile := { state := .bist }
def deepTile : Tile := { power := .sleep, pc := 8, accHeld := true, masks := [(0, 1)] }
def offTile : Tile := { pc := 8, accHeld := true, masks := [(0, 1)] }
def grTile : Tile := { state := .granted, power := .run }
def veng (f : Vault → Vault) : State := base.modVault 3 fun v => f { v with mode := .service }
def w13 := veng fun v => { v with groups := [(0, some { slot := 3, gen := 5 })] }
def w14 := base.modLink 5 fun x => { x with state := .up }
def w15 := clkS fun c => { c with pstate := 1, vengOff := [1] }
theorem witness_RegionSteps :
    (on5 = (tickS on5).getRegionClk ↑5 ∧ 0 = (tickS on5).fld RegName.clkCap [] 0 3 ∧ on5.pllOn = true ∧ on5.mux = MuxState.stable ∧ on5.climbing =
     false ∧ 0 < on5.step ∧ (tickS on5).held on5.goodFrom = true)
    ∧ (w1 = w2.getRegionClk ↑5 ∧ 0 = w2.fld RegName.clkCap [] 0 3 ∧ w1.climbing = true)
    ∧ (w3 = w4.getRegionClk ↑5 ∧ 0 = w4.fld RegName.clkCap [] 0 3 ∧ w3.pllOn = true ∧ w3.locked = false)
    ∧ (w5 = w6.getRegionClk ↑5 ∧ 6 = w6.fld RegName.clkCap [] 0 3 ∧ w5.pllOn = true ∧ w5.locked = false)
    ∧ (on5 = (tickS on5).getRegionClk ↑5 ∧ 0 = (tickS on5).fld RegName.clkCap [] 0 3 ∧ on5.locked = true)
    ∧ (on5 = (tickS on5).getRegionClk ↑5 ∧ 0 = (tickS on5).fld RegName.clkCap [] 0 3 ∧ (tickS on5).absent srcClk = false ∧ isLocal Accessor.vc3 =
     false)
    ∧ (on5 = (tickS on5).getRegionClk ↑5 ∧ 0 = (tickS on5).fld RegName.clkCap [] 0 3 ∧ (tickS on5).absent srcClk = false ∧ isLocal core0 = true)
    ∧ (w7 = w8.getRegionClk ↑5 ∧ 0 = w8.fld RegName.clkCap [] 0 3 ∧ w8.absent srcClk = false ∧ isLocal Accessor.sp = true)
    ∧ (sw ClkSrc.alt 4 = (withTile PlanState.idle (sw ClkSrc.alt 4)).getRegionClk 5 ∧ 0 = (withTile PlanState.idle (sw ClkSrc.alt 4)).fld
     RegName.clkCap [] 0 3 ∧ (sw ClkSrc.alt 4).mux ≠ MuxState.stable ∧ (sw ClkSrc.alt 4).want = some
     { src := ClkSrc.alt, step := 4, cause := 1 : Switch } ∧ (sw ClkSrc.alt 4).after = none ∧ (∀ (k : Nat), k < 32 → ((withTile PlanState.idle (sw
     ClkSrc.alt 4)).getCtx k).plan.state = PlanState.idle))
    ∧ (sw ClkSrc.alt 2 = (withTile PlanState.idle (sw ClkSrc.alt 2)).getRegionClk 5 ∧ 0 = (withTile PlanState.idle (sw ClkSrc.alt 2)).fld
     RegName.clkCap [] 0 3 ∧ (sw ClkSrc.alt 2).mux ≠ MuxState.stable ∧ (sw ClkSrc.alt 2).want = some
     { src := ClkSrc.alt, step := 2, cause := 1 : Switch } ∧ (sw ClkSrc.alt 2).after = none ∧ (∀ (k : Nat), k < 32 → ((withTile PlanState.idle (sw
     ClkSrc.alt 2)).getCtx k).plan.state = PlanState.idle))
    ∧ (sw ClkSrc.half 7 = (withTile PlanState.idle (sw ClkSrc.half 7)).getRegionClk 5 ∧ 0 = (withTile PlanState.idle (sw ClkSrc.half 7)).fld
     RegName.clkCap [] 0 3 ∧ (sw ClkSrc.half 7).mux ≠ MuxState.stable ∧ (sw ClkSrc.half 7).want = some
     { src := ClkSrc.half, step := 7, cause := 1 : Switch } ∧ (sw ClkSrc.half 7).after = none ∧ (∀ (k : Nat), k < 32 → ((withTile PlanState.idle
     (sw ClkSrc.half 7)).getCtx k).plan.state = PlanState.idle))
    ∧ (sw ClkSrc.alt 4 = (withTile PlanState.running (sw ClkSrc.alt 4)).getRegionClk 5 ∧ 0 = (withTile PlanState.running (sw ClkSrc.alt 4)).fld
     RegName.clkCap [] 0 3 ∧ (sw ClkSrc.alt 4).mux ≠ MuxState.stable ∧ (sw ClkSrc.alt 4).want = some
     { src := ClkSrc.alt, step := 4, cause := 1 : Switch } ∧ (sw ClkSrc.alt 4).after = none ∧ SampleOff (withTile PlanState.running (sw ClkSrc.alt
     4)) ∧ 3 < 32 ∧ ((withTile PlanState.running (sw ClkSrc.alt 4)).getCtx 3).plan.state ≠ PlanState.idle ∧ (150 ∈ ((withTile PlanState.running
     (sw ClkSrc.alt 4)).getCtx 3).tiles ∧ regionOf 150 = 5) ∧ ((withTile PlanState.running (sw ClkSrc.alt 4)).getCtx 3).links.Nodup ∧ (∀ (j :
     Nat), j < 32 → j ≠ 3 → ((withTile PlanState.running (sw ClkSrc.alt 4)).getCtx j).plan.state = PlanState.idle))
    ∧ (on5 = (tickS on5).getRegionClk ↑5 ∧ 0 = (tickS on5).fld RegName.clkCap [] 0 3 ∧ on5.pllOn = true)
    ∧ ({ : Region } = (tickS { : Region }).getRegionClk 5 ∧ 0 = (tickS { : Region }).fld RegName.clkCap [] 0 3 ∧ { : Region }.pllOn = false)
    ∧ (on5 = (tickS on5).getRegionClk ↑5 ∧ 0 = (tickS on5).fld RegName.clkCap [] 0 3 ∧ on5.pllOn = true ∧ on5.src = ClkSrc.main ∧ on5.mux =
     MuxState.stable)
    ∧ (on5 = (tickS on5).getRegionClk ↑5 ∧ 0 = (tickS on5).fld RegName.clkCap [] 0 3 ∧ ↑5 = ↑5 ∧ on5.pllOn = true ∧ on5.src ≠ ClkSrc.half)
    ∧ (sw ClkSrc.alt 2 = (tickS (sw ClkSrc.alt 2)).getRegionClk ↑5 ∧ 0 = (tickS (sw ClkSrc.alt 2)).fld RegName.clkCap [] 0 3 ∧ ↑5 = ↑5 ∧ (sw
     ClkSrc.alt 2).pllOn = true ∧ (sw ClkSrc.alt 2).src ≠ ClkSrc.half)
    ∧ ({ : Region } = (tickS { : Region }).getRegionClk 5 ∧ 0 = (tickS { : Region }).fld RegName.clkCap [] 0 3 ∧ (5 : Fin 17).val = (5 :
     RegionIx).val ∧ { : Region }.pllOn = false)
    ∧ ({ : Region } = (tickS { : Region }).getRegionClk 5 ∧ 0 = (tickS { : Region }).fld RegName.clkCap [] 0 3)
    ∧ (hotR 115 = (tickS (hotR 115)).getRegionClk ↑5 ∧ 0 = (tickS (hotR 115)).fld RegName.clkCap [] 0 3 ∧ min 115 ((tickS (hotR 115)).fld
     RegName.clkTherm [] 8 8) ≤ (hotR 115).temp)
    ∧ (hotR 3 = (tickS (hotR 3)).getRegionClk ↑5 ∧ 0 = (tickS (hotR 3)).fld RegName.clkCap [] 0 3 ∧ (hotR 3).temp < min 115 ((tickS (hotR 3)).fld
     RegName.clkTherm [] 8 8)) := by
  and_intros <;> first | decide +kernel | rfl
theorem witness_SourcesAndMeasurement :
    (base.absent srcClk = false ∧ isLocal Accessor.vc3 = false)
    ∧ (base.absent srcClk = false ∧ isLocal Accessor.sp = true)
    ∧ (w9.absent srcClk = false ∧ isLocal Accessor.sp = true)
    ∧ (w9.absent srcClk = false ∧ isLocal Accessor.sp = true ∧ w9.clk.mgtMux = MuxState.hung)
    ∧ (w10.clk.mgtMux = MuxState.switching)
    ∧ (w11.clk.spMux = MuxState.switching)
    ∧ (sw ClkSrc.alt 4 = (regS (sw ClkSrc.alt 4)).getRegionClk ↑5 ∧ (sw ClkSrc.alt 4).mux = MuxState.switching)
    ∧ (on5 = (regS on5).getRegionClk ↑5 ∧ on5.mux ≠ MuxState.hung)
    ∧ (hung = (regS hung).getRegionClk ↑5 ∧ hung.mux = MuxState.hung ∧ hung.after = none ∧ (∀ (k : Nat), k < 32 → ∀ (y : Nat), y ∈ ((regS
     hung).getCtx k).tiles → regionOf y ≠ ↑5))
    ∧ (hung = hungT.getRegionClk ↑5 ∧ hung.mux = MuxState.hung ∧ hung.after = none ∧ 3 < 32 ∧ (150 ∈ (hungT.getCtx 3).tiles ∧ regionOf 150 = ↑5) ∧
     (hungT.getCtx 3).plan.state = PlanState.idle ∧ (∀ (j : Nat), j < 32 → j ≠ 3 → ∀ (y : Nat), y ∈ (hungT.getCtx j).tiles → regionOf y ≠ ↑5))
    ∧ (15622 ≤ 15622 ∧ 15622 ≤ 15628)
    ∧ ((15621 < 15622 ∨ 15628 < 15621) ∧ base.bit RegName.clkStatus [] 0 = false)
    ∧ (w12.bit RegName.clkStatus [] 0 = true)
    ∧ ((15629 < 15622 ∨ 15628 < 15629) ∧ refS.bit RegName.clkStatus [] 0 = true ∧ (∀ (l : Nat), l < 6 → (refS.getLink l).state = LinkState.down))
    ∧ (measS.clk.measuring = true)
    ∧ ((measS.setRg RegName.clkFmeasCtl [] 23).clk.measuring = true)
    ∧ (base.clk.measuring = false) := by
  and_intros <;> first | decide +kernel | rfl
theorem witness_Gating :
    (goneS.absent srcClk = false ∧ Instr.gateDeep core0 (5 : BitVec 10) = Instr.gateDeep core0 (5 : BitVec 10) ∧ (BitVec.toNat (5 : BitVec 10) <
     576 ∧ goneS.absent (srcTile (BitVec.toNat (5 : BitVec 10))) = true))
    ∧ (goneV.absent srcClk = false ∧ Instr.gateOff core0 (595 : BitVec 10) = Instr.gateOff core0 (595 : BitVec 10) ∧ (3 < 4 ∧ BitVec.toNat (595 :
     BitVec 10) = 592 + 3 ∧ goneV.absent (srcVlt 3) = true))
    ∧ (base.absent srcClk = false ∧ ¬NodeGone base (BitVec.toNat (0 : BitVec 10)) ∧ Instr.fabricOff Accessor.vc3 = Instr.fabricOff Accessor.vc3 ∧
     isLocal Accessor.vc3 = false)
    ∧ ((tl busyTile).absent srcClk = false ∧ isLocal core0 = true ∧ 5 = BitVec.toNat (5 : BitVec 10) ∧ busyTile = (tl busyTile).getTile 5 ∧ 5 < 576
     ∧ (tl busyTile).absent (srcTile 5) = false ∧ (Instr.gateRun core0 (5 : BitVec 10) = Instr.gateRun core0 (5 : BitVec 10) ∧ Power.run =
     Power.run) ∧ (tl busyTile).tileControlled 5 = true)
    ∧ ((tl deepTile).absent srcClk = false ∧ isLocal core0 = true ∧ 5 = BitVec.toNat (5 : BitVec 10) ∧ deepTile = (tl deepTile).getTile 5 ∧ 5 < 576
     ∧ (tl deepTile).absent (srcTile 5) = false ∧ (Instr.gateDeep core0 (5 : BitVec 10) = Instr.gateDeep core0 (5 : BitVec 10) ∧ Power.deep =
     Power.deep) ∧ (tl deepTile).tileControlled 5 = false ∧ deepTile.power ≠ Power.off)
    ∧ ((tl deepTile).absent srcClk = false ∧ isLocal core0 = true ∧ 5 = BitVec.toNat (5 : BitVec 10) ∧ deepTile = (tl deepTile).getTile 5 ∧ 5 < 576
     ∧ (tl deepTile).absent (srcTile 5) = false ∧ (Instr.gateRun core0 (5 : BitVec 10) = Instr.gateRun core0 (5 : BitVec 10) ∧ Power.run =
     Power.run) ∧ (tl deepTile).tileControlled 5 = false ∧ deepTile.power ≠ Power.off)
    ∧ ((tl offTile).absent srcClk = false ∧ isLocal core0 = true ∧ 5 = BitVec.toNat (5 : BitVec 10) ∧ offTile = (tl offTile).getTile 5 ∧ 5 < 576 ∧
     (tl offTile).absent (srcTile 5) = false ∧ (Instr.gateSleep core0 (5 : BitVec 10) = Instr.gateSleep core0 (5 : BitVec 10) ∧ Power.sleep =
     Power.sleep) ∧ (tl offTile).tileControlled 5 = false ∧ offTile.power = Power.off)
    ∧ ((tl grTile).absent srcClk = false ∧ isLocal core0 = true ∧ 5 = BitVec.toNat (5 : BitVec 10) ∧ grTile = (tl grTile).getTile 5 ∧ 5 < 576 ∧ (tl
     grTile).absent (srcTile 5) = false ∧ grTile.state = TileState.granted)
    ∧ ((tl deepTile).absent srcClk = false ∧ isLocal core0 = true ∧ 5 = BitVec.toNat (5 : BitVec 10) ∧ deepTile = (tl deepTile).getTile 5 ∧ 5 < 576
     ∧ (tl deepTile).absent (srcTile 5) = false ∧ (tl deepTile).tileControlled 5 = false ∧ deepTile.state ≠ TileState.granted)
    ∧ (base.absent srcClk = false ∧ isLocal core0 = true ∧ 576 = BitVec.toNat (576 : BitVec 10) ∧ { : Tile } = base.getTile 576 ∧ 576 ≤ 576)
    ∧ (base.absent srcClk = false ∧ isLocal core0 = true ∧ 596 = BitVec.toNat (596 : BitVec 10) ∧ { : Tile } = base.getTile 596 ∧ (596 ≤ 596 ∧ 596 ≠
     607))
    ∧ (base.absent srcClk = false ∧ isLocal core0 = true ∧ 606 = BitVec.toNat (606 : BitVec 10) ∧ { : Tile } = base.getTile 606 ∧ (596 ≤ 606 ∧ 606 ≠
     607))
    ∧ (base.absent srcClk = false ∧ isLocal core0 = true ∧ 1023 = BitVec.toNat (1023 : BitVec 10) ∧ { : Tile } = base.getTile 1023 ∧ (596 ≤ 1023 ∧
     1023 ≠ 607))
    ∧ (base.absent srcClk = false ∧ isLocal core0 = true ∧ 591 = BitVec.toNat (591 : BitVec 10) ∧ { : Tile } = base.getTile 591 ∧ 15 < 16 ∧ 591 =
     576 + 15)
    ∧ ((regS on5).absent srcClk = false ∧ isLocal core0 = true ∧ 581 = BitVec.toNat (581 : BitVec 10) ∧ { : Tile } = (regS on5).getTile 581 ∧ 5 < 16
     ∧ 581 = 576 + 5 ∧ (regS on5).tileOn 5 = none)
    ∧ ((tl grTile).absent srcClk = false ∧ isLocal core0 = true ∧ 576 = BitVec.toNat (576 : BitVec 10) ∧ { : Tile } = (tl grTile).getTile 576 ∧ 0 <
     16 ∧ 576 = 576 + 0 ∧ (tl grTile).tileOn 0 = some 5)
    ∧ ((veng id).absent srcClk = false ∧ isLocal core0 = true ∧ 595 = BitVec.toNat (595 : BitVec 10) ∧ { : Tile } = (veng id).getTile 595 ∧ 3 < 4 ∧
     595 = 592 + 3 ∧ (veng id).absent (srcVlt 3) = false)
    ∧ ((veng id).absent srcClk = false ∧ isLocal core0 = true ∧ 595 = BitVec.toNat (595 : BitVec 10) ∧ { : Tile } = (veng id).getTile 595 ∧ 3 < 4 ∧
     595 = 592 + 3 ∧ (veng id).absent (srcVlt 3) = false ∧ (∀ (e : Nat × Option CtxId), e ∈ ((veng id).getVault 3).groups → e.snd = none) ∧ ((veng
     id).getVault 3).mode = VaultMode.service)
    ∧ (w13.absent srcClk = false ∧ isLocal core0 = true ∧ 595 = BitVec.toNat (595 : BitVec 10) ∧ { : Tile } = w13.getTile 595 ∧ 3 < 4 ∧ 595 = 592 +
     3 ∧ w13.absent (srcVlt 3) = false ∧ ((0, some { slot := 3, gen := 5 : CtxId }) ∈ (w13.getVault 3).groups ∧ (0, some
     { slot := 3, gen := 5 : CtxId }).snd ≠ none))
    ∧ (base.absent srcClk = false ∧ isLocal core0 = true ∧ 607 = BitVec.toNat (607 : BitVec 10) ∧ { : Tile } = base.getTile 607 ∧ 607 = 607)
    ∧ (base.absent srcClk = false ∧ isLocal core0 = true ∧ 607 = BitVec.toNat (607 : BitVec 10) ∧ { : Tile } = base.getTile 607 ∧ 607 = 607 ∧ (∀ (r
     : Nat), r < 16 → (base.getRegionClk r).pllOn = false) ∧ (∀ (l : Nat), l < 6 → (base.getLink l).state = LinkState.down))
    ∧ (w14.absent srcClk = false ∧ isLocal core0 = true ∧ 607 = BitVec.toNat (607 : BitVec 10) ∧ { : Tile } = w14.getTile 607 ∧ 607 = 607 ∧ (∀ (r :
     Nat), r < 16 → (w14.getRegionClk r).pllOn = false) ∧ (5 < 6 ∧ (w14.getLink 5).state ≠ LinkState.down))
    ∧ ((regS on5).absent srcClk = false ∧ isLocal core0 = true ∧ 607 = BitVec.toNat (607 : BitVec 10) ∧ { : Tile } = (regS on5).getTile 607 ∧ 607 =
     607 ∧ 5 < 16 ∧ ((regS on5).getRegionClk 5).pllOn = true)
    ∧ ((tl grTile).absent srcClk = false ∧ isLocal core0 = true ∧ 5 < 576 ∧ ((tl grTile).getTile 5).state = TileState.granted)
    ∧ ((tl deepTile).absent srcClk = false ∧ isLocal core0 = true ∧ (∀ (x : Nat), x < 576 → ((tl deepTile).getTile x).state ≠ TileState.granted))
    ∧ (w15.absent srcClk = false ∧ isLocal core0 = true ∧ w15.clk.pstate = 1)
    ∧ (base.absent srcClk = false ∧ isLocal core0 = true ∧ base.clk.pstate ≠ 1)
    ∧ ((regS on5).absent srcClk = false ∧ (regS on5).tileOn ↑5 = none)
    ∧ ((tl grTile).absent srcClk = false ∧ (tl grTile).tileOn ↑0 ≠ none) := by
  and_intros <;> first | decide +kernel | rfl

end TN

/-! ### Management port -/

namespace TO

def frame (et : Nat) (rest : List Byte) : List Byte := padTo (beBytes 6 1 ++ beBytes 6 0xAA ++ beBytes 2 et ++ rest) 60 0
def fr (et : Nat) : MgtFrame := { bytes := frame et [] }
/-- The port takes untagged frames and the plain classes. -/
def portS : State := regs { base with sec := { base.sec with recovery := false } } [(.mgtPortCtl, [], 0x3E), (.mgtPeer, [2], Word.ofNat (0xAA + 2 ^ 48)), (.mgtRate, [], Word.ofNat (1 + 2 ^ 16 * 4 + 2 ^ 32 * 3))]
def recS : State := { base with sec := { base.sec with recovery := true } }
def tagF : List Byte := frame 0x8100 (beBytes 2 4095 ++ beBytes 2 0x0600)
def noPeer : State := portS.setRg .mgtPeer [2] 0
def eap : List Byte := frame 0x888E []
def ptp : List Byte := frame 0x88F7 [3]
def noTok : State := portS.setRg .mgtRate [] 0
def arp : List Byte := frame 0x0806 (List.replicate 8 0 ++ beBytes 6 0xBB ++ beBytes 4 0x0A000001)
def arpS : State := noPeer.setRg .mgtNetIp [] (Word.ofNat (0x0A000001 + 2 ^ 32))
def sec : List Byte := frame 0x88E5 [6]
def saS : State := { portS with port := { portS.port with sas := [(6, { ctl := 2 ^ 32 + 7 }), (7, { ctl := 2 ^ 32 + 9 })] } }
def imA : Image := { id := [], chip := 0, chips := 1, minQuota := 0, isLead := true, serving := false, dhop := 0, variants := [], var0 := 0, var1 := 0, vrows := 1, vocab := 0, links := 0, segs := [{ base := 0x200000, size := 0x600000, tier := 0, write := true, window := true }], streams := [], slots := [], routes := [] }
def aperCtx : Ctx := { ctx3 with image := some imA, pt := [(2, { frame := some { unit := 0, frame := 7 }, write := true })] }
def aperS : State := regs (withCtx aperCtx) [(.mgtAperRange, [9], Word.ofNat (1 + 2 ^ 32 * 2))]
def v3 (wr : Nat) : Word := Word.ofNat (163 + 2 ^ 31 * wr + 2 ^ 32)
def aperSav : State := aperS.setCtx 3 { aperCtx with state := .saving }
def aperV (wr : Nat) : State := regs (withCtx { aperCtx with pt := [(2, { frame := some { unit := 0, frame := 7 }, write := true }), (3, { frame := some { unit := 0, frame := 8 }, write := true })] }) [(.mgtAperRange, [9], Word.ofNat (1 + 2 ^ 32 * 1)), (.mgtAper, [9], v3 wr)]
def watchS (v : Word) (dl : Word) : State := regs (aperV 0) [(.mgtFlagWatch, [15], v), (.mgtFlagWatchDl, [15], dl)]
def armW (exp : Nat) : Word := Word.ofNat (9 + 64 * 3 + 2 ^ 35 * exp + 2 ^ 39)
def w1 := { watchS (1 <<< 40) 9 with time := { base.time with mt := 9 } }
theorem witness_PortFrames :
    (frame 35063 [] = (fr 35063).bytes ∧ recS.sec.recovery = true)
    ∧ (frame 35063 [] = { bytes := frame 35063 [], fcsOk := false : MgtFrame }.bytes ∧ portS.sec.recovery = false ∧
     ({ bytes := frame 35063 [], fcsOk := false : MgtFrame }.fcsOk = false ∨ { bytes := frame 35063 [], fcsOk := false : MgtFrame }.fecOk = false))
    ∧ ([(1 : Byte)] = { bytes := [(1 : Byte)] : MgtFrame }.bytes ∧ portS.sec.recovery = false ∧ { bytes := [(1 : Byte)] : MgtFrame }.fcsOk = true ∧
     { bytes := [(1 : Byte)] : MgtFrame }.fecOk = true ∧ ([(1 : Byte)].length + 4 < 64 ∨ 9216 < [(1 : Byte)].length + 4))
    ∧ (tagF = { bytes := tagF : MgtFrame }.bytes ∧ portS.sec.recovery = false ∧ { bytes := tagF : MgtFrame }.fcsOk = true ∧
     { bytes := tagF : MgtFrame }.fecOk = true ∧ 60 ≤ tagF.length ∧ tagF.length + 4 ≤ 9216 ∧ beAt tagF 12 2 = 33024 ∧ 1536 ≤ beAt tagF 16 2 ∧ beAt
     tagF 16 2 ≠ 33024 ∧ 4095 = beAt tagF 14 2 % 4096 ∧ (∀ (i : Nat), i < 16 → portS.bit RegName.mgtVlan [i] 12 = true → portS.fld RegName.mgtVlan
     [i] 0 12 ≠ 4095))
    ∧ (frame 2048 [] = (fr 2048).bytes ∧ portS.sec.recovery = false ∧ (fr 2048).fcsOk = true ∧ (fr 2048).fecOk = true ∧ 60 ≤ (frame 2048 []).length
     ∧ (frame 2048 []).length + 4 ≤ 9216 ∧ portS.frameFault (fr 2048) = none ∧ etherType (frame 2048 []) ≠ 35045 ∧ (∀ (b : Nat), b ∈ plainBit
     (etherType (frame 2048 [])) → portS.bit RegName.mgtPortCtl [] b = false))
    ∧ (eap = { bytes := eap : MgtFrame }.bytes ∧ noPeer.sec.recovery = false ∧ { bytes := eap : MgtFrame }.fcsOk = true ∧
     { bytes := eap : MgtFrame }.fecOk = true ∧ 60 ≤ eap.length ∧ eap.length + 4 ≤ 9216 ∧ noPeer.frameFault { bytes := eap : MgtFrame } = none ∧
     plainBit (etherType eap) = some 3 ∧ noPeer.bit RegName.mgtPortCtl [] 3 = true ∧ etherType eap ≠ 2054 ∧ noPeer.peerOf eap = none)
    ∧ (eap = { bytes := eap : MgtFrame }.bytes ∧ noTok.sec.recovery = false ∧ { bytes := eap : MgtFrame }.fcsOk = true ∧
     { bytes := eap : MgtFrame }.fecOk = true ∧ 60 ≤ eap.length ∧ eap.length + 4 ≤ 9216 ∧ noTok.frameFault { bytes := eap : MgtFrame } = none ∧
     plainBit (etherType eap) = some 3 ∧ noTok.bit RegName.mgtPortCtl [] 3 = true ∧ etherType eap ≠ 2054 ∧ noTok.peerOf eap = some 2 ∧ takeTokens
     noTok 2 false = none)
    ∧ (eap = { bytes := eap : MgtFrame }.bytes ∧ portS.sec.recovery = false ∧ { bytes := eap : MgtFrame }.fcsOk = true ∧
     { bytes := eap : MgtFrame }.fecOk = true ∧ 60 ≤ eap.length ∧ eap.length + 4 ≤ 9216 ∧ portS.frameFault { bytes := eap : MgtFrame } = none ∧
     plainBit (etherType eap) = some 3 ∧ portS.bit RegName.mgtPortCtl [] 3 = true ∧ etherType eap ≠ 2054 ∧ portS.peerOf eap = some 2 ∧ takeTokens
     portS 2 false = some ((takeTokens portS 2 false).getD base))
    ∧ (ptp = { bytes := ptp : MgtFrame }.bytes ∧ portS.sec.recovery = false ∧ { bytes := ptp : MgtFrame }.fcsOk = true ∧
     { bytes := ptp : MgtFrame }.fecOk = true ∧ 60 ≤ ptp.length ∧ ptp.length + 4 ≤ 9216 ∧ portS.frameFault { bytes := ptp : MgtFrame } = none ∧
     plainBit (etherType ptp) = some 4 ∧ portS.bit RegName.mgtPortCtl [] 4 = true ∧ etherType ptp ≠ 2054 ∧ portS.peerOf ptp = some 2 ∧ takeTokens
     portS 2 false = some ((takeTokens portS 2 false).getD base))
    ∧ (arp = { bytes := arp : MgtFrame }.bytes ∧ arpS.sec.recovery = false ∧ { bytes := arp : MgtFrame }.fcsOk = true ∧
     { bytes := arp : MgtFrame }.fecOk = true ∧ 60 ≤ arp.length ∧ arp.length + 4 ≤ 9216 ∧ arpS.frameFault { bytes := arp : MgtFrame } = none ∧
     etherType arp = 2054 ∧ arpS.bit RegName.mgtPortCtl [] 2 = true ∧ arpS.arpCollides arp = true ∧ arpS.peerOf arp = none ∧ arpS.port.defended =
     none ∧ 22 = etherBody arp + 8)
    ∧ (arp = { bytes := arp : MgtFrame }.bytes ∧ (arpS.setRg RegName.mgtPortCtl [] (30 : Word)).sec.recovery = false ∧
     { bytes := arp : MgtFrame }.fcsOk = true ∧ { bytes := arp : MgtFrame }.fecOk = true ∧ 60 ≤ arp.length ∧ arp.length + 4 ≤ 9216 ∧ (arpS.setRg
     RegName.mgtPortCtl [] (30 : Word)).frameFault { bytes := arp : MgtFrame } = none ∧ etherType arp = 2054 ∧ (arpS.setRg RegName.mgtPortCtl []
     (30 : Word)).bit RegName.mgtPortCtl [] 2 = true ∧ (arpS.setRg RegName.mgtPortCtl [] (30 : Word)).arpCollides arp = true ∧ (arpS.setRg
     RegName.mgtPortCtl [] (30 : Word)).peerOf arp = none ∧ (arpS.setRg RegName.mgtPortCtl [] (30 : Word)).port.defended = none ∧ 22 = etherBody
     arp + 8)
    ∧ (sec = { bytes := sec : MgtFrame }.bytes ∧ portS.sec.recovery = false ∧ { bytes := sec : MgtFrame }.fcsOk = true ∧
     { bytes := sec : MgtFrame }.fecOk = true ∧ 60 ≤ sec.length ∧ sec.length + 4 ≤ 9216 ∧ portS.frameFault { bytes := sec : MgtFrame } = none ∧
     etherType sec = 35045 ∧ 2 = beAt sec (etherBody sec) 1 % 4 ∧ { : Sa } = portS.sa 0 2 ∧ { : Sa }.valid = false)
    ∧ (ptp = { bytes := ptp : MgtFrame }.bytes ∧ portS.sec.recovery = false ∧ (plainBit (etherType ptp)).isSome = true)
    ∧ (tagF = { bytes := tagF : MgtFrame }.bytes ∧ portS.sec.recovery = false ∧ plainBit (etherType tagF) = none ∧ (∀ (an : Nat), an < 4 → (portS.sa
     1 an).valid = false))
    ∧ (tagF = { bytes := tagF : MgtFrame }.bytes ∧ saS.sec.recovery = false ∧ plainBit (etherType tagF) = none ∧ 2 < 4 ∧
     { ctl := (2 : Word) ^ 32 + (7 : Word) : Sa } = saS.sa 1 2 ∧ { ctl := (2 : Word) ^ 32 + (7 : Word) : Sa }.valid = true ∧ (∀ (j : Nat), j < 2 →
     (saS.sa 1 j).valid = false)) := by
  and_intros <;> first | decide +kernel | rfl
theorem witness_AperturesAndWatches :
    (aperS.absent srcMgt = false ∧ isLocal Accessor.vc3 = false)
    ∧ (aperS.absent srcMgt = false ∧ isLocal core0 = true ∧ aperS.aperWatched 9 = false ∧ BitVec.getLsbD (12884901887 : Word) 32 = false)
    ∧ (aperS.absent srcMgt = false ∧ isLocal core0 = true ∧ aperS.aperWatched 9 = false ∧ BitVec.getLsbD (v3 1) 32 = true ∧
     { slot := 3, gen := 5 : CtxId } = CtxId.ofNat (BitVec.toNat (v3 1) % 65536) ∧ aperCtx = aperS.getCtx { slot := 3, gen := 5 : CtxId }.slot ∧ 1
     = aperS.fld RegName.mgtAperRange [9] 0 21 ∧ 2 = aperS.fld RegName.mgtAperRange [9] 32 12 ∧ aperS.live { slot := 3, gen := 5 : CtxId } = true
     ∧ aperS.owns core0 { slot := 3, gen := 5 : CtxId }.slot = true ∧ aperCtx.state = CtxState.opened ∧ (aperCtx.dirty = [] ∨ aperCtx.pt ≠ []) ∧
     aperCtx.image = some imA ∧ imA.segs[BitVec.toNat (v3 1) / 65536 % 32768]? = some
     { base := 2097152, size := 6291456, tier := 0, write := true, window := true : Seg } ∧
     { base := 2097152, size := 6291456, tier := 0, write := true, window := true : Seg }.window = true ∧ 1 ≤ 2 ∧ 2 ≤ 2048)
    ∧ (aperS.absent srcMgt = false ∧ isLocal core0 = true ∧ aperS.aperWatched 9 = false ∧ BitVec.getLsbD (Word.ofNat (195 + 2 ^ 32)) 32 = true ∧
     { slot := 3, gen := 6 : CtxId } = CtxId.ofNat (BitVec.toNat (Word.ofNat (195 + 2 ^ 32)) % 65536) ∧ aperCtx = aperS.getCtx
     { slot := 3, gen := 6 : CtxId }.slot ∧ 1 = aperS.fld RegName.mgtAperRange [9] 0 21 ∧ 2 = aperS.fld RegName.mgtAperRange [9] 32 12 ∧
     (aperS.live { slot := 3, gen := 6 : CtxId } = false ∧ 4 = 4))
    ∧ (aperS.absent srcMgt = false ∧ isLocal (Accessor.mgt (7 : Fin 8)) = true ∧ aperS.aperWatched 9 = false ∧ BitVec.getLsbD (v3 0) 32 = true ∧
     { slot := 3, gen := 5 : CtxId } = CtxId.ofNat (BitVec.toNat (v3 0) % 65536) ∧ aperCtx = aperS.getCtx { slot := 3, gen := 5 : CtxId }.slot ∧ 1
     = aperS.fld RegName.mgtAperRange [9] 0 21 ∧ 2 = aperS.fld RegName.mgtAperRange [9] 32 12 ∧ (aperS.live { slot := 3, gen := 5 : CtxId } = true
     ∧ (aperS.owns (Accessor.mgt (7 : Fin 8)) { slot := 3, gen := 5 : CtxId }.slot = false ∨ aperCtx.dirty ≠ [] ∧ aperCtx.pt = []) ∧ 3 = 3))
    ∧ (aperSav.absent srcMgt = false ∧ isLocal core0 = true ∧ aperSav.aperWatched 9 = false ∧ BitVec.getLsbD (v3 0) 32 = true ∧
     { slot := 3, gen := 5 : CtxId } = CtxId.ofNat (BitVec.toNat (v3 0) % 65536) ∧ aperSav.getCtx 3 = aperSav.getCtx
     { slot := 3, gen := 5 : CtxId }.slot ∧ 1 = aperSav.fld RegName.mgtAperRange [9] 0 21 ∧ 2 = aperSav.fld RegName.mgtAperRange [9] 32 12 ∧
     (aperSav.live { slot := 3, gen := 5 : CtxId } = true ∧ aperSav.owns core0 { slot := 3, gen := 5 : CtxId }.slot = true ∧ ((aperSav.getCtx
     3).dirty = [] ∨ (aperSav.getCtx 3).pt ≠ []) ∧ ((aperSav.getCtx 3).image = none ∨ 2 = 0 ∨ 2048 < 2 ∨ (aperSav.getCtx 3).state =
     CtxState.saving ∨ (aperSav.getCtx 3).state = CtxState.restoring) ∧ 6 = 6))
    ∧ (2097152 = (aperV 0).fld RegName.mgtAperRange [9] 32 12 * pageBytes ∧ (aperV 0).aperVa (9) (BitVec.toNat (2097152 : BitVec 32)) = none)
    ∧ (2097152 = (aperV 0).fld RegName.mgtAperRange [9] 32 12 * pageBytes ∧ 2097152 < BitVec.toNat (2097151 : BitVec 32) + 2)
    ∧ (2097152 = (aperV 0).fld RegName.mgtAperRange [9] 32 12 * pageBytes ∧ (aperV 0).aperVa (9) (BitVec.toNat (2097144 : BitVec 32)) = some (3,
     6291448) ∧ BitVec.toNat (2097144 : BitVec 32) + 8 ≤ 2097152 ∧ (aperV 0).owns (Accessor.mgt (0 : Fin 8)) 3 = true ∧ { : Findings } =
     { : Findings })
    ∧ (2097152 = (aperV 0).fld RegName.mgtAperRange [9] 32 12 * pageBytes ∧ (aperV 0).aperVa (9) (BitVec.toNat (2097144 : BitVec 32)) = some (3,
     6291448) ∧ BitVec.toNat (2097144 : BitVec 32) + 8 ≤ 2097152 ∧ (aperV 0).owns (Accessor.mgt (0 : Fin 8)) 3 = true ∧ readPages (aperV 0) 3
     { syms := [(6291448, 2)] : Findings } Reader.core (pieces 6291448 8) = (true, (readPages (aperV 0) 3 { syms := [(6291448, 2)] : Findings }
     Reader.core (pieces 6291448 8)).snd))
    ∧ (2097152 = (aperV 1).fld RegName.mgtAperRange [9] 32 12 * pageBytes ∧ (aperV 1).aperVa (9) (BitVec.toNat (2097144 : BitVec 32)) = some (3,
     6291448) ∧ BitVec.toNat (2097144 : BitVec 32) + 2 ≤ 2097152 ∧ (aperV 1).owns (Accessor.mgt (0 : Fin 8)) 3 = true ∧ some [(1 : Byte), (2 :
     Byte)] = some [(1 : Byte), (2 : Byte)] ∧ (aperV 1).bit RegName.mgtAper [9] 31 = true)
    ∧ (2097152 = (aperV 0).fld RegName.mgtAperRange [9] 32 12 * pageBytes ∧ (aperV 0).aperVa (9) (BitVec.toNat (2097144 : BitVec 32)) = some (3,
     6291448) ∧ BitVec.toNat (2097144 : BitVec 32) + 2 ≤ 2097152 ∧ ((some [(1 : Byte), (2 : Byte)]).isSome = true ∧ (aperV 0).bit RegName.mgtAper
     [9] 31 = false))
    ∧ (2097152 = (aperV 0).fld RegName.mgtAperRange [9] 32 12 * pageBytes ∧ (aperV 0).aperVa (9) (BitVec.toNat (2097144 : BitVec 32)) = some (3,
     6291448) ∧ BitVec.toNat (2097144 : BitVec 32) + 2 ≤ 2097152 ∧ (aperV 0).owns (Accessor.mgt (4 : Fin 8)) 3 = false)
    ∧ ((watchS 0 0).absent srcMgt = false ∧ isLocal Accessor.vc3 = false)
    ∧ ((watchS ↑(3 <<< 40) (0 : Word)).absent srcMgt = false ∧ isLocal core0 = true ∧ (watchS ↑(3 <<< 40) (0 : Word)).bit RegName.mgtFlagWatch [15]
     40 = true)
    ∧ ((watchS ↑(2 <<< 40) (0 : Word)).absent srcMgt = false ∧ isLocal core0 = true ∧ (watchS ↑(2 <<< 40) (0 : Word)).bit RegName.mgtFlagWatch [15]
     40 = false ∧ BitVec.getLsbD (5 : Word) 39 = false)
    ∧ (
     (watchS 0 0).absent srcMgt = false ∧ isLocal core0 = true ∧ (watchS 0 0).bit RegName.mgtFlagWatch [↑15] 40 = false ∧ BitVec.getLsbD (armW 2) 39 = true ∧ (false = match (watchS 0 0).aperVa (BitVec.toNat (armW 2) % 64) (8 * (BitVec.toNat (armW 2) / 64 % 2 ^ 29)) with | some (k, va) => flagOwner ((watchS 0 0).ctxNat k va 8) == BitVec.toNat (armW 2) / 2 ^ 35 % 16 | none => false) ∧ false = false)
    ∧ (
     (watchS 0 0).absent srcMgt = false ∧ isLocal core0 = true ∧ (watchS 0 0).bit RegName.mgtFlagWatch [↑15] 40 = false ∧ BitVec.getLsbD (armW 0) 39 = true ∧ (true = match (watchS 0 0).aperVa (BitVec.toNat (armW 0) % 64) (8 * (BitVec.toNat (armW 0) / 64 % 2 ^ 29)) with | some (k, va) => flagOwner ((watchS 0 0).ctxNat k va 8) == BitVec.toNat (armW 0) / 2 ^ 35 % 16 | none => false) ∧ true = true)
    ∧ (w1.bit RegName.mgtFlagWatch [↑15] 40 = true ∧ w1.rg RegName.mgtFlagWatchDl [↑15] ≠ 0 ∧ BitVec.toNat (w1.rg RegName.mgtFlagWatchDl [↑15]) ≤
     w1.mtN)
    ∧ ((watchS (↑(1 <<< 40)) 9).bit RegName.mgtFlagWatch [↑15] 40 = true ∧ (watchS (↑(1 <<< 40)) 9).mtN < BitVec.toNat ((watchS (↑(1 <<< 40)) 9).rg
     RegName.mgtFlagWatchDl [↑15])) := by
  and_intros <;> first | decide +kernel | rfl

end TO

/-! ### Witnesses written by hand -/

theorem witness_StepKeepsCanonical : Canonical (TK.exS false) ∧ Sys2Proof.Machine.step (TK.exS false) = .next (idleTick (TK.exS false)) :=
  ⟨TK.witness_Canonical, rfl⟩

theorem witness_QueueAndFuses : exec .aliveToggle base = .next (after .aliveToggle base) ∧ Sys2Proof.Machine.step base = .next (idleTick base) :=
  ⟨next_after _ _ (by decide +kernel), rfl⟩

/-- A tie, two lines of one block each, and a block at the ends of its ranges. -/
theorem witness_Arithmetic :
    ((2 : Nat) < 120 ∧ 2 * ((6 : Int) - rneShr 6 2 * (2 ^ 2 : Nat)).natAbs = 2 ^ 2 ∧ (0 : Nat) < 2)
    ∧ ([TF.blk 3 1 0 8].length ≤ 2 ^ 40 ∧ ∀ b ∈ [TF.blk 3 1 0 8], b.m = 1 ∧ b.e = 0 ∧ b.codes.length = 32 ∧ ∀ c ∈ b.codes, -128 ≤ c ∧ c ≤ 127)
    ∧ ((2 : Nat) < 3 ∧ (TF.blk 4 255 (-128) 32).m < 256 ∧ -128 ≤ (TF.blk 4 255 (-128) 32).e ∧ (TF.blk 4 255 (-128) 32).e ≤ 127
      ∧ ∀ c ∈ (TF.blk 4 255 (-128) 32).codes, c.natAbs ≤ 2 ^ 31) := by decide +kernel

/-- A tensor of two lines of two blocks in S8, its second line, and an address behind its scales. -/
theorem witness_TensorStorage :
    ((TF.dd 0 false).fmt < 4 ∧ (TF.dd 0 false).kind ≠ 3)
    ∧ ([TF.blk 3 200 (-128) 8, TF.blk 4 255 127 8].length = (TF.dd 0 false).blocks ∧ (TF.dd 0 false).len = 32 * (TF.dd 0 false).blocks
      ∧ (∀ b ∈ [TF.blk 3 200 (-128) 8, TF.blk 4 255 127 8], b.codes.length = 32 ∧ b.m < 256 ∧ -128 ≤ b.e ∧ b.e ≤ 127
          ∧ ∀ c ∈ b.codes, -(2 ^ (fmtBits (TF.dd 0 false).fmt - 1) : Nat) ≤ c ∧ c < (2 ^ (fmtBits (TF.dd 0 false).fmt - 1) : Nat))
      ∧ 0x100 + 1 * (TF.dd 0 false).stride + (TF.dd 0 false).lineBytes ≤ 0x100 + (TF.dd 0 false).scaleOff + 2 * (TF.dd 0 false).blocks * 1)
    ∧ (Fits (TF.dd 0 false) [[TF.blk 3 200 (-128) 8, TF.blk 4 255 127 8], [TF.blk 5 1 0 8, TF.blk 6 1 0 8]] ∧ Outside ((TF.dd 0 false).ranges 0x100) 0x1000) := by
  refine ⟨by decide +kernel, by decide +kernel, ?_, ?_⟩
  · unfold Fits; decide +kernel
  · unfold Outside; decide +kernel

/-- No correction is due; one by 2; one by 0. -/
theorem witness_SlewTick :
    ((TB.slewS 3 1 1023).time.lastSlew ≠ 0 ∧ (TB.slewS 3 1 1023).time.refTicks + 1 < (TB.slewS 3 1 1023).time.lastSlew + 1024)
    ∧ ((TB.slewS 3 1 1024).time.slew ≠ 0 ∧ (TB.slewS 3 1 1024).time.lastSlew + 1024 ≤ (TB.slewS 3 1 1024).time.refTicks + 1 ∧ 0 < (TB.slewS 3 1 1024).time.slew)
    ∧ ((TB.slewS (-3) 0 1024).time.slew ≠ 0 ∧ (TB.slewS (-3) 0 1024).time.lastSlew = 0 ∧ (TB.slewS (-3) 0 1024).time.slew < 0) := by decide +kernel

/-- A region below WARN, a hot region, and every region good for HOLD. -/
theorem witness_MarginAndVoltage :
    (((TN.lowS TN.on5).getRegionClk 5).pllOn = true ∧ TN.mg TN.low5 5 < (TN.lowS TN.on5).warn 5 ∧ (TN.lowS TN.on5).vout < (TN.lowS TN.on5).fuses.vmax
      ∧ (TN.lowS TN.on5).settled_ = true)
    ∧ (((TN.tickS TN.on5).getRegionClk 5).pllOn = true ∧ (TN.tickS TN.on5).warn 5 ≤ TN.mg [] 5 ∧ (TN.tickS TN.on5).fld .clkTherm [] 0 8 ≤ TN.tp TN.hot5 5
      ∧ ((TN.tickS TN.on5).getRegionClk 5).mux = .stable ∧ ((TN.tickS TN.on5).getRegionClk 5).locked = true ∧ ((TN.tickS TN.on5).getRegionClk 5).step < 7)
    ∧ ((∀ r, r < 16 → ((TN.capAt TN.on5).getRegionClk r).pllOn = true → ((TN.capAt TN.on5).getRegionClk r).step = (TN.capAt TN.on5).fld .clkCap [] 0 3
        ∧ (TN.capAt TN.on5).recover r ≤ TN.mg [] r ∧ TN.tp [] r < (TN.capAt TN.on5).fld .clkTherm [] 0 8
        ∧ (TN.capAt TN.on5).held ((TN.capAt TN.on5).getRegionClk r).goodFrom = true)
      ∧ (TN.capAt TN.on5).recover 16 ≤ TN.mg [] 16 ∧ (TN.capAt TN.on5).held (TN.capAt TN.on5).clk.meshGood = true
      ∧ (TN.capAt TN.on5).clk.lowered + (TN.capAt TN.on5).hold ≤ (TN.capAt TN.on5).time.refTicks ∧ (TN.capAt TN.on5).fuses.vnom < (TN.capAt TN.on5).vout) := by
  decide +kernel

/-! ### Commands that are not well-formed -/

theorem test_wf_refuses_a_doubleword_at_its_address : Instr.wf (.misaligned core0 0x100000 8 false) = false := by decide
theorem test_wf_refuses_37_corrupt_symbols : Instr.wf (.matmul 0 { syms := [(0, 37)] }) = false := by decide
theorem test_wf_refuses_scrub_beyond_the_stack : Instr.wf (.patrolScrub 0 18432 {}) = false := by decide
theorem test_wf_refuses_zeroing_beyond_the_stack : Instr.wf (.frameZero false 0 18432) = false := by decide
theorem test_wf_refuses_a_short_flit : Instr.wf (.vc0FlitReceive 0 0 [] none) = false := by decide
theorem test_wf_refuses_a_first_arrival_in_a_replay_slot : Instr.wf (.vc0FlitReceive 0 57 (List.replicate 40 0) none) = false := by decide
theorem test_wf_refuses_a_short_control_flit : Instr.wf (.linkControlFlit 0 [] 0) = false := by decide
theorem test_wf_refuses_a_bad_flit_of_slot_62 : Instr.wf (.frameSend 0 [62]) = false := by decide
theorem test_wf_refuses_a_short_replay_flit : Instr.wf (.replayFlitReceive 0 0 [] none) = false := by decide
theorem test_wf_refuses_a_packet_on_vc0 : Instr.wf (.packetReceive 0 0) = false := by decide
theorem test_wf_refuses_a_short_chunk : Instr.wf (.headerChunk none []) = false ∧ Instr.wf (.dataChunk none []) = false ∧ Instr.wf (.endChunk none []) = false := by
  decide
theorem test_wf_refuses_an_image_piece_off_4096 : Instr.wf (.imagePacket 0 0 0 1 4096 []) = false := by decide
theorem test_wf_refuses_a_short_digest :
    Instr.wf (.prepare { src := 0, part := 0, gen := 0, imageId := [0] }) = false ∧ Instr.wf (.preemptGo { src := 0, part := 0, gen := 0, imageId := [0] }) = false := by
  decide
theorem test_wf_refuses_a_short_seed : Instr.wf (.stepMessage 0 0
    { step := 2, variant := 0, rows := [], releases := [],
      params := [(0, { seed := [], invTemp := 0, topk := 0, topp := 0, rep := 0, pres := 0, freq := 0, penWindow := 0, draftLen := 0, maxNew := 1 })] }) = false := by
  decide
theorem test_wf_refuses_cxl_rate_3 : Instr.wf (.cxlLinkUp 0 3 false) = false := by decide
theorem test_wf_refuses_a_failed_frame_beyond_the_stack : Instr.wf (.memCmdDone 0 [18432]) = false := by decide
theorem test_wf_refuses_an_aperture_write_of_other_length : Instr.wf (.apertureAccess 0 0 0 2 (some [0]) {}) = false := by decide
theorem test_wf_refuses_a_short_firmware_part : Instr.wf (.fwPart 0 1 0 []) = false := by decide
theorem test_wf_refuses_a_short_nonce : Instr.wf (.svcAttest 0 0 []) = false := by decide
theorem test_wf_refuses_nine_bytes : Instr.wf (.regReq 0 false 0 0 9) = false := by decide

/-! ### Values worked in the manual -/

/-- 04_tile_and_arithmetic.md, "One output element, worked": the accumulator after two blocks. -/
theorem test_accumulator_of_two_blocks :
    ((({} : Acc).apply 41231 201 151 (-14) (-12)).apply (-9877) 181 143 (-13) (-12)) = { mant := 370054649, exp := -25, empty := false } := by decide +kernel

/-- The same example: the drain with its neighbour column. -/
theorem test_pack_of_two_columns :
    pack32 [(370054649, -25), (5100000001, -25)] = ({ codes := [92513662, 1275000000], m := 1, e := -23 }, false) := by decide +kernel

/-- The same block requantised to S8 ("Continuing the worked element"). -/
theorem test_requantise_two_columns :
    requantMax { codes := [92513662, 1275000000], m := 1, e := -23 } 0 = ({ codes := [9, 126], m := 154, e := -7 }, false)
      ∧ Block.scaleBytes { codes := [], m := 154, e := -7 } = [0x9A, 0xF9] := by decide +kernel

/-- "Softmax of two scores, worked". -/
theorem test_softmax_of_two_scores : softmaxRow [some 0, some (-68139)] = [793276299, 280465525] := by decide +kernel

/-- R10's example: p(13,20) is tile 332 and lies in G11; its control registers start at 0x114C_0000. -/
theorem test_window_of_tile_13_20 : (tileInst 332).base = 0x114C0000 ∧ regionOf 332 = 11 := by decide +kernel

/-- "Worked example: a fused-off vault stack on grade B": the four words of entry 21. -/
theorem test_swatch_of_a_fused_vault :
    (List.range 4).map (fun j => ({ base with fuses := { base.fuses with grade := 2 } }).swtWord (0x2A0 + 8 * j))
      = [0x0048000010020022, 0x40000, 0x100000000, 0x7F00000000000000] := by decide +kernel

/-- "A prompt handed to the Serving Engine, worked": slot 3 under generation 17 is context 0x0223. -/
theorem test_identifier_of_slot_3 : CtxId.toNat { slot := 3, gen := 17 } = 0x0223 := by decide +kernel

/-! ### Single steps -/

/-- R21: a register that a command may write reads back what was written. -/
theorem test_write_then_read :
    (match exec (.registerWrite core0 (BitVec.ofNat 32 (RegName.cloArg0.addr [])) 0x123) base with | .next t => t.rg .cloArg0 [] | _ => 0) = 0x123 := by
  decide +kernel

/-- With no command waiting a step answers a next state, whose queue is empty (the model's choice, log entry 3). -/
theorem test_idle_step_leaves_the_queue_empty :
    (match Sys2Proof.Machine.step base with | .next t => t.pending.isEmpty | _ => false) = true := by decide +kernel

/-- R38: 0x5EC0 written to EXPERT_UNLOCK of a block without an expert level raises L0 EXPERT_LOCKED, which enters the fault ring. -/
theorem test_expert_locked_is_recorded :
    (match exec (.expertUnlock core0 (BitVec.ofNat 32 ((instAt (RegName.cloArg0.addr [])).getD (tileInst 0)).unlockAddr) 0x5EC0) base with
      | .next t => t.flt.ring.length | _ => 0) = 1 := by decide +kernel

end Sys2Proof.Tests
end

section
/-! Frames of operations: the parts of the state and the registers that an operation leaves alone, said once for the updates that
operations are made of, and what a run of updates does to one thing that it observes. -/

namespace Sys2Proof.Machine

open Sys2Proof.Safety

/-! ### One part changed -/

section
variable {s : State}

theorem onlyChanges_csr {m : KMap Word} : OnlyChanges [.csr] s { s with csr := m } :=
  ⟨rfl, fun p hp => by cases p <;> simp_all [Part.same]⟩

theorem onlyChanges_out {l : List Out} : OnlyChanges [.out] s { s with out := l } :=
  ⟨rfl, fun p hp => by cases p <;> simp_all [Part.same]⟩

theorem onlyChanges_ctx {m : KMap Ctx} : OnlyChanges [.ctx] s { s with ctx := m } :=
  ⟨rfl, fun p hp => by cases p <;> simp_all [Part.same]⟩

theorem onlyChanges_tile {m : KMap Tile} : OnlyChanges [.tile] s { s with tile := m } :=
  ⟨rfl, fun p hp => by cases p <;> simp_all [Part.same]⟩

theorem onlyChanges_hbm {m : KMap Hbm} : OnlyChanges [.hbm] s { s with hbm := m } :=
  ⟨rfl, fun p hp => by cases p <;> simp_all [Part.same]⟩

theorem onlyChanges_cxl {m : KMap Cxl} : OnlyChanges [.cxl] s { s with cxl := m } :=
  ⟨rfl, fun p hp => by cases p <;> simp_all [Part.same]⟩

theorem onlyChanges_vault {m : KMap Vault} : OnlyChanges [.vault] s { s with vault := m } :=
  ⟨rfl, fun p hp => by cases p <;> simp_all [Part.same]⟩

theorem onlyChanges_net {x : Fabric} : OnlyChanges [.net] s { s with net := x } :=
  ⟨rfl, fun p hp => by cases p <;> simp_all [Part.same]⟩

theorem onlyChanges_cloOp {o : Option CloOp} : OnlyChanges [.cloOp] s { s with cloOp := o } :=
  ⟨rfl, fun p hp => by cases p <;> simp_all [Part.same]⟩

theorem onlyChanges_loader {o : Option Loader} : OnlyChanges [.loader] s { s with loader := o } :=
  ⟨rfl, fun p hp => by cases p <;> simp_all [Part.same]⟩

end

theorem Part.same_trans {a b c : State} (p : Part) (h : p.same a b) (k : p.same b c) : p.same a c := by
  cases p <;> simp_all [Part.same]

/-! ### Frames -/

/-- What happens between two states changes only the parts `ps`, and of the stored registers only those at the addresses `as`. -/
structure Frame (ps : List Part) (as : Nat → Prop) (s t : State) : Prop where
  parts : OnlyChanges ps s t
  regs  : ∀ (n : RegName) (ix : List Nat), ¬as (n.addr ix) → t.rg n ix = s.rg n ix

theorem Frame.refl {ps : List Part} {as : Nat → Prop} {s : State} : Frame ps as s s :=
  ⟨⟨rfl, fun p _ => by cases p <;> simp [Part.same]⟩, fun _ _ _ => rfl⟩

theorem Frame.trans {ps : List Part} {as : Nat → Prop} {a b c : State} (h : Frame ps as a b) (k : Frame ps as b c) : Frame ps as a c :=
  ⟨⟨k.parts.1.trans h.parts.1, fun p hp => Part.same_trans p (h.parts.2 p hp) (k.parts.2 p hp)⟩,
    fun n ix hn => (k.regs n ix hn).trans (h.regs n ix hn)⟩

theorem Frame.mono {ps qs : List Part} {as bs : Nat → Prop} {s t : State} (h : Frame ps as s t) (hp : ps ⊆ qs) (ha : ∀ a, as a → bs a) :
    Frame qs bs s t :=
  ⟨⟨h.parts.1, fun p hn => h.parts.2 p fun x => hn (hp x)⟩, fun n ix hn => h.regs n ix fun x => hn (ha _ x)⟩

/-- A part outside a frame is the same. -/
theorem Frame.same {ps : List Part} {as : Nat → Prop} {s t : State} (h : Frame ps as s t) (p : Part) (hp : p ∉ ps) : p.same s t :=
  h.parts.2 p hp

theorem Frame.regsKept {ps : List Part} {l : List Nat} {s t : State} (h : Frame ps (· ∈ l) s t) : RegsKept l s t := h.regs

section
variable {ps : List Part} {as : Nat → Prop} {s0 s : State}

/-- Another part changed that the frame names, and no register. -/
theorem Frame.part {t : State} {p : Part} (h : Frame ps as s0 s) (ht : OnlyChanges [p] s t) (hp : p ∈ ps) (hc : t.csr = s.csr) :
    Frame ps as s0 t :=
  h.trans ⟨⟨ht.1, fun q hq => ht.2 q fun x => hq (List.mem_singleton.1 x ▸ hp)⟩, fun n ix _ => State.rg_congr hc n ix⟩

theorem State.setRg_frame (h : Frame ps as s0 s) {n : RegName} {ix : List Nat} {w : Word} (hp : .csr ∈ ps) (ha : as (n.addr ix)) :
    Frame ps as s0 (s.setRg n ix w) :=
  h.trans ⟨⟨rfl, fun q hq => onlyChanges_csr.2 q fun x => hq (List.mem_singleton.1 x ▸ hp)⟩,
    fun m jx hm => State.rg_setRg_ne s n m ix jx w fun e => hm (e ▸ ha)⟩

theorem State.setFld_frame (h : Frame ps as s0 s) {n : RegName} {ix : List Nat} {lo k v : Nat} (hp : .csr ∈ ps) (ha : as (n.addr ix)) :
    Frame ps as s0 (s.setFld n ix lo k v) := State.setRg_frame h hp ha

theorem State.setBit_frame (h : Frame ps as s0 s) {n : RegName} {ix : List Nat} {i : Nat} {b : Bool} (hp : .csr ∈ ps) (ha : as (n.addr ix)) :
    Frame ps as s0 (s.setBit n ix i b) := State.setRg_frame h hp ha

theorem State.clrRg_frame (h : Frame ps as s0 s) {n : RegName} {ix : List Nat} (hp : .csr ∈ ps) (ha : as (n.addr ix)) :
    Frame ps as s0 (s.clrRg n ix) := State.setRg_frame h hp ha

theorem State.finish_frame (h : Frame ps as s0 s) {n : RegName} {ix : List Nat} {st : Status} (hp : .csr ∈ ps) (ha : as (n.addr ix)) :
    Frame ps as s0 (s.finish n ix st) := State.setFld_frame (State.setFld_frame h hp ha) hp ha

theorem State.modCtx_frame (h : Frame ps as s0 s) {k : Nat} {f : Ctx → Ctx} (hp : .ctx ∈ ps) : Frame ps as s0 (s.modCtx k f) :=
  h.part onlyChanges_ctx hp rfl

theorem State.modPart_frame (h : Frame ps as s0 s) {k : Nat} {f : PartEntry → PartEntry} (hp : .ctx ∈ ps) : Frame ps as s0 (s.modPart k f) :=
  State.modCtx_frame h hp

theorem State.modTile_frame (h : Frame ps as s0 s) {k : Nat} {f : Tile → Tile} (hp : .tile ∈ ps) : Frame ps as s0 (s.modTile k f) :=
  h.part onlyChanges_tile hp rfl

theorem State.modHbm_frame (h : Frame ps as s0 s) {k : Nat} {f : Hbm → Hbm} (hp : .hbm ∈ ps) : Frame ps as s0 (s.modHbm k f) :=
  h.part onlyChanges_hbm hp rfl

theorem State.modCxl_frame (h : Frame ps as s0 s) {k : Nat} {f : Cxl → Cxl} (hp : .cxl ∈ ps) : Frame ps as s0 (s.modCxl k f) :=
  h.part onlyChanges_cxl hp rfl

theorem State.modVault_frame (h : Frame ps as s0 s) {k : Nat} {f : Vault → Vault} (hp : .vault ∈ ps) : Frame ps as s0 (s.modVault k f) :=
  h.part onlyChanges_vault hp rfl

theorem State.emit_frame (h : Frame ps as s0 s) {o : Out} (hp : .out ∈ ps) : Frame ps as s0 (s.emit o) :=
  h.part onlyChanges_out hp rfl

theorem Frame.net (h : Frame ps as s0 s) {x : Fabric} (hp : .net ∈ ps) : Frame ps as s0 { s with net := x } :=
  h.part onlyChanges_net hp rfl

theorem Frame.cloOp (h : Frame ps as s0 s) {o : Option CloOp} (hp : .cloOp ∈ ps) : Frame ps as s0 { s with cloOp := o } :=
  h.part onlyChanges_cloOp hp rfl

theorem Frame.loader (h : Frame ps as s0 s) {o : Option Loader} (hp : .loader ∈ ps) : Frame ps as s0 { s with loader := o } :=
  h.part onlyChanges_loader hp rfl

/-- A run of operations, each of which stays in the frame of what went before. -/
theorem State.each_frame {α : Type} {f : State → α → State} {l : List α} (h : Frame ps as s0 s)
    (hf : ∀ a ∈ l, ∀ t, Frame ps as s0 t → Frame ps as s0 (f t a)) : Frame ps as s0 (s.each l f) := by
  unfold State.each
  induction l generalizing s with
  | nil => exact h
  | cons a l ih => exact ih (hf a (List.mem_cons_self ..) _ h) fun b hb => hf b (List.mem_cons_of_mem _ hb)

end

/-! ### What a run of updates does to one thing -/

theorem State.each_cons {α : Type} (s : State) (a : α) (l : List α) (f : State → α → State) : s.each (a :: l) f = (f s a).each l f := rfl

/-- An observation that no operation of a run changes. -/
theorem State.each_never {α β : Type} {f : State → α → State} (obs : State → β) {l : List α} {s : State}
    (h : ∀ b ∈ l, ∀ t, obs (f t b) = obs t) : obs (s.each l f) = obs s := by
  induction l generalizing s with
  | nil => rfl
  | cons b l ih =>
    rw [State.each_cons, ih fun c hc => h c (List.mem_cons_of_mem _ hc), h b (List.mem_cons_self ..)]

/-- An observation that one operation of a run changes, and no other. -/
theorem State.each_once {α β : Type} {f : State → α → State} (obs : State → β) {l : List α} {s : State} {a : α} {g : β → β} (ha : a ∈ l)
    (hl : l.Nodup) (hself : ∀ t, obs (f t a) = g (obs t)) (hother : ∀ b ∈ l, b ≠ a → ∀ t, obs (f t b) = obs t) :
    obs (s.each l f) = g (obs s) := by
  induction l generalizing s with
  | nil => cases ha
  | cons b l ih =>
    obtain ⟨hb, hl⟩ := List.nodup_cons.1 hl
    rw [State.each_cons]
    by_cases hba : b = a
    · subst hba
      rw [State.each_never obs fun c hc => hother c (List.mem_cons_of_mem _ hc) fun e => hb (e ▸ hc), hself]
    · have hal : a ∈ l := (List.mem_cons.1 ha).resolve_left fun e => hba e.symm
      rw [ih hal hl fun c hc => hother c (List.mem_cons_of_mem _ hc), hother b (List.mem_cons_self ..) hba]

/-! ### Reads of states that agree on a part -/

theorem State.getCtx_congr {s t : State} (h : t.ctx = s.ctx) (k : Nat) : t.getCtx k = s.getCtx k := by
  rw [State.getCtx, h, State.getCtx]

theorem State.getTile_congr {s t : State} (h : t.tile = s.tile) (x : Nat) : t.getTile x = s.getTile x := by
  rw [State.getTile, h, State.getTile]

theorem State.getVault_congr {s t : State} (h : t.vault = s.vault) (v : Nat) : t.getVault v = s.getVault v := by
  rw [State.getVault, h, State.getVault]

/-! ### Fields of a word that is packed -/

theorem field_or (a b : Word) (lo n : Nat) : field (a ||| b) lo n = field a lo n ||| field b lo n := by
  refine Nat.eq_of_testBit_eq fun i => ?_
  simp only [field, Nat.testBit_or, fieldN_testBit, BitVec.toNat_or, Bool.and_or_distrib_left]

@[simp] theorem field_pack_nil (lo n : Nat) : field (pack []) lo n = 0 := by simp [pack, field, fieldN]

/-- The field that the first entry packs, which no later entry packs. -/
theorem field_pack_head {lo n v : Nat} {r : List (Nat × Nat × Nat)} (h : lo + n ≤ 64) (hr : field (pack r) lo n = 0) :
    field (pack ((lo, n, v) :: r)) lo n = v % 2 ^ n := by
  have hlt : v % 2 ^ n * 2 ^ lo < 2 ^ 64 := by
    calc v % 2 ^ n * 2 ^ lo < 2 ^ n * 2 ^ lo := Nat.mul_lt_mul_of_pos_right (Nat.mod_lt _ (Nat.two_pow_pos n)) (Nat.two_pow_pos lo)
      _ = 2 ^ (lo + n) := by rw [← Nat.pow_add, Nat.add_comm]
      _ ≤ 2 ^ 64 := Nat.pow_le_pow_right (by decide) h
  rw [pack, field_or, hr, Nat.or_zero, field, Word.ofNat, BitVec.toNat_ofNat, Nat.mod_eq_of_lt hlt, fieldN,
    Nat.mul_div_cancel _ (Nat.two_pow_pos lo), Nat.mod_mod]

/-- A field beside the one that the first entry packs. -/
theorem field_pack_tail {lo n v lo' n' : Nat} {r : List (Nat × Nat × Nat)} (h : lo' + n' ≤ lo ∨ lo + n ≤ lo') :
    field (pack ((lo, n, v) :: r)) lo' n' = field (pack r) lo' n' := by
  have hz : field (Word.ofNat (v % 2 ^ n * 2 ^ lo)) lo' n' = 0 := by
    refine Nat.eq_of_testBit_eq fun i => ?_
    rw [field, fieldN_testBit, Word.ofNat, BitVec.toNat_ofNat, Nat.testBit_mod_two_pow, Nat.mul_comm, Nat.testBit_two_pow_mul,
      Nat.testBit_mod_two_pow, Nat.zero_testBit]
    by_cases hi : i < n'
    · rcases h with h | h
      · simp [show ¬lo ≤ lo' + i by omega]
      · simp [show ¬lo' + i - lo < n by omega]
    · simp [hi]
  rw [pack, field_or, hz, Nat.zero_or]

/-! ### The first of several conditions (R12) -/

@[simp] theorem firstOf_nil : firstOf [] = none := rfl

/-- A condition that does not hold plays no part. -/
@[simp] theorem firstOf_false (st : Status) (r : List (Bool × Status)) : firstOf ((false, st) :: r) = firstOf r := rfl

/-- A condition that holds and that none of the later ones precedes. -/
theorem firstOf_true {st : Status} {r : List (Bool × Status)} (h : ∀ e ∈ r, st.rank ≤ e.2.rank) : firstOf ((true, st) :: r) = some st := by
  have stays : ∀ l : List (Bool × Status), (∀ e ∈ l, st.rank ≤ e.2.rank) →
      l.foldl (fun best c => match best with
        | none => some c.2
        | some b => if c.2.rank < b.rank then some c.2 else some b) (some st) = some st := by
    intro l hl
    induction l with
    | nil => rfl
    | cons e l ih =>
      have he := hl e (List.mem_cons_self ..)
      simp only [List.foldl_cons]
      rw [if_neg (by omega)]
      exact ih fun x hx => hl x (List.mem_cons_of_mem _ hx)
  exact stays _ fun e he => h e (List.mem_filter.1 he).1

end Sys2Proof.Machine
end

section
/-! The frames of the operations that a load is made of, and what LDR_CMD answers (07_plan_images.md). -/

namespace Sys2Proof.Machine

open Sys2Proof.Safety

/-! ### Frames of the shared operations -/

section
variable {ps : List Part} {as : Nat → Prop} {s0 s : State}

theorem State.frameClear_frame (h : Frame ps as s0 s) {f : FrameId} (hp : [.hbm, .cxl] ⊆ ps) : Frame ps as s0 (s.frameClear f) := by
  unfold State.frameClear
  split
  · exact State.modCxl_frame h (hp (by simp))
  · exact State.modHbm_frame h (hp (by simp))

theorem State.frameWrite_frame (h : Frame ps as s0 s) {f : FrameId} {off : Nat} {bs : List Byte} (hp : [.hbm, .cxl] ⊆ ps) :
    Frame ps as s0 (s.frameWrite f off bs) := by
  unfold State.frameWrite
  split
  · exact State.modCxl_frame h (hp (by simp))
  · exact State.modHbm_frame h (hp (by simp))

theorem State.endFlagWatch_frame (h : Frame ps as s0 s) {w : Nat} {st : Status} {suspended : Bool} (hp : [.csr, .out] ⊆ ps)
    (ha : as (RegName.mgtFlagWatch.addr [w])) : Frame ps as s0 (s.endFlagWatch w st suspended) :=
  have hc : Part.csr ∈ ps := hp (by simp)
  State.emit_frame (State.setFld_frame (State.setBit_frame (State.setBit_frame (State.setBit_frame h hc ha) hc ha) hc ha) hc ha) (hp (by simp))

theorem State.flagWrites_frame (h : Frame ps as s0 s) {k va n : Nat} (hp : [.csr, .out] ⊆ ps)
    (ha : ∀ w, w < 16 → as (RegName.mgtFlagWatch.addr [w])) : Frame ps as s0 (s.flagWrites k va n) := by
  refine State.each_frame h fun w hw t ht => ?_
  have hw : w < 16 := List.mem_range.1 (List.mem_filter.1 hw).1
  split
  · split
    · exact State.endFlagWatch_frame ht hp (ha w hw)
    · exact ht
  · exact ht

/-- No page of a context is in an exchange (R260). -/
def State.Settled (s : State) (k : Nat) : Prop := ∀ page, (KMap.get {} (s.getCtx k).pt page).moving = false

theorem State.Settled.pte {s : State} {k va : Nat} {e : Pte} (h : s.Settled k) (he : s.pte k va = some e) : e.moving = false := by
  simp only [State.pte, Option.ite_none_right_eq_some, Option.some.injEq] at he
  obtain ⟨-, rfl⟩ := he
  exact h _

theorem State.Settled.congr {s t : State} {k : Nat} (h : s.Settled k) (ht : t.ctx = s.ctx) : t.Settled k := by
  intro page
  rw [State.getCtx_congr ht]
  exact h page

/-- A store of a context of which no page is in an exchange writes its frames, and flag watches may end. -/
theorem State.ctxWrite_frame (h : Frame ps as s0 s) {k va tile mop : Nat} {bs : List Byte} (hk : s.Settled k)
    (hp : [.csr, .hbm, .cxl, .out] ⊆ ps) (ha : ∀ w, w < 16 → as (RegName.mgtFlagWatch.addr [w])) :
    Frame ps as s0 (s.ctxWrite k va bs tile mop) := by
  have hps : [Part.hbm, .cxl] ⊆ ps ∧ [Part.csr, .out] ⊆ ps := by simp_all
  unfold State.ctxWrite
  refine State.flagWrites_frame (h.trans (Frame.mono (ps := [.hbm, .cxl]) (State.each_frame Frame.refl fun p _ t ht => ?_) hps.1
    fun _ x => x)) hps.2 ha
  have hk : t.Settled k := hk.congr (ht.same .ctx (by decide))
  dsimp only
  split
  · next e he =>
    rw [hk.pte he, if_neg (by decide)]
    split
    · exact State.frameWrite_frame ht (by simp)
    · exact ht
  · exact ht

theorem State.endSyncWatch_frame (h : Frame ps as s0 s) {t w : Nat} {st : Status} {suspended : Bool} (hc : .csr ∈ ps)
    (ha : as (RegName.tilSyncWatch.addr [t, w])) : Frame ps as s0 (s.endSyncWatch t w st suspended) :=
  State.setFld_frame (State.setBit_frame (State.setBit_frame (State.setBit_frame h hc ha) hc ha) hc ha) hc ha

theorem State.reclaimVault_frame (h : Frame ps as s0 s) {v : Nat} {i : CtxId} (hp : .vault ∈ ps) : Frame ps as s0 (s.reclaimVault v i) := by
  unfold State.reclaimVault
  split
  · exact h
  · exact State.modVault_frame h hp

theorem State.endRunning_frame (h : Frame ps as s0 s) {p : EndReq → Bool} (hp : .vault ∈ ps) : Frame ps as s0 (s.endRunning p) :=
  State.each_frame h fun _ _ _ ht => State.each_frame (State.modVault_frame ht hp) fun _ _ _ hu => State.reclaimVault_frame hu hp

theorem dropApers_frame (h : Frame ps as s0 s) {k : Nat} (hp : .csr ∈ ps) (ha : ∀ a, a < 64 → as (RegName.mgtAper.addr [a])) :
    Frame ps as s0 (dropApers s k) := by
  refine State.each_frame h fun a hl t ht => ?_
  have ha := ha a (List.mem_range.1 hl)
  split
  · exact State.setBit_frame (State.setBit_frame ht hp ha) hp ha
  · exact ht

theorem State.dropCloOp_frame (h : Frame ps as s0 s) {k : Nat} {st : Status} (hp : [.csr, .cloOp] ⊆ ps) (ha : as (RegName.cloCmdStatus.addr [])) :
    Frame ps as s0 (s.dropCloOp k st) := by
  have ends : Frame ps as s0 { s.finish .cloCmdStatus [] st with cloOp := none } :=
    Frame.cloOp (State.finish_frame h (hp (by simp)) ha) (hp (by simp))
  unfold State.dropCloOp
  split
  · split
    · exact ends
    · exact h
  · split
    · exact ends
    · exact h
  · exact h

end

theorem State.dropCloOp_none {s : State} {k : Nat} {st : Status} (h : s.cloOp = none) : s.dropCloOp k st = s := by
  simp [State.dropCloOp, h]

@[simp] theorem State.getCtx_dropCloOp (s : State) (k j : Nat) (st : Status) : (s.dropCloOp k st).getCtx j = s.getCtx j :=
  State.getCtx_congr ((State.dropCloOp_frame (ps := [.csr, .cloOp]) (as := fun _ => True) Frame.refl (by simp) trivial).same .ctx (by decide)) j

/-! ### LDR_CMD (R175) -/

theorem CtxId.slot_ofNat_lt (x : Nat) : (CtxId.ofNat x).slot < 32 := Nat.mod_lt _ (by decide)

/-- A live identifier is the current one of its slot. -/
theorem State.idOf_of_live {s : State} {i : CtxId} (h : s.live i = true) : s.idOf i.slot = i := by
  simp only [State.live, Bool.and_eq_true, beq_iff_eq] at h
  obtain ⟨⟨⟨-, hg⟩, -⟩, -⟩ := h
  rw [State.idOf, hg]

theorem exec_imageLoad {s : State} (acc : Accessor) (v : Word) (h : s.absent srcClo = false) :
    exec (.imageLoad acc v) s = .next (cmdLoad s acc v) := by
  have hx : exec (.imageLoad acc v) s = .next (onBlock s srcClo fun s => cmdLoad s acc v) := rfl
  rw [hx, onBlock, if_neg (by simp [h])]

/-- The conditions that refuse a load, in the order of R12. -/
def State.loadConds (s : State) (acc : Accessor) (k : CtxId) (src len : Nat) : List (Bool × Status) :=
  [(!s.live k, .stale), (!s.owns acc k.slot, .denied), (src % 64 != 0 || !mgtRange src len false, .rejected), (!s.canLoad k.slot, .busy)]

/-- LDR_REFUSE after a load that was refused. -/
def State.refuseLoad (s : State) (k : CtxId) (code : Nat) : State := s.setRg .ldrRefuse [] (pack [(0, 8, code), (8, 5, k.slot), (13, 1, 1)])

theorem cmdLoad_of_some {s : State} {acc : Accessor} {v : Word} {st : Status}
    (h : firstOf (s.loadConds acc (CtxId.ofNat v.toNat) (s.rg .ldrSrc []).toNat (s.rg .ldrLen []).toNat) = some st) :
    cmdLoad s acc v = s.refuseLoad (CtxId.ofNat v.toNat) st.code := by
  rw [State.loadConds] at h
  simp only [cmdLoad, h]
  rfl

theorem cmdLoad_of_none {s : State} {acc : Accessor} {v : Word}
    (h : firstOf (s.loadConds acc (CtxId.ofNat v.toNat) (s.rg .ldrSrc []).toNat (s.rg .ldrLen []).toNat) = none) :
    cmdLoad s acc v = beginLoad s (CtxId.ofNat v.toNat).slot (s.rg .ldrSrc []).toNat (s.rg .ldrLen []).toNat := by
  rw [State.loadConds] at h
  simp only [cmdLoad, h]

section
variable {s : State} {acc : Accessor} {k : CtxId} {src len : Nat}

theorem loadConds_stale (h : s.live k = false) : firstOf (s.loadConds acc k src len) = some .stale := by
  rw [State.loadConds, h]
  exact firstOf_true (by simp [Status.rank])

theorem loadConds_denied (hl : s.live k = true) (h : s.owns acc k.slot = false) : firstOf (s.loadConds acc k src len) = some .denied := by
  rw [State.loadConds, hl, h]
  exact firstOf_true (by simp [Status.rank])

theorem loadConds_rejected (hl : s.live k = true) (ho : s.owns acc k.slot = true) (h : src % 64 ≠ 0 ∨ mgtRange src len false = false) :
    firstOf (s.loadConds acc k src len) = some .rejected := by
  have hbad : (src % 64 != 0 || !mgtRange src len false) = true := by simpa using h
  rw [State.loadConds, hl, ho, hbad]
  exact firstOf_true (by simp [Status.rank])

theorem loadConds_accepted (hl : s.live k = true) (ho : s.owns acc k.slot = true) (ha : src % 64 = 0) (hr : mgtRange src len false = true) :
    firstOf (s.loadConds acc k src len) = firstOf [(!s.canLoad k.slot, .busy)] := by
  simp [State.loadConds, hl, ho, ha, hr]

end

/-- What LDR_REFUSE reads after a load that was refused: STATUS, SLOT and VALID, and nothing else has changed. -/
theorem refuseLoad_spec (s : State) {k : CtxId} {code : Nat} (hk : k.slot < 32) (hc : code < 256) :
    ((s.refuseLoad k code).fld .ldrRefuse [] 0 8 = code ∧ (s.refuseLoad k code).fld .ldrRefuse [] 8 5 = k.slot
      ∧ (s.refuseLoad k code).bit .ldrRefuse [] 13 = true ∧ RegsKept [RegName.ldrRefuse.addr []] s (s.refuseLoad k code))
    ∧ OnlyChanges [.csr] s (s.refuseLoad k code) := by
  have fr : Frame [.csr] (· ∈ [RegName.ldrRefuse.addr []]) s (s.refuseLoad k code) := State.setRg_frame Frame.refl (by simp) (by simp)
  refine ⟨⟨?_, ?_, ?_, fr.regsKept⟩, fr.parts⟩
  · simp [State.refuseLoad, State.fld, field_pack_head, field_pack_tail, Nat.mod_eq_of_lt hc]
  · simp [State.refuseLoad, State.fld, field_pack_head, field_pack_tail, Nat.mod_eq_of_lt hk]
  · simp [State.refuseLoad, State.bit, bitOf_eq_field, field_pack_head, field_pack_tail]

end Sys2Proof.Machine
end

section
/-! How a load begins (R166, R175, R215). -/

namespace Sys2Proof.Machine

open Sys2Proof.Safety

/-! ### Addresses of the registers that a load writes -/

theorem addr_cloCmdStatus : RegName.addr .cloCmdStatus [] = 0x100020 := rfl
theorem addr_ldrStatus : RegName.addr .ldrStatus [] = 0x110018 := rfl
theorem addr_ldrCtxImage (k j : Nat) : RegName.addr .ldrCtxImage [k, j] = 0x110100 + (0x40 * k + (8 * j + 0)) := rfl
theorem addr_mgtAper (a : Nat) : RegName.addr .mgtAper [a] = 0x701000 + (0x10 * a + 0) := rfl
theorem addr_mgtFlagWatch (w : Nat) : RegName.addr .mgtFlagWatch [w] = 0x702000 + (0x10 * w + 0) := rfl
theorem addr_tilSyncWatch (t w : Nat) : RegName.addr .tilSyncWatch [t, w] = 0x10002700 + (0x10000 * t + (0x10 * w + 0)) := rfl

/-- The registers that the start of a load of a context writes. -/
def loadRegs (k : Nat) : List Nat :=
  RegName.ldrStatus.addr [] :: RegName.cloCmdStatus.addr [] :: ((List.range 6).map fun j => RegName.ldrCtxImage.addr [k, j])
    ++ (List.range 64).map fun a => RegName.mgtAper.addr [a]

theorem ldrStatus_mem_loadRegs (k : Nat) : RegName.ldrStatus.addr [] ∈ loadRegs k := by simp [loadRegs]

theorem cloCmdStatus_mem_loadRegs (k : Nat) : RegName.cloCmdStatus.addr [] ∈ loadRegs k := by simp [loadRegs]

theorem ldrCtxImage_mem_loadRegs (k : Nat) {j : Nat} (h : j < 6) : RegName.ldrCtxImage.addr [k, j] ∈ loadRegs k := by
  simp only [loadRegs, List.cons_append, List.mem_cons, List.mem_append, List.mem_map, List.mem_range]
  exact .inr (.inr (.inl ⟨j, h, rfl⟩))

theorem mgtAper_mem_loadRegs (k : Nat) {a : Nat} (h : a < 64) : RegName.mgtAper.addr [a] ∈ loadRegs k := by
  simp only [loadRegs, List.cons_append, List.mem_cons, List.mem_append, List.mem_map, List.mem_range]
  exact .inr (.inr (.inr ⟨a, h, rfl⟩))

/-! ### The steps of the start -/

/-- A context as the start of a load leaves it, but for its partition entry. -/
def Ctx.unloaded (c : Ctx) : Ctx :=
  { c with image := none, pt := [], varIdx := [], lostMark := false, plan := {},
           serve := { tailors := c.serve.tailors, newReq := c.serve.newReq, release := c.serve.release } }

/-- The first step of `beginLoad`: claims, routes, apertures and the context's own records of its earlier plan go. -/
def dropPlan (s : State) (k : Nat) : State := (dropApers ((s.dropClaims k).dropRoutes k) k).modCtx k Ctx.unloaded

/-- The second: LDR_STATUS shows the load, and the vault queues of the context and LDR_CTX_IMAGE are cleared. -/
def openLoad (s : State) (k : Nat) : State :=
  ((s.setRg .ldrStatus [] (pack [(0, 1, 1), (24, 5, k)])).each (List.range 4) fun s v =>
      s.modVault v fun x => { x with queue := KMap.set [] x.queue k [] }).each (List.range 6) fun s j => s.clrRg .ldrCtxImage [k, j]

/-- The third: a Cloakroom command on the context and a pre-emption of it end. -/
def endCommands (s : State) (k : Nat) : State :=
  (s.dropCloOp k .timeout).modPart k fun e => { e with preempt := none, preUntil := none, go := false }

theorem beginLoad_eq (s : State) (k src len : Nat) :
    beginLoad s k src len =
      { endCommands (openLoad (dropPlan s k) k) k with
        loader := some { ctx := (endCommands (openLoad (dropPlan s k) k) k).idOf k,
                         bytes := (endCommands (openLoad (dropPlan s k) k) k).mgt.read src len,
                         tiles := ((endCommands (openLoad (dropPlan s k) k) k).getCtx k).tiles } } := rfl

section
variable {ps : List Part} {as : Nat → Prop} {s0 s : State} {k : Nat}

theorem State.dropClaims_frame (h : Frame ps as s0 s) (hp : .net ∈ ps) : Frame ps as s0 (s.dropClaims k) := h.net hp

theorem State.dropRoutes_frame (h : Frame ps as s0 s) (hp : .net ∈ ps) : Frame ps as s0 (s.dropRoutes k) := h.net hp

theorem dropPlan_frame (h : Frame ps as s0 s) (hp : [.csr, .ctx, .net] ⊆ ps) (ha : ∀ a, a < 64 → as (RegName.mgtAper.addr [a])) :
    Frame ps as s0 (dropPlan s k) :=
  State.modCtx_frame (dropApers_frame (State.dropRoutes_frame (State.dropClaims_frame h (hp (by simp))) (hp (by simp))) (hp (by simp)) ha)
    (hp (by simp))

theorem openLoad_frame (h : Frame ps as s0 s) (hp : [.csr, .vault] ⊆ ps) (hs : as (RegName.ldrStatus.addr []))
    (hi : ∀ j, j < 6 → as (RegName.ldrCtxImage.addr [k, j])) : Frame ps as s0 (openLoad s k) :=
  State.each_frame (State.each_frame (State.setRg_frame h (hp (by simp)) hs) fun _ _ _ ht => State.modVault_frame ht (hp (by simp)))
    fun j hj _ ht => State.clrRg_frame ht (hp (by simp)) (hi j (List.mem_range.1 hj))

theorem endCommands_frame (h : Frame ps as s0 s) (hp : [.csr, .ctx, .cloOp] ⊆ ps) (ha : as (RegName.cloCmdStatus.addr [])) :
    Frame ps as s0 (endCommands s k) :=
  State.modPart_frame (State.dropCloOp_frame h (by simp_all) ha) (hp (by simp))

end

/-- All of the start but the end of commands and the loader's own record. -/
theorem openLoad_dropPlan_frame (s : State) (k : Nat) :
    Frame [.csr, .ctx, .net, .vault] (fun a => a ∈ loadRegs k ∧ a ≠ RegName.cloCmdStatus.addr []) s (openLoad (dropPlan s k) k) := by
  refine openLoad_frame (dropPlan_frame Frame.refl (by simp) fun a ha => ⟨mgtAper_mem_loadRegs k ha, ?_⟩) (by simp)
    ⟨ldrStatus_mem_loadRegs k, by decide⟩ fun j hj => ⟨ldrCtxImage_mem_loadRegs k hj, ?_⟩
  · rw [addr_mgtAper, addr_cloCmdStatus]; omega
  · rw [addr_ldrCtxImage, addr_cloCmdStatus]; omega

/-- The start of a load changes only the registers that belong to it. -/
theorem beginLoad_frame (s : State) (k src len : Nat) :
    Frame [.csr, .ctx, .net, .vault, .loader, .cloOp] (· ∈ loadRegs k) s (beginLoad s k src len) := by
  have opened := (openLoad_dropPlan_frame s k).mono (qs := [.csr, .ctx, .net, .vault, .loader, .cloOp]) (bs := (· ∈ loadRegs k)) (by simp)
    fun _ h => h.1
  rw [beginLoad_eq]
  exact Frame.loader (endCommands_frame opened (by simp) (cloCmdStatus_mem_loadRegs k)) (by simp)

/-! ### What the start leaves -/

theorem getCtx_dropApers (s : State) (k j : Nat) : (dropApers s k).getCtx j = s.getCtx j :=
  State.getCtx_congr ((dropApers_frame (ps := [.csr]) (as := fun _ => True) Frame.refl (by simp) fun _ _ => trivial).same .ctx (by decide)) j

theorem getCtx_openLoad (s : State) (k j : Nat) : (openLoad s k).getCtx j = s.getCtx j :=
  State.getCtx_congr ((openLoad_frame (ps := [.csr, .vault]) (as := fun _ => True) Frame.refl (by simp) trivial fun _ _ => trivial).same
    .ctx (by decide)) j

theorem beginLoad_getCtx (s : State) (k src len : Nat) :
    (beginLoad s k src len).getCtx k =
      { (s.getCtx k).unloaded with part := { (s.getCtx k).part with preempt := none, preUntil := none, go := false } } := by
  have hd : (dropPlan s k).getCtx k = (s.getCtx k).unloaded := by
    rw [dropPlan, State.getCtx_modCtx_self, getCtx_dropApers]
    rfl
  have he : (beginLoad s k src len).getCtx k = (endCommands (openLoad (dropPlan s k) k) k).getCtx k := rfl
  rw [he, endCommands, State.getCtx_modPart_self, State.getCtx_dropCloOp, getCtx_openLoad, hd]
  rfl

theorem beginLoad_getCtx_ne (s : State) {k j : Nat} (src len : Nat) (h : j ≠ k) : (beginLoad s k src len).getCtx j = s.getCtx j := by
  have he : (beginLoad s k src len).getCtx j = (endCommands (openLoad (dropPlan s k) k) k).getCtx j := rfl
  rw [he, endCommands, State.modPart, State.getCtx_modCtx_ne _ _ _ _ h, State.getCtx_dropCloOp, getCtx_openLoad, dropPlan,
    State.getCtx_modCtx_ne _ _ _ _ h, getCtx_dropApers]
  rfl

theorem beginLoad_loader {s : State} {i : CtxId} (src len : Nat) (h : s.live i = true) :
    (beginLoad s i.slot src len).loader = some { ctx := i, bytes := s.mgt.read src len, tiles := (s.getCtx i.slot).tiles } := by
  have hc := beginLoad_getCtx s i.slot src len
  have hi : (beginLoad s i.slot src len).idOf i.slot = i := by
    rw [State.idOf, hc]
    exact State.idOf_of_live h
  have hm : (beginLoad s i.slot src len).mgt = s.mgt := (beginLoad_frame s i.slot src len).same .mgt (by decide)
  have hl : (beginLoad s i.slot src len).loader = some
      { ctx := (beginLoad s i.slot src len).idOf i.slot, bytes := (beginLoad s i.slot src len).mgt.read src len,
        tiles := ((beginLoad s i.slot src len).getCtx i.slot).tiles } := rfl
  rw [hl, hi, hm, hc]
  rfl

theorem beginLoad_ldrStatus (s : State) (k src len : Nat) :
    (beginLoad s k src len).rg .ldrStatus [] = pack [(0, 1, 1), (24, 5, k)] := by
  have later : Frame [.csr, .ctx, .vault, .loader, .cloOp] (· ≠ RegName.ldrStatus.addr [])
      ((dropPlan s k).setRg .ldrStatus [] (pack [(0, 1, 1), (24, 5, k)])) (beginLoad s k src len) := by
    rw [beginLoad_eq]
    refine Frame.loader (endCommands_frame (State.each_frame (State.each_frame Frame.refl fun _ _ _ ht =>
      State.modVault_frame ht (by simp)) fun j _ _ ht => State.clrRg_frame ht (by simp) ?_) (by simp) (by decide)) (by simp)
    rw [addr_ldrCtxImage, addr_ldrStatus]; omega
  rw [later.regs _ _ (by simp), State.rg_setRg_self]

theorem beginLoad_getVault (s : State) (k src len : Nat) {v : Nat} (hv : v < 4) :
    (beginLoad s k src len).getVault v = { s.getVault v with queue := KMap.set [] (s.getVault v).queue k [] } := by
  have before : (dropPlan s k).getVault v = s.getVault v :=
    State.getVault_congr ((dropPlan_frame (ps := [.csr, .ctx, .net]) (as := fun _ => True) Frame.refl (by simp)
      fun _ _ => trivial).same .vault (by decide)) v
  have after : (beginLoad s k src len).getVault v = (openLoad (dropPlan s k) k).getVault v :=
    State.getVault_congr ((endCommands_frame (ps := [.csr, .ctx, .cloOp]) (as := fun _ => True) Frame.refl (by simp)
      trivial).same .vault (by decide)) v
  rw [after, openLoad, State.each_never (State.getVault · v) fun _ _ t => State.getVault_clrRg t _ _ v,
    State.each_once (State.getVault · v) (List.mem_range.2 hv) List.nodup_range (fun t => State.getVault_modVault_self t v _)
      fun b _ hb t => State.getVault_modVault_ne t b v _ hb.symm,
    State.getVault_setRg, before]

theorem beginLoad_cloOp_none {s : State} (k src len : Nat) (h : s.cloOp = none) :
    (beginLoad s k src len).cloOp = none ∧ (beginLoad s k src len).rg .cloCmdStatus [] = s.rg .cloCmdStatus [] := by
  have opened := openLoad_dropPlan_frame s k
  have hc : (openLoad (dropPlan s k) k).cloOp = none := (opened.same .cloOp (by decide)).trans h
  have hs : (openLoad (dropPlan s k) k).rg .cloCmdStatus [] = s.rg .cloCmdStatus [] := opened.regs _ _ (by simp)
  have later : Frame [.ctx, .loader] (fun _ => False) (openLoad (dropPlan s k) k) (beginLoad s k src len) := by
    rw [beginLoad_eq, endCommands, State.dropCloOp_none hc]
    exact Frame.loader (State.modPart_frame Frame.refl (by simp)) (by simp)
  exact ⟨(later.same .cloOp (by decide)).trans hc, (later.regs _ _ id).trans hs⟩

end Sys2Proof.Machine
end

section
/-! How a load ends (R166 to R171): the plan is placed, or the image is rejected. -/

namespace Sys2Proof.Machine

open Sys2Proof.Safety

/-! ### The page table of a fresh plan -/

/-- What holds of a family's default and of its entries holds of every value read. -/
theorem KMap.get_of_forall {α : Type} {P : α → Prop} {d : α} {m : KMap α} (hd : P d) (h : ∀ e ∈ m, P e.2) (a : Nat) : P (KMap.get d m a) := by
  induction m with
  | nil => exact hd
  | cons e r ih =>
    simp only [KMap.get]
    split
    · exact h e (List.mem_cons_self ..)
    · split
      · exact hd
      · exact ih fun x hx => h x (List.mem_cons_of_mem _ hx)

theorem layPages_settled {page : Nat} {e : Pte} {fs : List FrameId} (he : e.moving = false) : ∀ x ∈ layPages page e fs, x.2.moving = false := by
  intro x hx
  obtain ⟨⟨f, i⟩, -, rfl⟩ := List.mem_map.1 hx
  exact he

/-- No page of a fresh page table is in an exchange. -/
theorem pageTable_settled (gs : List Seg) (n : Nat) (h x : List FrameId) : ∀ e ∈ pageTable gs n h x, e.2.moving = false := by
  induction gs generalizing h x with
  | nil => exact layPages_settled rfl
  | cons g r ih =>
    intro e he
    simp only [pageTable] at he
    split at he
    · exact (List.mem_append.1 he).elim (layPages_settled rfl e) (ih _ _ e)
    · exact (List.mem_append.1 he).elim (layPages_settled rfl e) (ih _ _ e)

/-! ### The steps of placing a plan -/

/-- A context over the pages of a fresh plan. -/
def Ctx.paged (x : Ctx) (im : Img) (c : Nat) : Ctx :=
  { x with dirty := [],
           pt := pageTable (im.segments c) (ceilDiv (im.streamTotal c) pageBytes) (x.hbm.take (im.hbmPages c)) (x.cxl.take (im.cxlPages c)) }

/-- The first step of `placePlan`: the frames of the plan are zeroed and the page table is set. -/
def mapPages (s : State) (k : Nat) (im : Img) (c : Nat) : State :=
  (s.each ((s.getCtx k).hbm.take (im.hbmPages c) ++ (s.getCtx k).cxl.take (im.cxlPages c) ++ (s.getCtx k).dirty) State.frameClear).modCtx k
    fun y => { y with dirty := [], pt := ((s.getCtx k).paged im c).pt }

/-- The second: streams and segment data are written, watches on the tiles end, and so do vault requests that still ran for them. -/
def writePlan (s : State) (k : Nat) (im : Img) (c : Nat) (mapping : List Nat) : State :=
  (dropWatches ((s.each (im.laidStreams c) fun s e => s.ctxWrite k e.2.2.2 (e.2.2.1.flatMap fun o => leBytes 16 o.word)).each (im.segInit c)
      fun s e => s.ctxWrite k (((im.segments c).map Seg.base).getD e.1 0 + e.2.1) e.2.2)
    (im.tiles.map fun vt => mapping.getD vt 576)).endRunning fun e => mapping.contains e.tile

/-- The third: each mapped tile is loaded. -/
def placeTiles (s : State) (im : Img) (c : Nat) (mapping : List Nat) (vault : List (Option (Nat × Nat))) : State :=
  s.each im.tiles fun s vt => s.modTile (mapping.getD vt 576) (loadTile im c vt vault)

/-- The last: routes, claims and LDR_CTX_IMAGE, and the context holds the image. -/
def enterPlan (s : State) (k : Nat) (im : Img) (c : Nat) (mapping : List Nat) : State :=
  (((s.putRoutes k (1 - s.epochOf k) ((im.keep c).routes)).enterClaims k 0 (im.meshStreams c mapping)).each (List.range 6) fun s j =>
      s.setRg .ldrCtxImage [k, j] (Word.ofNat (leAt (im.b.drop (im.b.length - 48)) (8 * j) 8))).modCtx k fun y =>
    { y with image := some (im.keep c), plan := {}, varIdx := KMap.set 256 (KMap.set 256 [] 0 im.h.var0) 1 im.h.var1 }

theorem placePlan_eq (s : State) (k : Nat) (im : Img) (c : Nat) (mapping : List Nat) :
    placePlan s k im c mapping =
      enterPlan (placeTiles (writePlan (mapPages s k im c) k im c mapping) im c mapping (s.vaultBases k im c)) k im c mapping := rfl

section
variable {ps : List Part} {as : Nat → Prop} {s0 s : State} {k : Nat} {im : Img} {c : Nat} {mapping : List Nat}

theorem frameClears_frame (h : Frame ps as s0 s) {fs : List FrameId} (hp : [.hbm, .cxl] ⊆ ps) :
    Frame ps as s0 (s.each fs State.frameClear) :=
  State.each_frame h fun _ _ _ ht => State.frameClear_frame ht hp

theorem mapPages_frame (h : Frame ps as s0 s) (hp : [.hbm, .cxl, .ctx] ⊆ ps) : Frame ps as s0 (mapPages s k im c) :=
  State.modCtx_frame (frameClears_frame h (by simp_all)) (hp (by simp))

theorem dropWatches_frame (h : Frame ps as s0 s) {tiles : List Nat} (hp : .csr ∈ ps) (ha : ∀ t w, as (RegName.tilSyncWatch.addr [t, w])) :
    Frame ps as s0 (dropWatches s tiles) :=
  State.each_frame h fun t _ _ ht => State.each_frame ht fun w _ _ hu => State.endSyncWatch_frame hu hp (ha t w)

/-- Stores of a context of which no page is in an exchange, one after another. -/
theorem ctxWrites_frame {α : Type} {l : List α} {va : α → Nat} {bs : α → List Byte} (h : Frame ps as s0 s) (hk : s.Settled k)
    (hp : [.csr, .hbm, .cxl, .out] ⊆ ps) (ha : ∀ w, w < 16 → as (RegName.mgtFlagWatch.addr [w])) :
    Frame ps as s0 (s.each l fun s e => s.ctxWrite k (va e) (bs e)) := by
  refine h.trans (Frame.mono (ps := [.csr, .hbm, .cxl, .out]) (as := as) ?_ hp fun _ x => x)
  exact State.each_frame Frame.refl fun e _ t ht => State.ctxWrite_frame ht (hk.congr (ht.same .ctx (by decide))) (by simp) ha

theorem writePlan_frame (h : Frame ps as s0 s) (hk : s.Settled k) (hp : [.csr, .hbm, .cxl, .out, .vault] ⊆ ps)
    (hf : ∀ w, w < 16 → as (RegName.mgtFlagWatch.addr [w])) (ht : ∀ t w, as (RegName.tilSyncWatch.addr [t, w])) :
    Frame ps as s0 (writePlan s k im c mapping) := by
  have first : Frame [.csr, .hbm, .cxl, .out] as s
      (s.each (im.laidStreams c) fun s e => s.ctxWrite k e.2.2.2 (e.2.2.1.flatMap fun o => leBytes 16 o.word)) :=
    ctxWrites_frame Frame.refl hk (by simp) hf
  have written := ctxWrites_frame (l := im.segInit c) (va := fun e => ((im.segments c).map Seg.base).getD e.1 0 + e.2.1) (bs := fun e => e.2.2)
    first (hk.congr (first.same .ctx (by decide))) (by simp) hf
  exact State.endRunning_frame (dropWatches_frame (h.trans (written.mono (by simp_all) fun _ x => x)) (hp (by simp)) ht) (hp (by simp))

theorem placeTiles_frame (h : Frame ps as s0 s) {vault : List (Option (Nat × Nat))} (hp : .tile ∈ ps) :
    Frame ps as s0 (placeTiles s im c mapping vault) :=
  State.each_frame h fun _ _ _ ht => State.modTile_frame ht hp

theorem enterPlan_frame (h : Frame ps as s0 s) (hp : [.csr, .ctx, .net] ⊆ ps) (ha : ∀ j, as (RegName.ldrCtxImage.addr [k, j])) :
    Frame ps as s0 (enterPlan s k im c mapping) :=
  State.modCtx_frame (State.each_frame (Frame.net (Frame.net h (hp (by simp))) (hp (by simp)))
    fun j _ _ ht => State.setRg_frame ht (hp (by simp)) (ha j)) (hp (by simp))

end

theorem mapPages_getCtx (s : State) (k : Nat) (im : Img) (c : Nat) : (mapPages s k im c).getCtx k = (s.getCtx k).paged im c := by
  have hc := State.getCtx_congr ((frameClears_frame (ps := [.hbm, .cxl]) (as := fun _ => False) (Frame.refl (s := s))
    (fs := (s.getCtx k).hbm.take (im.hbmPages c) ++ (s.getCtx k).cxl.take (im.cxlPages c) ++ (s.getCtx k).dirty) (by simp)).same .ctx (by decide)) k
  rw [mapPages, State.getCtx_modCtx_self, hc, Ctx.paged]

theorem mapPages_settled (s : State) (k : Nat) (im : Img) (c : Nat) : (mapPages s k im c).Settled k := by
  intro page
  rw [mapPages_getCtx]
  exact KMap.get_of_forall (P := fun e : Pte => e.moving = false) rfl (pageTable_settled _ _ _ _) page

/-- LDR_STATUS, LDR_WHERE and LDR_CHIP stand below every register that placing a plan writes. -/
theorem placePlan_frame (s : State) (k : Nat) (im : Img) (c : Nat) (mapping : List Nat) :
    Frame [.csr, .ctx, .tile, .hbm, .cxl, .net, .out, .vault] (0x110100 ≤ ·) s (placePlan s k im c mapping) := by
  rw [placePlan_eq]
  refine enterPlan_frame (placeTiles_frame ((mapPages_frame Frame.refl (by simp)).trans
    (writePlan_frame Frame.refl (mapPages_settled s k im c) (by simp) (fun w _ => ?_) fun t w => ?_)) (by simp)) (by simp) fun j => ?_
  · rw [addr_mgtFlagWatch]; omega
  · rw [addr_tilSyncWatch]; omega
  · rw [addr_ldrCtxImage]; omega

/-! ### What placing a plan leaves -/

section
variable (s : State) (k : Nat) (im : Img) (c : Nat) (mapping : List Nat)

theorem writePlan_mapPages_frame :
    Frame [.csr, .hbm, .cxl, .out, .vault] (fun _ => True) (mapPages s k im c) (writePlan (mapPages s k im c) k im c mapping) :=
  writePlan_frame Frame.refl (mapPages_settled s k im c) (by simp) (fun _ _ => trivial) fun _ _ => trivial

/-- The contexts do not change between the page table's setting and the image's entry. -/
theorem getCtx_before_enterPlan (j : Nat) (vault : List (Option (Nat × Nat))) :
    (placeTiles (writePlan (mapPages s k im c) k im c mapping) im c mapping vault).getCtx j = (mapPages s k im c).getCtx j :=
  State.getCtx_congr ((placeTiles_frame (ps := [.csr, .hbm, .cxl, .out, .vault, .tile]) (as := fun _ => True)
    ((writePlan_mapPages_frame s k im c mapping).mono (by simp) fun _ x => x) (by simp)).same .ctx (by decide)) j

theorem getCtx_enterPlan (j : Nat) : (enterPlan s k im c mapping).getCtx j =
    if j = k then { s.getCtx k with image := some (im.keep c), plan := {}, varIdx := KMap.set 256 (KMap.set 256 [] 0 im.h.var0) 1 im.h.var1 }
    else s.getCtx j := by
  have hc (i : Nat) : (((s.putRoutes k (1 - s.epochOf k) ((im.keep c).routes)).enterClaims k 0 (im.meshStreams c mapping)).each (List.range 6)
      fun s j => s.setRg .ldrCtxImage [k, j] (Word.ofNat (leAt (im.b.drop (im.b.length - 48)) (8 * j) 8))).getCtx i = s.getCtx i :=
    (State.each_never (State.getCtx · i) fun _ _ t => State.getCtx_setRg t _ _ _ i).trans rfl
  rw [enterPlan]
  split
  · next h => rw [h, State.getCtx_modCtx_self, hc]
  · next h => rw [State.getCtx_modCtx_ne _ _ _ _ h, hc]

theorem placePlan_getCtx : (placePlan s k im c mapping).getCtx k = { (s.getCtx k).paged im c with
    image := some (im.keep c), plan := {}, varIdx := KMap.set 256 (KMap.set 256 [] 0 im.h.var0) 1 im.h.var1 } := by
  rw [placePlan_eq, getCtx_enterPlan, if_pos rfl, getCtx_before_enterPlan, mapPages_getCtx]

theorem placePlan_getCtx_ne {j : Nat} (h : j ≠ k) : (placePlan s k im c mapping).getCtx j = s.getCtx j := by
  rw [placePlan_eq, getCtx_enterPlan, if_neg h, getCtx_before_enterPlan, mapPages, State.getCtx_modCtx_ne _ _ _ _ h]
  exact State.getCtx_congr ((frameClears_frame (ps := [.hbm, .cxl]) (as := fun _ => False) Frame.refl (by simp)).same .ctx (by decide)) j

/-- The tiles are those of the start but for what the loading of tiles makes of them. -/
theorem placePlan_getTile (x : Nat) : (placePlan s k im c mapping).getTile x =
    (placeTiles (writePlan (mapPages s k im c) k im c mapping) im c mapping (s.vaultBases k im c)).getTile x := by
  rw [placePlan_eq]
  exact State.getTile_congr ((enterPlan_frame (ps := [.csr, .ctx, .net]) (as := fun _ => True) Frame.refl (by simp)
    fun _ => trivial).same .tile (by decide)) x

theorem getTile_writePlan_mapPages (x : Nat) : (writePlan (mapPages s k im c) k im c mapping).getTile x = s.getTile x :=
  (State.getTile_congr ((writePlan_mapPages_frame s k im c mapping).same .tile (by decide)) x).trans
    (State.getTile_congr ((mapPages_frame (ps := [.hbm, .cxl, .ctx]) (as := fun _ => True) Frame.refl (by simp)).same .tile (by decide)) x)

end

/-- The entry of a mapping at a place that it has. -/
theorem mapping_getD {mapping : List Nat} {a : Nat} (ha : a < mapping.length) : mapping.getD a 576 = mapping[a] := by
  rw [List.getD_eq_getElem?_getD, List.getElem?_eq_getElem ha, Option.getD_some]

/-- The physical tiles of a mapping without repeats differ. -/
theorem mapping_injective {mapping : List Nat} (hn : mapping.Nodup) {a b : Nat} (ha : a < mapping.length) (hb : b < mapping.length)
    (h : mapping.getD a 576 = mapping.getD b 576) : a = b := by
  rw [mapping_getD ha, mapping_getD hb] at h
  exact (List.getElem_inj hn).1 h

/-- Where the mapping gives each tile of the plan a tile of its own, each is loaded once. -/
theorem placeTiles_tile (s : State) (im : Img) (c : Nat) {mapping : List Nat} (vault : List (Option (Nat × Nat))) (hn : mapping.Nodup)
    (hl : 32 * im.h.vrows ≤ mapping.length) {vt : Nat} (hv : vt < 32 * im.h.vrows) :
    (placeTiles s im c mapping vault).getTile (mapping.getD vt 576) = loadTile im c vt vault (s.getTile (mapping.getD vt 576)) := by
  refine State.each_once (State.getTile · (mapping.getD vt 576)) (List.mem_range.2 hv) List.nodup_range
    (fun t => State.getTile_modTile_self t _ _) fun b hb hne t => State.getTile_modTile_ne t _ _ _ fun e => hne ?_
  have hb : b < 32 * im.h.vrows := List.mem_range.1 hb
  exact (mapping_injective hn (by omega) (by omega) e).symm

/-- A mapped tile as the load leaves it. -/
theorem placePlan_tile (s : State) (k : Nat) (im : Img) (c : Nat) {mapping : List Nat} (hn : mapping.Nodup)
    (hl : 32 * im.h.vrows ≤ mapping.length) {vt : Nat} (hv : vt < 32 * im.h.vrows) :
    (placePlan s k im c mapping).getTile (mapping.getD vt 576)
      = loadTile im c vt (s.vaultBases k im c) (s.getTile (mapping.getD vt 576)) := by
  rw [placePlan_getTile, placeTiles_tile _ _ _ _ hn hl hv, getTile_writePlan_mapPages]

/-- A tile that the mapping does not name stays. -/
theorem placePlan_tile_ne (s : State) (k : Nat) (im : Img) (c : Nat) {mapping : List Nat} (hl : 32 * im.h.vrows ≤ mapping.length) {x : Nat}
    (hx : x ∉ mapping) : (placePlan s k im c mapping).getTile x = s.getTile x := by
  rw [placePlan_getTile, placeTiles, State.each_never (State.getTile · x) fun vt hv t => State.getTile_modTile_ne t _ _ _ fun e => ?_,
    getTile_writePlan_mapPages]
  have hv : vt < mapping.length := Nat.lt_of_lt_of_le (List.mem_range.1 hv) hl
  rw [mapping_getD hv] at e
  exact hx (e ▸ List.getElem_mem hv)

end Sys2Proof.Machine
end

section
/-! The end of a load, and the obligation on loads. -/

namespace Sys2Proof.Machine

open Sys2Proof.Safety

/-! ### LDR_STATUS at the end (R166, R171) -/

theorem exec_imageLoadDone (s : State) (ue : Bool) : exec (.imageLoadDone ue) s = .next (loadDone s ue) := rfl

/-- LDR_STATUS of a load that has ended. -/
def endStatus (k : Nat) (st : Status) (reason : Nat) : Word := pack [(1, 1, 1), (8, 8, st.code), (16, 8, reason), (24, 5, k)]

theorem endLoad_of_noRepairs {s : State} {l : Loader} {st : Status} {reason : Nat} (h : l.repairs = []) :
    endLoad s l st reason = { s.setRg .ldrStatus [] (endStatus l.ctx.slot st reason) with loader := none } := by
  rw [endLoad, h]
  rfl

theorem endLoad_ldrStatus (s : State) {l : Loader} (st : Status) (reason : Nat) (h : l.repairs = []) :
    (endLoad s l st reason).rg .ldrStatus [] = endStatus l.ctx.slot st reason := by
  rw [endLoad_of_noRepairs h]
  exact State.rg_setRg_self s _ _ _

theorem endLoad_frame (s : State) {l : Loader} (st : Status) (reason : Nat) (h : l.repairs = []) :
    Frame [.csr, .loader] (· = RegName.ldrStatus.addr []) s (endLoad s l st reason) := by
  have status : Frame [.csr, .loader] (· = RegName.ldrStatus.addr []) s (s.setRg .ldrStatus [] (endStatus l.ctx.slot st reason)) :=
    State.setRg_frame Frame.refl (by simp) rfl
  rw [endLoad_of_noRepairs h]
  exact status.loader (by simp)

theorem endLoad_loader (s : State) {l : Loader} (st : Status) (reason : Nat) (h : l.repairs = []) :
    (endLoad s l st reason).loader = none := by
  rw [endLoad_of_noRepairs h]

/-- A load that has ended without repairs: DONE without BUSY, with STATUS and REASON. -/
theorem endLoad_status (s : State) {l : Loader} (st : Status) (reason : Nat) (h : l.repairs = []) :
    (endLoad s l st reason).bit .ldrStatus [] 0 = false ∧ (endLoad s l st reason).bit .ldrStatus [] 1 = true
      ∧ (endLoad s l st reason).fld .ldrStatus [] 8 8 = st.code ∧ (endLoad s l st reason).fld .ldrStatus [] 16 8 = reason % 256 := by
  have hr := endLoad_ldrStatus s st reason h
  have hcode : st.code % 256 = st.code := by cases st <;> rfl
  refine ⟨?_, ?_, ?_, ?_⟩
  · simp [State.bit, bitOf_eq_field, hr, endStatus, field_pack_tail]
  · simp [State.bit, bitOf_eq_field, hr, endStatus, field_pack_head, field_pack_tail]
  · simp [State.fld, hr, endStatus, field_pack_head, field_pack_tail, hcode]
  · simp [State.fld, hr, endStatus, field_pack_head, field_pack_tail]

/-- The place of a failure in LDR_WHERE. -/
def Reject.place (r : Reject) : Word := pack [(0, 32, r.index), (32, 16, r.sec), (48, 4, r.vtile / 32), (52, 5, r.vtile % 32)]

theorem Reject.field_place (r : Reject) : field r.place 0 32 = r.index % 2 ^ 32 ∧ field r.place 32 16 = r.sec % 65536 := by
  constructor
  · simp [Reject.place, field_pack_head, field_pack_tail]
  · simp [Reject.place, field_pack_head, field_pack_tail]

theorem rejectLoad_eq (s : State) (l : Loader) (r : Reject) :
    rejectLoad s l r = endLoad (s.setRg .ldrWhere [] r.place) l .rejected r.code := rfl

/-- A load that a pass rejects: the reason in LDR_STATUS, the place in LDR_WHERE, and nothing else has changed. -/
theorem rejectLoad_spec (s : State) {l : Loader} (r : Reject) (h : l.repairs = []) :
    ((rejectLoad s l r).loader = none ∧ (rejectLoad s l r).bit .ldrStatus [] 0 = false ∧ (rejectLoad s l r).bit .ldrStatus [] 1 = true
      ∧ (rejectLoad s l r).fld .ldrStatus [] 8 8 = 6 ∧ (rejectLoad s l r).fld .ldrStatus [] 16 8 = r.code % 256
      ∧ (rejectLoad s l r).fld .ldrWhere [] 0 32 = r.index % 2 ^ 32 ∧ (rejectLoad s l r).fld .ldrWhere [] 32 16 = r.sec % 65536
      ∧ RegsKept [RegName.ldrStatus.addr [], RegName.ldrWhere.addr []] s (rejectLoad s l r))
    ∧ OnlyChanges [.csr, .loader] s (rejectLoad s l r) := by
  rw [rejectLoad_eq]
  have ended := endLoad_frame (s.setRg .ldrWhere [] r.place) .rejected r.code h
  obtain ⟨hbusy, hdone, hstatus, hreason⟩ := endLoad_status (s.setRg .ldrWhere [] r.place) .rejected r.code h
  obtain ⟨hindex, hsec⟩ := r.field_place
  have hplace : (endLoad (s.setRg .ldrWhere [] r.place) l .rejected r.code).rg .ldrWhere [] = r.place :=
    (ended.regs _ _ (by decide)).trans (State.rg_setRg_self s _ _ _)
  have all : Frame [.csr, .loader] (· ∈ [RegName.ldrStatus.addr [], RegName.ldrWhere.addr []]) s
      (endLoad (s.setRg .ldrWhere [] r.place) l .rejected r.code) :=
    (State.setRg_frame Frame.refl (by simp) (by simp)).trans (ended.mono (by simp) fun a ha => by simp [ha])
  refine ⟨⟨endLoad_loader _ _ _ h, hbusy, hdone, hstatus, hreason, ?_, ?_, all.regsKept⟩, all.parts⟩
  · rw [State.fld, hplace, hindex]
  · rw [State.fld, hplace, hsec]

theorem loadDone_of_pass1 {s : State} {ue : Bool} {l : Loader} {r : Reject} (hl : s.loader = some l)
    (h : (Img.parse l.bytes).pass1 ue = some r) : loadDone s ue = rejectLoad s l r := by
  simp [loadDone, hl, h]

theorem loadDone_of_accepted {s : State} {ue : Bool} {l : Loader} {c : Nat} (hl : s.loader = some l)
    (h1 : (Img.parse l.bytes).pass1 ue = none) (h2 : s.pass2 l.ctx.slot (Img.parse l.bytes) = none)
    (hm : s.member l.ctx.slot (Img.parse l.bytes) = some c)
    (h3 : (s.setRg .ldrChip [] (Word.ofNat c)).laterPasses l.ctx.slot (Img.parse l.bytes) c l.tiles = none)
    (hb : (s.setRg .ldrChip [] (Word.ofNat c)).bankWaits l.ctx.slot (Img.parse l.bytes) c = false) :
    loadDone s ue
      = endLoad (placePlan (s.setRg .ldrChip [] (Word.ofNat c)) l.ctx.slot (Img.parse l.bytes) c l.tiles) l .ok 0 := by
  simp [loadDone, hl, h1, h2, hm, h3, hb]

/-! ### The first pass -/

theorem pass1_of_ue (im : Img) : im.pass1 true = some { code := 0x01 } := rfl

theorem pass1_of_badHeader {im : Img} (h : im.badHeader = true) : im.pass1 false = some { code := 0x02 } := by
  simp [Img.pass1, h]

/-- An image that is too short, has another magic number or version, or does not end in its digest has a bad header (R155). -/
theorem badHeader_of {b : List Byte} (h : b.length < 256 ∨ leAt b 0 4 ≠ 0x4C505753 ∨ leAt b 5 1 ≠ 1
    ∨ sha384 (b.take (b.length - 48)) ≠ b.drop (b.length - 48)) : (Img.parse b).badHeader = true := by
  have hb : (Img.parse b).b = b := rfl
  simp only [Img.badHeader, hb, Bool.or_eq_true, decide_eq_true_eq, bne_iff_ne]
  rcases h with h | h | h | h
  · exact .inl (.inl h)
  · exact .inl (.inr (.inr (.inl h)))
  · exact .inl (.inr (.inr (.inr (.inl h))))
  · exact .inr h

/-! ### The obligation -/

/-- A refused LDR_CMD leaves its status, slot and VALID in LDR_REFUSE and changes nothing else. -/
theorem imageLoad_refused {s : State} {acc : Accessor} {v : Word} {id : CtxId} {src len code : Nat} (ha : s.absent srcClo = false)
    (hid : id = CtxId.ofNat v.toNat) (hsrc : src = (s.rg .ldrSrc []).toNat) (hlen : len = (s.rg .ldrLen []).toNat) {st : Status}
    (hst : firstOf (s.loadConds acc id src len) = some st) (hcode : code = st.code) :
    Completes (.imageLoad acc v) s [.csr] fun t => t.fld .ldrRefuse [] 0 8 = code ∧ t.fld .ldrRefuse [] 8 5 = id.slot
      ∧ t.bit .ldrRefuse [] 13 = true ∧ RegsKept [RegName.ldrRefuse.addr []] s t := by
  subst hid hsrc hlen hcode
  have hlt : st.code < 256 := by cases st <;> decide
  refine ⟨_, ?_, refuseLoad_spec s (CtxId.slot_ofNat_lt _) hlt⟩
  rw [exec_imageLoad acc v ha, cmdLoad_of_some hst]

/-- An accepted LDR_CMD begins a load. -/
theorem imageLoad_begins {s : State} {acc : Accessor} {v : Word} {id : CtxId} {src len : Nat} (ha : s.absent srcClo = false)
    (hid : id = CtxId.ofNat v.toNat) (hsrc : src = (s.rg .ldrSrc []).toNat) (hlen : len = (s.rg .ldrLen []).toNat)
    (hst : firstOf (s.loadConds acc id src len) = none) : exec (.imageLoad acc v) s = .next (beginLoad s id.slot src len) := by
  subst hid hsrc hlen
  rw [exec_imageLoad acc v ha, cmdLoad_of_none hst]

/-- LDR_STATUS while a load runs: BUSY without DONE, and the slot. -/
theorem beginLoad_status (s : State) {k : Nat} (src len : Nat) (hk : k < 32) :
    (beginLoad s k src len).bit .ldrStatus [] 0 = true ∧ (beginLoad s k src len).bit .ldrStatus [] 1 = false
      ∧ (beginLoad s k src len).fld .ldrStatus [] 24 5 = k := by
  have hr := beginLoad_ldrStatus s k src len
  refine ⟨?_, ?_, ?_⟩
  · simp [State.bit, bitOf_eq_field, hr, field_pack_head, field_pack_tail]
  · simp [State.bit, bitOf_eq_field, hr, field_pack_tail]
  · simp [State.fld, hr, field_pack_head, field_pack_tail, Nat.mod_eq_of_lt hk]

/-- Settles O51: refusals follow the order of R12, the start and the placing of a plan are read off step by step through their frames; the registers
that a load reports in stand below every register that placing a plan writes. -/
theorem imageLoads : Obligations.ImageLoads := by
  intro s
  refine ⟨fun acc v id c src len ha hid hc hsrc hlen => ⟨?refusals, ?start⟩, fun ue l im hl hrep him => ⟨?rejected, ?_, ?_, ?accepted⟩⟩
  case refusals =>
    rintro st (⟨hlive, rfl⟩ | ⟨hlive, hown, rfl⟩ | ⟨hlive, hown, hbad, rfl⟩ | ⟨hlive, hown, hal, hrange, hbusy, rfl⟩)
    · exact imageLoad_refused ha hid hsrc hlen (loadConds_stale hlive) rfl
    · exact imageLoad_refused ha hid hsrc hlen (loadConds_denied hlive hown) rfl
    · exact imageLoad_refused ha hid hsrc hlen (loadConds_rejected hlive hown hbad) rfl
    · refine imageLoad_refused ha hid hsrc hlen (st := .busy) ?_ rfl
      rw [loadConds_accepted hlive hown hal hrange, hbusy]
      exact firstOf_true (by simp)
  case start =>
    intro hlive hown hal hrange hcan
    have hnone : firstOf (s.loadConds acc id src len) = none := by
      simp [loadConds_accepted hlive hown hal hrange, hcan]
    have hslot : id.slot < 32 := hid ▸ CtxId.slot_ofNat_lt _
    have fr := beginLoad_frame s id.slot src len
    obtain ⟨hbusy, hdone, hk⟩ := beginLoad_status s src len hslot
    subst hc
    refine ⟨_, imageLoad_begins ha hid hsrc hlen hnone, ⟨beginLoad_loader src len hlive, beginLoad_getCtx s id.slot src len, ?_,
      hbusy, hdone, hk, ?_, beginLoad_cloOp_none id.slot src len, fr.regsKept⟩, fr.parts⟩
    · exact fun j hj => beginLoad_getCtx_ne s src len fun e => hj (List.mem_singleton.2 e)
    · intro v hv
      rw [beginLoad_getVault s id.slot src len hv]
      exact ⟨KMap.get_set_self _ _ _ _, rfl, rfl, rfl⟩
  case rejected =>
    subst him
    intro r hr
    refine ⟨_, exec_imageLoadDone s ue, ?_⟩
    rw [loadDone_of_pass1 hl hr]
    exact rejectLoad_spec s r hrep
  · rintro rfl
    exact pass1_of_ue im
  · rintro rfl hbad
    exact him ▸ pass1_of_badHeader (badHeader_of hbad)
  case accepted =>
    subst him
    intro c s1 h1 h2 hm hs1 h3 hb hnodup hrows
    subst hs1
    have placed := placePlan_frame (s.setRg .ldrChip [] (Word.ofNat c)) l.ctx.slot (Img.parse l.bytes) c l.tiles
    have ended := endLoad_frame (placePlan (s.setRg .ldrChip [] (Word.ofNat c)) l.ctx.slot (Img.parse l.bytes) c l.tiles) .ok 0 hrep
    obtain ⟨hbusy, hdone, hstatus, hreason⟩ :=
      endLoad_status (placePlan (s.setRg .ldrChip [] (Word.ofNat c)) l.ctx.slot (Img.parse l.bytes) c l.tiles) .ok 0 hrep
    have hx := (exec_imageLoadDone s ue).trans (congrArg _ (loadDone_of_accepted hl h1 h2 hm h3 hb))
    have hchip := (ended.regs .ldrChip [] (by decide)).trans
      ((placed.regs .ldrChip [] (by decide)).trans (State.rg_setRg_self s .ldrChip [] (Word.ofNat c)))
    have hctx := State.getCtx_congr (ended.same .ctx (by decide))
    have htile := State.getTile_congr (ended.same .tile (by decide))
    have held := (hctx l.ctx.slot).trans (placePlan_getCtx _ l.ctx.slot (Img.parse l.bytes) c l.tiles)
    have chip : Frame [.csr, .ctx, .tile, .hbm, .cxl, .net, .loader, .out, .vault] (fun _ => True) s (s.setRg .ldrChip [] (Word.ofNat c)) :=
      State.setRg_frame Frame.refl (by simp) trivial
    have all := (chip.trans (placed.mono (by simp) fun _ _ => trivial)).trans (ended.mono (by simp) fun _ _ => trivial)
    refine ⟨_, hx, all.parts, endLoad_loader _ .ok 0 hrep, hbusy, hdone, hstatus, hreason, hchip, congrArg Ctx.image held, congrArg Ctx.plan held,
      congrArg Ctx.dirty held, (congrArg Ctx.tiles held).trans rfl, (congrArg Ctx.hbm held).trans rfl, ?_, ?_, ?_⟩
    · exact fun j hj => (hctx j).trans (placePlan_getCtx_ne _ _ _ c _ fun e => hj (List.mem_singleton.2 e))
    · exact fun vt hv => (htile _).trans (placePlan_tile _ _ _ c hnodup hrows hv)
    · exact fun x hx => (htile x).trans (placePlan_tile_ne _ _ _ c hrows hx)

end Sys2Proof.Machine
end

section
/-! Frames of further updates, and commands that complete in a frame. -/

namespace Sys2Proof.Machine

open Sys2Proof.Safety

section
variable {s : State}

theorem onlyChanges_link {m : KMap Link} : OnlyChanges [.link] s { s with link := m } :=
  ⟨rfl, fun p hp => by cases p <;> simp_all [Part.same]⟩

theorem onlyChanges_time {x : Time} : OnlyChanges [.time] s { s with time := x } :=
  ⟨rfl, fun p hp => by cases p <;> simp_all [Part.same]⟩

theorem onlyChanges_pins {x : Pins} : OnlyChanges [.pins] s { s with pins := x } :=
  ⟨rfl, fun p hp => by cases p <;> simp_all [Part.same]⟩

end

section
variable {ps : List Part} {as : Nat → Prop} {s0 s : State}

theorem State.addFld_frame (h : Frame ps as s0 s) {n : RegName} {ix : List Nat} {lo k d : Nat} (hp : .csr ∈ ps) (ha : as (n.addr ix)) :
    Frame ps as s0 (s.addFld n ix lo k d) := State.setFld_frame h hp ha

theorem State.modPlan_frame (h : Frame ps as s0 s) {k : Nat} {f : Plan → Plan} (hp : .ctx ∈ ps) : Frame ps as s0 (s.modPlan k f) :=
  State.modCtx_frame h hp

theorem State.modLink_frame (h : Frame ps as s0 s) {l : Nat} {f : Link → Link} (hp : .link ∈ ps) : Frame ps as s0 (s.modLink l f) :=
  h.part onlyChanges_link hp rfl

theorem Frame.time (h : Frame ps as s0 s) {x : Time} (hp : .time ∈ ps) : Frame ps as s0 { s with time := x } :=
  h.part onlyChanges_time hp rfl

theorem Frame.pins (h : Frame ps as s0 s) {x : Pins} (hp : .pins ∈ ps) : Frame ps as s0 { s with pins := x } :=
  h.part onlyChanges_pins hp rfl

end

/-- A command whose next state stays in a frame completes on the frame's parts. -/
theorem Frame.completes {ps : List Part} {as : Nat → Prop} {c : Instr} {s t : State} {q : State → Prop} (h : Frame ps as s t)
    (he : exec c s = .next t) (hq : q t) : Completes c s ps q := ⟨t, he, hq, h.parts⟩

/-- Every entry of a family but the one that is set stays. -/
theorem KMap.kept_set {α : Type} [DecidableEq α] (d : α) (m : KMap α) (a : Nat) (v : α) : Kept d [a] m (KMap.set d m a v) :=
  fun _ hk => KMap.get_set_ne d d m v fun e => hk (List.mem_singleton.2 e)

theorem State.bit_eq_fld (s : State) (n : RegName) (ix : List Nat) (i : Nat) : s.bit n ix i = decide (s.fld n ix i 1 = 1) :=
  bitOf_eq_field _ _

/-- A bit read after it is written. -/
theorem State.bit_setBit_self (s : State) (n : RegName) (ix : List Nat) {i : Nat} (b : Bool) (h : i < 64) : (s.setBit n ix i b).bit n ix i = b := by
  rw [State.bit_eq_fld, State.setBit, State.fld_setFld_self s n ix i 1 (b2n b) (by omega)]
  cases b <;> rfl

end Sys2Proof.Machine
end

section
/-! Machine time: how it is set, fed and slewed (R42 to R48, R455). -/

namespace Sys2Proof.Machine

open Sys2Proof.Safety

/-- A change of machine time alone. -/
theorem timeFrame (s : State) (x : Time) : Frame [.time] (fun _ => False) s { s with time := x } := Frame.refl.time (List.mem_singleton.2 rfl)

/-! ### The time parent (R44) -/

/-- A fold that at each entry takes the entry or keeps what it has ends with an entry of its list, or with what it began with. -/
theorem foldl_mem_of_choice {α : Type} {f : Option α → α → Option α} (hf : ∀ b a x, f b a = some x → x = a ∨ b = some x) (l : List α)
    (b : Option α) {x : α} (h : l.foldl f b = some x) : x ∈ l ∨ b = some x := by
  induction l generalizing b with
  | nil => exact .inr h
  | cons a l ih =>
    rcases ih _ h with hx | hx
    · exact .inl (List.mem_cons_of_mem _ hx)
    · exact (hf b a x hx).imp_left fun (e : x = a) => e ▸ List.mem_cons_self ..

/-- The time parent is a neighbour that has named its root. -/
theorem bestParent_advRoot {s : State} {l : Nat} (h : s.bestParent = some l) : (s.getLink l).advRoot.isSome = true := by
  unfold State.bestParent at h
  dsimp only at h
  split at h
  case h_2 => cases h
  case h_1 m hm =>
    have hl : m = l := by
      split at h
      · exact Option.some.inj h
      · cases h
    have hc : m ∈ s.timeCands := by
      refine (foldl_mem_of_choice (fun b a x hx => ?_) _ _ hm).resolve_right nofun
      cases b with
      | none => exact .inl (Option.some.inj hx).symm
      | some c =>
        dsimp only at hx
        split at hx
        · exact .inl (Option.some.inj hx).symm
        · exact .inr hx
    rw [← hl]
    exact (Bool.and_eq_true_iff.1 (List.mem_filter.1 hc).2).2

theorem chooseParent_root {s : State} (h : s.rootEn = true) : s.chooseParent =
    { s with time := { s.time with parent := none, depth := 0, rootCoord := s.self, sync := .locked, everLock := true } } := by
  rw [State.chooseParent, if_pos h]

theorem chooseParent_alone {s : State} (h : s.rootEn = false) (hb : s.bestParent = none) : s.chooseParent =
    { s with time := { s.time with parent := none, depth := 63, slew := 0, sync := if s.time.sync = .locked then .holdover else s.time.sync } } := by
  simp [State.chooseParent, h, hb]

theorem chooseParent_follower {s : State} {l : Nat} (h : s.rootEn = false) (hb : s.bestParent = some l) : s.chooseParent =
    { s with time := { s.time with parent := some l, depth := (s.getLink l).advDepth + 1, rootCoord := (s.getLink l).advRoot.getD 0 } } := by
  simp [State.chooseParent, h, hb]

theorem State.chooseParent_frame {ps : List Part} {as : Nat → Prop} {s0 s : State} (h : Frame ps as s0 s) (hp : .time ∈ ps) :
    Frame ps as s0 s.chooseParent := by
  unfold State.chooseParent
  split
  · exact h.time hp
  · split <;> exact h.time hp

/-! ### Commands -/

/-- A command to a block that is present acts. -/
theorem onBlock_present {s : State} {src : Nat} (h : s.absent src = false) (act : State → State) : onBlock s src act = act s := by
  simp [onBlock, h]

theorem exec_timMtSet (acc : Accessor) (v : Word) {s : State} (h : s.absent srcTim = false) : exec (.timMtSet acc v) s = .next (mtSet s v) :=
  congrArg Host.Outcome.next (onBlock_present h _)

theorem exec_rootEnWrite (acc : Accessor) (v : Word) {s : State} (h : s.absent srcTim = false) :
    exec (.rootEnWrite acc v) s = .next (rootEnSet s v) :=
  congrArg Host.Outcome.next (onBlock_present h _)

theorem mtSet_accepted {s : State} (v : Word) (hr : s.rootEn = false) (hs : s.time.sync = .unsynced) :
    mtSet s v = { s with time := { s.time with mt := v } } := by
  simp [mtSet, hr, hs]

theorem mtSet_refused {s : State} (v : Word) (h : s.rootEn = true ∨ s.time.sync ≠ .unsynced) : mtSet s v = notice s .timeSetRefused srcTim := by
  rcases h with h | h <;> simp [mtSet, h]

/-- TIM_ROOT_CTL after a write of ROOT_EN. -/
def withRootEn (s : State) (b : Bool) : State := s.setBit .timRootCtl [] 0 b

@[simp] theorem rootEn_withRootEn (s : State) (b : Bool) : (withRootEn s b).rootEn = b :=
  State.bit_setBit_self s .timRootCtl [] b (by decide)

theorem bestParent_withRootEn (s : State) (b : Bool) : (withRootEn s b).bestParent = s.bestParent := rfl

theorem rootEnSet_on {s : State} {v : Word} (hv : v.getLsbD 0 = true) :
    rootEnSet s v = State.chooseParent { withRootEn s true with time := { s.time with slew := 0 } } := by
  have hb : bitOf v 0 = true := hv
  rw [rootEnSet, hb]
  rfl

theorem rootEnSet_off {s : State} {v : Word} (hv : v.getLsbD 0 = false) : rootEnSet s v = (withRootEn s false).chooseParent := by
  have hb : bitOf v 0 = false := hv
  rw [rootEnSet, hb]
  rfl

/-- The registers and parts that a write of ROOT_EN changes. -/
theorem rootEnSet_frame (s : State) (v : Word) : Frame [.csr, .time] (· ∈ [RegName.timRootCtl.addr []]) s (rootEnSet s v) := by
  have h : Frame [.csr, .time] (· ∈ [RegName.timRootCtl.addr []]) s (s.setBit .timRootCtl [] 0 (bitOf v 0)) :=
    State.setBit_frame Frame.refl (by decide) (List.mem_singleton.2 rfl)
  unfold rootEnSet
  refine State.chooseParent_frame ?_ (by decide)
  split
  · exact h.time (by decide)
  · exact h

theorem rootEnSet_rootEn (s : State) (v : Word) : (rootEnSet s v).rootEn = v.getLsbD 0 := by
  have hc (t : State) : t.chooseParent.rootEn = t.rootEn := by
    have h : t.chooseParent.csr = t.csr :=
      (State.chooseParent_frame (as := fun _ => False) Frame.refl (List.mem_singleton.2 rfl)).same .csr (by decide)
    rw [State.rootEn, State.rootEn, State.bit_eq_fld, State.bit_eq_fld, State.fld_congr h]
  cases hv : v.getLsbD 0 with
  | true => exact rootEnSet_on hv ▸ (hc _).trans (rootEn_withRootEn s true)
  | false => exact rootEnSet_off hv ▸ (hc _).trans (rootEn_withRootEn s false)

theorem timeSetCommands : Claims.TimeSetCommands := by
  intro acc v s ha
  refine ⟨fun hr hs => ?set, fun h => ?refused, fun hv => ?root, fun hv => ?follower⟩
  case set =>
    have hx := (exec_timMtSet acc v ha).trans (congrArg _ (mtSet_accepted v hr hs))
    exact (timeFrame s _).completes hx rfl
  case refused => exact (exec_timMtSet acc v ha).trans (congrArg _ (mtSet_refused v h))
  case root =>
    have fr := rootEnSet_frame s v
    refine fr.completes (exec_rootEnWrite acc v ha) ⟨(rootEnSet_rootEn s v).trans hv, fr.regsKept, ?_⟩
    rw [rootEnSet_on hv]
    exact congrArg State.time (chooseParent_root (s := { withRootEn s true with time := { s.time with slew := 0 } }) (rootEn_withRootEn s true))
  case follower =>
    have fr := rootEnSet_frame s v
    refine fr.completes (exec_rootEnWrite acc v ha) ⟨(rootEnSet_rootEn s v).trans hv, fr.regsKept, ?_⟩
    have hoff : rootEnSet s v = _ := rootEnSet_off hv
    cases hb : s.bestParent with
    | none =>
      rw [hoff, chooseParent_alone (rootEn_withRootEn s false) (bestParent_withRootEn s false ▸ hb)]
      exact ⟨rfl, rfl, fun _ => ⟨rfl, rfl, rfl⟩, nofun⟩
    | some m =>
      rw [hoff, chooseParent_follower (rootEn_withRootEn s false) (bestParent_withRootEn s false ▸ hb)]
      refine ⟨rfl, rfl, nofun, fun l hl => ?_⟩
      cases hl
      exact ⟨rfl, rfl, Option.getD_of_ne_none (Option.isSome_iff_ne_none.1 (bestParent_advRoot hb)) 0, rfl⟩

/-! ### PPS and time of day (R48, R455) -/

theorem exec_todByteReceive_root {s : State} (b : Byte) (h : s.rootEn = true) : exec (.todByteReceive b) s
    = .next (if s.pins.tod.length < 256 then s.modPins fun p => { p with tod := p.tod ++ [b] } else s.setBit .chpTod [] 9 true) := by
  have hx : exec (.todByteReceive b) s = execTodByteReceive b s := rfl
  rw [hx, execTodByteReceive, apply_ite Host.Outcome.next]
  exact if_pos h

theorem timeInputs : Claims.TimeInputs := by
  intro b s
  refine ⟨fun hr => ⟨?pps, fun hl => ?room, fun hl => ?full⟩, fun hr => ⟨?_, ?_⟩⟩
  case pps =>
    have fr : Frame [.csr] (· ∈ [RegName.timPpsLatch.addr [], RegName.timStatus.addr []]) s
        ((s.setRg .timPpsLatch [] s.time.mt).setBit .timStatus [] 12 true) :=
      State.setBit_frame (State.setRg_frame Frame.refl (by decide) (by simp)) (by decide) (by simp)
    refine fr.completes (congrArg Host.Outcome.next (if_pos hr)) ⟨?_, State.bit_setBit_self _ _ _ _ (by decide), fr.regsKept⟩
    exact (State.rg_setFld_ne _ .timStatus .timPpsLatch [] [] _ _ _ (by decide)).trans (State.rg_setRg_self _ _ _ _)
  case room =>
    have fr : Frame [.pins] (fun _ => False) s (s.modPins fun p => { p with tod := p.tod ++ [b] }) := Frame.refl.pins (List.mem_singleton.2 rfl)
    exact fr.completes ((exec_todByteReceive_root b hr).trans (congrArg _ (if_pos hl))) rfl
  case full =>
    have fr : Frame [.csr] (· ∈ [RegName.chpTod.addr []]) s (s.setBit .chpTod [] 9 true) :=
      State.setBit_frame Frame.refl (by decide) (List.mem_singleton.2 rfl)
    have hx := (exec_todByteReceive_root b hr).trans (congrArg _ (if_neg (Nat.not_lt.2 hl)))
    exact fr.completes hx ⟨State.bit_setBit_self _ _ _ _ (by decide), fr.regsKept⟩
  · exact congrArg Host.Outcome.next (if_neg (by simp [hr]))
  · exact if_neg (by simpa [State.rootEn] using hr)

/-! ### Slewing (R42) -/

/-- A tick may correct MT: a correction remains, and the last one lies 1,024 ticks back. -/
def Time.slewDue (t : Time) : Prop := t.slew ≠ 0 ∧ (t.lastSlew = 0 ∨ t.lastSlew + 1024 ≤ t.refTicks + 1)

theorem exec_mtSlewTick_plain {s : State} (h : ¬s.time.slewDue) : exec .mtSlewTick s = .next (idleTick s) := by
  have hx : exec .mtSlewTick s = execMtSlewTick s := rfl
  rw [hx, execMtSlewTick]
  exact if_neg (by simpa [Time.slewDue] using h)

theorem exec_mtSlewTick_slews {s : State} (h : s.time.slewDue) : exec .mtSlewTick s = .next { s with time := { s.time with
    mt := if 0 < s.time.slew then s.time.mt + 2 else s.time.mt, refTicks := s.time.refTicks + 1, lastSlew := s.time.refTicks + 1,
    slew := if 0 < s.time.slew then s.time.slew - 1 else s.time.slew + 1 } } := by
  have hx : exec .mtSlewTick s = execMtSlewTick s := rfl
  rw [hx, execMtSlewTick]
  exact if_pos (by simpa [Time.slewDue] using h)

theorem slewTick : Claims.SlewTick := by
  intro s
  by_cases hd : s.time.slewDue
  · have ⟨h0, h1⟩ := hd
    refine (timeFrame s _).completes (exec_mtSlewTick_slews hd)
      ⟨rfl, fun h => by omega, fun _ _ => ⟨rfl, ?_, fun h => if_pos h, fun h => if_neg (by omega)⟩, rfl, rfl, rfl⟩
    dsimp only
    split <;> omega
  · refine (timeFrame s _).completes (exec_mtSlewTick_plain hd)
        ⟨rfl, fun _ => ⟨rfl, rfl, rfl⟩, fun h0 h1 => absurd ⟨h0, h1⟩ hd, rfl, rfl, rfl⟩

/-- Settles O11, command by command: a follower's parent is a neighbour that has named its root, and a tick corrects MT exactly where a correction
is due (`Time.slewDue`). -/
theorem machineTime : Obligations.MachineTime := ⟨timeSetCommands, timeInputs, slewTick⟩

end Sys2Proof.Machine
end

section
/-! The record of a Frost interval (R61, R62). -/

namespace Sys2Proof.Machine

open Sys2Proof.Safety

theorem Frame.ctx {as : Nat → Prop} {s t : State} (h : Frame [.csr] as s t) : t.ctx = s.ctx := h.same .ctx (by decide)

/-! ### The registers -/

theorem addr_timFrostRec (i j : Nat) : RegName.addr .timFrostRec [i, j] = 0x21000 + (0x20 * i + (8 * j + 0)) := rfl
theorem addr_timFrostHead : RegName.addr .timFrostHead [] = 0x20030 := rfl
theorem addr_timFrostTail : RegName.addr .timFrostTail [] = 0x20038 := rfl
theorem addr_timCtxFrostCount (k : Nat) : RegName.addr .timCtxFrostCount [k] = 0x20830 + (0x40 * k + 0) := rfl

/-- The four words of a Frost record of a context, its DURATION 0 and OPEN. -/
def frostWords (s : State) (k cause detail i : Nat) : State :=
  (((s.setRg .timFrostRec [i, 0] s.time.mt).setRg .timFrostRec [i, 1] (s.getCtx k).plan.pcy).setRg .timFrostRec [i, 2]
    (pack [(32, 16, detail), (48, 4, cause)])).setRg .timFrostRec [i, 3]
    (pack [(0, 16, (s.idOf k).toNat), (16, 5, axis s.self 0), (21, 5, axis s.self 1), (26, 5, axis s.self 2), (31, 1, 1)])

/-- HEAD moves past a record; the oldest unread record gives way and is counted in LOST. -/
def advanceHead (s : State) (i : Nat) : State :=
  let s := s.setFld .timFrostHead [] 0 8 (i + 1)
  if (i + 1) % 256 = s.fld .timFrostTail [] 0 8
    then (s.setFld .timFrostTail [] 0 8 (s.fld .timFrostTail [] 0 8 + 1)).addFld .timFrostHead [] 16 32 1 else s

/-- A new Frost record at HEAD. -/
def writeFrostRec (s : State) (k cause detail : Nat) : State :=
  (advanceHead (frostWords s k cause detail (s.fld .timFrostHead [] 0 8)) (s.fld .timFrostHead [] 0 8)).addFld .timCtxFrostCount [k] 0 32 1

theorem openFrost_eq (s : State) (k cause detail : Nat) : openFrost s k cause detail =
    (writeFrostRec s k cause detail).modPlan k fun p => { p with
      state := .frosted,
      frost := some { index := s.fld .timFrostHead [] 0 8, cause := cause, detail := detail,
                      startMt := (writeFrostRec s k cause detail).time.mt } } :=
  rfl

section
variable (s : State) (k cause detail i : Nat)

theorem frostWords_frame : Frame [.csr] (fun a => 0x21000 ≤ a) s (frostWords s k cause detail i) := by
  have hc : Part.csr ∈ [Part.csr] := by decide
  have ha (j : Nat) : 0x21000 ≤ RegName.timFrostRec.addr [i, j] := by rw [addr_timFrostRec]; omega
  exact State.setRg_frame (State.setRg_frame (State.setRg_frame (State.setRg_frame Frame.refl hc (ha 0)) hc (ha 1)) hc (ha 2)) hc (ha 3)

theorem advanceHead_frame : Frame [.csr] (· ∈ [RegName.timFrostHead.addr [], RegName.timFrostTail.addr []]) s (advanceHead s i) := by
  have hc : Part.csr ∈ [Part.csr] := by decide
  have hh := State.setFld_frame (lo := 0) (k := 8) (v := i + 1)
    (Frame.refl (as := (· ∈ [RegName.timFrostHead.addr [], RegName.timFrostTail.addr []]))
    (s := s)) hc (List.mem_cons_self ..)
  unfold advanceHead
  dsimp only
  split
  · exact State.addFld_frame (State.setFld_frame hh hc (by simp)) hc (List.mem_cons_self ..)
  · exact hh

theorem writeFrostRec_frame : Frame [.csr] (fun _ => True) s (writeFrostRec s k cause detail) :=
  State.addFld_frame (((frostWords_frame s k cause detail _).mono (List.Subset.refl _) fun _ _ => trivial).trans
    ((advanceHead_frame _ _).mono (List.Subset.refl _) fun _ _ => trivial)) (by decide) trivial

/-- The words of the record stand after HEAD has moved and the context's count has risen. -/
theorem rg_writeFrostRec (j : Nat) (hk : k < 32) : (writeFrostRec s k cause detail).rg .timFrostRec [s.fld .timFrostHead [] 0 8, j]
    = (frostWords s k cause detail (s.fld .timFrostHead [] 0 8)).rg .timFrostRec [s.fld .timFrostHead [] 0 8, j] := by
  rw [writeFrostRec, State.addFld, State.rg_setFld_ne _ _ _ _ _ _ _ _ (by rw [addr_timFrostRec, addr_timCtxFrostCount]; omega)]
  refine (advanceHead_frame _ _).regs _ _ ?_
  simp only [addr_timFrostRec, addr_timFrostHead, addr_timFrostTail, List.mem_cons, List.not_mem_nil, or_false]
  omega

theorem frostWords_rg : (frostWords s k cause detail i).rg .timFrostRec [i, 0] = s.time.mt
    ∧ (frostWords s k cause detail i).rg .timFrostRec [i, 1] = (s.getCtx k).plan.pcy
    ∧ (frostWords s k cause detail i).rg .timFrostRec [i, 2] = pack [(32, 16, detail), (48, 4, cause)]
    ∧ (frostWords s k cause detail i).rg .timFrostRec [i, 3]
      = pack [(0, 16, (s.idOf k).toNat), (16, 5, axis s.self 0), (21, 5, axis s.self 1), (26, 5, axis s.self 2), (31, 1, 1)] := by
  have hne {j j' : Nat} (h : j ≠ j') (t : State) (w : Word) : (t.setRg .timFrostRec [i, j'] w).rg .timFrostRec [i, j] = t.rg .timFrostRec [i, j] :=
    State.rg_setRg_ne _ _ _ _ _ _ (by simp only [addr_timFrostRec]; omega)
  refine ⟨?_, ?_, ?_, State.rg_setRg_self _ _ _ _⟩
  · exact (hne (by decide) _ _).trans ((hne (by decide) _ _).trans ((hne (by decide) _ _).trans (State.rg_setRg_self _ _ _ _)))
  · exact (hne (by decide) _ _).trans ((hne (by decide) _ _).trans (State.rg_setRg_self _ _ _ _))
  · exact (hne (by decide) _ _).trans (State.rg_setRg_self _ _ _ _)

/-- HEAD after it has moved. -/
theorem head_writeFrostRec (hk : k < 32) : (writeFrostRec s k cause detail).fld .timFrostHead [] 0 8 = (s.fld .timFrostHead [] 0 8 + 1) % 256 := by
  have hcount (t : State) : (t.addFld .timCtxFrostCount [k] 0 32 1).fld .timFrostHead [] 0 8 = t.fld .timFrostHead [] 0 8 :=
    State.fld_setFld_ne _ _ _ _ _ _ _ _ _ _ (by rw [addr_timFrostHead, addr_timCtxFrostCount]; omega)
  have hset (t : State) (v : Nat) : (t.setFld .timFrostHead [] 0 8 v).fld .timFrostHead [] 0 8 = v % 256 :=
    State.fld_setFld_self _ _ _ _ _ _ (by decide)
  rw [writeFrostRec, hcount, advanceHead]
  split
  · rw [State.addFld, State.fld_setFld_beside _ _ _ _ _ _ _ _ (by decide) (by decide), State.fld_setFld_ne _ _ _ _ _ _ _ _ _ _ (by decide), hset]
  · exact hset _ _

end

/-- The context that an open Frost leaves. -/
theorem openFrost_getCtx (s : State) (k cause detail : Nat) : (openFrost s k cause detail).getCtx k = { s.getCtx k with
    plan := { (s.getCtx k).plan with
      state := .frosted,
      frost := some { index := s.fld .timFrostHead [] 0 8, cause := cause, detail := detail,
                      startMt := s.time.mt } } } := by
  have ht : (writeFrostRec s k cause detail).time = s.time := (writeFrostRec_frame s k cause detail).same .time (by decide)
  rw [openFrost_eq, State.getCtx_modPlan_self, State.getCtx_congr (writeFrostRec_frame s k cause detail).ctx, ht]

theorem openFrost_getCtx_ne (s : State) {k j : Nat} (cause detail : Nat) (h : j ≠ k) : (openFrost s k cause detail).getCtx j = s.getCtx j := by
  rw [openFrost_eq, State.getCtx_modPlan_ne _ _ _ _ h, State.getCtx_congr (writeFrostRec_frame s k cause detail).ctx]

theorem openFrost_frame (s : State) (k cause detail : Nat) : Frame [.csr, .ctx] (fun _ => True) s (openFrost s k cause detail) := by
  rw [openFrost_eq]
  exact State.modPlan_frame ((writeFrostRec_frame s k cause detail).mono (by simp) fun _ _ => trivial) (by decide)

theorem openFrost_record (s : State) {k : Nat} (cause detail : Nat) (hk : k < 32) {t : State} (ht : t = openFrost s k cause detail) {i : Nat}
    (hi : i = s.fld .timFrostHead [] 0 8) : t.rg .timFrostRec [i, 0] = s.time.mt ∧ t.rg .timFrostRec [i, 1] = (s.getCtx k).plan.pcy
      ∧ t.fld .timFrostRec [i, 2] 32 16 = detail % 65536 ∧ t.fld .timFrostRec [i, 2] 48 4 = cause % 16 ∧ t.bit .timFrostRec [i, 3] 31 = true
      ∧ t.fld .timFrostHead [] 0 8 = (i + 1) % 256 := by
  subst hi
  have hrg (j : Nat) : t.rg .timFrostRec [s.fld .timFrostHead [] 0 8, j]
      = (frostWords s k cause detail (s.fld .timFrostHead [] 0 8)).rg .timFrostRec [s.fld .timFrostHead [] 0 8, j] := by
    rw [ht, openFrost_eq, State.rg_modPlan, rg_writeFrostRec s k cause detail j hk]
  obtain ⟨h0, h1, h2, h3⟩ := frostWords_rg s k cause detail (s.fld .timFrostHead [] 0 8)
  refine ⟨(hrg 0).trans h0, (hrg 1).trans h1, ?_, ?_, ?_, ?_⟩
  · rw [State.fld, hrg, h2]
    simp [field_pack_head, field_pack_tail]
  · rw [State.fld, hrg, h2]
    simp [field_pack_head, field_pack_tail]
  · rw [State.bit, hrg, h3, bitOf_eq_field]
    simp [field_pack_head, field_pack_tail]
  · rw [ht, openFrost_eq, State.fld_modPlan, head_writeFrostRec s k cause detail hk]

end Sys2Proof.Machine
end

section
/-! No operation of a plan cycle moves a context's PCY but the cycle's completion itself (R49). -/

namespace Sys2Proof.Machine

open Sys2Proof.Safety

/-- The plan cycle that a context executes next. -/
def State.pcyOf (s : State) (j : Nat) : Word := (s.getCtx j).plan.pcy

section
variable {s : State} {j : Nat}

theorem State.pcyOf_congr {s t : State} (h : t.ctx = s.ctx) (j : Nat) : t.pcyOf j = s.pcyOf j := by
  rw [State.pcyOf, State.getCtx_congr h, State.pcyOf]

/-! ### The updates -/

@[simp] theorem State.pcyOf_setRg {n : RegName} {ix : List Nat} {w : Word} : (s.setRg n ix w).pcyOf j = s.pcyOf j := State.pcyOf_congr rfl j
@[simp] theorem State.pcyOf_setFld {n : RegName} {ix : List Nat} {lo k v : Nat} : (s.setFld n ix lo k v).pcyOf j = s.pcyOf j :=
  State.pcyOf_congr rfl j
@[simp] theorem State.pcyOf_addFld {n : RegName} {ix : List Nat} {lo k v : Nat} : (s.addFld n ix lo k v).pcyOf j = s.pcyOf j :=
  State.pcyOf_congr rfl j
@[simp] theorem State.pcyOf_setBit {n : RegName} {ix : List Nat} {i : Nat} {b : Bool} : (s.setBit n ix i b).pcyOf j = s.pcyOf j :=
  State.pcyOf_congr rfl j
@[simp] theorem State.pcyOf_finish {n : RegName} {ix : List Nat} {st : Status} : (s.finish n ix st).pcyOf j = s.pcyOf j := State.pcyOf_congr rfl j
@[simp] theorem State.pcyOf_modTile {t : Nat} {f : Tile → Tile} : (s.modTile t f).pcyOf j = s.pcyOf j := State.pcyOf_congr rfl j
@[simp] theorem State.pcyOf_modHbm {m : Nat} {f : Hbm → Hbm} : (s.modHbm m f).pcyOf j = s.pcyOf j := State.pcyOf_congr rfl j
@[simp] theorem State.pcyOf_modCxl {p : Nat} {f : Cxl → Cxl} : (s.modCxl p f).pcyOf j = s.pcyOf j := State.pcyOf_congr rfl j
@[simp] theorem State.pcyOf_modVault {v : Nat} {f : Vault → Vault} : (s.modVault v f).pcyOf j = s.pcyOf j := State.pcyOf_congr rfl j
@[simp] theorem State.pcyOf_modLink {l : Nat} {f : Link → Link} : (s.modLink l f).pcyOf j = s.pcyOf j := State.pcyOf_congr rfl j
@[simp] theorem State.pcyOf_modReq {i : Nat} {f : Req → Req} : (s.modReq i f).pcyOf j = s.pcyOf j := State.pcyOf_congr rfl j
@[simp] theorem State.pcyOf_modFlt {f : Faults → Faults} : (s.modFlt f).pcyOf j = s.pcyOf j := State.pcyOf_congr rfl j
@[simp] theorem State.pcyOf_mgtWrite {a : Nat} {bs : List Byte} : (s.mgtWrite a bs).pcyOf j = s.pcyOf j := State.pcyOf_congr rfl j
@[simp] theorem State.pcyOf_setPartQuar {i : Nat} {w : Word} : (s.setPartQuar i w).pcyOf j = s.pcyOf j := State.pcyOf_congr rfl j
@[simp] theorem State.pcyOf_emit {o : Out} : (s.emit o).pcyOf j = s.pcyOf j := State.pcyOf_congr rfl j
@[simp] theorem State.pcyOf_dropClaims {k : Nat} : (s.dropClaims k).pcyOf j = s.pcyOf j := State.pcyOf_congr rfl j
@[simp] theorem State.pcyOf_dropRoutes {k : Nat} : (s.dropRoutes k).pcyOf j = s.pcyOf j := State.pcyOf_congr rfl j

/-- A change of a context that keeps its PCY. -/
@[simp] theorem State.pcyOf_modCtx {k : Nat} {f : Ctx → Ctx} (h : ∀ c, (f c).plan.pcy = c.plan.pcy) : (s.modCtx k f).pcyOf j = s.pcyOf j := by
  by_cases hj : j = k
  · subst hj; simp [State.pcyOf, h]
  · rw [State.pcyOf, State.getCtx_modCtx_ne s k j f hj, State.pcyOf]

@[simp] theorem State.pcyOf_modPlan {k : Nat} {f : Plan → Plan} (h : ∀ p, (f p).pcy = p.pcy) : (s.modPlan k f).pcyOf j = s.pcyOf j :=
  State.pcyOf_modCtx fun c => h c.plan

@[simp] theorem State.pcyOf_modPart {k : Nat} {f : PartEntry → PartEntry} : (s.modPart k f).pcyOf j = s.pcyOf j :=
  State.pcyOf_modCtx fun _ => rfl

@[simp] theorem State.pcyOf_modServe {k : Nat} {f : Serve → Serve} : (s.modServe k f).pcyOf j = s.pcyOf j :=
  State.pcyOf_modCtx fun _ => rfl

@[simp] theorem State.pcyOf_ite {c : Prop} [Decidable c] {t : State} : (if c then s else t).pcyOf j = if c then s.pcyOf j else t.pcyOf j :=
  apply_ite (State.pcyOf · j) c s t

@[simp] theorem State.pcyOf_each {α : Type} {l : List α} {f : State → α → State} (h : ∀ a t, (f t a).pcyOf j = t.pcyOf j) :
    (s.each l f).pcyOf j = s.pcyOf j := State.each_never (State.pcyOf · j) fun a _ t => h a t

/-! ### Packets and the journal -/

@[simp] theorem State.pcyOf_freeFlits {vc : Nat} {fs : List TxFlit} : (s.freeFlits vc fs).pcyOf j = s.pcyOf j := by
  simp [State.freeFlits]

@[simp] theorem State.pcyOf_queueOn {l vc : Nat} {epoch : Bool} {p : List Byte} {from_ : Option Nat} :
    (s.queueOn l vc epoch p from_).pcyOf j = s.pcyOf j := by
  simp [State.queueOn]

theorem State.ctx_sample {p : List Byte} {inp out vc : Nat} {epoch : Bool} {drop : Nat} : (s.sample p inp out vc epoch drop).ctx = s.ctx := by
  unfold State.sample
  dsimp only
  split
  · rfl
  · split <;> rfl

@[simp] theorem State.pcyOf_keep {x : SentPacket} : (s.keep x).pcyOf j = s.pcyOf j := State.pcyOf_congr rfl j

@[simp] theorem pcyOf_sendFlood {k kind vc : Nat} {body : List Byte} : (sendFlood s k kind vc body).pcyOf j = s.pcyOf j := by
  unfold sendFlood
  have hs (t : State) (p : List Byte) (a b c d : Nat) (e : Bool) : (t.sample p a b c e d).pcyOf j = t.pcyOf j := State.pcyOf_congr State.ctx_sample j
  simp only [State.pcyOf_ite, State.pcyOf_keep, ite_self, State.pcyOf_each, State.pcyOf_queueOn, implies_true, hs]
  rfl

@[simp] theorem pcyOf_sendLost {k : Nat} : (sendLost s k).pcyOf j = s.pcyOf j := pcyOf_sendFlood

@[simp] theorem State.pcyOf_jrnPut {k : Nat} {r : List Byte} : (s.jrnPut k r).pcyOf j = s.pcyOf j := by
  unfold State.jrnPut
  by_cases h : r.length ≤ s.fld .fltJrnSize [k] 0 40 - s.fld .fltJrnHead [k] 0 40 <;> simp [h]

@[simp] theorem State.pcyOf_jrnFlush {k : Nat} : (s.jrnFlush k).pcyOf j = s.pcyOf j := by
  have go (l : List (List Byte)) (t : State) : (State.jrnFlush.go k t l).pcyOf j = t.pcyOf j := by
    induction l generalizing t with
    | nil => simp [State.jrnFlush.go]
    | cons r rs ih => simp [State.jrnFlush.go, ih]
  exact go _ _

@[simp] theorem State.pcyOf_jrnSay {k type flags step : Nat} {body : List Byte} : (s.jrnSay k type flags step body).pcyOf j = s.pcyOf j := by
  simp [State.jrnSay]

/-! ### Watches, writes and turns -/

@[simp] theorem State.pcyOf_endFlagWatch {w : Nat} {st : Status} {b : Bool} : (s.endFlagWatch w st b).pcyOf j = s.pcyOf j := State.pcyOf_congr rfl j

@[simp] theorem State.pcyOf_endSyncWatch {t w : Nat} {st : Status} {b : Bool} : (s.endSyncWatch t w st b).pcyOf j = s.pcyOf j :=
  State.pcyOf_congr rfl j

@[simp] theorem State.pcyOf_flagWrites {k va n : Nat} : (s.flagWrites k va n).pcyOf j = s.pcyOf j := by
  refine State.pcyOf_each fun w t => ?_
  split <;> simp

@[simp] theorem State.pcyOf_frameWrite {f : FrameId} {off : Nat} {bs : List Byte} : (s.frameWrite f off bs).pcyOf j = s.pcyOf j := by
  simp [State.frameWrite]

@[simp] theorem State.pcyOf_ctxWrite {k va : Nat} {bs : List Byte} {tile mop : Nat} : (s.ctxWrite k va bs tile mop).pcyOf j = s.pcyOf j := by
  unfold State.ctxWrite
  refine State.pcyOf_flagWrites.trans (State.pcyOf_each fun p t => ?_)
  dsimp only
  split
  · split
    · rfl
    · split
      · exact State.pcyOf_frameWrite
      · rfl
  · rfl

@[simp] theorem State.pcyOf_measure {i : Nat} {d : Delivery} : (s.measure i d).pcyOf j = s.pcyOf j := by
  simp [State.measure]

@[simp] theorem State.pcyOf_writeDelivery {i : Nat} {d : Delivery} : (s.writeDelivery i d).pcyOf j = s.pcyOf j := by
  simp [State.writeDelivery]

@[simp] theorem State.pcyOf_deliver {i : Nat} {d : Delivery} : (s.deliver i d).pcyOf j = s.pcyOf j := by
  simp [State.deliver]

@[simp] theorem State.pcyOf_formDelivery {i tokidx : Nat} {tokens : List Nat} {reason : Nat} {afterEnd miss : Bool} {step : Nat} :
    (s.formDelivery i tokidx tokens reason afterEnd miss step).pcyOf j = s.pcyOf j := by
  simp [State.formDelivery]

@[simp] theorem State.pcyOf_endTurn {i reason step : Nat} : (s.endTurn i reason step).pcyOf j = s.pcyOf j := by
  unfold State.endTurn State.idleReq
  dsimp only
  split <;> simp

@[simp] theorem State.pcyOf_stopTurns {k : Nat} : (s.stopTurns k).pcyOf j = s.pcyOf j := by
  simp [State.stopTurns]

/-! ### Frost and the end of a plan -/

@[simp] theorem pcyOf_openFrost {k cause detail : Nat} : (openFrost s k cause detail).pcyOf j = s.pcyOf j := by
  rw [openFrost_eq]
  refine (State.pcyOf_modPlan ?_).trans (State.pcyOf_congr (writeFrostRec_frame s k cause detail).ctx j)
  exact fun _ => rfl

@[simp] theorem pcyOf_closeFrost {k : Nat} {ended : Bool} : (closeFrost s k ended).pcyOf j = s.pcyOf j := by
  unfold closeFrost
  split <;> simp

@[simp] theorem State.pcyOf_deepTiles {k : Nat} : (s.deepTiles k).pcyOf j = s.pcyOf j := by
  simp [State.deepTiles]

@[simp] theorem State.pcyOf_dropCloOp {k : Nat} {st : Status} : (s.dropCloOp k st).pcyOf j = s.pcyOf j :=
  congrArg (fun c => c.plan.pcy) (State.getCtx_dropCloOp s k j st)

@[simp] theorem State.pcyOf_dropSnap {k : Nat} : (s.dropSnap k).pcyOf j = s.pcyOf j := by
  unfold State.dropSnap
  split
  · split <;> rfl
  · rfl

@[simp] theorem State.pcyOf_endRequests {k : Nat} : (s.endRequests k).pcyOf j = s.pcyOf j := by
  simp [State.endRequests]

@[simp] theorem pcyOf_endPlan {k : Nat} {why : EndReason} : (endPlan s k why).pcyOf j = s.pcyOf j := by
  simp [endPlan]

/-! ### Faults -/

@[simp] theorem State.pcyOf_refreshHead : s.refreshHead.pcyOf j = s.pcyOf j := by
  unfold State.refreshHead
  split <;> rfl

@[simp] theorem State.pcyOf_putRecord {i : Nat} {r : FltRecord} : (s.putRecord i r).pcyOf j = s.pcyOf j := by
  simp [State.putRecord]

@[simp] theorem State.pcyOf_place {r : FltRecord} : (s.place r).pcyOf j = s.pcyOf j := by
  unfold State.place
  split
  · simp
  · split
    · rfl
    · split
      · simp
      · split <;> simp

theorem State.pcyOf_mergeRecord {r : FltRecord} {t : State} (h : s.mergeRecord r = some t) : t.pcyOf j = s.pcyOf j := by
  obtain ⟨e, -, rfl⟩ := Option.map_eq_some_iff.1 h
  rfl

@[simp] theorem pcyOf_quarPart {part : Nat} : (quarPart s part).pcyOf j = s.pcyOf j := rfl

@[simp] theorem pcyOf_levelOne {k : Nat} {why : EndReason} : (levelOne s k why).pcyOf j = s.pcyOf j := by
  simp [levelOne]

@[simp] theorem pcyOf_levelTwo {r : FltRecord} : (levelTwo s r).pcyOf j = s.pcyOf j := by
  have hplan (k : Nat) (t : State) :
      (if (t.getCtx k).state = .free ∨ (t.getCtx k).state = .quarantine then t else endPlan t k .level1).pcyOf j = t.pcyOf j := by
    split
    · rfl
    · exact pcyOf_endPlan
  have hplans := State.pcyOf_each (s := s) (l := slots) hplan
  unfold levelTwo
  generalize s.each slots _ = t at hplans ⊢
  dsimp only
  split <;> exact hplans

theorem State.pcyOf_countL0 {code : Nat} {ctx : Option CtxId} : (s.countL0 code ctx).2.pcyOf j = s.pcyOf j := by
  unfold State.countL0
  split
  · rfl
  · dsimp only
    split
    · exact State.pcyOf_modFlt
    · rfl

theorem State.pcyOf_eventLevel {e : Event} : (s.eventLevel e).2.2.pcyOf j = s.pcyOf j := by
  unfold State.eventLevel
  dsimp only
  generalize (if e.cause.level = 1 ∧ s.eventCtx e = none then 0 else e.cause.level) = base
  split
  · exact State.pcyOf_countL0
  · rfl

@[simp] theorem pcyOf_raiseWith {e : Event} {esc group : Bool} {why : EndReason} : (raiseWith s e esc group why).pcyOf j = s.pcyOf j := by
  unfold raiseWith
  refine Eq.trans ?_ (State.pcyOf_eventLevel (e := e))
  generalize s.eventLevel e = x
  obtain ⟨level, counted, t⟩ := x
  dsimp only
  generalize (if level = 1 ∧ esc = true then _ else _ : FltRecord) = r
  split
  · split
    · exact State.pcyOf_mergeRecord ‹_›
    · exact State.pcyOf_place
  · split
    · rw [pcyOf_levelTwo, State.pcyOf_place]
    · split
      · rw [pcyOf_levelOne, State.pcyOf_place]
      · exact State.pcyOf_place

@[simp] theorem pcyOf_against {c : Cause} {src k detail : Nat} : (against s c src k detail).pcyOf j = s.pcyOf j := pcyOf_raiseWith

@[simp] theorem pcyOf_notice {c : Cause} {src detail : Nat} : (notice s c src detail).pcyOf j = s.pcyOf j := pcyOf_raiseWith

/-! ### A plan cycle (R99, R115, R128, R130) -/

@[simp] theorem State.pcyOf_watchObj {t k : Nat} : (s.watchObj t k).pcyOf j = s.pcyOf j := by
  simp [State.watchObj]

@[simp] theorem pcyOf_increment {t k : Nat} {value : BitVec 32} {src : SigSource} : (increment s t k value src).pcyOf j = s.pcyOf j := by
  unfold increment
  dsimp only
  split <;> simp

@[simp] theorem pcyOf_barrierWait {t k : Nat} : (barrierWait s t k).pcyOf j = s.pcyOf j := by
  unfold barrierWait
  dsimp only
  split <;> simp

@[simp] theorem pcyOf_stepEnd {k t : Nat} {o : MacroOp} : (stepEnd s k t o).pcyOf j = s.pcyOf j := by
  unfold stepEnd
  dsimp only
  split
  · split
    · exact pcyOf_against
    · split
      · exact pcyOf_against
      · simp
  · rfl

@[simp] theorem pcyOf_act {k t : Nat} {o : MacroOp} : (act s k t o).pcyOf j = s.pcyOf j := by
  simp [act]

@[simp] theorem pcyOf_dispatchIf {k t : Nat} : (dispatchIf s k t).pcyOf j = s.pcyOf j := by
  unfold dispatchIf dispatch
  dsimp only
  split
  · split <;> simp
  · rfl

theorem pcyOf_takeFlit {t stream c : Nat} : (takeFlit s t stream c).2.pcyOf j = s.pcyOf j := by
  unfold takeFlit
  split
  · split
    · exact State.pcyOf_modTile
    · rfl
  · rfl

@[simp] theorem pcyOf_fillSlot {k : Nat} {im : Image} {l g : Nat} : (fillSlot s k im l g).pcyOf j = s.pcyOf j := by
  unfold fillSlot
  dsimp only
  refine Eq.trans ?_ (pcyOf_takeFlit (t := (s.getCtx k).planTiles.getD (im.slot l false (g % 64)).vtile 576)
    (stream := (im.slot l false (g % 64)).stream) (c := slotCycle (s.getLink l).half g))
  generalize takeFlit s _ _ _ = x
  obtain ⟨o, t⟩ := x
  cases o with
  | some f => exact State.pcyOf_modLink
  | none =>
    dsimp only
    split
    · rfl
    · exact State.pcyOf_modLink

@[simp] theorem pcyOf_sendFlits {k : Nat} {im : Image} {c : Nat} : (sendFlits s k im c).pcyOf j = s.pcyOf j := by
  unfold sendFlits fillDue
  split <;> simp

@[simp] theorem pcyOf_wakeHint {k t : Nat} : (wakeHint s k t).pcyOf j = s.pcyOf j := by
  unfold wakeHint
  dsimp only
  split <;> simp

@[simp] theorem pcyOf_enterSaving {k : Nat} : (enterSaving s k).pcyOf j = s.pcyOf j := by
  simp [enterSaving]

@[simp] theorem pcyOf_loseIfMarked {k : Nat} : (loseIfMarked s k).pcyOf j = s.pcyOf j := by
  simp [loseIfMarked]

@[simp] theorem pcyOf_finishPlan {k : Nat} : (finishPlan s k).pcyOf j = s.pcyOf j := by
  simp [finishPlan]

@[simp] theorem pcyOf_reachP {k : Nat} : (reachP s k).pcyOf j = s.pcyOf j := by
  unfold reachP
  dsimp only
  split <;> simp

@[simp] theorem pcyOf_stopPlan {k : Nat} : (stopPlan s k).pcyOf j = s.pcyOf j := by
  simp [stopPlan]

@[simp] theorem pcyOf_beginFrost {k : Nat} {h : Hold} {late : List Nat} : (beginFrost s k h late).pcyOf j = s.pcyOf j := by
  simp [beginFrost]

end

end Sys2Proof.Machine
end

section
/-! What a cycle's due flits change as they are released (R55, R134, R295), and how a plan cycle goes (R54, R62, R66). -/

namespace Sys2Proof.Machine

open Sys2Proof.Safety

/-! ### The frame of a release -/

/-- The registers that a release may change: the ledger's, and the watches and counters of tiles. -/
def releaseRegs (a : Nat) : Prop := 0x600000 ≤ a

/-- The parts and registers that a release may change. -/
abbrev ReleaseFrame (s t : State) : Prop := Frame [.csr, .tile, .link] releaseRegs s t

section
variable {s0 s : State}

theorem barrierReport_frame (h : ReleaseFrame s0 s) {l slack : Nat} : ReleaseFrame s0 (barrierReport s l slack) := by
  have hc : Part.csr ∈ [Part.csr, .tile, .link] := by decide
  have hbar : releaseRegs (RegName.netLedgerBar.addr [l]) := Nat.le_add_right_of_le (by decide)
  have hslack : releaseRegs (RegName.netLedgerSlack.addr [l]) := Nat.le_add_right_of_le (by decide)
  unfold barrierReport
  dsimp only
  split
  · split
    · exact State.addFld_frame (State.setFld_frame (State.addFld_frame h hc hbar) hc hslack) hc hslack
    · exact State.setFld_frame (State.addFld_frame h hc hbar) hc hslack
  · split
    · exact State.addFld_frame (State.addFld_frame h hc hbar) hc hslack
    · exact State.addFld_frame h hc hbar

theorem State.watchObj_frame (h : ReleaseFrame s0 s) {t k : Nat} : ReleaseFrame s0 (s.watchObj t k) := by
  refine State.each_frame h fun w _ u hu => ?_
  split
  · exact State.endSyncWatch_frame hu (by decide) (Nat.le_add_right_of_le (by decide))
  · exact hu

theorem increment_frame (h : ReleaseFrame s0 s) {t k : Nat} {value : BitVec 32} {src : SigSource} : ReleaseFrame s0 (increment s t k value src) := by
  unfold increment
  dsimp only
  split
  · exact h
  · split
    · exact State.watchObj_frame (State.modTile_frame h (by decide))
    · split
      · exact State.addFld_frame h (by decide) (Nat.le_add_right_of_le (by decide))
      · exact h

theorem linkSignal_frame (h : ReleaseFrame s0 s) {t k : Nat} {v : BitVec 32} {i : InItem} : ReleaseFrame s0 (linkSignal s t k v i) := by
  unfold linkSignal
  dsimp only
  split
  · exact increment_frame (barrierReport_frame h)
  · exact increment_frame h

theorem drainIn_frame (h : ReleaseFrame s0 s) {t stream : Nat} : ReleaseFrame s0 (drainIn s t stream) := by
  have go (l : List InItem) (u : State) (hu : ReleaseFrame s0 u) : ReleaseFrame s0 (drainIn.go t stream u l) := by
    induction l generalizing u with
    | nil => exact State.modTile_frame hu (by decide)
    | cons i is ih =>
      unfold drainIn.go
      split
      · exact ih _ (linkSignal_frame hu)
      · split
        · exact ih _ (State.modTile_frame hu (by decide))
        · exact State.modTile_frame hu (by decide)
  exact go _ _ h

theorem treeWrite_frame (h : ReleaseFrame s0 s) {l : Nat} : ReleaseFrame s0 (treeWrite s l false) := by
  unfold treeWrite
  split
  · exact h
  · dsimp only
    split
    · exact State.modLink_frame h (by decide)
    · simp only [Bool.false_eq_true, if_false]
      split
      · exact State.modLink_frame h (by decide)
      · exact drainIn_frame (State.modTile_frame (State.modLink_frame h (by decide)) (by decide))

theorem flushSignals_frame (h : ReleaseFrame s0 s) {l : Nat} : ReleaseFrame s0 (flushSignals s l) :=
  State.each_frame h fun _ _ _ hu => treeWrite_frame hu

theorem releaseLink_frame (h : ReleaseFrame s0 s) {im : Image} {tiles : List Nat} {c l : Nat} : ReleaseFrame s0 (releaseLink s im tiles c l) :=
  flushSignals_frame (State.each_frame h fun _ _ _ hu => State.modLink_frame hu (by decide))

end
/-! ### The release of a cycle -/

/-- The links of a plan release what is due at a cycle. -/
def releaseLinks (s : State) (im : Image) (tiles : List Nat) (c : Nat) : State := s.each im.planLinks fun s l => releaseLink s im tiles c l

theorem releaseLinks_frame (s : State) (im : Image) (tiles : List Nat) (c : Nat) : ReleaseFrame s (releaseLinks s im tiles c) :=
  State.each_frame Frame.refl fun _ _ _ hu => releaseLink_frame hu

theorem releaseFlits_held {s : State} {k c frosted : Nat} (h : s.linkHolds k c frosted ≠ []) : releaseFlits s k c frosted = s := by
  unfold releaseFlits
  dsimp only
  split
  · exact if_pos (.inr h)
  · rfl

theorem releaseFlits_again {s : State} {k c frosted : Nat} (h : c < (s.getCtx k).plan.released) : releaseFlits s k c frosted = s := by
  unfold releaseFlits
  dsimp only
  split
  · exact if_pos (.inl h)
  · rfl

theorem releaseFlits_due {s : State} {k c frosted : Nat} {im : Image} (him : (s.getCtx k).image = some im)
    (h : s.linkHolds k c frosted = []) (hr : (s.getCtx k).plan.released ≤ c) : releaseFlits s k c frosted
      = (releaseLinks s im (s.getCtx k).tiles c).modPlan k fun p => { p with released := c + 1 } := by
  unfold releaseFlits
  dsimp only
  rw [him]
  exact if_neg (by simp [h, Nat.not_lt.2 hr])

/-- The cycle from which a context's due flits have not been released, after a release at cycle `c` (R55). -/
def State.releasedAt (s : State) (k c frosted : Nat) : Nat :=
  if s.linkHolds k c frosted = [] then max (s.getCtx k).plan.released (c + 1) else (s.getCtx k).plan.released

theorem releaseFlits_getCtx {s : State} {k : Nat} (c frosted : Nat) (him : (s.getCtx k).image ≠ none) : (releaseFlits s k c frosted).getCtx k
    = { s.getCtx k with plan := { (s.getCtx k).plan with released := s.releasedAt k c frosted } } := by
  obtain ⟨im, him⟩ := Option.ne_none_iff_exists'.1 him
  by_cases h : s.linkHolds k c frosted = []
  · rw [State.releasedAt, if_pos h]
    rcases Nat.lt_or_ge c (s.getCtx k).plan.released with hr | hr
    · rw [releaseFlits_again hr, Nat.max_eq_left hr]
    · rw [releaseFlits_due him h hr, State.getCtx_modPlan_self, State.getCtx_congr ((releaseLinks_frame _ _ _ _).same .ctx (by decide)),
        Nat.max_eq_right (by omega)]
  · rw [releaseFlits_held h, State.releasedAt, if_neg h]

/-- The release keeps every other context, and changes no part or register but those of its links and the context. -/
theorem releaseFlits_getCtx_ne (s : State) {k j : Nat} (c frosted : Nat) (hj : j ≠ k) : (releaseFlits s k c frosted).getCtx j = s.getCtx j := by
  unfold releaseFlits
  dsimp only
  split
  · split
    · rfl
    · exact (State.getCtx_modPlan_ne _ _ _ _ hj).trans (State.getCtx_congr ((releaseLinks_frame s _ _ c).same .ctx (by decide)) j)
  · rfl

theorem releaseFlits_frame (s : State) (k c frosted : Nat) : Frame [.csr, .ctx, .tile, .link] releaseRegs s (releaseFlits s k c frosted) := by
  unfold releaseFlits
  dsimp only
  split
  · split
    · exact Frame.refl
    · exact State.modPlan_frame ((releaseLinks_frame s _ _ c).mono (by simp) fun _ h => h) (by decide)
  · exact Frame.refl

@[simp] theorem pcyOf_releaseFlits {s : State} {k c frosted j : Nat} : (releaseFlits s k c frosted).pcyOf j = s.pcyOf j := by
  unfold releaseFlits
  dsimp only
  split
  · split
    · rfl
    · refine (State.pcyOf_modPlan ?_).trans (State.pcyOf_congr ((releaseLinks_frame s _ _ c).same .ctx (by decide)) j)
      exact fun _ => rfl
  · rfl

/-! ### What holds a context (R54, R62) -/

/-- A Frost names a hold wherever there is one. -/
theorem firstHold_eq_none {hs : List Hold} (h : firstHold hs = none) : hs = [] := by
  have stays (l : List Hold) (a : Hold) : ∃ b, l.foldl (fun b h => match b with
      | none => some h
      | some a => if h.code < a.code ∨ (h.code = a.code ∧ h.detail % 1024 < a.detail % 1024) then some h else some a) (some a) = some b := by
    induction l generalizing a with
    | nil => exact ⟨a, rfl⟩
    | cons h l ih =>
      simp only [List.foldl_cons]
      split <;> exact ih _
  cases hs with
  | nil => rfl
  | cons a l =>
    obtain ⟨b, hb⟩ := stays l a
    exact absurd (hb.symm.trans h) nofun

/-- The horizon allows a context its plan cycle `c` (R54): each plan neighbour has sent ENDED or a stamp of at least `c` less D_hop. -/
def Ctx.horizon (x : Ctx) (c : Nat) : Prop :=
  ∀ l ∈ x.links, (KMap.get {} x.plan.stamps l).ended = true ∨ (c : Int) - x.dhop ≤ (KMap.get {} x.plan.stamps l).value

/-- A neighbour that lets a context thaw lets it run, since the margin of a thaw is the smaller one (R56). -/
theorem Ctx.horizon_of_behind {x : Ctx} {c : Nat} {thaw : Bool} (h : x.behind c thaw = []) : x.horizon c := by
  intro l hl
  have hn := List.filter_eq_nil_iff.1 h l hl
  dsimp only at hn
  simp only [Bool.and_eq_true, Bool.not_eq_true', decide_eq_true_eq, not_and, Int.not_lt] at hn
  cases he : (KMap.get ({} : Stamp) x.plan.stamps l).ended with
  | true => exact .inl rfl
  | false =>
    refine .inr (Int.le_trans ?_ (hn he))
    split <;> omega

/-- A context that nothing holds stands within its horizon. -/
theorem State.horizon_of_holds {s : State} {k c frosted : Nat} (him : (s.getCtx k).image ≠ none) (h : s.holds k c frosted = []) :
    (s.getCtx k).horizon c := by
  obtain ⟨im, him⟩ := Option.ne_none_iff_exists'.1 him
  have hl : s.linkHolds k c frosted = [] := by
    simp only [State.holds, him, List.append_eq_nil_iff] at h
    exact h.1.1
  simp only [State.linkHolds, him, List.append_eq_nil_iff, List.map_eq_nil_iff] at hl
  exact Ctx.horizon_of_behind hl.1

/-! ### A plan cycle -/

/-- A cycle begins: an open Frost ends, and the tiles dispatch (R62, R99). -/
def beginCycle (s : State) (k : Nat) : State :=
  let s := (closeFrost s k false).modPlan k fun p => { p with state := .running }
  s.each (s.getCtx k).planTiles fun s t => dispatchIf s k t

/-- The slots of a cycle take their flits, and tiles begin to wake (R115, R128). -/
def sendCycle (s : State) (k : Nat) (im : Image) (c : Nat) : State :=
  let s := sendFlits s k im c
  s.each (s.getCtx k).planTiles fun s t => wakeHint s k t

/-- A cycle has completed. -/
def countCycle (s : State) (k : Nat) : State :=
  (s.modPlan k fun p => { p with pcy := p.pcy + 1 }).modCtx k fun x => { x with serve := { x.serve with begun := max x.serve.begun 1 } }

/-- What a cycle that did not end the plan leaves. -/
def completedCycle (s : State) (k : Nat) (im : Image) (c : Nat) : State := countCycle (sendCycle (beginCycle s k) k im c) k

theorem runCycle_eq {s : State} {k : Nat} {im : Image} (c : Nat) (him : (s.getCtx k).image = some im) : runCycle s k c =
    if ((beginCycle s k).getCtx k).plan.state = .ended then beginCycle s k
    else if ((completedCycle s k im c).getCtx k).planTiles.any fun t => ((completedCycle s k im c).getTile t).endTaken
    then finishPlan (completedCycle s k im c) k else reachP (completedCycle s k im c) k := by
  rw [runCycle, him]
  rfl

theorem pcyOf_beginCycle {s : State} {k j : Nat} : (beginCycle s k).pcyOf j = s.pcyOf j := by
  simp [beginCycle]

theorem pcyOf_sendCycle {s : State} {k : Nat} {im : Image} {c j : Nat} : (sendCycle s k im c).pcyOf j = s.pcyOf j := by
  simp [sendCycle]

theorem pcyOf_countCycle {s : State} {k : Nat} : (countCycle s k).pcyOf k = s.pcyOf k + 1 := by
  simp [countCycle, State.pcyOf]

theorem pcyOf_completedCycle {s : State} {k : Nat} {im : Image} {c : Nat} : (completedCycle s k im c).pcyOf k = s.pcyOf k + 1 := by
  rw [completedCycle, pcyOf_countCycle, pcyOf_sendCycle, pcyOf_beginCycle]

/-- A cycle that is executed ends the plan as its operations are dispatched, or completes. -/
theorem runCycle_pcy {s : State} {k : Nat} (c : Nat) (him : (s.getCtx k).image ≠ none) :
    ((runCycle s k c).getCtx k).plan.state = .ended ∨ (runCycle s k c).pcyOf k = s.pcyOf k + 1 := by
  obtain ⟨im, him⟩ := Option.ne_none_iff_exists'.1 him
  rw [runCycle_eq c him]
  split
  · exact .inl ‹_›
  · split
    · exact .inr (pcyOf_finishPlan.trans pcyOf_completedCycle)
    · exact .inr (pcyOf_reachP.trans pcyOf_completedCycle)

theorem runCycle_noImage {s : State} {k : Nat} (c : Nat) (him : (s.getCtx k).image = none) : runCycle s k c = s := by
  rw [runCycle, him]

/-- A plan cycle completes only where nothing holds the context, whose image is loaded. -/
theorem holds_of_planCycle {s : State} {k : Nat} (h : (planCycle s k).pcyOf k ≠ s.pcyOf k) :
    (s.getCtx k).image ≠ none ∧ ∃ frosted, s.holds k (s.pcyOf k).toNat frosted = [] := by
  have image {c f : Nat} (hr : (runCycle (releaseFlits s k c f) k c).pcyOf k ≠ s.pcyOf k) : (s.getCtx k).image ≠ none := by
    intro him
    have hs : releaseFlits s k c f = s := by rw [releaseFlits, him]
    rw [hs, runCycle_noImage c him] at hr
    exact hr rfl
  unfold planCycle at h
  dsimp only at h
  split at h
  · split at h
    · exact absurd pcyOf_loseIfMarked h
    · split at h
      · exact absurd pcyOf_stopPlan h
      · split at h
        · exact absurd (pcyOf_beginFrost.trans pcyOf_releaseFlits) h
        · exact ⟨image h, 0, firstHold_eq_none ‹_›⟩
  · split at h
    · exact absurd pcyOf_loseIfMarked h
    · split at h
      · exact absurd rfl h
      · split at h
        · exact absurd pcyOf_releaseFlits h
        · rename_i hn
          split at h
          · exact absurd (pcyOf_stopPlan.trans pcyOf_releaseFlits) h
          · exact ⟨image h, _, firstHold_eq_none (Option.not_isSome_iff_eq_none.1 hn)⟩
  · exact absurd rfl h

end Sys2Proof.Machine
end

section
/-! The horizon and the stamps that carry it (R53, R54, R59). -/

namespace Sys2Proof.Machine

open Sys2Proof.Safety

/-! ### Stamps -/

/-- A neighbour's stamp after another one has come (R53): ENDED stays. -/
def Stamp.hear (t : Stamp) (stamp : Nat) : Stamp :=
  { value := if fieldN stamp 48 1 = 0 then -1 else t.value + signedOf 48 (unsignedOf 48 ((stamp % 2 ^ 48 : Nat) - t.value)),
    ended := t.ended || fieldN stamp 49 1 == 1 }

theorem Stamp.hear_ended (t : Stamp) (stamp : Nat) : (t.hear stamp).ended = true ↔ t.ended = true ∨ fieldN stamp 49 1 = 1 := by
  simp [Stamp.hear]

theorem Stamp.hear_notStarted (t : Stamp) {stamp : Nat} (h : fieldN stamp 48 1 = 0) : (t.hear stamp).value = -1 := if_pos h

/-- A stamp comes under the partition tag of the context that holds the link. -/
def PartEntry.tagged (e : PartEntry) (part gen : Nat) : Prop := e.state ≠ .free ∧ e.part = part ∧ e.gen = gen

section
variable {s : State} {l k part gen : Nat}

theorem takeStamp_held (stamp : Nat) (hk : s.linkHolder l = some k) (ht : (s.getCtx k).part.tagged part gen) : takeStamp s l stamp part gen
    = s.modPlan k fun p => { p with stamps := KMap.upd {} p.stamps l fun t => t.hear stamp } := by
  rw [takeStamp, hk]
  exact if_pos ht

theorem takeStamp_other (stamp : Nat) (hk : s.linkHolder l = some k) (ht : ¬(s.getCtx k).part.tagged part gen) :
    takeStamp s l stamp part gen = s := by
  rw [takeStamp, hk]
  exact if_neg ht

theorem takeStamp_free (stamp : Nat) (hk : s.linkHolder l = none) : takeStamp s l stamp part gen = s := by
  rw [takeStamp, hk]

/-- The stamp that the holder of the link keeps of its neighbour. -/
theorem takeStamp_stamp (stamp : Nat) (hk : s.linkHolder l = some k) (ht : (s.getCtx k).part.tagged part gen) :
    KMap.get {} ((takeStamp s l stamp part gen).getCtx k).plan.stamps l = (KMap.get {} (s.getCtx k).plan.stamps l).hear stamp := by
  rw [takeStamp_held stamp hk ht, State.getCtx_modPlan_self]
  exact KMap.get_set_self _ _ _ _

end

/-! ### The obligation -/

theorem exec_planCycleExecute (k : CtxSlot) (s : State) : exec (.planCycleExecute k) s = .next (planCycle s k.val) := rfl

/-- An ARMED context begins where MT has reached T_L and its plan tiles run (R50). -/
def State.begins (s : State) (k : Nat) : Prop := (s.getCtx k).plan.state = .armed ∧ (s.getCtx k).plan.tl.toNat ≤ s.mtN
  ∧ (s.getCtx k).planTiles.all fun t => (s.getTile t).power == .run && !(s.getTile t).waking

theorem exec_planStart_begins {k : CtxSlot} {s : State} (h : s.begins k.val) :
    exec (.planStart k) s = .next (planCycle (s.modPlan k.val fun p => { p with state := .running }) k.val) := if_pos h

theorem exec_planStart_waits {k : CtxSlot} {s : State} (h : ¬s.begins k.val) : exec (.planStart k) s = .next s := if_neg h

/-- A context whose PCY a plan cycle moves stands within its horizon. -/
theorem horizon_of_planCycle {s : State} {k : Nat} (h : (planCycle s k).pcyOf k ≠ s.pcyOf k) : (s.getCtx k).horizon (s.pcyOf k).toNat := by
  obtain ⟨him, frosted, hn⟩ := holds_of_planCycle h
  exact State.horizon_of_holds him hn

/-- So does one whose first cycle it is. -/
theorem horizon_of_planStart {s : State} {k : Nat}
    (h : (planCycle (s.modPlan k fun p => { p with state := .running }) k).pcyOf k ≠ s.pcyOf k) : (s.getCtx k).horizon (s.pcyOf k).toNat := by
  have hp : (s.modPlan k fun p => { p with state := .running }).pcyOf k = s.pcyOf k := State.pcyOf_modPlan fun _ => rfl
  have hh := horizon_of_planCycle (hp ▸ h)
  rwa [hp, State.getCtx_modPlan_self] at hh

/-- Settles O19: a cycle completes only where nothing holds the context, and the horizon is among what holds it; stamps by the step of
`Stamp.hear`. -/
theorem horizonRule : Obligations.HorizonRule := by
  refine ⟨fun c k s t hc he hp => ?cycles, fun k l stamp part gen s hk hs hpart hgen => ?stamps⟩
  case cycles =>
    rcases hc with rfl | rfl
    · by_cases hb : s.begins k.val
      · cases (exec_planStart_begins hb).symm.trans he
        exact horizon_of_planStart hp
      · cases (exec_planStart_waits hb).symm.trans he
        exact absurd rfl hp
    · cases (exec_planCycleExecute k s).symm.trans he
      exact horizon_of_planCycle hp
  case stamps =>
    rw [takeStamp_stamp stamp hk ⟨hs, hpart, hgen⟩]
    exact ⟨Stamp.hear_notStarted _, Stamp.hear_ended _ _⟩

end Sys2Proof.Machine
end

section
/-! Plan cycles that are held, stopped or executed, the limit of a Frost, and RESUME (R50, R61 to R67). -/

namespace Sys2Proof.Machine

open Sys2Proof.Safety

/-! ### A running context -/

section
variable {s : State} {k : Nat}

theorem loseIfMarked_unmarked (h : (s.getCtx k).lostMark = false) : loseIfMarked s k = s := by
  simp [loseIfMarked, h]

/-- The plan tiles whose operation is late show HELD in a Frost. -/
def holdTiles (s : State) (late : List Nat) : State := s.each late fun s t => s.modTile t fun x => { x with held := true }

theorem holdTiles_frame (s : State) (late : List Nat) : Frame [.tile] (fun _ => False) s (holdTiles s late) :=
  State.each_frame Frame.refl fun _ _ _ hu => State.modTile_frame hu (by decide)

/-- The tiles that keep a context from a cycle. -/
def State.lateTiles (s : State) (k c : Nat) : List Nat := (s.getCtx k).planTiles.filter fun t => !(s.lateOps k t c).isEmpty

theorem planCycle_held (hr : (s.getCtx k).plan.state = .running) (hm : (s.getCtx k).lostMark = false) (hs : s.stopDue k = false) {h : Hold}
    (hh : firstHold (s.holds k (s.getCtx k).plan.pcy.toNat 0) = some h) : planCycle s k
      = beginFrost (releaseFlits s k (s.getCtx k).plan.pcy.toNat 0) k h (s.lateTiles k (s.getCtx k).plan.pcy.toNat) := by
  simp [planCycle, hr, hm, hs, hh, State.lateTiles]

theorem planCycle_stops (hr : (s.getCtx k).plan.state = .running) (hm : (s.getCtx k).lostMark = false) (hs : s.stopDue k = true) :
    planCycle s k = stopPlan s k := by
  simp [planCycle, hr, hm, hs]

theorem planCycle_runs (hr : (s.getCtx k).plan.state = .running) (hm : (s.getCtx k).lostMark = false) (hs : s.stopDue k = false)
    (hh : firstHold (s.holds k (s.getCtx k).plan.pcy.toNat 0) = none) :
    planCycle s k = runCycle (releaseFlits s k (s.getCtx k).plan.pcy.toNat 0) k (s.getCtx k).plan.pcy.toNat := by
  simp [planCycle, hr, hm, hs, hh]

end

/-! ### A context that something holds (R61, R62) -/

/-- A context without an image is not held. -/
theorem image_of_firstHold {s : State} {k c : Nat} {h : Hold} (hh : firstHold (s.holds k c 0) = some h) : (s.getCtx k).image ≠ none := by
  intro him
  simp only [State.holds, him] at hh
  exact nomatch hh

/-- A held context as its Frost begins: what is due is released, and the late tiles show HELD. -/
def heldState (s : State) (k : Nat) : State :=
  holdTiles (releaseFlits s k (s.getCtx k).plan.pcy.toNat 0) (s.lateTiles k (s.getCtx k).plan.pcy.toNat)

theorem heldState_frame (s : State) (k : Nat) : Frame [.csr, .ctx, .tile, .link] releaseRegs s (heldState s k) :=
  (releaseFlits_frame s k _ 0).trans ((holdTiles_frame _ _).mono (by simp) nofun)

theorem heldState_getCtx {s : State} {k : Nat} (him : (s.getCtx k).image ≠ none) : (heldState s k).getCtx k = { s.getCtx k with
    plan := { (s.getCtx k).plan with released := s.releasedAt k (s.getCtx k).plan.pcy.toNat 0 } } :=
  (State.getCtx_congr ((holdTiles_frame _ _).same .ctx (by decide)) k).trans (releaseFlits_getCtx _ 0 him)

theorem heldState_getCtx_ne (s : State) {k j : Nat} (hj : j ≠ k) : (heldState s k).getCtx j = s.getCtx j :=
  (State.getCtx_congr ((holdTiles_frame _ _).same .ctx (by decide)) j).trans (releaseFlits_getCtx_ne s _ 0 hj)

/-- A context that the horizon or the release rule holds keeps its links' flits. -/
theorem heldState_link {s : State} {k : Nat} (h : s.linkHolds k (s.getCtx k).plan.pcy.toNat 0 ≠ []) : (heldState s k).link = s.link := by
  rw [heldState, releaseFlits_held h]
  exact (holdTiles_frame _ _).same .link (by decide)

/-- The registers of plan time stand as a Frost begins. -/
theorem heldState_head (s : State) (k : Nat) : (heldState s k).fld .timFrostHead [] 0 8 = s.fld .timFrostHead [] 0 8 :=
  congrArg (field · 0 8) ((heldState_frame s k).regs .timFrostHead [] (by rw [addr_timFrostHead, releaseRegs]; decide))

theorem planCycle_frosts {s : State} {k : Nat} (hr : (s.getCtx k).plan.state = .running) (hm : (s.getCtx k).lostMark = false)
    (hs : s.stopDue k = false) {h : Hold} (hh : firstHold (s.holds k (s.getCtx k).plan.pcy.toNat 0) = some h) :
    planCycle s k = openFrost (heldState s k) k h.code h.detail := by
  rw [planCycle_held hr hm hs hh]
  refine loseIfMarked_unmarked ?_
  rw [openFrost_getCtx]
  exact (congrArg Ctx.lostMark (heldState_getCtx (image_of_firstHold hh))).trans hm

/-- A running context that something holds is FROSTED (R62). -/
theorem planCycleExecute_frosts {k : CtxSlot} {s : State} (hr : (s.getCtx k.val).plan.state = .running) (hm : (s.getCtx k.val).lostMark = false)
    (hs : s.stopDue k.val = false) {h : Hold} (hh : firstHold (s.holds k.val (s.getCtx k.val).plan.pcy.toNat 0) = some h) :
    Completes (.planCycleExecute k) s [.csr, .ctx, .tile, .link] fun t =>
      (t.getCtx k.val).plan = { (s.getCtx k.val).plan with
          state := .frosted, frost := some { index := s.fld .timFrostHead [] 0 8, cause := h.code, detail := h.detail, startMt := s.time.mt },
          released := if s.linkHolds k.val (s.getCtx k.val).plan.pcy.toNat 0 = []
            then max (s.getCtx k.val).plan.released ((s.getCtx k.val).plan.pcy.toNat + 1) else (s.getCtx k.val).plan.released }
      ∧ (s.linkHolds k.val (s.getCtx k.val).plan.pcy.toNat 0 ≠ [] → t.link = s.link)
      ∧ t.rg .timFrostRec [s.fld .timFrostHead [] 0 8, 0] = s.time.mt
      ∧ t.rg .timFrostRec [s.fld .timFrostHead [] 0 8, 1] = (s.getCtx k.val).plan.pcy
      ∧ t.fld .timFrostRec [s.fld .timFrostHead [] 0 8, 2] 32 16 = h.detail % 65536
      ∧ t.fld .timFrostRec [s.fld .timFrostHead [] 0 8, 2] 48 4 = h.code % 16
      ∧ t.bit .timFrostRec [s.fld .timFrostHead [] 0 8, 3] 31 = true
      ∧ t.fld .timFrostHead [] 0 8 = (s.fld .timFrostHead [] 0 8 + 1) % 256
      ∧ ∀ j, j ≠ k.val → t.getCtx j = s.getCtx j := by
  have hx := (exec_planCycleExecute k s).trans (congrArg _ (planCycle_frosts hr hm hs hh))
  have held := heldState_getCtx (image_of_firstHold hh)
  have time : (heldState s k.val).time = s.time := (heldState_frame s k.val).same .time (by decide)
  have fr := (heldState_frame s k.val).mono (qs := [.csr, .ctx, .tile, .link]) (bs := fun _ => True) (by simp) fun _ _ => trivial
  have open_ := openFrost_frame (heldState s k.val) k.val h.code h.detail
  obtain ⟨h0, h1, h2, h3, h4, h5⟩ := openFrost_record (heldState s k.val) h.code h.detail k.isLt rfl (heldState_head s k.val).symm
  refine (fr.trans (open_.mono (by simp) fun _ h => h)).completes hx
    ⟨?_, fun hl => ?_, h0.trans (congrArg Time.mt time), ?_, h2, h3, h4, h5, fun j hj => ?_⟩
  · rw [openFrost_getCtx, held, heldState_head, time]
    rfl
  · exact (open_.same .link (by decide)).trans (heldState_link hl)
  · rw [h1, held]
  · rw [openFrost_getCtx_ne _ _ _ hj, heldState_getCtx_ne s hj]

/-! ### A stop (R66) -/

/-- A context whose stop is due, without an open Frost, is STOPPED with STOP_EN clear. -/
theorem planCycleExecute_stops {k : CtxSlot} {s : State} (hr : (s.getCtx k.val).plan.state = .running) (hm : (s.getCtx k.val).lostMark = false)
    (hs : s.stopDue k.val = true) (hf : (s.getCtx k.val).plan.frost = none) :
    Completes (.planCycleExecute k) s [.csr, .ctx] fun t =>
      (t.getCtx k.val).plan = { (s.getCtx k.val).plan with state := .stopped } ∧ t.bit .timCtxStop [k.val] 63 = false
      ∧ t.fld .timCtxStop [k.val] 0 63 = s.fld .timCtxStop [k.val] 0 63 ∧ RegsKept [RegName.timCtxStop.addr [k.val]] s t := by
  have hc : closeFrost s k.val true = s := by rw [closeFrost, hf]
  have hstop : stopPlan s k.val = (s.modPlan k.val fun p => { p with state := .stopped }).setBit .timCtxStop [k.val] 63 false := by
    rw [stopPlan, hc]
    exact loseIfMarked_unmarked (by rw [State.getCtx_setBit, State.getCtx_modPlan_self]; exact hm)
  have fr : Frame [.csr, .ctx] (· ∈ [RegName.timCtxStop.addr [k.val]]) s
      ((s.modPlan k.val fun p => { p with state := .stopped }).setBit .timCtxStop [k.val] 63 false) :=
    State.setBit_frame (State.modPlan_frame Frame.refl (by decide)) (by decide) (List.mem_singleton.2 rfl)
  refine fr.completes ((exec_planCycleExecute k s).trans (congrArg _ ((planCycle_stops hr hm hs).trans hstop))) ⟨?_, ?_, ?_, fr.regsKept⟩
  · rw [State.getCtx_setBit, State.getCtx_modPlan_self]
  · exact State.bit_setBit_self _ _ _ _ (by decide)
  · exact State.fld_setFld_beside _ _ _ _ _ _ _ _ (by decide) (by decide)

/-! ### A cycle that is executed, and the first one (R50, R62) -/

theorem planCycleExecute_completes {k : CtxSlot} {s : State} (hr : (s.getCtx k.val).plan.state = .running)
    (hm : (s.getCtx k.val).lostMark = false) (hs : s.stopDue k.val = false) (him : (s.getCtx k.val).image ≠ none)
    (hh : firstHold (s.holds k.val (s.getCtx k.val).plan.pcy.toNat 0) = none) : ∃ t, exec (.planCycleExecute k) s = .next t
      ∧ ((t.getCtx k.val).plan.state = .ended ∨ (t.getCtx k.val).plan.pcy = (s.getCtx k.val).plan.pcy + 1) := by
  refine ⟨_, (exec_planCycleExecute k s).trans (congrArg _ (planCycle_runs hr hm hs hh)), ?_⟩
  have him' : ((releaseFlits s k.val (s.getCtx k.val).plan.pcy.toNat 0).getCtx k.val).image ≠ none := by
    rw [releaseFlits_getCtx _ _ him]
    exact him
  exact (runCycle_pcy _ him').imp_right fun h => h.trans (congrArg (· + 1) pcyOf_releaseFlits)

theorem planCycles : Claims.PlanCycles := by
  intro k s
  refine ⟨fun ha ht hx => ?_, fun h => ?_, fun hr hm hs h hh => planCycleExecute_frosts hr hm hs hh,
    fun hr hm hs hf => planCycleExecute_stops hr hm hs hf, fun hr hm hs him hh => planCycleExecute_completes hr hm hs him hh⟩
  · have hb : s.begins k.val := ⟨ha, ht, List.all_eq_true.2 fun x hm => by simp [hx x hm]⟩
    rw [exec_planStart_begins hb, exec_planCycleExecute]
  · refine exec_planStart_waits fun ⟨ha, ht, _⟩ => ?_
    rcases h with h | h
    · exact h ha
    · omega

/-! ### The limit of a Frost, and RESUME (R64, R67) -/

theorem exec_frostTimeout {k : CtxSlot} {s : State} {f : Frost} (hf : (s.getCtx k.val).plan.frost = some f) : exec (.frostTimeout k) s
    = if s.fld .timCtxFrostLimit [k.val] 0 40 ≠ 0 ∧ s.fld .timCtxFrostLimit [k.val] 0 40 < (s.time.mt - f.startMt).toNat
      then .next (against s .frostTimeout srcTim k.val f.detail) else .next s := by
  have hx : exec (.frostTimeout k) s = execFrostTimeout k s := rfl
  rw [hx, execFrostTimeout, hf]

theorem exec_frostTimeout_none {k : CtxSlot} {s : State} (hf : (s.getCtx k.val).plan.frost = none) : exec (.frostTimeout k) s = .next s := by
  have hx : exec (.frostTimeout k) s = execFrostTimeout k s := rfl
  rw [hx, execFrostTimeout, hf]

theorem exec_timCtxResume (acc : Accessor) (k : CtxSlot) (v : Word) {s : State} (h : s.absent srcTim = false) :
    exec (.timCtxResume acc k v) s = .next (ctxResume s acc k.val v) := congrArg Host.Outcome.next (onBlock_present h _)

section
variable {s : State} {acc : Accessor} {k : Nat} {v : Word}

theorem ctxResume_accepted (ho : s.owns acc k = true) (hv : v.getLsbD 0 = true) (hst : (s.getCtx k).plan.state = .stopped)
    (hh : (s.getCtx k).plan.held = false) (hp : (s.getCtx k).plan.stopP = none) (hc : (s.getCtx k).state = .opened) :
    ctxResume s acc k v = s.modPlan k fun p => { p with state := .running } := by
  have hb : bitOf v 0 = true := hv
  simp [ctxResume, ho, hb, hst, hh, hp, hc]

theorem ctxResume_dropped (h : s.owns acc k = false ∨ v.getLsbD 0 = false ∨ (s.getCtx k).plan.state ≠ .stopped) : ctxResume s acc k v = s := by
  refine if_neg fun hc => ?_
  simp only [Bool.and_eq_true, beq_iff_eq] at hc
  obtain ⟨⟨⟨⟨⟨ho, hv⟩, hst⟩, -⟩, -⟩, -⟩ := hc
  rcases h with h | h | h
  · exact absurd (h.symm.trans ho) nofun
  · exact absurd (h.symm.trans hv) nofun
  · exact h hst

end

theorem frostLimitAndResume : Claims.FrostLimitAndResume := by
  intro acc k v s
  refine ⟨fun f hf => ⟨fun h0 hl => ?_, fun h => ?_⟩, exec_frostTimeout_none, fun ha ho hv hst hh hp hc => ?resume, fun ha h => ?dropped⟩
  · exact (exec_frostTimeout hf).trans (if_pos ⟨h0, hl⟩)
  · exact (exec_frostTimeout hf).trans (if_neg (by omega))
  case resume =>
    have fr : Frame [.ctx] (fun _ => False) s (s.modPlan k.val fun p => { p with state := .running }) := State.modPlan_frame Frame.refl (by decide)
    refine fr.completes ((exec_timCtxResume acc k v ha).trans (congrArg _ (ctxResume_accepted ho hv hst hh hp hc))) ⟨?_, fun j hj => ?_⟩
    · exact State.getCtx_modPlan_self _ _ _
    · exact State.getCtx_modPlan_ne _ _ _ _ hj
  case dropped => exact (exec_timCtxResume acc k v ha).trans (congrArg _ (ctxResume_dropped h))

/-- Settles O20: a plan cycle by what it meets, and the commands on a Frost and a stop. -/
theorem planTime : Obligations.PlanTime := ⟨planCycles, frostLimitAndResume⟩

end Sys2Proof.Machine
end

section
/-! What a slot's flit does to its link (R300, R325 to R333): the record of the link step by step. -/

namespace Sys2Proof.Machine

open Sys2Proof.Safety

/-! ### A link's record changed -/

theorem State.getLink_congr {s t : State} (h : t.link = s.link) (l : Nat) : t.getLink l = s.getLink l := by
  rw [State.getLink, h, State.getLink]

theorem State.getCtx_eq {s t : State} (h : t.ctx = s.ctx) : t.getCtx = s.getCtx := funext fun k => State.getCtx_congr h k

theorem State.linkHolder_congr {s t : State} (h : t.ctx = s.ctx) (l : Nat) : t.linkHolder l = s.linkHolder l := by
  rw [State.linkHolder, State.getCtx_eq h, State.linkHolder]

/-- Between two states a link's record becomes `y`, no other link changes, and the rest stays in a frame. -/
structure LinkStep (ps : List Part) (as : Nat → Prop) (l : Nat) (s t : State) (y : Link) : Prop where
  frame  : Frame ps as s t
  link   : t.getLink l = y
  others : Kept {} [l] s.link t.link

section
variable {ps : List Part} {as : Nat → Prop} {l : Nat} {s t : State} {x y : Link}

theorem LinkStep.refl (h : s.getLink l = x) : LinkStep ps as l s s x := ⟨Frame.refl, h, fun _ _ => rfl⟩

theorem LinkStep.set (h : LinkStep ps as l s t y) : LinkSet s t l y := ⟨h.link, h.others⟩

theorem LinkStep.to (h : LinkStep ps as l s t y) {z : Link} (hz : y = z) : LinkStep ps as l s t z := hz ▸ h

theorem LinkStep.modLink (h : LinkStep ps as l s t y) (hp : .link ∈ ps) {f : Link → Link} {z : Link} (hz : f y = z) :
    LinkStep ps as l s (t.modLink l f) z :=
  ⟨State.modLink_frame h.frame hp, (State.getLink_modLink_self t l f).trans (h.link.symm ▸ hz),
    fun m hm => (KMap.kept_set {} t.link l _ m hm).trans (h.others m hm)⟩

/-- A change of other parts. -/
theorem LinkStep.beside (h : LinkStep ps as l s t y) {u : State} (hf : Frame ps as s u) (hl : u.link = t.link) : LinkStep ps as l s u y :=
  ⟨hf, (State.getLink_congr hl l).trans h.link, fun m hm => (State.getLink_congr hl m).trans (h.others m hm)⟩

theorem LinkStep.addFld (h : LinkStep ps as l s t y) {n : RegName} {ix : List Nat} {lo k d : Nat} (hp : .csr ∈ ps) (ha : as (n.addr ix)) :
    LinkStep ps as l s (t.addFld n ix lo k d) y := h.beside (State.addFld_frame h.frame hp ha) rfl

theorem LinkStep.mono {qs : List Part} {bs : Nat → Prop} (h : LinkStep ps as l s t y) (hp : ps ⊆ qs) (ha : ∀ a, as a → bs a) :
    LinkStep qs bs l s t y := ⟨h.frame.mono hp ha, h.link, h.others⟩

end

/-! ### The link's record -/

section
variable {x : Link} {fn slot : Nat}

theorem Link.framed_of_inService (h : InService x) : x.framed = true := by
  rcases h with h | h <;> simp [Link.framed, h]

/-- A slot that comes in order. -/
theorem Link.atSlot_next (h : x.rxNext ≤ slot) : x.atSlot slot = { x with rxNext := slot + 1 } := by
  rw [Link.atSlot, if_neg (Nat.not_lt.2 h)]

/-- The frame that is being received goes on. -/
theorem Link.inFrame_same (h : fn = x.rxFn) : x.inFrame fn = { x with rxCur := fn } := if_neg fun hn => hn.2 h

theorem Link.spoil_new (h : x.rxCur = x.rxFn ∧ slot ∉ x.rxSeen) :
    x.spoil slot = { x with rxSeen := slot :: x.rxSeen, missing := x.missing ++ [(x.rxFn, slot)] } :=
  if_pos (by simpa using h)

theorem Link.spoil_held (h : ¬(x.rxCur = x.rxFn ∧ slot ∉ x.rxSeen)) : x.spoil slot = x := if_neg (by simpa using h)

/-- With nothing missing, the positions of the frame being received that have come are held. -/
theorem Link.has_current (hm : x.missing = []) (hf : fn = x.rxFn) : x.has fn slot = true ↔ slot ∈ x.rxSeen := by
  simp [Link.has, hm, hf]

theorem Link.take_new (hm : x.missing = []) (hf : fn = x.rxFn) (hs : slot ∉ x.rxSeen) : x.take fn slot = { x with rxSeen := slot :: x.rxSeen } := by
  have he : x.missing.erase (fn, slot) = x.missing := by rw [hm]; rfl
  rw [Link.take, he, if_pos (by simpa using ⟨hf, hs⟩)]

/-- The missing position is filled. -/
theorem Link.take_missing (hm : x.missing = [(fn, slot)]) : x.take fn slot =
    { x with missing := [], rxSeen := if fn = x.rxFn ∧ slot ∉ x.rxSeen then slot :: x.rxSeen else x.rxSeen } := by
  have he : x.missing.erase (fn, slot) = [] := by simp [hm]
  simp [Link.take, he]

theorem drainVcs_idle (h : x.rxHeld = []) : drainVcs x = x := by
  simp [drainVcs, h, KMap.get, drainVc]

/-- A flit in a slot of which nothing waits and nothing is missing, as it takes its plan slot (R326). -/
def Link.enter (x : Link) (slot : Nat) (w : RxWait) : Link :=
  { x with
    rxWait := KMap.set [] (KMap.upd [] x.rxWait slot (insertBy (fun a b => fnGe b.fn a.fn) w)) slot [],
    rxFrames := KMap.upd 0 x.rxFrames slot (· + 1),
    buf := KMap.set { slot := 64 } x.buf (64 * KMap.get 0 x.rxFrames slot + slot)
      { payload := w.payload, signal := w.signal, slot := slot, at_ := w.at_, tick := w.tick } }

theorem drainSlot_enter {w : RxWait} (hw : KMap.get [] x.rxWait slot = []) (hm : x.missing = []) {y : Link}
    (hy : y = { x with rxWait := KMap.upd [] x.rxWait slot (insertBy (fun a b => fnGe b.fn a.fn) w) }) :
    drainSlot slot (KMap.get [] y.rxWait slot).length y = x.enter slot w := by
  have hq : KMap.get [] y.rxWait slot = [w] := by
    rw [hy, KMap.upd, hw]
    exact KMap.get_set_self _ _ _ _
  have hn : (y.missing.any fun m => m.2 == slot && fnGe w.fn m.1) = false := by rw [hy]; simp [hm]
  rw [hq, List.length_singleton, drainSlot]
  dsimp only
  rw [hq]
  dsimp only
  rw [hn, hy]
  rfl

/-- What waits in a channel goes on where it need not wait. -/
def drainChannel (x : Link) (vc : Nat) : Link := drainVc vc (KMap.get [] x.rxHeld vc).length x

theorem drainVcs_eq (x : Link) : drainVcs x = drainChannel (drainChannel (drainChannel x 1) 2) 3 := rfl

theorem drainChannel_idle {vc : Nat} (h : KMap.get [] x.rxHeld vc = []) : drainChannel x vc = x := by
  rw [drainChannel, h]
  rfl

theorem drainChannel_single {vc : Nat} {f : RxFlit} (h : KMap.get [] x.rxHeld vc = [f]) (hm : x.missing = []) : drainChannel x vc
    = { x with rxHeld := KMap.set [] x.rxHeld vc [], rxq := KMap.upd [] x.rxq vc fun q => q ++ [f.flit] } := by
  have hn : (x.missing.any fun m => mayCarry vc m.2 && posBefore m.1 m.2 f.fn f.slot) = false := by simp [hm]
  rw [drainChannel, h, List.length_singleton, drainVc, h]
  dsimp only
  rw [hn]
  rfl

/-- A flit of a packet, where nothing is missing and no other flit waits, as it enters its channel's receive buffer (R333). -/
theorem drainVcs_single {vc : Nat} {f : RxFlit} (hvc : 1 ≤ vc ∧ vc ≤ 3) (h : KMap.get [] x.rxHeld vc = [f])
    (ho : ∀ v, v ≠ vc → KMap.get [] x.rxHeld v = []) (hm : x.missing = []) : drainVcs x
    = { x with rxHeld := KMap.set [] x.rxHeld vc [], rxq := KMap.upd [] x.rxq vc fun q => q ++ [f.flit] } := by
  have hd := drainChannel_single h hm
  have idle {v : Nat} (hv : v ≠ vc) : drainChannel (drainChannel x vc) v = drainChannel x vc := by
    refine drainChannel_idle ?_
    rw [hd]
    exact (KMap.get_set_ne _ _ _ _ hv).trans (ho v hv)
  have first {v : Nat} (hv : v ≠ vc) : drainChannel x v = x := drainChannel_idle (ho v hv)
  rw [← hd, drainVcs_eq]
  obtain rfl | rfl | rfl : vc = 1 ∨ vc = 2 ∨ vc = 3 := by omega
  · rw [idle (by decide), idle (by decide)]
  · rw [first (by decide), idle (by decide)]
  · rw [first (by decide), first (by decide)]

end

/-! ### Operations on the link -/

section
variable {ps : List Part} {as : Nat → Prop} {l : Nat} {s t : State} {y : Link}

/-- An ACK that finds nothing unacknowledged changes nothing (R334). -/
theorem LinkStep.linkAck (h : LinkStep ps as l s t y) (hp : .link ∈ ps) (hs : y.sent = []) (hg : y.goback = []) (ack : Nat) :
    LinkStep ps as l s (linkAck t l ack) y := by
  have hgone : ((t.getLink l).sent.filter fun f => fnGe ack f.fn) = [] := by rw [h.link, hs]; rfl
  unfold Machine.linkAck
  dsimp only
  rw [hgone, List.flatMap_nil, State.each, List.foldl_nil]
  refine LinkStep.modLink h hp ?_
  cases y
  cases hs
  cases hg
  rfl

/-- A flit without corrected symbols. -/
theorem countCe_zero (t : State) (l : Nat) : countCe t l 0 = t := rfl

/-- The alignment stands while fewer than eight uncorrectable flits come in a row (R340). -/
theorem countBad_eq (hb : (t.getLink l).badRun + 1 < 8) :
    countBad t l = (t.addFld .lnkCe [l] 32 32 1).modLink l fun x => { x with badRun := x.badRun + 1 } := by
  unfold countBad
  refine if_neg ?_
  rw [State.getLink_modLink_self]
  exact Nat.not_le.2 hb

theorem LinkStep.countBad (h : LinkStep ps as l s t y) (hp : .link ∈ ps) (hc : .csr ∈ ps) (ha : as (RegName.lnkCe.addr [l]))
    (hb : y.badRun + 1 < 8) :
    LinkStep ps as l s (countBad t l) { y with badRun := y.badRun + 1 } := by
  rw [countBad_eq (h.link ▸ hb)]
  exact (h.addFld hc ha).modLink hp rfl

/-- LNK_CE counts an uncorrectable flit. -/
theorem fld_countBad (hb : (t.getLink l).badRun + 1 < 8) : (countBad t l).fld .lnkCe [l] 32 32 = satN 32 (t.fld .lnkCe [l] 32 32 + 1) := by
  rw [countBad_eq hb]
  exact State.fld_addFld_self t .lnkCe [l] 32 32 1 (by decide)

end
end Sys2Proof.Machine
end

section
/-! Flits of data, of packets and of replays that arrive (R298, R300, R325, R326, R330, R333). -/

namespace Sys2Proof.Machine

open Sys2Proof.Safety

/-! ### The context that takes a slot's flits -/

theorem State.size_congr {s t : State} (hc : t.csr = s.csr) : t.size = s.size :=
  funext fun i => congrArg (· + 1) (State.fld_congr hc .netTopo [] (5 * i) 5)

theorem State.farOf_congr {s t : State} (hc : t.csr = s.csr) (hs : t.self = s.self) (l : Nat) : t.farOf l = s.farOf l := by
  rw [State.farOf, State.size_congr hc, hs, State.farOf]

theorem State.inBox_congr {s t : State} (hc : t.csr = s.csr) (c origin extent : Nat) : t.inBox c origin extent = s.inBox c origin extent := by
  have ha : t.relAxis c origin = s.relAxis c origin := funext fun i => by rw [State.relAxis, State.size_congr hc, State.relAxis]
  rw [State.inBox, ha, State.inBox]

/-- A link's record names the same far end as another. -/
def Link.sameFar (x y : Link) : Prop := y.farKnown = x.farKnown ∧ y.farCoord = x.farCoord ∧ y.farInst = x.farInst

section
variable {as : Nat → Prop} {l : Nat} {s t : State} {y : Link}

/-- What a link's own record goes through, its far end apart, does not change which context holds it. -/
theorem LinkStep.vc0Ctx (h : LinkStep [.link] as l s t y) (hy : (s.getLink l).sameFar y) (slot : Nat) : t.vc0Ctx l slot = s.vc0Ctx l slot := by
  have hx : t.ctx = s.ctx := h.frame.same .ctx (by decide)
  have hc : t.csr = s.csr := h.frame.same .csr (by decide)
  have hs : t.self = s.self := h.frame.same .self (by decide)
  obtain ⟨known, coord, inst⟩ := hy
  have hctx := State.getCtx_eq hx
  have hfar := State.farOf_congr hc hs l
  have hwire : t.miswired l = s.miswired l := by rw [State.miswired, h.link, known, coord, inst, hfar, State.miswired]
  have hint (o e : Nat) : t.internal l o e = s.internal l o e := by
    rw [State.internal, hfar, State.inBox_congr hc, hs, hwire, State.internal]
  have hbound (k : Nat) : t.bound k l = s.bound k l := by rw [State.bound, hctx, hint, State.bound]
  rw [State.vc0Ctx, State.vc0Ctx, State.linkHolder_congr hx]
  cases s.linkHolder l with
  | none => rfl
  | some k => dsimp only; rw [hctx, hbound]

/-! ### A flit fills its position -/

/-- A DATA flit as it waits for its plan slot: it carries the PCY and the tick of its acceptance (R298, R326). -/
def State.dataWait (s : State) (k fn : Nat) (payload : List Byte) : RxWait :=
  { fn := fn, payload := some payload, at_ := (s.getCtx k).plan.pcy.toNat, tick := s.time.refTicks }

section
variable {slot fn h : Nat} {payload : List Byte} {signal : Option (Nat × BitVec 32)} {z : Link}

theorem LinkStep.drainRx {ps : List Part} (h : LinkStep ps as l s t y) (hp : .link ∈ ps)
    (hz : drainSlot slot (KMap.get [] y.rxWait slot).length y = z) :
    LinkStep ps as l s (drainRx t l slot) z := h.modLink hp hz

/-- Nothing waits in the slot. -/
theorem LinkStep.drainRx_idle {ps : List Part} (h : LinkStep ps as l s t y) (hp : .link ∈ ps) (hw : KMap.get [] y.rxWait slot = []) :
    LinkStep ps as l s (Machine.drainRx t l slot) y := h.drainRx hp (by rw [hw]; rfl)

/-- The flit of a packet that a slot carries. -/
def packetFlit (l slot fn h type : Nat) (payload : List Byte) : RxFlit :=
  { fn := fn, slot := slot, flit := { epoch := fieldN h 29 1 == 1, first := type == 3, payload := payload, from_ := some l } }

/-- A flit of a packet waits in its channel for its turn. -/
def Link.holdVc (x : Link) (vc : Nat) (f : RxFlit) : Link :=
  { x with rxHeld := KMap.upd [] x.rxHeld vc (insertBy (fun a b => posBefore a.fn a.slot b.fn b.slot) f) }

/-- It has gone on into the channel's receive buffer. -/
def Link.enterVc (x : Link) (vc : Nat) (f : RxFlit) : Link :=
  { x with rxHeld := KMap.set [] (x.holdVc vc f).rxHeld vc [], rxq := KMap.upd [] x.rxq vc fun q => q ++ [f.flit] }

theorem drainVcs_holdVc {vc : Nat} {f : RxFlit} (hvc : 1 ≤ vc ∧ vc ≤ 3) (hh : z.rxHeld = []) (hm : z.missing = []) :
    drainVcs (z.holdVc vc f) = z.enterVc vc f := by
  have hself : KMap.get [] (z.holdVc vc f).rxHeld vc = [f] := by
    rw [Link.holdVc, hh]
    exact KMap.get_set_self _ _ _ _
  have hother (v : Nat) (hv : v ≠ vc) : KMap.get [] (z.holdVc vc f).rxHeld v = [] := by
    rw [Link.holdVc, hh]
    exact KMap.get_set_ne [] [] _ _ hv
  exact drainVcs_single hvc hself hother hm

/-- A DATA flit that a context takes enters the receive buffer. -/
theorem LinkStep.takeFlitAt_data (hu : LinkStep [.link] as l s t y) (hz : y.take fn slot = z) (hfar : (s.getLink l).sameFar z) (hm : z.missing = [])
    (hh : z.rxHeld = []) (hw : KMap.get [] z.rxWait slot = []) {k : Nat} (hk : s.vc0Ctx l slot = some k) :
    LinkStep [.link] as l s (takeFlitAt t l slot fn h 1 payload none) (z.enter slot (s.dataWait k fn payload)) := by
  have taken := hu.modLink (List.mem_singleton.2 rfl) (f := fun x => x.take fn slot) hz
  have hvc := (taken.vc0Ctx hfar slot).trans hk
  have hctx := State.getCtx_congr (taken.frame.same .ctx (by decide)) k
  have htime : (t.modLink l fun x => x.take fn slot).time = s.time := taken.frame.same .time (by decide)
  have waits := taken.modLink (List.mem_singleton.2 rfl)
    (f := fun x => { x with rxWait := KMap.upd [] x.rxWait slot (insertBy (fun a b => fnGe b.fn a.fn) (s.dataWait k fn payload)) }) rfl
  have entered := waits.drainRx (List.mem_singleton.2 rfl) (drainSlot_enter hw hm rfl)
  have drained := entered.modLink (List.mem_singleton.2 rfl) (drainVcs_idle (x := z.enter slot _) hh)
  unfold takeFlitAt takeVc0
  dsimp only
  rw [if_pos (Or.inl rfl), hvc]
  dsimp only
  rw [hctx, htime]
  exact drained

/-- One that no context takes is counted as SLOT. -/
theorem LinkStep.takeFlitAt_dropped (hu : LinkStep [.link] (· ∈ [RegName.netDrop1.addr []]) l s t y) (hz : y.take fn slot = z)
    (hfar : (s.getLink l).sameFar z) (hh : z.rxHeld = []) (hw : KMap.get [] z.rxWait slot = []) (hk : s.vc0Ctx l slot = none) :
    LinkStep [.link, .csr] (· ∈ [RegName.netDrop1.addr []]) l s (takeFlitAt t l slot fn h 1 payload signal) z
    ∧ (takeFlitAt t l slot fn h 1 payload signal).fld .netDrop1 [] 32 32 = satN 32 (s.fld .netDrop1 [] 32 32 + 1) := by
  have taken := hu.modLink (List.mem_singleton.2 rfl) (f := fun x => x.take fn slot) hz
  have hvc := (taken.vc0Ctx hfar slot).trans hk
  have hfld := State.fld_congr (taken.frame.same .csr (by decide)) .netDrop1 [] 32 32
  have dropped := (taken.mono (qs := [.link, .csr]) (by simp) fun _ ha => ha).addFld (n := .netDrop1) (ix := []) (lo := 32) (k := 32) (d := 1)
    (by decide) (List.mem_singleton.2 rfl)
  have entered := dropped.drainRx_idle (by decide) hw
  have drained := entered.modLink (by decide) (drainVcs_idle hh)
  unfold takeFlitAt takeVc0
  dsimp only
  rw [if_pos (Or.inl rfl), hvc]
  refine ⟨drained, ?_⟩
  rw [← hfld]
  exact State.fld_addFld_self _ _ _ _ _ _ (by decide)

/-- A flit of a packet, where no other waits, enters its channel's receive buffer (R333). -/
theorem LinkStep.takeFlitAt_packet (hu : LinkStep [.link] as l s t y) (hz : y.take fn slot = z) (hm : z.missing = []) (hh : z.rxHeld = [])
    (hw : KMap.get [] z.rxWait slot = []) {type : Nat} (htype : type = 3 ∨ type = 4) (h0 : fieldN h 24 2 ≠ 0) :
    LinkStep [.link] as l s (takeFlitAt t l slot fn h type payload signal) (z.enterVc (fieldN h 24 2) (packetFlit l slot fn h type payload)) := by
  have hlt := fieldN_lt h 24 2
  have taken := hu.modLink (List.mem_singleton.2 rfl) (f := fun x => x.take fn slot) hz
  have waits := taken.modLink (List.mem_singleton.2 rfl) (f := fun x => x.holdVc (fieldN h 24 2) (packetFlit l slot fn h type payload)) rfl
  have entered := waits.drainRx_idle (List.mem_singleton.2 rfl) hw
  have drained := entered.modLink (List.mem_singleton.2 rfl) (drainVcs_holdVc (by omega) hh hm)
  unfold takeFlitAt
  dsimp only
  rw [if_neg (by omega), if_pos ⟨htype, h0⟩]
  exact drained

end
end

end Sys2Proof.Machine
end

section
/-! What a link's sequenced slots and its replay slots receive (R300, R325 to R333). -/

namespace Sys2Proof.Machine

open Sys2Proof.Safety

theorem exec_vc0FlitReceive (l : LinkIx) (slot : Fin 62) (flit : List Byte) (s : State) :
    exec (.vc0FlitReceive l slot flit none) s = .next (flitReceive s l.val slot.val flit none) := rfl

theorem exec_replayFlitReceive (l : LinkIx) {slot : Nat} (h : slot < 56) (flit : List Byte) (s : State) :
    exec (.replayFlitReceive l (BitVec.ofNat 6 slot) flit none) s = .next (replayReceive s l.val slot flit none) := by
  have hs : (BitVec.ofNat 6 slot).toNat = slot := by rw [BitVec.toNat_ofNat]; omega
  exact congrArg (fun n => Host.Outcome.next (replayReceive s l.val n flit none)) hs

/-! ### Slots and the flit code -/

theorem mem_sequenced {slot : Nat} : slot ∈ sequenced ↔ slot < 56 ∨ slot = 60 ∨ slot = 61 := by simp [sequenced]

theorem slotDecode_allowed {slot n : Nat} {flit f : List Byte} (hd : rsDecode flit = some (f, n))
    (ht : typeOk slot (fieldN (leAt f 0 4) 26 3) = true) :
    slotDecode slot flit = some (f, n) := by
  rw [slotDecode, hd]
  exact if_pos ht

theorem typeOk_packet {slot type : Nat} (hs : slot ∈ sequenced) (ht : type = 3 ∨ type = 4) : typeOk slot type = true := by
  rcases mem_sequenced.1 hs with h | rfl | rfl <;> rcases ht with rfl | rfl <;> simp [typeOk, *]

/-- A link in service with nothing of its own unacknowledged, whose slots up to `slot` are still to come in the frame that arrives. -/
structure Link.Awaits (x : Link) (slot : Nat) : Prop where
  service : InService x
  sent    : x.sent = []
  goback  : x.goback = []
  order   : x.rxNext ≤ slot

section
variable {l slot fn : Nat} {flit f : List Byte} {signal : Option (Nat × BitVec 32)} {s : State} {x : Link} {ps : List Part} {as : Nat → Prop}

theorem flitReceive_unsequenced (h : slot ∉ sequenced) : flitReceive s l slot flit signal = s := if_pos (Or.inr (by simpa using h))

theorem LinkStep.atSlot {t : State} {y : Link} (h : LinkStep ps as l s t y) (hp : .link ∈ ps) (ho : y.rxNext ≤ slot) :
    LinkStep ps as l s (t.modLink l fun x => x.atSlot slot) { y with rxNext := slot + 1 } := h.modLink hp (Link.atSlot_next ho)

/-! ### A flit that cannot be decoded -/

/-- It is counted, and its position is missing (R330, R340). -/
theorem flitReceive_undecoded (hx : s.getLink l = x) (ha : x.Awaits slot) (hs : slot ∈ sequenced) (hd : slotDecode slot flit = none)
    (hb : x.badRun + 1 < 8) {y : Link} (hy : { x with rxNext := slot + 1 }.spoil slot = y) (hyb : y.badRun = x.badRun) :
    LinkStep [.link, .csr] (· ∈ [RegName.lnkCe.addr [l]]) l s (flitReceive s l slot flit signal) { y with badRun := x.badRun + 1 }
    ∧ (flitReceive s l slot flit signal).fld .lnkCe [l] 32 32 = satN 32 (s.fld .lnkCe [l] 32 32 + 1) := by
  have hfr : (s.getLink l).framed = true := hx ▸ Link.framed_of_inService ha.service
  have arrived := (LinkStep.refl (ps := [.link, .csr]) (as := (· ∈ [RegName.lnkCe.addr [l]])) hx).atSlot (by decide) ha.order
  have spoilt := arrived.modLink (by decide) (f := fun x => x.spoil slot) hy
  have counted := spoilt.countBad (by decide) (by decide) (List.mem_singleton.2 rfl) (hyb ▸ hb)
  unfold flitReceive
  dsimp only
  rw [if_neg (by simp [hfr, hs]), hd, ← hyb]
  exact ⟨counted, fld_countBad (spoilt.link ▸ hyb ▸ hb)⟩

/-! ### A flit that is decoded -/

/-- A flit's header heard: its frame arrives, and its ACK is taken (R325, R327). -/
def flitHeard (s : State) (l slot : Nat) (f : List Byte) : State :=
  linkAck ((s.modLink l fun x => x.atSlot slot).modLink l fun x => { x with badRun := 0 }.inFrame (fieldN (leAt f 0 4) 0 12)) l
    (fieldN (leAt f 0 4) 12 12)

/-- What the link's record is when a header of the frame being received has been heard. -/
def Link.heard (x : Link) (slot fn : Nat) : Link := { x with badRun := 0, rxCur := fn, rxNext := slot + 1 }

theorem flitHeard_step (hx : s.getLink l = x) (ha : x.Awaits slot) (hf : fn = fieldN (leAt f 0 4) 0 12) (hfn : fn = x.rxFn) :
    LinkStep [.link] as l s (flitHeard s l slot f) (x.heard slot fn) := by
  subst hf
  have arrived := (LinkStep.refl (ps := [.link]) (as := as) hx).atSlot (List.mem_singleton.2 rfl) ha.order
  have framed := arrived.modLink (List.mem_singleton.2 rfl) (f := fun x => { x with badRun := 0 }.inFrame (fieldN (leAt f 0 4) 0 12))
    (Link.inFrame_same (x := { x with badRun := 0, rxNext := slot + 1 }) hfn)
  exact framed.linkAck (List.mem_singleton.2 rfl) ha.sent ha.goback _

theorem flitReceive_decoded (ha : (s.getLink l).Awaits slot) (hs : slot ∈ sequenced) (hd : slotDecode slot flit = some (f, 0)) :
    flitReceive s l slot flit signal = if ((flitHeard s l slot f).getLink l).has (fieldN (leAt f 0 4) 0 12) slot then flitHeard s l slot f
      else takeFlitAt (flitHeard s l slot f) l slot (fieldN (leAt f 0 4) 0 12) (leAt f 0 4) (fieldN (leAt f 0 4) 26 3) (slice f 4 32) signal := by
  have hfr : (s.getLink l).framed = true := Link.framed_of_inService ha.service
  unfold flitReceive
  dsimp only
  rw [if_neg (by simp [hfr, hs]), hd]
  dsimp only
  rw [countCe_zero]
  rfl

/-- A position of the frame being received comes again: nothing but its header is taken. -/
theorem flitReceive_again (hx : s.getLink l = x) (ha : x.Awaits slot) (hs : slot ∈ sequenced) (hd : slotDecode slot flit = some (f, 0))
    (hf : fn = fieldN (leAt f 0 4) 0 12) (hfn : fn = x.rxFn) (hm : x.missing = []) (hseen : slot ∈ x.rxSeen) :
    LinkStep [.link] as l s (flitReceive s l slot flit signal) (x.heard slot fn) := by
  have heard := flitHeard_step (as := as) hx ha hf hfn
  have hh : (x.heard slot fn).has fn slot = true := (Link.has_current hm hfn).2 hseen
  rw [flitReceive_decoded (hx ▸ ha) hs hd, heard.link, ← hf, if_pos hh]
  exact heard

/-- It comes for the first time: the flit takes it. -/
theorem flitReceive_first (hx : s.getLink l = x) (ha : x.Awaits slot) (hs : slot ∈ sequenced) (hd : slotDecode slot flit = some (f, 0))
    (hf : fn = fieldN (leAt f 0 4) 0 12) (hfn : fn = x.rxFn) (hm : x.missing = []) (hseen : slot ∉ x.rxSeen) :
    flitReceive s l slot flit signal
      = takeFlitAt (flitHeard s l slot f) l slot fn (leAt f 0 4) (fieldN (leAt f 0 4) 26 3) (slice f 4 32) signal := by
  have heard := flitHeard_step (as := fun _ => False) hx ha hf hfn
  have hn : ¬(x.heard slot fn).has fn slot = true := fun h => hseen ((Link.has_current hm hfn).1 h)
  rw [flitReceive_decoded (hx ▸ ha) hs hd, heard.link, ← hf, if_neg hn]

/-! ### A replay -/

/-- A replay's header heard. -/
def replayHeard (s : State) (l : Nat) (f : List Byte) : State := linkAck (s.modLink l fun x => { x with badRun := 0 }) l (fieldN (leAt f 0 4) 12 12)

theorem replayHeard_step (hx : s.getLink l = x) (hsent : x.sent = []) (hback : x.goback = []) :
    LinkStep [.link] as l s (replayHeard s l f) { x with badRun := 0 } :=
  ((LinkStep.refl hx).modLink (List.mem_singleton.2 rfl) rfl).linkAck (List.mem_singleton.2 rfl) hsent hback _

theorem replayReceive_decoded (hfr : (s.getLink l).framed = true) (hs : slot < 56) (hd : slotDecode 56 flit = some (f, 0)) :
    replayReceive s l slot flit signal = if ((replayHeard s l f).getLink l).missing.contains (fieldN (leAt f 0 4) 0 12, slot)
      then takeFlitAt (replayHeard s l f) l slot (fieldN (leAt f 0 4) 0 12) (leAt f 0 4)
        (originalType (fieldN (leAt f 0 4) 24 2) (fieldN (leAt f 0 4) 26 3)) (slice f 4 32) signal
      else replayHeard s l f := by
  unfold replayReceive
  rw [if_neg (by simp [hfr]; omega), hd]
  dsimp only
  rw [countCe_zero]
  rfl

theorem replayReceive_duplicate (hx : s.getLink l = x) (hv : InService x) (hsent : x.sent = []) (hback : x.goback = []) (hs : slot < 56)
    (hd : slotDecode 56 flit = some (f, 0)) (hf : fn = fieldN (leAt f 0 4) 0 12) (hm : (fn, slot) ∉ x.missing) :
    LinkStep [.link] as l s (replayReceive s l slot flit signal) { x with badRun := 0 } := by
  have heard := replayHeard_step (as := as) (f := f) hx hsent hback
  rw [replayReceive_decoded (hx ▸ Link.framed_of_inService hv) hs hd, heard.link, ← hf, if_neg (by simpa using hm)]
  exact heard

theorem replayReceive_missing (hx : s.getLink l = x) (hv : InService x) (hsent : x.sent = []) (hback : x.goback = []) (hs : slot < 56)
    (hd : slotDecode 56 flit = some (f, 0)) (hf : fn = fieldN (leAt f 0 4) 0 12) (hm : x.missing = [(fn, slot)]) :
    replayReceive s l slot flit signal = takeFlitAt (replayHeard s l f) l slot fn (leAt f 0 4)
      (originalType (fieldN (leAt f 0 4) 24 2) (fieldN (leAt f 0 4) 26 3)) (slice f 4 32) signal := by
  have heard := replayHeard_step (as := fun _ => False) (f := f) hx hsent hback
  rw [replayReceive_decoded (hx ▸ Link.framed_of_inService hv) hs hd, heard.link, ← hf, if_pos (by simp [hm])]

end

end Sys2Proof.Machine
end

section
/-! The reception of flits by slot: what O34 says of data, of packets and of replays. -/

namespace Sys2Proof.Machine

open Sys2Proof.Safety

/-! ### A link's record once a flit has entered -/

section
variable {x : Link} {slot : Nat} {w : RxWait}

theorem Link.enter_entry : KMap.get { slot := 64 } (x.enter slot w).buf (64 * KMap.get 0 x.rxFrames slot + slot)
    = { payload := w.payload, signal := w.signal, slot := slot, at_ := w.at_, tick := w.tick } := KMap.get_set_self _ _ _ _

theorem Link.enter_kept : Kept { slot := 64 } [64 * KMap.get 0 x.rxFrames slot + slot] x.buf (x.enter slot w).buf := KMap.kept_set _ _ _ _

theorem Link.enter_rxFrames : KMap.get 0 (x.enter slot w).rxFrames slot = KMap.get 0 x.rxFrames slot + 1 := KMap.get_set_self _ _ _ _

theorem Link.enterVc_rxq {vc : Nat} {f : RxFlit} : KMap.get [] (x.enterVc vc f).rxq vc = KMap.get [] x.rxq vc ++ [f.flit] := KMap.get_set_self _ _ _ _

theorem Link.enterVc_kept {vc : Nat} {f : RxFlit} : Kept [] [vc] x.rxq (x.enterVc vc f).rxq := KMap.kept_set _ _ _ _

end

/-! ### Flits that come for the first time -/

/-- The record of a link whose header has been heard, with the slot's position held from now on. -/
def Link.held (x : Link) (slot fn : Nat) : Link := { x.heard slot fn with rxSeen := slot :: x.rxSeen }

section
variable {as : Nat → Prop} {l slot fn : Nat} {flit f : List Byte} {s : State} {x : Link}
variable (hx : s.getLink l = x) (ha : x.Awaits slot) (hq : slot ∈ sequenced) (hd : slotDecode slot flit = some (f, 0))
  (hf : fn = fieldN (leAt f 0 4) 0 12) (hfn : fn = x.rxFn) (hm : x.missing = []) (hh : x.rxHeld = []) (hs : slot ∉ x.rxSeen)
  (hw : KMap.get [] x.rxWait slot = [])
include hx ha hq hd hf hfn hm hh hs hw

theorem flitReceive_data (ht : fieldN (leAt f 0 4) 26 3 = 1) {k : Nat} (hk : s.vc0Ctx l slot = some k) :
    LinkStep [.link] as l s (flitReceive s l slot flit none) ((x.held slot fn).enter slot (s.dataWait k fn (slice f 4 32))) := by
  rw [flitReceive_first hx ha hq hd hf hfn hm hs, ht]
  refine (flitHeard_step hx ha hf hfn).takeFlitAt_data (Link.take_new hm hfn hs) ?_ hm hh hw hk
  rw [hx]
  exact ⟨rfl, rfl, rfl⟩

theorem flitReceive_dropped (ht : fieldN (leAt f 0 4) 26 3 = 1) (hk : s.vc0Ctx l slot = none) :
    LinkStep [.link, .csr] (· ∈ [RegName.netDrop1.addr []]) l s (flitReceive s l slot flit none) (x.held slot fn)
    ∧ (flitReceive s l slot flit none).fld .netDrop1 [] 32 32 = satN 32 (s.fld .netDrop1 [] 32 32 + 1) := by
  rw [flitReceive_first hx ha hq hd hf hfn hm hs, ht]
  refine (flitHeard_step hx ha hf hfn).takeFlitAt_dropped (Link.take_new hm hfn hs) ?_ hh hw hk
  rw [hx]
  exact ⟨rfl, rfl, rfl⟩

theorem flitReceive_packet (ht : fieldN (leAt f 0 4) 26 3 = 3 ∨ fieldN (leAt f 0 4) 26 3 = 4) (hvc : fieldN (leAt f 0 4) 24 2 ≠ 0) :
    LinkStep [.link] as l s (flitReceive s l slot flit none) ((x.held slot fn).enterVc (fieldN (leAt f 0 4) 24 2)
      (packetFlit l slot fn (leAt f 0 4) (fieldN (leAt f 0 4) 26 3) (slice f 4 32))) := by
  rw [flitReceive_first hx ha hq hd hf hfn hm hs]
  exact (flitHeard_step hx ha hf hfn).takeFlitAt_packet (Link.take_new hm hfn hs) hm hh hw ht hvc

end

/-! ### A replay that fills the missing position -/

/-- The record of a link whose one missing position a replay has filled. -/
def Link.filled (x : Link) (slot fn : Nat) : Link :=
  { x with badRun := 0, missing := [], rxSeen := if fn = x.rxFn ∧ slot ∉ x.rxSeen then slot :: x.rxSeen else x.rxSeen }

theorem replayReceive_data {as : Nat → Prop} {l slot fn k : Nat} {flit f : List Byte} {s : State} {x : Link} (hx : s.getLink l = x)
    (hv : InService x) (hsent : x.sent = []) (hback : x.goback = []) (hs : slot < 56) (hd : slotDecode 56 flit = some (f, 0))
    (hf : fn = fieldN (leAt f 0 4) 0 12) (ht : fieldN (leAt f 0 4) 26 3 = 6) (hvc : fieldN (leAt f 0 4) 24 2 = 0) (hm : x.missing = [(fn, slot)])
    (hh : x.rxHeld = []) (hw : KMap.get [] x.rxWait slot = []) (hk : s.vc0Ctx l slot = some k) :
    LinkStep [.link] as l s (replayReceive s l slot flit none) ((x.filled slot fn).enter slot (s.dataWait k fn (slice f 4 32))) := by
  rw [replayReceive_missing hx hv hsent hback hs hd hf hm, ht, hvc]
  refine (replayHeard_step hx hsent hback).takeFlitAt_data (Link.take_missing hm) ?_ rfl hh hw hk
  rw [hx]
  exact ⟨rfl, rfl, rfl⟩

/-! ### The claim -/

theorem flitReception : Claims.FlitReception := by
  intro l slot flit f fn x s hx hv hsent hback hheld hnext
  have ha : x.Awaits slot.val := ⟨hv, hsent, hback, hnext⟩
  refine ⟨fun h56 h60 => ?replaySlot, fun hs hd hb => ?undecoded, fun hs hd hf ht hfn hm => ⟨fun hn hw k hk => ?taken, fun hn hw hk => ?dropped,
    fun hn => ?again⟩, fun vc type hs hd hf hvc htype h0 ht hfn hm hn hw => ?packet, fun hs hd hf ht hvc => ⟨fun hm hw k hk => ?filled,
    fun hm => ?duplicate⟩⟩
  case replaySlot =>
    have hn : slot.val ∉ sequenced := fun h => by have := mem_sequenced.1 h; omega
    rw [exec_vc0FlitReceive, flitReceive_unsequenced hn]
  case undecoded =>
    have hq : slot.val ∈ sequenced := mem_sequenced.2 (by omega)
    by_cases hnew : x.rxCur = x.rxFn ∧ slot.val ∉ x.rxSeen
    · obtain ⟨step, count⟩ := flitReceive_undecoded (signal := none) hx.symm ha hq hd hb
        (Link.spoil_new (x := { x with rxNext := slot.val + 1 }) hnew) rfl
      exact step.frame.completes (exec_vc0FlitReceive ..) ⟨count, step.frame.regsKept, fun _ => step.set, fun h => absurd hnew h⟩
    · obtain ⟨step, count⟩ := flitReceive_undecoded (signal := none) hx.symm ha hq hd hb
        (Link.spoil_held (x := { x with rxNext := slot.val + 1 }) hnew) rfl
      exact step.frame.completes (exec_vc0FlitReceive ..) ⟨count, step.frame.regsKept, fun h => absurd h hnew, fun _ => step.set⟩
  case taken =>
    have hq := mem_sequenced.2 (Or.inl hs)
    have step := flitReceive_data (as := (· ∈ [])) hx.symm ha hq (slotDecode_allowed hd (by simp [typeOk, hs, ht])) hf hfn hm hheld hn hw ht hk
    refine step.frame.completes (exec_vc0FlitReceive ..) ?_
    rw [LinkSet, step.link]
    exact ⟨Link.enter_entry, Link.enter_kept, Link.enter_rxFrames, rfl, rfl, step.others⟩
  case dropped =>
    have hq := mem_sequenced.2 (Or.inl hs)
    obtain ⟨step, count⟩ := flitReceive_dropped hx.symm ha hq (slotDecode_allowed hd (by simp [typeOk, hs, ht])) hf hfn hm hheld hn hw ht hk
    exact step.frame.completes (exec_vc0FlitReceive ..) ⟨count, step.frame.regsKept, step.set⟩
  case again =>
    have hq := mem_sequenced.2 (Or.inl hs)
    have step := flitReceive_again (as := (· ∈ [])) (signal := none) hx.symm ha hq (slotDecode_allowed hd (by simp [typeOk, hs, ht])) hf hfn hm hn
    exact step.frame.completes (exec_vc0FlitReceive ..) step.set
  case packet =>
    subst hvc htype
    have hq : slot.val ∈ sequenced := mem_sequenced.2 (by omega)
    have step := flitReceive_packet (as := (· ∈ [])) hx.symm ha hq (slotDecode_allowed hd (typeOk_packet hq ht)) hf hfn hm hheld hn hw ht h0
    refine step.frame.completes (exec_vc0FlitReceive ..) ?_
    rw [LinkSet, step.link]
    exact ⟨Link.enterVc_rxq, Link.enterVc_kept, rfl, step.others⟩
  case filled =>
    have step := replayReceive_data (as := (· ∈ [])) hx.symm hv hsent hback hs (slotDecode_allowed hd (by rw [ht]; decide)) hf ht
      hvc hm hheld hw hk
    refine step.frame.completes (exec_replayFlitReceive l hs flit s) ?_
    rw [LinkSet, step.link]
    exact ⟨Link.enter_entry, rfl, rfl, step.others⟩
  case duplicate =>
    have step := replayReceive_duplicate (as := (· ∈ [])) (signal := none) hx.symm hv hsent hback hs
      (slotDecode_allowed hd (by rw [ht]; decide)) hf hm
    exact step.frame.completes (exec_replayFlitReceive l hs flit s) step.set

end Sys2Proof.Machine
end

section
/-! The CONTROL flit (R53, R54, R327, R328, R336, R344): what it says of the neighbour, and the time exchange that it completes. -/

namespace Sys2Proof.Machine

open Sys2Proof.Safety

theorem exec_linkControlFlit (l : LinkIx) (flit : List Byte) (arrival : Nat) (s : State) :
    exec (.linkControlFlit l flit arrival) s = .next (controlFlit s l.val flit arrival) := rfl

/-! ### Fields and two's complement -/

/-- A field of a field. -/
theorem fieldN_fieldN {x lo n a k : Nat} (h : a + k ≤ n) : fieldN (fieldN x lo n) a k = fieldN x (lo + a) k := by
  refine Nat.eq_of_testBit_eq fun i => ?_
  simp only [fieldN_testBit, Nat.add_assoc]
  by_cases hi : i < k
  · simp [hi, show a + i < n by omega]
  · simp [hi]

/-- A difference of 48 bits read in two's complement: congruent, and at most half the range away. -/
theorem signedOf_unsignedOf (d : Int) : signedOf 48 (unsignedOf 48 d) % (2 ^ 48 : Nat) = d % (2 ^ 48 : Nat)
    ∧ (signedOf 48 (unsignedOf 48 d)).natAbs ≤ 2 ^ 47 := by
  rw [signedOf, unsignedOf]
  by_cases h : (d % (2 ^ 48 : Nat)).toNat % 2 ^ 48 < 2 ^ (48 - 1)
  · rw [if_pos h]; omega
  · rw [if_neg h]; omega

theorem unsignedOf_lt (n : Nat) (d : Int) : unsignedOf n d < 2 ^ n := by
  have hp : (0 : Int) < (2 ^ n : Nat) := by exact_mod_cast Nat.two_pow_pos n
  have h := Int.emod_lt_of_pos d hp
  rw [unsignedOf]
  omega

/-! ### The stamp -/

/-- A stamp of a neighbour that has started: the number of 48 bits that is nearest to the stamp before it (R53). -/
theorem Stamp.hear_started (t : Stamp) {stamp : Nat} (h : fieldN stamp 48 1 = 1) :
    (t.hear stamp).value % (2 ^ 48 : Nat) = (stamp % 2 ^ 48 : Nat) ∧ ((t.hear stamp).value - t.value).natAbs ≤ 2 ^ 47 := by
  have hv : (t.hear stamp).value = t.value + signedOf 48 (unsignedOf 48 ((stamp % 2 ^ 48 : Nat) - t.value)) := if_neg (by omega)
  obtain ⟨hmod, habs⟩ := signedOf_unsignedOf ((stamp % 2 ^ 48 : Nat) - t.value)
  rw [hv]
  generalize signedOf 48 (unsignedOf 48 ((stamp % 2 ^ 48 : Nat) - t.value)) = e at hmod habs
  omega

section
variable {s t : State} {l k stamp part gen : Nat}

/-- The stamps are taken by what the contexts are. -/
theorem takeStamp_ctx_congr (h : t.ctx = s.ctx) : (takeStamp t l stamp part gen).ctx = (takeStamp s l stamp part gen).ctx := by
  rw [takeStamp, takeStamp, State.linkHolder_congr h]
  cases s.linkHolder l with
  | none => exact h
  | some k =>
    dsimp only
    rw [State.getCtx_eq h]
    split
    · simp only [State.modPlan, State.modCtx, State.setCtx, State.getCtx_eq h, h]
    · exact h

theorem takeStamp_kept (hk : s.linkHolder l = some k) : Kept {} [k] s.ctx (takeStamp s l stamp part gen).ctx := by
  by_cases ht : (s.getCtx k).part.tagged part gen
  · rw [takeStamp_held stamp hk ht]
    exact KMap.kept_set _ _ _ _
  · rw [takeStamp_other stamp hk ht]
    exact fun _ _ => rfl

theorem takeStamp_link : (takeStamp s l stamp part gen).link = s.link := by
  unfold takeStamp
  split
  · rfl
  · dsimp only; split <;> rfl

theorem takeStamp_frame {ps : List Part} {as : Nat → Prop} {s0 : State} (h : Frame ps as s0 s) (hp : .ctx ∈ ps) :
    Frame ps as s0 (takeStamp s l stamp part gen) := by
  unfold takeStamp
  split
  · exact h
  · dsimp only
    split
    · exact State.modPlan_frame h hp
    · exact h

end

end Sys2Proof.Machine
end

section
/-! The CONTROL flit: the frame it shows and what it tells of the neighbour. -/

namespace Sys2Proof.Machine

open Sys2Proof.Safety

/-! ### The link's record after a CONTROL flit -/

section
variable {x : Link} {fn p : Nat}

/-- What the payload of a CONTROL flit tells of the neighbour's context and credits (R328, R336). -/
def Link.told (x : Link) (p : Nat) : Link :=
  { x with
    badRun := 0, farPart := fieldN p 64 16, farGen := fieldN p 80 8,
    credited := KMap.set 0 (KMap.set 0 (KMap.set 0 x.credited 1 (fieldN p 88 14)) 2 (fieldN p 102 14)) 3 (fieldN p 116 14) }

theorem Link.told_credited {vc : Nat} (h1 : 1 ≤ vc) (h3 : vc ≤ 3) : KMap.get 0 (x.told p).credited vc = fieldN p (74 + 14 * vc) 14 := by
  have hv : vc = 1 ∨ vc = 2 ∨ vc = 3 := by omega
  rcases hv with rfl | rfl | rfl <;> simp [Link.told, KMap.get_set]

/-- A later frame begins: what has not come of the frames before it is missing (R327, R330). -/
theorem Link.inFrame_later (h : fnGe fn x.rxFn = true ∧ fn ≠ x.rxFn) :
    x.inFrame fn = { x with rxCur := fn, missing := x.missing ++ { x with rxCur := fn }.unseen fn, rxFn := fn, rxSeen := [] } := if_pos h

/-- No later frame begins. -/
theorem Link.inFrame_stays (h : ¬(fnGe fn x.rxFn = true ∧ fn ≠ x.rxFn)) : x.inFrame fn = { x with rxCur := fn } := if_neg h

/-- What the frame that arrives changes: the record of what has been received. -/
theorem Link.inFrame_eq (x : Link) (fn : Nat) : x.inFrame fn
    = { x with rxCur := fn, missing := (x.inFrame fn).missing, rxFn := (x.inFrame fn).rxFn, rxSeen := (x.inFrame fn).rxSeen } := by
  by_cases h : fnGe fn x.rxFn = true ∧ fn ≠ x.rxFn
  · rw [Link.inFrame_later h]
  · rw [Link.inFrame_stays h]

theorem Link.inFrame_rxFn (h : fnGe fn x.rxFn = true) : (x.inFrame fn).rxFn = fn := by
  by_cases hn : fn = x.rxFn
  · rw [Link.inFrame_same hn]; exact hn.symm
  · rw [Link.inFrame_later ⟨h, hn⟩]

/-- The sequenced positions of the frame being received that have not come are not seen (R327). -/
theorem Link.mem_unseen {k : Nat} (hk : k ∈ sequenced) (hs : k ∉ x.rxSeen) : (x.rxFn, k) ∈ x.unseen fn :=
  List.mem_append_left _ (List.mem_map.2 ⟨k, List.mem_filter.2 ⟨hk, by simpa using hs⟩, rfl⟩)

end

/-! ### The CONTROL flit heard -/

/-- A CONTROL flit without NAK and REQ, up to its SUB field. -/
def controlHeard (s : State) (l fn ack p : Nat) : State :=
  (takeStamp (linkAck (s.modLink l fun x => x.atSlot 62) l ack) l (fieldN p 0 64) (fieldN p 64 16) (fieldN p 80 8)).modLink l
    fun x => (x.told p).inFrame fn

/-- What the link's record is then. -/
def Link.shown (x : Link) (fn p : Nat) : Link := ({ x with rxNext := 63 }.told p).inFrame fn

section
variable {s : State} {x : Link} {l fn p : Nat} {flit f : List Byte} {arrival : Nat} {as : Nat → Prop}

theorem Link.shown_rxFn (h : fnGe fn x.rxFn = true) : (x.shown fn p).rxFn = fn := Link.inFrame_rxFn h

/-- A later frame than any before it: what has not come of the last one is missing. -/
theorem Link.shown_later (hn : fn ≠ x.rxFn) (h : fnGe fn x.rxFn = true) :
    (x.shown fn p).rxSeen = [] ∧ ∀ k ∈ sequenced, k ∉ x.rxSeen → (x.rxFn, k) ∈ (x.shown fn p).missing := by
  have later := Link.inFrame_later (x := { x with rxNext := 63 }.told p) ⟨h, hn⟩
  rw [Link.shown, later]
  exact ⟨rfl, fun k hk hs => List.mem_append_right _ (Link.mem_unseen (x := { { x with rxNext := 63 }.told p with rxCur := fn }) hk hs)⟩

/-- The frame being received, or an earlier one. -/
theorem Link.shown_stays (h : fn = x.rxFn ∨ fnGe fn x.rxFn = false) :
    (x.shown fn p).rxFn = x.rxFn ∧ (x.shown fn p).rxSeen = x.rxSeen ∧ (x.shown fn p).missing = x.missing := by
  have hn : ¬(fnGe fn x.rxFn = true ∧ fn ≠ x.rxFn) := by rcases h with h | h <;> simp [h]
  have stays := Link.inFrame_stays (x := { x with rxNext := 63 }.told p) hn
  rw [Link.shown, stays]
  exact ⟨rfl, rfl, rfl⟩

/-- What the frame that arrives leaves of what the flit has told, and what the flit does not touch. -/
theorem Link.shown_told (x : Link) (fn p : Nat) :
    (∀ vc, 1 ≤ vc → vc ≤ 3 → KMap.get 0 (x.shown fn p).credited vc = fieldN p (74 + 14 * vc) 14)
    ∧ (x.shown fn p).farPart = fieldN p 64 16 ∧ (x.shown fn p).farGen = fieldN p 80 8 ∧ (x.shown fn p).badRun = 0
    ∧ (x.shown fn p).buf = x.buf ∧ (x.shown fn p).state = x.state := by
  rw [Link.shown, Link.inFrame_eq]
  exact ⟨fun vc h1 h3 => Link.told_credited h1 h3, rfl, rfl, rfl, rfl, rfl⟩

theorem controlHeard_step (hx : s.getLink l = x) (ha : x.Awaits 62) (ack : Nat) :
    LinkStep [.link, .ctx] as l s (controlHeard s l fn ack p) (x.shown fn p) := by
  have acked := ((LinkStep.refl (ps := [.link, .ctx]) (as := as) hx).atSlot (by decide) ha.order).linkAck (by decide) ha.sent ha.goback ack
  exact (acked.beside (takeStamp_frame acked.frame (by decide)) takeStamp_link).modLink (by decide) rfl

/-- The contexts then: the stamp has been taken. -/
theorem controlHeard_ctx (hx : s.getLink l = x) (ha : x.Awaits 62) (ack : Nat) :
    (controlHeard s l fn ack p).ctx = (takeStamp s l (fieldN p 0 64) (fieldN p 64 16) (fieldN p 80 8)).ctx := by
  have acked := ((LinkStep.refl (ps := [.link]) (as := fun _ => False) hx).atSlot (by decide) ha.order).linkAck (by decide) ha.sent ha.goback ack
  exact takeStamp_ctx_congr (acked.frame.same .ctx (by decide))

theorem controlReceive_quiet (ack : Nat) (hn : fieldN p 142 3 = 0) (hq : fieldN p 193 2 = 0) :
    controlReceive (s.modLink l fun x => x.atSlot 62) l fn ack p arrival = takeSub (controlHeard s l fn ack p) l fn (fieldN p 195 61) arrival := by
  unfold controlReceive
  rw [hn, hq]
  rfl

theorem controlFlit_decoded (hx : s.getLink l = x) (ha : x.Awaits 62) (hd : slotDecode 62 flit = some (f, 0)) (hf : fn = fieldN (leAt f 0 4) 0 12)
    (hp : p = leAt f 4 32) (hn : fieldN p 142 3 = 0) (hq : fieldN p 193 2 = 0) :
    controlFlit s l flit arrival = takeSub (controlHeard s l fn (fieldN (leAt f 0 4) 12 12) p) l fn (fieldN p 195 61) arrival := by
  have hfr : (s.getLink l).framed = true := hx ▸ Link.framed_of_inService ha.service
  subst hf hp
  rw [← controlReceive_quiet _ hn hq]
  unfold controlFlit
  rw [if_neg (by simp [hfr])]
  dsimp only
  rw [hd]
  dsimp only
  rw [countCe_zero]

/-- One that cannot be decoded is counted. -/
theorem controlFlit_undecoded (hx : s.getLink l = x) (ha : x.Awaits 62) (hd : slotDecode 62 flit = none) (hb : x.badRun + 1 < 8) :
    LinkStep [.link, .csr] (· ∈ [RegName.lnkCe.addr [l]]) l s (controlFlit s l flit arrival) { x with rxNext := 63, badRun := x.badRun + 1 }
    ∧ (controlFlit s l flit arrival).fld .lnkCe [l] 32 32 = satN 32 (s.fld .lnkCe [l] 32 32 + 1) := by
  have hfr : (s.getLink l).framed = true := hx ▸ Link.framed_of_inService ha.service
  have arrived := (LinkStep.refl (ps := [.link, .csr]) (as := (· ∈ [RegName.lnkCe.addr [l]])) hx).atSlot (by decide) ha.order
  unfold controlFlit
  rw [if_neg (by simp [hfr])]
  dsimp only
  rw [hd]
  exact ⟨arrived.countBad (by decide) (by decide) (List.mem_singleton.2 rfl) hb, fld_countBad (arrived.link ▸ hb)⟩

end

end Sys2Proof.Machine
end

section
/-! The time exchange that a CONTROL flit completes (R45, R47, R344), and the stamp that it brings (R53). -/

namespace Sys2Proof.Machine

open Sys2Proof.Safety

/-! ### The neighbour's lanes and the stamp -/

section
variable {s : State} {l fn sub arrival : Nat}

/-- SUB of a frame with FN mod 4 = 2 tells of lanes: the one that the far end asks for, and the one that it has moved (R328, R337). -/
theorem takeSub_lanes (h : fn % 4 = 2) : ∃ (req : Link → Option (Nat × Nat)) (sat : Link → Option (Nat × Nat × Nat)),
    takeSub s l fn sub arrival = s.modLink l fun x => { x with farReq := req x, farSat := sat x } := by
  unfold takeSub
  rw [h]
  exact ⟨_, _, rfl⟩

theorem takeSub_exchange (h : fn % 4 = 1) : takeSub s l fn sub arrival = exchange s l fn (fieldN sub 0 12) (fieldN sub 12 24) := by
  unfold takeSub
  rw [h]
  rfl

end

section
variable {s t : State} {l k p : Nat}

/-- What the tagged stamp of a CONTROL flit does to the context that holds the link (R53, R54). -/
theorem takeStamp_tagged (hk : s.linkHolder l = some k) (ht : (s.getCtx k).part.tagged (fieldN p 64 16) (fieldN p 80 8))
    (hc : t.ctx = (takeStamp s l (fieldN p 0 64) (fieldN p 64 16) (fieldN p 80 8)).ctx) :
    KMap.get {} (t.getCtx k).plan.stamps l = (KMap.get {} (s.getCtx k).plan.stamps l).hear (fieldN p 0 64)
    ∧ Kept {} [l] (s.getCtx k).plan.stamps (t.getCtx k).plan.stamps
    ∧ t.getCtx k = { s.getCtx k with plan := { (s.getCtx k).plan with stamps := (t.getCtx k).plan.stamps } } := by
  rw [State.getCtx_congr hc, takeStamp_held _ hk ht, State.getCtx_modPlan_self]
  exact ⟨KMap.get_set_self _ _ _ _, KMap.kept_set _ _ _ _, rfl⟩

end

/-! ### The time exchange -/

/-- The round trip of an exchange in 1/16 ticks (R344). -/
def rttOf (t1 t4 turn : Nat) : Nat := (signedOf 48 (unsignedOf 48 ((t4 : Int) - t1)) - turn).toNat

/-- The parent's offset in ps that an exchange measures (R344). -/
def State.offsetOf (s : State) (l t1 t3 t4 turn : Nat) : Int :=
  50 * signedOf 48 (unsignedOf 48 ((t3 : Int) - t4)) + 25 * rttOf t1 t4 turn + s.effAsym l

/-- The offset shown in TIM_OFFSET. -/
def State.showOffset (s : State) (off : Int) : State := s.setFld .timOffset [] 0 32 (unsignedOf 32 (clampI (-2147483648) 2147483647 off))

theorem State.effAsym_congr {s t : State} (hf : t.fuses = s.fuses) (hc : t.csr = s.csr) (l : Nat) : t.effAsym l = s.effAsym l := by
  rw [State.effAsym, hf, State.fld_congr hc, State.effAsym]

section
variable {s : State} {off : Int}

theorem timeTake_unsynced (h : s.time.sync = .unsynced) : timeTake s off = { s.showOffset off with
    time := { s.time with mt := s.time.mt + BitVec.ofInt 64 (rneDiv off 800), sync := .locked, everLock := true, slew := 0 } } := by
  have hs : (s.showOffset off).time.sync = .unsynced := h
  rw [State.showOffset] at hs
  rw [timeTake, hs]
  rfl

theorem timeTake_locked (h : s.time.sync = .locked) (hlo : -51200 ≤ off) (hhi : off ≤ 51200) :
    timeTake s off = { s.showOffset off with time := { s.time with slew := rneDiv off 800 } } := by
  have hs : (s.showOffset off).time.sync = .locked := h
  rw [State.showOffset] at hs
  rw [timeTake, hs]
  dsimp only
  rw [if_neg (by omega)]
  rfl

theorem fld_showOffset : (s.showOffset off).fld .timOffset [] 0 32 = unsignedOf 32 (clampI (-2147483648) 2147483647 off) := by
  rw [State.showOffset, State.fld_setFld_self _ _ _ _ _ _ (by decide), Nat.mod_eq_of_lt (unsignedOf_lt 32 _)]

end

section
variable {s : State} {l fn echoFn turn f0 t3 t4 : Nat} {e : Nat × Nat}

/-- The exchange that the parent's link completes is taken (R45, R344). -/
theorem exchange_taken (hfar : (s.getLink l).far0 = some (f0, t4, t3)) (hf : (f0 + 1) % 4096 = fn)
    (he : ((s.getLink l).txTimes.find? fun e => e.1 == echoFn) = some e) (hp : s.time.parent = some l) : ∃ r : Link → List Nat,
    exchange s l fn echoFn turn = timeTake (s.modLink l fun x => { x with rtts := r x }) (s.offsetOf l e.2 t3 t4 turn) := by
  unfold exchange
  dsimp only
  rw [hfar, he]
  dsimp only
  rw [if_pos hf]
  exact ⟨_, if_pos hp⟩

end

section
variable {s : State} {x : Link} {l fn p f0 t3 t4 : Nat} {flit f : List Byte} {arrival : Nat} {e : Nat × Nat}

/-- A CONTROL flit that completes an exchange with the parent: what it is taken by, over a state in which machine time is still untouched. -/
theorem controlFlit_exchange (hx : s.getLink l = x) (ha : x.Awaits 62) (hd : slotDecode 62 flit = some (f, 0)) (hf : fn = fieldN (leAt f 0 4) 0 12)
    (hp : p = leAt f 4 32) (hn : fieldN p 142 3 = 0) (hq : fieldN p 193 2 = 0) (h1 : fn % 4 = 1) (hfar : x.far0 = some (f0, t4, t3))
    (hf0 : (f0 + 1) % 4096 = fn) (he : (x.txTimes.find? fun e => e.1 == fieldN p 195 12) = some e) (hpar : s.time.parent = some l) :
    ∃ u, controlFlit s l flit arrival = timeTake u (s.offsetOf l e.2 t3 t4 (fieldN p 207 24))
      ∧ Frame [.link, .ctx, .csr, .time] (· ∈ [RegName.timOffset.addr []]) s u ∧ u.time = s.time := by
  have heard := controlHeard_step (fn := fn) (p := p) (as := (· ∈ [RegName.timOffset.addr []])) hx ha (fieldN (leAt f 0 4) 12 12)
  rw [controlFlit_decoded hx ha hd hf hp hn hq, takeSub_exchange h1, fieldN_fieldN (by decide), fieldN_fieldN (by decide)]
  generalize controlHeard s l fn (fieldN (leAt f 0 4) 12 12) p = v at heard
  have htime : v.time = s.time := heard.frame.same .time (by decide)
  have hlink : (v.getLink l).far0 = x.far0 ∧ (v.getLink l).txTimes = x.txTimes := by
    rw [heard.link, Link.shown, Link.inFrame_eq]
    exact ⟨rfl, rfl⟩
  have hoff : v.offsetOf l = s.offsetOf l := by
    funext t1 t3 t4 turn
    rw [State.offsetOf, State.effAsym_congr (heard.frame.same .fuses (by decide)) (heard.frame.same .csr (by decide)), State.offsetOf]
  obtain ⟨r, hr⟩ := exchange_taken (turn := fieldN p (195 + 12) 24) (hlink.1.trans hfar) hf0 (hlink.2 ▸ he) (htime ▸ hpar)
  rw [hoff] at hr
  refine ⟨_, hr, State.modLink_frame ?_ (by decide), htime⟩
  exact heard.frame.mono (by simp) fun _ h => h

end

end Sys2Proof.Machine
end

section
/-! The CONTROL flit as O34 states it, and the obligation. -/

namespace Sys2Proof.Machine

open Sys2Proof.Safety

/-- A CONTROL flit that tells of lanes, as the link's record stands afterwards. -/
theorem controlFlit_lanes {s : State} {x : Link} {l fn p : Nat} {flit f : List Byte} {arrival : Nat} {as : Nat → Prop} (hx : s.getLink l = x)
    (ha : x.Awaits 62) (hd : slotDecode 62 flit = some (f, 0)) (hf : fn = fieldN (leAt f 0 4) 0 12) (hp : p = leAt f 4 32) (hn : fieldN p 142 3 = 0)
    (hq : fieldN p 193 2 = 0) (h2 : fn % 4 = 2) : ∃ req sat,
      LinkStep [.link, .ctx] as l s (controlFlit s l flit arrival) { x.shown fn p with farReq := req, farSat := sat }
      ∧ (controlFlit s l flit arrival).ctx = (takeStamp s l (fieldN p 0 64) (fieldN p 64 16) (fieldN p 80 8)).ctx := by
  have heard := controlHeard_step (fn := fn) (p := p) (as := as) hx ha (fieldN (leAt f 0 4) 12 12)
  obtain ⟨req, sat, h⟩ := takeSub_lanes (s := controlHeard s l fn (fieldN (leAt f 0 4) 12 12) p) (l := l) (sub := fieldN p 195 61)
    (arrival := arrival) h2
  rw [controlFlit_decoded hx ha hd hf hp hn hq, h]
  exact ⟨_, _, heard.modLink (by decide) rfl, controlHeard_ctx (fn := fn) hx ha _⟩

/-- A CONTROL flit whose exchange shows an offset and changes machine time. -/
theorem controlFlit_takesTime {s u : State} {l : LinkIx} {flit : List Byte} {arrival : Nat} {off : Int} {m : Time}
    (hu : controlFlit s l.val flit arrival = { u.showOffset off with time := m })
    (frame : Frame [.link, .ctx, .csr, .time] (· ∈ [RegName.timOffset.addr []]) s u) :
    Completes (.linkControlFlit l flit arrival) s [.link, .ctx, .csr, .time] fun t => t.time = m
      ∧ RegsKept [RegName.timOffset.addr []] s t ∧ t.fld .timOffset [] 0 32 = unsignedOf 32 (clampI (-2147483648) 2147483647 off) := by
  have shown : Frame [.link, .ctx, .csr, .time] (· ∈ [RegName.timOffset.addr []]) s (u.showOffset off) :=
    State.setFld_frame frame (by decide) (List.mem_singleton.2 rfl)
  have taken := shown.time (x := m) (by decide)
  exact taken.completes ((exec_linkControlFlit ..).trans (congrArg _ hu)) ⟨rfl, taken.regsKept, fld_showOffset⟩

theorem controlFlitReceived : Claims.ControlFlit := by
  intro l flit f fn p arrival x s hx hv hsent hback hnext
  have ha : x.Awaits 62 := ⟨hv, hsent, hback, hnext⟩
  refine ⟨fun hd hb => ?undecoded, fun hd hf hp hn hq => ⟨fun h2 => ?lanes,
    fun f0 t1 t3 t4 rtt off e h1 hfar hf0 he ht1 hpar hrtt hoff => ?exchange⟩⟩
  case undecoded =>
    obtain ⟨step, count⟩ := controlFlit_undecoded (arrival := arrival) hx.symm ha hd hb
    exact step.frame.completes (exec_linkControlFlit ..) ⟨count, step.frame.regsKept, step.set⟩
  case lanes =>
    obtain ⟨req, sat, step, hctx⟩ := controlFlit_lanes (as := fun _ => False) (arrival := arrival) hx.symm ha hd hf hp hn hq h2
    obtain ⟨credits, part, gen, bad, buf, state⟩ := Link.shown_told x fn p
    refine step.frame.completes (exec_linkControlFlit ..) ?_
    rw [step.link]
    refine ⟨Link.shown_rxFn, Link.shown_later, Link.shown_stays, credits, part, gen, bad, buf, state, step.others, fun hk => ?free, fun k hk =>
      ⟨fun m hm => ?others, fun ho => ?other, fun hs hpart hgen => ?tagged⟩⟩
    case free => rw [hctx, takeStamp_free _ hk]
    case others => rw [hctx]; exact takeStamp_kept hk m hm
    case other =>
      have ht : ¬(s.getCtx k).part.tagged (fieldN p 64 16) (fieldN p 80 8) := fun ⟨hs, hpart, hgen⟩ => by simp_all
      rw [hctx, takeStamp_other _ hk ht]
    case tagged =>
      obtain ⟨stamp, kept, rest⟩ := takeStamp_tagged hk ⟨hs, hpart, hgen⟩ hctx
      have h48 : fieldN (fieldN p 0 64) 48 1 = fieldN p 48 1 := fieldN_fieldN (by decide)
      have h49 : fieldN (fieldN p 0 64) 49 1 = fieldN p 49 1 := fieldN_fieldN (by decide)
      have hlow : fieldN p 0 64 % 2 ^ 48 = p % 2 ^ 48 := by rw [fieldN]; omega
      rw [stamp]
      refine ⟨h49 ▸ Stamp.hear_ended _ _, fun h0 => Stamp.hear_notStarted _ (h48.trans h0), fun h1 => ?_, kept, rest⟩
      exact hlow ▸ Stamp.hear_started _ (h48.trans h1)
  case exchange =>
    obtain rfl : off = s.offsetOf l.val e.2 t3 t4 (fieldN p 207 24) := by rw [hoff, hrtt, ht1]; rfl
    obtain ⟨u, hu, frame, htime⟩ := controlFlit_exchange (arrival := arrival) hx.symm ha hd hf hp hn hq h1 hfar hf0 he hpar
    refine ⟨fun hsync => ?_, fun hsync hlo hhi => ?_⟩
    · rw [timeTake_unsynced (htime ▸ hsync), htime] at hu
      exact controlFlit_takesTime hu frame
    · rw [timeTake_locked (htime ▸ hsync) hlo hhi, htime] at hu
      exact controlFlit_takesTime hu frame

/-- Settles O34: by what each kind of flit does to its link's record, slot by slot, and by what the CONTROL flit's fields tell. -/
theorem flits : Obligations.Flits := ⟨flitReception, controlFlitReceived⟩

end Sys2Proof.Machine
end

section
/-! Integer arithmetic of a tile: rounding (R79), exact dot products (R80), and the bounds of requantised blocks (R85). -/

namespace Sys2Proof.Machine

open Sys2Proof.Safety

/-! ### Rounding half to even (R79) -/

@[simp] theorem rneShr_zero (v : Int) : rneShr v 0 = v := if_pos rfl

/-- What rounding leaves over: at most half a unit, and exactly half only under an even result. -/
theorem rneShr_error (v : Int) {n : Nat} (h0 : 0 < n) (hn : n < 120) :
    2 * (v - rneShr v n * (2 ^ n : Nat)).natAbs ≤ 2 ^ n ∧ (2 * (v - rneShr v n * (2 ^ n : Nat)).natAbs = 2 ^ n → rneShr v n % 2 = 0) := by
  have hpow : 2 ^ n = 2 * 2 ^ (n - 1) := by rw [Nat.mul_comm, Nat.two_pow_pred_mul_two h0]
  have hpos : 0 < 2 ^ (n - 1) := Nat.two_pow_pos _
  rw [rneShr, if_neg (by omega), if_neg (by omega), hpow]
  generalize 2 ^ (n - 1) = half at *
  have hv := Int.emod_add_mul_ediv v (2 * half : Nat)
  have hr0 := Int.emod_nonneg v (b := (2 * half : Nat)) (by omega)
  have hr1 := Int.emod_lt_of_pos v (b := (2 * half : Nat)) (by omega)
  dsimp only
  generalize v % (2 * half : Nat) = r at *
  generalize v / (2 * half : Nat) = q at *
  split
  case isTrue up =>
    have hover : v - (q + 1) * (2 * half : Nat) = r - (2 * half : Nat) := by
      rw [← hv, Int.add_mul, Int.one_mul, Int.mul_comm q]
      omega
    rw [hover]
    omega
  case isFalse down =>
    have hover : v - q * (2 * half : Nat) = r := by
      rw [← hv, Int.mul_comm q]
      omega
    rw [hover]
    omega

/-! ### Exact dot products (R80) -/

/-- A sum of terms of bounded magnitude. -/
theorem natAbs_foldl_add_le {l : List Int} {bound : Nat} (h : ∀ x ∈ l, x.natAbs ≤ bound) (v : Int) :
    (l.foldl (· + ·) v).natAbs ≤ v.natAbs + l.length * bound := by
  induction l generalizing v with
  | nil => simp
  | cons x l ih =>
    have hx := h x (List.mem_cons_self ..)
    have hsum := ih (fun y hy => h y (List.mem_cons_of_mem _ hy)) (v + x)
    simp only [List.foldl_cons, List.length_cons, Nat.succ_mul]
    omega

/-- An integer that fits `n` bits in two's complement (R75). -/
def IsCode (n : Nat) (c : Int) : Prop := -(2 ^ (n - 1) : Nat) ≤ c ∧ c < (2 ^ (n - 1) : Nat)

theorem isCode_eight {c : Int} : IsCode 8 c ↔ -128 ≤ c ∧ c ≤ 127 := by
  simp only [IsCode]
  omega

theorem IsCode.natAbs_mul_le {x y : Int} (hx : IsCode 8 x) (hy : IsCode 8 y) : (x * y).natAbs ≤ 2 ^ 14 := by
  rw [isCode_eight] at hx hy
  calc (x * y).natAbs = x.natAbs * y.natAbs := Int.natAbs_mul x y
    _ ≤ 128 * 128 := Nat.mul_le_mul (by omega) (by omega)

/-- The sum of products of 32 pairs of 8-bit codes. -/
theorem dotCodes_natAbs_le {a b : List Int} (hl : a.length = 32) (ha : ∀ c ∈ a, IsCode 8 c) (hb : ∀ c ∈ b, IsCode 8 c) :
    (dotCodes a b).natAbs ≤ 2 ^ 19 := by
  have hterm : ∀ x ∈ List.zipWith (· * ·) a b, x.natAbs ≤ 2 ^ 14 := by
    rw [← List.map_uncurry_zip_eq_zipWith]
    intro x hx
    obtain ⟨⟨p, q⟩, hpq, rfl⟩ := List.mem_map.1 hx
    obtain ⟨hp, hq⟩ := List.of_mem_zip hpq
    exact (ha p hp).natAbs_mul_le (hb q hq)
  have hlen : (List.zipWith (· * ·) a b).length ≤ 32 := by rw [List.length_zipWith]; omega
  have hsum := natAbs_foldl_add_le hterm 0
  rw [dotCodes]
  omega

/-- An accumulator holds an integer exactly, at exponent 0. -/
structure Acc.Holds (a : Acc) (v : Int) : Prop where
  exp   : a.exp = 0
  mant  : a.mant = v
  empty : a.empty = true → v = 0

theorem Acc.norm_of_lt (n : Nat) {a : Acc} (h : a.mant.natAbs < 2 ^ 62) : Acc.norm n a = a := by
  cases n with
  | zero => rfl
  | succ n => exact if_neg (by omega)

/-- A product of scale (1, 0) adds exactly while the sum stays below the bound of normalisation. -/
theorem Acc.Holds.apply {a : Acc} {v p : Int} (h : a.Holds v) (hb : (v + p).natAbs < 2 ^ 62) : (a.apply p 1 1 0 0).Holds (v + p) := by
  obtain ⟨he, hm, h0⟩ := h
  by_cases hp : p = 0
  · rw [Acc.apply, if_pos (by simp [hp]), hp, Int.add_zero]
    exact ⟨he, hm, h0⟩
  rw [Acc.apply, if_neg (by simpa using hp)]
  split
  · next hempty =>
    have hv := h0 hempty
    rw [Acc.norm_of_lt _ (by simpa [hv] using hb)]
    exact ⟨by simp, by simp [hv], by simp⟩
  · rw [Acc.norm_of_lt _ (by simpa [he, hm] using hb)]
    exact ⟨by simp [he], by simp [he, hm], by simp⟩

/-- A block of scale (1, 0) with 32 codes of 8 bits. -/
structure Block.Unscaled (b : Block) : Prop where
  m      : b.m = 1
  e      : b.e = 0
  length : b.codes.length = 32
  codes  : ∀ c ∈ b.codes, IsCode 8 c

/-- Pairs of unscaled blocks accumulate to the sum of their products, as long as there is room for that many. -/
theorem Acc.Holds.foldl_apply {ps : List (Block × Block)} (hps : ∀ p ∈ ps, p.1.Unscaled ∧ p.2.Unscaled) {a : Acc} {v : Int} (h : a.Holds v)
    (hroom : v.natAbs + ps.length * 2 ^ 19 < 2 ^ 62) :
    (ps.foldl (fun a b => a.apply (dotCodes b.1.codes b.2.codes) b.1.m b.2.m b.1.e b.2.e) a).Holds
      ((ps.map fun p => dotCodes p.1.codes p.2.codes).foldl (· + ·) v) := by
  induction ps generalizing a v with
  | nil => exact h
  | cons p ps ih =>
    obtain ⟨hx, hy⟩ := hps p (List.mem_cons_self ..)
    have hdot := dotCodes_natAbs_le hx.length hx.codes hy.codes
    rw [List.length_cons, Nat.succ_mul] at hroom
    simp only [List.foldl_cons, List.map_cons]
    rw [hx.m, hx.e, hy.m, hy.e]
    exact ih (fun q hq => hps q (List.mem_cons_of_mem _ hq)) (h.apply (by omega)) (by omega)

theorem Acc.dot_holds {xs ys : List Block} (hl : xs.length ≤ 2 ^ 40) (hb : ∀ b, b ∈ xs ∨ b ∈ ys → b.Unscaled) :
    (({} : Acc).dot xs ys).Holds (((xs.zip ys).map fun p => dotCodes p.1.codes p.2.codes).foldl (· + ·) 0) := by
  have hzip : (xs.zip ys).length ≤ 2 ^ 40 := by rw [List.length_zip]; omega
  refine Acc.Holds.foldl_apply (fun p hp => ?_) ⟨rfl, rfl, fun _ => rfl⟩ (by omega)
  obtain ⟨hx, hy⟩ := List.of_mem_zip (a := p.1) (b := p.2) hp
  exact ⟨hb _ (.inl hx), hb _ (.inr hy)⟩

/-! ### Requantisation (R85) -/

theorem satI_mem (v : Int) {lo hi : Int} (h : lo ≤ hi) : lo ≤ (satI v lo hi).1 ∧ (satI v lo hi).1 ≤ hi := by
  unfold satI
  split
  · exact ⟨Int.le_refl _, h⟩
  · split
    · exact ⟨h, Int.le_refl _⟩
    · dsimp only; omega

theorem fmtTarget_pos (fmt : Nat) : 0 < fmtTarget fmt := by
  unfold fmtTarget
  split
  · decide
  · split <;> decide

theorem ceilDivI_le_iff {n d c : Int} (hd : 0 < d) : ceilDivI n d ≤ c ↔ n ≤ c * d := by
  have h : -c ≤ -n / d ↔ -c * d ≤ -n := Int.le_ediv_iff_mul_le hd
  rw [Int.neg_mul] at h
  unfold ceilDivI
  omega

/-- A scaled maximum against a bound, for either sign of the shift. -/
theorem scaledMax_le_iff (mx : Nat) {t c : Int} (ht : 0 < t) (k : Int) :
    scaledMax mx t k ≤ c ↔ (mx : Int) * (2 ^ (-k).toNat : Nat) ≤ c * (t * (2 ^ k.toNat : Nat)) := by
  unfold scaledMax
  split
  · next hk => rw [ceilDivI_le_iff ht, Int.toNat_of_nonpos (by omega : k ≤ 0)]; simp
  · next hk => rw [ceilDivI_le_iff (Int.mul_pos ht (Int.natCast_pos.2 (Nat.two_pow_pos _))), Int.toNat_of_nonpos (by omega : -k ≤ 0)]; simp

/-- A scaled maximum falls as the shift grows. -/
theorem scaledMax_le_of_le {mx : Nat} {t c k k' : Int} (ht : 0 < t) (hc : 0 ≤ c) (hk : k ≤ k') (h : scaledMax mx t k ≤ c) :
    scaledMax mx t k' ≤ c := by
  rw [scaledMax_le_iff mx ht] at h ⊢
  have hneg : 2 ^ (-k').toNat ≤ 2 ^ (-k).toNat := Nat.pow_le_pow_right (by decide) (by omega)
  have hpos : 2 ^ k.toNat ≤ 2 ^ k'.toNat := Nat.pow_le_pow_right (by decide) (by omega)
  calc (mx : Int) * (2 ^ (-k').toNat : Nat) ≤ mx * (2 ^ (-k).toNat : Nat) :=
        Int.mul_le_mul_of_nonneg_left (Int.ofNat_le.2 hneg) (Int.natCast_nonneg mx)
    _ ≤ c * (t * (2 ^ k.toNat : Nat)) := h
    _ ≤ c * (t * (2 ^ k'.toNat : Nat)) :=
        Int.mul_le_mul_of_nonneg_left (Int.mul_le_mul_of_nonneg_left (Int.ofNat_le.2 hpos) (Int.le_of_lt ht)) hc

/-- The search for a shift ends with a scaled maximum in bounds, where its last candidate is. -/
theorem scaledMax_smallestK_le {mx : Nat} {t : Int} (n : Nat) {k : Int} (h : scaledMax mx t (k + n) ≤ 255) :
    scaledMax mx t (smallestK mx t n k) ≤ 255 := by
  induction n generalizing k with
  | zero => simpa [smallestK] using h
  | succ n ih =>
    rw [smallestK]
    split
    · assumption
    · have hnext : k + 1 + (n : Int) = k + ((n + 1 : Nat) : Int) := by omega
      exact ih (hnext ▸ h)

/-- The largest magnitude of a list, against a bound of them all. -/
theorem foldl_max_natAbs_le {w : List Int} {bound : Nat} (h : ∀ x ∈ w, x.natAbs ≤ bound) {n : Nat} (hn : n ≤ bound) :
    w.foldl (fun n x => max n x.natAbs) n ≤ bound := by
  induction w generalizing n with
  | nil => exact hn
  | cons x w ih => exact ih (fun y hy => h y (List.mem_cons_of_mem _ hy)) (Nat.max_le.2 ⟨hn, h x (List.mem_cons_self ..)⟩)

/-- The shift that R85 finds for a block of 32-bit codes brings the maximum within 255. -/
theorem scaledMax_search_le {mx : Nat} {t : Int} (ht : 0 < t) (h : mx ≤ 2 ^ 31 * 255) : scaledMax mx t (smallestK mx t 96 (-48)) ≤ 255 := by
  refine scaledMax_smallestK_le 96 ((scaledMax_le_iff mx ht _).2 ?_)
  have hpow : (-(-48 + ((96 : Nat) : Int))).toNat = 0 ∧ (-48 + ((96 : Nat) : Int)).toNat = 48 := by decide
  rw [hpow.1, hpow.2]
  omega

@[simp] theorem length_requantCodes (w : List Int) (t k : Int) (mo : Nat) : (requantCodes w t k mo).length = w.length := List.length_map ..

theorem requantCodes_mem {w : List Int} {t : Int} (ht : 0 ≤ t) (k : Int) (mo : Nat) :
    ∀ c ∈ (requantCodes w t k mo).map Prod.fst, -t ≤ c ∧ c ≤ t := by
  simp only [requantCodes, List.map_map, List.mem_map, Function.comp_apply]
  rintro c ⟨x, -, rfl⟩
  exact satI_mem _ (by omega)

/-- A block of a narrow format: as many codes as it should have, within the format's target, and a scale within its bytes. -/
structure Block.Narrow (b : Block) (t : Int) (n : Nat) : Prop where
  length : b.codes.length = n
  m      : b.m ≤ 255
  lo     : -128 ≤ b.e
  hi     : b.e ≤ 127
  codes  : ∀ c ∈ b.codes, -t ≤ c ∧ c ≤ t

theorem narrow_requantCodes {w : List Int} {t : Int} (ht : 0 < t) (k : Int) {mo : Nat} {e : Int} (hm : mo ≤ 255) (hlo : -128 ≤ e)
    (hhi : e ≤ 127) :
    ({ codes := (requantCodes w t k mo).map Prod.fst, m := mo, e := e } : Block).Narrow t w.length :=
  ⟨by simp, hm, hlo, hhi, requantCodes_mem (by omega) k mo⟩

/-- MAXABS gives a block of the target format (R85). -/
theorem requantMax_narrow {b : Block} (fmt : Nat) (hm : b.m < 256) (hc : ∀ c ∈ b.codes, c.natAbs ≤ 2 ^ 31) :
    (requantMax b fmt).1.Narrow (fmtTarget fmt) b.codes.length := by
  have ht := fmtTarget_pos fmt
  have hw : ∀ x ∈ b.codes.map fun a => a * (b.m : Int), x.natAbs ≤ 2 ^ 31 * 255 := by
    simp only [List.mem_map]
    rintro _ ⟨c, hmem, rfl⟩
    rw [Int.natAbs_mul, Int.natAbs_natCast]
    exact Nat.mul_le_mul (hc c hmem) (by omega)
  have hmx := foldl_max_natAbs_le hw (Nat.zero_le _)
  have hk := scaledMax_search_le ht hmx
  have hlen : (b.codes.map fun a => a * (b.m : Int)).length = b.codes.length := List.length_map ..
  rw [← hlen]
  unfold requantMax
  dsimp only
  generalize (b.codes.map fun a => a * (b.m : Int)) = w at *
  generalize w.foldl (fun n x => max n x.natAbs) 0 = mx at *
  generalize smallestK mx (fmtTarget fmt) 96 (-48) = k at *
  by_cases hzero : mx = 0
  · rw [if_pos hzero]
    refine ⟨by rw [hlen, List.length_map], Nat.zero_le _, (by decide : (-128 : Int) ≤ 0), (by decide : (0 : Int) ≤ 127), fun c hmem => ?_⟩
    obtain ⟨-, -, rfl⟩ := List.mem_map.1 hmem
    omega
  rw [if_neg hzero]
  by_cases hunder : b.e + k < -128
  · have hraised := scaledMax_le_of_le ht (by decide) (by omega : k ≤ -128 - b.e) hk
    rw [if_pos hunder]
    exact narrow_requantCodes ht _ (e := -128) (Int.toNat_le.2 hraised) (by decide) (by decide)
  rw [if_neg hunder]
  by_cases hover : 127 < b.e + k
  · rw [if_pos hover]
    exact narrow_requantCodes ht _ (e := 127) (Nat.le_refl _) (by decide) (by decide)
  · rw [if_neg hover]
    exact narrow_requantCodes ht _ (e := b.e + k) (Int.toNat_le.2 hk) (by omega) (by omega)

theorem tileArithmetic : Claims.Arithmetic := by
  refine ⟨fun v n hn => ?rounding, fun xs ys hl hb => ?dots, fun b fmt _ hm _ _ hc => ?requantised⟩
  case rounding =>
    rcases Nat.eq_zero_or_pos n with rfl | h0
    · simp
    · exact ⟨(rneShr_error v h0 hn).1, fun h _ => (rneShr_error v h0 hn).2 h⟩
  case dots =>
    have hplain : ∀ b, b ∈ xs ∨ b ∈ ys → b.Unscaled := fun b hmem =>
      let ⟨m, e, length, codes⟩ := hb b hmem
      ⟨m, e, length, fun c hc => isCode_eight.2 (codes c hc)⟩
    have h := Acc.dot_holds hl hplain
    exact ⟨h.exp, h.mant⟩
  case requantised =>
    have h := requantMax_narrow fmt hm hc
    exact ⟨h.length, h.m, h.lo, h.hi, h.codes⟩

end Sys2Proof.Machine
end

section
/-! Lines of blocks and tensors in byte memory (R75 to R77): what is written reads back, and what a write leaves alone. -/

namespace Sys2Proof.Machine

open Sys2Proof.Safety

/-! ### Lists in pieces of one length -/

section
variable {α β : Type} {n : Nat}

/-- Pieces of one length, counted together. -/
theorem length_flatMap_of_length {f : β → List α} {l : List β} (h : ∀ b ∈ l, (f b).length = n) : (l.flatMap f).length = l.length * n := by
  rw [List.length_flatMap, List.map_eq_replicate_iff.2 h, List.sum_replicate_nat]

theorem chunksOf_nil (n fuel : Nat) : chunksOf n fuel ([] : List α) = [] := by cases fuel <;> rfl

theorem chunksOf_append {l r : List α} (hn : 0 < n) (h : l.length = n) (fuel : Nat) : chunksOf n (fuel + 1) (l ++ r) = l :: chunksOf n fuel r := by
  obtain ⟨a, l', rfl⟩ := List.exists_cons_of_length_pos (h ▸ hn)
  calc chunksOf n (fuel + 1) (a :: l' ++ r) = (a :: l' ++ r).take n :: chunksOf n fuel ((a :: l' ++ r).drop n) := rfl
    _ = _ := by rw [List.take_left' h, List.drop_left' h]

/-- Pieces of one length laid one after another come apart again. -/
theorem chunks_flatMap {f : β → List α} (hn : 0 < n) {l : List β} (h : ∀ b ∈ l, (f b).length = n) : chunks n (l.flatMap f) = l.map f := by
  have apart : ∀ (l : List β), (∀ b ∈ l, (f b).length = n) → ∀ fuel, l.length ≤ fuel → chunksOf n fuel (l.flatMap f) = l.map f := by
    intro l
    induction l with
    | nil => exact fun _ fuel _ => chunksOf_nil n fuel
    | cons b l ih =>
      intro h fuel hf
      obtain ⟨fuel, rfl⟩ : ∃ k, fuel = k + 1 := ⟨fuel - 1, by simp at hf; omega⟩
      rw [List.flatMap_cons, chunksOf_append hn (h b (List.mem_cons_self ..)),
        ih (fun c hc => h c (List.mem_cons_of_mem _ hc)) fuel (by simpa using hf), List.map_cons]
  exact apart l h _ (Nat.le_trans (Nat.le_mul_of_pos_right _ hn) (Nat.le_of_eq (length_flatMap_of_length h).symm))

theorem chunks_flatten (hn : 0 < n) {ls : List (List α)} (h : ∀ l ∈ ls, l.length = n) : chunks n ls.flatten = ls := by
  simpa using chunks_flatMap (f := id) hn h

/-- Pieces that a function gives back are laid one after another. -/
theorem flatMap_eq_flatten {f : List α → List α} {ls : List (List α)} (h : ∀ l ∈ ls, f l = l) : ls.flatMap f = ls.flatten := by
  rw [List.flatMap_def, List.map_congr_left h, List.map_id']

theorem exists_pair {l : List α} (h : l.length = 2) : ∃ a b, l = [a, b] := by
  obtain ⟨a, l, rfl⟩ := List.exists_cons_of_length_eq_add_one h
  obtain ⟨b, l, rfl⟩ := List.exists_cons_of_length_eq_add_one (Nat.succ.inj h)
  exact ⟨a, b, by rw [List.eq_nil_of_length_eq_zero (Nat.succ.inj (Nat.succ.inj h))]⟩

theorem exists_quadruple {l : List α} (h : l.length = 4) : ∃ a b c d, l = [a, b, c, d] := by
  obtain ⟨a, l, rfl⟩ := List.exists_cons_of_length_eq_add_one h
  obtain ⟨b, l, rfl⟩ := List.exists_cons_of_length_eq_add_one (Nat.succ.inj h)
  obtain ⟨c, d, rfl⟩ := exists_pair (Nat.succ.inj (Nat.succ.inj h))
  exact ⟨a, b, c, d, rfl⟩

/-- A list of whole pieces is made of them. -/
theorem exists_pieces (k : Nat) {l : List α} (h : l.length = k * n) :
    ∃ ls : List (List α), ls.length = k ∧ (∀ p ∈ ls, p.length = n) ∧ ls.flatten = l := by
  induction k generalizing l with
  | zero => exact ⟨[], rfl, by simp, (List.length_eq_zero_iff.1 (by omega)).symm⟩
  | succ k ih =>
    rw [Nat.succ_mul] at h
    obtain ⟨ls, hlen, hall, hflat⟩ := ih (l := l.drop n) (by rw [List.length_drop]; omega)
    refine ⟨l.take n :: ls, by simp [hlen], ?_, by simp [hflat]⟩
    rw [List.forall_mem_cons]
    exact ⟨by rw [List.length_take]; omega, hall⟩

end

/-! ### Codes in two's complement (R75) -/

/-- A number whose low bits are those of a code reads as the code. -/
theorem IsCode.signedOf_eq {n x : Nat} {c : Int} (h : IsCode n c) (hn : 0 < n) (hx : x % 2 ^ n = unsignedOf n c) : signedOf n x = c := by
  obtain ⟨hlo, hhi⟩ := h
  have hpow : 2 ^ n = 2 * 2 ^ (n - 1) := by rw [Nat.mul_comm, Nat.two_pow_pred_mul_two hn]
  have hpowI : (2 : Int) ^ n = (2 * 2 ^ (n - 1) : Nat) := by exact_mod_cast hpow
  rw [unsignedOf, hpow] at hx
  rw [signedOf, hpow, hx, hpowI]
  generalize 2 ^ (n - 1) = half at *
  rcases Int.lt_or_le c 0 with hneg | hpos
  · rw [Int.emod_eq_add_self_emod, Int.emod_eq_of_lt (by omega) (by omega)]
    split <;> omega
  · rw [Int.emod_eq_of_lt hpos (by omega)]
    split <;> omega

theorem signedOf_unsignedOf_of_isCode {n : Nat} {c : Int} (h : IsCode n c) (hn : 0 < n) : signedOf n (unsignedOf n c) = c :=
  h.signedOf_eq hn (Nat.mod_eq_of_lt (unsignedOf_lt n c))

/-! ### Elements in bytes (R77) -/

/-- The bytes of whole groups of four codes. -/
theorem length_bytesOf {fmt k : Nat} (hf : fmt < 4) {cs : List Int} (hl : cs.length = k * 4) :
    (bytesOf fmt cs).length * 8 = cs.length * fmtBits fmt := by
  match fmt, hf with
  | 0, _ => simp [bytesOf, fmtBits]
  | 1, _ =>
    obtain ⟨ls, hlen, hall, rfl⟩ := exists_pieces (n := 2) (k * 2) (by omega : cs.length = k * 2 * 2)
    simp [bytesOf, fmtBits, chunks_flatten (by decide) hall, hl, hlen]
    omega
  | 2, _ =>
    obtain ⟨ls, hlen, hall, rfl⟩ := exists_pieces k hl
    simp [bytesOf, fmtBits, chunks_flatten (by decide) hall, hl, hlen]
    omega
  | 3, _ =>
    have h := length_flatMap_of_length (f := fun c : Int => leBytes 4 (unsignedOf 32 c)) (n := 4) (l := cs) fun _ _ => length_leBytes ..
    simp only [bytesOf, fmtBits]
    simp [h]
    omega

/-- One byte holds the codes of a format of 8, 4 or 2 bits, the first lowest. -/
def packedByte (n : Nat) (l : List Int) : Byte := BitVec.ofNat 8 (packN (l.map fun c => (n, unsignedOf n c)))

theorem toNat_packedByte_one (c : Int) : (packedByte 8 [c]).toNat = unsignedOf 8 c := by
  have := unsignedOf_lt 8 c
  simp [packedByte, packN]
  omega

theorem toNat_packedByte_two (a b : Int) : (packedByte 4 [a, b]).toNat = unsignedOf 4 a + 16 * unsignedOf 4 b := by
  have := unsignedOf_lt 4 a
  have := unsignedOf_lt 4 b
  simp [packedByte, packN]
  omega

theorem toNat_packedByte_four (a b c d : Int) :
    (packedByte 2 [a, b, c, d]).toNat = unsignedOf 2 a + 4 * unsignedOf 2 b + 16 * unsignedOf 2 c + 64 * unsignedOf 2 d := by
  have := unsignedOf_lt 2 a
  have := unsignedOf_lt 2 b
  have := unsignedOf_lt 2 c
  have := unsignedOf_lt 2 d
  simp [packedByte, packN]
  omega

/-- Two codes of 4 bits read back from their byte. -/
theorem codes_packedByte_two {l : List Int} (hl : l.length = 2) (hc : ∀ c ∈ l, IsCode 4 c) :
    [signedOf 4 (packedByte 4 l).toNat, signedOf 4 ((packedByte 4 l).toNat / 16)] = l := by
  obtain ⟨a, b, rfl⟩ := exists_pair hl
  obtain ⟨ha, hb⟩ : IsCode 4 a ∧ IsCode 4 b := by simpa using hc
  have := unsignedOf_lt 4 a
  have := unsignedOf_lt 4 b
  rw [toNat_packedByte_two, ha.signedOf_eq (by decide) (by omega), hb.signedOf_eq (by decide) (by omega)]

/-- Four codes of 2 bits read back from their byte. -/
theorem codes_packedByte_four {l : List Int} (hl : l.length = 4) (hc : ∀ c ∈ l, IsCode 2 c) :
    (List.range 4).map (fun j => signedOf 2 ((packedByte 2 l).toNat / 4 ^ j)) = l := by
  obtain ⟨a, b, c, d, rfl⟩ := exists_quadruple hl
  obtain ⟨ha, hb, hc, hd⟩ : IsCode 2 a ∧ IsCode 2 b ∧ IsCode 2 c ∧ IsCode 2 d := by simpa using hc
  have := unsignedOf_lt 2 a
  have := unsignedOf_lt 2 b
  have := unsignedOf_lt 2 c
  have := unsignedOf_lt 2 d
  rw [toNat_packedByte_four]
  simp only [List.range, List.range.loop, List.map_cons, List.map_nil]
  rw [ha.signedOf_eq (by decide) (by omega), hb.signedOf_eq (by decide) (by omega), hc.signedOf_eq (by decide) (by omega),
    hd.signedOf_eq (by decide) (by omega)]

/-- Codes of a format read back from their bytes. -/
theorem codesOf_bytesOf {fmt k : Nat} (hf : fmt < 4) {cs : List Int} (hl : cs.length = k * 4) (hc : ∀ c ∈ cs, IsCode (fmtBits fmt) c) :
    codesOf fmt (bytesOf fmt cs) = cs := by
  match fmt, hf with
  | 0, _ =>
    have hback : ∀ c ∈ cs, signedOf 8 (packedByte 8 [c]).toNat = c := fun c hmem => by
      rw [toNat_packedByte_one, signedOf_unsignedOf_of_isCode (n := 8) (hc c hmem) (by decide)]
    calc codesOf 0 (bytesOf 0 cs) = (cs.map fun c => packedByte 8 [c]).map fun b => signedOf 8 b.toNat := rfl
      _ = cs := by rw [List.map_map]; exact (List.map_congr_left hback).trans (List.map_id _)
  | 1, _ =>
    obtain ⟨ls, -, hall, rfl⟩ := exists_pieces (n := 2) (k * 2) (by omega : cs.length = k * 2 * 2)
    have hback : ∀ l ∈ ls, [signedOf 4 (packedByte 4 l).toNat, signedOf 4 ((packedByte 4 l).toNat / 16)] = l := fun l hmem =>
      codes_packedByte_two (hall l hmem) fun c hcl => hc c (List.mem_flatten_of_mem hmem hcl)
    calc codesOf 1 (bytesOf 1 ls.flatten)
        = ((chunks 2 ls.flatten).map (packedByte 4)).flatMap fun b => [signedOf 4 b.toNat, signedOf 4 (b.toNat / 16)] := rfl
      _ = ls.flatten := by rw [chunks_flatten (by decide) hall, List.flatMap_map, flatMap_eq_flatten hback]
  | 2, _ =>
    obtain ⟨ls, -, hall, rfl⟩ := exists_pieces k hl
    have hback : ∀ l ∈ ls, (List.range 4).map (fun j => signedOf 2 ((packedByte 2 l).toNat / 4 ^ j)) = l := fun l hmem =>
      codes_packedByte_four (hall l hmem) fun c hcl => hc c (List.mem_flatten_of_mem hmem hcl)
    calc codesOf 2 (bytesOf 2 ls.flatten)
        = ((chunks 4 ls.flatten).map (packedByte 2)).flatMap fun b => (List.range 4).map fun j => signedOf 2 (b.toNat / 4 ^ j) := rfl
      _ = ls.flatten := by rw [chunks_flatten (by decide) hall, List.flatMap_map, flatMap_eq_flatten hback]
  | 3, _ =>
    have hback : ∀ c ∈ cs, signedOf 32 (leNat (leBytes 4 (unsignedOf 32 c))) = c := fun c hmem => by
      rw [leNat_leBytes, Nat.mod_eq_of_lt (show unsignedOf 32 c < 256 ^ 4 from unsignedOf_lt 32 c),
        signedOf_unsignedOf_of_isCode (n := 32) (hc c hmem) (by decide)]
    calc codesOf 3 (bytesOf 3 cs) = (chunks 4 (cs.flatMap fun c => leBytes 4 (unsignedOf 32 c))).map fun w => signedOf 32 (leNat w) := rfl
      _ = cs := by
        rw [chunks_flatMap (by decide) fun _ _ => length_leBytes .., List.map_map]
        exact (List.map_congr_left hback).trans (List.map_id _)

/-! ### Blocks and their scales (R76) -/

@[simp] theorem length_scaleBytes (b : Block) : b.scaleBytes.length = 2 := by simp [Block.scaleBytes]

/-- A block read back from its codes and its scale. -/
theorem ofScale_scaleBytes {b : Block} (hm : b.m < 256) (he : IsCode 8 b.e) : Block.ofScale b.codes (leNat b.scaleBytes) = b := by
  have hu := unsignedOf_lt 8 b.e
  have hle : leNat b.scaleBytes = b.m + 256 * unsignedOf 8 b.e := by
    simp [Block.scaleBytes, leBytes, leNat]
    omega
  have hlow : (b.m + 256 * unsignedOf 8 b.e) % 256 = b.m := by omega
  have hhigh : (b.m + 256 * unsignedOf 8 b.e) / 256 = unsignedOf 8 b.e := by omega
  rw [hle, Block.ofScale, hlow, hhigh, signedOf_unsignedOf_of_isCode he (by decide)]

/-! ### Lines of a tensor (R77) -/

/-- A read beside a run that was written. -/
theorem Memory.read_write_beside (m : Memory) {a b n : Nat} {bs : List Byte} (h : a + n ≤ b ∨ b + bs.length ≤ a) :
    Memory.read (Memory.write m b bs) a n = Memory.read m a n := by
  induction n generalizing a with
  | zero => rfl
  | succ n ih => rw [Memory.read, Memory.read, ih (by omega), Memory.get_write_out bs m b a (by omega)]

/-- The codes of a line of blocks come in groups of four. -/
theorem length_codes {bs : List Block} (h : ∀ b ∈ bs, b.codes.length = 32) : (bs.flatMap Block.codes).length = bs.length * 8 * 4 := by
  rw [length_flatMap_of_length h]
  omega

/-- The bytes of a line of blocks that has no more of them than a line of the tensor. -/
theorem length_bytesOf_le {d : Desc} (hf : d.fmt < 4) {bs : List Block} (hl : bs.length ≤ d.blocks) (h : ∀ b ∈ bs, b.codes.length = 32) :
    (bytesOf d.fmt (bs.flatMap Block.codes)).length ≤ d.lineBytes := by
  have hb : 32 * bs.length ≤ d.len := by rw [Desc.blocks] at hl; omega
  rw [Desc.lineBytes, Nat.le_div_iff_mul_le (by decide), length_bytesOf hf (length_codes h)]
  exact Nat.mul_le_mul_right _ (by rw [length_codes h]; omega)

/-- The bytes of a full line. -/
theorem length_bytesOf_line {d : Desc} (hf : d.fmt < 4) {bs : List Block} (hl : d.len = 32 * bs.length) (h : ∀ b ∈ bs, b.codes.length = 32) :
    (bytesOf d.fmt (bs.flatMap Block.codes)).length = d.lineBytes := by
  have hbytes := length_bytesOf hf (length_codes h)
  have hlen : (bs.flatMap Block.codes).length = d.len := by rw [length_codes h, hl]; omega
  rw [Desc.lineBytes, ← hlen, ← hbytes, Nat.mul_div_cancel _ (by decide)]

theorem length_scales (bs : List Block) : (bs.flatMap Block.scaleBytes).length = 2 * bs.length := by
  rw [length_flatMap_of_length fun b _ => length_scaleBytes b, Nat.mul_comm]

/-- A block that a line of a format holds. -/
structure Block.Stored (fmt : Nat) (b : Block) : Prop where
  length : b.codes.length = 32
  m      : b.m < 256
  e      : IsCode 8 b.e
  codes  : ∀ c ∈ b.codes, IsCode (fmtBits fmt) c

/-- Blocks put together from the codes and the scales that a line writes. -/
theorem blocks_of_bytes {fmt : Nat} (hf : fmt < 4) {bs : List Block} (h : ∀ b ∈ bs, b.Stored fmt) :
    List.zipWith (fun c s => Block.ofScale c (leNat s)) (chunks 32 (codesOf fmt (bytesOf fmt (bs.flatMap Block.codes))))
      (chunks 2 (bs.flatMap Block.scaleBytes)) = bs := by
  have h32 : ∀ b ∈ bs, b.codes.length = 32 := fun b hb => (h b hb).length
  have hcodes : ∀ c ∈ bs.flatMap Block.codes, IsCode (fmtBits fmt) c := fun c hc =>
    let ⟨b, hb, hcb⟩ := List.mem_flatMap.1 hc
    (h b hb).codes c hcb
  rw [codesOf_bytesOf hf (length_codes h32) hcodes, chunks_flatMap (by decide) h32, chunks_flatMap (by decide) fun b _ => length_scaleBytes b,
    List.zipWith_map, List.zipWith_self]
  exact (List.map_congr_left fun b hb => ofScale_scaleBytes (h b hb).m (h b hb).e).trans (List.map_id _)

theorem readLine_writeLine (m : Memory) {d : Desc} (data i : Nat) {bs : List Block} (hf : d.fmt < 4) (hn : bs.length = d.blocks)
    (hlen : d.len = 32 * bs.length) (h : ∀ b ∈ bs, b.Stored d.fmt)
    (hapart : data + i * d.stride + d.lineBytes ≤ data + d.scaleOff + 2 * d.blocks * i
      ∨ data + d.scaleOff + 2 * d.blocks * i + 2 * d.blocks ≤ data + i * d.stride) :
    readLine (writeLine m d data i bs) d data i = bs := by
  have hbytes := length_bytesOf_line hf hlen fun b hb => (h b hb).length
  have hscales : (bs.flatMap Block.scaleBytes).length = 2 * d.blocks := by rw [length_scales, hn]
  rw [readLine, writeLine, Memory.read_write_beside _ (by rw [hscales]; exact hapart), ← hbytes, Memory.read_write, ← hscales, Memory.read_write]
  exact blocks_of_bytes hf h

/-! ### Tensors (R77) -/

theorem Desc.ranges_tensor {d : Desc} (hk : d.kind ≠ 3) (data : Nat) :
    d.ranges data = ((List.range d.lines).map fun i => (data + i * d.stride, d.lineBytes)) ++ [(data + d.scaleOff, 2 * d.lines * d.blocks)] :=
  if_neg hk

/-- An address outside a tensor lies outside each line and its scales. -/
theorem outside_line {d : Desc} {data a i : Nat} (hk : d.kind ≠ 3) (ho : Outside (d.ranges data) a) (hi : i < d.lines) :
    (a < data + i * d.stride ∨ data + i * d.stride + d.lineBytes ≤ a)
    ∧ (a < data + d.scaleOff + 2 * d.blocks * i ∨ data + d.scaleOff + 2 * d.blocks * i + 2 * d.blocks ≤ a) := by
  rw [Desc.ranges_tensor hk] at ho
  refine ⟨ho (data + i * d.stride, d.lineBytes) (List.mem_append_left _ (List.mem_map.2 ⟨i, List.mem_range.2 hi, rfl⟩)), ?_⟩
  have hscale := ho (data + d.scaleOff, 2 * d.lines * d.blocks) (List.mem_append_right _ (List.mem_singleton_self _))
  have hfit : 2 * d.blocks * i + 2 * d.blocks ≤ 2 * d.lines * d.blocks := by
    calc 2 * d.blocks * i + 2 * d.blocks = 2 * d.blocks * (i + 1) := (Nat.mul_succ ..).symm
      _ ≤ 2 * d.blocks * d.lines := Nat.mul_le_mul_left _ hi
      _ = 2 * d.lines * d.blocks := Nat.mul_right_comm ..
  dsimp only at hscale
  omega

/-- A line that fits changes no byte outside its tensor. -/
theorem get_writeLine_outside (m : Memory) {d : Desc} {data a i : Nat} {bs : List Block} (hf : d.fmt < 4) (hk : d.kind ≠ 3) (hi : i < d.lines)
    (hl : bs.length ≤ d.blocks) (h : ∀ b ∈ bs, b.codes.length = 32) (ho : Outside (d.ranges data) a) :
    (writeLine m d data i bs).get a = m.get a := by
  obtain ⟨helems, hscale⟩ := outside_line hk ho hi
  have hbytes := length_bytesOf_le hf hl h
  have hscales := length_scales bs
  rw [writeLine, Memory.get_write_out _ _ _ _ (by omega), Memory.get_write_out _ _ _ _ (by omega)]

/-- Lines that fit a tensor change no byte outside it. -/
theorem get_writeTensor_outside (m : Memory) {d : Desc} {data a : Nat} {ls : List (List Block)} (hfit : Fits d ls) (ho : Outside (d.ranges data) a) :
    (writeTensor m d data ls).get a = m.get a := by
  obtain ⟨hlines, hblocks, hk, hf⟩ := hfit
  refine List.foldlRecOn (motive := fun m' : Memory => m'.get a = m.get a) _ _ rfl fun m' hm' e he => ?_
  have hi := List.snd_lt_of_mem_zipIdx he
  obtain ⟨hl, h⟩ := hblocks e.1 (List.fst_mem_of_mem_zipIdx he)
  rw [get_writeLine_outside m' hf hk (by omega) hl h ho, hm']

theorem tensorStorage : Claims.TensorStorage := by
  intro m d data hf hk
  refine ⟨fun i bs hn hlen hb hapart => readLine_writeLine m data i hf hn (hn ▸ hlen) (fun b hmem => ?_) hapart,
    fun ls hfit a ho => get_writeTensor_outside m hfit ho⟩
  obtain ⟨hlen, hm, hlo, hhi, hc⟩ := hb b hmem
  exact ⟨hlen, hm, isCode_eight.2 ⟨hlo, hhi⟩, hc⟩

/-- Settles O26: rounding by its remainder, dot products and MAXABS by bounds on magnitudes, storage by the layout of lines and scales. -/
theorem tileNumbers : Obligations.TileNumbers := ⟨tileArithmetic, tensorStorage⟩

end Sys2Proof.Machine
end

section
/-! The rows of the compute engines: a macro-op that runs has its effect on its tile, and is done (R81, R82, R109, R117 to R121). -/

namespace Sys2Proof.Machine

open Sys2Proof.Safety

/-! ### Reads of tile SRAM that find nothing (R73, R142) -/

theorem readSram_clean {s : State} {t : Nat} {rs : List (Nat × Nat)} (h : (s.getTile t).openLoads rs = []) : readSram s t {} rs = (false, s) := by
  simp [readSram, foundLines, decodeLines, unsettle, h]

theorem Tile.openLoads_eq_nil {x : Tile} {rs : List (Nat × Nat)} : x.openLoads rs = [] ↔
    ∀ r ∈ (x.xfer.filter fun e => decide (4 ≤ e.1 ∧ e.1 < 8)).flatMap Prod.snd, rangesMeet (x.rangesOf r 58) rs = false := by
  simp only [Tile.openLoads, List.filter_eq_nil_iff, Bool.not_eq_true]

theorem rangesMeet_eq_false {rs qs : List (Nat × Nat)} :
    rangesMeet rs qs = false ↔ ∀ r ∈ rs, ∀ q ∈ qs, ¬(r.1 < q.1 + q.2 ∧ q.1 < r.1 + r.2) := by
  simp [rangesMeet]

/-- Ranges of several tensors that no open LOAD meets, one by one. -/
theorem Tile.openLoads_flatMap {x : Tile} {f : Nat → List (Nat × Nat)} {bs : List Nat} (h : ∀ b ∈ bs, x.openLoads (f b) = []) :
    x.openLoads (bs.flatMap f) = [] := by
  simp only [Tile.openLoads_eq_nil, rangesMeet_eq_false] at h ⊢
  intro r hr p hp q hq
  obtain ⟨b, hb, hqb⟩ := List.mem_flatMap.1 hq
  exact h b hb r hr p hp q hqb

/-! ### Rows that perform a macro-op (R100) -/

section
variable {s : State} {t u : Nat} {r : Running} {p : MacroOp → Bool} {inputs : Running → List Nat} {body : State → Running → State}

theorem Tile.op_of_doing {x : Tile} {n : Nat} (h : x.doing (isOp n) = some (u, r)) : r.op.op = n := by
  obtain ⟨e, -, he⟩ := List.exists_of_findSome?_eq_some h
  split at he
  · next y _ =>
    split at he
    · next hy =>
      obtain ⟨-, rfl⟩ : e.1 = u ∧ y = r := by simpa using he
      simp only [isOp, Bool.and_eq_true, beq_iff_eq] at hy
      exact hy.1
    · cases he
  · cases he

theorem perform_none {found : Findings} (h : (s.getTile t).doing p = none) : perform s t p inputs found body = s := by
  rw [perform, h]

/-- Over SRAM that reads clean and settled the effect takes place, and the macro-op is done. -/
theorem perform_settled (h : (s.getTile t).doing p = some (u, r)) (hs : Settled (s.getTile t) r) (hi : inputs r ⊆ r.op.fields) :
    perform s t p inputs {} body = markDone (body s r) t u := by
  simp only [perform, h]
  rw [readSram_clean (Tile.openLoads_flatMap fun b hb => hs b (hi hb))]

@[simp] theorem fld_markDone {n : RegName} {ix : List Nat} {lo k : Nat} : (markDone s t u).fld n ix lo k = s.fld n ix lo k := rfl

end

/-! ### What an effect leaves -/

/-- What happens between two states makes tile `x` into `y`; it changes no other tile, and of the registers only the count of the tile's saturated
blocks (R88). -/
structure EngineStep (x : Nat) (s t : State) (y : Tile) : Prop where
  frame  : Frame [.tile, .csr] (· ∈ [RegName.tilArithSat.addr [x]]) s t
  tile   : t.getTile x = y
  others : Kept {} [x] s.tile t.tile

section
variable {x : Nat} {s t : State} {y : Tile}

theorem EngineStep.refl : EngineStep x s s (s.getTile x) := ⟨Frame.refl, rfl, fun _ _ => rfl⟩

theorem EngineStep.modTile (h : EngineStep x s t y) (f : Tile → Tile) : EngineStep x s (t.modTile x f) (f y) :=
  ⟨State.modTile_frame h.frame (by decide), by rw [State.getTile_modTile_self, h.tile],
    fun k hk => (KMap.kept_set _ _ _ _ k hk).trans (h.others k hk)⟩

theorem EngineStep.satBlocks (h : EngineStep x s t y) (n : Nat) : EngineStep x s (satBlocks t x n) y :=
  ⟨State.addFld_frame h.frame (by decide) (List.mem_singleton.2 rfl), h.tile, h.others⟩

theorem EngineStep.newStationary (h : EngineStep x s t y) (r : Running) :
    EngineStep x s (newStationary t x r) { y with stationary := Config.stationary r.step x r.op.index } := h.modTile _

theorem EngineStep.putTensor (h : EngineStep x s t y) (r : Running) (b : Nat) (out : Counted (List (List Block))) :
    EngineStep x s (putTensor t x r b out) { y with sram := writeTensor y.sram (y.descOf r b) (r.dataOf b) out.val } :=
  (h.modTile _).satBlocks _

theorem EngineStep.markDone (h : EngineStep x s t y) (u : Nat) : EngineStep x s (markDone t x u) { y with
    running := KMap.upd none y.running u fun o => o.map fun (r : Running) => { r with done := true } } := h.modTile _

theorem EngineStep.setMask (h : EngineStep x s t y) (m : Nat) (w : Word) :
    EngineStep x s (setMask t x m w) { y with masks := KMap.set 0 y.masks m w } := h.modTile _

end

/-- A tile with other SRAM, tensor-engine state and masks. -/
def Tile.computed (x : Tile) (sram : Memory) (acc : KMap Acc) (held : Bool) (stationary : List Byte) (masks : KMap Word) : Tile :=
  { x with sram := sram, acc := acc, accHeld := held, stationary := stationary, masks := masks }

/-- A compute macro-op of opcode `n` on tile `x` leads from one state to another: besides SRAM, the tensor engine's macro-ops change its accumulators
and stationary buffers, and VEC the masks. -/
def Computes (n x : Nat) (s t : State) : Prop :=
  ∃ sram acc held stationary masks, EngineStep x s t ((s.getTile x).computed sram acc held stationary masks)
    ∧ (n ≠ opVec → masks = (s.getTile x).masks)
    ∧ (n ≠ opMatmul → n ≠ opAttn → n ≠ opTailorApply →
        acc = (s.getTile x).acc ∧ held = (s.getTile x).accHeld ∧ stationary = (s.getTile x).stationary)

section
variable {n x : Nat} {s t : State}

theorem EngineStep.computes_sram {m : Memory} (h : EngineStep x s t { s.getTile x with sram := m }) : Computes n x s t :=
  ⟨_, _, _, _, _, h, fun _ => rfl, fun _ _ _ => ⟨rfl, rfl, rfl⟩⟩

theorem EngineStep.computes_mask {ms : KMap Word} (h : EngineStep x s t { s.getTile x with masks := ms }) : Computes opVec x s t :=
  ⟨_, _, _, _, _, h, fun hn => absurd rfl hn, fun _ _ _ => ⟨rfl, rfl, rfl⟩⟩

theorem EngineStep.computes_tensor {m : Memory} {acc : KMap Acc} {held : Bool} {st : List Byte}
    (hn : n = opMatmul ∨ n = opAttn ∨ n = opTailorApply)
    (h : EngineStep x s t { s.getTile x with sram := m, acc := acc, accHeld := held, stationary := st }) : Computes n x s t :=
  ⟨_, _, _, _, _, h, fun _ => rfl, fun h1 h2 h3 => (hn.elim h1 fun hn => hn.elim h2 h3).elim⟩

end

/-! ### The effects -/

section
variable (s : State) (x : Nat) (r : Running)

theorem putTensor_computes (n b : Nat) (out : Counted (List (List Block))) : Computes n x s (putTensor s x r b out) :=
  (EngineStep.refl.putTensor r b out).computes_sram

theorem matmulBody_computes : Computes opMatmul x s (matmulBody s x r) := by
  unfold matmulBody
  dsimp only
  have h := (EngineStep.refl (s := s) (x := x)).newStationary r
  split
  · exact (h.modTile _).computes_tensor (.inl rfl)
  · exact ((h.modTile _).putTensor r 68 _).computes_tensor (.inl rfl)

theorem attnBody_computes : Computes opAttn x s (attnBody s x r) :=
  (((EngineStep.refl.newStationary r).modTile _).putTensor r 78 _).computes_tensor (.inr (.inl rfl))

theorem tailorBody_computes : Computes opTailorApply x s (tailorBody s x r) :=
  (((EngineStep.refl.newStationary r).modTile _).putTensor r 68 _).computes_tensor (.inr (.inr rfl))

theorem vecBody_computes : Computes opVec x s (vecBody s x r) := by
  have mask (m : Nat) (w : Word) : Computes opVec x s (setMask s x m w) := (EngineStep.refl.setMask m w).computes_mask
  unfold vecBody
  dsimp only
  split
  · exact mask _ _
  split
  · exact (EngineStep.refl.modTile _).computes_sram
  split
  · exact mask _ _
  split
  · exact mask _ _
  · exact putTensor_computes ..

end

/-! ### The rows -/

section
variable {o : MacroOp}

theorem MacroOp.fields_matmul (h : o.op = opMatmul) : o.fields = [48, 58, 68] := by rw [MacroOp.fields, h]; rfl
theorem MacroOp.fields_norm (h : o.op = opNorm) : o.fields = [48, 58, 68] := by rw [MacroOp.fields, h]; rfl
theorem MacroOp.fields_attn (h : o.op = opAttn) : o.fields = [48, 58, 68, 78] := by rw [MacroOp.fields, h]; rfl
theorem MacroOp.fields_tailorApply (h : o.op = opTailorApply) : o.fields = [48, 58, 68, 78] := by rw [MacroOp.fields, h]; rfl
theorem MacroOp.fields_act (h : o.op = opAct) : o.fields = [48, 58] := by rw [MacroOp.fields, h]; rfl
theorem MacroOp.fields_softmax (h : o.op = opSoftmax) : o.fields = [48, 58] := by rw [MacroOp.fields, h]; rfl
theorem MacroOp.fields_requant (h : o.op = opRequant) : o.fields = [48, 58] := by rw [MacroOp.fields, h]; rfl
theorem MacroOp.fields_vec (h : o.op = opVec) : o.fields =
    (if vopUsesA o.vop then [48] else []) ++ (if vopUsesB o.vop && !o.bImm then [58] else []) ++ (if vopUsesOut o.vop then [68] else []) := by
  rw [MacroOp.fields, h]
  rfl

end

theorem matmulInputs_subset {r : Running} (h : r.op.op = opMatmul) : ([48, 58] ++ if r.op.f 78 3 = 1 then [68] else []) ⊆ r.op.fields := by
  rw [MacroOp.fields_matmul h]
  split <;> simp

theorem attnInputs_subset {r : Running} (h : r.op.op = opAttn) : [48, 58, 68] ⊆ r.op.fields := by
  rw [MacroOp.fields_attn h]
  simp

theorem tailorInputs_subset {r : Running} (h : r.op.op = opTailorApply) : [48, 58, 68, 78] ⊆ r.op.fields := by
  rw [MacroOp.fields_tailorApply h]
  simp

theorem vecInputs_subset {r : Running} (h : r.op.op = opVec) : vecInputs r ⊆ r.op.fields := by
  rw [MacroOp.fields_vec h]
  exact List.subset_append_left ..

theorem exec_matmul (x : TileIx) (s : State) : exec (.matmul x {}) s = .next (perform s x.val (isOp opMatmul)
    (fun r => [48, 58] ++ if r.op.f 78 3 = 1 then [68] else []) {} fun s r => matmulBody s x.val r) := rfl

theorem exec_attn (x : TileIx) (s : State) : exec (.attn x {}) s = .next (perform s x.val (isOp opAttn)
    (fun _ => [48, 58, 68]) {} fun s r => attnBody s x.val r) := rfl

theorem exec_tailorApply (x : TileIx) (s : State) : exec (.tailorApply x {}) s = .next (perform s x.val (isOp opTailorApply)
    (fun _ => [48, 58, 68, 78]) {} fun s r => tailorBody s x.val r) := rfl

/-- A row of a macro-op of opcode `n` that runs, over SRAM that reads clean and settled. -/
theorem exec_settled {c : Instr} {n t u : Nat} {s : State} {r : Running} {inputs : Running → List Nat} {body : State → Running → State}
    (hc : exec c s = .next (perform s t (isOp n) inputs {} body)) (hi : ∀ r : Running, r.op.op = n → inputs r ⊆ r.op.fields)
    (hr : (s.getTile t).doing (isOp n) = some (u, r)) (hs : Settled (s.getTile t) r) : exec c s = .next (markDone (body s r) t u) :=
  hc.trans (congrArg _ (perform_settled hr hs (hi r (Tile.op_of_doing hr))))

/-- What a row of a compute macro-op of opcode `n` does where one runs, and where none does. -/
theorem computeRow {x : TileIx} {c : Instr} {n : Nat} {s : State} {inputs : Running → List Nat} {body : State → Running → State}
    (hc : exec c s = .next (perform s x.val (isOp n) inputs {} body)) (hi : ∀ r : Running, r.op.op = n → inputs r ⊆ r.op.fields)
    (hb : ∀ r, Computes n x.val s (body s r)) :
    ((s.getTile x.val).doing (isOp n) = none → exec c s = .next s)
    ∧ ∀ u r, (s.getTile x.val).doing (isOp n) = some (u, r) → Settled (s.getTile x.val) r →
        Completes c s [.tile, .csr] fun t =>
          (∀ y, KMap.get none (s.getTile x.val).running u = some y → KMap.get none (t.getTile x.val).running u = some { y with done := true })
          ∧ Kept none [u] (s.getTile x.val).running (t.getTile x.val).running
          ∧ t.getTile x.val = { s.getTile x.val with
              sram := (t.getTile x.val).sram, running := (t.getTile x.val).running, acc := (t.getTile x.val).acc,
              accHeld := (t.getTile x.val).accHeld, stationary := (t.getTile x.val).stationary, masks := (t.getTile x.val).masks }
          ∧ (n ≠ opVec → (t.getTile x.val).masks = (s.getTile x.val).masks)
          ∧ (n ≠ opMatmul → n ≠ opAttn → n ≠ opTailorApply → (t.getTile x.val).acc = (s.getTile x.val).acc
              ∧ (t.getTile x.val).accHeld = (s.getTile x.val).accHeld ∧ (t.getTile x.val).stationary = (s.getTile x.val).stationary)
          ∧ Kept {} [x.val] s.tile t.tile ∧ RegsKept [RegName.tilArithSat.addr [x.val]] s t := by
  refine ⟨fun h => hc.trans (congrArg _ (perform_none h)), fun u r hr hs => ?_⟩
  obtain ⟨sram, acc, held, stationary, masks, step, hmasks, htensor⟩ := hb r
  have marked := step.markDone u
  refine marked.frame.completes (exec_settled hc hi hr hs) ?_
  rw [marked.tile]
  refine ⟨fun y hy => ?_, KMap.kept_set _ _ _ _, rfl, hmasks, htensor, marked.others, marked.frame.regsKept⟩
  exact (KMap.get_set_self ..).trans (congrArg _ hy)

theorem computeRows : Claims.ComputeRows := by
  intro x c n s hcn
  rcases hcn with ⟨rfl, rfl⟩ | ⟨rfl, rfl⟩ | ⟨rfl, rfl⟩ | ⟨rfl, rfl⟩ | ⟨rfl, rfl⟩ | ⟨rfl, rfl⟩ | ⟨rfl, rfl⟩ | ⟨rfl, rfl⟩
  · exact computeRow (exec_matmul x s) (fun _ => matmulInputs_subset) fun r => matmulBody_computes s x r
  · exact computeRow (exec_attn x s) (fun _ => attnInputs_subset) fun r => attnBody_computes s x r
  · exact computeRow rfl (fun _ h => by rw [MacroOp.fields_norm h]; simp) fun r => putTensor_computes s x r _ _ _
  · exact computeRow rfl (fun _ h => by rw [MacroOp.fields_act h]; simp) fun r => putTensor_computes s x r _ _ _
  · exact computeRow rfl (fun _ h => by rw [MacroOp.fields_softmax h]; simp) fun r => putTensor_computes s x r _ _ _
  · exact computeRow rfl (fun _ h => by rw [MacroOp.fields_requant h]; simp) fun r => putTensor_computes s x r _ _ _
  · exact computeRow rfl (fun _ => vecInputs_subset) fun r => vecBody_computes s x r
  · exact computeRow (exec_tailorApply x s) (fun _ => tailorInputs_subset) fun r => tailorBody_computes s x r

end Sys2Proof.Machine
end

section
/-! What the tensor engine computes (R81, R82, R109, R117, R118, R121). -/

namespace Sys2Proof.Machine

open Sys2Proof.Safety

/-! ### A tensor that is written, and a macro-op that is done -/

theorem fld_putTensor (s : State) (t : Nat) (r : Running) (b : Nat) (out : Counted (List (List Block))) :
    (putTensor s t r b out).fld .tilArithSat [t] 0 32 = satN 32 (s.fld .tilArithSat [t] 0 32 + out.sat) :=
  State.fld_addFld_self _ _ _ _ _ _ (by decide)

/-- The tensor engine's state after a macro-op, its tile otherwise as it was. -/
def engineState (s : State) (t : Nat) (r : Running) (acc : KMap Acc) (held : Bool) : State :=
  (newStationary s t r).modTile t fun x => { x with acc := acc, accHeld := held }

theorem engineState_step (s : State) (x : Nat) (r : Running) (acc : KMap Acc) (held : Bool) : EngineStep x s (engineState s x r acc held)
    { s.getTile x with acc := acc, accHeld := held, stationary := Config.stationary r.step x r.op.index } :=
  (EngineStep.refl.newStationary r).modTile _

/-- A macro-op that sets the tensor engine's state, writes its output and is done. -/
theorem wrote_engineState (s : State) (x u : Nat) (r : Running) (b : Nat) (acc : KMap Acc) (held : Bool) (out : List (Counted (List Block)))
    {t : State} (ht : t = markDone (putTensor (engineState s x r acc held) x r b (Counted.all out)) x u) :
    (t.getTile x).acc = acc ∧ (t.getTile x).accHeld = held ∧ Wrote s t x r b out := by
  have htile := (((engineState_step s x r acc held).putTensor r b (Counted.all out)).markDone u).tile
  have hsram : (t.getTile x).sram = writeTensor (s.getTile x).sram ((s.getTile x).descOf r b) (r.dataOf b) (out.map Counted.val) := by
    rw [ht, htile]
    rfl
  refine ⟨by rw [ht, htile], by rw [ht, htile], hsram, fun hfit a ha => ?_, ?_⟩
  · rw [hsram]
    exact get_writeTensor_outside _ hfit ha
  · rw [ht, fld_markDone, fld_putTensor]
    rfl

/-! ### MATMUL (R80 to R82, R109, R117) -/

/-- The accumulators that a row starts from, as MATMUL reads them. -/
theorem startRow_eq {X : Tile} {r : Running} (hm : r.op.f 78 3 ≤ 4) (i : Nat) :
    (if r.op.f 78 3 = 1 then accsOf ((if r.op.f 78 3 = 1 then X.tensor r 68 else []).getD i [])
      else if (r.op.f 78 3 = 3 ∨ r.op.f 78 3 = 4) ∧ X.accHeld then X.heldRow i (X.tensor r 58).length
      else List.replicate (X.tensor r 58).length {}) = startRow X r i := by
  have hmode : (r.op.f 78 3 = 3 ∨ r.op.f 78 3 = 4) ↔ 3 ≤ r.op.f 78 3 := by omega
  simp only [startRow, hmode]
  split <;> rfl

/-- What the engine holds when the rows that were applied are drained. -/
def drainedRows (X : Tile) (r : Running) : List (List Acc) :=
  (productRows X r).zipIdx.map fun e => if e.2 < liveRows X r then List.replicate (X.tensor r 58).length {} else e.1

/-- The lines of C that a draining MATMUL writes. -/
def drainedOut (X : Tile) (r : Running) : List (Counted (List Block)) :=
  (productRows X r).zipIdx.map fun e =>
    if e.2 < liveRows X r then drainRow r.op (X.descOf r 68).fmt e.1 else maskedRow r.op (X.descOf r 68).fmt (X.descOf r 68).blocks

theorem length_productRows (X : Tile) (r : Running) : (productRows X r).length = (X.tensor r 48).length := by simp [productRows]

theorem matmulBody_eq {s : State} {t : Nat} {r : Running} (hm : r.op.f 78 3 ≤ 4) : matmulBody s t r =
    if r.op.f 78 3 = 2 ∨ r.op.f 78 3 = 3 then engineState s t r (holdRows (productRows (s.getTile t) r)) true
    else putTensor (engineState s t r (holdRows (drainedRows (s.getTile t) r))
      (decide (liveRows (s.getTile t) r < (productRows (s.getTile t) r).length))) t r 68 (Counted.all (drainedOut (s.getTile t) r)) := by
  unfold matmulBody
  simp only [startRow_eq hm]
  rfl

/-- The modes that hold keep the accumulators and every byte (R109). -/
theorem matmul_holds (s : State) (x u : Nat) (r : Running) (acc : KMap Acc) {t : State} (ht : t = markDone (engineState s x r acc true) x u) :
    (t.getTile x).acc = acc ∧ (t.getTile x).accHeld = true ∧ (t.getTile x).sram = (s.getTile x).sram
      ∧ t.fld .tilArithSat [x] 0 32 = s.fld .tilArithSat [x] 0 32 := by
  have htile := ((engineState_step s x r acc true).markDone u).tile
  exact ⟨by rw [ht, htile], by rw [ht, htile], by rw [ht, htile], by rw [ht]; rfl⟩

/-! ### TAILOR_APPLY (R121) -/

/-- The lines that a TAILOR_APPLY writes: a row of tailor 0 stays as it is, any other is tailored. -/
def tailorOut (X : Tile) (r : Running) : List (Counted (List Block)) :=
  (((X.tensor r 48).zip (X.tensor r 68)).zip (readCounts X.sram (r.dataOf 78) (X.descOf r 48).rows)).zipIdx.map fun e =>
    if e.1.2 % 65536 = 0 then { val := e.1.1.2 }
    else tailorRow (tailorRows X.sram (r.dataOf 58 + e.2 * (X.descOf r 58).stride) (X.descOf r 48).cols)
      (tailorRows X.sram (r.dataOf 58 + e.2 * (X.descOf r 58).stride + 17 * (X.descOf r 48).cols) (X.descOf r 68).cols) e.1.1.1 e.1.1.2

theorem tailorBody_eq (s : State) (t : Nat) (r : Running) :
    tailorBody s t r = putTensor (engineState s t r [] false) t r 68 (Counted.all (tailorOut (s.getTile t) r)) := rfl

theorem length_tensor (X : Tile) (r : Running) (b : Nat) : (X.tensor r b).length = (X.descOf r b).lines := by simp [Tile.tensor, readTensor]

theorem length_readCounts (m : Memory) (data n : Nat) : (readCounts m data n).length = n := by simp [readCounts]

/-- Rows of tailor 0 pass through. -/
theorem tailorOut_zero {X : Tile} {r : Running} (h0 : ∀ i ∈ readCounts X.sram (r.dataOf 78) (X.descOf r 48).rows, i % 65536 = 0)
    (hl : (X.descOf r 48).lines = (X.descOf r 68).lines) (hr : (X.descOf r 48).rows = (X.descOf r 48).lines) :
    tailorOut X r = (X.tensor r 68).map fun y => { val := y } := by
  have hx := length_tensor X r 48
  have hy := length_tensor X r 68
  have hi := length_readCounts X.sram (r.dataOf 78) (X.descOf r 48).rows
  unfold tailorOut
  generalize readCounts X.sram (r.dataOf 78) (X.descOf r 48).rows = ids at *
  refine List.ext_getElem (by simp; omega) fun i h1 h2 => ?_
  simp only [List.getElem_map, List.getElem_zipIdx, List.getElem_zip]
  rw [if_pos (h0 _ (List.getElem_mem _))]

/-- One row of a tailor that is not 0. -/
theorem tailorOut_one {X : Tile} {r : Running} (hr : (X.descOf r 48).rows = 1) (ha : (X.descOf r 48).axis = false)
    (hy : (X.descOf r 68).lines = 1) (hid : leNat (X.sram.read (r.dataOf 78) 4) % 65536 ≠ 0) :
    tailorOut X r = [tailorRow (tailorRows X.sram (r.dataOf 58) (X.descOf r 48).cols)
      (tailorRows X.sram (r.dataOf 58 + 17 * (X.descOf r 48).cols) (X.descOf r 68).cols)
      (readLine X.sram (X.descOf r 48) (r.dataOf 48) 0) (readLine X.sram (X.descOf r 68) (r.dataOf 68) 0)] := by
  have hx : (X.descOf r 48).lines = 1 := by rw [Desc.lines, ha]; exact hr
  have hone : List.range 1 = [0] := rfl
  simp only [tailorOut, Tile.tensor, readTensor, readCounts, hr, hx, hy, hone, List.map_cons, List.map_nil, List.zip_cons_cons, List.zip_nil_left,
    List.zipIdx_cons, List.zipIdx_nil, Nat.mul_zero, Nat.zero_mul, Nat.add_zero]
  rw [if_neg hid]

/-! ### The results -/

theorem tensorEngineResults : Claims.TensorEngineResults := by
  rintro x u r s t X rfl
  refine ⟨fun hd hs ht hm => ?matmul, fun hd hs ht => ?attn, fun hd hs ht => ?tailor⟩
  case matmul =>
    have hdone : t = markDone (matmulBody s x.val r) x.val u :=
      Host.Outcome.next.inj (ht.symm.trans (exec_settled (exec_matmul x s) (fun _ => matmulInputs_subset) hd hs))
    rw [matmulBody_eq hm] at hdone
    refine ⟨fun hhold => ?_, fun hdrain => ?_⟩
    · rw [if_pos hhold] at hdone
      exact matmul_holds s x.val u r _ hdone
    · rw [if_neg (by omega), length_productRows] at hdone
      exact wrote_engineState s x.val u r 68 _ _ _ hdone
  case attn =>
    have hdone : t = markDone (attnBody s x.val r) x.val u :=
      Host.Outcome.next.inj (ht.symm.trans (exec_settled (exec_attn x s) (fun _ => attnInputs_subset) hd hs))
    exact wrote_engineState s x.val u r 78 _ _ _ hdone
  case tailor =>
    have hdone : t = markDone (tailorBody s x.val r) x.val u :=
      Host.Outcome.next.inj (ht.symm.trans (exec_settled (exec_tailorApply x s) (fun _ => tailorInputs_subset) hd hs))
    rw [tailorBody_eq] at hdone
    obtain ⟨-, -, hwrote⟩ := wrote_engineState s x.val u r 68 _ _ _ hdone
    exact ⟨fun h0 hl hr => tailorOut_zero h0 hl hr ▸ hwrote, fun hr ha hy hid => tailorOut_one hr ha hy hid ▸ hwrote⟩

/-- Settles O27: by the one step that every compute row takes, and by the state in which the tensor engine's macro-ops write. -/
theorem tensorEngine : Obligations.TensorEngine := ⟨computeRows, tensorEngineResults⟩

end Sys2Proof.Machine
end

section
/-! PREEMPT and the drain (R149, R280, R281, R309): how a save begins, and how it ends where the drain takes too long. -/

namespace Sys2Proof.Machine

open Sys2Proof.Safety

/-- A frame that names more parts. -/
theorem Frame.widen {ps qs : List Part} {as : Nat → Prop} {s t : State} (h : Frame ps as s t) (hp : ps ⊆ qs) : Frame qs as s t :=
  h.mono hp fun _ x => x

/-! ### A family without some of its keys -/

/-- A key that no entry of a family reaches holds the default. -/
theorem KMap.get_of_allAbove {α : Type} (d : α) {m : KMap α} {a b : Nat} (h : KMap.AllAbove b m) (hab : a ≤ b) : KMap.get d m a = d := by
  cases m with
  | nil => rfl
  | cons e r =>
    have he : b < e.1 := h e (List.mem_cons_self ..)
    rw [KMap.get, if_neg (by omega), if_pos (by omega)]

theorem KMap.get_drop {α : Type} (d : α) {m : KMap α} (h : Rising m) (p : Nat → Bool) (a : Nat) :
    KMap.get d (KMap.drop m p) a = if p a then d else KMap.get d m a := by
  induction m with
  | nil => simp [KMap.drop, KMap.get]
  | cons e r ih =>
    obtain ⟨k, v⟩ := e
    have ih := ih (List.pairwise_cons.1 h).2
    have hlow : a < k → KMap.get d r a = d := fun hak => KMap.get_of_allAbove d (AllAbove.of_rising h) (Nat.le_of_lt hak)
    by_cases hk : p k = true
    · rw [show KMap.drop ((k, v) :: r) p = KMap.drop r p from List.filter_cons_of_neg (by simpa using hk), ih, KMap.get]
      grind
    · rw [show KMap.drop ((k, v) :: r) p = (k, v) :: KMap.drop r p from List.filter_cons_of_pos (by simpa using hk), KMap.get, KMap.get, ih]
      grind

/-! ### A Cloakroom command that is taken (R289) -/

theorem cloCmd_taken {s : State} {conds : List (Bool × Status)} {act : State → State} (ha : s.absent srcClo = false) (ho : s.cloOp = none)
    (hc : firstOf conds = none) : cloCmd s conds act = act s := by
  rw [cloCmd, onBlock_present ha]
  simp [ho, hc]

theorem ctxConds_owner {s : State} {acc : Accessor} (hl : s.live s.cloId = true) (ho : s.owns acc s.cloId.slot = true) :
    s.ctxConds acc = [(false, .stale), (false, .denied)] := by
  rw [State.ctxConds, hl, ho]
  rfl

/-! ### PREEMPT (R280) -/

/-- PREEMPT of an open context whose partition entry is not PREPARED starts. -/
theorem exec_preempt_starts {s : State} {acc : Accessor} {k : Nat} (h : CloTakes s acc k) (hd : s.cloA1 ≤ 10000000)
    (hst : (s.getCtx k).state = .opened) (hp : (s.getCtx k).part.state ≠ .prepared) :
    exec (.preempt acc) s = .next (startPreempt { s with cloOp := some (.preempt k) } k s.cloA1) := by
  obtain ⟨ha, hop, hl, ho, rfl⟩ := h
  refine congrArg Host.Outcome.next (cloCmd_taken ha hop ?_)
  rw [ctxConds_owner hl ho]
  simp [hst, beq_false_of_ne hp, Nat.not_lt.2 hd]

/-- The routes of a context are gone, and every other route stays (R309). -/
theorem dropRoutes_route {s : State} (k : Nat) (h : Rising s.net.routes) (i : Nat) :
    KMap.get 0 (s.dropRoutes k).net.routes i = if i % 8192 / 256 = k then 0 else KMap.get 0 s.net.routes i := by
  rw [State.dropRoutes, KMap.get_drop 0 h]
  simp only [beq_iff_eq]

section
variable (s : State) (k : Nat)

theorem enterSaving_frame : Frame [.ctx, .net] (fun _ => False) s (enterSaving s k) :=
  State.modPart_frame (State.modCtx_frame (State.dropRoutes_frame Frame.refl (by decide)) (by decide)) (by decide)

theorem enterSaving_getCtx : (enterSaving s k).getCtx k = { s.getCtx k with
    state := .saving, drainFrom := s.mtN, drained := false,
    part := { (s.getCtx k).part with preUntil := none, preempt := none, go := false } } := by
  rw [enterSaving, State.getCtx_modPart_self, State.getCtx_modCtx_self]
  rfl

theorem enterSaving_getCtx_ne {j : Nat} (h : j ≠ k) : (enterSaving s k).getCtx j = s.getCtx j := by
  rw [enterSaving, State.modPart, State.getCtx_modCtx_ne _ _ _ _ h, State.getCtx_modCtx_ne _ _ _ _ h]
  rfl

/-- The stop of a plan that runs on one chip stands one cycle on. -/
def standStop : State :=
  (s.modCtx k fun c => { c with preemptP := (s.getCtx k).plan.pcy + 1 }).modPlan k
    fun x => { x with stopP := some ((s.getCtx k).plan.pcy + 1).toNat }

theorem standStop_frame : Frame [.ctx] (fun _ => False) s (standStop s k) :=
  State.modPlan_frame (State.modCtx_frame Frame.refl (by decide)) (by decide)

theorem standStop_getCtx : (standStop s k).getCtx k = { s.getCtx k with
    preemptP := (s.getCtx k).plan.pcy + 1, plan := { (s.getCtx k).plan with stopP := some ((s.getCtx k).plan.pcy + 1).toNat } } := by
  rw [standStop, State.getCtx_modPlan_self, State.getCtx_modCtx_self]

theorem standStop_getCtx_ne {j : Nat} (h : j ≠ k) : (standStop s k).getCtx j = s.getCtx j := by
  rw [standStop, State.getCtx_modPlan_ne _ _ _ _ h, State.getCtx_modCtx_ne _ _ _ _ h]

variable {s k}

theorem startPreempt_inactive (d : Nat) (h : (s.getCtx k).plan.active = false) : startPreempt s k d = enterSaving s k := by
  simp [startPreempt, h]

theorem startPreempt_single (d : Nat) (h : (s.getCtx k).plan.active = true) (hm : (s.getCtx k).part.multi = false) :
    startPreempt s k d = standStop s k := by
  simp [startPreempt, h, hm, standStop]

end

/-- PREEMPT of a context whose plan is IDLE or ENDED saves it at once, and ends its routes (R280, R309). -/
theorem preempt_inactive {s : State} {acc : Accessor} {k : Nat} {c : Ctx} (hc : c = s.getCtx k) (h : CloTakes s acc k) (hd : s.cloA1 ≤ 10000000)
    (hst : c.state = .opened) (hp : c.part.state ≠ .prepared) (ha : c.plan.active = false) :
    Completes (.preempt acc) s [.ctx, .cloOp, .net] fun t =>
      t.cloOp = some (.preempt k) ∧ t.getCtx k = { c with
        state := .saving, drainFrom := s.mtN, drained := false, part := { c.part with preUntil := none, preempt := none, go := false } }
      ∧ Kept {} [k] s.ctx t.ctx ∧ t.net = { s.net with routes := t.net.routes }
      ∧ (Rising s.net.routes → ∀ i, KMap.get 0 t.net.routes i = if i % 8192 / 256 = k then 0 else KMap.get 0 s.net.routes i) := by
  subst hc
  let s1 : State := { s with cloOp := some (.preempt k) }
  have start : Frame [.ctx, .cloOp, .net] (fun _ => False) s s1 := Frame.cloOp Frame.refl (by decide)
  refine (start.trans ((enterSaving_frame s1 k).widen (by decide))).completes
    ((exec_preempt_starts h hd hst hp).trans (congrArg _ (startPreempt_inactive _ ha)))
    ⟨rfl, enterSaving_getCtx s1 k, fun j hj => ?_, rfl, fun hr i => ?_⟩
  · exact enterSaving_getCtx_ne s1 k fun e => hj (List.mem_singleton.2 e)
  · exact dropRoutes_route k hr i

/-- PREEMPT of a context whose plan runs on this chip alone stands a stop at PCY + 1 (R280). -/
theorem preempt_single {s : State} {acc : Accessor} {k : Nat} {c : Ctx} (hc : c = s.getCtx k) (h : CloTakes s acc k) (hd : s.cloA1 ≤ 10000000)
    (hst : c.state = .opened) (hp : c.part.state ≠ .prepared) (ha : c.plan.active = true) (hm : c.part.multi = false) :
    Completes (.preempt acc) s [.ctx, .cloOp] fun t =>
      t.cloOp = some (.preempt k)
      ∧ t.getCtx k = { c with preemptP := c.plan.pcy + 1, plan := { c.plan with stopP := some (c.plan.pcy + 1).toNat } }
      ∧ Kept {} [k] s.ctx t.ctx := by
  subst hc
  let s1 : State := { s with cloOp := some (.preempt k) }
  have start : Frame [.ctx, .cloOp] (fun _ => False) s s1 := Frame.cloOp Frame.refl (by decide)
  refine (start.trans ((standStop_frame s1 k).widen (by decide))).completes
    ((exec_preempt_starts h hd hst hp).trans (congrArg _ (startPreempt_single _ ha hm))) ⟨rfl, standStop_getCtx s1 k, fun j hj => ?_⟩
  exact standStop_getCtx_ne s1 k fun e => hj (List.mem_singleton.2 e)

/-! ### The drain (R149, R281) -/

/-- A command that has ended reads its status and DONE. -/
theorem State.finish_status8 (s : State) (n : RegName) (ix : List Nat) (st : Status) : Status8 (s.finish n ix st) n ix st.code := by
  obtain ⟨hcode, hdone⟩ := State.finish_status s n ix st
  exact ⟨hcode, by rw [State.bit_eq_fld, hdone]; rfl⟩

/-- The drain of a context has ended. -/
theorem exec_saveDrainEnd_ends {s : State} {k : CtxSlot} (hst : (s.getCtx k.val).state = .saving) (hd : (s.getCtx k.val).drained = false)
    (h : s.drainDone k.val = true) : exec (.saveDrainEnd k) s = .next (s.modCtx k.val fun c => { c with drained := true }) :=
  if_pos ⟨hst, by simp [hd], h⟩

theorem exec_saveDrainEnd_waits {s : State} {k : CtxSlot} (h : s.drainDone k.val = false) : exec (.saveDrainEnd k) s = .next s :=
  if_neg fun x => Bool.false_ne_true (h ▸ x.2.2)

theorem exec_preemptTimeout_waits {s : State} {k : CtxSlot} (h : s.mtN < (s.getCtx k.val).drainFrom + s.drainLimit) :
    exec (.preemptTimeout k) s = .next s :=
  if_neg fun x => Nat.not_lt.2 x.2.2 h

theorem exec_preemptTimeout_ends {s : State} {k : CtxSlot} (hst : (s.getCtx k.val).state = .saving) (hd : (s.getCtx k.val).drained = false)
    (h : (s.getCtx k.val).drainFrom + s.drainLimit ≤ s.mtN) : exec (.preemptTimeout k) s =
      .next ((against (s.dropCloOp k.val .timeout) .preemptTimeout srcClo k.val).modCtx k.val fun x => { x with state := .opened }) :=
  if_pos ⟨hst, by simp [hd], h⟩

/-- The PREEMPT that waits for a context ends with a status. -/
theorem dropCloOp_preempt {s : State} {k : Nat} (st : Status) (h : s.cloOp = some (.preempt k)) :
    s.dropCloOp k st = { s.finish .cloCmdStatus [] st with cloOp := none } := by
  simp [State.dropCloOp, h]

end Sys2Proof.Machine
end

section
/-! The save area in its frames (R282): what a write to a frame does to a byte of a frame, and the bytes that a tile's record leaves there. -/

namespace Sys2Proof.Machine

open Sys2Proof.Safety

theorem onlyChanges_freeCtr {s : State} {n : Nat} : OnlyChanges [.freeCtr] s { s with freeCtr := n } :=
  ⟨rfl, fun p hp => by cases p <;> simp_all [Part.same]⟩

/-! ### Free bytes (log entry 8) -/

@[simp] theorem length_drawBytes (s : State) (n : Nat) : (s.drawBytes n).1.length = n := by
  induction n generalizing s with
  | zero => rfl
  | succ n ih => rw [State.drawBytes, List.length_cons, ih]

theorem drawBytes_state (s : State) (n : Nat) : (s.drawBytes n).2 = { s with freeCtr := s.freeCtr + n } := by
  induction n generalizing s with
  | zero => rfl
  | succ n ih =>
    rw [State.drawBytes, ih, State.draw]
    simp [Nat.add_assoc, Nat.add_comm 1 n]

theorem fillFree_eq (s : State) (f : FrameId) (off n : Nat) :
    fillFree s f off n = State.frameWrite { s with freeCtr := s.freeCtr + n } f off (s.drawBytes n).1 := by
  rw [← drawBytes_state]
  rfl

theorem fillFree_frame {ps : List Part} {as : Nat → Prop} {s0 s : State} (h : Frame ps as s0 s) {f : FrameId} {off n : Nat}
    (hp : [.hbm, .cxl, .freeCtr] ⊆ ps) : Frame ps as s0 (fillFree s f off n) := by
  rw [fillFree_eq]
  have drawn : Frame ps as s0 { s with freeCtr := s.freeCtr + n } := h.part onlyChanges_freeCtr (hp (by simp)) rfl
  exact State.frameWrite_frame drawn (List.Subset.trans (by decide) hp)

/-! ### A byte of a frame -/

/-- The byte of a frame at an offset. -/
def State.frameByte (s : State) (f : FrameId) (off : Nat) : Byte := (s.frameMem f).get (f.frame * pageBytes + off)

theorem frameRead_one (s : State) (f : FrameId) (off : Nat) : s.frameRead f off 1 = [s.frameByte f off] := by
  cases hf : f.cxl <;> simp [State.frameRead, State.frameByte, State.frameMem, hf, Memory.read]

theorem frameByte_congr {s t : State} (hh : t.hbm = s.hbm) (hx : t.cxl = s.cxl) (f : FrameId) (off : Nat) : t.frameByte f off = s.frameByte f off := by
  simp only [State.frameByte, State.frameMem, State.getHbm, State.getCxl, hh, hx]

theorem frameMem_frameWrite_self (s : State) (f : FrameId) (off : Nat) (bs : List Byte) :
    (s.frameWrite f off bs).frameMem f = (s.frameMem f).write (f.frame * pageBytes + off) bs := by
  cases hf : f.cxl <;> simp [State.frameWrite, State.frameMem, hf]

/-- A write to a frame of another stack or port leaves a frame's memory alone; a frame beside it shares the memory. -/
theorem frameMem_frameWrite (s : State) (f g : FrameId) (off : Nat) (bs : List Byte) : (s.frameWrite g off bs).frameMem f =
    if f.cxl = g.cxl ∧ f.unit = g.unit then (s.frameMem f).write (g.frame * pageBytes + off) bs else s.frameMem f := by
  split
  · next h =>
    obtain ⟨hc, hu⟩ := h
    cases hg : g.cxl <;> simp [State.frameWrite, State.frameMem, hc, hu, hg]
  · next h =>
    have hu : f.cxl = g.cxl → f.unit ≠ g.unit := fun hc hu => h ⟨hc, hu⟩
    cases hg : g.cxl <;> cases hf : f.cxl <;>
      simp_all [State.frameWrite, State.frameMem, State.getHbm_modHbm_ne, State.getCxl_modCxl_ne]

section
variable {s : State} {f g : FrameId} {off o : Nat} {bs : List Byte}

/-- A write that stays in its frame leaves every other frame alone. -/
theorem frameByte_frameWrite_ne (hfg : f ≠ g) (hoff : off < pageBytes) (ho : o + bs.length ≤ pageBytes) :
    (s.frameWrite g o bs).frameByte f off = s.frameByte f off := by
  rw [State.frameByte, frameMem_frameWrite]
  split
  · next h =>
    obtain ⟨hc, hu⟩ := h
    have hframe : f.frame ≠ g.frame := fun hr => hfg (by cases f; cases g; simp_all)
    refine Memory.get_write_out _ _ _ _ ?_
    simp only [pageBytes] at hoff ho ⊢
    omega
  · rfl

theorem frameByte_frameWrite_beside (h : off < o ∨ o + bs.length ≤ off) : (s.frameWrite f o bs).frameByte f off = s.frameByte f off := by
  rw [State.frameByte, frameMem_frameWrite_self, Memory.get_write_out _ _ _ _ (by omega), State.frameByte]

theorem frameByte_frameWrite_in {i : Nat} (h : i < bs.length) : (s.frameWrite f o bs).frameByte f (o + i) = bs[i] := by
  rw [State.frameByte, frameMem_frameWrite_self, ← Nat.add_assoc, Memory.get_write_in _ _ _ _ h]

theorem frameByte_fillFree_ne {n : Nat} (hfg : f ≠ g) (hoff : off < pageBytes) (ho : o + n ≤ pageBytes) :
    (fillFree s g o n).frameByte f off = s.frameByte f off := by
  rw [fillFree_eq, frameByte_frameWrite_ne hfg hoff (by simpa using ho)]
  rfl

theorem frameByte_fillFree_before {n : Nat} (h : off < o) : (fillFree s f o n).frameByte f off = s.frameByte f off := by
  rw [fillFree_eq, frameByte_frameWrite_beside (Or.inl h)]
  rfl

end

/-! ### The parts of a tile record (R282) -/

@[simp] theorem length_padTo {α : Type} (l : List α) (n : Nat) (d : α) : (padTo l n d).length = n := by
  simp only [padTo, List.length_take, List.length_append, List.length_replicate]
  omega

/-- The parts of a tile record after its SRAM and its descriptors. -/
def Tile.recordTail (x : Tile) : List (Nat × List Byte) := x.record.drop 2

theorem Tile.record_eq (x : Tile) :
    x.record = (0, x.sram.read 0 0x180000) :: (0x180000, x.desc.read 0 0x8000) :: x.recordTail := rfl

theorem length_masks (m : KMap Word) : ((List.range 8).flatMap fun i => leBytes 8 (KMap.get 0 m i).toNat).length = 64 := by
  rw [length_flatMap_of_length fun _ _ => length_leBytes 8 _, List.length_range]

theorem length_accs (m : KMap Acc) : ((List.range 16384).flatMap fun i => (KMap.get {} m i).bytes).length = 16384 * 16 := by
  rw [length_flatMap_of_length (n := 16) fun _ _ => by simp [Acc.bytes], List.length_range]

/-- Those parts lie between the descriptors and the end of the page. -/
theorem Tile.recordTail_spans (x : Tile) : ∀ p ∈ x.recordTail, 0x188000 ≤ p.1 ∧ p.1 + p.2.length ≤ pageBytes := by
  intro p hp
  simp only [Tile.recordTail, Tile.record, List.drop_succ_cons, List.drop_zero, List.mem_cons, List.not_mem_nil, or_false] at hp
  rcases hp with rfl | rfl | rfl | rfl <;>
    simp only [List.length_append, length_padTo, length_masks, length_accs, pageBytes] <;> omega

/-- Every part lies in the page. -/
theorem Tile.record_spans (x : Tile) : ∀ p ∈ x.record, p.1 + p.2.length ≤ pageBytes := by
  intro p hp
  rw [Tile.record_eq, List.mem_cons, List.mem_cons] at hp
  rcases hp with rfl | rfl | hp
  · simp [pageBytes]
  · simp [pageBytes]
  · exact (x.recordTail_spans p hp).2

/-! ### A tile record written -/

theorem saveRecord_frame {ps : List Part} {as : Nat → Prop} {s0 s : State} (h : Frame ps as s0 s) {f : FrameId} {x : Tile}
    (hp : [.hbm, .cxl, .freeCtr] ⊆ ps) : Frame ps as s0 (saveRecord s f x) :=
  fillFree_frame (fillFree_frame (State.each_frame h fun _ _ _ ht =>
    State.frameWrite_frame ht (List.Subset.trans (by decide) hp)) hp) hp

section
variable {s : State} {f g : FrameId} {x : Tile} {off : Nat}

theorem saveRecord_frameByte_ne (hfg : f ≠ g) (hoff : off < pageBytes) : (saveRecord s g x).frameByte f off = s.frameByte f off := by
  rw [saveRecord, frameByte_fillFree_ne hfg hoff (by decide), frameByte_fillFree_ne hfg hoff (by decide)]
  exact State.each_never (fun t => t.frameByte f off) fun p hp t => frameByte_frameWrite_ne hfg hoff (x.record_spans p hp)

/-- What lies before the parts after SRAM and descriptors is as the first two parts leave it. -/
theorem saveRecord_frameByte (hoff : off < 0x188000) : (saveRecord s f x).frameByte f off =
    ((s.frameWrite f 0 (x.sram.read 0 0x180000)).frameWrite f 0x180000 (x.desc.read 0 0x8000)).frameByte f off := by
  rw [saveRecord, frameByte_fillFree_before (by omega), frameByte_fillFree_before (by omega), Tile.record_eq, State.each_cons, State.each_cons]
  exact State.each_never (fun t => t.frameByte f off) fun p hp t =>
    frameByte_frameWrite_beside (Or.inl (Nat.lt_of_lt_of_le hoff (x.recordTail_spans p hp).1))

end

theorem Memory.getElem_read {m : Memory} {a n i : Nat} (h : i < (Memory.read m a n).length) : (Memory.read m a n)[i] = m.get (a + i) := by
  induction n generalizing a i with
  | zero => exact absurd h (Nat.not_lt_zero i)
  | succ n ih =>
    cases i with
    | zero => rfl
    | succ i => exact (ih (a := a + 1) (Nat.lt_of_succ_lt_succ h)).trans (by rw [Nat.add_assoc, Nat.add_comm 1 i])

/-- A frame holds a tile's SRAM from its start on and the descriptors behind it (R282). -/
def State.Records (s : State) (f : FrameId) (x : Tile) : Prop :=
  (∀ off, off < 0x180000 → s.frameByte f off = x.sram.get off) ∧ ∀ off, off < 0x8000 → s.frameByte f (0x180000 + off) = x.desc.get off

theorem saveRecord_records (s : State) (f : FrameId) (x : Tile) : (saveRecord s f x).Records f x := by
  refine ⟨fun off h => ?sram, fun off h => ?desc⟩
  case sram =>
    rw [saveRecord_frameByte (by omega), frameByte_frameWrite_beside (Or.inl h)]
    have hl : off < (x.sram.read 0 0x180000).length := by rwa [Memory.length_read]
    have hw := frameByte_frameWrite_in (s := s) (f := f) (o := 0) hl
    rwa [Nat.zero_add, Memory.getElem_read, Nat.zero_add] at hw
  case desc =>
    have hl : off < (x.desc.read 0 0x8000).length := by rwa [Memory.length_read]
    rw [saveRecord_frameByte (by omega), frameByte_frameWrite_in hl, Memory.getElem_read, Nat.zero_add]

theorem State.Records.congr {s t : State} {f : FrameId} {x : Tile} (h : s.Records f x)
    (hb : ∀ off, off < pageBytes → t.frameByte f off = s.frameByte f off) : t.Records f x :=
  ⟨fun off ho => (hb off (Nat.lt_trans ho (by decide))).trans (h.1 off ho),
    fun off ho => (hb _ (by simp only [pageBytes]; omega)).trans (h.2 off ho)⟩

/-! ### The save area in its frames -/

/-- The records of a context's tiles in its save frames. -/
def saveTiles (s : State) (ts : List Nat) (fs : List FrameId) : State := s.each (ts.zip fs) fun s e => saveRecord s e.2 (s.getTile e.1)

theorem saveFrames_eq (s : State) (k : Nat) : saveFrames s k =
    (saveTiles s (s.getCtx k).tiles (s.getCtx k).saveFr).each (s.getCtx k).header fun s f => fillFree s f 0 pageBytes := rfl

theorem saveFrames_frame (s : State) (k : Nat) : Frame [.hbm, .cxl, .freeCtr] (fun _ => False) s (saveFrames s k) :=
  State.each_frame (State.each_frame Frame.refl fun _ _ _ ht => saveRecord_frame ht fun _ x => x) fun _ _ _ ht => fillFree_frame ht fun _ x => x

theorem saveTiles_cons (s : State) (t : Nat) (ts : List Nat) (g : FrameId) (fs : List FrameId) :
    saveTiles s (t :: ts) (g :: fs) = saveTiles (saveRecord s g (s.getTile t)) ts fs :=
  State.each_cons s (t, g) (ts.zip fs) _

theorem saveTiles_frameByte_ne {s : State} {ts : List Nat} {fs : List FrameId} {f : FrameId} {off : Nat} (hf : f ∉ fs) (hoff : off < pageBytes) :
    (saveTiles s ts fs).frameByte f off = s.frameByte f off :=
  State.each_never (fun t => t.frameByte f off) fun _ he _ => saveRecord_frameByte_ne (fun h => hf (h ▸ (List.of_mem_zip he).2)) hoff

/-- Each tile's record stands in its own save frame. -/
theorem saveTiles_records {ts : List Nat} {fs : List FrameId} (hn : fs.Nodup) (s : State) {i x : Nat} {f : FrameId} (hx : ts[i]? = some x)
    (hf : fs[i]? = some f) : (saveTiles s ts fs).Records f (s.getTile x) := by
  induction ts generalizing fs s i with
  | nil => simp at hx
  | cons t ts ih =>
    cases fs with
    | nil => simp at hf
    | cons g fs =>
      obtain ⟨hg, hn⟩ := List.nodup_cons.1 hn
      have first : Frame [.hbm, .cxl, .freeCtr] (fun _ => False) s (saveRecord s g (s.getTile t)) := saveRecord_frame Frame.refl fun _ x => x
      rw [saveTiles_cons]
      cases i with
      | zero =>
        obtain rfl : t = x := by simpa using hx
        obtain rfl : g = f := by simpa using hf
        exact (saveRecord_records s g (s.getTile t)).congr fun off ho => saveTiles_frameByte_ne hg ho
      | succ i =>
        rw [← State.getTile_congr (first.same .tile (by decide)) x]
        exact ih hn _ (by simpa using hx) (by simpa using hf)

/-- The header frames are not those of the records. -/
theorem saveFrames_records {s : State} {k i x : Nat} {f : FrameId} (hn : (s.getCtx k).saveFr.Nodup) (hh : f ∉ (s.getCtx k).header)
    (hx : (s.getCtx k).tiles[i]? = some x) (hf : (s.getCtx k).saveFr[i]? = some f) : (saveFrames s k).Records f (s.getTile x) := by
  rw [saveFrames_eq]
  refine (saveTiles_records hn s hx hf).congr fun off ho => ?_
  exact State.each_never (fun t => t.frameByte f off) fun g hg _ =>
    frameByte_fillFree_ne (fun h => hh (h ▸ hg)) ho (Nat.le_of_eq (Nat.zero_add _))

end Sys2Proof.Machine
end

section
/-! The save of a context (R149, R150, R281, R282, R309, R357): what SAVE_COMPLETE leaves of its tiles, groups, links and partition entry. -/

namespace Sys2Proof.Machine

open Sys2Proof.Safety

/-! ### The steps of a save -/

/-- The save area stands in its frames, the watches have ended BUSY and the claims are gone. -/
def withdraw (s : State) (k : Nat) : State := ((saveFrames s k).endWatches k .busy true).dropClaims k

/-- The tiles return, but BAD ones, which stay with the context unmapped. -/
def returnTiles (s : State) (k : Nat) : State := s.each (s.getCtx k).tiles.zipIdx fun s e => s.saveTile k e.2 e.1

/-- The groups return. -/
def returnGroups (s : State) (k : Nat) : State := s.each (List.range 4) fun s v => s.dropGroups v (s.groupsOf k v)

/-- The links hold nothing of the context any more. -/
def emptyLinks (s : State) (ls : List Nat) : State :=
  s.each ls fun s l => s.modLink l fun x => { x with buf := [], tree := [], rxFrames := [], rxWait := [] }

/-- A partition entry once its context is saved (R357). -/
def PartEntry.suspend (e : PartEntry) : PartEntry := if e.state = .committed ∨ e.state = .joined then e.rejoin.leave .suspended else e

theorem PartEntry.suspend_state {e : PartEntry} (h : e.state = .committed ∨ e.state = .joined) : e.suspend.state = .suspended := by
  rw [PartEntry.suspend, if_pos h, PartEntry.leave]

/-- A context SAVED in an area. -/
def Ctx.saved (c : Ctx) (area : SaveArea) : Ctx :=
  { c with state := .saved, drained := false, save := some area, saveDead := false, tiles := [], links := [],
           plan := { c.plan with stopP := none } }

def markSaved (s : State) (k : Nat) (area : SaveArea) : State := (s.modCtx k fun c => c.saved area).modPart k PartEntry.suspend

theorem saveCtx_eq (s : State) (k : Nat) : saveCtx s k =
    markSaved (emptyLinks (returnGroups (returnTiles (withdraw s k) k) k) (s.saveArea k).links) k (s.saveArea k) := rfl

/-! ### Their frames -/

theorem endWatches_frame {ps : List Part} {as : Nat → Prop} {s0 s : State} (h : Frame ps as s0 s) {k : Nat} {st : Status} {suspended : Bool}
    (hp : [.csr, .out] ⊆ ps) (ht : ∀ t w, as (RegName.tilSyncWatch.addr [t, w])) (hw : ∀ w, as (RegName.mgtFlagWatch.addr [w])) :
    Frame ps as s0 (s.endWatches k st suspended) :=
  State.each_frame (State.each_frame h fun t _ _ hs => State.each_frame hs fun w _ _ hu => State.endSyncWatch_frame hu (hp (by simp)) (ht t w))
    fun w _ _ hs => State.endFlagWatch_frame hs hp (hw w)

/-- A tile that returns, or that stays with the context as a BAD one. -/
theorem saveTile_frame {ps : List Part} {as : Nat → Prop} {s0 s : State} (h : Frame ps as s0 s) {k vt t : Nat} (hp : [.ctx, .tile] ⊆ ps) :
    Frame ps as s0 (s.saveTile k vt t) := by
  unfold State.saveTile
  split
  · exact State.modCtx_frame h (hp (by simp))
  · exact State.modTile_frame h (hp (by simp))

section
variable (s : State) (k : Nat)

/-- Until the claims go, only memories, registers and the outputs change. -/
theorem endWatches_saveFrames_frame :
    Frame [.hbm, .cxl, .freeCtr, .csr, .out] (fun _ => True) s ((saveFrames s k).endWatches k .busy true) :=
  endWatches_frame ((saveFrames_frame s k).mono (by decide) fun _ _ => trivial) (by decide) (fun _ _ => trivial) fun _ => trivial

theorem withdraw_frame : Frame [.hbm, .cxl, .freeCtr, .csr, .out, .net] (fun _ => True) s (withdraw s k) :=
  State.dropClaims_frame ((endWatches_saveFrames_frame s k).widen (by decide)) (by decide)

theorem returnTiles_frame : Frame [.ctx, .tile] (fun _ => False) s (returnTiles s k) :=
  State.each_frame Frame.refl fun _ _ _ ht => saveTile_frame ht fun _ x => x

theorem returnGroups_frame : Frame [.vault] (fun _ => False) s (returnGroups s k) :=
  State.each_frame Frame.refl fun _ _ _ ht => State.each_frame ht fun _ _ _ hu => State.modVault_frame hu (by decide)

theorem emptyLinks_frame (ls : List Nat) : Frame [.link] (fun _ => False) s (emptyLinks s ls) :=
  State.each_frame Frame.refl fun _ _ _ ht => State.modLink_frame ht (by decide)

theorem markSaved_frame (area : SaveArea) : Frame [.ctx] (fun _ => False) s (markSaved s k area) :=
  State.modPart_frame (State.modCtx_frame Frame.refl (by decide)) (by decide)

theorem markSaved_getCtx (area : SaveArea) :
    (markSaved s k area).getCtx k = { (s.getCtx k).saved area with part := (s.getCtx k).part.suspend } := by
  rw [markSaved, State.getCtx_modPart_self, State.getCtx_modCtx_self]
  rfl

/-- From the return of the groups on. -/
theorem closeSave_frame (area : SaveArea) :
    Frame [.vault, .link, .ctx] (fun _ => False) s (markSaved (emptyLinks (returnGroups s k) area.links) k area) :=
  (((returnGroups_frame s k).widen (by decide)).trans ((emptyLinks_frame _ _).widen (by decide))).trans
    ((markSaved_frame _ k area).widen (by decide))

/-- From the return of the tiles on. -/
theorem saveCtx_after_withdraw : Frame [.ctx, .tile, .vault, .link] (fun _ => False) (withdraw s k) (saveCtx s k) :=
  saveCtx_eq s k ▸ ((returnTiles_frame _ k).widen (by decide)).trans ((closeSave_frame _ k _).widen (by decide))

theorem saveCtx_frame : Frame [.csr, .ctx, .tile, .vault, .link, .net, .out, .hbm, .cxl, .freeCtr] (fun _ => True) s (saveCtx s k) :=
  ((withdraw_frame s k).widen (by decide)).trans ((saveCtx_after_withdraw s k).mono (by decide) fun _ _ => trivial)

/-! ### Routes and frames -/

/-- The save leaves the routes as the start of the save left them (R309). -/
theorem saveCtx_routes : (saveCtx s k).net.routes = s.net.routes := by
  have hn : (saveCtx s k).net = (withdraw s k).net := (saveCtx_after_withdraw s k).same .net (by decide)
  have he : ((saveFrames s k).endWatches k .busy true).net = s.net := (endWatches_saveFrames_frame s k).same .net (by decide)
  rw [hn, ← he]
  rfl

/-- No byte of a frame changes once the save area stands there. -/
theorem saveCtx_frameByte (f : FrameId) (off : Nat) : (saveCtx s k).frameByte f off = (saveFrames s k).frameByte f off := by
  have watches : Frame [.csr, .out] (fun _ => True) (saveFrames s k) ((saveFrames s k).endWatches k .busy true) :=
    endWatches_frame Frame.refl (fun _ x => x) (fun _ _ => trivial) fun _ => trivial
  have later : Frame [.csr, .out, .net, .ctx, .tile, .vault, .link] (fun _ => True) (saveFrames s k) (saveCtx s k) :=
    (State.dropClaims_frame (watches.widen (by decide)) (by decide)).trans
      ((saveCtx_after_withdraw s k).mono (by decide) fun _ _ => trivial)
  exact frameByte_congr (later.same .hbm (by decide)) (later.same .cxl (by decide)) f off

/-! ### The context -/

theorem saveTile_getCtx (vt x : Nat) : ({ (s.saveTile k vt x).getCtx k with badTiles := [] } : Ctx) = { s.getCtx k with badTiles := [] } := by
  unfold State.saveTile
  split
  · rw [State.getCtx_modCtx_self]
  · rfl

/-- The return of the tiles changes of the context no more than its list of BAD ones. -/
theorem returnTiles_getCtx : ∃ bad, (returnTiles s k).getCtx k = { s.getCtx k with badTiles := bad } := by
  have h := State.each_never (fun t => ({ t.getCtx k with badTiles := [] } : Ctx)) (f := fun s (e : Nat × Nat) => s.saveTile k e.2 e.1)
    (l := (s.getCtx k).tiles.zipIdx) (s := s) fun e _ t => saveTile_getCtx t k e.2 e.1
  exact ⟨((returnTiles s k).getCtx k).badTiles, congrArg (fun c => ({ c with badTiles := ((returnTiles s k).getCtx k).badTiles } : Ctx)) h⟩

/-- The context is SAVED in its area, with the BAD tiles that stay with it, and its partition entry is suspended. -/
theorem saveCtx_getCtx : ∃ bad, (saveCtx s k).getCtx k =
    { ({ s.getCtx k with badTiles := bad } : Ctx).saved (s.saveArea k) with part := (s.getCtx k).part.suspend } := by
  obtain ⟨bad, hbad⟩ := returnTiles_getCtx (withdraw s k) k
  have between : Frame [.vault, .link] (fun _ => False) (returnTiles (withdraw s k) k)
      (emptyLinks (returnGroups (returnTiles (withdraw s k) k) k) (s.saveArea k).links) :=
    ((returnGroups_frame _ k).widen (by decide)).trans ((emptyLinks_frame _ _).widen (by decide))
  refine ⟨bad, ?_⟩
  rw [saveCtx_eq, markSaved_getCtx, State.getCtx_congr (between.same .ctx (by decide)), hbad,
    State.getCtx_congr ((withdraw_frame s k).same .ctx (by decide))]

end

/-! ### The tiles -/

/-- A tile that has left its context (R277). -/
def Tile.returned (x : Tile) : Tile :=
  { x with state := .free, ctx := none, unclear := true, power := .off, bank := .unbound, waking := false, wakeAt := none }

section
variable {s : State} {k vt t x : Nat}

theorem saveTile_getTile (h : (s.getTile t).state ≠ .bad) : (s.saveTile k vt t).getTile t = (s.getTile t).returned := by
  rw [State.saveTile, if_neg h, State.takeTile, State.getTile_modTile_self, if_neg h, Tile.returned]

theorem saveTile_getTile_ne (h : x ≠ t) : (s.saveTile k vt t).getTile x = s.getTile x := by
  unfold State.saveTile
  split
  · rfl
  · exact State.getTile_modTile_ne _ _ _ _ h

/-- A tile that has left its context does not change where a list names it again. -/
theorem saveTiles_returned {l : List (Nat × Nat)} {y : Tile} (h : s.getTile x = y.returned) :
    (s.each l fun s e => s.saveTile k e.2 e.1).getTile x = y.returned := by
  induction l generalizing s with
  | nil => exact h
  | cons e l ih =>
    rw [State.each_cons]
    refine ih ?_
    by_cases he : x = e.1
    · rw [← he, saveTile_getTile (by rw [h]; exact TileState.noConfusion), h]
      rfl
    · rw [saveTile_getTile_ne he, h]

/-- A tile that is not BAD has left its context once its turn has come. -/
theorem saveTiles_getTile {l : List (Nat × Nat)} (h : (s.getTile x).state ≠ .bad) (hx : x ∈ l.map Prod.fst) :
    (s.each l fun s e => s.saveTile k e.2 e.1).getTile x = (s.getTile x).returned := by
  induction l generalizing s with
  | nil => cases hx
  | cons e l ih =>
    rw [State.each_cons]
    by_cases he : x = e.1
    · exact saveTiles_returned (by rw [← he]; exact saveTile_getTile h)
    · have hne := saveTile_getTile_ne (s := s) (k := k) (vt := e.2) he
      rw [ih (by rwa [hne]) ((List.mem_cons.1 hx).resolve_left he), hne]

end

section
variable (s : State) (k : Nat)

theorem saveCtx_getTile_eq (x : Nat) : (saveCtx s k).getTile x = (returnTiles (withdraw s k) k).getTile x :=
  State.getTile_congr ((closeSave_frame (returnTiles (withdraw s k) k) k (s.saveArea k)).same .tile (by decide)) x

theorem withdraw_getCtx : (withdraw s k).getCtx k = s.getCtx k := State.getCtx_congr ((withdraw_frame s k).same .ctx (by decide)) k

theorem withdraw_getTile (x : Nat) : (withdraw s k).getTile x = s.getTile x := State.getTile_congr ((withdraw_frame s k).same .tile (by decide)) x

theorem saveCtx_getTile {x : Nat} (hx : x ∈ (s.getCtx k).tiles) (h : (s.getTile x).state = .granted) :
    (saveCtx s k).getTile x = (s.getTile x).returned := by
  have hbad : ((withdraw s k).getTile x).state ≠ .bad := by rw [withdraw_getTile, h]; exact TileState.noConfusion
  rw [saveCtx_getTile_eq, returnTiles, saveTiles_getTile hbad (by rwa [List.zipIdx_map_fst, withdraw_getCtx]), withdraw_getTile]

theorem saveCtx_getTile_ne {x : Nat} (hx : x ∉ (s.getCtx k).tiles) : (saveCtx s k).getTile x = s.getTile x := by
  rw [saveCtx_getTile_eq, returnTiles, withdraw_getCtx, ← withdraw_getTile s k x]
  refine State.each_never (fun t => t.getTile x) fun e he t => saveTile_getTile_ne fun h => hx ?_
  rw [h, ← List.zipIdx_map_fst 0 (s.getCtx k).tiles]
  exact List.mem_map_of_mem he

/-! ### The groups -/

theorem groupsOf_congr {t : State} {v : Nat} (hv : t.getVault v = s.getVault v) (hg : (t.getCtx k).gen = (s.getCtx k).gen) :
    t.groupsOf k v = s.groupsOf k v := by
  rw [State.groupsOf, State.groupsOf, State.idOf, State.idOf, hv, hg]

/-- Each of a list of groups is free once dropped, and every other stays. -/
theorem dropGroups_group (v : Nat) (gs : List Nat) (g : Nat) : KMap.get none ((s.dropGroups v gs).getVault v).groups g =
    if g ∈ gs then none else KMap.get none (s.getVault v).groups g := by
  induction gs generalizing s with
  | nil => rfl
  | cons a gs ih =>
    rw [State.dropGroups, State.each_cons]
    refine (ih _).trans ?_
    rw [State.getVault_modVault_self, KMap.get_set]
    grind

theorem dropGroups_getVault_ne {v w : Nat} (gs : List Nat) (h : w ≠ v) : (s.dropGroups v gs).getVault w = s.getVault w :=
  State.each_never (fun t => t.getVault w) fun _ _ t => State.getVault_modVault_ne t _ _ _ h

theorem dropGroups_getCtx (v : Nat) (gs : List Nat) (j : Nat) : (s.dropGroups v gs).getCtx j = s.getCtx j :=
  State.each_never (fun t => t.getCtx j) fun _ _ _ => rfl

theorem groupsOf_dropGroups_self (v : Nat) : (s.dropGroups v (s.groupsOf k v)).groupsOf k v = [] := by
  have hid : (s.dropGroups v (s.groupsOf k v)).idOf k = s.idOf k := by rw [State.idOf, dropGroups_getCtx, State.idOf]
  rw [State.groupsOf, List.filter_eq_nil_iff]
  intro g hg
  rw [dropGroups_group, hid]
  split
  · next i hi =>
    split at hi
    · cases hi
    · next hn =>
      intro he
      exact hn (List.mem_filter.2 ⟨hg, by rw [hi]; exact he⟩)
  · exact Bool.false_ne_true

theorem returnGroups_groupsOf {v : Nat} (hv : v < 4) : (returnGroups s k).groupsOf k v = [] :=
  State.each_once (fun t => t.groupsOf k v) (g := fun _ => []) (List.mem_range.2 hv) List.nodup_range
    (fun t => groupsOf_dropGroups_self t k v) fun _ _ h t =>
      groupsOf_congr t k (dropGroups_getVault_ne t _ h.symm) (by rw [dropGroups_getCtx])

theorem saveCtx_groupsOf {v : Nat} (hv : v < 4) : (saveCtx s k).groupsOf k v = [] := by
  rw [saveCtx_eq, ← returnGroups_groupsOf (returnTiles (withdraw s k) k) k hv]
  have links : Frame [.link] (fun _ => False) (returnGroups (returnTiles (withdraw s k) k) k) _ := emptyLinks_frame _ (s.saveArea k).links
  have marked : Frame [.link, .ctx] (fun _ => False) _ _ :=
    (links.widen (by decide)).trans ((markSaved_frame _ k (s.saveArea k)).widen (by decide))
  refine groupsOf_congr _ k (State.getVault_congr (marked.same .vault (by decide)) v) ?_
  rw [markSaved_getCtx, State.getCtx_congr (links.same .ctx (by decide)), Ctx.saved]

/-! ### SAVE_COMPLETE -/

/-- The state in which the save of a PREEMPT ends. -/
def savedState : State := ({ saveCtx s k with cloOp := none } : State).finish .cloCmdStatus [] .ok

theorem savedState_getCtx : ∃ bad, (savedState s k).getCtx k =
    { ({ s.getCtx k with badTiles := bad } : Ctx).saved (s.saveArea k) with part := (s.getCtx k).part.suspend } := saveCtx_getCtx s k

variable {s k}

theorem exec_saveComplete_preempt {q : CtxSlot} (hst : (s.getCtx q.val).state = .saving) (hd : (s.getCtx q.val).drained = true)
    (hop : s.cloOp = some (.preempt q.val)) : exec (.saveComplete q) s = .next (savedState s q.val) := by
  refine congrArg Host.Outcome.next ?_
  rw [saveComplete, if_pos ⟨hst, hd⟩, hop]
  exact if_pos rfl

theorem savedState_frame : Frame [.csr, .ctx, .tile, .vault, .link, .net, .cloOp, .out, .hbm, .cxl, .freeCtr] (fun _ => True) s (savedState s k) :=
  State.finish_frame (Frame.cloOp ((saveCtx_frame s k).widen (by decide)) (by decide)) (by decide) trivial

/-- What a save leaves in a save frame is the record of the tile at the same place of the context's list (R282). -/
theorem savedState_records {i x : Nat} {f : FrameId} (hn : (s.getCtx k).saveFr.Nodup) (hh : f ∉ (s.getCtx k).header)
    (hx : (s.getCtx k).tiles[i]? = some x) (hf : (s.getCtx k).saveFr[i]? = some f) : (savedState s k).Records f (s.getTile x) :=
  (saveFrames_records hn hh hx hf).congr fun off _ => saveCtx_frameByte s k f off

end

/-- Settles O49: PREEMPT and the drain by the command's one effect on its context; the save step by step, each step in its frame, with the bytes of the
save frames read back from the records written there. -/
theorem saving : Obligations.Saving := by
  rintro s k c rfl
  refine ⟨fun acc h ha hst hp => ⟨preempt_inactive rfl h ha hst hp, preempt_single rfl h ha hst hp⟩,
    fun hst hd => ⟨fun h => ?drained, exec_saveDrainEnd_waits, exec_preemptTimeout_waits, fun h hop => ?timeout⟩, fun hst hd hop => ?saved⟩
  case drained =>
    exact (State.modCtx_frame (as := fun _ => False) Frame.refl (by decide)).completes (exec_saveDrainEnd_ends hst hd h)
      ⟨State.getCtx_modCtx_self _ _ _, KMap.kept_set _ _ _ _⟩
  case timeout =>
    have fr : Frame [.csr, .cloOp] (· ∈ [RegName.cloCmdStatus.addr []]) s (s.dropCloOp k.val .timeout) :=
      State.dropCloOp_frame Frame.refl (by decide) (List.mem_singleton.2 rfl)
    have he := dropCloOp_preempt .timeout hop
    exact ⟨_, fr.parts, by rw [he], ⟨he ▸ State.finish_status8 s .cloCmdStatus [] .timeout, fr.regsKept⟩, exec_preemptTimeout_ends hst hd h⟩
  case saved =>
    obtain ⟨bad, hctx⟩ := savedState_getCtx s k.val
    refine ⟨savedState s k.val, exec_saveComplete_preempt hst hd hop, savedState_frame.parts, rfl, State.finish_status8 _ _ _ .ok, ?_⟩
    rw [hctx]
    refine ⟨rfl, rfl, rfl, rfl, rfl, rfl, rfl, rfl, rfl, rfl, rfl, PartEntry.suspend_state, fun x hx hg => saveCtx_getTile s k.val hx hg,
      fun x hx => saveCtx_getTile_ne s k.val hx, fun v hv => saveCtx_groupsOf s k.val hv, saveCtx_routes s k.val, ?_⟩
    intro _ hn hh i x f hx hf
    obtain ⟨hsram, hdesc⟩ := savedState_records hn (hh f (List.mem_of_getElem? hf)).2 hx hf
    exact ⟨fun off ho => (frameRead_one _ f off).trans (congrArg (fun b => [b]) (hsram off ho)),
      fun off ho => (frameRead_one _ f _).trans (congrArg (fun b => [b]) (hdesc off ho))⟩

end Sys2Proof.Machine
end
